-- ==== Sys2Proof/Word.lean ====
section
/-!
DEFINITION. The word types of the SG-9140 model: registers are 64 bits wide (R6), memory is bytes,
sequence numbers are 32 bits (R65).
-/

namespace Sys2Proof

/-- A register, a handle or a result field: 64 bits (R6, R83, Table 4.11). -/
abbrev Word := BitVec 64

/-- One byte of hearth memory, of a region line or of a buffer read from the host. -/
abbrev Byte := BitVec 8

/-- A submission, completion, flue or flight sequence number (R65). -/
abbrev Seq := BitVec 32

end Sys2Proof
end

