-- ==== Sys2Proof/Syntax.lean ====
section
/-!
DEFINITION. The commands of the SG-9140 (spec/opcode_table.json), one constructor of `Instr` per row,
with the operand types they carry. The table gives a row no bits, so a command is not a word: it is
named, with what the outside world supplies at that moment (a value written, a pin, a measurement,
data the part reads from host memory or a frame it receives). Where the spec leaves a choice to the
part, the choice is an operand too, so that a statement holds for every choice (notes/assumptions/9.md).
-/

namespace Sys2Proof

/-- The seven rails in the order of Table 2.3. -/
inductive Rail where
  | vddCore | vddHearth | vddSerdes | vddaSerdes | vddqLp | vdd2Lp | vddAux
  deriving DecidableEq, Repr

/-- The sensors of Table 2.10. -/
inductive Sensor where
  | summit | hearth | col | foothill
  deriving DecidableEq, Repr

/-- A sensor reading in degrees Celsius, of one die of the sensor's kind. -/
structure Reading where
  sensor  : Sensor
  die     : Nat := 0
  celsius : Nat
  deriving DecidableEq, Repr

/-- How a rail crosses (R23, R46): its PGOOD_x input goes low, or its level, in mV, has stood where it is for a time
in ns. -/
inductive Crossing where
  | pgoodLow
  | level (milliVolts ns : Nat)
  deriving DecidableEq, Repr

/-- What the self-tests and the board show of a part at start-up: ridge ports that have no partner (R37), grates and
kindling units that passed (R131, R386) (notes/assumptions/162.md). -/
structure SelfTest where
  unpartnered : List Nat := []
  grates      : Nat := 16
  kindling    : Nat := 8
  deriving DecidableEq, Repr

/-- What start-up meets from step 4 on, and what step 2 found (Table 3.2): how long REFCLK has been stable, in ns;
whether the TRNG passed; flash areas (0, 1 slots; 2 configuration; 3 repair list; 4 boot record; 5 pending
configuration) that fail verification; what STARTUP_COMPLETE will report. -/
structure BootReport where
  refclkNs : Nat
  trngOk   : Bool
  flashBad : List Nat
  found    : SelfTest := {}
  deriving DecidableEq, Repr

/-- A reading at or below a throttle point, and how long the sensor has stood there, in ns (R29). -/
structure Cooled where
  reading : Reading
  stoodNs : Nat
  deriving DecidableEq, Repr

/-- A rail's return with its PGOOD_x input high: its level in mV, and how long it has stood there, in ns (R46). -/
structure RailReturn where
  rail       : Rail
  milliVolts : Nat
  ns         : Nat
  deriving DecidableEq, Repr

/-- A sampled eye: its width and height in percent of their values at the trained point (R43). -/
structure Eye where
  width  : Nat
  height : Nat
  deriving DecidableEq, Repr

/-- How a snapshot's writes to host memory end; after a failure, whether the completion ring can be written (R82). -/
inductive SnapshotWrite where
  | done
  | failed (ringOk : Bool)
  deriving DecidableEq, Repr

/-- A trained link: foothill channel 0 to 95 or ridge lane 0 to 47 (R43). -/
inductive Link where
  | channel (n : Nat)
  | lane (n : Nat)
  deriving DecidableEq, Repr

/-- Where a descriptor came from: a local queue pair and its submission number, or a request that
another part sent over the ridge (R86, R260). -/
inductive Origin where
  | qp (q : Nat) (seq : Seq)
  | ridge (part : Nat) (req : Nat)
  deriving DecidableEq, Repr

/-- What made a supply reset (R51). -/
inductive SupplyCause where
  | longEpisode
  | resetLevel (r : Rail) (milliVolts ns : Nat)
  deriving DecidableEq, Repr

/-- The destination's answer to a MOVE (Table 5.10, R111): where it is ready, the new handle and the parts of its group,
by stage (R106). -/
inductive MoveAnswer where
  | unreachable | notBound | noSlot | noRoom
  | ready (handle : Word) (group : List Nat)
  deriving DecidableEq, Repr

/-- The twin's account of one of its copies, about 24 bytes a page (R141): the pair, the tag, whether the copy passes
its check, whether its pair can be read at all (R142); and the coded copy itself, fetched where Table 6.11 needs it. -/
structure TwinCopy where
  page   : Nat
  epoch  : Nat
  wseq   : Nat
  tag    : BitVec 128
  intact : Bool
  known  : Bool
  data   : List Byte := []
  deriving DecidableEq, Repr

/-- The answer of a part that holds a share of a session, to its home (R13, R100): done, with the bytes it has placed or
the pages it still has dirty; no room; pages lost, 0 with their lender, 1 revoked, 2 poisoned (R113); copies that
differ. -/
inductive ShareAnswer where
  | done (count : Nat)
  | full
  | lost (why : Nat)
  | conflict
  deriving DecidableEq, Repr

/-- A read of a hearth column that met errors (R163 to R165): how many of its 8-bit symbols, data and check bits, were in
error. -/
structure ReadError where
  ember   : Nat
  row     : Nat
  column  : Nat
  symbols : Nat
  deriving DecidableEq, Repr

/-- What a phase meets that reads a session's pages: the twin's account of its copies (R141), the time in µs that the
phase takes, a revive's (Table 5.9) or a rebuild's (R114), and the answers of the parts that hold the other stages'
shares, in the order of the group (R100), and the errors that the grates' reads of hearth pages meet (R165)
(notes/assumptions/153.md). -/
structure Recovery where
  twin   : List TwinCopy := []
  micros : Nat := 0
  shares : List ShareAnswer := []
  errs   : List ReadError := []
  deriving DecidableEq, Repr

/-- A descriptor that starts to act on a session: where it came from, and what the phase meets that reads the session's
pages. -/
structure Start where
  origin : Origin
  how    : Recovery := {}
  deriving DecidableEq, Repr

/-- A revive, or the rebuild that takes its place: its time in µs (Table 5.9), and what else it meets. -/
structure Revival where
  micros : Nat
  shares : List ShareAnswer := []
  errs   : List ReadError := []
  deriving DecidableEq, Repr

/-- A session whose cairn comes due, and what the phase meets that reads its pages (R360). -/
structure Due where
  slot : Nat
  how  : Recovery := {}
  deriving DecidableEq, Repr

/-- The end of a round of a move: the session's slot, and the pages that the other participating parts have dirty as it
ends (R108). -/
structure RoundEnd where
  slot  : Nat
  dirty : List Nat := []
  deriving DecidableEq, Repr

/-- A command of a broadcaster (Table 7.3), and the requests whose work its slices are (R154). -/
structure Broadcast where
  word : BitVec 64
  reqs : List Origin := []
  deriving DecidableEq, Repr

/-- A direct-mode command (R171), and the columns that its reads find in error before correction. -/
structure DirectRead where
  word : Word
  errs : List ReadError := []
  deriving DecidableEq, Repr

/-- A turn of the scans (R270): its length in µs, and blocks whose hearth and home copies both fail their checks, by index
slot, as 65,536 × cell + block (R271). -/
structure ScanSpan where
  micros   : Nat
  poisoned : List (Nat × Nat) := []
  deriving DecidableEq, Repr

/-- What a home asks of a part that holds a share of one of its sessions (R13): park it, with the PARK's fields; revive
it, keeping a copy (R143); rebuild it (R114); send its pages to a part, under a handle there, all or the dirty ones
(R106); make a parked copy of it for another handle (SNAPSHOT), with the PARK's `where`; free its dead pages (R126);
end it (R92). -/
inductive ShareAct where
  | park (tier : Nat) (noNarrow : Bool)
  | revive (keep : Nat)
  | rebuild
  | send (dest : Nat) (handle : Word) (dirtyOnly : Bool)
  | copy (handle : Word) (tier : Nat)
  | freeDead
  | close
  deriving DecidableEq, Repr

/-- What stage 0 holds of one column when a step closes: the raw FP32 logits of the vocabulary, in
identifier order (Table 8.3 row 4); where another part's queue pair fetched the GENERATE, the records its flue ring has
room for, as that part tells (R80, R86); and what a rebuild meets where the step finds pages lost (R114). -/
structure ColumnLogits where
  slot   : Nat
  logits : List (List (BitVec 32))
  room   : Nat := 0
  how    : Recovery := {}
  deriving DecidableEq, Repr

/-- One session's position of a draft pass (R181, R238): the items' partial sums of the draft model's FP32 logits over the
vocabulary. -/
structure Draft where
  slot  : Nat
  parts : List (List (BitVec 32))
  deriving DecidableEq, Repr

/-- A per-column record of an activation frame (R176, R177, R220): the session's handle, the committed length it
carries, the columns that ride on the frame, the position of the first of them, the session's classes and its variant
(R101, R102, R196; notes/assumptions/132.md). -/
structure ColumnRecord where
  handle    : Word
  length    : Nat
  columns   : Nat
  position  : Nat := 0
  cls       : Nat := 0
  durability : Nat := 0
  variant   : Nat := 0
  deriving DecidableEq, Repr

/-- An activation frame (R176); the image is named by the image_id that every stage shares. `residual` is the residual
stream of every column in BF16, the columns in the order of the records. -/
structure ActFrame where
  image   : Nat
  batch   : Nat
  step    : Nat
  epoch   : Nat
  records : List ColumnRecord
  residual : List (List (BitVec 16)) := []
  deriving DecidableEq, Repr

/-- The pieces of work of a decode step (Table 8.1). -/
inductive LayerWork where
  | residual | projections | rotary | kvWrite | scores | lookout | softmax | weightedSum | outputProjection | feedForward
  | nonlinearity | finalNorm | head | sampler | draftModel | mask
  deriving DecidableEq, Repr

/-- An entry of an image's work-table programs (R173): the work it does, the ember and index it is written to, the entry
itself (Table 7.5). -/
structure WorkEntry where
  work  : LayerWork
  ember : Nat
  index : Nat
  entry : BitVec 128
  deriving DecidableEq, Repr

/-- A ridge frame header (Table 13.1), its fields in order. -/
structure FrameHeader where
  version    : Nat
  type       : Nat
  cls        : Nat
  forwarded  : Bool
  retransmit : Bool
  length     : Nat
  srcPart    : Nat
  dstPart    : Nat
  dstAddr    : Nat
  srcAddr    : Nat
  epoch      : Nat
  fseq       : Seq
  ack        : Seq
  tenant     : Nat
  reqId      : Nat
  object     : Word
  deadlineUs : Nat
  status     : BitVec 16
  deriving DecidableEq, Repr

/-- A change of the Ikivan map (Table 13.2). Extent states are numbered 0 OFFERED, 1 BORROWED,
2 REVOKING, 3 REVOKED, 4 RELEASED; part states 0 joining, 1 up, 2 down. -/
inductive MapChange where
  | part (number : Nat) (address : Nat) (state : Nat)
  | twinOf (part : Nat) (twin : Nat)
  | keepers (members : List Nat) (leader : Nat) (term : Nat)
  | extent (handle : Word) (state : Nat) (borrower : Nat)
  | extentGone (handle : Word)
  | region (handle : Word) (shared : Bool)
  | regionGone (handle : Word)
  | activation (digest : BitVec 384) (epoch : Nat) (coldMode : Bool)
  deriving DecidableEq, Repr

/-- What a map frame says (R291, R292): a commit, a whole replica as the changes that build it, a change
proposed to the leader, the rejection of one, a suspect reported to the leader (R288), or a part's call for
an epoch it has missed. -/
inductive MapBody where
  | commit (epoch : Nat) (changes : List MapChange)
  | whole (epoch : Nat) (changes : List MapChange)
  | propose (change : MapChange)
  | rejected (change : MapChange)
  | suspect (part : Nat)
  | fetch (epoch : Nat)
  deriving DecidableEq, Repr

/-- An armed cairn schedule (R360, Table 16.5): the descriptor that armed it, when its last cairn was, the TUNE_STEP
commits since, whether an early-warning trigger makes the next one due (R362). -/
structure Schedule where
  armer    : Origin
  kv       : Bool
  interval : Nat
  every    : Nat
  slotMib  : Nat
  slotA    : Nat
  slotB    : Nat
  seed     : Word
  lastNs   : Nat
  steps    : Nat := 0
  due      : Bool := false
  deriving DecidableEq, Repr

/-- Stored moments (R224): BF16, or blocks of 32 values with one exponent byte. -/
inductive Moments where
  | bf16 (values : List (BitVec 16))
  | blocks (blocks : List (Nat × List Int))
  deriving DecidableEq, Repr

/-- Tuning state (R224): step count, data_position, the form of new moments, the variant's records as they were last written
back, the master copies and the two moments of every value, record after record. -/
structure Tuning where
  t        : Nat := 0
  data     : Nat := 0
  eightBit : Bool := false
  records  : List Byte := []
  master   : List (BitVec 32) := []
  first    : Moments := .bf16 []
  second   : Moments := .bf16 []
  deriving DecidableEq, Repr

/-- A recorded step of a replay (Table 18.2 kind 2): session length, then tokens with FP16 logit and
log-sum-exp. -/
structure ReplayStep where
  length : Nat
  tokens : List (Nat × BitVec 16 × BitVec 16)
  deriving DecidableEq, Repr

/-- A running SESSION_GENERATE (R98, Table 5.8). -/
structure Gen where
  origin    : Origin
  maxTokens : Nat := 0
  specLen   : Nat := 0
  temp      : BitVec 16 := 0
  topK      : Nat := 0
  topP      : BitVec 16 := 0
  stops     : List Nat := []
  grammar   : Bool := false
  forceEos  : Bool := false
  committed : Nat := 0
  step      : Nat := 0
  batch     : Option Nat := none
  stalled   : Bool := false
  drafts    : List (Nat × List (Nat × Nat)) := []
  planned   : Nat := 0
  refilled  : Bool := false
  store     : Bool := false
  replay    : Option (List ReplayStep) := none
  compared  : Nat := 0
  outside   : Nat := 0
  maskOff   : Bool := false
  deriving DecidableEq, Repr

/-- One session as another part sends it, its record and log (R106, R351): from the twin, with whether its
pages come with it, or from the source of a move, with the GENERATE that goes on at the destination: its
descriptor, the part and request that it answers to, its tokens so far and its step, and the µs left of its deadline. The
class registers are those in force at its open (R101), none where they did not come along; `pairs` is the pair of each
page (R140), `tags` the digests of the pages sent (Table 5.14). -/
structure Restored where
  slot     : Nat
  gen      : Nat
  tenant   : Nat
  image    : Word
  variant  : Nat
  cls      : Nat
  durability : Nat
  context  : Nat
  seed     : Word
  grammar  : Option (BitVec 384)
  grammarBytes : Nat
  start    : Nat
  maxStack : Nat
  gstate   : Nat
  gstack   : List Nat
  log      : List (Nat × Nat)
  waiting  : List (Nat × Nat)
  parked   : Bool
  hasPages : Bool
  epoch    : Nat
  wseq     : Nat
  layers   : List (List (Nat × Nat × List (BitVec 32)))
  summaries : List Nat
  tuning   : Option Tuning
  schedule : Option Schedule
  cairns   : Nat × List (Nat × Nat) := (0, [])
  tclass   : Option Word := none
  kvclass  : Option Word := none
  tail     : List Byte := []
  bypassed : Bool := false
  streamFlag : Bool := false
  deadlineUs : Nat := 0
  pairs    : List (Nat × Nat × Nat) := []
  tags     : List (Nat × BitVec 128) := []
  running  : Option (BitVec 512 × Gen)
  deriving DecidableEq, Repr

/-- What a request frame asks (R285, R295). The spec gives no payload layout; the payload is held by
its meaning. -/
inductive Request where
  | descriptor (desc : BitVec 512) (param : List Byte) (operator : Bool)
  | endOf (req : Nat)
  | claim (extent : Word)
  | extentRead (extent : Word) (granule count : Nat)
  | extentWrite (extent : Word) (granule : Nat) (data : List Byte)
  | lineRead (region : Word) (line : Nat) (sealedView : Bool)
  | digestRead (region : Word) (page : Nat)
  | lineWrite (region : Word) (line : Nat) (offset : Nat) (data : List Byte)
  | mapper (region : Word) (view : Nat)
  | unmapper (region : Word)
  | imageReport (imageId : BitVec 128) (stage : Nat)
  | unloadAsk (imageId : BitVec 128)
  | variant (imageId : BitVec 128) (number tenant : Nat) (records : List Byte)
  | slotEntry (slot : Nat) (gen : Nat) (state : Nat) (durability : Nat)
  | genFloor (floor : Nat)
  | share (handle : Word) (act : ShareAct)
  | dropMove (handle : Word)
  | poisonCopy (handle : Word) (page : Nat)
  | dropCopies (handle : Word)
  deriving DecidableEq, Repr

/-- What a page-data frame carries (type 8): a page of a session that moves here, its record and log at
the hand-over (R106), a page for a lent extent, a buddy copy for the partner, or a restored copy for this
part with its kind of place. -/
inductive PageKind where
  | session (parked : Bool)
  | handed (r : Restored)
  | lent (extent : Word)
  | buddy (handle : Word) (epoch wseq : Nat)
  | restored (slot : Nat)
  deriving DecidableEq, Repr

/-- A frame as received: the port, the header, whether the frame check, the tag and the FEC were good. -/
structure Received where
  port  : Nat
  hdr   : FrameHeader
  crcOk : Bool
  tagOk : Bool
  fecOk : Bool
  deriving DecidableEq, Repr

/-- The content of a key exchange carried by keepalives (R335): what the peer's certificates and
configuration header show. -/
structure PeerOffer where
  chainOk    : Bool
  leafEqual  : Bool
  domain     : Nat
  part       : Nat
  address    : Nat
  deriving DecidableEq, Repr

/-- A slot entry of a partner, as the twin keeps it (R348). -/
structure SlotEntry where
  slot       : Nat
  gen        : Nat
  durability : Nat
  parked     : Bool
  deriving DecidableEq, Repr

/-- A cairn object in a form that the spec does not lay out (Table 16.2): its kind, its stage, its bytes. -/
structure CairnObject where
  kind  : Nat
  stage : Nat
  data  : List Byte
  deriving DecidableEq, Repr

/-- One cairn slot as read from host memory on restore (R361): the seal, the manifest, the shards in the order of the
manifest's entries, and what its record, log and coded pages of this part's stage say. -/
structure CairnSlot where
  sealBits : BitVec 512
  manifest : List Byte
  shards   : List (List Byte)
  record   : Restored
  pages    : List (Nat × List Byte)
  deriving DecidableEq, Repr

/-- Stove operand formats (Table 10.1). -/
inductive StoveFormat where
  | fp4 | e4m3 | e5m2 | bf16
  deriving DecidableEq, Repr

/-- The forms in which stove results leave (R227). -/
inductive StoveResult where
  | fp32 | bf16 | e4m3 | e5m2
  deriving DecidableEq, Repr

/-- A row of stove operands as it lies in private crest (Table 10.1): its format, its bytes, the exponent bytes of its blocks of
32 values in FP4, its FP32 scale in FP8. -/
structure StoveRow where
  format    : StoveFormat
  data      : List Byte
  exponents : List Byte := []
  scale     : BitVec 32 := 0x3F800000
  deriving DecidableEq, Repr

/-- The operand tiles of a work item and the form of its results (R226, R227): every row of one by every row of the other. -/
structure StoveTile where
  left   : List StoveRow
  right  : List StoveRow
  result : StoveResult
  deriving DecidableEq, Repr

/-- How a work item ends: whether the island's private crest verified when it was cleared for a tenant's next item
(Table 15.9), and the operand tiles of the item (R226). -/
structure ItemDone where
  crestOk : Bool
  tile    : StoveTile
  deriving DecidableEq, Repr

/-- Final-norm outputs of a document, token after token, as binary32 values (R241). -/
abbrev TokenRows := List (List (BitVec 32))

/-- A measured interval of the stove split controller (R233). Busy figures are percent of item time. -/
structure SplitSample where
  daBusy        : Nat
  waitedOver5us : Bool
  pfQueued      : Bool
  pfQueuedEver  : Bool
  encQueued     : Bool
  deriving DecidableEq, Repr

/-- A flue record before it takes its flue_seq: Table 4.14 from bit 32 upward. -/
structure FlueRecord where
  kind       : Nat
  tokens     : List Nat
  text       : List Byte
  more       : Bool
  invalid    : Bool
  stop       : Nat
  handle     : Word
  genSeq     : Seq
  step       : Nat
  deriving DecidableEq, Repr

/-- A flight record before it takes its flight_seq (Table 18.1). -/
structure FlightRecord where
  kind    : Nat
  count   : Nat
  handle  : Word
  epoch   : Nat
  payload : List Byte
  gap     : Nat := 0
  deriving DecidableEq, Repr

/-- What a response frame carries: the end of a request, with result and condition bits; a flue record
of a generation run for this part's queue pair (R86); a flight record of a session (R377); the home's
answer to a mapper, the region's size in 64 MiB and kind; the data of an extent, line or digest read,
with its version where the view is sealed; bytes for the out_ptr of a descriptor. -/
inductive ResponseBody where
  | done (result : Word) (conds : List Nat)
  | flue (r : FlueRecord)
  | flight (q : Nat) (r : FlightRecord)
  | data (bytes : List Byte) (version : Option Nat)
  | toHost (addr : Nat) (bytes : List Byte)
  | mapped (units : Nat) (shared digest : Bool)
  deriving DecidableEq, Repr

/-- The commands of the SG-9140, one constructor per row of spec/opcode_table.json, in its order (notes/assumptions/40.md)
(notes/assumptions/58.md). -/
inductive Instr where
  /-- REGISTER_WRITE (R7): offset in the window, access width in bytes, value. -/
  | registerWrite (off width : Nat) (val : Word)
  /-- POWER_ON_RESET (R40). -/
  | powerOnReset
  /-- SEQUENCE_FAULT (R23): the rail that rose too early. -/
  | sequenceFault (r : Rail)
  /-- PORST_N_ASSERT (R40): with the sensors' readings, which R29 has the part check. -/
  | porstNAssert (temps : List Reading)
  /-- PORST_N_RELEASE (R35): the straps, what start-up meets, and the banks that fail self-test beyond repair. -/
  | porstNRelease (straps : BitVec 4) (boot : BootReport) (failedBanks : List Nat)
  /-- FOOTHILL_TRAINING_DONE (R37): channels that fail. -/
  | foothillTrainingDone (failed : List Nat)
  /-- RIDGE_TRAINING_DONE (R37): port, lanes trained, partner is a part. -/
  | ridgeTrainingDone (port : Nat) (lanes : BitVec 8) (partnerPart : Bool)
  | startupComplete
  /-- COLD_RESTART (R35): as PORST_N_RELEASE, with the straps sampled before. -/
  | coldRestart (boot : BootReport) (failedBanks : List Nat)
  | warmrstNAssert
  /-- WARMRST_N_RELEASE (R41): links whose margin check fails. -/
  | warmrstNRelease (marginFails : List Link)
  | warmResetRecoveryEnd
  | watchdogFire
  | thermalTrip (t : Reading)
  | thermalThrottle (t : Reading)
  | thermalThrottleRelease (c : Cooled)
  /-- EXTENDED_REFRESH_CHANGE (R160): whether any hearth die now stands above 85 °C. -/
  | extendedRefreshChange (above : Bool)
  | throttleNAssert
  | throttleNRelease
  /-- POWER_CAP_EVALUATION (R25): package power over the cap window and over 1 ms, in W; VDD_CORE
  current and every rail's current, in A, averaged over 100 µs. -/
  | powerCapEvaluation (windowWatts milliWatts coreAmps : Nat) (railAmps : List Nat)
  /-- DIP_EPISODE_BEGIN (R48): the rail and how it crosses. -/
  | dipEpisodeBegin (r : Rail) (c : Crossing)
  | railRecovered (r : RailReturn)
  | dipEpisodeEnd
  | supplyReset (c : SupplyCause)
  /-- MARGIN_CHECK (R43): link, eye, die temperature. -/
  | marginCheck (l : Link) (eye : Eye) (celsius : Nat)
  /-- RETRAIN_END (R44): link and the temperature at which it was trained anew. -/
  | retrainEnd (l : Link) (celsius : Nat)
  /-- HOST_LINK_UP (R52): modules up, modules at half width, rate code, lanes repaired. -/
  | hostLinkUp (modules half : BitVec 4) (rate repairs : Nat)
  | hostLinkDown
  | attach (val : Word)
  | qpTableBaseWrite (val : Word)
  /-- QP_ENABLE (R61): the context entry read, `none` when that read failed. -/
  | qpEnable (q : Nat) (ctx : Option (BitVec 512))
  | qpFreeze (q : Nat)
  | qpResume (q : Nat) (ctx : Option (BitVec 512))
  | qpSnapshot (q : Nat) (write : SnapshotWrite)
  | qpDisable (q : Nat)
  | qpDisableDone (q : Nat)
  | sqTailWrite (q : Nat) (val : Word)
  | cqHeadWrite (q : Nat) (val : Word)
  | flueHeadWrite (q : Nat) (val : Word)
  | flightHeadWrite (q : Nat) (val : Word)
  /-- DESCRIPTOR_FETCH (R71): the 64 bytes read from the slot of `sq_next`. -/
  | descriptorFetch (q : Nat) (desc : BitVec 512)
  | seqReread (q : Nat) (desc : BitVec 512)
  /-- DMA_ERROR (R63): the descriptor concerned, if one is; the host address; whether the completion
  ring can still be written. -/
  | dmaError (q : Nat) (about : Option Seq) (addr : Word) (ringOk : Bool)
  | irqCoalesceTimeout (q : Nat)
  | nop (o : Origin)
  | queueCancel (o : Origin)
  /-- SESSION_OPEN (R95): grammar bytes at param_ptr; the slot the part chooses. -/
  | sessionOpen (o : Origin) (param : List Byte) (slot : Nat)
  /-- SESSION_APPEND (R96): the input at param_ptr; what a rebuild meets (R114). -/
  | sessionAppend (w : Start) (param : List Byte)
  | sessionGenerate (w : Start) (param : List Byte)
  | sessionPark (w : Start)
  /-- SESSION_REVIVE (R100): the twin's account of its copies (R141), and the revive. -/
  | sessionRevive (o : Origin) (twin : List TwinCopy) (phase : Revival)
  | sessionMove (w : Start) (answer : MoveAnswer)
  | moveRoundEnd (r : RoundEnd)
  | moveHandover (slot : Nat)
  | sessionSnapshot (w : Start) (slot : Nat)
  | sessionClose (o : Origin)
  | deadlineExpire (o : Origin)
  | stubExpire (slot : Nat)
  /-- MIGRATION_SWITCH (R121): the session's slot, the page index, whether the copy succeeded. -/
  | migrationSwitch (slot page : Nat) (ok : Bool)
  | autoPark
  | demotion
  | promotion
  /-- FOOTHILL_CLEAR (R342): whether the oldest uncleared granules verify. -/
  | foothillClear (verified : Bool)
  | activationFrame (f : ActFrame)
  /-- STEP_COMMIT (R177): the batch and the logits of its columns. -/
  | stepCommit (batch : Nat) (cols : List ColumnLogits)
  | buddyAcknowledge (slot : Nat)
  | grammarMask (slot column : Nat)
  /-- TOKENISE (R246): the descriptor, the segment's number, its trust and its text. -/
  | tokenise (o : Origin) (segment : Nat) (trust : Nat) (text : List Byte)
  | draftPass (batch : Nat) (drafts : List Draft)
  | draftRefill (slot : Nat)
  | prefillChunkEnd (slot : Nat)
  | workItemEnd (island : Nat) (e : ItemDone)
  | splitInterval (m : SplitSample)
  /-- EMBED_BATCH (R241): documents at param_ptr; the encoder's final-norm outputs for the documents in order, none where an
encoder item failed uncorrectably; documents past the list wait for a later EMBED_BATCH of the same descriptor. -/
  | embedBatch (o : Origin) (param : List Byte) (outputs : List (Option TokenRows))
  /-- TUNE_STEP (R223): examples; the mean loss, and for each layer record what the backward pass has summed for every
  channel c over the positions, in FP32: dh[c], and dh[c] × h[c]. -/
  | tuneStep (w : Start) (param : List Byte) (loss : BitVec 32) (sums : List (List (BitVec 32) × List (BitVec 32)))
  /-- IMAGE_LOAD (R190): the image, the tenant bitmap, the group list. -/
  | imageLoad (o : Origin) (image : List Byte) (tenants : List Byte) (group : List Nat)
  | imageLoadComplete (slot : Nat)
  | stageWaitTimeout (slot : Nat)
  | imageUnload (o : Origin)
  /-- VARIANT_LOAD (R197): the records; whether the other stages' variant stores have room. -/
  | variantLoad (o : Origin) (param : List Byte) (stagesFit : Bool)
  | variantRemove (o : Origin)
  | workTableWrite (ember entry : Nat) (val : BitVec 128)
  | idle (summit : Nat) (cmd : Broadcast)
  /-- The ember operations (R152): the summit die, the broadcast command, what the broadcaster has filled into
  the activation half since (empty where nothing), the errors the reads meet. -/
  | matvec (summit : Nat) (cmd : Broadcast) (acts : List Byte) (scales : List (BitVec 32)) (errs : List ReadError)
  | score (summit : Nat) (cmd : Broadcast) (acts : List Byte) (scales : List (BitVec 32)) (errs : List ReadError)
  | bindot (summit : Nat) (cmd : Broadcast) (acts : List Byte) (errs : List ReadError)
  /-- KVWRITE (R155): the window's bytes, and how many of the values that the stoves converted for it
  saturated (R204). -/
  | kvwrite (summit : Nat) (cmd : Broadcast) (acts : List Byte) (saturated : Nat) (errs : List ReadError)
  | summary (summit : Nat) (cmd : Broadcast) (errs : List ReadError)
  | topkLocal (summit : Nat) (cmd : Broadcast)
  /-- CLEAR (R167, R168): the barrier slack of its banks in ns, and the rows that fail verification. -/
  | clear (summit : Nat) (cmd : Broadcast) (slackNs : Nat) (errs : List ReadError)
  /-- COPYROW (R156): the command with the errors its reads meet. -/
  | copyrow (summit : Nat) (c : Broadcast × List ReadError)
  /-- REFRESH_DUE (R160, R161): the summit die whose banks share the schedule. -/
  | refreshDue (summit : Nat)
  /-- PATROL_SCRUB (R164): a row, the bank's slack in ns, and the errors the read meets. -/
  | patrolScrub (ember row slackNs : Nat) (errs : List ReadError)
  | retireBank (ember : Nat)
  | bankRetireComplete (ember : Nat)
  | directModeSet (val : Word)
  | patternWrite (val : Word)
  | patternCheck (c : DirectRead)
  | emberTest (val : Word) (failing : List Nat)
  | ucodeLoad (val : Word)
  | rowRepair (val : Word)
  | marginScan (val : Word) (fails : List (Nat × Nat))
  | dmcReturn (val : Word)
  | dmcBadOperation (val : Word)
  | searchQuery (o : Origin) (param : List Byte) (poisoned : List Nat)
  | scanTurn (summit : Nat) (span : ScanSpan)
  | indexInsert (o : Origin) (param : List Byte)
  | indexDelete (o : Origin) (param : List Byte)
  | indexDrop (o : Origin)
  | indexCreate (o : Origin) (param : List Byte) (slot : Nat)
  | indexMerge (o : Origin)
  | mergeFreeOld (slot : Nat)
  /-- HOST_MEM_READ (R56): byte offset in the range; an uncorrectable error in the line read. -/
  | hostMemRead (off : Nat) (errs : List ReadError)
  | hostMemWrite (off : Nat) (data : List Byte)
  | requestFrame (f : Received) (req : Request)
  /-- RESPONSE_FRAME (R296). -/
  | responseFrame (f : Received) (body : ResponseBody)
  /-- INVALIDATE (R309, R312): the line, or none for the new version that a seal sends to a sealed view. -/
  | invalidate (f : Received) (region : Word) (line : Option Nat)
  | invalidateAcknowledge (f : Received) (region : Word) (line : Option Nat)
  | mapFrame (f : Received) (body : MapBody)
  | acknowledge (f : Received)
  | keepalive (f : Received) (offer : Option PeerOffer)
  | pageData (f : Received) (kind : PageKind) (page : Nat) (data : List Byte)
  | retransmitTimeout (addr : Nat)
  | keepaliveSend
  | peerSuspect (addr : Nat)
  | partDownDetect (part : Nat)
  | peerLostTimeout (part : Nat)
  | mapPropose (change : MapChange)
  | mapCommit (changes : List (Nat × MapChange))
  | leaderElection (winner term : Nat)
  | mapWaitTimeout (o : Origin)
  | ridgePortStateChange (port : Nat) (state : Nat)
  | linkKeyExchange (addr : Nat) (offer : PeerOffer)
  | linkRekey (addr : Nat)
  | extentLend (o : Origin)
  /-- EXTENT_CLAIM (R299): the OFFERED extent this part claims. -/
  | extentClaim (extent : Word)
  | extentRelease (extent : Word)
  | extentRevoke (o : Origin)
  | gracePeriodEnd (extent : Word)
  | regionCreate (o : Origin)
  | regionMap (o : Origin)
  | regionUnmap (o : Origin)
  | regionPublish (o : Origin)
  | regionPublishQuery (o : Origin)
  | twinPropose (val : Word)
  | twinOutOfService
  | twinInService
  | twinRestore (floor : Nat) (entries : List SlotEntry) (sessions : List Restored)
  | takeover (standby : Nat)
  /-- CAIRN_WRITE (R358, R359): the objects whose form the spec does not lay out; whether the host writes succeed. -/
  | cairnWrite (w : Start) (held : List CairnObject) (writeOk : Bool)
  | cairnArm (o : Origin)
  | cairnDisarm (o : Origin)
  /-- CAIRN_RESTORE (R361): the two slots as read, whether the other stages' variant stores have room, the session slot the
  part chooses. -/
  | cairnRestore (o : Origin) (a b : CairnSlot) (stagesFit : Bool) (slot : Nat)
  | cairnDue (w : Due) (held : List CairnObject) (writeOk : Bool)
  /-- EARLY_WARNING_CHECK (R362): corrected foothill reads and ridge codewords of the last second. -/
  | earlyWarningCheck (foothill ridge : Nat)
  | fwBlockWrite (o : Origin) (digest : BitVec 384) (data : List Byte) (flashOk : Bool)
  | fwBlockVerify (o : Origin)
  | fwBlockActivate (o : Origin)
  | fwBlockAbort (o : Origin)
  | firmwareSwitch
  | quiesceTimeout
  | quiesceRetry
  | imageConfirm (allCores allDies : Bool)
  | confirmWindowExpire
  | fwReject (val : Word)
  | recoveryDownload (val : Word)
  /-- RECOVERY_DOWNLOAD_DONE (R374): the image read from host memory, `none` when the read failed;
  whether the flash took it. -/
  | recoveryDownloadDone (image : Option (List Byte)) (flashOk : Bool) (failedBanks : List Nat)
  | getVersion
  | getCapabilities
  | negotiateAlgorithms (ecdsaP384 sha384 : Bool)
  | getDigests
  | getCertificate (slot offset length : Nat)
  | challenge (slot : Nat) (nonce : BitVec 256)
  | getMeasurements (index : Nat) (nonce : BitVec 256)
  | spdmUnsupportedRequest (code : Nat)
  | trngHealthFail
  | tenantCounterRefresh (tenant : Nat)
  | tenantPowerRefresh (watts : Nat)
  | bellowsFrameBoundary (port : Nat)
  | gateEntryBoundary (port : Nat)
  | gclCommit (val : Word)
  | gclDiscard (val : Word)
  | gclTakeEffect (port : Nat)
  | shaperWrite (val : Word)
  /-- DAMPER_WRITE (R325): 0 BLW_DMP_CTL, 1 BLW_DMP_RATE, 2 BLW_DMP_BURST, and the value. -/
  | damperWrite (reg : Nat) (val : Word)
  | injectDisarm (val : Word)
  | injectCorrectedError (val : Word)
  | injectUncorrectableError (val : Word)
  | injectPageCheckFail (val : Word)
  | injectFrameTagFail (val : Word)
  | injectSupplyHold (val : Word)
  | railRise (r : Rail)
  | hostModuleLost (m : Nat)
  | epochApplyTimeout (o : Nat)
  deriving DecidableEq, Repr

end Sys2Proof
end

