-- ==== Sys2Proof/Machine/Bits.lean ====
section
/-!
DEFINITION. Bit fields, byte order and saturating counts, as R4 and the field tables use them.
-/

namespace Sys2Proof.Machine

/-- Field [hi:lo] of a value, as a number (bit 0 is the least significant, R4). -/
def fld {n : Nat} (w : BitVec n) (hi lo : Nat) : Nat := (w.toNat >>> lo) % 2 ^ (hi + 1 - lo)

/-- Bit i of a value. -/
def bit {n : Nat} (w : BitVec n) (i : Nat) : Bool := w.toNat.testBit i

/-- A field placed at its low bit, cut to the width the field has. -/
def put (hi lo v : Nat) : Nat := (v % 2 ^ (hi + 1 - lo)) <<< lo

/-- A flag placed at its bit. -/
def putBit (i : Nat) (b : Bool) : Nat := if b then 1 <<< i else 0

/-- A register value from its placed fields. -/
def word (parts : List Nat) : Word := BitVec.ofNat 64 (parts.foldl (· + ·) 0)

/-- A low and a high half. -/
def halves (lo hi : Nat) : Word := word [put 31 0 lo, put 63 32 hi]

/-- The number that little-endian bytes spell (R4). -/
def leNat : List Byte → Nat
  | [] => 0
  | b :: bs => b.toNat + 256 * leNat bs

/-- The n little-endian bytes of a number (R4). -/
def leBytes : Nat → Nat → List Byte
  | 0, _ => []
  | n + 1, v => BitVec.ofNat 8 v :: leBytes n (v / 256)

/-- n bytes from offset o; short where the input ends. -/
def slice {α : Type} (bs : List α) (o n : Nat) : List α := (bs.drop o).take n

/-- The little-endian number in n bytes from offset o. -/
def leAt (bs : List Byte) (o n : Nat) : Nat := leNat (slice bs o n)

/-- Field [hi:lo] of a structure held as bytes, bit 0 in byte 0 (R4). -/
def bfld (bs : List Byte) (hi lo : Nat) : Nat :=
  (leNat (slice bs (lo / 8) (hi / 8 + 1 - lo / 8)) >>> (lo % 8)) % 2 ^ (hi + 1 - lo)

/-- A counter of the given width that stops at its largest value ("saturating"). -/
def sat (width v : Nat) : Nat := min v (2 ^ width - 1)

/-- One more, saturating at a width of bits. -/
def bump (width v : Nat) : Nat := sat width (v + 1)

/-- A value held within bounds (R392, "clamped"). -/
def clamp (lo hi v : Nat) : Nat := max lo (min hi v)

/-- Division rounded up. -/
def ceilDiv (a b : Nat) : Nat := (a + b - 1) / b

/-- Greatest power of two not above a count, 0 for 0 (R343). -/
def powerFloor (n : Nat) : Nat := if n = 0 then 0 else 2 ^ n.log2

/-- 32-bit distance from a up to b, modulo 2^32 (R65). -/
def dist (a b : Seq) : Nat := (b - a).toNat

/-- "a is before b" of R65: 0 < (b - a) mod 2^32 < 2^31. -/
def seqBefore (a b : Seq) : Bool := 0 < dist a b && dist a b < 2 ^ 31

/-- n items numbered from a. -/
def upFrom : Nat → Nat → List Nat
  | _, 0 => []
  | a, n + 1 => a :: upFrom (a + 1) n

/-- The entry of a keyed list. -/
def lookupBy {α : Type} (key : α → Nat) (k : Nat) (l : List α) : Option α :=
  l.find? (fun x => key x == k)

/-- Put an entry into a keyed list, in the place of the one with its key, or at the end. -/
def upsert {α : Type} (key : α → Nat) (x : α) : List α → List α
  | [] => [x]
  | y :: ys => if key y = key x then x :: ys else y :: upsert key x ys

/-- Take the entry with a key out of a keyed list. -/
def dropKey {α : Type} (key : α → Nat) (k : Nat) (l : List α) : List α :=
  l.filter (fun x => key x != k)

/-- Split a list into pieces of n, in at most the given number of pieces. -/
def chunks {α : Type} (n : Nat) : Nat → List α → List (List α)
  | 0, _ => []
  | fuel + 1, l => if l.isEmpty then [] else l.take n :: chunks n fuel (l.drop n)

/-- Replace element i. -/
def setAt {α : Type} : List α → Nat → α → List α
  | [], _, _ => []
  | _ :: xs, 0, y => y :: xs
  | x :: xs, i + 1, y => x :: setAt xs i y

/-- Insert into a list kept in an order, after the entries that are not later. -/
def insertBy {α : Type} (before : α → α → Bool) (x : α) : List α → List α
  | [] => [x]
  | y :: ys => if before x y then x :: y :: ys else y :: insertBy before x ys

/-- Sort by insertion; equal entries keep their order. -/
def sortBy {α : Type} (before : α → α → Bool) (l : List α) : List α :=
  l.foldl (fun acc x => insertBy before x acc) []

/-- The hearth die of an ember: ember = die × 128 + bank (R147). -/
def emberDie (e : Nat) : Nat := e / 128

/-- The list without repeats, first occurrences kept. -/
def dedup (l : List Nat) : List Nat :=
  l.foldl (fun acc x => if acc.contains x then acc else acc ++ [x]) []

end Sys2Proof.Machine
end

