-- ==== Sys2Proof/Config.lean ====
section
/-!
DEFINITION. What the spec leaves open, as constants without a body: nothing proves a value of them, so
a claim holds for every value. Each is named by a row of notes/assumptions.
-/

namespace Sys2Proof.Config

/-- The n-th draw of the firebox's TRNG after conditioning (R333): keys, seeds. Free value (notes/assumptions/13.md). -/
opaque trng : Nat → BitVec 384

/-- What a reserved register field reads (Table 0.3: RSV reads undefined), by register offset and read
count. Free value. -/
opaque rsv : Nat → Nat → Word

/-- NFKC normalisation of a text run's bytes (R246): Unicode's tables are outside the spec. -/
opaque nfkc : List Byte → List Byte

/-- The automaton of a compiled grammar, whose body is in Hezer's layout (R254): from a state and a
stack, over a token, to a state and a stack; none where it cannot consume the token (notes/assumptions/16.md). -/
opaque grammarStep : BitVec 384 → Nat → List Nat → Nat → Option (Nat × List Nat)

/-- Whether a state of a compiled grammar is final (R257). -/
opaque grammarFinal : BitVec 384 → Nat → Bool

/-- The rounding of a token's probability, and of a running sum at a place, in the sampler (R394): each within 2^-20, and
the part does not fix it. By the distribution as computed exactly. Free values (notes/assumptions/15.md). -/
opaque probError : List (Nat × Nat) → Nat → Nat
opaque sumError : List (Nat × Nat) → Nat → Nat

/-- A token's row of an image's token embedding table, as binary32 values (R174): image_id, token, channel. The spec gives
the table no layout. Free value. -/
opaque embedding : BitVec 128 → Nat → Nat → BitVec 32

/-- What a layer's embers and stoves make of a column's residual stream, before its variant (Table 8.1): image_id, layer,
session handle, position, the stream that enters, channel. Free value: the order of its sums is not fixed (R158). -/
opaque layer : BitVec 128 → Nat → Word → Nat → List (BitVec 32) → Nat → BitVec 32

/-- The kind that the coded pages of a backing copy name: Table 6.6 numbers none for weights (R193). Free value
(notes/assumptions/79.md). -/
opaque backingKind : Nat

/-- The work-table entries of a work-table section, which is in Hezer's layout (Table 8.7), for a part with these banks
retired (R169, R173). -/
opaque workTables : List Byte → List Nat → List WorkEntry

/-- A token's log-sum-exp over the vocabulary as FP16 (Table 18.2). -/
opaque logSumExp : List (BitVec 32) → BitVec 16

/-- An ECDSA P-384 signature verifies: key bytes, message, signature. -/
opaque ecdsaOk : List Byte → List Byte → List Byte → Bool

/-- A DER certificate chain, leaf first, verifies to the Nalweras root whose digest the ROM holds; its
leaf key. -/
opaque chainLeaf : List Byte → Option (List Byte)

/-- A DER device certificate chain certifies the derived public key of this part (R326). -/
opaque certifiesDevice : List Byte → Bool

/-- SHA-384 of this part's device public key (R329). -/
opaque deviceKeyDigest : BitVec 384

/-- SHA-384 of this part's DER device certificate (Table 17.2). -/
opaque deviceCertDigest : BitVec 384

/-- SHA-384 of the boot ROM (Table 15.3). -/
opaque romDigest : BitVec 384

/-- Fill of the shared crest's part for session records, in percent, and the place of a session in the part's
page-list table: the spec lays out neither (Tables 5.17, 6.14). Free values (notes/assumptions/18.md). -/
opaque crestPct : Nat → Nat
opaque pageList : Nat → Nat

/-- The device certificate chain written at manufacture, DER, leaf first (R326). -/
opaque deviceChain : List Byte

/-- The device's signature over a transcript (R327, R328). -/
opaque deviceSign : List Byte → List Byte

/-- AES-256-XTS of one data unit: key, tweak, plaintext (R334; notes/assumptions/12.md; notes/assumptions/144.md). -/
opaque xtsEncrypt : BitVec 384 → Nat → List Byte → List Byte

/-- The placement plan that an image for a group of up to eight parts carries for a traffic class (R123), in a
layout the spec does not give: park tier (2 the pool, else the foothill tier), lenders in order, demotion allowed. -/
opaque plan : BitVec 128 → Nat → Nat × List Nat × Bool

/-- Switch hops on the ridge from one part to another (R124): the spec lays out no topology. Free value. -/
opaque hops : Nat → Nat → Nat

/-- A key's or value's channel as the stoves computed it for a position, in FP32 before its conversion (R204, R209): session
handle, write sequence of the commit, layer of the stage, key head, position, whether a value, channel. Free value: the
order of the sums that give it is not fixed (R158). -/
opaque kvValue : Word → Nat → Nat → Nat → Nat → Bool → Nat → BitVec 32

/-- A column's query as the embers score it, FP8 (R209, R218): session handle, layer of the stage, query head, position.
Free value (notes/assumptions/156.md). -/
opaque query : Word → Nat → Nat → Nat → List Byte

/-- Bytes of a page that the spec does not lay out or fix: tuning state (R224), dead entries of drafts (R200); by session
handle, page, write sequence. Free value. -/
opaque kvContent : Word → Nat → Nat → List Byte

/-- The global norm of gradients, and a decay rate to the power of the step count, in FP32 (R223): the spec does not fix how
they are rounded. Free values. -/
opaque gradNorm : List (BitVec 32) → BitVec 32
opaque betaPower : BitVec 32 → Nat → BitVec 32

/-- Whether a session's record lies on summit die 1, by its handle (R243, Table 6.2). Free value. -/
opaque recordDie : Word → Bool

/-- Whether an item's operands lie on summit die 1, by the item's arrival (R230): the tile order is Hezer's. Free value. -/
opaque operandDie : Nat → Bool

/-- A channel of the pooled vector of a document without a token (R241): the spec states no result. Free value
(notes/assumptions/159.md). -/
opaque emptyPool : Nat → BitVec 32

/-- The code that begins the second half of a split cell (Table 12.8 row 4): the spec names 2-means
and not its start (notes/assumptions/19.md). -/
opaque splitSeed : List (List Byte) → Nat

/-- The narrowed form of a block of 32 values that holds a NaN: its exponent byte and six-bit values. -/
opaque narrowNan : List Byte → Nat × List Nat

/-- Pages that a session's page table and its token log take beside the page of its record and grammar state, and the
content of each of these pages, by session handle and write sequence (R117): the spec gives them no layout. Free values. -/
opaque tablePages : Word → Nat → Nat
opaque logPages : Word → Nat → Nat
opaque recordContent : Word → Nat → Nat → List Byte

/-- Whether the crest's part for session records has room for a session's record, grammar state and page table, by
session handle and write sequence (R118). Free value (notes/assumptions/160.md). -/
opaque crestRoom : Word → Nat → Bool

/-- Length in words of 4 bytes of a ridge payload to which the spec gives no layout. Free value. -/
opaque payloadLength : Nat → Nat

/-- The attention probabilities that a commit adds to a slot's score: session handle, layer, key head, committed positions,
slot (R213). Free value: it depends on results the embers and stoves compute. -/
opaque attentionScore : Word → Nat → Nat → Nat → Nat → BitVec 32

/-- The place of a binary32 value that is not a number among the candidates of TOPK_LOCAL: the spec orders
numbers only. Free value. -/
opaque nanKey : BitVec 32 → Int

/-- The maximum (true) or minimum of FP8 values of which one is not a number (R205). Free value. -/
opaque extremeNan : Bool → List Byte → Byte

/-- Which doorbell a DOORBELL_BAD event names for HST_DB_FLIGHT_HEAD: Table 4.13 numbers the other three
and does not number it. Free value (notes/assumptions/17.md). -/
opaque flightDoorbell : Nat

end Sys2Proof.Config
end

