-- ==== Sys2Proof/Machine/State.lean ====
section
/-!
DEFINITION. The state of one SG-9140 as plain data: every register, ring, table, buffer, mode and pin
the spec gives the part (INVENTORY.md lists them with their rules), the queue of waiting commands, and
`State.reset`, the part right after a power-on reset (R40). Default field values are reset values.
-/

namespace Sys2Proof.Machine

/-- Status codes of Table 0.5. -/
inductive Status where
  | ok | okPartial | okReplayed | okTruncated
  | sessionUnknown | sessionBusy | grammarDead | deadlineMissed | cancelled | contextFull
  | revoked | extentUnmapped | poisoned | copyConflict | tierFull
  | staleEpoch | publishConflict | peerLost | twinLost
  | doesNotFit | formatUnsupported | versionRefused | queueFull
  | accessDenied | imageNotBound | signatureBad
  | brownoutRetry | stateLost | hardwareFault
  deriving DecidableEq, Repr

/-! ### Pins, power, start-up -/

/-- Pins and the sampled straps (Table 2.2, R36). -/
structure Pins where
  porstN       : Bool := false
  warmrstN     : Bool := true
  throttleN    : Bool := true
  supplyAlertN : Bool := true
  thermTripN   : Bool := true
  faultN       : Bool := true
  straps       : BitVec 4 := 0
  deriving DecidableEq, Repr

/-- One rail as the firebox sees it (R23, R46): it has reached 90 % of nominal in its group; its PGOOD_x input is high;
it stands below its warning level, or its recovery is pending; it has fallen to its reset level since it was up. -/
structure RailState where
  up        : Bool := false
  pgood     : Bool := false
  below     : Bool := false
  fell      : Bool := false
  deriving DecidableEq, Repr

/-- A channel's or lane's training (R43, R44): link 0 to 95 a channel, 96 + n lane n; the temperature is
that of the first check after training (notes/assumptions/24.md); the moment of its last check; whether it is due to
retrain and waits for its turn (Table 3.5) or for the end of a hold (R45). -/
structure Trained where
  link       : Nat
  celsius    : Option Nat := none
  margin     : Nat := 100
  retraining : Bool := false
  retired    : Bool := false
  checkedAt  : Option Nat := none
  due        : Bool := false
  deriving DecidableEq, Repr

/-- A sensor that throttles (R29): its kind, its die, the moment it last stood at its throttle point. -/
structure Throttling where
  sensor : Sensor
  die    : Nat
  at'    : Nat
  deriving DecidableEq, Repr

/-- What kind of work a hold interrupts (Table 3.9). -/
inductive HeldWork where
  | step (batch : Nat)
  | chunk (slot : Nat)
  | scan (slot : Nat)
  | embed
  | clearing
  | copy (slot page : Nat)
  | grate
  deriving DecidableEq, Repr

/-- Power, thermal state, dip episodes, reset status (R20 to R51). `dipActive` is hold_active of
Table 3.11; `heldNow` is whether work stands still now (R48, R49); the shed counts are clock steps of
250 MHz of the embedding, prefill and decode-assist islands (R26), and ember pacing in quarters of an idle slice, a step
that the spec does not give (notes/assumptions/48.md). `dipLastUp` is the last return above a recovery level,
`dipRecoveredAt` the moment at which the last rail counted as recovered (R47). `checkNext` is where the rotation of
margin checks stands, `rotWorst` the worst channel of the rotation so far, `marginFailures` the checks that have failed,
`warmDue` the links whose one margin check a warm reset's recovery still owes (R41 to R44). `found` is what start-up found of
the part (R37, R131, R386). -/
structure Power where
  rails        : List RailState := [{}, {}, {}, {}, {}, {}, { up := true }]
  pgoodSince   : Option Nat := none
  seqFault     : Bool := false
  faultGroup   : Nat := 0
  heldInReset  : Bool := true
  capCtl       : Word := 0x0000047E000A0640
  powerWatts   : Nat := 0
  coreAmps     : Nat := 0
  capHit       : Bool := false
  shedEmbed    : Nat := 0
  shedPrefill  : Nat := 0
  shedDecode   : Nat := 0
  emberPacing  : Nat := 0
  quietSince   : Option Nat := none
  throttled    : List Throttling := []
  tripped      : Bool := false
  tripHot      : Bool := false
  extended     : Bool := false
  dipActive    : Bool := false
  dipInjected  : Bool := false
  injectedLen  : Nat := 0
  dipStart     : Nat := 0
  dipLastUp    : Nat := 0
  dipRecoveredAt : Nat := 0
  dipRails     : List Rail := []
  dipSeen      : Bool := false
  dipCount     : Nat := 0
  lastDipUs    : Nat := 0
  dipEnd       : Option Nat := none
  heldNow      : Bool := false
  held         : List HeldWork := []
  lastCause    : Nat := 0
  bootStage    : Nat := 0
  ready        : Bool := false
  everReady    : Bool := false
  stateLost    : Bool := true
  configDefault : Bool := false
  bootCount    : Nat := 0
  warmHeld     : Bool := false
  recovering   : Bool := false
  foothillDone : Bool := false
  links        : List Trained := []
  marginCtl    : Word := 0x0000000000014664
  foothillRetrains : Nat := 0
  ridgeRetrains    : Nat := 0
  worstChannel : Nat := 0
  worstMargin  : Nat := 0
  checkNext    : Nat := 0
  rotWorst     : Option (Nat × Nat) := none
  marginFailures : Nat := 0
  warmDue      : List Nat := []
  found        : SelfTest := {}
  watchdogs    : List Nat := []
  deriving DecidableEq, Repr

/-! ### Host port -/

/-- Queue-pair states (Table 4.4). -/
inductive QpState where
  | disabled | enabled | frozen | halted
  deriving DecidableEq, Repr

/-- A queue-pair context entry (Table 4.3). -/
structure QpContext where
  sqBase        : Nat := 0
  cqBase        : Nat := 0
  flueBase      : Nat := 0
  snapBase      : Nat := 0
  sqLog2        : Nat := 0
  cqLog2        : Nat := 0
  flueLog2      : Nat := 0
  tenant        : Nat := 0
  operator      : Bool := false
  pasid         : Nat := 0
  msix          : Nat := 0
  irqEnable     : Bool := false
  sqInit        : Seq := 0
  cqInit        : Seq := 0
  flueInit      : Seq := 0
  coalesceCount : Nat := 0
  coalesceUs    : Nat := 0
  maxInflight   : Nat := 0
  deriving DecidableEq, Repr

/-- A completion before it takes its cq_seq (Table 4.11). -/
structure Completion where
  subSeq : Seq
  tag    : Word
  status : BitVec 16
  opcode : Nat
  kind   : Nat
  conds  : BitVec 28
  result : Word
  irqNow : Bool
  deriving DecidableEq, Repr

/-- A flight ring (R376 to R379): the registers, the ring in force, and its counts. -/
structure FlightRing where
  baseReg : Word := 0
  ctlReg  : Word := 0xFF00
  base    : Nat := 0
  log2    : Nat := 0
  mask    : Nat := 0
  next    : Seq := 0
  head    : Seq := 0
  held    : List FlightRecord := []
  dropped : Nat := 0
  gap     : Nat := 0
  deriving DecidableEq, Repr

/-- A queue pair (R58 to R82). A queue pair that is not listed is DISABLED with all counts zero.
`flueLock` is the class whose step records are being written to the ring without a break (R79);
`signal`, `signalAt` are the entries not yet signalled and the moment of the first (R74). -/
structure QueuePair where
  id        : Nat
  state     : QpState := .disabled
  cause     : Nat := 0
  ctx       : QpContext := {}
  sqTail    : Seq := 0
  sqNext    : Seq := 0
  cqHead    : Seq := 0
  cqNext    : Seq := 0
  flueHead  : Seq := 0
  flueNext  : Seq := 0
  held      : List Completion := []
  reReads   : Nat := 0
  signal    : Nat := 0
  signalAt  : Option Nat := none
  snapCount : BitVec 32 := 0
  flueLock  : Option Nat := none
  flight    : FlightRing := {}
  deriving DecidableEq, Repr

/-- True counts and latched, coarsened values of one tenant, and when they were last refreshed (R343). -/
structure TenantCounters where
  tenant   : Nat
  counts   : List Nat := [0, 0, 0, 0, 0, 0]
  latched  : List Nat := [0, 0, 0, 0, 0, 0]
  updates  : Nat := 0
  refreshed : Option Nat := none
  deriving DecidableEq, Repr

/-- The host port (R52 to R82). `serving`, `served` are the queue pair whose turn it is and its descriptors fetched in
the turn (R71); `orphans` counts the descriptors that a DISABLE has ended and that run on (R104). -/
structure HostPort where
  modulesUp   : BitVec 4 := 0
  halfWidth   : BitVec 4 := 0
  rate        : Nat := 0
  laneRepairs : Nat := 0
  linkDrop    : Bool := false
  attachReg   : Word := 0
  attached    : Bool := false
  compat      : Bool := false
  version     : Nat := 0
  serving     : Nat := 0
  served      : Nat := 0
  orphans     : Nat := 0
  attachStatus : BitVec 16 := 0
  tableBase   : Word := 0
  cmdBusy     : Bool := false
  cmdAt       : Nat := 0
  cmdResult   : Nat := 0
  cmdQp       : Nat := 0
  cmdState    : QpState := .disabled
  qps         : List QueuePair := []
  tenants     : List TenantCounters := []
  powerLatched : Nat := 0
  powerAt     : Option Nat := none
  deriving DecidableEq, Repr

/-- Where a descriptor in flight stands. `rejected`: failed a check at fetch and waits on a fence
(R75). `sent`: sent to its home part (R86). `ended`: its completion waits for its records (R74). `aborted`: a warm reset
ended it, and it completes with CANCELLED at RESUME (R64). `follows`: its completion is written after
that of another descriptor (R77, R92). -/
inductive Phase where
  | waiting | running
  | rejected (s : Status)
  | sent (part req : Nat)
  | ended (result : Word)
  | aborted (result : Word)
  | follows (target : Origin) (result : Word)
  deriving DecidableEq, Repr

/-- How far an embedding batch has come (R241, R242): documents behind it, documents inserted or written, documents
truncated. -/
structure Embedding where
  seen : Nat := 0
  done : Nat := 0
  cut  : Nat := 0
  deriving DecidableEq, Repr

/-- The registers whose values at its fetch a descriptor keeps: TND_DECODE_CTL, SRCH_CTL, DGN_REPLAY_CTL (Table 19.11). -/
structure FetchSettings where
  decode : Word
  srch   : Word
  replay : Word
  deriving DecidableEq, Repr

/-- A descriptor in flight (R71, R72); `settings` are those in force at its fetch; `partial'` is the flue records of one step that have come from its home part, until
the last of them (R79). -/
structure InFlight where
  origin   : Origin
  tenant   : Nat
  operator : Bool
  raw      : BitVec 512
  phase    : Phase := .waiting
  fetched  : Nat := 0
  deadline : Option Nat := none
  conds    : List Status := []
  discard  : Bool := false
  tries    : Nat := 0
  waitsMap : Option Nat := none
  resendAt : Option Nat := none
  replay   : Bool := false
  settings : Option FetchSettings := none
  partial' : List FlueRecord := []
  embed    : Option Embedding := none
  deriving DecidableEq, Repr

/-! ### Sessions -/

/-- Resting states of Table 5.1, and `restoring` of R351. -/
inductive Resting where
  | free | resident | parked | suspended | moved | lost | restoring
  deriving DecidableEq, Repr

/-- Page states of Table 6.4 with the page's place: a hearth frame, foothill granules, granules of a
borrowed extent from its first. Coded pages are held as their coded bytes (Table 6.6). -/
inductive PagePlace where
  | hearth (frame : Nat)
  | foothill (granules : Nat) (coded : List Byte)
  | pool (extent : Word) (first granules : Nat) (coded : List Byte)
  | lost (why : Status)
  deriving DecidableEq, Repr

/-- Where a page's copy is under way to: the home foothill tier, or granules of a borrowed extent from its first (R121). -/
inductive PageTarget where
  | home
  | pool (extent : Word) (first : Nat)
  deriving DecidableEq, Repr

/-- A page of a session on this part (R117, R120, R140). -/
structure Page where
  index     : Nat
  kind      : Nat
  place     : PagePlace
  dirty     : Bool := false
  epoch     : Nat := 0
  wseq      : Nat := 0
  target    : Option PageTarget := none
  deriving DecidableEq, Repr

/-- A running prefill: an APPEND's, or that of pending tokens at REVIVE or GENERATE (R97, R234).
`chunk` is c of R234, `left` the chunk ends still to come on all stages, `after` what follows:
0 completes the APPEND, 1 completes a REVIVE, 2 starts the generation. -/
structure Prefill where
  origin    : Origin
  tokens    : List (Nat × Nat)
  own       : Nat
  chunk     : Nat
  left      : Nat
  truncated : Bool := false
  after     : Nat := 0
  micros    : Nat := 0
  deriving DecidableEq, Repr

/-- A running SESSION_MOVE (R106 to R110); `group` is the parts of the destination's group by stage, `req` the request
under which its pages go. -/
structure Move where
  origin   : Origin
  dest     : Nat
  handle   : Word
  parked   : Bool
  group    : List Nat := []
  req      : Nat := 0
  round    : Nat := 1
  armed    : Bool := false
  sent     : List Nat := []
  sitsOut  : Bool := false
  skip     : Bool := false
  deriving DecidableEq, Repr

/-- One class A layer of a session: its slots that hold committed positions, with the eviction scores of each by key head
(R212, R213). -/
structure Layer where
  slots : List (Nat × Nat × List (BitVec 32)) := []
  deriving DecidableEq, Repr

/-- A session slot that has been used since the last cold reset (R83 to R114). Slots not listed are
LOST (R42). A `guest` is the share that this part, as a later stage, holds of a session homed elsewhere
(R13, R220): it stands under a slot of this part that no session uses (R117), its `log` tells the committed
length alone, and its handle is the home's. `parkPlaced` is the coded pages of a PARK that waits for the twin (R346): the
session keeps its hearth pages until then (Table 5.13). -/
structure Session where
  slot      : Nat
  gen       : Nat := 0
  state     : Resting := .free
  tenant    : Nat := 0
  image     : Word := 0
  variant   : Nat := 0
  cls       : Nat := 0
  durability : Nat := 0
  tclass    : Word := 0
  kvclass   : Word := 0
  context   : Nat := 0
  seed      : Word := 0
  grammar   : Option (BitVec 384) := none
  start     : Nat := 0
  maxStack  : Nat := 0
  gstate    : Nat := 0
  gstack    : List Nat := []
  bypassed  : Bool := false
  log       : List (Nat × Nat) := []
  pending   : List (Nat × Nat) := []
  wseq      : Nat := 0
  epoch     : Nat := 0
  tail      : List Byte := []
  streamFlag : Bool := false
  lastCommit : Nat := 0
  parkedAt  : Nat := 0
  prefill   : Option Prefill := none
  gener     : Option Gen := none
  move      : Option Move := none
  pages     : List Page := []
  layers    : List Layer := []
  summaries : List Nat := []
  reads     : List (Nat × List Nat) := []
  kvLost    : Option Status := none
  conflict  : Bool := false
  movedTo   : Word := 0
  expires   : Nat := 0
  recorder  : Option Nat := none
  replaying : Bool := false
  tuning    : Option Tuning := none
  schedule  : Option Schedule := none
  cairnSeq  : Nat := 0
  cairnSlots : List (Nat × Nat) := []
  acks      : Nat := 0
  copied    : Bool := false
  parkWaits : Option (Origin × Nat) := none
  parkPlaced : List Page := []
  heldRecords : List (Origin × FlueRecord) := []
  maskReady : Nat := 0
  maskWaited : Bool := false
  pageKey   : Nat := 0
  guest     : Option Word := none
  deriving DecidableEq, Repr

/-- A sweep batch (R179): its number, image slot and the slots of the sessions with columns; `drafting` is whether its step
waits for drafts, with the commit records of `leaving` sessions that then go with its activations (R177, R181), `back`
whether the frame of its step has come back from the last stage (R177). -/
structure Batch where
  id      : Nat
  image   : Nat
  columns : List (Nat × Nat) := []
  step    : Nat := 0
  drafting : Bool := false
  leaving : List ColumnRecord := []
  back    : Bool := false
  resting : Bool := false
  deriving DecidableEq, Repr

/-- Sessions, classes, batches (R83 to R116, R179); `passing` is the batches that reach this part as a later stage: image
slot, batch number, columns (Table 8.15). -/
structure Sessions where
  table      : List Session := []
  floor      : Nat := 1
  retired    : List Nat := []
  moveCtl    : Word := 0x0000000027101060
  decodeCtl  : Word := 0x00000000000A0018
  tclass     : List Word := List.replicate 8 4
  kvclass    : List Word := List.replicate 8 0x0000010000200080
  rqtIndex   : Word := 0
  priority   : List (Nat × Nat) := []
  suspendedSeen : Bool := false
  batches    : List Batch := []
  passing    : List (Nat × Nat × Nat) := []
  arrivals   : Nat := 0
  gate       : Bool := false
  deriving DecidableEq, Repr

/-! ### Tiers -/

/-- A hearth frame that is in use or awaits its clear, with its tag (Table 15.8) and the rows of it that have
verified as cleared, one bit each (R167). -/
structure Frame where
  number  : Nat
  tenant  : Nat
  shared  : Bool := false
  clearing : Bool := false
  cleared : Nat := 0
  deriving DecidableEq, Repr

/-- Freed foothill storage on its old owner's uncleared list, oldest first (R341). -/
structure Uncleared where
  tenant   : Nat
  granules : Nat
  failed   : Bool := false
  extent   : Option Word := none
  deriving DecidableEq, Repr

/-- A count per second of the local counter: the second last counted in, its count, and the count of the
second before it. -/
structure PerSecond where
  second : Nat := 0
  now    : Nat := 0
  prev   : Nat := 0
  deriving DecidableEq, Repr

/-- A page's pool read or write that waits for a credit of its lender (R137). -/
structure PoolWait where
  lender  : Nat
  cls     : Nat
  request : Request
  tenant  : Nat
  extent  : Word
  deriving DecidableEq, Repr

/-- Tiers (R117 to R143); `poolQueue` is the transfers that wait for a credit, oldest first (R137). -/
structure Tiers where
  placeCtl   : Word := 0x0010100046_5A5F05
  crestCtl   : Word := 0x10
  frames     : List Frame := []
  uncleared  : List Uncleared := []
  retiredGranules : Nat := 0
  grates     : Nat := 0
  codedBytes : PerSecond := {}
  plainBytes : PerSecond := {}
  tagFailures : Nat := 0
  staleRepaired : Nat := 0
  failedRepaired : Nat := 0
  conflicts  : Nat := 0
  conflictSeen : Bool := false
  poolQueue  : List PoolWait := []
  deriving DecidableEq, Repr

/-! ### Hearth -/

/-- Hearth bank states (Table 7.16). -/
inductive BankState where
  | inService | retiring | retired | failed
  deriving DecidableEq, Repr

/-- A value pair of a top-k list: value, index (R154). -/
abbrev TopEntry := BitVec 32 × Nat

/-- One ember and its bank (Table 7.2, R161, R168, R169). Embers not listed stand at reset values. `topk`
holds pairs by list number, `scanned` and `candidates` the records that the BINDOT slices of the run have
read before the last one and in it (R269), `accColumn` the column whose token scale the accumulators take, where they are
a SCORE's (R148), `failedCols` columns that have failed once (Table 7.8). -/
structure Ember where
  number   : Nat
  state    : BankState := .inService
  table    : List (Nat × BitVec 128) := []
  acc      : List (Nat × BitVec 32) := []
  accColumn : Option Nat := none
  topk     : List (Nat × TopEntry) := []
  scanned  : Nat := 0
  candidates : Nat := 0
  budgetNs : Nat := 0
  lastTenant : Nat := 0
  repairs  : List Nat := []
  corrected : Nat := 0
  uncorrectable : Nat := 0
  emberPass : Bool := false
  patternPass : Bool := false
  skipTimes : List Nat := []
  ucode    : Nat := 0
  failedCols : List (Nat × Nat) := []
  deriving DecidableEq, Repr

/-- What a slice sends out: ember, first output, values (R156, R157). -/
structure Emission where
  ember  : Nat
  base   : Nat
  values : List (BitVec 32)
  pairs  : List TopEntry := []
  deriving DecidableEq, Repr

/-- A run that a broadcaster is inside: its commands so far had cont set (R152); the dies it addresses, and whether its
slices are column-split (R161). -/
structure BroadcastRun where
  summit : Nat
  dies   : Nat
  split  : Bool
  deriving DecidableEq, Repr

/-- The hearth tier (R144 to R172). `owedShared` is the refreshes that the banks of a summit die owe, which
fall due together (R160), `runs` the runs that broadcasters are inside, `buffers` the activation halves last broadcast, by
summit × 2 + half, `scales` the token scales by summit (R148), `emitted` what the last command sent out. -/
structure Hearth where
  mem       : List Host.Cell := []
  embers    : List Ember := []
  dieDirect : List Nat := []
  emitted   : List Emission := []
  shareCtl  : Word := 0x0000000000010A02
  corrected : Nat := 0
  correctedMark : Nat := 0
  uncorrectable : Nat := 0
  ueSeen    : Bool := false
  ueDie     : Nat := 0
  ueBank    : Nat := 0
  forced    : Nat := 0
  maxOwed   : Nat := 0
  formatErrors : Nat := 0
  sel       : Word := 0
  dieBusy   : Bool := false
  operand   : Word := 0
  dmcResult : Nat := 0
  dmcRow    : Nat := 0
  dmcCount  : Nat := 0
  dmcSpare  : Nat := 0
  dmcBank   : Nat := 0
  scanUsed  : List (Nat × Nat × Nat) := []
  owedShared : List (Nat × Nat) := []
  runs      : List BroadcastRun := []
  buffers   : List (Nat × List Byte) := []
  scales    : List (Nat × List (BitVec 32)) := []
  deriving DecidableEq, Repr

/-! ### Images and variants -/

/-- One vocabulary entry (Table 11.2). -/
structure Piece where
  text  : List Byte
  kind  : Nat
  emit  : Bool
  score : BitVec 32
  deriving DecidableEq, Repr

/-- A loaded vocabulary (Table 11.1) with the digest of its section. -/
structure Vocab where
  nfkc     : Bool := false
  byteBase : Nat := 0
  eos      : Nat := 0
  pieces   : List Piece := []
  bytes    : Nat := 0
  digest   : BitVec 384 := 0
  deriving DecidableEq, Repr

/-- A head-group map (Tables 9.1, 9.2): die masks of the groups, in order; key and value scales by layer and key head
(R201). -/
structure HeadMap where
  groups   : Nat := 0
  perGroup : Nat := 0
  latentRank : Nat := 0
  dieMasks : List Nat := []
  scales   : List (BitVec 32 × BitVec 32) := []
  deriving DecidableEq, Repr

/-- A variant of an image (R195 to R198). -/
structure Variant where
  number  : Nat
  tenant  : Nat
  records : List Byte
  used    : Nat := 0
  resident : Bool := false
  deriving DecidableEq, Repr

/-- Image slot states (Table 8.15). -/
inductive ImageState where
  | empty | loading | waiting | ready | unloading
  deriving DecidableEq, Repr

/-- An image slot (R187 to R194). `weightFrames` are the frames that its weight rows take in every bank
(notes/assumptions/27.md), `outBanks` the banks whose rows are spread over their dies' other banks and `extraFrames` the
further frames of every bank of a die for them (R169, R191), `copy` the backing copy, coded page after page (R193),
`tables` its work-table section, `weightsLost` that a retirement found no room for some rows (R169). -/
structure Image where
  slot      : Nat
  state     : ImageState := .empty
  loads     : Nat := 0
  origin    : Option Origin := none
  id        : BitVec 128 := 0
  encoder   : Bool := false
  stages    : Nat := 1
  stage     : Nat := 0
  layerFirst : Nat := 0
  layers    : Nat := 0
  hidden    : Nat := 0
  qHeads    : Nat := 0
  kvHeads   : Nat := 0
  headDim   : Nat := 0
  wfmtMask  : Nat := 0
  latent    : Bool := false
  draft     : Bool := false
  draftWindow : Nat := 0
  draftSlots  : Nat := 0
  framesPerBank : Nat := 0
  weightFrames : List Nat := []
  outBanks  : List Nat := []
  extraFrames : List (Nat × List Nat) := []
  copy      : List (List Byte) := []
  tables    : List Byte := []
  storeFrames : Nat := 0
  variantMib : Nat := 0
  variantSlots : Nat := 0
  crestKib  : Nat := 0
  contextK  : Nat := 0
  backing   : Nat := 0
  tenants   : Option (List Byte) := none
  group     : List Nat := []
  waitUntil : Nat := 0
  map       : HeadMap := {}
  vocab     : Vocab := {}
  variants  : List Variant := []
  projection : List Byte := []
  measured  : BitVec 384 := 0
  weightsLost : Bool := false
  deriving DecidableEq, Repr

/-- Image slots, and the stages of images that other parts have reported as loaded: image_id, stage, part (R192). -/
structure Images where
  slots : List Image := []
  reports : List (BitVec 128 × Nat × Nat) := []
  deriving DecidableEq, Repr

/-! ### Stoves and kindling -/

/-- Island roles (R231). -/
inductive Role where
  | decode | prefill | embed
  deriving DecidableEq, Repr

/-- A stove work item (Table 10.2): its rank within the role, its tenant. -/
structure Item where
  role   : Role
  rank   : Nat
  order  : Nat
  tenant : Nat
  die    : Nat := 0
  deriving DecidableEq, Repr

/-- A stove island (R229 to R232). `results` are those of the item that ended last on it (R227). -/
structure Island where
  number  : Nat
  role    : Role
  queue   : List Item := []
  running : Option Item := none
  tenant  : Option Nat := none
  leaving : Option Role := none
  stoves  : Nat := 8
  results : List Byte := []
  deriving DecidableEq, Repr

/-- Stoves (R226 to R242). -/
structure Stoves where
  islands   : List Island := []
  splitCtl  : Word := 0x0000051000001002
  moves     : Nat := 0
  waitSeen  : Bool := false
  docs      : Nat := 0
  docsRate  : PerSecond := {}
  waiting   : List Item := []
  truncated : Nat := 0
  crestClears : Nat := 0
  deriving DecidableEq, Repr

/-- A stored grammar (R255). -/
structure Grammar where
  digest : BitVec 384
  tenant : Nat
  bytes  : Nat
  users  : List Nat
  deriving DecidableEq, Repr

/-- Work of a kindling unit (R243): the mask of a column of a session, a text segment of an APPEND or a document of an
EMBED_BATCH. A step's text is turned out in the commit itself (notes/assumptions/11.md). -/
inductive KindlingWork where
  | mask (slot column : Nat)
  | tokens (o : Origin) (segment : Nat)
  deriving DecidableEq, Repr

/-- Kindling (R243 to R259). `queues` are those of the units in service, by unit, units 0 to 3 on summit die 0. -/
structure Kindling where
  units     : Nat := 0
  queues    : List (Nat × List KindlingWork) := []
  storeCtl  : Word := 0x0100
  grammars  : List Grammar := []
  genDead   : Nat := 0
  forcedEos : Nat := 0
  inReplaced : Nat := 0
  outReplaced : Nat := 0
  tokenised : List (Origin × Nat × List Nat) := []
  deriving DecidableEq, Repr

/-! ### Search -/

/-- A posting record (Table 12.2). -/
structure Posting where
  code    : List Byte
  attr    : Nat
  range0  : Nat
  range1  : Nat
  key     : Nat
  deleted : Bool := false
  deriving DecidableEq, Repr

/-- A cell of an index graph (R263, R267). -/
structure IndexCell where
  node     : Nat
  centroid : List Byte
  edges    : List Nat
  dead     : Bool := false
  records  : List Posting := []
  hot      : Bool := false
  used     : Nat := 0
  banks    : List Nat := []
  deriving DecidableEq, Repr

/-- A found record with its place: distance, cell (the scree after every cell), place within it. -/
structure Hit where
  dist  : Nat
  cell  : Nat
  place : Nat
  key   : Nat
  deriving DecidableEq, Repr

/-- A query that runs (R268 to R273, R278): its descriptor, none for a sample that is run exact in the background (R281);
the index version it scans, cells and scree as its traversal found them; the nodes of best; the blocks, cell and number, still
to scan; what it has found. A sample holds the hits of the query that it measures in `own`. -/
structure Query where
  origin  : Option Origin
  slot    : Nat
  version : Nat
  width   : Nat
  code    : List Byte
  filter  : Option (List Byte)
  k       : Nat
  widen   : Nat
  exact   : Bool
  out     : Nat
  best    : List Nat
  cells   : List IndexCell
  scree   : List Posting
  screeBanks : List Nat
  left    : List (Nat × Nat) := []
  hits    : List Hit := []
  records : Nat := 0
  scanned : Nat := 0
  bad     : Bool := false
  sample  : Nat := 0
  own     : List Hit := []
  deriving DecidableEq, Repr

/-- A delete or a drop that waits for descriptors that ran before it, with its result (R276, R277). -/
structure IndexWait where
  origin : Origin
  slot   : Nat
  drop   : Bool
  on     : List Origin
  result : Word
  deriving DecidableEq, Repr

/-- An index (R260 to R282). `old` counts old blocks that a merge left to be freed, `version` the merges that have switched
it; `banks` of a cell and `screeBanks` are the banks of its blocks in the hearth tier. -/
structure Index where
  slot     : Nat
  gen      : Nat := 1
  live     : Bool := false
  lost     : Bool := false
  tenant   : Nat := 0
  width    : Nat := 0
  cellMax  : Nat := 0
  cells    : List IndexCell := []
  scree    : List Posting := []
  old      : Nat := 0
  poisoned : List (Nat × Nat) := []
  key      : Nat := 0
  version  : Nat := 0
  screeBanks : List Nat := []
  deriving DecidableEq, Repr

/-- Search (R260 to R282). -/
structure Search where
  indexes  : List Index := []
  scans    : List Query := []
  waits    : List IndexWait := []
  ctl      : Word := 0x000000009700_0000 ||| 0x00400040
  cacheCtl : Word := 0x080
  partials : Nat := 0
  poisonedBlocks : Nat := 0
  coldLoads : Nat := 0
  samples  : Nat := 0
  expected : Nat := 0
  matched  : Nat := 0
  queries  : Nat := 0
  clock    : Nat := 0
  deriving DecidableEq, Repr

/-! ### Ridge -/

/-- A frame waiting in a bellows queue: header, payload by meaning, bytes of payload. -/
inductive Payload where
  | none
  | request (r : Request)
  | response (b : ResponseBody)
  | activation (f : ActFrame)
  | invalidate (region : Word) (line : Option Nat)
  | invalidateAck (region : Word) (line : Option Nat)
  | map (body : MapBody)
  | page (kind : PageKind) (page : Nat) (data : List Byte)
  | record (q : Nat) (r : FlueRecord)
  deriving DecidableEq, Repr

/-- A ridge frame held for sending or for acknowledgement: which of the frames that carry its payload it is, when it was
first sent, and last sent again, and the timeout under which it was sent (Table 19.11); whether a guard band has held it (R322). -/
structure OutFrame where
  hdr     : FrameHeader
  payload : Payload
  piece   : Nat := 0
  sentAt  : Nat := 0
  again   : Option Nat := none
  retx    : Option Nat := none
  guarded : Bool := false
  deriving DecidableEq, Repr

/-- A ridge address this part exchanges frames with (R286, R335, R336; notes/assumptions/89.md). -/
structure Peer where
  address  : Nat
  part     : Option Nat := none
  nextSeq  : Seq := 0
  expected : Seq := 0
  unacked  : List OutFrame := []
  keyed    : Bool := false
  keyDraw  : Nat := 0
  oldKeyUntil : Nat := 0
  framesSent : Nat := 0
  keyedAt  : Nat := 0
  lastHeard : Nat := 0
  suspect  : Bool := false
  refused  : Bool := false
  deriving DecidableEq, Repr

/-- Port states (Table 13.18). -/
inductive PortState where
  | down | training | up | heldDown
  deriving DecidableEq, Repr

/-- A ridge port (R283, R284). -/
structure Port where
  number  : Nat
  lanes   : BitVec 8 := 0
  state   : PortState := .down
  partner : Bool := false
  fecBad  : Nat := 0
  resent  : Nat := 0
  dipDiscards : Nat := 0
  deriving DecidableEq, Repr

/-- A part entry of the map (Table 13.2): state 0 joining, 1 up, 2 down; its twin proposal. -/
structure MapPart where
  number  : Nat
  address : Nat
  state   : Nat
  twin    : Option Nat := none
  deriving DecidableEq, Repr

/-- An extent entry of the map (Table 13.2). -/
structure MapExtent where
  handle   : Word
  state    : Nat
  borrower : Nat := 0
  deriving DecidableEq, Repr

/-- An activation entry of the map (Table 13.2). -/
structure MapActivation where
  digest : BitVec 384
  epoch  : Nat
  cold   : Bool
  at'    : Nat := 0
  deriving DecidableEq, Repr

/-- The replica of the Ikivan map (R290), with what a keeper keeps beside it: epochs that came before their
turn, the commits it has applied, the changes proposed and not yet committed, the parts reported suspect
(R288, R291, R292). -/
structure MapReplica where
  epoch    : Nat := 0
  parts    : List MapPart := []
  keepers  : List Nat := []
  leader   : Nat := 0
  term     : Nat := 0
  extents  : List MapExtent := []
  regions  : List (Word × Bool) := []
  activations : List MapActivation := []
  joinRefused : Bool := false
  fetchWhole : Bool := false
  missed   : List (Nat × List MapChange) := []
  history  : List (Nat × List MapChange) := []
  proposals : List (Nat × MapChange) := []
  suspects : List Nat := []
  deriving DecidableEq, Repr

/-- An extent this part has lent (R298 to R302): `lender` is the EXTENT_LEND that waits for its commit, `claimed`
that a claim has been granted and not yet committed. -/
structure Lent where
  handle   : Word
  tier     : Nat
  index    : Nat
  state    : Nat := 0
  borrower : Nat := 0
  lends    : Nat := 1
  lender   : Option Origin := none
  claimed  : Bool := false
  graceAt  : Option Nat := none
  graceEnd : Option Nat := none
  grace    : Option Nat := none
  wasBorrowed : Bool := false
  revokers : List Origin := []
  data     : List (Nat × List Byte) := []
  deriving DecidableEq, Repr

/-- An extent this part has borrowed or has claimed (R299). -/
structure Borrowed where
  handle   : Word
  lender   : Nat
  granted  : Bool := false
  closing  : Bool := false
  deriving DecidableEq, Repr

/-- A mapper of a region homed here (R305, R308): part, view, sharer index. -/
structure Mapper where
  part  : Nat
  view  : Nat
  index : Nat
  deriving DecidableEq, Repr

/-- Who asked for a line, a seal or an unmapping: the host of this part, at an offset of its range; another
part, by its request; a descriptor. -/
inductive Asker where
  | host (off : Nat)
  | part (part req : Nat)
  | descriptor (o : Origin)
  deriving DecidableEq, Repr

/-- An operation on a shared region at its home, in arrival order (R309, R311): a read or a write of a line, or a
seal with the version expected. `waiting` are the parts whose acknowledgements it awaits, once it has
`begun`. -/
inductive LineAction where
  | read (line : Nat) (sealedView : Bool) (poisoned : Bool)
  | write (line offset : Nat) (data : List Byte)
  | sealing (expected : Nat)
  deriving DecidableEq, Repr

/-- An operation with its asker. -/
structure LineOp where
  asker   : Asker
  action  : LineAction
  begun   : Bool := false
  waiting : List Nat := []
  deriving DecidableEq, Repr

/-- A digest record (Table 6.10). -/
structure DigestRecord where
  page   : Nat
  digest : BitVec 384 := 0
  wseq   : Nat := 0
  valid  : Bool := false
  stale  : Bool := false
  device : Bool := false
  deriving DecidableEq, Repr

/-- Where a 64 KiB page of a region lies: a hearth frame, the home foothill, or a borrowed extent from one of
its pages on. -/
inductive RegionPlace where
  | frame (n : Nat)
  | foothill
  | pool (extent : Word) (page : Nat)
  deriving DecidableEq, Repr

/-- A region homed here (R304 to R314). `mem` holds the bytes of pages outside hearth frames, `pages` the place of
each page, `spare`, `spareGranules` the frames and granules reserved for sealed copies and the directory, `extents`
the borrowed extents it takes, `mappers` the parts that map it, `unmapping` those that wait for their last acknowledgements
(R310), `creating` a REGION_MAP that waits for its commit. -/
structure Region where
  slot     : Nat
  gen      : Nat
  tenant   : Nat
  shared   : Bool
  digests  : Bool
  size     : Nat
  version  : Nat := 0
  creating : Option Origin := none
  mem      : List Host.Cell := []
  pages    : List RegionPlace := []
  spare    : Nat := 0
  spareGranules : Nat := 0
  extents  : List Word := []
  sealedPages : List (Nat × List Byte) := []
  directory : List (Nat × BitVec 64) := []
  coarse   : Bool := false
  mappers  : List Mapper := []
  unmapping : List (Nat × Asker) := []
  ops      : List LineOp := []
  records  : List DigestRecord := []
  wcount   : Nat := 0
  lostPages : List Nat := []
  changed  : List Nat := []
  keyDraw  : Nat := 0
  deriving DecidableEq, Repr

/-- A mapping of this part's CXL.mem range (R303, R305). -/
structure Mapping where
  unit   : Nat
  handle : Word
  size   : Nat
  view   : Nat
  shared : Bool
  digest : Bool
  dead   : Bool := false
  deriving DecidableEq, Repr

/-- A line of the line cache (R308, R312). -/
structure CachedLine where
  region  : Word
  line    : Nat
  data    : List Byte
  version : Option Nat
  deriving DecidableEq, Repr

/-- A buddy copy held for the partner (R346), with its pair (R140) and whether a comparison has poisoned it (R142). -/
structure BuddyCopy where
  handle : Word
  page   : Nat
  data   : List Byte
  epoch  : Nat
  wseq   : Nat := 0
  poisoned : Bool := false
  deriving DecidableEq, Repr

/-- A request to another part whose answer this part awaits (R285, R296): `about` is the offset in the CXL.mem range
of the host access it serves, `origin` the descriptor; `waits` the epoch that must be applied before it is
sent again. -/
structure Asked where
  id      : Nat
  part    : Nat
  request : Request
  cls     : Nat
  tenant  : Nat
  object  : Word
  tries   : Nat := 0
  waits   : Option Nat := none
  about   : Option Nat := none
  origin  : Option Origin := none
  deriving DecidableEq, Repr

/-- A request that waits for its epoch to be applied (Table 13.3 row 1): the moment by which it must be. -/
structure Early where
  id    : Nat
  bound : Nat
  frame : Received
  req   : Request
  deriving DecidableEq, Repr

/-- A page of a session that moves here, kept until its hand-over (R106): the source's handle, the page. -/
structure Arriving where
  handle : Word
  page   : Nat
  data   : List Byte
  parked : Bool := false
  deriving DecidableEq, Repr

/-- The ridge, pool, regions and twin (R283 to R316, R346 to R355). -/
structure Ridge where
  part      : Nat := 0
  address   : Nat := 0
  domain    : Nat := 0
  configured : Bool := false
  ports     : List Port := [{ number := 0 }, { number := 1 }, { number := 2 }, { number := 3 },
                            { number := 4 }, { number := 5 }]
  peers     : List Peer := []
  map       : MapReplica := {}
  staleRefusals : Nat := 0
  forwards  : Nat := 0
  linkCtl   : Word := 0x0000000000030A14
  poolCtl   : Word := 0x0000000004020014
  twinCtl   : Word := 0x0000000000000800
  twinState : Nat := 0
  revokedRefusals : Nat := 0
  lent      : List Lent := []
  lendCounts : List (Nat × Nat) := []
  borrowed  : List Borrowed := []
  regions   : List Region := []
  regionGens : List (Nat × Nat) := []
  mappings  : List Mapping := []
  lines     : List CachedLine := []
  partnerSlots : List SlotEntry := []
  partnerFloor : Nat := 0
  copies    : List BuddyCopy := []
  nextReq   : Nat := 0
  asked     : List Asked := []
  early     : List Early := []
  arriving  : List Arriving := []
  discarded : Nat := 0
  partnerDownAt : Option Nat := none
  deriving DecidableEq, Repr

/-! ### Bellows and dampers -/

/-- One class of a bellows instance (R317 to R320): queue, shaper register, bucket, counters. The
bucket is in units of 1/1000 byte, with the moment it was last filled. -/
structure BlwClass where
  queue   : List OutFrame := []
  shape   : Word := 0x0000000000400000
  bucket  : Int := 0x40 * 1024 * 1000
  filled  : Nat := 0
  frames  : Nat := 0
  guards  : Nat := 0
  shapes  : Nat := 0
  bytes   : Nat := 0
  deriving DecidableEq, Repr

/-- A gate-list entry (R321): mask, duration in ns. -/
structure Gate where
  mask : Nat
  ns   : Nat
  deriving DecidableEq, Repr

/-- A bellows instance (R317). -/
structure Bellow where
  number  : Nat
  control : List OutFrame := []
  classes : List BlwClass := List.replicate 8 {}
  ctl     : Word := 0x18
  gclBase : Word := 0
  entryReg : Word := 0
  pendingEntries : List (Nat × Gate) := []
  lastEntry : Option Nat := none
  committed : Option (List Gate) := none
  refused : Bool := false
  active  : List Gate := []
  index   : Nat := 0
  entryAt : Nat := 0
  cycleAt : Nat := 0
  cycles  : Nat := 0
  deriving DecidableEq, Repr

/-- A damper (R323 to R325): registers, buckets in 10^-9 of a unit (notes/assumptions/20.md), the moment
they were last filled, counters. -/
structure Damper where
  number  : Nat
  ctl     : Word := 0x0000000003FC0000
  rate    : Word := 0
  burst   : Word := 0
  tc      : Nat := 0
  tp      : Nat := 0
  filled  : Nat := 0
  green   : Nat := 0
  yellow  : Nat := 0
  red     : Nat := 0
  refused : Nat := 0
  deriving DecidableEq, Repr

/-- Bellows and dampers (R317 to R325). -/
structure Bellows where
  portSel : Word := 0
  dmpSel  : Word := 0
  ports   : List Bellow := [{ number := 0 }, { number := 1 }, { number := 2 }, { number := 3 },
                            { number := 4 }, { number := 5 }, { number := 6, ctl := 0 }]
  dampers : List Damper := []
  deriving DecidableEq, Repr

/-! ### Firebox, cairns, firmware, diagnostics -/

/-- SPDM connection: what has been negotiated (R327). -/
structure Spdm where
  version  : Bool := false
  caps     : Bool := false
  algos    : Bool := false
  deriving DecidableEq, Repr

/-- The firebox (R326 to R345). -/
structure Firebox where
  identityOk : Bool := false
  trngOk     : Bool := false
  romTested  : Bool := false
  trngFailures : Nat := 0
  draws      : Nat := 0
  wrapKey    : Option Nat := none
  pairSecret : Option Nat := none
  oldSecret  : Bool := false
  bound      : Bool := false
  policy     : Bool := false
  debug      : Bool := false
  imageKeys  : List (List Byte) := []
  configSeq  : Word := 0
  configDigest : BitVec 384 := 0
  settingsApplied : Nat := 0
  settingsRefused : Nat := 0
  coarseCtl  : Word := 0x010A
  tagSkips   : Nat := 0
  ridgeTags  : Nat := 0
  verifyFails : Nat := 0
  isoSeen    : Bool := false
  isoCause   : Nat := 0
  isoTenant  : Nat := 0
  spdm       : Spdm := {}
  deriving DecidableEq, Repr

/-- Cairns (R356 to R362) and the twin's protection counts (R349). -/
structure Cairns where
  triggerCtl : Word := 0x003C040003E803E8
  standbyCtl : Word := 0x0000001400000000
  written    : Nat := 0
  failures   : Nat := 0
  triggers   : Nat := 0
  triggerSeen : Bool := false
  takeoverSeen : Bool := false
  takeovers  : Nat := 0
  lastTrigger : Option Nat := none
  /-- Local time of the last comparison of the early-warning counts (R362). -/
  lastCheck  : Option Nat := none
  resync     : Bool := false
  deriving DecidableEq, Repr

/-- A firmware image header as kept for a slot (Table 17.2). -/
structure FwImage where
  version   : Nat := 0
  stateFmt  : Nat := 0
  acceptMin : Nat := 0
  frameVer  : Nat := 1
  settings  : Nat := 0
  ucodes    : Nat := 1
  digest    : BitVec 384 := 0
  deriving DecidableEq, Repr

/-- A firmware slot of boot flash (Table 17.6): 0 invalid, 1 downloading, 2 verified, 3 active. -/
structure FwSlot where
  state : Nat := 0
  image : Option FwImage := none
  deriving DecidableEq, Repr

/-- A signed configuration block (Table 15.4, R329). -/
structure ConfigBlock where
  bound      : Bool := false
  policy     : Bool := false
  debug      : Bool := false
  configured : Bool := false
  part       : Nat := 0
  address    : Nat := 0
  domain     : Nat := 0
  keepers    : List Nat := []
  keys       : List (List Byte) := []
  settings   : List (Word × Word) := []
  seq        : Word := 0
  digest     : BitVec 384 := 0
  tag        : Nat := 0
  deriving DecidableEq, Repr

/-- An open download (R368): its id and the runs of bytes written, as (offset, bytes), none overlapping. -/
structure Download where
  id     : Nat
  blocks : List (Nat × List Byte)
  deriving DecidableEq, Repr

/-- A pending activation (R370): its epoch, whether it acts at the next cold reset. -/
structure Activation where
  epoch : Nat
  cold  : Bool := false
  deriving DecidableEq, Repr

/-- Boot flash and firmware update (R363 to R374). Boot flash is never altered by a reset (R40). `attemptAt` is the
moment at which the present attempt to quiesce began, `attemptWait` its limit, `retryAt` that of the next one (R371)
(notes/assumptions/5.md). -/
structure Firmware where
  slots      : List FwSlot := [{ state := 3, image := some {} }, {}]
  active     : Nat := 0
  confirmed  : Bool := true
  coldSlot   : Option Nat := none
  flashDogs  : Nat := 0
  config     : Option ConfigBlock := none
  pendingCfg : Option ConfigBlock := none
  chain      : Option (List Byte) := none
  repairs    : List (Nat × Nat) := []
  downloads  : List (Option Download) := [none, none, none]
  discardedIds : List (Nat × Nat) := []
  activation : Option Activation := none
  fallbackSeen : Bool := false
  refusedSeen : Bool := false
  confirmAt  : Option Nat := none
  quiesceTries : Nat := 0
  retryAt    : Option Nat := none
  attemptAt  : Option Nat := none
  attemptWait : Option Nat := none
  lastEpochNs : Option Nat := none
  settingsReset : Nat := 0
  pairsSkipped : Nat := 0
  ctl        : Word := 0x05
  rcvAddr    : Word := 0
  rcvCtl     : Word := 0
  rcvBusy    : Bool := false
  rcvResult  : Nat := 0
  lastFailed : Option Nat := none
  rejected   : Option (BitVec 384 × Nat) := none
  romRecovery : Bool := false
  hostAtSwitch : Option (Bool × Bool) := none
  deriving DecidableEq, Repr

/-- An event-log entry (Table 18.3). -/
structure Event where
  seq    : Nat
  code   : Nat
  tenant : Nat
  detail : Nat
  ns     : Nat
  deriving DecidableEq, Repr

/-- Diagnostics (R376 to R384). -/
structure Diag where
  flightSel  : Word := 0
  replayCtl  : Word := 0x00000000028F0100
  eventIndex : Word := 0
  nextEvent  : Nat := 0
  events     : List Event := []
  sliceSkips : Nat := 0
  cxlUnmapped : Nat := 0
  digestWrites : Nat := 0
  viewWrites : Nat := 0
  rebuilds   : Nat := 0
  fp8Sat     : Nat := 0
  maskWaits  : Nat := 0
  injected   : Nat := 0
  injectReg  : Word := 0
  armed      : Bool := false
  injRefused : Bool := false
  deriving DecidableEq, Repr

/-- One measurement (Table 15.3): index, digest, and for index 2 the firmware version. -/
structure Measurement where
  index   : Nat
  value   : BitVec 384
  version : Option Nat := none
  deriving DecidableEq, Repr

/-- An SPDM response by its meaning (R327, Table 15.2): versions as major × 16 + minor; whether certificates, challenges
and signed measurements are supported; the algorithms; digests by slot; a piece of a chain and the bytes left; signed
answers. -/
inductive SpdmReply where
  | version (versions : List Nat)
  | capabilities (certificates challenges signedMeasurements : Bool)
  | algorithms (ecdsaP384 sha384 : Bool)
  | digests (slots : Nat) (digests : List (BitVec 384))
  | certificate (slot : Nat) (portion : List Byte) (left : Nat)
  | challengeAuth (slot : Nat) (chain : BitVec 384) (signature : List Byte)
  | measurements (count : Nat) (blocks : List Measurement) (signature : List Byte)
  | unsupportedRequest
  | error
  deriving DecidableEq, Repr

/-- What the part has sent out, (`snoop` stands for one back-invalidate snoop for each 64-byte host line of a
range, R57), in order: the model's record of its outputs (notes/assumptions/6.md). -/
inductive Output where
  | completion (q pasid addr : Nat) (entry : BitVec 256)
  | flue (q pasid addr : Nat) (entry : BitVec 512)
  | flight (q pasid addr : Nat) (entry : BitVec 512)
  | hostWrite (pasid : Nat) (addr : Nat) (data : List Byte)
  | msix (vector : Nat)
  | frame (port : Nat) (header : BitVec 512) (nonce : BitVec 96) (f : OutFrame)
  | ackFrame (address : Nat) (ack : Seq)
  | snoop (off bytes : Nat)
  | readData (off : Nat) (data : List Byte) (poison : Bool)
  | writeDone (off : Nat)
  | spdm (reply : SpdmReply)
  deriving DecidableEq, Repr

/-- The machine. `localNs` is the firebox's counter; an island's copy of it, which R34 lets differ by up to 8 ns, is not
held apart: every moment the part records is the firebox's (DESIGN CHOICE, notes/assumptions/121.md). `pending` is the queue of waiting commands; `out` and `freeCount` are the model's own
fields (notes/assumptions/6.md, 7.md). -/
structure State where
  pending : List Instr := []
  localNs : Nat := 0
  pins    : Pins := {}
  pwr     : Power := {}
  host    : HostPort := {}
  desc    : List InFlight := []
  ses     : Sessions := {}
  tie     : Tiers := {}
  hrt     : Hearth := {}
  img     : Images := {}
  stv     : Stoves := {}
  knd     : Kindling := {}
  srch    : Search := {}
  rdg     : Ridge := {}
  blw     : Bellows := {}
  fbx     : Firebox := {}
  crn     : Cairns := {}
  fwu     : Firmware := {}
  dgn     : Diag := {}
  out     : List Output := []
  freeCount : Nat := 0
  deriving DecidableEq, Repr

/-- The part right after a power-on reset: VDD_AUX has just become valid (R33, R40). -/
def State.reset : State := {}

/-- Faults. The block has no exception entry: what the spec calls a fault is a status, a halt, a reset
or a pin, all of them next states. -/
inductive Fault where
  /-- Raised by no command: the spec stops the machine for none of them. Safe. -/
  | unreachable
  deriving DecidableEq, Repr

/-- Refusals. -/
inductive Refusal where
  /-- Raised by `exec` alone, for a command without a meaning yet. Safe: the run stops. -/
  | notModelled (mnemonic : String)
  deriving DecidableEq, Repr

end Sys2Proof.Machine
end

