-- ==== Sys2Proof/Machine/Flags.lean ====
section
/-!
DEFINITION. Status codes (Table 0.5), condition bits (Table 4.12) and the choice of the status field
(R10). The block's "flags" are its conditions.
-/

namespace Sys2Proof.Machine

/-- The 16-bit code of a status (R9, Table 0.5). -/
def Status.code : Status → Nat
  | .ok => 0x0000 | .okPartial => 0x0001 | .okReplayed => 0x0002 | .okTruncated => 0x0003
  | .sessionUnknown => 0x0101 | .sessionBusy => 0x0102 | .grammarDead => 0x0103
  | .deadlineMissed => 0x0104 | .cancelled => 0x0105 | .contextFull => 0x0106
  | .revoked => 0x0201 | .extentUnmapped => 0x0202 | .poisoned => 0x0203
  | .copyConflict => 0x0204 | .tierFull => 0x0205
  | .staleEpoch => 0x0301 | .publishConflict => 0x0302 | .peerLost => 0x0303 | .twinLost => 0x0304
  | .doesNotFit => 0x0401 | .formatUnsupported => 0x0402 | .versionRefused => 0x0403
  | .queueFull => 0x0404
  | .accessDenied => 0x0501 | .imageNotBound => 0x0502 | .signatureBad => 0x0503
  | .brownoutRetry => 0x0601 | .stateLost => 0x0602 | .hardwareFault => 0x0603

/-- The family of a status: bits [15:8] of its code (Table 0.4). -/
def Status.family (s : Status) : Nat := s.code / 256

/-- Every status but OK, in the order of Table 4.12: entry b is the condition of bit b. -/
def conditionOrder : List Status :=
  [.okPartial, .okReplayed, .okTruncated, .sessionUnknown, .sessionBusy, .grammarDead,
   .deadlineMissed, .cancelled, .contextFull, .revoked, .extentUnmapped, .poisoned, .copyConflict,
   .tierFull, .staleEpoch, .publishConflict, .peerLost, .twinLost, .doesNotFit, .formatUnsupported,
   .versionRefused, .queueFull, .accessDenied, .imageNotBound, .signatureBad, .brownoutRetry,
   .stateLost, .hardwareFault]

/-- The conditions field: one bit for each condition that applied (R78, Table 4.12). -/
def condBits (conds : List Status) : BitVec 28 :=
  BitVec.ofNat 28 ((conditionOrder.zipIdx.map fun (c, b) => putBit b (conds.contains c)).sum)

/-- The conditions that a set of condition bit numbers names. -/
def condsOfBits (bits : List Nat) : List Status :=
  bits.filterMap fun b => conditionOrder[b]?

/-- The bit numbers of conditions. -/
def bitsOfConds (conds : List Status) : List Nat :=
  (conditionOrder.zipIdx.filter fun (c, _) => conds.contains c).map (·.2)

/-- Whether the first of two conditions takes precedence (R10, rules 1 to 3). -/
def Status.beats (a b : Status) : Bool :=
  if a.family = b.family then a.code < b.code
  else a.family > b.family

/-- The status field chosen among the conditions of a request (R10): BROWNOUT_RETRY is never chosen,
and a request without another condition reads OK. -/
def chooseStatus (conds : List Status) : Status :=
  (conds.filter fun c => c != .brownoutRetry && c != .ok).foldl
    (fun best c => if best = .ok || c.beats best then c else best) .ok

/-- The status whose code is given, OK for a code that Table 0.5 does not list. -/
def statusOfCode (n : Nat) : Status :=
  (conditionOrder.find? fun c => c.code == n).getD .ok

end Sys2Proof.Machine
end

