-- ==== Sys2Proof/Machine/Operands.lean ====
section
/-!
DEFINITION. The operand forms: handles, the descriptor header and bodies, the context entry, segment
headers, register selections. Each field is read here once, by its name in the spec.
-/

namespace Sys2Proof.Machine

/-! ### Handles -/

/-- Part field of a session, index, region or extent handle, bits [63:54] (R14, Tables 12.1, 13.4). -/
def hPart (h : Word) : Nat := fld h 63 54
/-- Tenant field of a session, index or region handle, bits [53:42]. -/
def hTenant (h : Word) : Nat := fld h 53 42
/-- Session slot, bits [41:22] (R83). -/
def hSlot (h : Word) : Nat := fld h 41 22
/-- Session generation, bits [21:0] (R83). -/
def hGen (h : Word) : Nat := fld h 21 0
/-- A session handle (R14, R83). -/
def mkHandle (part tenant slot gen : Nat) : Word :=
  word [put 63 54 part, put 53 42 tenant, put 41 22 slot, put 21 0 gen]
/-- Index or region slot, bits [41:32] (Table 12.1, R304). -/
def oSlot (h : Word) : Nat := fld h 41 32
/-- Index or region generation, bits [31:0]. -/
def oGen (h : Word) : Nat := fld h 31 0
/-- An index or region handle (Table 12.1, R304). -/
def mkObject (part tenant slot gen : Nat) : Word :=
  word [put 63 54 part, put 53 42 tenant, put 41 32 slot, put 31 0 gen]
/-- Tier bit of an extent handle (Table 13.4). -/
def eTier (h : Word) : Nat := fld h 53 53
/-- Index of an extent on its lender (Table 13.4). -/
def eIndex (h : Word) : Nat := fld h 52 38
/-- Lend count of an extent handle (Table 13.4). -/
def eLends (h : Word) : Nat := fld h 31 0
/-- An extent handle (Table 13.4). -/
def mkExtent (part tier index lends : Nat) : Word :=
  word [put 63 54 part, put 53 53 tier, put 52 38 index, put 31 0 lends]

/-! ### The descriptor header (Table 4.9) -/

def dOpcode (d : BitVec 512) : Nat := fld d 7 0
def dVersion (d : BitVec 512) : Nat := fld d 11 8
def dFence (d : BitVec 512) : Bool := bit d 16
def dIrqNow (d : BitVec 512) : Bool := bit d 17
def dSeq (d : BitVec 512) : Seq := BitVec.ofNat 32 (fld d 63 32)
def dTag (d : BitVec 512) : Word := BitVec.ofNat 64 (fld d 127 64)
def dHandle (d : BitVec 512) : Word := BitVec.ofNat 64 (fld d 191 128)
def dParam (d : BitVec 512) : Nat := fld d 255 192
/-- Table 5.3. -/
def dNoWait (d : BitVec 512) : Bool := bit d 479
/-- Table 5.3. -/
def dDeadlineUs (d : BitVec 512) : Nat := fld d 511 480

/-! ### Opcodes (Table 4.10) -/

def opNop : Nat := 0x00
def opCancel : Nat := 0x01
def opOpen : Nat := 0x10
def opAppend : Nat := 0x11
def opGenerate : Nat := 0x12
def opPark : Nat := 0x13
def opRevive : Nat := 0x14
def opMove : Nat := 0x15
def opSnapshot : Nat := 0x16
def opClose : Nat := 0x17
def opEmbed : Nat := 0x20
def opInsert : Nat := 0x21
def opDelete : Nat := 0x22
def opMerge : Nat := 0x23
def opQuery : Nat := 0x24
def opRegionMap : Nat := 0x30
def opPublish : Nat := 0x31
def opLend : Nat := 0x32
def opRevoke : Nat := 0x33
def opImageLoad : Nat := 0x40
def opVariantLoad : Nat := 0x41
def opTune : Nat := 0x42
def opCairn : Nat := 0x43
def opFwBlock : Nat := 0x44

/-- The opcodes of Table 4.10. -/
def opcodes : List Nat :=
  [0x00, 0x01, 0x10, 0x11, 0x12, 0x13, 0x14, 0x15, 0x16, 0x17, 0x20, 0x21, 0x22, 0x23, 0x24,
   0x30, 0x31, 0x32, 0x33, 0x40, 0x41, 0x42, 0x43, 0x44]

/-- The opcodes marked operator in Table 4.10. -/
def operatorOpcodes : List Nat := [0x32, 0x33, 0x40, 0x44]

/-- The session descriptors, opcodes 0x10 to 0x17 (R93). -/
def isSessionOp (op : Nat) : Bool := 0x10 ≤ op && op ≤ 0x17

/-- Opcodes whose body carries deadline_us (Tables 5.3, 10.4, 12.4, 12.7). -/
def hasDeadline (op : Nat) : Bool := isSessionOp op || op == opEmbed || op == opInsert || op == opQuery

/-! ### The context entry (Table 4.3) -/

/-- Table 4.3, read field by field. -/
def readContext (w : BitVec 512) : QpContext :=
  { sqBase := fld w 63 0, cqBase := fld w 127 64, flueBase := fld w 191 128,
    snapBase := fld w 255 192, sqLog2 := fld w 260 256, cqLog2 := fld w 265 261,
    flueLog2 := fld w 270 266, tenant := fld w 283 272, operator := bit w 284,
    pasid := fld w 307 288, msix := fld w 318 308, irqEnable := bit w 319,
    sqInit := BitVec.ofNat 32 (fld w 351 320), cqInit := BitVec.ofNat 32 (fld w 383 352),
    flueInit := BitVec.ofNat 32 (fld w 415 384), coalesceCount := fld w 431 416,
    coalesceUs := fld w 447 432, maxInflight := fld w 457 448 }

/-- max_inflight as it acts: 0 acts as 512 (Table 4.3). -/
def QpContext.inflightMax (c : QpContext) : Nat := if c.maxInflight = 0 then 512 else c.maxInflight

/-- The constraints of Table 4.3 and R60: alignments, ring sizes 6 to 16 (flue also 0), max_inflight
1 to 512, and a completion ring of at least max_inflight + 8 entries. -/
def QpContext.valid (c : QpContext) : Bool :=
  c.sqBase % 4096 == 0 && c.cqBase % 4096 == 0 && c.snapBase % 4096 == 0 &&
  (c.flueLog2 == 0 || (c.flueBase % 4096 == 0 && 6 ≤ c.flueLog2 && c.flueLog2 ≤ 16)) &&
  6 ≤ c.sqLog2 && c.sqLog2 ≤ 16 && 6 ≤ c.cqLog2 && c.cqLog2 ≤ 16 &&
  c.maxInflight ≤ 512 && c.inflightMax + 8 ≤ 2 ^ c.cqLog2

/-! ### Session bodies (Tables 5.4, 5.7, 5.8, 5.9) -/

def openImage (d : BitVec 512) : Word := BitVec.ofNat 64 (fld d 319 256)
def openVariant (d : BitVec 512) : Nat := fld d 335 320
def openClass (d : BitVec 512) : Nat := fld d 338 336
def openDurability (d : BitVec 512) : Nat := fld d 340 339
def openMaxContext (d : BitVec 512) : Nat := fld d 364 344
def openGrammarLen (d : BitVec 512) : Nat := fld d 399 368
def openSeed (d : BitVec 512) : Word := BitVec.ofNat 64 (fld d 463 400)

def appendLen (d : BitVec 512) : Nat := fld d 287 256
def appendSegments (d : BitVec 512) : Nat := fld d 303 288
def appendTruncateOk (d : BitVec 512) : Bool := bit d 304
def appendDefer (d : BitVec 512) : Bool := bit d 305

def genMaxTokens (d : BitVec 512) : Nat := fld d 275 256
/-- spec_len, 9 to 15 acting as 8 (Table 5.8). -/
def genSpecLen (d : BitVec 512) : Nat := min 8 (fld d 279 276)
def genTemp (d : BitVec 512) : BitVec 16 := BitVec.ofNat 16 (fld d 295 280)
def genTopK (d : BitVec 512) : Nat := fld d 311 296
def genTopP (d : BitVec 512) : BitVec 16 := BitVec.ofNat 16 (fld d 327 312)
def genStopCount (d : BitVec 512) : Nat := fld d 331 328
def genGrammar (d : BitVec 512) : Bool := bit d 332
def genForceEos (d : BitVec 512) : Bool := bit d 333

def parkWhere (d : BitVec 512) : Nat := fld d 257 256
def parkNoNarrow (d : BitVec 512) : Bool := bit d 258
def reviveResolve (d : BitVec 512) : Nat := fld d 257 256
def moveDest (d : BitVec 512) : Nat := fld d 265 256
def moveParked (d : BitVec 512) : Bool := bit d 266
def moveImage (d : BitVec 512) : Word := BitVec.ofNat 64 (fld d 383 320)

/-- A segment of an APPEND or EMBED_BATCH input: trust, form, payload (Table 5.6). -/
structure Segment where
  trust   : Nat
  form    : Nat
  payload : List Byte
  deriving DecidableEq, Repr

/-- Segments from their headers: `none` where the headers, the count or the input length disagree, or a
trust value is reserved (R96, R97). -/
def readSegments : Nat → List Byte → Option (List Segment)
  | 0, bs => if bs.isEmpty then some [] else none
  | n + 1, bs =>
    let len := leAt bs 0 4
    let padded := ceilDiv len 8 * 8
    let trust := bfld bs 35 32
    let form := bfld bs 36 36
    if bs.length < 8 + padded || trust > 2 || (form == 1 && len % 4 != 0) then none
    else (readSegments n (bs.drop (8 + padded))).map
      (fun r => { trust := trust, form := form, payload := slice bs 8 len } :: r)

/-- Token identifiers of 4 bytes each (Tables 5.6, 5.8). -/
def readIds : Nat → List Byte → List Nat
  | 0, _ => []
  | n + 1, bs => leAt bs 0 4 :: readIds n (bs.drop 4)

end Sys2Proof.Machine
end

