-- ==== Sys2Proof/Machine/Layout.lean ====
section
/-!
DEFINITION. The entries the part writes, bit for bit: completions (Table 4.11), flue records
(Table 4.14), flight records (Tables 18.1, 18.2), the recovery snapshot (Table 4.15); and the header of a ridge frame, both ways
(Table 13.1).
-/

namespace Sys2Proof.Machine

/-- A completion or queue event as written (Table 4.11). -/
def encodeCompletion (cqSeq : Seq) (version : Nat) (c : Completion) : BitVec 256 :=
  BitVec.ofNat 256
    (put 31 0 cqSeq.toNat + put 63 32 c.subSeq.toNat + put 127 64 c.tag.toNat +
     put 143 128 c.status.toNat + put 151 144 c.opcode + put 155 152 version +
     put 159 156 c.kind + put 187 160 c.conds.toNat + put 255 192 c.result.toNat)

/-- The payload field of a step record: token identifiers, then text (Table 4.14). -/
def fluePayload (r : FlueRecord) : Nat :=
  leNat ((r.tokens.map (leBytes 4)).flatten ++ r.text)

/-- A flue record as written (Table 4.14). Continuation text fills bits [511:64] from the lowest byte. -/
def encodeFlue (flueSeq : Seq) (version : Nat) (r : FlueRecord) : BitVec 512 :=
  BitVec.ofNat 512
    (put 31 0 flueSeq.toNat + put 35 32 version + put 37 36 r.kind +
     put 41 38 (if r.kind = 0 then r.tokens.length else 0) + put 47 42 r.text.length +
     putBit 48 r.more + putBit 49 r.invalid + put 53 50 r.stop +
     (if r.kind = 0 then
        put 127 64 r.handle.toNat + put 159 128 r.genSeq.toNat + put 191 160 r.step +
        put 511 192 (fluePayload r)
      else put 511 64 (leNat r.text)))

/-- A flight record as written (Table 18.1). -/
def encodeFlight (flightSeq : Seq) (r : FlightRecord) : BitVec 512 :=
  BitVec.ofNat 512
    (put 31 0 flightSeq.toNat + put 35 32 1 + put 39 36 r.kind + put 47 40 r.count +
     put 63 48 (min r.gap 0xFFFF) + put 127 64 r.handle.toNat + put 191 128 r.epoch +
     put 511 192 (leNat r.payload))

/-- The number of a queue-pair state (Table 4.8). -/
def QpState.num : QpState → Nat
  | .disabled => 0 | .enabled => 1 | .frozen => 2 | .halted => 3

/-- halt_cause as read: 0 unless halted, kept while FROZEN after a halt (Tables 4.4, 4.8). -/
def QueuePair.shownCause (q : QueuePair) : Nat :=
  match q.state with
  | .halted | .frozen => q.cause
  | _ => 0

/-- The recovery snapshot with its in-flight list, snap_count included (Table 4.15). -/
def encodeSnapshot (q : QueuePair) (inflight : List Seq) : List Byte :=
  leBytes 64
    (put 31 0 q.snapCount.toNat + put 33 32 q.state.num + put 37 34 q.shownCause +
     put 95 64 q.sqTail.toNat + put 127 96 q.sqNext.toNat + put 159 128 q.cqHead.toNat +
     put 191 160 q.cqNext.toNat + put 223 192 q.flueHead.toNat + put 255 224 q.flueNext.toNat +
     put 287 256 inflight.length + put 319 288 q.held.length) ++
  (inflight.map fun n => leBytes 4 n.toNat).flatten

/-- The payload of an EVENT record (Table 18.2 kind 3). -/
def eventPayload (code status detail ns : Nat) : List Byte :=
  leBytes 2 code ++ leBytes 2 status ++ leBytes 4 detail ++ leBytes 8 ns

/-- The payload of an OPEN record (Table 18.2 kind 0). -/
def openPayload (image : BitVec 128) (seed : Word) (fwVersion variant cls durability : Nat)
    (grammar : Option (BitVec 384)) : List Byte :=
  leBytes 16 image.toNat ++ leBytes 8 seed.toNat ++ leBytes 4 fwVersion ++ leBytes 2 variant ++
  leBytes 1 cls ++ leBytes 1 durability ++
  (match grammar with
   | some g => leBytes 8 g.toNat
   | none => leBytes 8 0)

/-- The payload of an INPUT record: up to 8 tokens (Table 18.2 kind 1). -/
def inputPayload (position trust : Nat) (ids : List Nat) : List Byte :=
  leBytes 4 position ++ leBytes 1 trust ++ leBytes 3 0 ++ (ids.map (leBytes 4)).flatten

/-- The payload of a STEP record: up to 4 entries (Table 18.2 kind 2). -/
def stepPayload (step length : Nat) (entries : List (Nat × BitVec 16 × BitVec 16)) : List Byte :=
  leBytes 4 step ++ leBytes 4 length ++
  (entries.map fun (t, l, z) => leBytes 4 t ++ leBytes 2 l.toNat ++ leBytes 2 z.toNat).flatten

/-- The payload of a COMPARE record (Table 18.2 kind 4). -/
def comparePayload (step position token : Nat) (refL repL refZ repZ : BitVec 16) (flags : Nat) :
    List Byte :=
  leBytes 4 step ++ leBytes 4 position ++ leBytes 4 token ++ leBytes 2 refL.toNat ++
  leBytes 2 repL.toNat ++ leBytes 2 refZ.toNat ++ leBytes 2 repZ.toNat ++ leBytes 1 flags

/-- The 64 bytes of a ridge frame header, bit 0 first (R4, Table 13.1). -/
def encodeHeader (h : FrameHeader) : BitVec 512 :=
  BitVec.ofNat 512
    (put 3 0 h.version + put 7 4 h.type + put 10 8 h.cls + putBit 11 h.forwarded + putBit 12 h.retransmit +
     put 29 16 h.length + put 41 32 h.srcPart + put 57 48 h.dstPart + put 79 64 h.dstAddr + put 95 80 h.srcAddr +
     put 159 96 h.epoch + put 191 160 h.fseq.toNat + put 223 192 h.ack.toNat + put 235 224 h.tenant +
     put 319 256 h.reqId + put 383 320 h.object.toNat + put 415 384 h.deadlineUs + put 431 416 h.status.toNat)

/-- The GCM nonce of a ridge frame: the sender's count of frames under the present key, and its address (R336). -/
def frameNonce (count address : Nat) : BitVec 96 := BitVec.ofNat 96 (put 63 0 count + put 79 64 address)

/-- The fields of a ridge frame header from its 64 bytes; reserved bits are ignored (R5, Table 13.1). A frame that is
received is one whose header reads so. -/
def decodeHeader (w : BitVec 512) : FrameHeader :=
  { version := fld w 3 0, type := fld w 7 4, cls := fld w 10 8, forwarded := bit w 11, retransmit := bit w 12,
    length := fld w 29 16, srcPart := fld w 41 32, dstPart := fld w 57 48, dstAddr := fld w 79 64,
    srcAddr := fld w 95 80, epoch := fld w 159 96, fseq := BitVec.ofNat 32 (fld w 191 160),
    ack := BitVec.ofNat 32 (fld w 223 192), tenant := fld w 235 224, reqId := fld w 319 256,
    object := BitVec.ofNat 64 (fld w 383 320), deadlineUs := fld w 415 384,
    status := BitVec.ofNat 16 (fld w 431 416) }

end Sys2Proof.Machine
end

