-- ==== Sys2Proof/Machine/Ops.lean ====
section
/-!
DEFINITION. The shared operations: updates of one part of the state, queue pairs and their rings,
interrupts, events and flight records, ridge frames to send, and the completion of a descriptor.
-/

namespace Sys2Proof.Machine

/-! ### Updates of one part of the state -/

def State.onPins (s : State) (f : Pins → Pins) : State := { s with pins := f s.pins }
def State.onPwr (s : State) (f : Power → Power) : State := { s with pwr := f s.pwr }
def State.onHost (s : State) (f : HostPort → HostPort) : State := { s with host := f s.host }
def State.onDesc (s : State) (f : List InFlight → List InFlight) : State := { s with desc := f s.desc }
def State.onSess (s : State) (f : Sessions → Sessions) : State := { s with ses := f s.ses }
def State.onTie (s : State) (f : Tiers → Tiers) : State := { s with tie := f s.tie }
def State.onHrt (s : State) (f : Hearth → Hearth) : State := { s with hrt := f s.hrt }
def State.onImg (s : State) (f : Images → Images) : State := { s with img := f s.img }
def State.onStv (s : State) (f : Stoves → Stoves) : State := { s with stv := f s.stv }
def State.onKnd (s : State) (f : Kindling → Kindling) : State := { s with knd := f s.knd }
def State.onSrch (s : State) (f : Search → Search) : State := { s with srch := f s.srch }
def State.onRdg (s : State) (f : Ridge → Ridge) : State := { s with rdg := f s.rdg }
def State.onBlw (s : State) (f : Bellows → Bellows) : State := { s with blw := f s.blw }
def State.onFbx (s : State) (f : Firebox → Firebox) : State := { s with fbx := f s.fbx }
def State.onCrn (s : State) (f : Cairns → Cairns) : State := { s with crn := f s.crn }
def State.onFwu (s : State) (f : Firmware → Firmware) : State := { s with fwu := f s.fwu }
def State.onDgn (s : State) (f : Diag → Diag) : State := { s with dgn := f s.dgn }
/-- Send something out of the part (notes/assumptions/6.md). -/
def State.emit (s : State) (o : Output) : State := { s with out := s.out ++ [o] }
/-- A free value's index, and the state in which the next one is fresh (notes/assumptions/7.md). -/
def State.bumpFree (s : State) : State := { s with freeCount := s.freeCount + 1 }

/-- Microseconds of the local counter in ns. -/
def us (n : Nat) : Nat := n * 1000
/-- Milliseconds in ns. -/
def ms (n : Nat) : Nat := n * 1000000

/-! ### Queue pairs -/

/-- Queue pair q; one never enabled stands at its reset values (R61). -/
def State.qp (s : State) (q : Nat) : QueuePair := (lookupBy (·.id) q s.host.qps).getD { id := q }

/-- Change queue pair q. -/
def State.onQp (s : State) (q : Nat) (f : QueuePair → QueuePair) : State :=
  s.onHost fun h => { h with qps := upsert (·.id) { f (s.qp q) with id := q } h.qps }

/-- A descriptor fetched from queue pair q. -/
def fromQueue (q : Nat) (d : InFlight) : Bool :=
  match d.origin with
  | .qp q' _ => q' == q
  | .ridge _ _ => false

/-- Descriptors in flight of one queue pair; those a DISABLE has ended no longer count (R104). -/
def State.inflightOf (s : State) (q : Nat) : List InFlight :=
  s.desc.filter fun d => fromQueue q d && !d.discard

/-- Raise queue pair q's MSI-X vector (R74). -/
def raiseIrq (s : State) (q : Nat) : State :=
  (s.onQp q fun p => { p with signal := 0, signalAt := none }).emit (.msix (s.qp q).ctx.msix)

/-- An entry has been written: interrupt by count, by a coalesce time of 0, or at once (R74; notes/assumptions/148.md). -/
def signalEntry (s : State) (q : Nat) (now : Bool) : State :=
  let p := s.qp q
  if !p.ctx.irqEnable then s
  else if now || p.ctx.coalesceUs = 0 || p.signal + 1 ≥ max 1 p.ctx.coalesceCount then raiseIrq s q
  else s.onQp q fun p =>
    { p with signal := p.signal + 1, signalAt := some (p.signalAt.getD s.localNs) }

/-- Write one completion entry to queue pair q's ring, giving it the next cq_seq (R65, R67, R74). -/
def putCompletion (s : State) (q : Nat) (c : Completion) : State :=
  let p := s.qp q
  let addr := p.ctx.cqBase + 32 * (p.cqNext.toNat % 2 ^ p.ctx.cqLog2)
  signalEntry
    ((s.onQp q fun p => { p with cqNext := p.cqNext + 1 }).emit
      (.completion q p.ctx.pasid addr (encodeCompletion p.cqNext s.host.version c)))
    q c.irqNow

/-- A completion or event for queue pair q: written while ENABLED, held while FROZEN or HALTED (R62),
dropped while DISABLED (R104). -/
def postEntry (s : State) (q : Nat) (c : Completion) : State :=
  match (s.qp q).state with
  | .enabled => putCompletion s q c
  | .frozen | .halted => s.onQp q fun p => { p with held := p.held ++ [c] }
  | .disabled => s

/-- A queue event: a completion of kind 1 (R63, R78, Table 4.13; notes/assumptions/147.md). -/
def queueEvent (s : State) (q code : Nat) (subSeq : Seq) (result : Word) : State :=
  postEntry s q { subSeq := subSeq, tag := 0, status := 0, opcode := code, kind := 1,
                  conds := 0, result := result, irqNow := false }

/-- Move queue pair q into HALTED with a cause (R63). -/
def haltQp (s : State) (q cause : Nat) : State :=
  s.onQp q fun p => { p with state := .halted, cause := cause }

/-- Halt with cause 2 and the DMA_ERROR event, where the completion ring can be written (Table 4.5). -/
def dmaHalt (s : State) (q : Nat) (subSeq : Seq) (addr : Word) (ringOk : Bool) : State :=
  haltQp (if ringOk then queueEvent s q 3 subSeq addr else s) q 2

/-! ### Counts per second -/

/-- Add to a count per second of the local counter. -/
def PerSecond.add (c : PerSecond) (now n : Nat) : PerSecond :=
  let t := now / 1000000000
  if t = c.second then { c with now := c.now + n }
  else { second := t, now := n, prev := if t = c.second + 1 then c.now else 0 }

/-- The count of the last full second. -/
def PerSecond.last (c : PerSecond) (now : Nat) : Nat :=
  let t := now / 1000000000
  if t = c.second then c.prev else if t = c.second + 1 then c.now else 0

/-! ### Tenants' counters (R343) -/

/-- Add to one of a tenant's counts: 0 tokens generated, 1 tokens appended, 2 sessions opened,
3 sessions parked, 4 queries, 5 descriptors refused. Counting begins when the tenant's first queue pair is
enabled. Counts 2 and 3 are read off the sessions and stand here only as their base. -/
def countTenant (s : State) (tenant which n : Nat) : State :=
  s.onHost fun h =>
    match lookupBy (·.tenant) tenant h.tenants with
    | none => h
    | some c =>
      let c' := { c with counts := setAt c.counts which ((c.counts[which]?).getD 0 + n) }
      { h with tenants := upsert (·.tenant) c' h.tenants }

/-! ### Flight records and events -/

/-- The flight ring has a free slot (R376, R379). -/
def FlightRing.room (f : FlightRing) : Bool := f.log2 != 0 && dist f.head f.next < 2 ^ f.log2

/-- Write one flight record to queue pair q's ring (R376; notes/assumptions/118.md). -/
def putFlight (s : State) (q : Nat) (r : FlightRecord) : State :=
  let p := s.qp q
  let addr := p.flight.base + 64 * (p.flight.next.toNat % 2 ^ p.flight.log2)
  (s.onQp q fun p => { p with flight := { p.flight with next := p.flight.next + 1 } }).emit
    (.flight q p.ctx.pasid addr (encodeFlight p.flight.next r))

/-- A flight record for queue pair q's ring: written, held up to 64, or discarded and counted; the next
record accepted after discards carries their number in gap (R377, R379). -/
def writeFlight (s : State) (q : Nat) (r : FlightRecord) : State :=
  let p := s.qp q
  let f := p.flight
  let r := { r with gap := f.gap }
  let drop := s.onQp q fun p =>
    { p with flight := { p.flight with dropped := bump 32 p.flight.dropped, gap := p.flight.gap + 1 } }
  let taken := s.onQp q fun p => { p with flight := { p.flight with gap := 0 } }
  if p.state = .disabled || f.log2 = 0 then drop
  else if p.state = .enabled && f.held.isEmpty && f.room then putFlight taken q r
  else if f.held.length < 64 then
    taken.onQp q fun p => { p with flight := { p.flight with held := p.flight.held ++ [r] } }
  else drop

/-- Write held flight records while slots are free (R379). -/
def drainFlight : Nat → State → Nat → State
  | 0, s, _ => s
  | n + 1, s, q =>
    let p := s.qp q
    match p.flight.held with
    | r :: rest =>
      if p.state = .enabled && p.flight.room then
        drainFlight n (putFlight (s.onQp q fun p =>
          { p with flight := { p.flight with held := rest } }) q r) q
      else s
    | [] => s

/-- Set the next entry of the event log, which keeps the 256 most recent (R380). -/
def logEvent (s : State) (code tenant detail : Nat) : State :=
  s.onDgn fun d =>
    let e : Event := { seq := d.nextEvent, code := code, tenant := tenant, detail := detail,
                       ns := s.localNs }
    { d with nextEvent := (d.nextEvent + 1) % 2 ^ 32,
             events := ((d.events ++ [e]).drop (d.events.length + 1 - 256)) }

/-! ### Sessions -/

/-- The session record of a slot: none for a slot not used since the last cold reset. -/
def State.session (s : State) (slot : Nat) : Option Session := lookupBy (·.slot) slot s.ses.table

/-- Put a session record. -/
def State.putSession (s : State) (x : Session) : State :=
  s.onSess fun t => { t with table := upsert (·.slot) x t.table }

/-- Change the session of a slot, if it is there. -/
def State.onSession (s : State) (slot : Nat) (f : Session → Session) : State :=
  match s.session slot with
  | some x => s.putSession { f x with slot := slot }
  | none => s

/-- The handle of a session on this part (R14, R83); a guest's is its home's. -/
def sessionHandle (s : State) (x : Session) : Word :=
  x.guest.getD (mkHandle s.rdg.part x.tenant x.slot x.gen)

/-- A flight record of a session, if it is recorded (R377). -/
def recordFlight (s : State) (x : Session) (kind count : Nat) (payload : List Byte) : State :=
  match x.recorder with
  | some q => writeFlight s q { kind := kind, count := count, handle := sessionHandle s x,
                                epoch := s.rdg.map.epoch, payload := payload }
  | none => s

/-- An event that concerns a session: the log entry, and an EVENT record where the session is recorded
(R380). -/
def sessionEvent (s : State) (x : Session) (code detail : Nat) (st : Status := .ok) : State :=
  recordFlight (logEvent s code x.tenant detail) x 3 1
    (eventPayload code st.code detail s.localNs)

/-- An isolation event (R345): 1 frame tag, 2 ridge tag, 3 clear verification; counted, recorded, logged as
event 10. -/
def isolation (s : State) (cause tenant : Nat) : State :=
  logEvent (s.onFbx fun f =>
    { f with tagSkips := if cause = 1 then bump 16 f.tagSkips else f.tagSkips,
             ridgeTags := if cause = 2 then bump 16 f.ridgeTags else f.ridgeTags,
             verifyFails := if cause = 3 then bump 16 f.verifyFails else f.verifyFails,
             isoSeen := true, isoCause := cause, isoTenant := tenant }) 10 tenant cause

/-! ### Ridge frames to send -/

/-- A header with nothing in it. -/
def blankHeader : FrameHeader :=
  { version := 1, type := 0, cls := 0, forwarded := false, retransmit := false, length := 0,
    srcPart := 0, dstPart := 0, dstAddr := 0, srcAddr := 0, epoch := 0, fseq := 0, ack := 0,
    tenant := 0, reqId := 0, object := 0, deadlineUs := 0, status := 0 }

/-- The map's entry of a part (R290). -/
def State.mapPart (s : State) (part : Nat) : Option MapPart :=
  lookupBy (·.number) part s.rdg.map.parts

/-- The map has a part up (Table 13.2). -/
def State.partUp (s : State) (part : Nat) : Bool :=
  match s.mapPart part with
  | some p => p.state == 1
  | none => false

/-- Whether a part number is one of the domain; a domain of one holds only the part itself (R289). -/
def State.partKnown (s : State) (part : Nat) : Bool :=
  part == s.rdg.part || (s.mapPart part).isSome

/-- The state of a ridge peer by address (R286). -/
def State.peer (s : State) (addr : Nat) : Peer :=
  (lookupBy (·.address) addr s.rdg.peers).getD { address := addr }

/-- Change a peer's state. -/
def State.onPeer (s : State) (addr : Nat) (f : Peer → Peer) : State :=
  s.onRdg fun r => { r with peers := upsert (·.address) { f (s.peer addr) with address := addr } r.peers }

/-- The twin of this part, as the map pairs it (R315). -/
def State.twin (s : State) : Option Nat :=
  match s.mapPart s.rdg.part with
  | some p => p.twin
  | none => none

/-- Port n's record. -/
def State.port (s : State) (n : Nat) : Port := (lookupBy (·.number) n s.rdg.ports).getD { number := n }

/-- The general ports that are up, in port order (R284). -/
def State.generalUp (s : State) : List Nat :=
  ((s.rdg.ports.filter fun p => p.state = .up && p.number < 5)).map (·.number)

/-- The general port for a destination part: entry (part mod count) of those up (R284). With none up,
frames wait at port 0. -/
def generalPort (s : State) (part : Nat) : Nat :=
  let up := s.generalUp
  (up[part % max 1 up.length]?).getD 0

/-- The port for a frame: twin traffic takes port 5, or the general ports while port 5 is held down and
twin_fallback is 1 (R284, R316; notes/assumptions/90.md). -/
def framePort (s : State) (part : Nat) (twinTraffic : Bool) : Nat :=
  if twinTraffic && (!((s.port 5).state == .heldDown && bit s.rdg.twinCtl 11)) then 5
  else generalPort s part

/-- Bellows instance n. -/
def State.bellow (s : State) (n : Nat) : Bellow := (lookupBy (·.number) n s.blw.ports).getD { number := n }

/-- Change bellows instance n. -/
def State.onBellow (s : State) (n : Nat) (f : Bellow → Bellow) : State :=
  s.onBlw fun b => { b with ports := upsert (·.number) { f (s.bellow n) with number := n } b.ports }

/-- Change class c of bellows instance n. -/
def State.onClass (s : State) (n c : Nat) (f : BlwClass → BlwClass) : State :=
  s.onBellow n fun b => { b with classes := setAt b.classes c (f ((b.classes[c]?).getD {})) }

/-- Types that the control queue carries: invalidate, its acknowledge, map, acknowledge, keepalive
(R285, R317). -/
def controlType (t : Nat) : Bool := 3 ≤ t && t ≤ 7

/-- Put a frame into the queue it belongs to (R317). -/
def enqueueFrame (s : State) (port : Nat) (f : OutFrame) : State :=
  if controlType f.hdr.type || f.hdr.retransmit then
    s.onBellow port fun b => { b with control := b.control ++ [f] }
  else s.onClass port f.hdr.cls fun c => { c with queue := c.queue ++ [f] }

/-- Payload bytes, a multiple of 4 (Table 13.1): the descriptor and its parameter block; page, line and extent data; the
header, residual stream and records of an activation frame (R176). Where the spec gives a payload no layout its length
is free (notes/assumptions/21.md, 132.md). -/
def payloadBytes (s : State) : Payload → Nat
  | .none => 0
  | .request (.descriptor _ p _) => 64 + ceilDiv p.length 4 * 4
  | .request (.extentWrite _ _ d) => ceilDiv d.length 4 * 4
  | .request (.lineWrite _ _ _ d) => ceilDiv d.length 4 * 4
  | .request (.variant _ _ _ d) => ceilDiv d.length 4 * 4
  | .response (.flue _) => 64
  | .response (.flight _ _) => 64
  | .response (.data d _) => ceilDiv d.length 4 * 4
  | .response (.toHost _ d) => ceilDiv d.length 4 * 4
  | .page _ _ d => ceilDiv d.length 4 * 4
  | .activation f =>
    64 + ceilDiv (2 * (f.residual.map (·.length)).sum) 4 * 4 + 16 * f.records.length
  | _ => Config.payloadLength s.freeCount % 4076 * 4

/-- The frames of a payload: their places and lengths, up to 16,300 bytes each (R176, Table 13.1). -/
def payloadPieces (n : Nat) : List (Nat × Nat) :=
  if n ≤ 16300 then [(0, n)]
  else (List.range (ceilDiv n 16300)).map fun k => (k, min 16300 (n - 16300 * k))

/-- The address of a part: the map's, or, for a part that the map does not list yet, that of the peer which gave
its number at the key exchange (R289, R335). -/
def State.addressOf (s : State) (part : Nat) : Option Nat :=
  match s.mapPart part with
  | some p => some p.address
  | none => (s.rdg.peers.find? fun p => p.part == some part).map (·.address)

/-- Send a payload to a part under a type and class (R285, R294): routed under the present epoch, by the destination's
port, to the address the map gives, in as many frames as it takes (notes/assumptions/21.md). -/
def sendFrame (s : State) (part type cls : Nat) (payload : Payload) (tenant reqId : Nat := 0)
    (object : Word := 0) (deadlineUs : Nat := 0) (status : Status := .ok) (twinTraffic : Bool := false) :
    State :=
  match s.addressOf part with
  | none => s
  | some a =>
    let f : OutFrame :=
      { hdr := { blankHeader with
          type := type, cls := cls, srcPart := s.rdg.part, dstPart := part, dstAddr := a,
          srcAddr := s.rdg.address, epoch := s.rdg.map.epoch, tenant := tenant, reqId := reqId,
          object := object, deadlineUs := deadlineUs, status := BitVec.ofNat 16 status.code },
        payload := payload, sentAt := s.localNs }
    (payloadPieces (payloadBytes s payload)).foldl (fun s (k, n) =>
      enqueueFrame s (framePort s part twinTraffic) { f with hdr := { f.hdr with length := n }, piece := k }) s.bumpFree

/-- A keeper other than this part, the leader first. -/
def someKeeper (s : State) : Option Nat :=
  (s.rdg.map.leader :: s.rdg.map.keepers).find? fun k => k != s.rdg.part && s.rdg.map.keepers.contains k

/-- The replica is revalidated: the epochs that it may have missed are fetched from a keeper (R40, R292). -/
def revalidate (s : State) : State :=
  match someKeeper s with
  | some k => sendFrame s k 5 0 (.map (.fetch (s.rdg.map.epoch + 1)))
  | none => s

/-- Requests whose answer this part acts on by itself; a descriptor's answer goes to the descriptor, and the
others need none. -/
def awaited : Request → Bool
  | .claim _ | .extentRead _ _ _ | .extentWrite _ _ _ | .lineRead _ _ _ | .digestRead _ _ | .lineWrite _ _ _ _
  | .mapper _ _ | .unmapper _ | .unloadAsk _ => true
  | .descriptor _ _ _ | .endOf _ | .imageReport _ _ | .variant _ _ _ _ | .slotEntry _ _ _ _ | .genFloor _ | .share _ _ | .dropMove _
  | .poisonCopy _ _ | .dropCopies _ => false

/-- Ask another part something under a new request identifier (R285, Table 13.1). -/
def sendRequest (s : State) (part cls : Nat) (r : Request) (tenant : Nat := 0) (object : Word := 0)
    (deadlineUs : Nat := 0) (twinTraffic : Bool := false) (about : Option Nat := none)
    (origin : Option Origin := none) : State × Nat :=
  let id := s.rdg.nextReq
  let a : Asked := { id := id, part := part, request := r, cls := cls, tenant := tenant, object := object,
                     about := about, origin := origin }
  (sendFrame (s.onRdg fun g =>
      { g with nextReq := (g.nextReq + 1) % 2 ^ 64,
               asked := if awaited r then g.asked ++ [a] else g.asked }) part 0 cls (.request r) tenant id
    object deadlineUs .ok twinTraffic, id)

/-- Answer a request of another part (R285). -/
def sendResponse (s : State) (part req : Nat) (status : Status) (body : ResponseBody)
    (object : Word := 0) (cls : Nat := 0) : State :=
  sendFrame s part 1 cls (.response body) 0 req object 0 status

/-- Propose a change of the map to the leader keeper (R291); the part keeps it among its proposals until it
is committed or rejected. -/
def propose (s : State) (c : MapChange) : State :=
  let s := s.onRdg fun r => { r with map := { r.map with proposals := r.map.proposals ++ [(r.part, c)] } }
  if s.rdg.map.leader = s.rdg.part then s
  else sendFrame s s.rdg.map.leader 5 0 (.map (.propose c))

/-- Withdraw a proposal of this part. -/
def withdraw (s : State) (c : MapChange) : State :=
  s.onRdg fun r => { r with map := { r.map with
    proposals := r.map.proposals.filter fun p => !(p.1 == r.part && p.2 == c) } }

/-! ### Descriptors in flight -/

/-- The descriptor in flight with an origin. -/
def State.descriptor (s : State) (o : Origin) : Option InFlight := s.desc.find? fun d => d.origin == o

/-- The settings in force now (Table 19.11). -/
def settingsNow (s : State) : FetchSettings := { decode := s.ses.decodeCtl, srch := s.srch.ctl, replay := s.dgn.replayCtl }

/-- The state with those settings that a descriptor found at its fetch (Table 19.11). -/
def asFetched (s : State) (o : Origin) : State :=
  match (s.descriptor o).bind (·.settings) with
  | none => s
  | some f => ((s.onSess fun t => { t with decodeCtl := f.decode }).onSrch fun t => { t with ctl := f.srch }).onDgn
      fun t => { t with replayCtl := f.replay }

/-- Change the descriptor in flight with an origin. -/
def State.onDescriptor (s : State) (o : Origin) (f : InFlight → InFlight) : State :=
  s.onDesc fun l => l.map fun d => if d.origin = o then { f d with origin := o } else d

/-- The session of this part that a descriptor works on: slot, generation and tenant agree (R87). -/
def slotOf (s : State) (d : InFlight) : Option Session :=
  if isSessionOp (dOpcode d.raw) || dOpcode d.raw == opTune || dOpcode d.raw == opCairn then
    match s.session (hSlot (dHandle d.raw)) with
    | some x =>
      if hPart (dHandle d.raw) = s.rdg.part && hGen (dHandle d.raw) = x.gen && x.tenant = d.tenant &&
         hTenant (dHandle d.raw) = d.tenant && x.guest.isNone then some x else none
    | none => none
  else none

/-- What a cancelled descriptor reports at its session's last commit while it waits (R103): an APPEND zero
tokens and the committed length, a GENERATE no token and the length (notes/assumptions/56.md). -/
def waitingResult (s : State) (d : InFlight) : Word :=
  match slotOf s d with
  | some x =>
    if dOpcode d.raw = opAppend || dOpcode d.raw = opGenerate then word [put 63 32 x.log.length] else 0
  | none => 0

/-- Replace an origin by another. -/
def swapOrigin (a b o : Origin) : Origin := if o = a then b else o

/-- An asker whose descriptor takes another origin. -/
def swapAsker (a b : Origin) : Asker → Asker
  | .descriptor o => .descriptor (swapOrigin a b o)
  | k => k

/-- A descriptor in flight takes another origin, wherever the part holds it (R104). -/
def renameOrigin (s : State) (a b : Origin) : State :=
  let f := swapOrigin a b
  let k := swapAsker a b
  let s := s.onDesc fun l => l.map fun d =>
    { d with origin := f d.origin,
             phase := match d.phase with
               | .follows t r => .follows (f t) r
               | p => p }
  let s := s.onSess fun t => { t with table := t.table.map fun x =>
    { x with prefill := x.prefill.map fun p => { p with origin := f p.origin },
             gener := x.gener.map fun g => { g with origin := f g.origin },
             move := x.move.map fun m => { m with origin := f m.origin },
             parkWaits := x.parkWaits.map fun w => (f w.1, w.2),
             heldRecords := x.heldRecords.map fun r => (f r.1, r.2) } }
  let s := s.onImg fun g => { g with slots := g.slots.map fun i => { i with origin := i.origin.map f } }
  let s := s.onSrch fun t =>
    { t with scans := t.scans.map fun q => { q with origin := q.origin.map f },
             waits := t.waits.map fun w => { w with origin := f w.origin, on := w.on.map f } }
  let s := s.onKnd fun g =>
    { g with tokenised := g.tokenised.map fun t => (f t.1, t.2),
             queues := g.queues.map fun u => (u.1, u.2.map fun w => match w with
               | .tokens o n => .tokens (f o) n
               | w => w) }
  s.onRdg fun r =>
    { r with asked := r.asked.map fun q => { q with origin := q.origin.map f },
             lent := r.lent.map fun l => { l with lender := l.lender.map f, revokers := l.revokers.map f },
             regions := r.regions.map fun g =>
               { g with creating := g.creating.map f, unmapping := g.unmapping.map fun u => (u.1, k u.2),
                        ops := g.ops.map fun p => { p with asker := k p.asker } } }

/-- Take a descriptor out of the flight. -/
def dropDescriptor (s : State) (o : Origin) : State := s.onDesc fun l => l.filter fun d => d.origin != o

/-- Descriptors that arrived before one. -/
def State.before (s : State) (o : Origin) : List InFlight := s.desc.takeWhile fun d => d.origin != o

/-- Two origins on one queue pair. -/
def sameQueue : Origin → Origin → Bool
  | .qp a _, .qp b _ => a == b
  | _, _ => false

/-- A fence holds a descriptor: it or an earlier one of its queue pair has fence set, and an earlier one
has not completed (R73). -/
def fenceBlocked (s : State) (d : InFlight) : Bool :=
  (s.before d.origin).any fun e => sameQueue e.origin d.origin && (dFence d.raw || dFence e.raw)

/-- The class of the session a descriptor names on this part, 0 for none (R317, R323). -/
def descriptorClass (s : State) (d : BitVec 512) : Nat :=
  let op := dOpcode d
  if (opAppend ≤ op && op ≤ opClose) || op == opTune || (op == opCairn && dHandle d != 0) then
    match s.session (hSlot (dHandle d)) with
    | some x => if hPart (dHandle d) = s.rdg.part then x.cls else 0
    | none => 0
  else 0

/-- A QUEUE_CANCEL that waits for its target learns how the target ended: result 1 where with CANCELLED, else 0 (R77). -/
def learnEnd (o : Origin) (cancelled : Bool) (e : InFlight) : InFlight :=
  match e.phase with
  | .follows t _ =>
    if t = o && dOpcode e.raw == opCancel then { e with phase := .follows t (if cancelled then 1 else 0) } else e
  | _ => e

/-- End one descriptor: its completion with the status of R10 and every condition (R78), or the response
to the part that sent it (R86); nothing where R104 discards it. -/
def completeOne (s : State) (o : Origin) (conds : List Status) (result : Word) : State :=
  match s.descriptor o with
  | none => s
  | some d =>
    let all := d.conds ++ conds
    let s' := (dropDescriptor s o).onDesc fun l => l.map (learnEnd o (all.contains .cancelled))
    if d.discard then s'
    else match o with
      | .qp q seq =>
        postEntry s' q { subSeq := seq, tag := dTag d.raw,
                         status := BitVec.ofNat 16 (chooseStatus all).code, opcode := dOpcode d.raw,
                         kind := 0, conds := condBits all, result := result,
                         irqNow := dIrqNow d.raw }
      | .ridge part req =>
        sendResponse s' part req (chooseStatus all) (.done result (bitsOfConds all)) (dHandle d.raw)
          (descriptorClass s d.raw)

/-- The part a descriptor is sent to, by its handle: session, index, region and extent descriptors
(R86, R260, R301, R305, R311); none where the fetching part executes it. -/
def routedPart (d : BitVec 512) : Option Nat :=
  let op := dOpcode d
  let h := dHandle d
  if (opAppend ≤ op && op ≤ opClose) || op == opTune || op == opPublish || op == opRevoke ||
     (opEmbed ≤ op && op ≤ opQuery && h != 0) || (op == opCairn && h != 0)
  then some (hPart h) else none

/-- µs left of a deadline, rounded up, at least 1 (R94); 0 for no deadline. -/
def deadlineLeft (s : State) (deadline : Option Nat) : Nat :=
  match deadline with
  | none => 0
  | some t => max 1 (ceilDiv (t - s.localNs) 1000)

/-- Send a descriptor to the part that executes it (R86, R260; notes/assumptions/59.md). -/
def forwardDescriptor (s : State) (d : InFlight) (part : Nat) (param : List Byte) : State :=
  let (s', id) := sendRequest s part 0 (.descriptor d.raw param d.operator) d.tenant (dHandle d.raw)
    (deadlineLeft s d.deadline)
  s'.onDescriptor d.origin fun d => { d with phase := .sent part id }

/-- After a completion, what a fence held moves on: rejected descriptors complete with their failure at
the moment they would have started (R75), descriptors for other parts are sent. -/
def releaseFences (s : State) : State :=
  s.desc.foldl (fun s d =>
    match s.descriptor d.origin with
    | none => s
    | some d =>
      match d.phase with
      | .follows t r => if (s.descriptor t).isSome then s else completeOne s d.origin [] r
      | _ =>
      if fenceBlocked s d then s
      else match d.phase with
        | .rejected st => completeOne s d.origin [st] 0
        | .waiting =>
          match routedPart d.raw, d.origin with
          | some p, .qp _ _ => if p = s.rdg.part || !s.partUp p then s else forwardDescriptor s d p []
          | _, _ => s
        | _ => s) s

/-- Complete a descriptor and let go what waited on it (R73, R75, R78). -/
def complete (s : State) (o : Origin) (conds : List Status) (result : Word := 0) : State :=
  releaseFences (completeOne s o conds result)

/-- Whether a descriptor counts as refused for its tenant (R343) is decided where it is refused; this
completes it with one failing status and no effect. -/
def refuse (s : State) (o : Origin) (st : Status) (result : Word := 0) : State :=
  complete s o [st] result

end Sys2Proof.Machine
end

