-- ==== Sys2Proof/Machine/Hold.lean ====
section
/-!
DEFINITION. A supply hold as shared operations: what a dip episode stops and what its end resumes
(R48, R49), used by the dip commands and by an injected hold (R384).
-/

namespace Sys2Proof.Machine

/-- Pages of a session in transfer: those with a copy under way to another place, those of a move's present round
(R106, R121). -/
def inTransfer (x : Session) : List Nat :=
  ((x.pages.filter fun p => p.target.isSome).map (·.index)) ++
  match x.move with
  | some m => m.sent
  | none => []

/-- Work in flight that a hold interrupts (Table 3.9): a step of every batch with columns, the prefill
chunk of every session in prefill, the clear of every frame that has begun, every page in transfer, which a grate codes or
decodes where it leaves or enters the hearth, every embedding batch and every query that has begun. -/
def workInFlight (s : State) : List HeldWork :=
  ((s.ses.batches.filter fun b => !b.columns.isEmpty && !b.resting).map fun b => HeldWork.step b.id) ++
  ((s.ses.table.filter fun x => x.prefill.isSome).map fun x => HeldWork.chunk x.slot) ++
  (if s.tie.frames.any fun f => f.clearing && f.cleared != 0 then [.clearing] else []) ++
  (s.ses.table.flatMap fun x => (inTransfer x).map fun n => HeldWork.copy x.slot n) ++
  (if s.ses.table.any fun x => !(inTransfer x).isEmpty then [.grate] else []) ++
  (if s.desc.any fun d => d.embed.isSome then [.embed] else []) ++
  (s.srch.scans.filter fun q => q.origin.isSome).map fun q => HeldWork.scan q.slot

/-- The rails' bits in the order of Table 2.3. -/
def railBit : Rail → Nat
  | .vddCore => 0 | .vddHearth => 1 | .vddSerdes => 2 | .vddaSerdes => 3
  | .vddqLp => 4 | .vdd2Lp => 5 | .vddAux => 6

/-- dip_rails as a mask (Table 3.11). -/
def railMask (rs : List Rail) : Nat := (dedup (rs.map fun r => 2 ^ railBit r)).sum

/-- Origins of the requests of one session with work among the held work: its prefill, its step, its move, its park that
waits for the twin (Table 3.9). -/
def sessionHeld (held : List HeldWork) (x : Session) : List Origin :=
  (match x.prefill with
    | some p => if held.contains (.chunk x.slot) then [p.origin] else []
    | none => []) ++
  (match x.gener with
    | some g => if g.batch.any fun b => held.contains (.step b) then [g.origin] else []
    | none => []) ++
  (match x.move with
    | some m => if m.sent.isEmpty then [] else [m.origin]
    | none => []) ++
  (match x.parkWaits with
    | some (o, _) => [o]
    | none => [])

/-- Origins of the requests with work among the held work. -/
def heldOrigins (s : State) (held : List HeldWork) : List Origin :=
  s.ses.table.flatMap (sessionHeld held) ++
  (if held.contains .embed then (s.desc.filter fun d => d.embed.isSome).map (·.origin) else []) ++
  (s.srch.scans.filter fun q => held.contains (.scan q.slot)).filterMap (·.origin)

/-- The brownout flag joins the conditions of every request with work held (R49). -/
def flagHeld (s : State) (held : List HeldWork) : State :=
  (heldOrigins s held).foldl (fun s o => s.onDescriptor o fun d =>
    if d.conds.contains .brownoutRetry then d else { d with conds := d.conds ++ [.brownoutRetry] }) s

/-- Work stops (R48): work in flight stands and is flagged, nothing new starts; refreshes that banks owe
are issued during the hold (R48, R162). An attempt to quiesce stops (R371). -/
def stopWork (s : State) : State :=
  let held := workInFlight s
  (((flagHeld s held).onPwr fun p =>
    { p with heldNow := true, held := p.held ++ held.filter fun w => !p.held.contains w }).onHrt fun h =>
    { h with owedShared := [] }).onFwu fun f => { f with attemptAt := none }

/-- A quiesce attempt's limit in ns (Table 17.10). -/
def quiesceNs (s : State) : Nat := ms (max 1 (fld s.fwu.ctl 7 0))

/-- An attempt to quiesce begins, with the limit that stands now (R371, Table 19.11). -/
def beginAttempt (s : State) : State :=
  s.onFwu fun f => { f with attemptAt := some s.localNs, attemptWait := some (quiesceNs s), retryAt := none }

/-- An attempt to quiesce begins where a live activation waits for its switch and no later try is set (R371). -/
def attemptQuiesce (s : State) : State :=
  if (s.fwu.activation.any fun a => !a.cold && decide (a.epoch ≤ s.rdg.map.epoch)) && s.fwu.retryAt.isNone then
    beginAttempt s
  else s

/-- A dip episode begins (R47, R48); `injected` for a hold without a rail crossing (R384; notes/assumptions/49.md). -/
def beginHold (s : State) (injected : Bool) (rails : List Rail) : State :=
  stopWork (s.onPwr fun p =>
    { p with dipActive := true, dipInjected := injected, injectedLen := 0, dipStart := s.localNs,
             dipLastUp := s.localNs, dipRecoveredAt := s.localNs, dipRails := rails, held := [] })

/-- The trained record of a link. -/
def linkId : Link → Nat
  | .channel n => n
  | .lane n => 96 + n

/-- Two links share a retraining window (Table 3.5): channels of one foothill die, lanes of one port. -/
def sameWindow (a b : Nat) : Bool :=
  (a < 96 && b < 96 && a / 48 == b / 48) || (96 ≤ a && 96 ≤ b && (a - 96) / 8 == (b - 96) / 8)

/-- Whether a link may begin to retrain: retraining allowed, no hold, at most one channel per foothill die
and one lane per port (R44, R45, Table 3.5). -/
def mayRetrainId (p : Power) (n : Nat) : Bool :=
  bit p.marginCtl 16 && !p.heldNow && !(p.links.any fun b => b.retraining && sameWindow b.link n)

/-- Start the link with a number if it is due and may begin. -/
def startLink (p : Power) (n : Nat) : Power :=
  if mayRetrainId p n then
    { p with links := p.links.map fun x =>
        if x.link = n && x.due && !x.retired then { x with retraining := true, due := false } else x }
  else p

/-- Links that are due begin to retrain as their windows allow, in the order of their numbers (R44, R45)
(notes/assumptions/157.md). -/
def startDue (s : State) : State :=
  s.onPwr fun p => (p.links.map (·.link)).foldl startLink p

/-- Work goes on after a hold (R49, Table 3.9): a clear that had begun starts anew, pages in transfer are dirty again,
links that wait retrain (R45), the part tries to quiesce again (R371). Stove clocks return by themselves (`stoveMHz`). -/
def resumeWork (s : State) : State :=
  attemptQuiesce <| startDue
    (((s.onPwr fun p => { p with heldNow := false }).onTie fun t =>
        { t with frames := t.frames.map fun f => if f.clearing then { f with cleared := 0 } else f }).onSess fun t =>
      { t with table := t.table.map fun x =>
          if (inTransfer x).isEmpty then x
          else { x with pages := x.pages.map fun p =>
                          if (inTransfer x).contains p.index then { p with dirty := true } else p,
                        move := x.move.map fun m => { m with sent := [] } } })

/-- Sessions whose step was held. -/
def heldSteppers (s : State) : List Session :=
  s.ses.table.filter fun x => match x.gener with
    | some g => match g.batch with
      | some b => s.pwr.held.contains (.step b)
      | none => false
    | none => false

/-- Length of an episode in µs, from its first crossing to the last return above recovery (R47); a part of a µs counts
as one (DESIGN CHOICE: the spec does not say how last_dip_us rounds, notes/assumptions/122.md). -/
def episodeUs (s : State) : Nat := ceilDiv (s.pwr.dipLastUp - s.pwr.dipStart) 1000

/-- An episode ends without reset: it is counted, with event 13 for the part and 5 for each session whose
step is replayed (R49, R51, Table 18.3). -/
def endHold (s : State) : State :=
  let len := episodeUs s
  let steppers := heldSteppers s
  let s := if s.pwr.heldNow then resumeWork s else s
  let s' := logEvent s 13 0 (railMask s.pwr.dipRails)
  let s' := steppers.foldl (fun s x => sessionEvent s x 5 len) s'
  s'.onPwr fun p =>
    { p with heldNow := false, dipActive := false, dipInjected := false, held := [],
             dipSeen := true, dipCount := bump 16 p.dipCount, lastDipUs := sat 16 len, dipEnd := some s.localNs }

end Sys2Proof.Machine
end

