-- ==== Sys2Proof/Machine/BellowsOps.lean ====
section
/-!
DEFINITION. Shapers, gate control lists and dampers as shared operations (R317 to R325): what the
registers set and what a frame boundary or a metered descriptor reads.
-/

namespace Sys2Proof.Machine

/-! ### Selection (Tables 14.1, 14.10) -/

/-- The selected instance: 7 acts as 6 (Table 14.1). -/
def selPort (s : State) : Nat := min 6 (fld s.blw.portSel 2 0)
/-- The selected class (Table 14.1). -/
def selClass (s : State) : Nat := fld s.blw.portSel 10 8
/-- The selected damper (Table 14.10). -/
def selDamper (s : State) : Nat := fld s.blw.dmpSel 7 0

/-! ### Shapers (R320) -/

/-- rate in thousandths of a byte per ns: units of 100 MB/s (Table 14.3). -/
def BlwClass.rate (c : BlwClass) : Nat := fld c.shape 15 0 * 100
/-- burst in thousandths of a byte; below 17 KiB acts as 17 KiB (Table 14.3). -/
def BlwClass.burst (c : BlwClass) : Nat := max 17 (fld c.shape 31 16) * 1024 * 1000
/-- The bucket refilled to a moment: continuous at rate, stopping at burst (R320). -/
def BlwClass.refill (c : BlwClass) (now : Nat) : BlwClass :=
  { c with bucket := min (c.burst : Int) (c.bucket + (c.rate * (now - c.filled) : Nat)), filled := now }
/-- A shaper lets a frame start: unshaped, or zero or more tokens (R320). -/
def BlwClass.shaped (c : BlwClass) (now : Nat) : Bool := c.rate == 0 || 0 ≤ (c.refill now).bucket

/-- A write to BLW_SHAPE: rate and burst set, the bucket filled to the new burst (R320). -/
def writeShape (s : State) (v : Word) : State :=
  s.onClass (selPort s) (selClass s) fun c =>
    let c := { c with shape := BitVec.ofNat 64 (fld v 31 0) }
    { c with bucket := c.burst, filled := s.localNs }

/-! ### Gate control lists (R321, R322) -/

/-- Cycle time of a gate list. -/
def cycleNs (l : List Gate) : Nat := (l.map (·.ns)).sum

/-- A list is bad when empty, with a duration of 0, or with a cycle outside 1 µs to 1 s (R321). -/
def gateListBad (l : List Gate) : Bool :=
  l.isEmpty || l.any (fun g => g.ns == 0) || cycleNs l < 1000 || 1000000000 < cycleNs l

/-- The pending list: entries 0 up to the one written with last set (Table 14.5); entries never written
stand at mask 0 and duration 0, which makes the list bad. -/
def pendingList (b : Bellow) : List Gate :=
  match b.lastEntry with
  | none => []
  | some n => (List.range (n + 1)).map fun i =>
      ((b.pendingEntries.find? fun e => e.1 == i).map (·.2)).getD { mask := 0, ns := 0 }

/-- A write to BLW_GCL_ENTRY stores the entry at its index in the pending list of the selected ridge port;
with port 6 selected it is ignored (Table 14.5). -/
def writeGateEntry (s : State) (v : Word) : State :=
  if selPort s = 6 then s
  else s.onBellow (selPort s) fun b =>
    let i := fld v 5 0
    let g : Gate := { mask := fld v 15 8, ns := fld v 47 16 }
    { b with entryReg := BitVec.ofNat 64 (put 6 0 (fld v 6 0) + put 47 8 (fld v 47 8)),
             pendingEntries := upsert (·.1) (i, g) b.pendingEntries,
             lastEntry := if bit v 6 then some i
                          else if b.lastEntry = some i then none else b.lastEntry }

/-- The gate list runs: gate_enable is 1 and a list is active (R321). -/
def Bellow.gated (b : Bellow) : Bool := bit b.ctl 8 && !b.active.isEmpty && b.number != 6

/-- Commit the pending list: refused when bad, else it awaits its moment (R321). -/
def commitGates (s : State) : State :=
  if selPort s = 6 then s
  else s.onBellow (selPort s) fun b =>
    let l := pendingList b
    if gateListBad l then { b with refused := true }
    else { b with committed := some l, refused := false }

/-- Empty the pending list and withdraw a commit not yet in effect (Table 14.6). -/
def discardGates (s : State) : State :=
  if selPort s = 6 then s
  else s.onBellow (selPort s) fun b =>
    { b with pendingEntries := [], lastEntry := none, committed := none, refused := false }

/-- The moment a committed list takes effect: the later of base_ns and the end of the active cycle in
progress (R321; notes/assumptions/112.md). -/
def effectMoment (b : Bellow) : Nat :=
  if b.gated then max b.gclBase.toNat (b.cycleAt + cycleNs b.active) else b.gclBase.toNat

/-- A write to BLW_PORT_CTL; gate_enable is ignored for port 6, and a gate list begins to run at entry 0
when gate_enable is set (Table 14.2, notes/assumptions/23.md). -/
def writePortCtl (s : State) (v : Word) : State :=
  s.onBellow (selPort s) fun b =>
    let ctl := BitVec.ofNat 64 (fld v 8 0)
    if bit v 8 && !bit b.ctl 8 then
      { b with ctl := ctl, index := 0, entryAt := s.localNs, cycleAt := s.localNs }
    else { b with ctl := ctl }

/-- Lanes that carry traffic on a port: those up, less one that retrains (R283, Table 3.5). -/
def portLanes (s : State) (n : Nat) : Nat :=
  let up := (List.range 8).filter fun i => (s.port n).lanes.toNat.testBit i
  let busy := s.pwr.links.filter fun l => l.retraining && 96 + 8 * n ≤ l.link && l.link < 104 + 8 * n
  up.length - busy.length

/-- A class's gate in an entry. -/
def gateOpen (g : Gate) (cls : Nat) : Bool := g.mask.testBit cls

/-- ns until the class's gate next closes, over the entries to come; none where it stays open. -/
def closesIn (cls : Nat) : List Gate → Nat → Option Nat
  | [], _ => none
  | g :: gs, acc => if gateOpen g cls then closesIn cls gs (acc + g.ns) else some acc

/-- The entries after the present one: the rest of the cycle, then the list that follows it. -/
def entriesAhead (b : Bellow) : List Gate :=
  let next := match b.committed with
    | some l => if b.gclBase.toNat ≤ b.cycleAt + cycleNs b.active then l else b.active
    | none => b.active
  b.active.drop (b.index + 1) ++ next

/-- The gate of a class is open on an instance now (R321). -/
def gateNow (b : Bellow) (cls : Nat) : Bool :=
  if !b.gated then true
  else match b.active[b.index]? with
    | some g => gateOpen g cls
    | none => true

/-- The class stands in its guard band: less than G before its gate closes, G = (16,384 + overhead) over
50 bytes per ns and lane (R322). -/
def inGuard (s : State) (b : Bellow) (cls : Nat) : Bool :=
  if !b.gated then false
  else match b.active[b.index]? with
    | none => false
    | some g =>
      match closesIn cls (entriesAhead b) (b.entryAt + g.ns - s.localNs) with
      | none => false
      | some t => t * (50 * portLanes s b.number) < 16384 + fld b.ctl 7 0

/-! ### Dampers (R323 to R325) -/

/-- Damper n, at reset values where nothing has written it. -/
def State.damper (s : State) (n : Nat) : Damper :=
  (lookupBy (·.number) n s.blw.dampers).getD { number := n }

/-- Change damper n. -/
def State.onDamper (s : State) (n : Nat) (f : Damper → Damper) : State :=
  s.onBlw fun b => { b with dampers := upsert (·.number) { f (s.damper n) with number := n } b.dampers }

/-- Parameters that break R324: pir below cir, or cbs or pbs at 0, on an enabled damper (notes/assumptions/142.md). -/
def Damper.bad (d : Damper) : Bool :=
  bit d.ctl 0 && (fld d.rate 63 32 < fld d.rate 31 0 || fld d.burst 31 0 == 0 || fld d.burst 63 32 == 0)

/-- One unit in the bucket's unit. -/
def bucketUnit : Nat := 1000000000

/-- Both buckets full (R325). -/
def Damper.fill (d : Damper) (now : Nat) : Damper :=
  { d with tc := fld d.burst 31 0 * bucketUnit, tp := fld d.burst 63 32 * bucketUnit, filled := now }

/-- Both buckets refilled to a moment at cir and pir, stopping at cbs and pbs (R324): per ns a rate of one
unit per second adds one 10^-9 of a unit; bytes mode counts rates in 1,000 bytes per second. -/
def Damper.refill (d : Damper) (now : Nat) : Damper :=
  let scale := if bit d.ctl 3 then 1 else 1000
  let dt := now - d.filled
  { d with tc := min (fld d.burst 31 0 * bucketUnit) (d.tc + fld d.rate 31 0 * scale * dt),
           tp := min (fld d.burst 63 32 * bucketUnit) (d.tp + fld d.rate 63 32 * scale * dt),
           filled := now }

/-- The damper meters at a point: 0 host, 1 ridge; 2 and 3 both (Table 14.11). -/
def Damper.covers (d : Damper) (point : Nat) : Bool :=
  let p := fld d.ctl 2 1
  p ≥ 2 || p == point

/-- The damper matches a descriptor (R323). -/
def Damper.matchesDescriptor (d : Damper) (point tenant cls : Nat) : Bool :=
  bit d.ctl 0 && !d.bad && d.covers point &&
  (bit d.ctl 5 || fld d.ctl 17 6 == tenant) && (fld d.ctl 25 18).testBit cls

/-- Colours of R324. -/
inductive Colour where
  | green | yellow | red
  deriving DecidableEq, Repr

/-- The pre-colour of a class: green unless colour-aware; a map value of 3 acts as green (R324). -/
def Damper.preColour (d : Damper) (cls : Nat) : Colour :=
  if !bit d.ctl 4 then .green
  else match fld d.ctl (29 + 2 * cls) (28 + 2 * cls) with
    | 1 => .yellow
    | 2 => .red
    | _ => .green

/-- The colour of a descriptor of B units and the buckets after it (R324). -/
def Damper.colour (d : Damper) (cls b : Nat) : Colour × Damper :=
  let need := b * bucketUnit
  let pre := d.preColour cls
  if pre = .red || d.tp < need then (.red, { d with red := bump 32 d.red })
  else if pre = .yellow || d.tc < need then
    (.yellow, { d with tp := d.tp - need, yellow := bump 32 d.yellow })
  else (.green, { d with tp := d.tp - need, tc := d.tc - need, green := bump 32 d.green })

/-- Whether a colour is refused (R325). -/
def Damper.refuses (d : Damper) : Colour → Bool
  | .green => false
  | .yellow => bit d.ctl 26
  | .red => !bit d.ctl 27

/-- The lowest-numbered damper that matches (R323). -/
def matchingDamper (s : State) (point tenant cls : Nat) : Option Nat :=
  (List.range 256).find? fun n =>
    match lookupBy (·.number) n s.blw.dampers with
    | some d => d.matchesDescriptor point tenant cls
    | none => false

/-- Meter a descriptor at a point: whether it is refused, and the state with colours and refusals counted
(R323 to R325). -/
def meter (s : State) (point tenant cls bytes : Nat) : Bool × State :=
  match matchingDamper s point tenant cls with
  | none => (false, s)
  | some n =>
    let d := (s.damper n).refill s.localNs
    let (c, d') := d.colour cls (if bit d.ctl 3 then 1 else bytes)
    let r := d.refuses c
    let s' := s.onDamper n fun _ => if r then { d' with refused := bump 32 d'.refused } else d'
    (r, if r then countTenant s' tenant 5 1 else s')

/-- Opcodes never metered: NOP, QUEUE_CANCEL, SESSION_CLOSE and the operator opcodes (R323). -/
def unmetered (op : Nat) : Bool :=
  op == opNop || op == opCancel || op == opClose || operatorOpcodes.contains op

/-- A write to BLW_DMP_CTL, _RATE or _BURST of the selected damper (R325): RATE and BURST, and a CTL that
sets enable, fill both buckets. -/
def writeDamper (s : State) (reg : Nat) (v : Word) : State :=
  s.onDamper (selDamper s) fun d =>
    match reg with
    | 0 =>
      let d := { d with ctl := BitVec.ofNat 64 (fld v 43 0) }
      if bit v 0 then d.fill s.localNs else d
    | 1 => { d with rate := v }.fill s.localNs
    | 2 => { d with burst := v }.fill s.localNs
    | _ => d

end Sys2Proof.Machine
end

