-- ==== Sys2Proof/Machine/Float.lean ====
section
/-!
DEFINITION. The number formats the part computes in: IEEE 754 binary32 (R147, R227), FP16, BF16,
FP8 E4M3 (R148, R204). Every operation is exact on the values and rounds once, to nearest with ties
to even; subnormals are kept (R147).
-/

namespace Sys2Proof.Machine

/-- A floating-point value: not a number, an infinity, or (-1)^neg × m × 2^e. -/
inductive Fl where
  | nan
  | inf (neg : Bool)
  | fin (neg : Bool) (m : Nat) (e : Int)
  deriving DecidableEq, Repr

/-- Positive zero. -/
def flZero : Fl := .fin false 0 0

/-- The signed mantissa brought to a lower exponent. -/
def flAlign (neg : Bool) (m : Nat) (e e0 : Int) : Int :=
  let v : Int := Int.ofNat (m <<< (e - e0).toNat)
  if neg then -v else v

/-- Exact sum. A sum of zero is positive unless both terms are negative zeros. -/
def flAdd : Fl → Fl → Fl
  | .nan, _ => .nan
  | _, .nan => .nan
  | .inf a, .inf b => if a = b then .inf a else .nan
  | .inf a, .fin _ _ _ => .inf a
  | .fin _ _ _, .inf b => .inf b
  | .fin s m e, .fin t n f =>
    if m = 0 ∧ n = 0 then .fin (s && t) 0 0
    else
      let e0 := min e f
      let v := flAlign s m e e0 + flAlign t n f e0
      if v = 0 then flZero else .fin (decide (v < 0)) v.natAbs e0

/-- Exact product. -/
def flMul : Fl → Fl → Fl
  | .nan, _ => .nan
  | _, .nan => .nan
  | .inf a, .inf b => .inf (a != b)
  | .inf a, .fin t n _ => if n = 0 then .nan else .inf (a != t)
  | .fin s m _, .inf b => if m = 0 then .nan else .inf (s != b)
  | .fin s m e, .fin t n f => .fin (s != t) (m * n) (e + f)

/-- A quotient, exact to 64 bits more than the dividend's with the rest in its last bit, so that it rounds as the exact one
does. -/
def flDiv : Fl → Fl → Fl
  | .nan, _ => .nan
  | _, .nan => .nan
  | .inf _, .inf _ => .nan
  | .inf a, .fin t _ _ => .inf (a != t)
  | .fin s _ _, .inf b => .fin (s != b) 0 0
  | .fin s m e, .fin t n f =>
    if n = 0 then (if m = 0 then .nan else .inf (s != t))
    else .fin (s != t) (2 * ((m <<< 64) / n) + (if (m <<< 64) % n = 0 then 0 else 1)) (e - f - 65)

/-- The negation. -/
def flNeg : Fl → Fl
  | .nan => .nan
  | .inf a => .inf (!a)
  | .fin s m e => .fin (!s) m e

/-- Exact comparison of finite values and infinities; false where either is not a number. -/
def flLt : Fl → Fl → Bool
  | .nan, _ => false
  | _, .nan => false
  | .inf a, .inf b => a && !b
  | .inf a, .fin _ _ _ => a
  | .fin _ _ _, .inf b => !b
  | .fin s m e, .fin t n f =>
    let e0 := min e f
    decide (flAlign s m e e0 < flAlign t n f e0)

/-- m / 2^s rounded to nearest, ties to even. -/
def shiftRne (m s : Nat) : Nat :=
  let q := m >>> s
  let r := m % 2 ^ s
  if 2 * r > 2 ^ s then q + 1
  else if 2 * r = 2 ^ s then (if q % 2 = 1 then q + 1 else q)
  else q

/-- Round m × 2^e to p bits of mantissa with a least exponent qmin: the mantissa and exponent. -/
def roundTo (p : Nat) (qmin : Int) (m : Nat) (e : Int) : Nat × Int :=
  if m = 0 then (0, qmin)
  else
    let q := max (e + Int.ofNat (m.log2 + 1) - Int.ofNat p) qmin
    if q ≤ e then (m <<< (e - q).toNat, q)
    else
      let r := shiftRne m (q - e).toNat
      if r = 2 ^ p then (2 ^ (p - 1), q + 1) else (r, q)

/-- Encode a value in a format with p mantissa bits (hidden bit counted), w exponent bits and the
bias that gives qmin, as sign, exponent, fraction; out of range gives the pattern named. -/
def encodeFl (p w : Nat) (qmin : Int) (tooBig nanBits : Nat) (maxField : Nat) : Fl → Nat
  | .nan => nanBits
  | .inf s => putBit (p - 1 + w) s + tooBig
  | .fin s m e =>
    let (r, q) := roundTo p qmin m e
    let sign := putBit (p - 1 + w) s
    if r < 2 ^ (p - 1) then sign + r
    else
      let field := ((q - qmin) + 1).toNat
      let body := field * 2 ^ (p - 1) + (r - 2 ^ (p - 1))
      if body > maxField then sign + tooBig else sign + body

/-- binary32 from its bits. -/
def f32 (b : BitVec 32) : Fl :=
  let s := bit b 31
  let x := fld b 30 23
  let f := fld b 22 0
  if x = 255 then (if f = 0 then .inf s else .nan)
  else if x = 0 then .fin s f (-149)
  else .fin s (2 ^ 23 + f) (Int.ofNat x - 150)

/-- A value rounded to binary32. -/
def toF32 (x : Fl) : BitVec 32 :=
  BitVec.ofNat 32 (encodeFl 24 8 (-149) 0x7F800000 0x7FC00000 0x7F7FFFFF x)

/-- FP16 from its bits. -/
def f16 (b : BitVec 16) : Fl :=
  let s := bit b 15
  let x := fld b 14 10
  let f := fld b 9 0
  if x = 31 then (if f = 0 then .inf s else .nan)
  else if x = 0 then .fin s f (-24)
  else .fin s (2 ^ 10 + f) (Int.ofNat x - 25)

/-- A value rounded to FP16. -/
def toF16 (x : Fl) : BitVec 16 :=
  BitVec.ofNat 16 (encodeFl 11 5 (-24) 0x7C00 0x7E00 0x7BFF x)

/-- A value rounded to BF16. -/
def toBf16 (x : Fl) : BitVec 16 :=
  BitVec.ofNat 16 (encodeFl 8 8 (-133) 0x7F80 0x7FC0 0x7F7F x)

/-- BF16 from its bits: the upper half of a binary32 value (Table 10.1). -/
def bf16 (b : BitVec 16) : Fl := f32 (BitVec.ofNat 32 (b.toNat <<< 16))

/-- FP8 E4M3 from its bits: bias 7, no infinity, 0x7F and 0xFF not numbers. -/
def e4m3 (b : Byte) : Fl :=
  let s := bit b 7
  let x := fld b 6 3
  let f := fld b 2 0
  if x = 15 ∧ f = 7 then .nan
  else if x = 0 then .fin s f (-9)
  else .fin s (8 + f) (Int.ofNat x - 10)

/-- A value rounded to E4M3, saturated at ±448 (R134, R204). -/
def toE4m3 (x : Fl) : Byte := BitVec.ofNat 8 (encodeFl 4 4 (-9) 0x7E 0x7F 0x7E x)

/-- FP8 E5M2 from its bits: the upper half of an FP16 value (Table 10.1). -/
def e5m2 (b : Byte) : Fl := f16 (BitVec.ofNat 16 (b.toNat <<< 8))

/-- A value rounded to E5M2, saturated at ±57,344 (R227). -/
def toE5m2 (x : Fl) : Byte := BitVec.ofNat 8 (encodeFl 3 5 (-16) 0x7B 0x7F 0x7B x)

/-- FP4 E2M1 from its four bits, times 2^(x - 127) for the exponent byte x of its block (Table 10.1); a block whose byte is
0xFF reads as zeros (R149). -/
def e2m1 (x n : Nat) : Fl :=
  if x = 255 then flZero
  else
    let e := n / 2 % 4
    let p := Int.ofNat x - 127
    if e = 0 then .fin (n / 8 % 2 == 1) (n % 2) (p - 1) else .fin (n / 8 % 2 == 1) (2 + n % 2) (p + Int.ofNat e - 2)

/-- Does rounding to E4M3 saturate (R204 counts it)? The bound is the midpoint above 448. -/
def satE4m3 : Fl → Bool
  | .nan => false
  | .inf _ => true
  | .fin _ m e => flLt (.fin false 448 0) (.fin false m e)

/-- binary32 addition (R147). -/
def addF32 (a b : BitVec 32) : BitVec 32 := toF32 (flAdd (f32 a) (f32 b))

/-- binary32 multiplication (R148). -/
def mulF32 (a b : BitVec 32) : BitVec 32 := toF32 (flMul (f32 a) (f32 b))

/-- binary32 division. -/
def divFl32 (a b : BitVec 32) : BitVec 32 := toF32 (flDiv (f32 a) (f32 b))

/-- Add an exact product into a binary32 sum (R147: products exact, sums rounded). -/
def macF32 (acc : BitVec 32) (x y : Fl) : BitVec 32 := toF32 (flAdd (f32 acc) (flMul x y))

/-- Order key of a binary32 value: larger value, larger key; both zeros alike; meaningless for a NaN. -/
def f32Key (b : BitVec 32) : Int :=
  let mag := Int.ofNat (fld b 30 0)
  if bit b 31 then -mag else mag

/-- A binary32 value that is not a number. -/
def isNanF32 (b : BitVec 32) : Bool := decide (fld b 30 0 > 0x7F800000)

/-- A whole number as binary32. -/
def natF32 (n : Nat) : BitVec 32 := toF32 (.fin false n 0)

/-- Positive finite binary32, as the scales of R201 must be. -/
def posFiniteF32 (b : BitVec 32) : Bool :=
  !bit b 31 && decide (0 < fld b 30 0) && decide (fld b 30 0 < 0x7F800000)

/-- Finite binary32. -/
def finiteF32 (b : BitVec 32) : Bool := decide (fld b 30 23 ≠ 255)

/-- FP16 that R98 refuses: a NaN, or below zero (-0 apart). -/
def refusedF16 (b : BitVec 16) : Bool :=
  decide (fld b 14 0 > 0x7C00) || (bit b 15 && decide (fld b 14 0 > 0))

end Sys2Proof.Machine
end

