-- ==== Sys2Proof/Machine/Coding.lean ====
section
/-!
DEFINITION. The coded page format (R132 to R134, R138): canonical Huffman codes, sub-block modes,
narrowing and widening, headers, and the checks that fail a page on decode (R133).
-/

namespace Sys2Proof.Machine

/-! ### Bit streams and canonical codes (R133) -/

/-- The low bits of a number, least significant first. -/
def lowBits : Nat → Nat → List Bool
  | 0, _ => []
  | n + 1, v => v.testBit 0 :: lowBits n (v / 2)

/-- The number spelled by bits, least significant first. -/
def bitsNat : List Bool → Nat
  | [] => 0
  | b :: bs => (if b then 1 else 0) + 2 * bitsNat bs

/-- Bits packed into bytes from the least significant bit, padded to a byte. -/
def packBits (bits : List Bool) : List Byte :=
  (chunks 8 (bits.length + 1) bits).map fun c => BitVec.ofNat 8 (bitsNat c)

/-- The bits of bytes, least significant first. -/
def unpackBits (bytes : List Byte) : List Bool := (bytes.map fun b => lowBits 8 b.toNat).flatten

/-- Merge the two lightest nodes until one is left; each merge deepens the symbols in both by one. -/
def huffMerge : Nat → List (Nat × List Nat) → List Nat → List Nat
  | n + 1, a :: b :: rest, lens =>
    let lens := (a.2 ++ b.2).foldl (fun l t => setAt l t ((l[t]?).getD 0 + 1)) lens
    huffMerge n (insertBy (fun x y => decide (x.1 < y.1)) (a.1 + b.1, a.2 ++ b.2) rest) lens
  | _, _, lens => lens

/-- Code lengths with the fewest coded bits for k symbols with the counts given; one symbol alone takes
length 1 (R133). Between equal weights the choice is the model's (notes/assumptions/25.md). -/
def codeLengths (k : Nat) (syms : List Nat) : List Nat :=
  let counts := (List.range k).map fun t => (syms.filter (· == t)).length
  let nodes := sortBy (fun (x y : Nat × List Nat) => decide (x.1 < y.1))
    ((counts.zipIdx.filter fun c => c.1 != 0).map fun c => (c.1, [c.2]))
  match nodes with
  | [n] => (List.range k).map fun t => if n.2.contains t then 1 else 0
  | _ => huffMerge k nodes (List.replicate k 0)

/-- The first code of a length, as RFC 1951 counts it. -/
def firstCode (lens : List Nat) : Nat → Nat
  | 0 => 0
  | n + 1 => (firstCode lens n + (if n = 0 then 0 else (lens.filter (· == n)).length)) * 2

/-- The code of a symbol, most significant bit first. -/
def symbolCode (lens : List Nat) (t : Nat) : List Bool :=
  let l := (lens[t]?).getD 0
  let code := firstCode lens l + ((lens.take t).filter (· == l)).length
  (lowBits l code).reverse

/-- The code stream of symbols. -/
def codeStream (lens : List Nat) (syms : List Nat) : List Bool :=
  (syms.map (symbolCode lens)).flatten

/-- Code lengths oversubscribe the code space (R133). -/
def oversubscribed (lens : List Nat) : Bool :=
  decide (2 ^ 15 < ((lens.filter (· != 0)).map fun l => 2 ^ (15 - l)).sum)

/-- One symbol from the front of a stream; none where it ends first or no code matches. -/
def readSymbol (codes : List (List Bool × Nat)) : Nat → List Bool → List Bool → Option (Nat × List Bool)
  | 0, _, _ => none
  | n + 1, seen, bits =>
    match bits with
    | [] => none
    | b :: rest =>
      let seen := seen ++ [b]
      match codes.find? fun c => c.1 == seen with
      | some c => some (c.2, rest)
      | none => readSymbol codes n seen rest

/-- n symbols from a stream. -/
def readSymbols (codes : List (List Bool × Nat)) : Nat → List Bool → Option (List Nat)
  | 0, _ => some []
  | n + 1, bits =>
    match readSymbol codes 15 [] bits with
    | none => none
    | some (t, rest) => (readSymbols codes n rest).map (t :: ·)

/-- A code stream of n symbols under code lengths. -/
def decodeStream (lens : List Nat) (n : Nat) (bytes : List Byte) : Option (List Nat) :=
  if oversubscribed lens then none
  else readSymbols ((lens.zipIdx.filter fun l => l.1 != 0).map fun l => (symbolCode lens l.2, l.2)) n
    (unpackBits bytes)

/-! ### Narrowing (R134) -/

/-- Magnitude as mantissa and exponent; none for what is not a finite value. -/
def magnitude : Fl → Option (Bool × Nat × Int)
  | .fin s m e => some (s, m, e)
  | _ => none

/-- floor(log2) of a non-zero finite value. -/
def floorLog2 (m : Nat) (e : Int) : Int := Int.ofNat m.log2 + e

/-- m × 2^e to the nearest integer, ties to even. -/
def roundInt (m : Nat) (e : Int) : Nat := if 0 ≤ e then m <<< e.toNat else shiftRne m (-e).toNat

/-- The exponent byte and the six-bit values of 32 E4M3 values. A block that holds a NaN has no stated
result (notes/assumptions/26.md). -/
def narrowBlock (bytes : List Byte) : Nat × List Nat :=
  let vals := bytes.filterMap fun b => magnitude (e4m3 b)
  if vals.length < bytes.length then Config.narrowNan bytes
  else
    match (vals.filter fun v => v.2.1 != 0).map fun v => floorLog2 v.2.1 v.2.2 with
    | [] => (0, bytes.map fun _ => 0)
    | l :: ls =>
      let e := ls.foldl max l
      ((e + 16).toNat, vals.map fun (neg, m, x) =>
        let q := min 31 (roundInt m (x - (e - 4)))
        if neg then (64 - q) % 64 else q)

/-- The E4M3 value of a six-bit value under an exponent byte. -/
def widenValue (expByte q : Nat) : Byte :=
  let e : Int := Int.ofNat expByte - 16
  if q < 32 then toE4m3 (.fin false q (e - 4)) else toE4m3 (.fin true (64 - q) (e - 4))

/-- The widened bytes of exponent bytes and six-bit values. -/
def widenAll (exps qs : List Nat) : List Byte :=
  qs.zipIdx.map fun (q, i) => widenValue ((exps[i / 32]?).getD 0) q

/-- The narrowed form of a 4 KiB sub-block: 128 exponents, 4,096 six-bit values. -/
def narrowSub (bytes : List Byte) : List Nat × List Nat :=
  let blocks := (chunks 32 (bytes.length + 1) bytes).map narrowBlock
  (blocks.map (·.1), (blocks.map (·.2)).flatten)

/-! ### Sub-blocks (Tables 6.7, 6.8) -/

/-- Pad with zeros to a multiple. -/
def padTo (n : Nat) (bs : List Byte) : List Byte :=
  bs ++ List.replicate (ceilDiv bs.length n * n - bs.length) 0

/-- A sub-block header. -/
def subHeader (mode codeLen : Nat) (lens : List Nat) : List Byte :=
  leBytes 16 (put 3 0 mode + put 31 16 codeLen +
    (lens.zipIdx.map fun (l, i) => put (4 * i + 35) (4 * i + 32) l).sum)

/-- A list of fixed-width values packed from bit 0. -/
def packFields (w : Nat) (vs : List Nat) : List Byte := packBits ((vs.map (lowBits w)).flatten)

/-- The fixed-width values packed in bytes. -/
def unpackFields (w n : Nat) (bs : List Byte) : List Nat :=
  (List.range n).map fun i => bfld bs (w * i + w - 1) (w * i)

/-- The shorter of two, the first where they are equal (R133). -/
def shorter (a b : List Byte) : List Byte := if b.length < a.length then b else a

/-- Mode 1 of 4,096 bytes. -/
def planeCoded (bytes : List Byte) : List Byte :=
  let syms := bytes.map fun b => b.toNat / 16
  let lens := codeLengths 16 syms
  let code := packBits (codeStream lens syms)
  padTo 8 (subHeader 1 code.length lens ++ code ++ packFields 4 (bytes.map fun b => b.toNat % 16))

/-- A sub-block under lossless coding: modes 0, 1, 3. -/
def codeLossless (bytes : List Byte) : List Byte :=
  if bytes.all (· == 0) then subHeader 3 0 []
  else shorter (subHeader 0 0 [] ++ bytes) (planeCoded bytes)

/-- Mode 2 of exponents and six-bit values. -/
def narrowCoded (exps qs : List Nat) : List Byte :=
  let syms := qs.map (· / 8)
  let lens := codeLengths 8 syms
  let code := packBits (codeStream lens syms)
  padTo 8 (subHeader 2 code.length lens ++ exps.map (BitVec.ofNat 8) ++ code ++
    packFields 3 (qs.map (· % 8)))

/-- Mode 4. -/
def narrowStored (exps qs : List Nat) : List Byte :=
  padTo 8 (subHeader 4 0 [] ++ exps.map (BitVec.ofNat 8) ++ packFields 6 qs)

/-- A sub-block under narrowed coding: modes 2, 3, 4. -/
def codeNarrowed (bytes : List Byte) : List Byte :=
  let (exps, qs) := narrowSub bytes
  if (widenAll exps qs).all (· == 0) then subHeader 3 0 []
  else shorter (narrowCoded exps qs) (narrowStored exps qs)

/-- A sub-block decoded under a coding; none where a check of R133 fails or the mode is not allowed. -/
def decodeSub (coding : Nat) (sub : List Byte) : Option (List Byte) :=
  let mode := bfld sub 3 0
  let codeLen := bfld sub 31 16
  let data := sub.drop 16
  let size := fun n => decide (sub.length = ceilDiv (16 + n) 8 * 8)
  match mode with
  | 0 => if coding = 1 && size 4096 then some (data.take 4096) else none
  | 1 =>
    let lens := (List.range 16).map fun i => bfld sub (4 * i + 35) (4 * i + 32)
    if coding = 1 && size (codeLen + 2048) then
      (decodeStream lens 4096 (data.take codeLen)).map fun hi =>
        (hi.zip (unpackFields 4 4096 (data.drop codeLen))).map fun (h, l) =>
          BitVec.ofNat 8 (16 * h + l)
    else none
  | 2 =>
    let lens := (List.range 8).map fun i => bfld sub (4 * i + 35) (4 * i + 32)
    if coding = 2 && size (128 + codeLen + 1536) then
      match decodeStream lens 4096 (slice data 128 codeLen) with
      | none => none
      | some hi =>
        let qs := (hi.zip (unpackFields 3 4096 (data.drop (128 + codeLen)))).map fun (h, l) => 8 * h + l
        if qs.contains 32 then none else some (widenAll ((data.take 128).map (·.toNat)) qs)
    else none
  | 3 => if size 0 then some (List.replicate 4096 0) else none
  | 4 =>
    if coding = 2 && size (128 + 3072) then
      let qs := unpackFields 6 4096 (data.drop 128)
      if qs.contains 32 then none else some (widenAll ((data.take 128).map (·.toNat)) qs)
    else none
  | _ => none

/-! ### Pages (Table 6.6) -/

/-- What a page holds once decoded after narrowing. -/
def widened (content : List Byte) : List Byte :=
  ((chunks 4096 17 content).map fun b => let (e, q) := narrowSub b; widenAll e q).flatten

/-- A coded page: header, sub-blocks, padded to whole granules (R132). -/
def codePage (kind epoch wseq : Nat) (narrow : Bool) (content : List Byte) : List Byte :=
  let content' := if narrow then widened content else content
  let zero := content'.all (· == 0)
  let subs := if zero then []
    else (chunks 4096 17 content).map (if narrow then codeNarrowed else codeLossless)
  let body := subs.flatten
  let granules := ceilDiv (64 + body.length) 512
  let lens := (subs.zipIdx.map fun (b, i) => put (10 * i + 329) (10 * i + 320) (b.length / 8)).sum
  padTo 512 (leBytes 64
    (put 3 0 1 + put 7 4 (if zero then 3 else if narrow then 2 else 1) + put 11 8 kind +
     put 23 16 granules + put 127 64 epoch + put 191 128 wseq +
     put 319 192 (pageTag content').toNat + lens) ++ body)

/-- Granules a coded page occupies. -/
def granulesOf (coded : List Byte) : Nat := ceilDiv coded.length 512

/-- The pair of a coded page (R140). -/
def codedPair (coded : List Byte) : Nat × Nat := (bfld coded 127 64, bfld coded 191 128)

/-- The tag of a coded page. -/
def codedTag (coded : List Byte) : BitVec 128 := BitVec.ofNat 128 (bfld coded 319 192)

/-- Sub-blocks split off by their lengths; none where they overrun the data. -/
def splitSubs : List Nat → List Byte → Option (List (List Byte))
  | [], _ => some []
  | n :: ns, bs =>
    if bs.length < n || n < 16 then none else (splitSubs ns (bs.drop n)).map (bs.take n :: ·)

/-- The content of a coded page; none where it fails its check (R133, R138). -/
def decodePage (coded : List Byte) : Option (List Byte) :=
  let coding := bfld coded 7 4
  let content :=
    if bfld coded 3 0 ≠ 1 then none
    else if coding = 3 then some (List.replicate 65536 0)
    else
      let lens := (List.range 16).map fun i => 8 * bfld coded (10 * i + 329) (10 * i + 320)
      (splitSubs lens (coded.drop 64)).bind fun subs =>
        (subs.mapM (decodeSub coding)).map List.flatten
  match content with
  | some c => if pageTag c = codedTag coded then some c else none
  | none => none

end Sys2Proof.Machine
end

