-- ==== Sys2Proof/Machine/Resets.lean ====
section
/-!
DEFINITION. The resets of R40 as shared operations: what each preserves (Table 3.4), the settings-format
reset of R372, and the fallback of R373.
-/

namespace Sys2Proof.Machine

/-- Firmware state in boot flash: what no reset alters (R40), with open downloads discarded (R368) and
what is not in flash at its reset value. -/
def flashOnly (f : Firmware) : Firmware :=
  { slots := f.slots.map fun x => if x.state = 1 then { x with state := 0 } else x,
    active := f.active, confirmed := f.confirmed, coldSlot := f.coldSlot, flashDogs := f.flashDogs,
    config := f.config, pendingCfg := f.pendingCfg, chain := f.chain,
    repairs := f.repairs, rejected := f.rejected, romRecovery := f.romRecovery }

/-- Every index is lost by a cold or power-on reset; its slot keeps tenant and generation, so that its handles
complete with STATE_LOST until the slot is reused (R282, notes/assumptions/31.md). -/
def lostIndexes (s : State) : List Index :=
  s.srch.indexes.map fun x =>
    { slot := x.slot, gen := x.gen, tenant := x.tenant, lost := x.live || x.lost }

/-- Power-on reset: everything but boot flash at its reset value (R33, R40, Table 3.4). The queue of
waiting commands and the model's own record of outputs stand. PORST_N is taken as low after it, as the board holds it
while rails rise (R35), whatever it was before (DESIGN CHOICE, notes/assumptions/1.md; notes/assumptions/43.md). -/
def powerOnState (s : State) : State :=
  { State.reset with pending := s.pending, out := s.out, freeCount := s.freeCount,
                     srch := { indexes := lostIndexes s },
                     fwu := flashOnly s.fwu, fbx := { draws := s.fbx.draws },
                     pins := { warmrstN := s.pins.warmrstN, throttleN := s.pins.throttleN } }

/-- The cold-reset effects of Table 3.4: the local counter, boot flash, the pins, the supply monitors and
what the firebox keeps on VDD_AUX stand (the generation floor R85, retired slots R84, boot_count,
dip_count, seq_fault); everything else is at its reset value (notes/assumptions/44.md). -/
def coldState (s : State) (cause : Nat) : State :=
  { State.reset with
    pending := s.pending, localNs := s.localNs, out := s.out, freeCount := s.freeCount,
    pins := { s.pins with faultN := true },
    pwr := { rails := s.pwr.rails, pgoodSince := s.pwr.pgoodSince, seqFault := s.pwr.seqFault,
             faultGroup := s.pwr.faultGroup, heldInReset := true, throttled := [],
             tripped := s.pwr.tripped, tripHot := s.pwr.tripHot,
             dipSeen := s.pwr.dipSeen, dipCount := s.pwr.dipCount, dipRails := s.pwr.dipRails,
             lastDipUs := s.pwr.lastDipUs, lastCause := cause, bootStage := 1, stateLost := true,
             bootCount := bump 16 s.pwr.bootCount, watchdogs := s.pwr.watchdogs },
    ses := { floor := s.ses.floor, retired := s.ses.retired },
    srch := { indexes := lostIndexes s },
    fbx := { identityOk := s.fbx.identityOk, trngOk := s.fbx.trngOk, romTested := s.fbx.romTested, draws := s.fbx.draws },
    fwu := flashOnly s.fwu }

/-- A cold reset, with its event (R40, R380 code 14). -/
def coldReset (s : State) (cause : Nat) : State := logEvent (coldState s cause) 14 0 cause

/-- Result of a descriptor that a warm reset ends (R64, R103): a GENERATE its committed tokens and the
length, an APPEND zero and the committed length, any other zero. -/
def abortResult (s : State) (d : InFlight) : Word :=
  match slotOf s d with
  | none => (d.embed.map fun e => word [put 31 0 e.done, put 63 32 e.cut]).getD 0
  | some x =>
    match x.gener with
    | some g => if g.origin = d.origin then word [put 31 0 g.committed, put 63 32 x.log.length] else waitingResult s d
    | none => waitingResult s d

/-! ### Storage freed -/

/-- Granules a page holds in the foothill tier. -/
def pageFoothill (p : Page) : Nat :=
  match p.place with
  | .foothill g _ => g
  | _ => 0

/-- Free granules: they wait on their old owner's uncleared list (R341). -/
def freeGranules (s : State) (tenant g : Nat) : State :=
  if g = 0 then s
  else s.onTie fun t => { t with uncleared := t.uncleared ++ [{ tenant := tenant, granules := g }] }

/-- The tenant of storage that no tenant owns: loads of the part (notes/assumptions/27.md). -/
def noTenant : Nat := 4096

/-- The frames of an image in a bank, in the order its rows fill them. -/
def imageFramesIn (i : Image) (e : Nat) : List Nat :=
  i.weightFrames ++ ((lookupBy (·.1) (e / 128) i.extraFrames).map (·.2)).getD []

/-- Granules of an image's backing copy (R193). -/
def copyGranules (i : Image) : Nat := (i.copy.map granulesOf).sum

/-- The weight frames of an image, freed, await their clear (R194, R341). -/
def freeRows (s : State) (i : Image) : State :=
  s.onTie fun t =>
    { t with frames := t.frames ++ (((List.range 3072).filter fun e => !i.outBanks.contains e).flatMap fun e =>
        (imageFramesIn i e).map fun k => { number := 512 * e + k, tenant := noTenant, clearing := true }) }

/-- A load that has not completed is discarded, and what it had taken is freed (R41, R190). -/
def discardLoad (s : State) (i : Image) : State :=
  (freeRows (freeGranules s noTenant (copyGranules i)) i).onImg fun m =>
    { m with slots := upsert (·.slot) { slot := i.slot, loads := i.loads } m.slots }

/-- What a warm reset discards in the tiers: loads that wait for stages, and the coded pages of PARKs that wait for the
twin; an image whose unload has not been allowed stays (R41). -/
def discardWork (s : State) : State :=
  let s := (s.img.slots.filter fun i => i.state == .waiting).foldl discardLoad s
  let s := s.onImg fun m =>
    { m with slots := m.slots.map fun i => if i.state = .unloading then { i with state := .ready } else i }
  s.ses.table.foldl (fun s x => freeGranules s x.tenant (x.parkPlaced.map pageFoothill).sum) s

/-- The work a warm reset discards in a session: it stands at its last committed length, and copies of its pages to other
places that had not switched are dropped (R41). -/
def settleSession (x : Session) : Session :=
  { x with prefill := none, gener := none, move := none, parkWaits := none, maskReady := 0,
           acks := 0, parkPlaced := [], maskWaited := false, pages := x.pages.map fun p => { p with target := none } }

/-- What a warm reset does to a descriptor in flight: one whose completion is decided keeps it; any other
stays on its queue pair's list and completes with CANCELLED at RESUME (R64). -/
def abortDescriptor (s : State) (d : InFlight) : InFlight :=
  match d.phase with
  | .ended r => { d with phase := .ended r }
  | .aborted r => { d with phase := .aborted r }
  | _ => { d with phase := .aborted (abortResult s d), deadline := none }

/-- Reset values of one register block (R372): 0 TND_, 1 TIE_, 2 HRT_, 3 STV_, 4 KND_, 5 SRCH_, 6 RDG_,
7 BLW_, 8 FBX_, 9 PWR_, 10 CRN_, 11 DGN_. Only RW fields are values of a block. -/
def resetBlock (s : State) (block : Nat) : State :=
  match block with
  | 0 => s.onSess fun t =>
      let r : Sessions := {}
      { t with moveCtl := r.moveCtl, decodeCtl := r.decodeCtl, tclass := r.tclass,
               kvclass := r.kvclass, rqtIndex := r.rqtIndex, priority := [] }
  | 1 => s.onTie fun t =>
      let r : Tiers := {}
      { t with placeCtl := r.placeCtl, crestCtl := r.crestCtl }
  | 2 => s.onHrt fun t =>
      let r : Hearth := {}
      { t with shareCtl := r.shareCtl, sel := r.sel, operand := r.operand }
  | 3 => s.onStv fun t => { t with splitCtl := ({} : Stoves).splitCtl }
  | 4 => s.onKnd fun t => { t with storeCtl := ({} : Kindling).storeCtl }
  | 5 => s.onSrch fun t =>
      let r : Search := {}
      { t with ctl := r.ctl, cacheCtl := r.cacheCtl }
  | 6 => s.onRdg fun t =>
      let r : Ridge := {}
      { t with linkCtl := r.linkCtl, poolCtl := r.poolCtl, twinCtl := r.twinCtl }
  | 7 => s.onBlw fun t =>
      { t with portSel := 0, dmpSel := 0,
               ports := t.ports.map fun p =>
                 { p with ctl := if p.number = 6 then 0 else 0x18, gclBase := 0, entryReg := 0,
                          classes := p.classes.map fun c => { c with shape := ({} : BlwClass).shape } },
               dampers := t.dampers.map fun d =>
                 { d with ctl := ({ number := 0 } : Damper).ctl, rate := 0, burst := 0 } }
  | 8 => s.onFbx fun t => { t with coarseCtl := ({} : Firebox).coarseCtl }
  | 9 => s.onPwr fun t => { t with capCtl := ({} : Power).capCtl }
  | 10 => s.onCrn fun t =>
      let r : Cairns := {}
      { t with triggerCtl := r.triggerCtl, standbyCtl := r.standbyCtl }
  | 11 =>
      (s.onDgn fun t =>
        let r : Diag := {}
        { t with flightSel := 0, replayCtl := r.replayCtl, eventIndex := 0, injectReg := 0 }).onPwr
        fun t => { t with marginCtl := ({} : Power).marginCtl }
  | _ => s

/-- The twelve settings formats of a settings_fmt value (Table 17.2). -/
def blockFormat (fmts block : Nat) : Nat := (fmts >>> (4 * block)) % 16

/-- The blocks whose formats differ between two settings_fmt values, as a mask (R372). -/
def differingBlocks (a b : Nat) : List Nat :=
  (List.range 12).filter fun k => blockFormat a k != blockFormat b k

/-- At a change of image, a block whose format differs returns to its reset values, and the register
reports it (R372). -/
def settingsFormatReset (s : State) (old new : Nat) : State :=
  let ks := differingBlocks old new
  (ks.foldl resetBlock s).onFwu fun f => { f with settingsReset := (ks.map (2 ^ ·)).sum }

/-- The image in a slot. -/
def slotImage (f : Firmware) (n : Nat) : Option FwImage :=
  match f.slots[n]? with
  | some x => x.image
  | none => none

/-- settings_fmt of the image in a slot, 0 for none. -/
def slotFormats (f : Firmware) (n : Nat) : Nat :=
  match slotImage f n with
  | some i => i.settings
  | none => 0

/-- A slot that can be booted: verified or active. -/
def slotBoots (f : Firmware) (n : Nat) : Bool :=
  match f.slots[n]? with
  | some x => 2 ≤ x.state && x.image.isSome
  | none => false

/-- Make slot n the active one in the boot record; the slot left keeps its verified image. -/
def activateSlot (f : Firmware) (n : Nat) : Firmware :=
  { f with active := n,
           slots := f.slots.zipIdx.map fun (x, i) =>
             if i = n then { x with state := 3 }
             else if x.state = 3 then { x with state := 2 } else x }

/-- The image change of a fallback: the other slot becomes the active, confirmed one, the rejected
image's entries committed so far are ignored (R373), and blocks of another format are reset (R372). -/
def fallbackImage (s : State) : State :=
  let f := s.fwu
  let other := 1 - f.active
  let rejected := (slotImage f f.active).map fun i => (i.digest, s.rdg.map.epoch)
  let s := if slotBoots f other then
      settingsFormatReset s (slotFormats f f.active) (slotFormats f other) else s
  s.onFwu fun f =>
    let f := if slotBoots f other then activateSlot f other else f
    { f with confirmed := true, confirmAt := none, fallbackSeen := true, rejected := rejected,
             activation := none, hostAtSwitch := none }

/-- The state a warm reset leaves (R41, R64, Table 3.4): hearth, crest, foothill, keys, map replica and
attachment stand; work not committed is discarded; queue pairs are HALTED with cause 3. -/
def warmState (s : State) (cause : Nat) : State :=
  let aborted := s.desc.map (abortDescriptor s)
  let s := discardWork s
  { s with
    desc := aborted.filter fun d => match d.origin with
      | .qp _ _ => true
      | .ridge _ _ => false
    pwr := { s.pwr with ready := false, bootStage := 2, lastCause := cause, stateLost := false,
                        bootCount := bump 16 s.pwr.bootCount, recovering := true, warmHeld := false,
                        warmDue := s.pwr.links.map (·.link),
                        held := [] }
    host := { s.host with
      cmdBusy := false,
      qps := s.host.qps.map fun q =>
        if q.state = .disabled then q
        else { q with state := .halted, cause := 3, reReads := 0 } }
    ses := { s.ses with table := s.ses.table.map settleSession, batches := [], passing := [] }
    stv := { s.stv with islands := s.stv.islands.map fun i => { i with queue := [], running := none }, waiting := [] }
    knd := { s.knd with tokenised := [], queues := s.knd.queues.map fun u => (u.1, []) }
    srch := { s.srch with scans := [], waits := [] }
    hrt := { s.hrt with owedShared := [], runs := [] }
    rdg := { s.rdg with early := [] }
    fwu := { s.fwu with retryAt := none, attemptAt := none } }

/-- Descriptors of other parts that a warm reset ends are answered CANCELLED (notes/assumptions/22.md). -/
def endGuests (s : State) : State :=
  (s.desc.filter fun d => match d.origin with
    | .ridge _ _ => d.phase = .running || d.phase = .waiting
    | .qp _ _ => false).foldl (fun s d => completeOne s d.origin [.cancelled] (abortResult s d)) s

/-- The fallback of R373, by a warm reset with last_cause 7. -/
def fallback (s : State) : State := logEvent (warmState (fallbackImage (endGuests s)) 7) 14 0 7

/-- A warm reset with its event. While the running image is unconfirmed under self-confirm, a warm reset
of any cause falls back to the other slot, with last_cause 7 (R373). -/
def warmReset (s : State) (cause : Nat) : State :=
  if s.fbx.policy && !s.fwu.confirmed then fallback s
  else logEvent (warmState (endGuests s) cause) 14 0 cause

end Sys2Proof.Machine
end

