-- ==== Sys2Proof/Machine/Registers.lean ====
section
/-!
DEFINITION. Writes to the register window (R6, R7, R38, R385, R392): RW fields set, W1C bits cleared,
RO and reserved fields ignored, values clamped where a field table says so. What a WO field triggers is
the meaning of the command that has that write as its row.
-/

namespace Sys2Proof.Machine

/-- The window's size, 64 MiB (R6). -/
def windowSize : Nat := 0x4000000

/-- Blocks served before ready: ID_, PWR_, FBX_, FWU_ (R38, Table 0.2). -/
def earlyBlock (off : Nat) : Bool :=
  off < 0x1000 || (0xD0000 ≤ off && off < 0xE0000) || (0x90000 ≤ off && off < 0xA0000) ||
  (0xB0000 ≤ off && off < 0xC0000)

/-- Whether the part serves an offset now (R38). -/
def served (s : State) (off : Nat) : Bool := s.pwr.ready || earlyBlock off

/-- PWR_CAP_CTL as stored: cap_watts 600 to 1,600 and core_limit_amps 400 to 1,150 read back bounded
(Table 2.7). -/
def capCtlValue (v : Word) : Word :=
  word [put 10 0 (clamp 600 1600 (fld v 10 0)), put 23 16 (fld v 23 16),
        put 42 32 (clamp 400 1150 (fld v 42 32))]

/-- DGN_MARGIN_CTL as stored: margin_threshold 30 to 90 (Table 3.6). -/
def marginCtlValue (v : Word) : Word :=
  word [put 7 0 (fld v 7 0), put 15 8 (clamp 30 90 (fld v 15 8)), put 16 16 (fld v 16 16)]

/-- TIE_PLACE_CTL as stored: hearth_high and foothill_high 50 to 99, foothill_low 0 to the clamped
foothill_high less 5 (Table 6.12). -/
def placeCtlValue (v : Word) : Word :=
  let high := clamp 50 99 (fld v 23 16)
  word [put 2 0 (fld v 2 0), put 15 8 (clamp 50 99 (fld v 15 8)), put 23 16 high,
        put 31 24 (min (fld v 31 24) (high - 5)), put 47 32 (fld v 47 32), put 55 48 (fld v 55 48)]

/-- TND_KV_CLASS_n as stored: lookout_pages 16 to 1,024 (Table 9.5). -/
def kvClassValue (v : Word) : Word :=
  word [put 8 0 (fld v 8 0), put 26 16 (fld v 26 16), put 42 32 (clamp 16 1024 (fld v 42 32))]

/-- RDG_POOL_CTL as stored: line_cache_units 1 to 64 (Table 13.15). -/
def poolCtlValue (v : Word) : Word :=
  word [put 23 0 (fld v 23 0), put 31 24 (clamp 1 64 (fld v 31 24))]

/-- SRCH_CTL as stored: merge_at_pct 10 to 100 (Table 12.10). -/
def searchCtlValue (v : Word) : Word :=
  word [put 11 0 (fld v 11 0), put 24 16 (fld v 24 16), put 31 25 (clamp 10 100 (fld v 31 25)),
        put 35 32 (fld v 35 32)]

/-- The fields of a value under a mask of RW bits. -/
def masked (v : Word) (mask : Nat) : Word := v &&& BitVec.ofNat 64 mask

/-- No queue pair is anything but DISABLED (R388). -/
def allDisabled (s : State) : Bool := s.host.qps.all fun q => q.state = .disabled

/-- A write to HST_QP_TABLE_BASE: in effect only while every queue pair is DISABLED (R388). -/
def writeTableBase (s : State) (v : Word) : State :=
  if allDisabled s then s.onHost fun h => { h with tableBase := masked v 0xFFFFFFFFFFFFF000 } else s

/-- The selected die: above 23 acts as 23 (Table 7.14). -/
def selDie (s : State) : Nat := min 23 (fld s.hrt.sel 4 0)

/-- The selected bank's ember. -/
def selEmber (s : State) : Nat := selDie s * 128 + fld s.hrt.sel 14 8

/-- A frame of the die is in use: allocated to a session or index, awaiting its clear, or weights of a
loaded image, which lie in every bank (R170). -/
def dieInUse (s : State) (die : Nat) : Bool :=
  (s.tie.frames.any fun f => f.number / 512 / 128 == die) ||
  (s.img.slots.any fun i => i.state != .empty && i.framesPerBank != 0)

/-- A write of HRT_DIE_CTL's mode: direct only while no frame of the die is in use, else the die stays in
broadcast mode and die_busy reads 1 (R170, Table 7.15). -/
def writeDieMode (s : State) (v : Word) : State :=
  let die := selDie s
  if fld v 1 0 = 1 then
    if dieInUse s die then s.onHrt fun h => { h with dieBusy := true }
    else s.onHrt fun h => { h with dieBusy := false, dieDirect := dedup (h.dieDirect ++ [die]) }
  else s.onHrt fun h => { h with dieDirect := h.dieDirect.filter (· != die) }

/-- The three request-table registers act only in compatibility mode (R116). -/
def writeRqt (s : State) (entry : Bool) (v : Word) : State :=
  if !s.host.compat then s
  else if entry then s.onSess fun t =>
    let k := fld t.rqtIndex 11 0
    { t with priority := upsert (·.1) (k, fld v 10 8) t.priority }
  else s.onSess fun t => { t with rqtIndex := masked v 0xFFF }

/-- Change the flight-ring registers of the selected queue pair (R376, R387). -/
def onSelFlight (s : State) (f : FlightRing → FlightRing) : State :=
  s.onQp (fld s.dgn.flightSel 12 0) fun q => { q with flight := f q.flight }

/-- The RW registers: what a write sets. Registers without an RW field are not here. -/
def writeRW (s : State) (off : Nat) (v : Word) : State :=
  if 0x10100 ≤ off && off < 0x10140 then
    s.onSess fun t => { t with tclass := setAt t.tclass ((off - 0x10100) / 8) (masked v 0xF) }
  else if 0x10140 ≤ off && off < 0x10180 then
    s.onSess fun t => { t with kvclass := setAt t.kvclass ((off - 0x10140) / 8) (kvClassValue v) }
  else match off with
  | 0x1010 => s.onHost fun h => { h with attachReg := masked v 0x1F }
  | 0x1020 => writeTableBase s v
  | 0x10000 => s.onSess fun t => { t with moveCtl := masked v 0xFFFF1FFF }
  | 0x10018 => s.onSess fun t => { t with decodeCtl := masked v 0xFF001F }
  | 0x10040 => writeRqt s false v
  | 0x10048 => writeRqt s true v
  | 0x20000 => s.onTie fun t => { t with placeCtl := placeCtlValue v }
  | 0x20008 => s.onTie fun t => { t with crestCtl := masked v 0x3F }
  | 0x30000 => s.onHrt fun t => { t with shareCtl := masked v 0x13F1F }
  | 0x30018 => s.onHrt fun t => { t with sel := masked v 0xFF1F }
  | 0x30020 => writeDieMode s v
  | 0x30038 => s.onHrt fun t => { t with operand := v }
  | 0x40000 => s.onStv fun t => { t with splitCtl := masked v 0x1FF3F3F3F3F3F }
  | 0x50000 => s.onKnd fun t => { t with storeCtl := word [clamp 16 4096 (fld v 15 0)] }
  | 0x60000 => s.onSrch fun t => { t with ctl := searchCtlValue v }
  | 0x60008 => s.onSrch fun t => { t with cacheCtl := word [clamp 16 768 (fld v 9 0)] }
  | 0x70018 => s.onRdg fun t => { t with linkCtl := masked v 0xFFFFF }
  | 0x70020 => s.onRdg fun t => { t with poolCtl := poolCtlValue v }
  | 0x70028 => s.onRdg fun t => { t with twinCtl := masked v 0xBFF }
  | 0x80000 => s.onBlw fun t => { t with portSel := masked v 0x707 }
  | 0x80008 => writePortCtl s v
  | 0x80010 => writeShape s v
  | 0x80018 => if selPort s = 6 then s else s.onBellow (selPort s) fun b => { b with gclBase := v }
  | 0x80020 => writeGateEntry s v
  | 0x80100 => s.onBlw fun t => { t with dmpSel := masked v 0xFF }
  | 0x80108 => writeDamper s 0 v
  | 0x80110 => writeDamper s 1 v
  | 0x80118 => writeDamper s 2 v
  | 0x90018 => s.onFbx fun t => { t with coarseCtl := masked v 0xFFFF }
  | 0xA0000 => s.onCrn fun t => { t with triggerCtl := masked v 0xFFFFFFFFFFFFFF }
  | 0xA0008 => s.onCrn fun t => { t with standbyCtl := masked v 0xFFFF03FF0001 }
  | 0xB0028 => s.onFwu fun t => { t with ctl := masked v 0xFF }
  | 0xB0030 => s.onFwu fun t => { t with rcvAddr := masked v 0xFFFFFFFFFFFFF000 }
  | 0xB0038 => s.onFwu fun t => { t with rcvCtl := masked v 0x3FFFFFF }
  | 0xC0000 => s.onDgn fun t => { t with flightSel := masked v 0x1FFF }
  | 0xC0010 => s.onPwr fun t => { t with marginCtl := marginCtlValue v }
  | 0xC0020 => onSelFlight s fun f => { f with baseReg := masked v 0xFFFFFFFFFFFFF000 }
  | 0xC0028 => onSelFlight s fun f => { f with ctlReg := masked v 0xFF1F }
  | 0xC0038 => s.onDgn fun t => { t with replayCtl := masked v 0x3FFFFFFFFFFF }
  | 0xC0040 => s.onDgn fun t => { t with eventIndex := masked v 0xFFFFFFFF }
  | 0xD0000 => s.onPwr fun t => { t with capCtl := capCtlValue v }
  | _ => s

/-- The W1C bits: a 1 clears the bit (R7). -/
def writeW1C (s : State) (off : Nat) (v : Word) : State :=
  match off with
  | 0x1000 => if bit v 32 then s.onHost fun h => { h with linkDrop := false } else s
  | 0x10008 => if bit v 55 then s.onSess fun t => { t with suspendedSeen := false } else s
  | 0x20020 => if bit v 48 then s.onTie fun t => { t with conflictSeen := false } else s
  | 0x30008 => if bit v 48 then s.onHrt fun t => { t with ueSeen := false } else s
  | 0x40008 => if bit v 22 then s.onStv fun t => { t with waitSeen := false } else s
  | 0x90020 => if bit v 48 then s.onFbx fun t => { t with isoSeen := false } else s
  | 0xA0010 =>
      s.onCrn fun t => { t with triggerSeen := t.triggerSeen && !bit v 40,
                                takeoverSeen := t.takeoverSeen && !bit v 41 }
  | 0xB0000 =>
      s.onFwu fun t => { t with fallbackSeen := t.fallbackSeen && !bit v 9,
                                refusedSeen := t.refusedSeen && !bit v 10 }
  | 0xD0008 => if bit v 31 then s.onPwr fun t => { t with capHit := false } else s
  | 0xD0010 => if bit v 8 then s.onPwr fun t => { t with seqFault := false } else s
  | 0xD0020 => if bit v 1 then s.onPwr fun t => { t with dipSeen := false } else s
  | _ => s

/-- A register write as the host port delivers it: 64 bits wide, 64-bit aligned, inside the window, in a
block the part serves now; any other completes without effect (R6, R7, R38; notes/assumptions/52.md). -/
def writeRegister (s : State) (off width : Nat) (v : Word) : State :=
  if width = 8 && off % 8 = 0 && off < windowSize && served s off then
    writeW1C (writeRW s off v) off v
  else s

/-- Registers with at least one RW field in the blocks that settings pairs may name, DGN_INJECT left out
(R331, Table 19.1). -/
def settingsTarget (off : Nat) : Bool :=
  (0x10100 ≤ off && off < 0x10180) ||
  [0x10000, 0x10018, 0x10040, 0x10048, 0x20000, 0x20008, 0x30000, 0x30018, 0x30020, 0x30038, 0x40000,
   0x50000, 0x60000, 0x60008, 0x70018, 0x70020, 0x70028, 0x80000, 0x80008, 0x80010, 0x80018, 0x80020,
   0x80100, 0x80108, 0x80110, 0x80118, 0x90018, 0xA0000, 0xA0008, 0xC0000, 0xC0010, 0xC0020, 0xC0028,
   0xC0038, 0xC0040, 0xD0000].contains off

/-- The register block, in settings_fmt order, of an offset (R372). -/
def blockOf (off : Nat) : Nat :=
  match off / 0x10000 with
  | 1 => 0 | 2 => 1 | 3 => 2 | 4 => 3 | 5 => 4 | 6 => 5 | 7 => 6 | 8 => 7 | 9 => 8
  | 13 => 9 | 10 => 10 | _ => 11

/-- Apply the settings pairs of the configuration block in force: pairs for a block whose tagged format
differs from the running image's are skipped and counted (R372), pairs that break R331 refused and
counted, the others applied as 64-bit register writes of the RW fields (R331). -/
def applySettings (s : State) : State :=
  match s.fwu.config with
  | none => s
  | some c =>
    let skip := differingBlocks c.tag (slotFormats s.fwu s.fwu.active)
    let s := s.onFwu fun f => { f with settingsReset := (skip.map (2 ^ ·)).sum, pairsSkipped := 0 }
    c.settings.foldl (fun s (o, v) =>
      let off := o.toNat
      if off % 8 = 0 && settingsTarget off then
        if skip.contains (blockOf off) then
          s.onFwu fun f => { f with pairsSkipped := bump 16 f.pairsSkipped }
        else (writeRW s off v).onFbx fun f => { f with settingsApplied := f.settingsApplied + 1 }
      else s.onFbx fun f => { f with settingsRefused := f.settingsRefused + 1 }) s

end Sys2Proof.Machine
end

