-- ==== Sys2Proof/Machine/Startup.lean ====
section
/-!
DEFINITION. Start-up as shared operations: the gate of R35, steps 4 to 6 of Table 3.2, the choice of the
firmware slot (R364), the configuration block (R329, R330, R365), and step 9.
-/

namespace Sys2Proof.Machine

/-- The gate of R35: every PGOOD_x input high and every rail up for at least 1 ms, REFCLK stable for at least 1 ms, no
sequence fault held (R23), no thermal trip held (R29). -/
def gateOpenForStart (s : State) (refclkNs : Nat) : Bool :=
  s.pwr.heldInReset && s.pwr.faultGroup == 0 && !s.pwr.tripped && decide (ms 1 ≤ refclkNs) &&
  (s.pwr.rails.all fun r => r.up && r.pgood && !r.below) &&
  match s.pwr.pgoodSince with
  | some t => decide (t + ms 1 ≤ s.localNs)
  | none => false

/-- identity_ok: the chain in force certifies this part; the chain of manufacture does (R326). -/
def identityHolds (f : Firmware) : Bool :=
  match f.chain with
  | none => true
  | some c => Config.certifiesDevice c

/-- Step 2 of Table 3.2, once after VDD_AUX came up: the ROM self-test with its verdict on the TRNG (R37, R333). -/
def romSelfTest (s : State) (trngOk : Bool) : State :=
  if s.fbx.romTested then s
  else s.onFbx fun f =>
    { f with romTested := true, trngOk := trngOk,
             trngFailures := if trngOk then f.trngFailures else bump 8 f.trngFailures }

/-- Identity, and the key-wrapping key drawn at every cold and power-on reset (R326, Table 15.5). -/
def drawWrapKey (s : State) : State :=
  s.onFbx fun f =>
    { f with identityOk := identityHolds s.fwu, wrapKey := some f.draws, draws := f.draws + 1 }

/-- The pending configuration block is copied into the area in force, or erased (R365). -/
def takePending (s : State) (bad : Bool) : State :=
  match s.fwu.pendingCfg with
  | none => s
  | some c => s.onFwu fun f =>
      if bad then { f with pendingCfg := none } else { f with config := some c, pendingCfg := none }

/-- The configuration block in force is read: its settings, or the defaults of R330 when it fails. -/
def takeConfig (s : State) (bad : Bool) : State :=
  match s.fwu.config, bad with
  | some c, false =>
    ((s.onFbx fun f =>
      { f with bound := c.bound, policy := c.policy, debug := c.debug, imageKeys := c.keys,
               configSeq := c.seq, configDigest := c.digest }).onRdg fun r =>
      { r with configured := c.configured,
               part := if c.configured then c.part else 0,
               address := if c.configured then c.address else 0,
               domain := if c.configured then c.domain else 0,
               map := { r.map with
                 keepers := if c.configured then c.keepers else [],
                 leader := if c.configured then (c.keepers[0]?).getD 0 else 0 } }).onPwr
      fun p => { p with configDefault := false }
  | _, _ => s.onPwr fun p => { p with configDefault := true }

/-- Mark slots whose image fails verification invalid. -/
def failSlots (s : State) (bad : List Nat) : State :=
  s.onFwu fun f =>
    { f with
      slots := f.slots.zipIdx.map fun (x, i) =>
        if bad.contains i && x.state ≠ 0 then { x with state := 0 } else x }

/-- The slot the firebox takes first (R364): the cold-reset slot if set, the active slot if confirmed, else
the other; with a boot record that fails, slot 0 (notes/assumptions/45.md). -/
def firstChoice (f : Firmware) (recordBad : Bool) : Nat :=
  if recordBad then 0
  else match f.coldSlot with
    | some n => n
    | none => if f.confirmed then f.active else 1 - f.active

/-- Boot a slot: the active slot of the boot record. An image new to the boot record starts the 120 s
window under self-confirm and is confirmed at once under ROM recovery (R373, R374); an unconfirmed active
slot passed over is a fallback. -/
def bootSlot (s : State) (n : Nat) (recordBad : Bool) : State :=
  s.onFwu fun f =>
    let isNew := f.coldSlot = some n && n ≠ f.active && !recordBad
    let fell := !recordBad && f.coldSlot = none && !f.confirmed && n ≠ f.active
    let g := activateSlot f n
    { g with coldSlot := none,
             confirmed := !(isNew && s.fbx.policy),
             confirmAt := if isNew && s.fbx.policy then some (s.localNs + ms 120000) else none,
             hostAtSwitch := none,
             fallbackSeen := f.fallbackSeen || fell,
             rejected := if fell then (slotImage f f.active).map fun i => (i.digest, s.rdg.map.epoch)
                         else f.rejected }

/-- Choose and boot a slot: the first choice, else the other (R39), else none. -/
def chooseSlot (s : State) (recordBad : Bool) : Option State :=
  let a := firstChoice s.fwu recordBad
  if slotBoots s.fwu a then some (bootSlot s a recordBad)
  else if slotBoots s.fwu (1 - a) then
    some (bootSlot (s.onFwu fun f => { f with lastFailed := some a }) (1 - a) recordBad)
  else none

/-- Step 6: the repairs of the list, banks that fail self-test beyond repair taken out (R39, R171; notes/assumptions/47.md). -/
def testBanks (s : State) (failed : List Nat) : State :=
  s.onHrt fun h =>
    let listed := dedup (s.fwu.repairs.map (·.1) ++ failed)
    { h with embers := listed.map fun e =>
        { number := e, state := if failed.contains e then .failed else .inService,
          repairs := (s.fwu.repairs.filter fun r => r.1 == e).map (·.2) } }

/-- Every bank of some hearth die has failed (Table 3.3). -/
def dieFailed (failed : List Nat) : Bool :=
  (List.range 24).any fun d => (List.range 128).all fun b => failed.contains (128 * d + b)

/-- Ports at start-up: a part without a part number, or without its identity, holds them down
(R289, R326); the others train. -/
def setPorts (s : State) : State :=
  s.onRdg fun r =>
    let st : PortState := if r.configured && s.fbx.identityOk then .training else .heldDown
    { r with ports := r.ports.map fun p => { p with state := st, lanes := 0 } }

/-- Steps 5 (after the configuration block) and 6: firmware slot, banks. -/
def loadFirmware (s : State) (flashBad failedBanks : List Nat) : State :=
  match chooseSlot (failSlots s (flashBad.filter (· < 2))) (flashBad.contains 4) with
  | none => (failSlots s (flashBad.filter (· < 2))).onPwr fun p => { p with bootStage := 7 }
  | some s =>
    let s := setPorts (testBanks s failedBanks)
    if dieFailed failedBanks then
      (s.onPwr fun p => { p with bootStage := 8 }).onPins fun p => { p with faultN := false }
    else s.onPwr fun p => { p with bootStage := 4 }

/-- Start-up from step 4 of Table 3.2 under sampled straps (R35 to R37, Table 3.1): manufacturing test stops
after step 4; ROM recovery by strap or after the third watchdog (R374) stops at boot_stage 7. -/
def startUp (s : State) (b : BootReport) (failedBanks : List Nat) : State :=
  let s := drawWrapKey (romSelfTest (s.onPwr fun p => { p with heldInReset := false, found := b.found }) b.trngOk)
  if fld s.pins.straps 3 2 = 2 then s.onPwr fun p => { p with bootStage := 9 }
  else
    let s := takeConfig (takePending s (b.flashBad.contains 5)) (b.flashBad.contains 2)
    if fld s.pins.straps 3 2 = 1 || s.fwu.romRecovery then
      (s.onFwu fun f => { f with romRecovery := false }).onPwr fun p => { p with bootStage := 7 }
    else loadFirmware s b.flashBad failedBanks

/-- Islands at ready: decode assist holds da_min, embedding emb_min, prefill the rest; minimums beyond 32
reduce the later ones in the order decode assist, prefill, embedding (R231). -/
def initialIslands (ctl : Word) : List Island :=
  let da := min 32 (fld ctl 5 0)
  let pf := min (32 - da) (fld ctl 21 16)
  let emb := min (32 - da - pf) (fld ctl 29 24)
  (List.range 32).map fun i =>
    { number := i,
      role := if i < da then .decode else if i < 32 - emb then .prefill else .embed }

/-- The replica of a domain of one: the part alone, up, its own keeper (R289 to R291). -/
def soloMap : MapReplica :=
  { parts := [{ number := 0, address := 0, state := 1 }], keepers := [0] }

/-- The grates and kindling units that passed their self-test are those the part has (R131, R386). -/
def setUnits (s : State) : State :=
  let n := min 8 s.pwr.found.kindling
  (s.onKnd fun k => { k with units := n, queues := (List.range n).map fun n => (n, []) }).onTie
    fun t => { t with grates := min 16 s.pwr.found.grates }

/-- Step 9 of Table 3.2: capability values, the settings pairs (R331, R372), the islands' roles, ready; a
configured part proposes its own entry up, and fetches a whole replica as soon as it can reach a keeper (R292). With a
configuration block that failed, every setting stands at its default (Table 3.3). -/
def finishStart (s : State) : State :=
  let s := if s.pwr.configDefault then s else applySettings s
  let s := setUnits (s.onStv fun v => { v with islands := initialIslands v.splitCtl })
  let s := if s.rdg.configured then
      propose (s.onRdg fun r => { r with map := { r.map with fetchWhole := true } }) (.part s.rdg.part s.rdg.address 1)
    else s.onRdg fun r => { r with map := soloMap }
  s.onPwr fun p => { p with ready := true, everReady := true, bootStage := 6 }

end Sys2Proof.Machine
end

