-- ==== Sys2Proof/Machine/Power.lean ====
section
/-!
DEFINITION. The meanings of register writes and of the power, start-up, reset, thermal, supply and
training commands (chapters 2 and 3, R6, R7).
-/

namespace Sys2Proof.Machine

/-- What a meaning answers. -/
abbrev Answer := Host.Outcome State Fault Refusal

/-- REGISTER_WRITE (R6, R7, R38, R392). -/
def execRegisterWrite (off width : Nat) (val : Word) (s : State) : Answer :=
  .next (writeRegister s off width val)

/-- POWER_ON_RESET (R33, R40). -/
def execPowerOnReset (s : State) : Answer := .next (powerOnState s)

/-- The power-up group of a rail (Table 2.4). -/
def railGroup : Rail → Nat
  | .vddAux => 1
  | .vddCore | .vddSerdes => 2
  | .vddHearth | .vddaSerdes => 3
  | .vdd2Lp => 4
  | .vddqLp => 5

/-- All rails in the order of Table 2.3. -/
def allRails : List Rail := [.vddCore, .vddHearth, .vddSerdes, .vddaSerdes, .vddqLp, .vdd2Lp, .vddAux]

/-- A rail's record. -/
def railOf (s : State) (r : Rail) : RailState := (s.pwr.rails[railBit r]?).getD {}

/-- Change a rail's record. -/
def onRail (s : State) (r : Rail) (f : RailState → RailState) : State :=
  s.onPwr fun p => { p with rails := setAt p.rails (railBit r) (f ((p.rails[railBit r]?).getD {})) }

/-- A rail may rise: every rail of the groups before its own is up (R22). -/
def mayRise (s : State) (r : Rail) : Bool :=
  allRails.all fun q => railGroup r ≤ railGroup q || (railOf s q).up

/-- The moment from which every PGOOD_x input and rail stands good, kept or begun (R35). -/
def markGood (s : State) : State :=
  if s.pwr.rails.all fun r => r.up && r.pgood && !r.below then
    s.onPwr fun p => { p with pgoodSince := some (p.pgoodSince.getD s.localNs) }
  else s.onPwr fun p => { p with pgoodSince := none }

/-- A rail out of order: the fault is recorded with the first rail's group, and every island but the
firebox stays in reset until VDD_AUX is removed (R23). -/
def recordSequenceFault (s : State) (r : Rail) : State :=
  (onRail s r fun x => { x with up := true, pgood := true }).onPwr fun p =>
    { p with seqFault := true, heldInReset := true, ready := false,
             faultGroup := if p.faultGroup = 0 then railGroup r else p.faultGroup }

/-- SEQUENCE_FAULT (R23); a rail whose group may rise makes none. -/
def execSequenceFault (r : Rail) (s : State) : Answer :=
  .next (if mayRise s r || (railOf s r).up then s else recordSequenceFault s r)

/-- Levels of Table 3.8 in mV: warning, recovery, reset. -/
def railLevels : Rail → Nat × Nat × Nat
  | .vddCore => (651, 658, 616)
  | .vddHearth => (998, 1008, 945)
  | .vddSerdes => (713, 720, 675)
  | .vddaSerdes => (1152, 1164, 1092)
  | .vddqLp => (475, 480, 450)
  | .vdd2Lp => (998, 1008, 945)
  | .vddAux => (1710, 1728, 1620)

/-- A crossing of the warning level counts: PGOOD_x low, or below the level for 20 ns (R23, R46). -/
def warningCounts (r : Rail) : Crossing → Bool
  | .pgoodLow => true
  | .level mv ns => decide (mv < (railLevels r).1) && decide (20 ≤ ns)

/-- A rail counts as recovered: above its recovery level for 2 µs (R46). -/
def recoveryCounts (r : Rail) (mv ns : Nat) : Bool :=
  decide ((railLevels r).2.1 < mv) && decide (us 2 ≤ ns)

/-- A rail has reached its reset level: below it for 20 ns (R46). -/
def resetCounts (r : Rail) (mv ns : Nat) : Bool :=
  decide (mv < (railLevels r).2.2) && decide (20 ≤ ns)

/-- RAIL_RISE (R22 to R24): in its group the rail is up with its PGOOD_x; out of order it is a sequence
fault. The firebox has passed its ROM test by then and waits for rails, boot_stage 1. -/
def execRailRise (r : Rail) (s : State) : Answer :=
  .next
    (if (railOf s r).up && (railOf s r).pgood then s
     else if mayRise s r then
       (markGood (onRail s r fun x => { x with up := true, pgood := true })).onPwr fun p =>
         { p with bootStage := if p.bootStage = 0 then 1 else p.bootStage }
     else recordSequenceFault s r)

/-- Throttle points of Table 2.10. -/
def throttlePoint : Sensor → Nat
  | .hearth => 95
  | _ => 100

/-- Trip points of Table 2.10. -/
def tripPoint : Sensor → Nat
  | .hearth => 105
  | _ => 115

/-- PORST_N_ASSERT: a falling edge, a cold reset (R40); a held thermal trip is released when every reading
stands below its trip point (R29). -/
def execPorstNAssert (temps : List Reading) (s : State) : Answer :=
  if !s.pins.porstN && !s.pwr.tripped then .next (s.onPins fun p => { p with porstN := false })
  else
    let s := coldReset (s.onPins fun p => { p with porstN := false }) 1
    if s.pwr.tripped && temps.all fun t => t.celsius < tripPoint t.sensor then
      .next ((s.onPwr fun p => { p with tripped := false, tripHot := false }).onPins
        fun p => { p with thermTripN := true })
    else .next (s.onPwr fun p => { p with tripHot := p.tripped })

/-- PORST_N_RELEASE: the straps are sampled (R36); start-up runs from step 4 when the gate of R35 is open,
else the part stays in reset until it is (R35). -/
def execPorstNRelease (straps : BitVec 4) (boot : BootReport) (failedBanks : List Nat) (s : State) : Answer :=
  if s.pins.porstN then .next s
  else
    let s := s.onPins fun p => { p with porstN := true, straps := straps }
    .next (if gateOpenForStart s boot.refclkNs then startUp s boot failedBanks else s)

/-- COLD_RESTART: with PORST_N high, from step 4 once the gate of R35 is open. -/
def execColdRestart (boot : BootReport) (failedBanks : List Nat) (s : State) : Answer :=
  .next (if s.pins.porstN && gateOpenForStart s boot.refclkNs then startUp s boot failedBanks else s)

/-- FOOTHILL_TRAINING_DONE: failing channels are retired (R39); boot_stage 5 (R51). -/
def execFoothillTrainingDone (failed : List Nat) (s : State) : Answer :=
  if s.pwr.bootStage = 4 then
    .next (s.onPwr fun p =>
      { p with foothillDone := true, bootStage := 5,
               links := ((List.range 96).map fun n =>
                 { link := n, retired := failed.contains n }) ++ p.links.filter (96 ≤ ·.link) })
  else .next s

/-- RIDGE_TRAINING_DONE: the lanes trained; one that failed is retired until the next start-up, fewer than four hold the
port down (R39, R283, R386). -/
def execRidgeTrainingDone (port : Nat) (lanes : BitVec 8) (partnerPart : Bool) (s : State) : Answer :=
  if port < 6 && (s.port port).state = .training then
    let n := ((List.range 8).filter fun i => lanes.toNat.testBit i).length
    let p : Port := { s.port port with
                      number := port, lanes := lanes, partner := partnerPart,
                      state := if n < 4 then .heldDown else .up }
    let s := s.onRdg fun r => { r with ports := upsert (·.number) p r.ports }
    .next (s.onPwr fun p =>
      { p with links := (p.links.filter fun l => !(96 + 8 * port ≤ l.link && l.link < 104 + 8 * port)) ++
          ((List.range 8).map fun i =>
            { link := 96 + 8 * port + i,
              retired := !lanes.toNat.testBit i || p.links.any fun l => l.link = 96 + 8 * port + i && l.retired }) })
  else .next s

/-- Step 8 has ended: every port with a partner has trained or is held down (R37). -/
def ridgeTrained (s : State) : Bool :=
  s.rdg.ports.all fun p => p.state != .training || s.pwr.found.unpartnered.contains p.number

/-- STARTUP_COMPLETE: step 9 of Table 3.2, after steps 7 and 8 (R37, R331, R386). -/
def execStartupComplete (s : State) : Answer :=
  .next (if s.pwr.bootStage = 5 && ridgeTrained s then finishStart s else s)

/-- WARMRST_N_ASSERT: acts only once ready has read 1 since the last cold reset (R41). -/
def execWarmrstNAssert (s : State) : Answer :=
  let s' := s.onPins fun p => { p with warmrstN := false }
  if s.pwr.everReady && s.pins.warmrstN then
    .next ((warmReset s' 5).onPwr fun p => { p with warmHeld := true })
  else .next s'

/-- Mark a link as due to retrain (R44). -/
def markDue (s : State) (l : Link) : State :=
  s.onPwr fun p =>
    { p with
      links := p.links.map fun x =>
        if x.link = linkId l && !x.retired && !x.retraining then { x with due := true } else x }

/-- The margin checks of a warm reset at once: those that fail are counted, and their links retrain under R44 (R41)
(notes/assumptions/161.md). -/
def warmChecks (s : State) (fails : List Link) : State :=
  let s := s.onPwr fun p => { p with warmDue := [], marginFailures := p.marginFailures + fails.length }
  if bit s.pwr.marginCtl 16 then startDue (fails.foldl markDue s) else s

/-- WARMRST_N_RELEASE: recovery runs; links whose one margin check fails retrain (R41). -/
def execWarmrstNRelease (marginFails : List Link) (s : State) : Answer :=
  let s' := s.onPins fun p => { p with warmrstN := true }
  if s.pwr.warmHeld then
    .next (warmChecks (s'.onPwr fun p => { p with warmHeld := false }) marginFails)
  else .next s'

/-- Links that margin checks reach: trained, not retired, not retraining (R43). -/
def checkable (p : Power) : List Nat := (p.links.filter fun l => !l.retired && !l.retraining).map (·.link)

/-- Some link has not run the one margin check of a warm reset's recovery (R41). -/
def checksLeft (p : Power) : Bool := p.warmDue.any (checkable p).contains

/-- WARM_RESET_RECOVERY_END: once every link has run its one margin check ready reads 1 again, boot_stage 6 (R41); the
replica is revalidated (R292). A part that was committed down meanwhile restores from its twin by TWIN_RESTORE (R352). -/
def execWarmResetRecoveryEnd (s : State) : Answer :=
  if s.pwr.recovering && !s.pwr.warmHeld && !checksLeft s.pwr then
    let s := s.onPwr fun p => { p with ready := true, bootStage := 6, recovering := false }
    let s := attemptQuiesce (if s.rdg.configured then revalidate s else s)
    .next (match s.mapPart s.rdg.part with
      | some p => if s.rdg.configured && p.state ≠ 1 then propose s (.part s.rdg.part s.rdg.address 1) else s
      | none => s)
  else .next s

/-- WATCHDOG_FIRE: an unconfirmed image under self-confirm falls back (R373); the third within 10 minutes
is a cold reset, into ROM recovery under fw_policy 0 (R374); any other is a warm reset (R40; notes/assumptions/46.md). -/
def execWatchdogFire (s : State) : Answer :=
  if !s.pwr.everReady then .next s
  else if s.fbx.policy && !s.fwu.confirmed then .next (fallback s)
  else
    let recent := s.localNs :: s.pwr.watchdogs.filter fun t => s.localNs < t + ms 600000
    if 3 ≤ recent.length then
      .next (coldReset ((s.onPwr fun p => { p with watchdogs := [] }).onFwu fun f =>
        { f with flashDogs := 0, romRecovery := !s.fbx.policy }) 6)
    else
      .next (warmReset ((s.onPwr fun p => { p with watchdogs := recent }).onFwu fun f =>
        { f with flashDogs := recent.length }) 6)

/-- THERMAL_TRIP: THERM_TRIP_N asserted, every island but the firebox stopped, hearth contents lost as in a
cold reset, held until PORST_N (R29). -/
def execThermalTrip (t : Reading) (s : State) : Answer :=
  if tripPoint t.sensor ≤ t.celsius && !s.pwr.tripped then
    .next (coldReset ((s.onPwr fun p => { p with tripped := true, tripHot := true }).onPins
      fun p => { p with thermTripN := false }) 4)
  else .next s

/-- Islands of a role. -/
def roleCount (s : State) (r : Role) : Nat := (s.stv.islands.filter fun i => i.role = r).length

/-- One shedding step in the order of Table 2.6: embedding, prefill, decode-assist islands down by 250 MHz to
1.25 GHz, then ember pacing; a stage without islands is passed over (R26). Table 2.6 bounds pacing at one idle slice for
each slice and gives no step: a quarter of an idle slice is the model's (DESIGN CHOICE, notes/assumptions/48.md). -/
def shedStep (s : State) : State :=
  let p := s.pwr
  if p.shedEmbed < 5 && roleCount s .embed != 0 then s.onPwr fun p => { p with shedEmbed := p.shedEmbed + 1 }
  else if p.shedPrefill < 5 && roleCount s .prefill != 0 then
    s.onPwr fun p => { p with shedPrefill := p.shedPrefill + 1 }
  else if p.shedDecode < 5 && roleCount s .decode != 0 then
    s.onPwr fun p => { p with shedDecode := p.shedDecode + 1 }
  else if p.emberPacing < 4 then s.onPwr fun p => { p with emberPacing := p.emberPacing + 1 }
  else s

/-- One step restored, the deepest first (R26). -/
def restoreStep (s : State) : State :=
  s.onPwr fun p =>
    if 0 < p.emberPacing then { p with emberPacing := p.emberPacing - 1 }
    else if 0 < p.shedDecode then { p with shedDecode := p.shedDecode - 1 }
    else if 0 < p.shedPrefill then { p with shedPrefill := p.shedPrefill - 1 }
    else { p with shedEmbed := p.shedEmbed - 1 }

/-- Any stage in force. -/
def anyShed (p : Power) : Bool := p.shedEmbed + p.shedPrefill + p.shedDecode + p.emberPacing != 0

/-- Clock of a stove island of a role in MHz (R26, R27, R48): 1,250 while THROTTLE_N is low or a hold stands, else 2,500
less 250 for every step that the cap has shed of its role. -/
def stoveMHz (s : State) (r : Role) : Nat :=
  if !s.pins.throttleN || s.pwr.heldNow then 1250
  else 2500 - 250 * match r with
    | .embed => s.pwr.shedEmbed
    | .prefill => s.pwr.shedPrefill
    | .decode => s.pwr.shedDecode

/-- Ember pacing in quarters of an idle slice for each slice: full while THROTTLE_N is low (R27), else the cap's
(notes/assumptions/158.md). -/
def emberPause (s : State) : Nat := if !s.pins.throttleN then 4 else s.pwr.emberPacing

/-- Shed two steps, so that every stage is reached within 1 ms (R25), and latch cap_hit when shedding starts
(Table 2.8). -/
def shed (s : State) : State :=
  let s' := shedStep (shedStep s)
  if anyShed s.pwr || !anyShed s'.pwr then s' else s'.onPwr fun p => { p with capHit := true }

/-- A sensor's record among those that throttle. -/
def Throttling.isOf (x : Throttling) (t : Reading) : Bool := x.sensor = t.sensor && x.die = t.die

/-- THERMAL_THROTTLE: the stages of Table 2.6 apply (R29). -/
def execThermalThrottle (t : Reading) (s : State) : Answer :=
  if throttlePoint t.sensor ≤ t.celsius then
    .next (shed (s.onPwr fun p =>
      { p with throttled := (p.throttled.filter fun x => !x.isOf t) ++ [⟨t.sensor, t.die, s.localNs⟩] }))
  else .next s

/-- THERMAL_THROTTLE_RELEASE: the sensor has stood 5 °C below its point for 10 ms (R29). -/
def execThermalThrottleRelease : Cooled → State → Answer
  | ⟨t, stoodNs⟩, s =>
  if t.celsius + 5 ≤ throttlePoint t.sensor && ms 10 ≤ stoodNs then
    .next (s.onPwr fun p => { p with throttled := p.throttled.filter fun x =>
      !(x.isOf t && x.at' + stoodNs ≤ s.localNs) })
  else .next s

/-- EXTENDED_REFRESH_CHANGE: above 85 °C the refresh interval halves (R29, R160). -/
def execExtendedRefreshChange (above : Bool) (s : State) : Answer :=
  .next (s.onPwr fun p => { p with extended := above })

/-- THROTTLE_N_ASSERT: the forced minimum power state (R27). -/
def execThrottleNAssert (s : State) : Answer := .next (s.onPins fun p => { p with throttleN := false })

/-- THROTTLE_N_RELEASE (R27). -/
def execThrottleNRelease (s : State) : Answer := .next (s.onPins fun p => { p with throttleN := true })

/-- Sustained currents of Table 2.3 in A, VDD_CORE by core_limit_amps; VDD_AUX by 3 A and the most that R19 lets the host
die draw, 1 A (R25, DEDUCED: notes/assumptions/123.md). -/
def sustainedAmps (ctl : Word) : List Nat := [fld ctl 42 32, 240, 150, 25, 80, 70, 4]

/-- The cap window in ns: units of 100 µs, 0 acts as 1, above 100 as 100 (Table 2.7). -/
def capWindow (ctl : Word) : Nat := clamp 1 100 (fld ctl 23 16) * us 100

/-- Both limits hold, with a margin in percent (R25, R26). -/
def capHolds (ctl : Word) (watts coreAmps : Nat) (rails : List Nat) (percent : Nat) : Bool :=
  watts * 100 ≤ fld ctl 10 0 * percent && coreAmps * 100 ≤ fld ctl 42 32 * percent &&
  ((rails.zip (sustainedAmps ctl)).all fun (a, m) => a * 100 ≤ m * percent)

/-- POWER_CAP_EVALUATION (R25 to R27): over a limit, or thermally throttled, sheds; after a full window
within both limits by 5 % restores a step and begins the window anew. While THROTTLE_N is low nothing is restored. -/
def execPowerCapEvaluation (windowWatts milliWatts coreAmps : Nat) (railAmps : List Nat) (s : State) :
    Answer :=
  let ctl := s.pwr.capCtl
  let s := s.onPwr fun p => { p with powerWatts := sat 11 milliWatts, coreAmps := sat 11 coreAmps }
  if !capHolds ctl windowWatts coreAmps railAmps 100 || !s.pwr.throttled.isEmpty then
    .next (shed (s.onPwr fun p => { p with quietSince := none }))
  else if !capHolds ctl windowWatts coreAmps railAmps 95 then
    .next (s.onPwr fun p => { p with quietSince := none })
  else match s.pwr.quietSince with
    | none => .next (s.onPwr fun p => { p with quietSince := some s.localNs })
    | some t =>
      if s.pins.throttleN && anyShed s.pwr && t + capWindow ctl ≤ s.localNs then
        .next ((restoreStep s).onPwr fun p => { p with quietSince := some s.localNs })
      else .next s

/-- Every rail that has risen stands above its recovery level, with PGOOD_x high (R46, R47). -/
def railsRecovered (s : State) : Bool := s.pwr.rails.all fun x => !x.below && (x.pgood || !x.up)

/-- DIP_EPISODE_BEGIN (R23, R46 to R48): a warning crossing that counts; a crossing before the end of an episode belongs
to it, also to that of an injected hold, whose length then still runs. -/
def execDipEpisodeBegin (r : Rail) (c : Crossing) (s : State) : Answer :=
  if !warningCounts r c then .next s
  else
    let s := onRail s r fun x => if c = .pgoodLow then { x with pgood := false } else { x with below := true }
    let s := (s.onPwr fun p => { p with pgoodSince := none }).onPins
      fun p => { p with supplyAlertN := false }
    if s.pwr.dipActive then
      .next (stopWork (s.onPwr fun p =>
        { p with dipInjected := false,
                 dipRails := if p.dipRails.contains r then p.dipRails else p.dipRails ++ [r] }))
    else .next (beginHold s false [r])

/-- The end of an injected hold that the episode holds, its start without one (R384). -/
def injectedEnd (p : Power) : Nat := p.dipStart + us p.injectedLen

/-- RAIL_RECOVERED (R46, R47): the episode's length runs to the moment at which the rail came above its recovery level;
with every rail recovered, SUPPLY_ALERT_N returns high and, within 200 µs of the first crossing, held work resumes (R49). A
rail that had fallen to its reset level stands up again (notes/assumptions/124.md). -/
def execRailRecovered : RailReturn → State → Answer
  | ⟨r, milliVolts, ns⟩, s =>
  if !recoveryCounts r milliVolts ns then .next s
  else
    let s := onRail s r fun x =>
      { x with below := false, up := x.up || x.fell, pgood := x.up || x.fell, fell := false }
    let s := if s.pwr.dipActive && !s.pwr.dipInjected then
        s.onPwr fun p => { p with dipLastUp := max p.dipLastUp (s.localNs - ns) }
      else s
    if railsRecovered s then
      let s := (markGood s).onPins fun p => { p with supplyAlertN := true }
      if s.pwr.dipActive && !s.pwr.dipInjected then
        let s := s.onPwr fun p => { p with dipRecoveredAt := s.localNs }
        .next (if s.pwr.heldNow && s.pwr.dipLastUp ≤ s.pwr.dipStart + us 200 && injectedEnd s.pwr ≤ s.localNs then
            resumeWork s
          else s)
      else .next s
    else .next s

/-- DIP_EPISODE_END (R47, R49): every rail above recovery for 100 µs after an episode of at most 200 µs; an
injected hold ends after its length. -/
def execDipEpisodeEnd (s : State) : Answer :=
  if !s.pwr.dipActive then .next s
  else
    let s' := s.onPwr fun p => { p with dipLastUp := max p.dipLastUp (injectedEnd p) }
    .next (if injectedEnd s.pwr ≤ s.localNs &&
        (s.pwr.dipInjected || (railsRecovered s && s.pwr.dipRecoveredAt + us 100 ≤ s.localNs)) &&
        s'.pwr.dipLastUp ≤ s.pwr.dipStart + us 200 then endHold s' else s)

/-- An episode is longer than 200 µs: a rail has not recovered that long after the first crossing, or the last did so
later (R47, R51). -/
def episodeLong (s : State) : Bool :=
  s.pwr.dipActive && !s.pwr.dipInjected &&
  ((!railsRecovered s && decide (s.pwr.dipStart + us 200 < s.localNs)) || decide (s.pwr.dipStart + us 200 < s.pwr.dipLastUp))

/-- SUPPLY_RESET (R51): an episode longer than 200 µs, or a rail at its reset level, which leaves the rail down and
SUPPLY_ALERT_N low; VDD_AUX there is a power-on reset. A long episode's length so far is kept in last_dip_us, and a reset
level leaves that field (DESIGN CHOICE: the spec speaks of episodes that end, notes/assumptions/125.md). -/
def execSupplyReset (c : SupplyCause) (s : State) : Answer :=
  match c with
  | .longEpisode =>
    .next (if episodeLong s then
        coldReset (s.onPwr fun p => { p with lastDipUs := sat 16 (ceilDiv (s.localNs - p.dipStart) 1000) }) 2
      else s)
  | .resetLevel r mv ns =>
    if !resetCounts r mv ns then .next s
    else match r with
    | .vddAux => .next (powerOnState s)
    | _ => .next (coldReset (((onRail s r fun x =>
        { x with below := true, pgood := false, fell := x.up || x.fell, up := false }).onPwr
        fun p => { p with pgoodSince := none }).onPins fun p => { p with supplyAlertN := false }) 3)

/-! ### Margins (R43 to R45) -/

/-- The lowest number in a list from n up. -/
def lowestFrom (n : Nat) (l : List Nat) : Option Nat :=
  (l.filter (n ≤ ·)).foldl (fun b x => match b with | none => some x | some y => some (min x y)) none

/-- The link that the rotation checks next: one at a time in the order of their numbers (R43). -/
def nextCheck (p : Power) : Option Nat :=
  match lowestFrom p.checkNext (checkable p) with
  | some n => some n
  | none => lowestFrom 0 (checkable p)

/-- The interval between checks of one link: units of 10 ms, 0 acts as 1 (Table 3.6). -/
def checkIntervalNs (p : Power) : Nat := ms (10 * max 1 (fld p.marginCtl 7 0))

/-- It is a link's turn: the rotation stands at it, and its last check is an interval ago (R43). -/
def checkTurn (s : State) (x : Trained) : Bool :=
  nextCheck s.pwr == some x.link && x.checkedAt.all fun t => decide (t + checkIntervalNs s.pwr ≤ s.localNs)

/-- The worst channel of the rotation with one more channel checked: the lowest margin, of equals the first. -/
def worseOf (w : Option (Nat × Nat)) (link margin : Nat) : Option (Nat × Nat) :=
  if 96 ≤ link then w
  else match w with
    | none => some (link, margin)
    | some (l, m) => if margin < m then some (link, margin) else some (l, m)

/-- The rotation moves past a link that has been checked; the last link ends it, and worst_channel and worst_margin take
what it found (Table 3.7). -/
def advanceRotation (p : Power) (link margin : Nat) : Power :=
  let w := worseOf p.rotWorst link margin
  match lowestFrom (link + 1) (checkable p) with
  | some n => { p with checkNext := n, rotWorst := w }
  | none => { p with checkNext := 0, rotWorst := none,
                     worstChannel := (w.map (·.1)).getD p.worstChannel,
                     worstMargin := (w.map fun x => sat 8 x.2).getD p.worstMargin }

/-- A check fails: the margin, the smaller of eye width and height, is below the threshold (R43, R44). -/
def checkFails (p : Power) (margin : Nat) : Bool := decide (margin < fld p.marginCtl 15 8)

/-- The link owes the one check of a warm reset's recovery, which has begun (R41). -/
def owesCheck (s : State) (x : Trained) : Bool := s.pwr.recovering && !s.pwr.warmHeld && s.pwr.warmDue.contains x.link

/-- MARGIN_CHECK (R43, R44), in its turn or as a warm reset's recovery has it (R41): the margin is recorded; below the
threshold, or more than 10 °C from the trained temperature, the link is due to retrain, while retrain_enable is 1. A failure is
counted either way (notes/assumptions/51.md). -/
def execMarginCheck (l : Link) (eye : Eye) (celsius : Nat) (s : State) : Answer :=
  match lookupBy (·.link) (linkId l) s.pwr.links with
  | none => .next s
  | some x =>
    if x.retired || x.retraining || !(owesCheck s x || checkTurn s x) then .next s
    else
      let margin := min eye.width eye.height
      let base := x.celsius.getD celsius
      let fails := checkFails s.pwr margin || decide (base + 10 < celsius) || decide (celsius + 10 < base)
      let x' := { x with margin := margin, celsius := some base, checkedAt := some s.localNs,
                         due := x.due || (fails && bit s.pwr.marginCtl 16) }
      let p : Power :=
        { s.pwr with links := upsert (·.link) x' s.pwr.links,
                     marginFailures := if checkFails s.pwr margin then s.pwr.marginFailures + 1 else s.pwr.marginFailures }
      .next (startDue (s.onPwr fun _ =>
        if owesCheck s x then { p with warmDue := p.warmDue.filter (· != x.link) } else advanceRotation p x.link margin))

/-- RETRAIN_END (R44, R45): the new trained point and temperature, the counter, event 12. -/
def execRetrainEnd (l : Link) (celsius : Nat) (s : State) : Answer :=
  match lookupBy (·.link) (linkId l) s.pwr.links with
  | none => .next s
  | some x =>
    if !x.retraining || s.pwr.heldNow then .next s
    else
      let x' := { x with retraining := false, due := false, margin := 100, celsius := some celsius }
      let s := startDue (s.onPwr fun p => { p with links := upsert (·.link) x' p.links })
      match l with
      | .channel n =>
        .next (logEvent (s.onPwr fun p => { p with foothillRetrains := bump 16 p.foothillRetrains }) 12 0 n)
      | .lane n =>
        .next (logEvent (s.onPwr fun p => { p with ridgeRetrains := bump 16 p.ridgeRetrains }) 12 0 (256 + n))

end Sys2Proof.Machine
end

