-- ==== Sys2Proof/Machine/IndexOps.lean ====
section
/-!
DEFINITION. Indexes as storage (R262 to R264, R277): their blocks, frames and granules, the banks of their blocks, what
waits for queries that run.
-/

namespace Sys2Proof.Machine

/-- The record of an ember; one not listed is at reset. -/
def State.ember (s : State) (e : Nat) : Ember := (lookupBy (·.number) e s.hrt.embers).getD { number := e }

/-- Change ember e. -/
def State.onEmber (s : State) (e : Nat) (f : Ember → Ember) : State :=
  s.onHrt fun h => { h with embers := upsert (·.number) { f (s.ember e) with number := e } h.embers }

/-- A bank takes new pages: it is in service (R208). -/
def bankServes (s : State) (e : Nat) : Bool := (s.ember e).state = .inService

/-- The index of a slot, if the slot has been used. -/
def State.index (s : State) (slot : Nat) : Option Index := lookupBy (·.slot) slot s.srch.indexes

/-- Put an index record. -/
def State.putIndex (s : State) (x : Index) : State :=
  s.onSrch fun t => { t with indexes := upsert (·.slot) x t.indexes }

/-- Bytes of an index's records of one code width (R262). -/
def recordBytes (width : Nat) : Nat := width / 8 + 32

/-- Records in a posting block: none spans a 2 KiB row (R263). -/
def recordsPerBlock (width : Nat) : Nat := 32 * (2048 / recordBytes width)

/-- Blocks for a number of records. -/
def blocksFor (width n : Nat) : Nat := ceilDiv n (recordsPerBlock width)

/-- A posting record as it lies in a block (Table 12.2). -/
def postingBytes (r : Posting) : List Byte :=
  r.code ++ leBytes 8 r.attr ++ leBytes 2 r.range0 ++ leBytes 2 r.range1 ++
  leBytes 2 (if r.deleted then 3 else 1) ++ leBytes 2 0 ++ leBytes 8 r.key ++ leBytes 8 0

/-- Row k of a posting block: whole records, then zeros; a place not used has valid 0 (R263). -/
def postingRow (width : Nat) (block : List Posting) (k : Nat) : List Byte :=
  let per := 2048 / recordBytes width
  let bytes := ((block.drop (per * k)).take per).flatMap postingBytes
  bytes ++ List.replicate (2048 - bytes.length) 0

/-- A posting block of one 64 KiB frame (R263). -/
def postingBlock (width : Nat) (block : List Posting) : List Byte :=
  (List.range 32).flatMap (postingRow width block)

/-- The records of block b among the records of a cell or scree. -/
def blockRecords {α : Type} (width b : Nat) (rs : List α) : List α :=
  (rs.drop (recordsPerBlock width * b)).take (recordsPerBlock width)

/-- The home copy of a block in the foothill tier: AES-256-XTS under the key of the index, a data unit a granule, whose tweak is
the granule's place in the index's home copy (R264, R334). -/
def homeBlock (x : Index) (at' : Nat) (block : List Posting) : List Byte :=
  let bytes := postingBlock x.width block
  (List.range 128).flatMap fun g => Config.xtsEncrypt (Config.trng x.key) (128 * at' + g) (slice bytes (512 * g) 512)

/-- Granules of an index's home copy: blocks of 64 KiB and the key table of 16 bytes an entry (R264). -/
def indexGranules (x : Index) : Nat :=
  128 * ((x.cells.map fun c => blocksFor x.width c.records.length).sum + blocksFor x.width x.scree.length
    + x.old) +
  ceilDiv (16 * ((x.cells.map fun c => c.records.length).sum + x.scree.length)) 512

/-! ### Banks (R264) -/

/-- The banks of every index block in the hearth tier, one entry a block. -/
def indexBanks (s : State) : List Nat :=
  s.srch.indexes.flatMap fun x => x.screeBanks ++ x.cells.flatMap (·.banks)

/-- The bank in service with the most free cache frames, which is that with the fewest index blocks, the lowest number of
equals, among those that hold none of some blocks. -/
def freestBank (s : State) (used not : List Nat) : Option Nat :=
  let free := (List.range 3072).filter fun e => bankServes s e && !not.contains e
  (List.range (used.length + 1)).findSome? fun n => free.find? fun e => used.count e ≤ n

/-- Banks for the blocks of one cell: distinct ones, each the freest in its turn (R264). -/
def banksFor (s : State) : Nat → List Nat → List Nat
  | 0, got => got
  | n + 1, got =>
    match freestBank s (indexBanks s ++ got) got with
    | some e => banksFor s n (got ++ [e])
    | none => got

/-- A bank is left by the index blocks in it: its hot cells turn cold, its scree blocks are written anew elsewhere from their
home copies (R169, R264). -/
def leaveBank (s : State) (e : Nat) : State :=
  s.onSrch fun t => { t with indexes := t.indexes.map fun x =>
    { x with cells := x.cells.map fun c => if c.banks.contains e then { c with hot := false, banks := [] } else c,
             screeBanks := x.screeBanks.map fun b =>
               if b = e then (freestBank s (indexBanks s) (e :: x.screeBanks)).getD b else b } }

/-! ### What waits for queries (R276, R277) -/

/-- Everything an index holds is freed; its slot's generation advances (R277). -/
def freeIndex (s : State) (x : Index) : State :=
  ((freeGranules s x.tenant (indexGranules x)).onSrch fun t =>
    { t with scans := t.scans.filter (·.slot != x.slot) }).putIndex
    { slot := x.slot, gen := x.gen + 1, tenant := x.tenant }

/-- Deletes and drops whose queries have all ended complete, in their order of arrival. -/
def settleWaits : Nat → State → State
  | 0, s => s
  | n + 1, s =>
    match s.srch.waits.find? fun w => w.on.all fun o => (s.descriptor o).isNone with
    | none => s
    | some w =>
      let s := s.onSrch fun t => { t with waits := t.waits.filter (·.origin != w.origin) }
      let s := if w.drop then ((s.index w.slot).map (freeIndex s)).getD s else s
      settleWaits n (complete s w.origin [] w.result)

/-- A descriptor on an index has ended. -/
def indexSettled (s : State) : State := settleWaits s.srch.waits.length s

/-- A query that runs. -/
def State.query (s : State) (o : Origin) : Option Query := s.srch.scans.find? (·.origin == some o)

/-- A query is out of the scan. -/
def dropQuery (s : State) (o : Origin) : State :=
  s.onSrch fun t => { t with scans := t.scans.filter (·.origin != some o) }

end Sys2Proof.Machine
end

