-- ==== Sys2Proof/Machine/SessionOps.lean ====
section
/-!
DEFINITION. Shared operations on sessions: flue records, the end of a generation, what a cancel leaves
(R92, R103, R104), and when a descriptor may start (R73, R88, R91).
-/

namespace Sys2Proof.Machine

/-! ### Flue records -/

/-- Queue a flue record: to the flue bellows of this part, or over the ridge to the part that fetched the
SESSION_GENERATE, in the session's class (R79, R86, R318); dropped where R104 discards it. -/
def sendRecord (s : State) (o : Origin) (cls : Nat) (r : FlueRecord) : State :=
  match s.descriptor o with
  | none => s
  | some d =>
    if d.discard then s
    else match o with
      | .qp q _ => s.onClass 6 cls fun c =>
          { c with queue := c.queue ++ [{ hdr := blankHeader, payload := .record q r }] }
      | .ridge part req => sendResponse s part req .ok (.flue r) r.handle cls

/-- Records of class 3 sessions for queue pair q that wait for the twin (R346). -/
def recordsWaiting (s : State) (q : Nat) : Nat :=
  (s.ses.table.map fun x => (x.heldRecords.filter fun r => match r.1 with
    | .qp q' _ => q' == q
    | .ridge _ _ => false).length).sum

/-- Flue records that the part still holds for queue pair q (R80). -/
def recordsHeld (s : State) (q : Nat) : Nat :=
  recordsWaiting s q + ((s.bellow 6).classes.map fun c => (c.queue.filter fun f => match f.payload with
    | .record q' _ => q' == q
    | _ => false).length).sum

/-- Records of one generation still held (R74). -/
def recordsOf (s : State) (q : Nat) (seq : Seq) : Nat :=
  ((s.bellow 6).classes.map fun c => (c.queue.filter fun f => match f.payload with
    | .record q' r => q' == q && r.genSeq == seq
    | _ => false).length).sum

/-- Room for records on queue pair q's flue ring: free slots while ENABLED, and the store of 64 (R80). -/
def flueRoom (s : State) (q : Nat) : Nat :=
  let p := s.qp q
  let free := if p.state = .enabled then 2 ^ p.ctx.flueLog2 - dist p.flueHead p.flueNext else 0
  free + 64 - recordsHeld s q

/-- Records of a descriptor wait for the twin (R346). -/
def waitsRecords (s : State) (o : Origin) : Bool :=
  s.ses.table.any fun x => x.heldRecords.any fun r => r.1 == o

/-- Descriptors whose generation is over complete once their records have left the part (R74). -/
def finishEnded (s : State) : State :=
  s.desc.foldl (fun s d =>
    if waitsRecords s d.origin then s
    else match d.phase, d.origin with
    | .ended r, .qp q seq => if recordsOf s q seq = 0 then complete s d.origin [] r else s
    | .ended r, .ridge _ _ => complete s d.origin [] r
    | _, _ => s) s

/-- Data for the host address of a descriptor's out_ptr: written under its queue pair's PASID, or sent to the
part that fetched the descriptor (R74, R260). -/
def deliver (s : State) (o : Origin) (addr : Nat) (data : List Byte) : State :=
  match o with
  | .qp q _ => s.emit (.hostWrite (s.qp q).ctx.pasid addr data)
  | .ridge part req => sendResponse s part req .ok (.toHost addr data)

/-! ### Kindling units (R243) -/

/-- Work that still waits for a unit: its session generates, or its descriptor is in flight. -/
def KindlingWork.stands (s : State) : KindlingWork → Bool
  | .mask slot _ => (s.session slot).any (·.gener.isSome)
  | .tokens o _ => (s.descriptor o).isSome

/-- Grammar masks go before tokenisation (R243). -/
def KindlingWork.rank : KindlingWork → Nat
  | .mask _ _ => 0
  | .tokens _ _ => 2

/-- The unit with the shortest queue, the lowest number of equals. -/
def shortestUnit (l : List (Nat × List KindlingWork)) : Option Nat :=
  (l.foldl (fun (best : Option (Nat × List KindlingWork)) u =>
    match best with
    | none => some u
    | some b => if u.2.length < b.2.length then some u else best) none).map (·.1)

/-- A piece of work goes to the shortest queue on the summit die that holds its operands, or on either (R243); where that die
has no unit in service, on the other (DESIGN CHOICE, notes/assumptions/138.md). -/
def kindle (s : State) (die : Option Nat) (w : KindlingWork) : State :=
  s.onKnd fun k =>
    let queues := k.queues.map fun u => (u.1, u.2.filter fun x => x.stands s && x != w)
    let near := queues.filter fun u => die.all fun n => u.1 / 4 == n
    match (shortestUnit near).orElse fun _ => shortestUnit queues with
    | none => k
    | some n =>
      { k with queues := queues.map fun u =>
          if u.1 = n then (u.1, insertBy (fun a b => decide (a.rank < b.rank)) w u.2) else u }

/-- Work is done. -/
def unkindle (s : State) (w : KindlingWork) : State :=
  s.onKnd fun k => { k with queues := k.queues.map fun u => (u.1, u.2.filter (· != w)) }

/-- The summit die of a session's record (Table 6.2). -/
def recordDie (handle : Word) : Nat := if Config.recordDie handle then 1 else 0

/-- The mask of a column of a session is wanted (R178). -/
def kindleMask (s : State) (x : Session) (column : Nat) : State :=
  kindle s (some (recordDie (sessionHandle s x))) (.mask x.slot column)

/-- An APPEND's segments and an EMBED_BATCH's documents wait for tokenisation from their arrival on (R243, R249). -/
def kindleText (s : State) (d : InFlight) : State :=
  let n := if dOpcode d.raw = opAppend then appendSegments d.raw
    else if dOpcode d.raw = opEmbed then fld d.raw 367 352 else 0
  if n = 0 then s
  else
    let die := if dOpcode d.raw = opAppend then some (recordDie (dHandle d.raw)) else none
    (List.range n).foldl (fun s k => kindle s die (.tokens d.origin k))
      (s.onKnd fun k => { k with tokenised := k.tokenised.filter fun t => t.1 != d.origin })

/-! ### Ends of activities -/

/-- The sequence number of a descriptor, carried as gen_seq (Table 4.14). -/
def originSeq : Origin → Seq
  | .qp _ seq => seq
  | .ridge _ req => BitVec.ofNat 32 req

/-- Give up a session's columns in every batch (R15). -/
def dropColumns (s : State) (slot : Nat) : State :=
  s.onSess fun t =>
    { t with batches := (t.batches.map fun b =>
        { b with columns := b.columns.filter fun c => c.1 != slot }) }

/-- The result of a GENERATE: tokens it committed, length afterwards (R99); of a replay, tokens compared
and tokens that wrote a COMPARE record (R382). -/
def genResult (x : Session) (g : Gen) : Word :=
  match g.replay with
  | some _ => word [put 31 0 g.compared, put 63 32 g.outside]
  | none => word [put 31 0 g.committed, put 63 32 x.log.length]

/-- U+FFFD in UTF-8 (R251). -/
def replacement : List Byte := [0xEF, 0xBF, 0xBD]

/-- The final record of a generation that ends without a step: token_count zero, the held tail flushed as
U+FFFD (R79, R252). -/
def finalRecord (s : State) (x : Session) (g : Gen) (stop : Nat) : FlueRecord :=
  { kind := 0, tokens := [], text := if x.tail.isEmpty then [] else replacement, more := false,
    invalid := !x.tail.isEmpty, stop := stop, handle := sessionHandle s x,
    genSeq := originSeq g.origin, step := g.step }

/-- The generation is over: its column is given up and its descriptor completes with a status and the
result of R99 once its records are out (R74, R99). `silent` leaves out the final record. -/
def closeGeneration (s : State) (x : Session) (g : Gen) (st : Status) : State :=
  let r := genResult x g
  let s := dropColumns (s.putSession { x with gener := none, tail := [], maskReady := 0 }) x.slot
  finishEnded (s.onDescriptor g.origin fun d =>
    { d with phase := .ended r, conds := if st = .ok then d.conds else d.conds ++ [st] })

/-- A record of a session goes out: behind those that wait for the twin's acknowledgement, where the session
is of class 3 and the twin serves (R346). -/
def emitRecord (s : State) (x : Session) (o : Origin) (wait : Bool) (r : FlueRecord) : State :=
  match s.session x.slot with
  | some y =>
    if wait || !y.heldRecords.isEmpty then
      s.onSession x.slot fun y => { y with heldRecords := y.heldRecords ++ [(o, r)] }
    else sendRecord s o x.cls r
  | none => sendRecord s o x.cls r

/-- U+FFFD has been put into a session's text: counted, and the stream flag set at the first with its event
(R252, R253, R380). -/
def noteReplaced (s : State) (slot n step : Nat) : State :=
  if n = 0 then s
  else
    let s := s.onKnd fun k => { k with outReplaced := sat 32 (k.outReplaced + n) }
    match s.session slot with
    | some x =>
      if x.streamFlag then s
      else sessionEvent (s.putSession { x with streamFlag := true }) x 9 step
    | none => s

/-- End a running generation outside a step commit: the final step record with its stop reason, then the
completion (R80, R92, R94, R103). -/
def endGeneration (s : State) (slot : Nat) (st : Status) (stop : Nat) : State :=
  match s.session slot with
  | none => s
  | some x =>
    match x.gener with
    | none => s
    | some g =>
      let s := emitRecord s x g.origin false (finalRecord s x g stop)
      let s := noteReplaced s slot (if x.tail.isEmpty then 0 else 1) g.step
      match s.session slot with
      | some x => closeGeneration s x g st
      | none => s

/-- The stop reason of an ending (R99). -/
def stopOf : Status → Nat
  | .ok => 0 | .deadlineMissed => 4 | .cancelled => 5 | .grammarDead => 6 | .contextFull => 7 | _ => 8

/-- A running prefill is abandoned: nothing is appended, pending tokens stay pending, and its descriptor
completes (R94, R97, R103). Where it served a GENERATE, the generation ends; where it served a REVIVE, the
session stays RESIDENT (Table 5.10). -/
def endPrefill (s : State) (slot : Nat) (st : Status) : State :=
  match s.session slot with
  | none => s
  | some x =>
    match x.prefill with
    | none => s
    | some p =>
      let s := s.putSession { x with prefill := none }
      match p.after with
      | 2 => endGeneration s slot st (stopOf st)
      | 1 => complete s p.origin [st] (if st = .cancelled then 0
          else word [put 31 0 p.micros, put 63 32 x.log.length])
      | _ => complete s p.origin [st] (word [put 63 32 x.log.length])

/-- A move before its hand-over ends: the session stays at the source, and the parts of the destination's group free the
pages that have come (R103, R111). -/
def endMove (s : State) (slot : Nat) (st : Status) : State :=
  match s.session slot with
  | none => s
  | some x =>
    match x.move with
    | none => s
    | some m =>
      let s := (sendRequest s m.dest x.cls (.dropMove (sessionHandle s x)) x.tenant (sessionHandle s x)).1
      let s := m.group.tail.foldl (fun s p => (sendRequest s p x.cls (.dropMove m.handle) x.tenant m.handle).1) s
      complete (s.putSession { x with move := none }) m.origin [st] 0

/-- A PARK that waits for its twin is given up: what it has coded is discarded, the session stays RESIDENT with its hearth
pages (R103, Table 5.13). -/
def undoPark (s : State) (x : Session) : State :=
  let g := (x.parkPlaced.map fun p => match p.place with
    | .foothill n _ => n
    | _ => 0).sum
  let s := s.putSession { x with parkWaits := none, parkPlaced := [] }
  if g = 0 then s
  else s.onTie fun t => { t with uncleared := t.uncleared ++ [{ tenant := x.tenant, granules := g }] }

/-- What a running descriptor of a session is about, ended with a status as a cancel would leave it (Table 5.13): its
prefill, its generation, its move, its park; none where it is none of these. -/
def endRunning (s : State) (x : Session) (o : Origin) (st : Status) : Option State :=
  if x.prefill.any (·.origin == o) then some (endPrefill s x.slot st)
  else if x.gener.any (·.origin == o) then some (endGeneration s x.slot st (stopOf st))
  else if x.move.any (·.origin == o) then some (endMove s x.slot st)
  else if x.parkWaits.any (·.1 == o) then some (complete (undoPark s x) o [st] 0)
  else none

/-- A running descriptor ended with a status: what it is about in its session, an embedding batch, whose documents so far
stand, or a query (Tables 5.13, 10.6, 12.6); none where nothing of it ends so. -/
def endInFlight (s : State) (d : InFlight) (st : Status) : Option State :=
  match d.embed, s.query d.origin with
  | some e, _ => some (indexSettled (complete s d.origin [st] (halves e.done e.cut)))
  | none, some _ => some (indexSettled (complete (dropQuery s d.origin) d.origin [st] 0))
  | none, none => (slotOf s d).bind fun x => endRunning s x d.origin st

/-- Cancel one descriptor (R77, R103): whether it ended by it, and the state. A descriptor executed by
another part is ended there (R104); a generation that waits for its records completes with CANCELLED as well; one whose
opcode has no cancelled outcome while it runs is not ended (notes/assumptions/152.md). -/
def cancelDescriptor (s : State) (d : InFlight) : Bool × State :=
  match d.phase with
  | .waiting | .rejected _ => (true, complete s d.origin [.cancelled] (waitingResult s d))
  | .sent part req => (true, (sendRequest s part 0 (.endOf req) d.tenant (dHandle d.raw)).1)
  | .ended _ => (true, s.onDescriptor d.origin fun d => { d with conds := d.conds ++ [.cancelled] })
  | .aborted _ | .follows _ _ => (false, s)
  | .running =>
    match endInFlight s d .cancelled with
    | some s' => (true, s')
    | none => (false, s)

/-- End a descriptor with a failure that struck while it was in flight: what it ran is abandoned as a
cancel would leave it; at another part it is ended there; a generation that waits for its records takes the failure as
one more condition (R63, R94). -/
def failDescriptor (s : State) (d : InFlight) (st : Status) : State :=
  match d.phase with
  | .running =>
    match endInFlight s d st with
    | some s' => s'
    | none => complete s d.origin [st] 0
  | .waiting => complete s d.origin [st] (waitingResult s d)
  | .sent part req =>
    finishEnded ((sendRequest s part 0 (.endOf req) d.tenant (dHandle d.raw)).1.onDescriptor d.origin fun d =>
      { d with phase := .ended 0, conds := d.conds ++ [st] })
  | .ended _ => s.onDescriptor d.origin fun d => { d with conds := d.conds ++ [st] }
  | _ => s

/-! ### When a descriptor may start -/

/-- Two opcodes whose activities run side by side on one session: GENERATE with MOVE, SNAPSHOT, or CAIRN_WRITE, which
acts as a SNAPSHOT here (R91, R358). -/
def compatible (a b : Nat) : Bool :=
  (a == opGenerate && (b == opMove || b == opSnapshot || b == opCairn)) ||
  (b == opGenerate && (a == opMove || a == opSnapshot || a == opCairn))

/-- Descriptors that work on a session as an activity: opcodes 0x11 to 0x17, TUNE_STEP, CAIRN_WRITE on a
session (R91). -/
def namesSession (d : BitVec 512) : Bool :=
  (opAppend ≤ dOpcode d && dOpcode d ≤ opClose) || dOpcode d == opTune ||
  (dOpcode d == opCairn && dHandle d != 0)

/-- Two descriptors name one session. -/
def sameSession (a b : BitVec 512) : Bool :=
  namesSession a && namesSession b && dHandle a == dHandle b

/-- A descriptor in flight still stands before another on its session: it waits, or runs an activity that
cannot run beside the other's (R73, R91). -/
def standsBefore (d e : InFlight) : Bool :=
  sameSession e.raw d.raw &&
  match e.phase with
  | .waiting => true
  | .running | .ended _ => !compatible (dOpcode e.raw) (dOpcode d.raw)
  | _ => false

/-- A descriptor would wait on its session: another stands before it (R91); a CLOSE never waits (R92). -/
def wouldWait (s : State) (d : InFlight) : Bool :=
  dOpcode d.raw != opClose && (s.before d.origin).any (standsBefore d)

/-- Descriptors that wait on a session (R73). -/
def waitersOn (s : State) (h : Word) : Nat :=
  (s.desc.filter fun d => namesSession d.raw && dHandle d.raw == h && d.phase == .waiting &&
    wouldWait s d).length

/-- A descriptor can start now: the part is ready, the descriptor waits here with the given opcode, no
fence, no earlier one on its session and no hold stands before it, and no attempt to quiesce runs (R48, R73, R91, R371).
In a hold only NOP, QUEUE_CANCEL and SESSION_CLOSE start, which begin no step, chunk, scan or copy (R48; DESIGN CHOICE,
notes/assumptions/126.md). -/
def canStart (s : State) (o : Origin) (op : Nat) : Option InFlight :=
  match s.descriptor o with
  | none => none
  | some d =>
    if d.phase = .waiting && dOpcode d.raw = op && s.pwr.ready && !fenceBlocked s d && !wouldWait s d &&
       (!s.pwr.heldNow || op == opNop || op == opCancel || op == opClose) && s.fwu.attemptAt.isNone
    then some d else none

/-- Mark a descriptor as running. -/
def markRunning (s : State) (o : Origin) : State := s.onDescriptor o fun d => { d with phase := .running }

/-- The checks of R87 and Table 5.2 at the home part: the session, or the status and result that decide the
completion. `allowed` are the statuses that its own state refuses with (notes/assumptions/149.md). -/
def findSession (s : State) (d : InFlight) : Except (Status × Word) Session :=
  let h := dHandle d.raw
  if !s.partKnown (hPart h) || hTenant h ≠ d.tenant || hGen h = 0 then .error (.sessionUnknown, 0)
  else if 1048576 ≤ hSlot h || s.ses.retired.contains (hSlot h) then .error (.sessionUnknown, 0)
  else if s.host.compat && 4096 ≤ hSlot h then .error (.sessionUnknown, 0)
  else match s.session (hSlot h) with
    | none => .error (.stateLost, 0)
    | some x =>
      if x.guest.isSome then .error (.stateLost, 0)
      else match x.state with
      | .free => .error (.sessionUnknown, 0)
      | .lost => .error (.stateLost, 0)
      | .restoring => if hGen h ≠ x.gen then .error (.sessionUnknown, 0) else .ok x
      | .moved =>
        if hGen h ≠ x.gen || x.tenant ≠ d.tenant then .error (.sessionUnknown, 0)
        else .error (.sessionUnknown, x.movedTo)
      | _ =>
        if hGen h ≠ x.gen || x.tenant ≠ d.tenant then .error (.sessionUnknown, 0) else .ok x

end Sys2Proof.Machine
end

