-- ==== Sys2Proof/Machine/StoveOps.lean ====
section
/-!
DEFINITION. Stove work items, queues, stealing, roles (R228 to R233) as shared operations.
-/

namespace Sys2Proof.Machine

/-! ### Queues (R229, R230) -/

/-- Order within a role's queues (Table 10.2): rank, then arrival. -/
def Item.before (a b : Item) : Bool :=
  decide (a.rank < b.rank) || (a.rank == b.rank && decide (a.order < b.order))

/-- Change an island. -/
def Stoves.onIsland (v : Stoves) (n : Nat) (f : Island → Island) : Stoves :=
  { v with islands := v.islands.map fun i => if i.number = n then f i else i }

/-- Change an island. -/
def onIsland (s : State) (n : Nat) (f : Island → Island) : State := s.onStv fun v => v.onIsland n f

/-- The islands of a role that take new items: one that is due to leave takes none, and one without stoves none. -/
def Stoves.takers (v : Stoves) (r : Role) : List Island :=
  v.islands.filter fun i => i.role = r && i.leaving.isNone && i.stoves != 0

/-- The shortest queue of islands, the lowest number of equals. -/
def shortestQueue (l : List Island) : Option Island :=
  l.foldl (fun (best : Option Island) i =>
    match best with
    | none => some i
    | some b => if i.queue.length < b.queue.length then some i else best) none

/-- The island that a new item goes to: the shortest queue of its role on the summit die that holds its operands (R230);
where no island of that die has the role, of the other die (DESIGN CHOICE, notes/assumptions/136.md). -/
def Stoves.islandFor (v : Stoves) (it : Item) : Option Island :=
  match shortestQueue ((v.takers it.role).filter fun i => i.number / 16 == it.die) with
  | some i => some i
  | none => shortestQueue (v.takers it.role)

/-- A new item is placed; with no island of its role it waits for one. -/
def Stoves.place (v : Stoves) (it : Item) : Stoves :=
  match v.islandFor it with
  | some i => v.onIsland i.number fun i => { i with queue := insertBy Item.before it i.queue }
  | none => { v with waiting := v.waiting ++ [it] }

/-- A new item is placed. -/
def placeItem (s : State) (it : Item) : State := s.onStv fun v => v.place it

/-- Items that waited for an island of their role are placed. -/
def Stoves.placeWaiting (v : Stoves) : Stoves := v.waiting.foldl Stoves.place { v with waiting := [] }

/-- The two ring neighbours of an island on its summit die (R230). -/
def neighbours (n : Nat) : List Nat :=
  [n / 16 * 16 + (n % 16 + 15) % 16, n / 16 * 16 + (n % 16 + 1) % 16]

/-- The longest queue that is not empty among islands, the lowest number of equals. -/
def longestQueue (l : List Island) : Option Island :=
  l.foldl (fun (best : Option Island) i =>
    if i.queue.isEmpty then best
    else match best with
      | none => some i
      | some b => if b.queue.length < i.queue.length then some i else best) none

/-- The island an idle island steals from: the longer queue of its ring neighbours, else the longest of its
role on its summit die (R230). -/
def stealFrom (s : State) (me : Island) : Option Island :=
  let mine := s.stv.islands.filter fun i =>
    i.role = me.role && i.number / 16 == me.number / 16 && i.number != me.number
  match longestQueue (mine.filter fun i => (neighbours me.number).contains i.number) with
  | some i => some i
  | none => longestQueue mine

/-- Start an item on an island: before an item of another tenant the private crest is zeroed and checked; a
line that fails takes its stove out of service and is an isolation event (R228, R341). -/
def startItem (s : State) (n : Nat) (it : Item) (crestOk : Bool) : State :=
  match s.stv.islands.find? fun i => i.number == n with
  | none => s
  | some i =>
    let clears := i.tenant.any (· != it.tenant)
    let fails := clears && !crestOk
    let s := if clears then s.onStv fun v => { v with crestClears := v.crestClears + 1 } else s
    let s := if fails then isolation s 3 (i.tenant.getD 0) else s
    let left := if fails then i.stoves - 1 else i.stoves
    if left = 0 then placeItem (onIsland s n fun i => { i with stoves := 0, tenant := none }) it
    else onIsland s n fun i => { i with stoves := left, running := some it, tenant := some it.tenant }

/-- An island without a running item takes the head of its queue, or steals (R230). -/
def takeNext (s : State) (n : Nat) (crestOk : Bool) : State :=
  match s.stv.islands.find? fun i => i.number == n with
  | none => s
  | some i =>
    if i.stoves = 0 || i.running.isSome then s
    else match i.queue with
      | it :: rest => startItem (onIsland s n fun i => { i with queue := rest }) n it crestOk
      | [] =>
        match stealFrom s i with
        | none => s
        | some v =>
          match v.queue with
          | it :: rest => startItem (onIsland s v.number fun v => { v with queue := rest }) n it crestOk
          | [] => s

/-! ### Roles and bounds (R231 to R233) -/

/-- The bounds of STV_SPLIT_CTL as they act: minimums beyond 32 reduce the later ones (R231, Table 10.7). -/
structure Bounds where
  daMin  : Nat
  daMax  : Nat
  pfMin  : Nat
  embMin : Nat
  embMax : Nat
  deriving DecidableEq, Repr

/-- Read the bounds. -/
def splitBounds (ctl : Word) : Bounds :=
  let da := min 32 (fld ctl 5 0)
  let pf := min (32 - da) (fld ctl 21 16)
  { daMin := da, daMax := clamp 1 32 (fld ctl 13 8), pfMin := pf,
    embMin := min (32 - da - pf) (fld ctl 29 24), embMax := min 32 (fld ctl 37 32) }

/-- The role an island holds, or is due to hold. -/
def Island.heading (i : Island) : Role := i.leaving.getD i.role

/-- Islands heading for a role. -/
def Stoves.heading (v : Stoves) (r : Role) : Nat := (v.islands.filter fun i => i.heading = r).length

/-- Islands heading for a role. -/
def heading (s : State) (r : Role) : Nat := s.stv.heading r

/-- Roles are held still: freeze, or a supply hold (R233). -/
def rolesFrozen (s : State) : Bool := bit s.stv.splitCtl 48 || s.pwr.heldNow

/-- An island changes role now: its queue passes to the other islands of the old role, items that waited for
the new role find it (R232). -/
def Stoves.changeRole (v : Stoves) (n : Nat) (r : Role) : Stoves :=
  match v.islands.find? fun i => i.number == n with
  | none => v
  | some i =>
    let v := v.onIsland n fun i => { i with role := r, leaving := none, queue := [] }
    (i.queue.foldl Stoves.place { v with moves := bump 16 v.moves }).placeWaiting

/-- Move one island of a role towards another, the lowest-numbered that has not moved in this interval: at
once where it is idle, else at the end of its item (R232, R233, notes/assumptions/32.md). -/
def Stoves.moveIsland (v : Stoves) (moved : List Nat) (a b : Role) : Stoves × List Nat :=
  match v.islands.find? fun i => i.heading == a && i.leaving.isNone && !moved.contains i.number with
  | none => (v, moved)
  | some i =>
    if i.running.isNone then (v.changeRole i.number b, i.number :: moved)
    else (v.onIsland i.number fun i => { i with leaving := some b }, i.number :: moved)

/-- The role that rule 1 takes an island from (R233). -/
def Stoves.daDonor (v : Stoves) : Option Role :=
  let b := splitBounds v.splitCtl
  if b.embMin < v.heading .embed then some .embed
  else if b.pfMin < v.heading .prefill then some .prefill
  else none

/-- Decode-assist items wait and no island holds the role or is due to: one island, taken as rule 1 takes it, is due to
change role at its next item boundary, at once where it is idle (R232). -/
def Stoves.callDecode (v : Stoves) : Stoves :=
  if (v.waiting.any fun it => it.role = .decode) && v.heading .decode == 0 then
    match v.daDonor with
    | some r => (v.moveIsland [] r .decode).1
    | none => v
  else v

/-- n new work items of a role are queued, in arrival order (R229, R230, R232). -/
def queueItems (s : State) (n : Nat) (r : Role) (rank tenant : Nat) : State :=
  let frozen := rolesFrozen s
  (List.range n).foldl (fun s _ =>
    let order := s.ses.arrivals
    (s.onSess fun t => { t with arrivals := t.arrivals + 1 }).onStv fun v =>
      let v := v.place { role := r, rank := rank, order := order, tenant := tenant,
                         die := if Config.operandDie order then 1 else 0 }
      if frozen then v else v.callDecode) s

/-- Queue a new work item of a role. -/
def queueItem (s : State) (r : Role) (rank tenant : Nat) : State := queueItems s 1 r rank tenant

/-- The move that brings a split back towards its bounds, in the order of R231; none where it keeps them. -/
def Stoves.boundsMove (v : Stoves) : Option (Role × Role) :=
  let b := splitBounds v.splitCtl
  let da := v.heading .decode
  let pf := v.heading .prefill
  let emb := v.heading .embed
  if da < b.daMin then v.daDonor.map fun r => (r, .decode)
  else if pf < b.pfMin then
    if b.embMin < emb then some (.embed, .prefill)
    else if b.daMin < da then some (.decode, .prefill) else none
  else if emb < b.embMin then
    if b.pfMin < pf then some (.prefill, .embed)
    else if b.daMin < da then some (.decode, .embed) else none
  else if max b.daMin b.daMax < da then some (.decode, .prefill)
  else if max b.embMin b.embMax < emb then some (.embed, .prefill)
  else none

/-- Rules 1 and 2 of R233. -/
def Stoves.decodeRules (v : Stoves) (m : SplitSample) : Stoves × List Nat :=
  let b := splitBounds v.splitCtl
  let da := v.heading .decode
  if (90 < m.daBusy || m.waitedOver5us) && da < b.daMax then
    match v.daDonor with
    | some r => v.moveIsland [] r .decode
    | none => (v, [])
  else if m.daBusy < 50 && b.daMin < da then
    if m.pfQueued then v.moveIsland [] .decode .prefill
    else if v.heading .embed < b.embMax then v.moveIsland [] .decode .embed
    else v.moveIsland [] .decode .prefill
  else (v, [])

/-- Rules 3a and 3b of R233. -/
def Stoves.prefillRules (v : Stoves) (m : SplitSample) (moved : List Nat) : Stoves × List Nat :=
  let b := splitBounds v.splitCtl
  let emb := v.heading .embed
  if m.pfQueued && b.embMin < emb then v.moveIsland moved .embed .prefill
  else if !m.pfQueuedEver && m.encQueued && emb < b.embMax && b.pfMin < v.heading .prefill then
    v.moveIsland moved .prefill .embed
  else (v, moved)

/-- The controller's rules of one interval (R233): a split outside its bounds moves one island towards them and nothing
else. -/
def Stoves.balance (v : Stoves) (m : SplitSample) : Stoves :=
  match v.boundsMove with
  | some (a, r) => (v.moveIsland [] a r).1
  | none =>
    let (v, moved) := v.decodeRules m
    (v.prefillRules m moved).1

/-! ### Arithmetic (R226, R227) -/

/-- Value k of an operand row before its FP8 scale (Table 10.1). -/
def rowValue (r : StoveRow) (k : Nat) : Fl :=
  match r.format with
  | .fp4 => e2m1 ((r.exponents[k / 32]?).getD 0).toNat (bfld r.data (4 * k + 3) (4 * k))
  | .e4m3 => e4m3 ((r.data[k]?).getD 0)
  | .e5m2 => e5m2 ((r.data[k]?).getD 0)
  | .bf16 => bf16 (BitVec.ofNat 16 (leAt r.data (2 * k) 2))

/-- Values in an operand row. -/
def rowCount (r : StoveRow) : Nat :=
  match r.format with
  | .fp4 => 2 * r.data.length
  | .e4m3 | .e5m2 => r.data.length
  | .bf16 => r.data.length / 2

/-- A sum of the array times the scale of an FP8 row (Table 10.1), in FP32. -/
def rowScaled (r : StoveRow) (z : BitVec 32) : BitVec 32 :=
  match r.format with
  | .e4m3 | .e5m2 => mulF32 z r.scale
  | _ => z

/-- Two rows through the array: products exact, accumulated in binary32, in the order of the values; the FP32 scales are
applied to the sum (R226, R227; DEDUCED, notes/assumptions/137.md). -/
def stoveDot (a b : StoveRow) : BitVec 32 :=
  rowScaled b (rowScaled a ((List.range (min (rowCount a) (rowCount b))).foldl (fun z k => macF32 z (rowValue a k) (rowValue b k)) 0))

/-- A result in the form in which it leaves, little-endian (R227). -/
def stoveResult (f : StoveResult) (z : BitVec 32) : List Byte :=
  match f with
  | .fp32 => leBytes 4 z.toNat
  | .bf16 => leBytes 2 (toBf16 (f32 z)).toNat
  | .e4m3 => [toE4m3 (f32 z)]
  | .e5m2 => [toE5m2 (f32 z)]

/-- The results of a tile, row by row (R226, R227). -/
def tileResults (t : StoveTile) : List Byte :=
  t.left.flatMap fun a => t.right.flatMap fun b => stoveResult t.result (stoveDot a b)

end Sys2Proof.Machine
end

