-- ==== Sys2Proof/Machine/HostPort.lean ====
section
/-!
DEFINITION. The meanings of the host-port commands (chapter 4): link, attach, queue-pair commands,
doorbells, fetch, interrupts, NOP, QUEUE_CANCEL, and the deadline of a descriptor (R94).
-/

namespace Sys2Proof.Machine

/-! ### Link and attach -/

/-- HOST_LINK_UP (R52, Table 4.16); modules may train from step 4 of Table 3.2 on (R37). -/
def execHostLinkUp (modules half : BitVec 4) (rate repairs : Nat) (s : State) : Answer :=
  if s.pwr.heldInReset then .next s
  else .next (s.onHost fun h => { h with modulesUp := modules, halfWidth := half, rate := rate,
                                         laneRepairs := sat 8 (h.laneRepairs + repairs) })

/-- HOST_LINK_DOWN (R54, R63): every queue pair that is not DISABLED halts with cause 4. -/
def execHostLinkDown (s : State) : Answer :=
  .next (s.onHost fun h =>
    { h with
      modulesUp := 0, halfWidth := 0, rate := 0, linkDrop := true,
      qps := h.qps.map fun q => if q.state = .disabled then q
                                else { q with state := .halted, cause := 4 } })

/-- HOST_MODULE_LOST (R52): traffic is striped across the modules that stay up; the loss of the last is
the whole link going down, which is HOST_LINK_DOWN. -/
def execHostModuleLost (m : Nat) (s : State) : Answer :=
  let left := s.host.modulesUp &&& ~~~ BitVec.ofNat 4 (1 <<< m)
  .next (if left = 0 then s
    else s.onHost fun h => { h with modulesUp := left,
                                    halfWidth := h.halfWidth &&& left })

/-- ATTACH: a write to HST_ATTACH (R81, Tables 4.18, 4.19). -/
def execAttach (val : Word) (s : State) : Answer :=
  if !s.pwr.ready then .next s
  else
    let s := s.onHost fun h => { h with attachReg := masked val 0x1F }
    let v := fld val 3 0
    if !bit val 8 then .next s
    else if s.host.attached then
      .next (if v = s.host.version then s else s.onHost fun h => { h with attachStatus := 0x0403 })
    else if v = 1 then
      .next (s.onHost fun h => { h with attached := true, version := 1, compat := bit val 4,
                                        attachStatus := 0 })
    else .next (s.onHost fun h => { h with attachStatus := 0x0403 })

/-- QP_TABLE_BASE_WRITE (R388). -/
def execQpTableBaseWrite (val : Word) (s : State) : Answer :=
  .next (if s.pwr.ready then writeTableBase s val else s)

/-! ### Queue-pair commands (R61, Table 4.4) -/

/-- Results of Table 4.22. -/
def cmdDone : Nat := 0
def cmdBadState : Nat := 1
def cmdContextInvalid : Nat := 2
def cmdTenantMismatch : Nat := 3
def cmdNotAttached : Nat := 4
def cmdMemoryError : Nat := 5

/-- HST_QP_CMD_STATUS after a command on queue pair q. -/
def cmdEnd (s : State) (q result : Nat) : State :=
  s.onHost fun h => { h with cmdBusy := false, cmdResult := result, cmdQp := q,
                             cmdState := (s.qp q).state }

/-- A command is taken: the register window is served, no other command is in progress (R38, R61); the host
must be attached (R81), else the command fails. -/
def takesCommand (s : State) : Bool := s.pwr.ready && !s.host.cmdBusy

/-- The flight ring in force from its registers: sizes 6 to 16, other values act as no ring (R376). -/
def latchFlight (f : FlightRing) (restart : Bool) : FlightRing :=
  let l := fld f.ctlReg 4 0
  { f with base := f.baseReg.toNat, log2 := if 6 ≤ l && l ≤ 16 then l else 0,
           mask := fld f.ctlReg 15 8,
           next := if restart then 0 else f.next, head := if restart then 0 else f.head }

/-- QP_ENABLE (R58 to R61, R388): the context is read and checked, the counters set from the initial values,
the flight ring started at 0 (R376). -/
def execQpEnable (q : Nat) (ctx : Option (BitVec 512)) (s : State) : Answer :=
  if !takesCommand s then .next s
  else if !s.host.attached then .next (cmdEnd s q cmdNotAttached)
  else if (s.qp q).state ≠ .disabled then .next (cmdEnd s q cmdBadState)
  else if s.host.tableBase = 0 then .next (cmdEnd s q cmdContextInvalid)
  else match ctx with
    | none => .next (cmdEnd s q cmdMemoryError)
    | some w =>
      let c := readContext w
      if !c.valid then .next (cmdEnd s q cmdContextInvalid)
      else
        let s := s.onQp q fun p =>
          { p with state := .enabled, cause := 0, ctx := c, sqTail := c.sqInit, sqNext := c.sqInit,
                   cqHead := c.cqInit, cqNext := c.cqInit, flueHead := c.flueInit,
                   flueNext := c.flueInit, held := [], reReads := 0, signal := 0, signalAt := none,
                   flueLock := none, flight := latchFlight p.flight true }
        let s := s.onHost fun h =>
          match lookupBy (·.tenant) c.tenant h.tenants with
          | some _ => h
          | none => { h with tenants := h.tenants ++ [{ tenant := c.tenant }] }
        .next (cmdEnd s q cmdDone)

/-- QP_FREEZE (Table 4.4): fetching stops; the halt cause is kept. -/
def execQpFreeze (q : Nat) (s : State) : Answer :=
  if !takesCommand s then .next s
  else if !s.host.attached then .next (cmdEnd s q cmdNotAttached)
  else match (s.qp q).state with
    | .disabled => .next (cmdEnd s q cmdBadState)
    | .enabled => .next (cmdEnd (s.onQp q fun p => { p with state := .frozen, cause := 0 }) q cmdDone)
    | .frozen | .halted => .next (cmdEnd (s.onQp q fun p => { p with state := .frozen }) q cmdDone)

/-- Submission numbers fetched and not completed, oldest first; a held completion is not yet a completion
(Table 4.15). -/
def inflightSeqs (s : State) (q : Nat) : List Seq :=
  let p := s.qp q
  let all := (p.held.filter (·.kind == 0)).map (·.subSeq) ++
    ((s.inflightOf q).map fun d => originSeq d.origin)
  sortBy (fun a b => dist b p.sqNext < dist a p.sqNext) all

/-- QP_SNAPSHOT (R82): snap_count last; a failed write halts with cause 2. -/
def execQpSnapshot (q : Nat) (write : SnapshotWrite) (s : State) : Answer :=
  if !takesCommand s then .next s
  else if !s.host.attached then .next (cmdEnd s q cmdNotAttached)
  else
    let p := s.qp q
    if p.state = .disabled then .next (cmdEnd s q cmdBadState)
    else match write with
    | .done =>
      let s := s.onQp q fun p => { p with snapCount := p.snapCount + 1 }
      let record := encodeSnapshot (s.qp q) (inflightSeqs s q)
      .next (cmdEnd ((s.emit (.hostWrite p.ctx.pasid (p.ctx.snapBase + 4) (record.drop 4))).emit
        (.hostWrite p.ctx.pasid p.ctx.snapBase (record.take 4))) q cmdDone)
    | .failed ringOk =>
      .next (cmdEnd (dmaHalt s q p.sqNext (BitVec.ofNat 64 p.ctx.snapBase) ringOk) q cmdMemoryError)

/-! ### Doorbells (R69) -/

/-- A refused doorbell value: the DOORBELL_BAD event names it and the doorbell (Table 4.13). -/
def doorbellBad (s : State) (q which : Nat) (v : Seq) : State :=
  queueEvent s q 2 (s.qp q).sqNext (word [put 31 0 v.toNat, put 33 32 which])

/-- A doorbell reaches its queue pair: the window is served and the queue pair has rings. A doorbell of a DISABLED queue
pair, which has none, has no effect and raises no event (DESIGN CHOICE: R69 does not say, notes/assumptions/127.md). -/
def hasRings (s : State) (q : Nat) : Bool := s.pwr.ready && (s.qp q).state != .disabled

/-- SQ_TAIL_WRITE (R69). -/
def execSqTailWrite (q : Nat) (val : Word) (s : State) : Answer :=
  let p := s.qp q
  let v : Seq := BitVec.ofNat 32 (fld val 31 0)
  if !hasRings s q || v = p.sqTail then .next s
  else if dist p.sqNext v ≤ 2 ^ p.ctx.sqLog2 then .next (s.onQp q fun p => { p with sqTail := v })
  else .next (doorbellBad s q 0 v)

/-- CQ_HEAD_WRITE (R69). -/
def execCqHeadWrite (q : Nat) (val : Word) (s : State) : Answer :=
  let p := s.qp q
  let v : Seq := BitVec.ofNat 32 (fld val 31 0)
  if !hasRings s q || v = p.cqHead then .next s
  else if dist p.cqHead v ≤ dist p.cqHead p.cqNext then .next (s.onQp q fun p => { p with cqHead := v })
  else .next (doorbellBad s q 1 v)

/-- FLIGHT_HEAD_WRITE (R376): accepted as FLUE_HEAD is; held records take the slots freed (R379). -/
def execFlightHeadWrite (q : Nat) (val : Word) (s : State) : Answer :=
  let p := s.qp q
  let v : Seq := BitVec.ofNat 32 (fld val 31 0)
  if !hasRings s q || v = p.flight.head then .next s
  else if dist p.flight.head v ≤ dist p.flight.head p.flight.next then
    .next (drainFlight 64 (s.onQp q fun p => { p with flight := { p.flight with head := v } }) q)
  else .next (doorbellBad s q Config.flightDoorbell v)

/-! ### Fetch (R66, R71 to R75) -/

/-- Shared entries of the descriptor store in use (R72). -/
def sharedStore (s : State) : Nat :=
  (s.host.qps.map fun p => (s.inflightOf p.id).length - 16).sum

/-- The flow conditions of R71 and R72, ready (R38), no quiesce (R371), and a submission to fetch. -/
def mayFetch (s : State) (q : Nat) : Bool :=
  let p := s.qp q
  let n := (s.inflightOf q).length
  s.pwr.ready && s.fwu.attemptAt.isNone && p.state == .enabled && p.sqNext != p.sqTail && n < p.ctx.inflightMax &&
  dist p.cqHead p.cqNext + n + 8 < 2 ^ p.ctx.cqLog2 && (n < 16 || sharedStore s < 131072)

/-- Queue pairs that may fetch, the one after the queue pair served first, in the order of their numbers (R71; the order is
the model's, notes/assumptions/128.md). One that reads its slot again waits for its interval (R66). -/
def fetchable (s : State) : List Nat :=
  let all := sortBy (fun (a b : Nat) => decide (a < b))
    ((s.host.qps.filter fun p => mayFetch s p.id && p.reReads == 0).map (·.id))
  all.filter (fun q => decide (s.host.serving < q)) ++ all.filter fun q => decide (q ≤ s.host.serving)

/-- The queue pair whose turn it is: the one served, up to 8 descriptors, then the next in rotation (R71). -/
def turnOf (s : State) : Option Nat :=
  let all := fetchable s
  if s.host.served < 8 && all.contains s.host.serving then some s.host.serving else all.head?

/-- A descriptor of queue pair q has been fetched in its turn. -/
def takeTurn (s : State) (q : Nat) : State :=
  s.onHost fun h =>
    { h with serving := q, served := if q = h.serving && h.served < 8 then h.served + 1 else 1 }

/-- The checks of R75 in their order. -/
def fetchCheck (s : State) (p : QueuePair) (d : BitVec 512) : Option Status :=
  if dVersion d ≠ s.host.version then some .versionRefused
  else if !opcodes.contains (dOpcode d) then some .formatUnsupported
  else if operatorOpcodes.contains (dOpcode d) && !p.ctx.operator then some .accessDenied
  else none

/-- The status of a descriptor whose handle names no part of the domain (R87, R261, Tables 13.7, 13.9). -/
def unknownPart (d : BitVec 512) : Status :=
  let op := dOpcode d
  if opEmbed ≤ op && op ≤ opQuery then .accessDenied
  else if op = opPublish then .accessDenied
  else if op = opRevoke then .extentUnmapped
  else .sessionUnknown

/-- A descriptor refused at fetch: at once, or, behind a fence, when it would have started (R75). -/
def rejectAtFetch (s : State) (o : Origin) (st : Status) : State :=
  match s.descriptor o with
  | none => s
  | some d =>
    if fenceBlocked s d then s.onDescriptor o fun d => { d with phase := .rejected st }
    else complete s o [st] 0

/-- What becomes of a descriptor for this part on arrival: one that would wait is checked first (R87), then SESSION_BUSY
where it must not wait, QUEUE_FULL as the 33rd waiter, else it waits for its start (R73, R91). Text to tokenise goes to the
kindling (R249); an embedding batch queues its encoder items, one for each micro-batch of up to 64 documents (Table 10.2, R241)
(notes/assumptions/55.md). -/
def arrive (s : State) (o : Origin) : State :=
  match s.descriptor o with
  | none => s
  | some d =>
    let s := kindleText s d
    let s := if dOpcode d.raw = opEmbed then queueItems s (ceilDiv (fld d.raw 367 352) 64) .embed 0 d.tenant else s
    if !wouldWait s d then s
    else match findSession s d with
    | .error (st, r) => complete s o [st] r
    | .ok _ =>
    if isSessionOp (dOpcode d.raw) && dNoWait d.raw then complete s o [.sessionBusy] (waitingResult s d)
    else if 32 < waitersOn s (dHandle d.raw) then complete s o [.queueFull] (waitingResult s d)
    else s

/-- Take a descriptor into the flight: its completion slot is reserved, R75 and the dampers decide, and a
descriptor for another part is sent there (R71 to R75, R86, R323). -/
def acceptDescriptor (s : State) (q : Nat) (d : BitVec 512) : State :=
  let p := s.qp q
  let o : Origin := .qp q p.sqNext
  let s := s.onQp q fun p => { p with sqNext := p.sqNext + 1, reReads := 0 }
  let e : InFlight :=
    { origin := o, tenant := p.ctx.tenant, operator := p.ctx.operator, raw := d, fetched := s.localNs,
      deadline := if hasDeadline (dOpcode d) && dDeadlineUs d ≠ 0 then
          some (s.localNs + us (dDeadlineUs d)) else none,
      replay := bit s.dgn.replayCtl 45 && fld s.dgn.replayCtl 44 32 == q, settings := some (settingsNow s) }
  let s := s.onDesc fun l => l ++ [e]
  match fetchCheck s p d with
  | some st => rejectAtFetch s o st
  | none =>
    let (refused, s) := if unmetered (dOpcode d) then (false, s)
      else meter s 0 p.ctx.tenant (descriptorClass s d) 64
    if refused then rejectAtFetch s o .queueFull
    else match routedPart d with
      | none => arrive s o
      | some part =>
        if part = s.rdg.part then arrive s o
        else if !s.partKnown part then rejectAtFetch s o (unknownPart d)
        else if !s.partUp part then rejectAtFetch s o .peerLost
        else if dOpcode d = opGenerate && p.ctx.flueLog2 = 0 then rejectAtFetch s o .formatUnsupported
        else if fenceBlocked s e then s
        else forwardDescriptor s e part []

/-- DESCRIPTOR_FETCH (R66, R71 to R75): in its turn the queue pair's next slot is read; one whose seq is not the one
expected is read again. -/
def execDescriptorFetch (q : Nat) (desc : BitVec 512) (s : State) : Answer :=
  let p := s.qp q
  if turnOf s ≠ some q then .next s
  else if dSeq desc ≠ p.sqNext then .next ((takeTurn s q).onQp q fun p => { p with reReads := 1 })
  else .next (acceptDescriptor (takeTurn s q) q desc)

/-- SEQ_REREAD (R63, R66): up to four reads again, while the queue pair may fetch (R71, R72); after the fourth the queue
pair halts with SEQ_GAP (notes/assumptions/54.md). -/
def execSeqReread (q : Nat) (desc : BitVec 512) (s : State) : Answer :=
  let p := s.qp q
  if p.reReads = 0 || !mayFetch s q then .next s
  else if dSeq desc = p.sqNext then .next (acceptDescriptor s q desc)
  else if p.reReads < 4 then .next (s.onQp q fun p => { p with reReads := p.reReads + 1 })
  else
    let s := queueEvent s q 1 p.sqNext (BitVec.ofNat 64 (dSeq desc).toNat)
    .next (haltQp (s.onQp q fun p => { p with reReads := 0 }) q 1)

/-- DMA_ERROR (R63, Table 4.5): the event, HALTED with cause 2, and HARDWARE_FAULT for the descriptor whose
buffer failed. -/
def execDmaError (q : Nat) (about : Option Seq) (addr : Word) (ringOk : Bool) (s : State) : Answer :=
  let p := s.qp q
  if p.state = .disabled then .next s
  else
    let s := dmaHalt s q (about.getD p.sqNext) addr ringOk
    match about.bind fun n => s.descriptor (.qp q n) with
    | some d => .next (failDescriptor s d .hardwareFault)
    | none => .next s

/-- IRQ_COALESCE_TIMEOUT (R74): coalesce_us after the first entry not yet signalled. -/
def execIrqCoalesceTimeout (q : Nat) (s : State) : Answer :=
  let p := s.qp q
  match p.signalAt with
  | some t => .next (if p.ctx.irqEnable && t + us p.ctx.coalesceUs ≤ s.localNs then raiseIrq s q else s)
  | none => .next s

/-- The deadline of a descriptor has passed. -/
def pastDeadline (s : State) (d : InFlight) : Bool := d.deadline.any fun t => decide (t ≤ s.localNs)

/-! ### NOP, QUEUE_CANCEL and deadlines -/

/-- NOP (R76). -/
def execNop (o : Origin) (s : State) : Answer :=
  match canStart s o opNop with
  | none => .next s
  | some _ => .next (complete s o [] 0)

/-- The brownout flag joins the conditions of a request whose deadline passes in a hold (R50). -/
def flagBrownout (s : State) (o : Origin) : State :=
  if s.pwr.heldNow then
    s.onDescriptor o fun d =>
      if d.conds.contains .brownoutRetry then d else { d with conds := d.conds ++ [.brownoutRetry] }
  else s

/-- A running descriptor's deadline has passed outside a hold: an APPEND and the prefill of a GENERATE are abandoned, a
GENERATE that sits out steps or waits for a column ends at once, and otherwise at its next step commit; any other runs
on (R80, R94). -/
def lateRunning (s : State) (x : Session) (o : Origin) : State :=
  if x.prefill.any fun p => p.origin == o && p.after != 1 then endPrefill s x.slot .deadlineMissed
  else if x.gener.any fun g => g.origin == o && (g.stalled || g.batch.isNone || x.move.any (·.sitsOut)) then
    endGeneration s x.slot .deadlineMissed 4
  else s

/-- DEADLINE_EXPIRE (R50, R80, R94): before its start any session descriptor ends; a running one ends as `lateRunning`
says, and in a hold whatever it is, since it is not replayed. -/
def execDeadlineExpire (o : Origin) (s : State) : Answer :=
  match s.descriptor o with
  | none => .next s
  | some d =>
    match d.deadline with
    | none => .next s
    | some t =>
      if s.localNs < t then .next s
      else match d.phase with
        | .waiting => .next (complete (flagBrownout s o) o [.deadlineMissed] (waitingResult s d))
        | .running =>
          if s.pwr.heldNow || d.embed.isSome || (s.query o).isSome then .next ((endInFlight (flagBrownout s o) d .deadlineMissed).getD s)
          else match slotOf s d with
            | none => .next s
            | some x => .next (lateRunning s x o)
        | _ => .next s

end Sys2Proof.Machine
end

