-- ==== Sys2Proof/Machine/FirmwareOps.lean ====
section
/-!
DEFINITION. Firmware update as shared operations: downloads (R368), the checks of images, configuration
blocks and chains (R329, R330, R366, R369), activations (R370) and the switch (R371, R372).
-/

namespace Sys2Proof.Machine

/-! ### The body of FW_BLOCK (Table 17.3) -/

def fwOp (d : BitVec 512) : Nat := fld d 258 256
def fwTarget (d : BitVec 512) : Nat := fld d 260 259
def fwCold (d : BitVec 512) : Bool := bit d 261
def fwDomain (d : BitVec 512) : Bool := bit d 262
def fwNewFormats (d : BitVec 512) : Bool := bit d 263
def fwId (d : BitVec 512) : Nat := fld d 295 264
def fwOffset (d : BitVec 512) : Nat := 4096 * fld d 319 296
def fwLength (d : BitVec 512) : Nat := fld d 336 320
def fwEpoch (d : BitVec 512) : Nat := fld d 447 384

/-- The length of a target area: a firmware slot, the pending configuration block, the device certificate
chain (Table 17.1). -/
def areaLength (target : Nat) : Nat :=
  match target with
  | 0 => 0x2000000
  | 1 => 0x10000
  | _ => 0xC000

/-- The inactive firmware slot. -/
def inactive (f : Firmware) : Nat := 1 - f.active

/-! ### Downloads (R368) -/

/-- The runs of a download outside a new block. -/
def cutRuns (o n : Nat) (runs : List (Nat × List Byte)) : List (Nat × List Byte) :=
  (runs.map fun (a, bs) =>
    (if a < o then [(a, bs.take (o - a))] else []) ++
    (if o + n < a + bs.length then
      [(max a (o + n), bs.drop (o + n - a))] else [])).flatten.filter fun r => !r.2.isEmpty

/-- A block written into a download: it replaces what was written at the same offsets. -/
def addBlock (d : Download) (o : Nat) (data : List Byte) : Download :=
  let before : Nat × List Byte → Nat × List Byte → Bool := fun a b => decide (a.1 < b.1)
  { d with blocks := sortBy before ((o, data) :: cutRuns o data.length d.blocks) }

/-- Bytes that a download has written. -/
def writtenBytes (d : Download) : Nat := (d.blocks.map fun r => r.2.length).sum

/-- The bytes of a download from offset 0 without a gap. -/
def downloadRun (d : Download) : List Byte :=
  d.blocks.foldl (fun (acc : List Byte) r => if acc.length = r.1 then acc ++ r.2 else acc) []

/-- The open download of a target. -/
def openDownload (f : Firmware) (target : Nat) : Option Download := (f.downloads[target]?).join

/-- Set a target's open download. -/
def setDownload (f : Firmware) (target : Nat) (d : Option Download) : Firmware :=
  { f with downloads := setAt f.downloads target d }

/-- Discard a target's open download. -/
def discardDownload (f : Firmware) (target : Nat) : Firmware :=
  match openDownload f target with
  | some d => { setDownload f target none with discardedIds := f.discardedIds ++ [(target, d.id)] }
  | none => f

/-- The target area counts as invalid: the inactive slot is being downloaded, or no block is pending (R368). -/
def voidArea (f : Firmware) (target : Nat) : Firmware :=
  match target with
  | 0 => { f with slots := f.slots.zipIdx.map fun (x, i) => if i = inactive f then { state := 1 } else x }
  | 1 => { f with pendingCfg := none }
  | _ => f

/-- The download that a WRITE goes to: the open one, or a new one in its place. -/
def openFor (f : Firmware) (target id : Nat) : Firmware :=
  match openDownload f target with
  | some d => if d.id = id then f
      else voidArea (setDownload (discardDownload f target) target (some { id := id, blocks := [] })) target
  | none => voidArea (setDownload f target (some { id := id, blocks := [] })) target

/-! ### Images (R366, Table 17.2) -/

/-- Header fields out of range (Table 17.4 row 5; notes/assumptions/117.md). -/
def imageOutOfRange (h : List Byte) : Bool :=
  bfld h 3 0 != 1 || bfld h 95 64 < 8192 || 0x2000000 < bfld h 95 64 ||
  bfld h 195 192 == 0 || bfld h 95 64 < 256 + bfld h 255 224 + 96

/-- The image is bound elsewhere (Table 17.4 row 6). -/
def imageElsewhere (h : List Byte) : Bool :=
  bfld h 31 16 != 0x9140 || (bfld h 96 96 == 1 && bfld h 639 256 != Config.deviceCertDigest.toNat)

/-- Chain and signature hold (Table 17.4 row 7). -/
def imageSignatureOk (img : List Byte) : Bool :=
  let n := bfld (img.take 256) 95 64
  let c := bfld (img.take 256) 255 224
  match Config.chainLeaf (slice img 256 c) with
  | some key => Config.ecdsaOk key (img.take (n - 96)) (slice img (n - 96) 96)
  | none => false

/-- The header as a slot keeps it. -/
def imageKept (img : List Byte) : FwImage :=
  let h := img.take 256
  { version := bfld h 63 32, stateFmt := bfld h 111 104, acceptMin := bfld h 119 112,
    frameVer := bfld h 123 120, settings := bfld h 175 128, ucodes := bfld h 195 192, digest := sha384 img }

/-- Rows 5 to 7 of Table 17.4 for an image. -/
def imageRefusal (img : List Byte) : Option Status :=
  let h := img.take 256
  if img.length < 256 || imageOutOfRange h || img.length ≠ bfld h 95 64 then some .formatUnsupported
  else if imageElsewhere h then some .imageNotBound
  else if !imageSignatureOk img then some .signatureBad
  else none

/-! ### Configuration blocks (R329, R330, Table 15.4) -/

/-- Header fields or sections out of range. -/
def blockOutOfRange (b : List Byte) : Bool :=
  let h := b.take 128
  bfld h 3 0 != 1 || 65536 < bfld h 63 32 || 5 < bfld h 210 208 || 4 < bfld h 274 272 || 1024 < bfld h 303 288 ||
  bfld h 63 32 < 128 + 96 * bfld h 274 272 + 16 * bfld h 303 288 + bfld h 319 304 + 96

/-- The block is for other hardware, or bound to another unit (Table 17.4 row 6). -/
def blockElsewhere (h : List Byte) : Bool :=
  bfld h 31 16 != 0x9140 || (bfld h 128 128 == 1 && bfld h 703 320 != Config.deviceKeyDigest.toNat)

/-- Where a block's operator chain begins. -/
def blockChainAt (h : List Byte) : Nat := 128 + 96 * bfld h 274 272 + 16 * bfld h 303 288

/-- Chain and signature of a block (R330). -/
def blockSignatureOk (b : List Byte) : Bool :=
  let at' := blockChainAt (b.take 128)
  let c := bfld (b.take 128) 319 304
  match Config.chainLeaf (slice b at' c) with
  | some key => Config.ecdsaOk key (b.take (at' + c)) (slice b (at' + c) 96)
  | none => false

/-- A block as it acts, under a settings format tag (R329, R372). -/
def readBlock (b : List Byte) (tag : Nat) : ConfigBlock :=
  let h := b.take 128
  let keys := bfld h 274 272
  { bound := bfld h 128 128 == 1, policy := bfld h 129 129 == 1, debug := bfld h 130 130 == 1,
    configured := bfld h 131 131 == 1, part := bfld h 169 160, address := bfld h 191 176,
    domain := bfld h 207 192,
    keepers := (List.range (bfld h 210 208)).map fun k => bfld h (216 + 10 * k + 9) (216 + 10 * k),
    keys := (List.range keys).map fun k => slice b (128 + 96 * k) 96,
    settings := (List.range (bfld h 303 288)).map fun k =>
      let o := 128 + 96 * keys + 16 * k
      (BitVec.ofNat 64 (leAt b o 8), BitVec.ofNat 64 (leAt b (o + 8) 8)),
    seq := BitVec.ofNat 64 (bfld h 127 64), digest := sha384 (b.take (bfld h 63 32)), tag := tag }

/-- Rows 5 to 7 of Table 17.4 for a configuration block. -/
def blockRefusal (b : List Byte) : Option Status :=
  if b.length < 128 || blockOutOfRange b then some .formatUnsupported
  else if blockElsewhere (b.take 128) then some .imageNotBound
  else if !blockSignatureOk b then some .signatureBad
  else none

/-! ### Activation (R370) -/

/-- The inactive slot holds a verified image. -/
def verifiedImage (f : Firmware) : Option FwImage :=
  match f.slots[inactive f]? with
  | some x => if x.state = 2 then x.image else none
  | none => none

/-- Live compatibility of the inactive slot's image with the running one (R370). -/
def compatibleLive (s : State) : Bool :=
  match slotImage s.fwu s.fwu.active, verifiedImage s.fwu with
  | some run, some new =>
    new.frameVer == run.frameVer &&
    (if s.fbx.policy then new.stateFmt == run.stateFmt
     else decide (new.acceptMin ≤ run.stateFmt) && decide (run.stateFmt ≤ new.stateFmt))
  | _, _ => false

/-- A pending activation whose epoch has been applied acts (R370): the cold-reset slot is set, or the part begins to
quiesce, or a live switch that is not compatible is refused. -/
def actOnEpoch (s : State) : State :=
  match s.fwu.activation with
  | none => s
  | some a =>
    if s.rdg.map.epoch < a.epoch then s
    else if a.cold then
      s.onFwu fun f => { f with activation := none, coldSlot := some (inactive f) }
    else if s.fwu.attemptAt.isSome || s.fwu.retryAt.isSome then s
    else if compatibleLive s then beginAttempt s
    else s.onFwu fun f => { f with activation := none, refusedSeen := true }

/-- FW_BLOCK ACTIVATE descriptors that wait for their entry to commit (Table 17.4 row 10). -/
def activating (s : State) : List Origin :=
  (s.desc.filter fun d => dOpcode d.raw == opFwBlock && fwOp d.raw == 2 && d.phase == .running).map (·.origin)

/-- An activation entry commits (R370): a part whose inactive slot holds the image acts on it, unless it fell back
from that image since (R373). -/
def noteActivation (s : State) (digest : BitVec 384) (epoch : Nat) (cold : Bool) : State :=
  match verifiedImage s.fwu with
  | none => s
  | some i =>
    let fellBack := s.fwu.rejected.any fun r => r.1 == digest && decide (epoch ≤ r.2)
    if i.digest ≠ digest then s
    else
      let s := (activating s).foldl (fun s o => complete s o [] 0) s
      if fellBack then s
      else s.onFwu fun f => { f with activation := some { epoch := epoch, cold := cold } }

/-- A switch at the quiesce point (R371 to R374): blocks of another settings format return to their reset values,
the inactive slot becomes the active one, unconfirmed for 120 s under self-confirm (notes/assumptions/116.md). -/
def switchImage (s : State) : State :=
  let f := s.fwu
  let new := slotFormats f (inactive f)
  let tagged := match f.config with
    | some c => differingBlocks c.tag new
    | none => []
  let skipped := match f.config with
    | some c => (c.settings.filter fun p => p.1.toNat % 8 = 0 && settingsTarget p.1.toNat &&
        tagged.contains (blockOf p.1.toNat)).length
    | none => 0
  let blocks := dedup (differingBlocks (slotFormats f f.active) new ++ tagged)
  let s := settingsFormatReset s (slotFormats f f.active) new
  s.onFwu fun f =>
    { activateSlot f (inactive f) with
      settingsReset := (blocks.map (2 ^ ·)).sum, pairsSkipped := skipped,
      activation := none, attemptAt := none, retryAt := none,
      confirmed := !s.fbx.policy,
      confirmAt := if s.fbx.policy then some (s.localNs + ms 120000) else none,
      hostAtSwitch := if s.fbx.policy then some (s.host.modulesUp != 0, s.host.attached) else none }

end Sys2Proof.Machine
end

