-- ==== Sys2Proof/Machine/Memory.lean ====
section
/-!
DEFINITION. Memory as a canonical sparse list of (address, byte) cells: addresses strictly rising, no
cell equal to what an unlisted address reads as. An unlisted byte reads 0 (notes/assumptions/2.md).
-/

namespace Sys2Proof.Machine

/-- What an unlisted address reads as. -/
def memBlank : Byte := 0

/-- The canonical form. -/
def Memory.wf : List Host.Cell → Bool
  | [] => true
  | [(_, v)] => v != memBlank
  | (a, v) :: (b, w) :: m => v != memBlank && decide (a < b) && Memory.wf ((b, w) :: m)

/-- One byte. -/
def memRead : List Host.Cell → Nat → Byte
  | [], _ => memBlank
  | (k, v) :: m, a => if k = a then v else if a < k then memBlank else memRead m a

/-- One byte written; the blank value takes its cell away. -/
def memWrite : List Host.Cell → Nat → Byte → List Host.Cell
  | [], a, b => if b = memBlank then [] else [(a, b)]
  | (k, v) :: m, a, b =>
    if a < k then (if b = memBlank then (k, v) :: m else (a, b) :: (k, v) :: m)
    else if a = k then (if b = memBlank then m else (a, b) :: m)
    else (k, v) :: memWrite m a b

/-- n bytes from an address upward. -/
def memReadAll (m : List Host.Cell) (a : Nat) : Nat → List Byte
  | 0 => []
  | n + 1 => memRead m a :: memReadAll m (a + 1) n

/-- Bytes written from an address upward. -/
def memWriteAll (m : List Host.Cell) (a : Nat) : List Byte → List Host.Cell
  | [] => m
  | b :: bs => memWriteAll (memWrite m a b) (a + 1) bs

/-- Zeros written over n bytes from an address. -/
def memZero (m : List Host.Cell) (a n : Nat) : List Host.Cell :=
  m.filter fun c => !(decide (a ≤ c.1) && decide (c.1 < a + n))

end Sys2Proof.Machine
end

