-- ==== Sys2Proof/Machine/TierOps.lean ====
section
/-!
DEFINITION. The tiers as shared operations (chapter 6): page geometry (R202 to R207), hearth frames
(R208, R341), foothill and pool granules, room-making (R126, R127), placement of parked pages (R123 to
R125), buddy copies (R346).
-/

namespace Sys2Proof.Machine

/-! ### Page geometry of an image (R202, R207) -/

/-- P: bytes per position, layer and key head (notes/assumptions/3.md). -/
def Image.perPosition (i : Image) : Nat := if i.latent then i.headDim else 2 * i.headDim
/-- L: layers per KV page. -/
def Image.layersPerPage (i : Image) : Nat := 1024 / (i.perPosition * i.map.perGroup)
/-- N: KV pages per group per block. -/
def Image.kvPages (i : Image) : Nat := ceilDiv i.layers i.layersPerPage
/-- Pages per group per block, summaries included. -/
def Image.groupPages (i : Image) : Nat := i.kvPages + ceilDiv i.kvPages 8
/-- S: pages per block on the stage. -/
def Image.blockPages (i : Image) : Nat := i.map.groups * i.groupPages
/-- A: attention state pages. -/
def Image.statePages (i : Image) : Nat := ceilDiv i.layers 16

/-- The image in a slot. -/
def State.image (s : State) (slot : Nat) : Image := (lookupBy (·.slot) slot s.img.slots).getD { slot := slot }

/-- Image slot of an image handle (R189). -/
def iSlot (h : Word) : Nat := fld h 53 51

/-- The image a handle names: part, slot and load count agree and the image is ready (R189, R194). -/
def imageOf (s : State) (h : Word) : Option Image :=
  let i := s.image (iSlot h)
  if hPart h = s.rdg.part && fld h 50 32 = 0 && fld h 31 0 = i.loads && i.state = .ready then some i
  else none

/-- The image of a session. -/
def sessionImage (s : State) (x : Session) : Image := s.image (iSlot x.image)

/-- The page of the session record and grammar state, the first of those from 0xFF_0000 on (R117). -/
def recordPage : Nat := 0xFF0000

/-- The session address of a byte (R117). -/
def sessionAddress (slot page off : Nat) : Nat := put 59 40 slot + put 39 16 page + put 15 0 off

/-- The pages of a session from 0xFF_0000 on with their kinds of Table 6.6 (R117): the record with the grammar state, the
page table, the token log, in this order (notes/assumptions/30.md). -/
def recordPages (h : Word) (wseq : Nat) : List (Nat × Nat) :=
  let t := min 32767 (Config.tablePages h wseq)
  let l := min 32768 (Config.logPages h wseq)
  (recordPage, 2) :: (((upFrom (recordPage + 1) t).map fun p => (p, 4)) ++
    (upFrom (recordPage + 1 + t) l).map fun p => (p, 3))

/-- The 64 KiB of one of these pages, a free value. -/
def recordBytes64 (h : Word) (page wseq : Nat) : List Byte :=
  (Config.recordContent h page wseq ++ List.replicate 65536 0).take 65536

/-- The block of a KV or summary page; none for any other page (R207). -/
def blockOfPage (i : Image) (page : Nat) : Option Nat :=
  if 0xFE0000 ≤ page || page < i.statePages || i.blockPages = 0 then none
  else some ((page - i.statePages) / i.blockPages)

/-- Kind of a page in its coded header: 0 KV, 1 summary, attention state and tuning, 2 the record (R207). -/
def pageKind (i : Image) (page : Nat) : Nat :=
  if 0xFF0000 ≤ page then 2
  else match blockOfPage i page with
    | none => 1
    | some _ => if (page - i.statePages) % i.blockPages % i.groupPages < i.kvPages then 0 else 1

/-- Pages of one block (R207). -/
def pagesOfBlock (i : Image) (k : Nat) : List Nat := upFrom (i.statePages + k * i.blockPages) i.blockPages

/-- The class A slots of a layer in use. -/
def usedSlots (l : Layer) : List Nat := l.slots.map (·.1)

/-- Blocks that hold committed positions of a session of committed positions w: in class B the blocks of
positions 0 to w - 1; in class A the slot blocks with a used slot (R199, R204). -/
def liveBlocks (i : Image) (x : Session) : List Nat :=
  if i.latent then List.range (ceilDiv (x.log.length - 1) 64)
  else dedup ((x.layers.map fun l => (usedSlots l).map (· / 64)).flatten)

/-- A page of a session holds only dead entries (R200). -/
def deadPage (i : Image) (x : Session) (page : Nat) : Bool :=
  match blockOfPage i page with
  | none => false
  | some k => !(liveBlocks i x).contains k

/-! ### Hearth frames -/

/-- Frames of a bank that loaded images take (R191). -/
def imageFrames (s : State) : Nat :=
  ((s.img.slots.filter fun i => i.state != .empty).map (·.framesPerBank)).sum

/-- Banks that take no new frame: not in service. -/
def banksOut (s : State) : Nat := (s.hrt.embers.filter fun e => e.state != .inService).length

/-- Banks out of the part's capacity: retired, or failed at start-up (Table 7.9 step 5, R12). -/
def banksRetired (s : State) : Nat :=
  (s.hrt.embers.filter fun e => e.state == .retired || e.state == .failed).length

/-- Hearth frames an index holds: graph, scree and hot cells (R264). -/
def indexFrames (x : Index) : Nat :=
  ceilDiv (192 * x.cells.length) 65536 + blocksFor x.width x.scree.length +
  ((x.cells.filter (·.hot)).map fun c => blocksFor x.width c.records.length).sum

/-- Hearth frames of all indexes. -/
def searchFrames (s : State) : Nat :=
  ((s.srch.indexes.filter fun x => x.live && !x.lost).map indexFrames).sum

/-- Hearth frames the images' variant and draft stores hold. -/
def storeFrames (s : State) : Nat :=
  ((s.img.slots.filter fun i => i.state != .empty).map (·.storeFrames)).sum

/-- Hearth frames lent out as extents of 64 MiB (R298). -/
def lentFrames (s : State) : Nat := 1024 * (s.rdg.lent.filter (·.tier == 0)).length

/-- Hearth frames that regions reserve for sealed copies and directories (R307). -/
def regionSpare (s : State) : Nat := (s.rdg.regions.map (·.spare)).sum

/-- Granules that regions take of the home foothill tier (R307). -/
def regionGranules (s : State) : Nat :=
  (s.rdg.regions.map fun r => 128 * (r.pages.filter (· == .foothill)).length + r.spareGranules).sum

/-- Banks of a die in service. -/
def banksIn (s : State) (die : Nat) : Nat := ((upFrom (128 * die) 128).filter (bankServes s)).length

/-- Frames that hold the weight rows of banks out of service, in the other banks of their dies (R169, R191). -/
def spreadRoom (s : State) : Nat :=
  ((s.img.slots.filter fun i => i.state != .empty).flatMap fun i =>
    i.extraFrames.map fun x => banksIn s x.1 * x.2.length).sum

/-- The room left after loads and after the lines of the line cache, in frames (R308, Tables 6.1, 6.14). -/
def hearthRoom (s : State) : Nat :=
  (3072 - banksOut s) * (512 - imageFrames s) - spreadRoom s - ceilDiv s.rdg.lines.length 256 -
  storeFrames s - searchFrames s - lentFrames s - regionSpare s

/-- Frames in use; frames that await a clear count apart (R130). -/
def framesUsed (s : State) : Nat := (s.tie.frames.filter fun f => !f.clearing).length

/-- The tag of a frame, if it has one. -/
def State.frame (s : State) (n : Nat) : Option Frame := lookupBy (·.number) n s.tie.frames

/-- A frame a tenant may take at once: one that is free, or one of its own that awaits its clear (R341). -/
def freeFor (s : State) (tenant n : Nat) : Bool :=
  match s.frame n with
  | none => true
  | some f => f.clearing && f.tenant == tenant

/-- A frame that is free now or once its clear has ended (R130). -/
def freeAfterClear (s : State) (n : Nat) : Bool :=
  match s.frame n with
  | none => true
  | some f => f.clearing

/-- A frame of a bank holds weights of a loaded image (R169, R191). -/
def weightFrame (s : State) (e k : Nat) : Bool :=
  s.img.slots.any fun i => i.state != .empty && (i.weightFrames.contains k ||
    i.extraFrames.any fun x => x.1 == e / 128 && x.2.contains k)

/-- Session frames of a bank: those that hold no weights, from the top (notes/assumptions/27.md). -/
def bankFrames (s : State) (e : Nat) : List Nat :=
  ((upFrom (512 * e) 512).filter fun n => !weightFrame s e (n - 512 * e)).reverse

/-- Tenant frames of a bank in the order they are taken: free ones, then those that wait for a clear. -/
def frameChoices (s : State) (tenant e : Nat) : List Nat :=
  let all := bankFrames s e
  all.filter (freeFor s tenant) ++ all.filter fun n => !freeFor s tenant n && freeAfterClear s n

/-- Dies of a die mask, in die order (R208). -/
def maskDies (mask : Nat) : List Nat := (List.range 24).filter fun d => mask.testBit d

/-- The bank of a die with the most frames of a count, the lowest of equals, among those in service. -/
def bestBank (s : State) (die : Nat) (count : Nat → Nat) : Option Nat :=
  ((upFrom (128 * die) 128).filter (bankServes s)).foldl (fun best e =>
    match best with
    | none => some e
    | some b => if count b < count e then some e else best) none

/-- The bank for block k of group g of the session in a slot, with need frames for it (R208): the one with
the most free frames; where that lacks them, the one with the most once clears have ended. -/
def bankFor (s : State) (i : Image) (slot k g tenant need : Nat) : Option Nat :=
  let dies := maskDies ((i.map.dieMasks[g]?).getD 0)
  match dies[(k + slot) % max 1 dies.length]? with
  | none => none
  | some die =>
    let now := fun e => ((bankFrames s e).filter (freeFor s tenant)).length
    let later := fun e => ((bankFrames s e).filter (freeAfterClear s)).length
    match bestBank s die now with
    | none => none
    | some b =>
      if need ≤ now b then some b
      else (bestBank s die later).bind fun b => if need ≤ later b then some b else none

/-- Take a frame for a tenant. One that awaits the clear of another owner is taken only in thought: the command waits
(`awaitClears`). -/
def takeFrame (s : State) (tenant n : Nat) : State :=
  s.onTie fun t => { t with frames := upsert (·.number) { number := n, tenant := tenant } t.frames }

/-- Free a frame: it waits on its old owner's uncleared list (R341). -/
def freeFrame (s : State) (n : Nat) : State :=
  s.onTie fun t =>
    { t with frames := t.frames.map fun f => if f.number = n then { f with clearing := true } else f }

/-- The 64 KiB of a frame: rows 32·i to 32·i + 31 of its bank. -/
def frameContent (s : State) (n : Nat) : List Byte := memReadAll s.hrt.mem (65536 * n) 65536

/-- A frame's content replaced. -/
def writeFrame (s : State) (n : Nat) (bytes : List Byte) : State :=
  s.onHrt fun h => { h with mem := memWriteAll (memZero h.mem (65536 * n) 65536) (65536 * n) bytes }

/-- Frames taken for pages of one block and one group, from one bank (R208). -/
def placeGroup (s : State) (i : Image) (x : Session) (k g : Nat) (pages : List Nat) :
    Option (State × List (Nat × Nat)) :=
  match bankFor s i x.slot k g x.tenant pages.length with
  | none => none
  | some e =>
    let ns := (frameChoices s x.tenant e).take pages.length
    some (ns.foldl (fun s n => takeFrame s x.tenant n) s, pages.zip ns)

/-- The group of a page of a block; 0 for any other page. -/
def groupOfPage (i : Image) (page : Nat) : Nat :=
  match blockOfPage i page with
  | none => 0
  | some _ => (page - i.statePages) % i.blockPages / max 1 i.groupPages

/-- Pages sorted into runs of one block and group; every other page is a run of its own. -/
def pageRuns (i : Image) (pages : List Nat) : List (Nat × Nat × List Nat) :=
  pages.foldl (fun runs p =>
    match blockOfPage i p with
    | none => runs ++ [(p, 0, [p])]
    | some k =>
      let g := groupOfPage i p
      if runs.any fun r => r.1 == k && r.2.1 == g && (r.2.2.any fun q => (blockOfPage i q).isSome) then
        runs.map fun r =>
          if r.1 == k && r.2.1 == g && (r.2.2.any fun q => (blockOfPage i q).isSome)
          then (r.1, r.2.1, r.2.2 ++ [p]) else r
      else runs ++ [(k, g, [p])]) []

/-- Frames for all pages named, or none where some bank lacks room. -/
def placePages (s : State) (i : Image) (x : Session) (pages : List Nat) :
    Option (State × List (Nat × Nat)) :=
  (pageRuns i pages).foldl (fun acc (k, g, ps) =>
    match acc with
    | none => none
    | some (s, done) =>
      match placeGroup s i x k g ps with
      | none => none
      | some (s', more) => some (s', done ++ more)) (some (s, []))

/-- gen_reserve_pages (Table 6.12). -/
def genReserve (s : State) : Nat := fld s.tie.placeCtl 47 32

/-- Pages of RESIDENT sessions that move here, which room is kept for until their hand-over (R111). -/
def arrivingFrames (s : State) : Nat := (s.rdg.arriving.filter fun a => !a.parked).length

/-- Room for a number of frames: outside the reserve, or with it for a step of a generation (R127). -/
def hearthFits (s : State) (need : Nat) (reserve : Bool) : Bool :=
  decide (framesUsed s + arrivingFrames s + need + (if reserve then 0 else genReserve s) ≤ hearthRoom s)

/-! ### Foothill and pool granules -/

/-- Granules of the foothill tier, retired ones taken out (R12, R341). -/
def foothillTotal (s : State) : Nat :=
  3221225472 - 33554432 * (s.pwr.links.filter fun l => l.retired && l.link < 96).length - s.tie.retiredGranules

/-- Granules reserved at start-up for a replica of the map: 1 GiB (R292). -/
def replicaGranules : Nat := 2097152

/-- Granules that loads reserve: the map's replica, backing copies, indexes, foothill extents lent. -/
def foothillLoads (s : State) : Nat :=
  replicaGranules +
  ((s.img.slots.filter fun i => i.state != .empty).map copyGranules).sum +
  ((s.srch.indexes.filter fun x => x.live && !x.lost).map indexGranules).sum +
  131072 * (s.rdg.lent.filter (·.tier == 1)).length + regionGranules s

/-- Granules of sessions, of pages of PARKED sessions that move here, and of buddy copies in use. -/
def foothillHeld (s : State) : Nat :=
  (s.ses.table.map fun x => ((x.pages ++ x.parkPlaced).map pageFoothill).sum).sum +
  ((s.rdg.arriving.filter (·.parked)).map fun a => ceilDiv a.data.length 512).sum +
  (s.rdg.copies.map fun c => ceilDiv c.data.length 512).sum

/-- Granules that await their clear. -/
def foothillPending (s : State) : Nat :=
  ((s.tie.uncleared.filter fun u => u.extent.isNone).map (·.granules)).sum

/-- Room for granules of one tenant: its own uncleared granules count as free, and other tenants' once
cleared, a wait that is no refusal (R130). -/
def foothillFits (s : State) (g : Nat) : Bool :=
  decide (foothillHeld s + g + foothillLoads s ≤ foothillTotal s)

/-- Foothill fill in percent of the room left after loads, with more granules (Table 6.14). -/
def foothillPct (s : State) (more : Nat) : Nat :=
  100 * (foothillHeld s + foothillPending s + more) / max 1 (foothillTotal s - foothillLoads s)

/-- Stored granules of a page. -/
def pageGranules (p : Page) : Nat :=
  match p.place with
  | .foothill g _ => g
  | .pool _ _ g _ => g
  | _ => 0

/-- The granules of an extent that a page holds, and those its copy under way is to hold (R121). -/
def pageRanges (e : Word) (p : Page) : List (Nat × Nat) :=
  (match p.place with
    | .pool e' first n _ => if e' = e then [(first, n)] else []
    | _ => []) ++
  match p.target with
  | some (.pool e' first) => if e' = e then [(first, pageGranules p)] else []
  | _ => []

/-- Granule ranges of a borrowed extent in use by this part's pages. -/
def extentRanges (s : State) (e : Word) : List (Nat × Nat) :=
  s.ses.table.flatMap fun x => (x.pages ++ x.parkPlaced).flatMap (pageRanges e)

/-- The first granule from which n granules of an extent are free, 131,072 to an extent (Table 6.3). -/
def findGap (used : List (Nat × Nat)) (n : Nat) : Option Nat :=
  (sortBy (fun a b => decide (a < b)) (0 :: used.map fun u => u.1 + u.2)).find? fun c =>
    c + n ≤ 131072 && used.all fun u => c + n ≤ u.1 || u.1 + u.2 ≤ c

/-- Borrowed extents that take pages of a session: granted, not closing, never the twin's for classes 2
and 3 (R125, R299). -/
def usableExtents (s : State) (x : Session) : List Borrowed :=
  s.rdg.borrowed.filter fun b => b.granted && !b.closing &&
    !(s.rdg.regions.any fun r => r.extents.contains b.handle) &&
    !(2 ≤ x.durability && s.twin == some b.lender)

/-- Free granules of a lender's extents. -/
def lenderFree (s : State) (x : Session) (lender : Nat) : Nat :=
  (((usableExtents s x).filter (·.lender == lender)).map fun b =>
    131072 - ((extentRanges s b.handle).map (·.2)).sum).sum

/-- One lender comes before another: fewest switch hops, then most free granules, then lowest part number (R124; the hops
are a free value, notes/assumptions/28.md). -/
def lenderBefore (s : State) (x : Session) (a b : Nat) : Bool :=
  let near := Config.hops s.rdg.part
  decide (near a < near b) || (near a == near b &&
    (decide (lenderFree s x b < lenderFree s x a) || (lenderFree s x a == lenderFree s x b && decide (a < b))))

/-- Lenders in the order placement takes them: those of a plan in its order; else those of the advisor (R123, R124). -/
def lenderOrder (s : State) (x : Session) (planned : Option (List Nat)) : List Nat :=
  match planned with
  | some ls => ls
  | none => sortBy (lenderBefore s x) (dedup ((usableExtents s x).map (·.lender)))

/-- Places in the pool for pages of given granules, each in the first extent of the order with a gap;
none where some page finds none. -/
def poolPlaces (s : State) (extents : List Word) (sizes : List Nat) : Option (List (Word × Nat)) :=
  (sizes.foldl (fun (acc : Option (List (Word × Nat) × List (Word × List (Nat × Nat)))) n =>
    match acc with
    | none => none
    | some (done, used) =>
      match used.findSome? fun (e, r) => (findGap r n).map fun g => (e, g) with
      | none => none
      | some (e, g) =>
        some (done ++ [(e, g)], used.map fun (e', r) => if e' = e then (e', (g, n) :: r) else (e', r)))
    (some ([], extents.map fun e => (e, extentRanges s e)))).map (·.1)

/-- The extents of a session's lenders in placement order. -/
def orderedExtents (s : State) (x : Session) (planned : Option (List Nat)) : List Word :=
  ((lenderOrder s x planned).map fun l =>
    ((usableExtents s x).filter (·.lender == l)).map (·.handle)).flatten

/-! ### Buddy copies and the twin (R346 to R349) -/

/-- The twin is in service (Table 13.16). -/
def twinServes (s : State) : Bool := s.rdg.twinState = 2 && s.twin.isSome

/-- The map holds both proposals of a pair, and both its parts up (R315). -/
def pairedWith (s : State) (p t : Nat) : Bool :=
  match s.mapPart p, s.mapPart t with
  | some a, some b => a.twin == some t && b.twin == some p && a.state == 1 && b.state == 1
  | _, _ => false

/-- A part that holds a stage has a twin in service (R347): this part by its own record, another by the map. -/
def stageTwinServes (s : State) (p : Nat) : Bool :=
  if p = s.rdg.part then twinServes s
  else match s.mapPart p with
    | some e => e.twin.any fun t => pairedWith s p t
    | none => false

/-- The part stands by: standby is set, it does not run as the part it stands for yet, and it holds no session,
index, region or lent extent (R353, Table 16.7). -/
def standsBy (s : State) : Bool :=
  bit s.crn.standbyCtl 0 && fld s.crn.standbyCtl 25 16 != s.rdg.part &&
  !(s.ses.table.any fun x => x.state != .free && x.state != .lost) &&
  !(s.srch.indexes.any fun x => x.live && !x.lost) && s.rdg.regions.isEmpty && s.rdg.lent.isEmpty

/-- The part a standby stands for (Table 16.7). -/
def standFor (s : State) : Nat := fld s.crn.standbyCtl 25 16

/-- Send the twin a request frame by the path of R316. -/
def askTwin (s : State) (cls : Nat) (r : Request) (tenant : Nat) (object : Word) : State :=
  match s.twin with
  | some t => if twinServes s then (sendRequest s t cls r tenant object 0 true).1 else s
  | none => s

/-- The resting state in a slot entry: 0 FREE, 1 RESIDENT, 2 PARKED, 3 SUSPENDED, 4 MOVED, 5 LOST
(notes/assumptions/29.md). -/
def Resting.num : Resting → Nat
  | .free => 0 | .resident => 1 | .parked => 2 | .suspended => 3 | .moved => 4 | .lost => 5
  | .restoring => 5

/-- The slot entry goes to the twin at OPEN and at every change of state (R348). -/
def sendSlotEntry (s : State) (slot : Nat) : State :=
  match s.session slot with
  | none => s
  | some x => askTwin s x.cls (.slotEntry slot x.gen x.state.num x.durability) x.tenant (sessionHandle s x)

/-- One buddy copy of a page, or of the record and log, goes to the twin with its pair (R140, R346; notes/assumptions/69.md). -/
def sendBuddy (s : State) (x : Session) (page epoch wseq : Nat) (data : List Byte) : State :=
  match s.twin with
  | some t =>
    sendFrame s t 8 x.cls (.page (.buddy (sessionHandle s x) epoch wseq) page data) x.tenant 0 (sessionHandle s x)
      0 .ok true
  | none => s

/-- At a commit of a class 1 to 3 session with the twin in service, the record and the log entries go to
the twin, and the session's next commit waits for the acknowledgement (R346). -/
def sendRecordCopy (s : State) (slot : Nat) : State :=
  match s.session slot with
  | none => s
  | some x =>
    if x.durability = 0 || !twinServes s then s
    else (sendBuddy s x recordPage x.epoch x.wseq (recordBytes64 (sessionHandle s x) recordPage x.wseq)).onSession slot
      fun x => { x with acks := x.acks + 1 }

/-- A class 1 to 3 session whose next commit still waits for the twin (R346). -/
def waitsForTwin (s : State) (x : Session) : Bool := x.durability != 0 && twinServes s && x.acks != 0

/-! ### Parking (R123 to R125, R135, R346) -/

/-- Pool extents written: each coded page goes to its lender, encrypted granule by granule with the tweak of
R334. -/
def pageTweak (slot page granule : Nat) : Nat := (slot <<< 24 + page) * 256 + granule

/-- The encrypted granules of a coded page. -/
def encryptPage (key slot page : Nat) (coded : List Byte) : List Byte :=
  ((chunks 512 130 coded).zipIdx.map fun (g, i) =>
    Config.xtsEncrypt (Config.trng key) (pageTweak slot page i) g).flatten

/-- pool_read_credits as it acts (Table 6.12). -/
def poolCredits (s : State) : Nat := clamp 1 64 (fld s.tie.placeCtl 55 48)

/-- A request that moves a coded page between this part and a lender. -/
def movesPage : Request → Bool
  | .extentRead _ _ _ | .extentWrite _ _ _ => true
  | _ => false

/-- Coded pages outstanding with a lender (R137). -/
def poolOut (s : State) (lender : Nat) : Nat :=
  (s.rdg.asked.filter fun a => a.part == lender && movesPage a.request).length

/-- A page's pool read or write: sent while the lender has a credit left, else it waits behind the earlier ones
(R137). -/
def poolAsk (s : State) (w : PoolWait) : State :=
  if poolOut s w.lender < poolCredits s && !(s.tie.poolQueue.any fun v => v.lender == w.lender) then
    (sendRequest s w.lender w.cls w.request w.tenant w.extent).1
  else s.onTie fun t => { t with poolQueue := t.poolQueue ++ [w] }

/-- Credits have come back: transfers that waited go out in order (R137). -/
def pumpPool (s : State) : State :=
  s.tie.poolQueue.foldl poolAsk (s.onTie fun t => { t with poolQueue := [] })

/-- A page transfer of a session with the lender of an extent. -/
def askLender (s : State) (x : Session) (e : Word) (r : Request) : State :=
  match s.rdg.borrowed.find? fun b => b.handle == e with
  | some b => poolAsk s { lender := b.lender, cls := x.cls, request := r, tenant := x.tenant, extent := e }
  | none => s

/-- Write a coded page to granules of a borrowed extent (notes/assumptions/93.md). -/
def writePool (s : State) (x : Session) (page : Nat) (e : Word) (first : Nat) (coded : List Byte) : State :=
  askLender s x e (.extentWrite e first (encryptPage x.pageKey x.slot page coded))

/-- Read a page's granules from its lender. -/
def readPool (s : State) (x : Session) (p : Page) : State :=
  match p.place with
  | .pool e first n _ => askLender s x e (.extentRead e first n)
  | _ => s

/-- The bytes of a coded page as they lie in the foothill packages: encrypted granule by granule under the session's key
(R131, R334). -/
def foothillBytes (x : Session) (p : Page) : List Byte :=
  match p.place with
  | .foothill _ c => encryptPage x.pageKey x.slot p.index c
  | _ => []

/-- A page coded for storage: a page in hearth from its frame, a coded page as it is (R135). -/
def codedOf (s : State) (i : Image) (narrow : Bool) (p : Page) : List Byte :=
  match p.place with
  | .hearth f =>
    let kind := pageKind i p.index
    codePage kind p.epoch p.wseq (narrow && kind == 0) (frameContent s f)
  | .foothill _ c => c
  | .pool _ _ _ c => c
  | .lost _ => []

/-- A page's pair as placed. -/
def placedAt (p : Page) (pl : PagePlace) : Page := { p with place := pl, dirty := false, target := none }

/-- The plan of a session's image for its class, where it acts: an image for more than eight parts carries none, and
plan_override sets it aside (R123). -/
def planFor (s : State) (x : Session) : Option (Nat × List Nat × Bool) :=
  let i := sessionImage s x
  if bit s.tie.placeCtl 1 || 8 < i.stages then none else some (Config.plan i.id x.cls)

/-- Place coded pages in the pool. -/
def placeInPool (s : State) (x : Session) (pages : List (Page × List Byte)) (planned : Option (List Nat)) :
    Option (State × List Page) :=
  match poolPlaces s (orderedExtents s x planned) (pages.map fun p => granulesOf p.2) with
  | none => none
  | some places =>
    let all := pages.zip places
    some (all.foldl (fun s ((p, c), (e, g)) => writePool s x p.index e g c) s,
      all.map fun ((p, c), (e, g)) => placedAt p (.pool e g (granulesOf c) c))

/-- Place coded pages in the home foothill tier. -/
def placeInFoothill (s : State) (pages : List (Page × List Byte)) : Option (State × List Page) :=
  if foothillFits s ((pages.map fun p => granulesOf p.2).sum) then
    some (s, pages.map fun (p, c) => placedAt p (.foothill (granulesOf c) c))
  else none

/-- A session with an activity running. -/
def isActive (x : Session) : Bool :=
  x.prefill.isSome || x.gener.isSome || x.move.isSome || x.parkWaits.isSome

/-- Where a session's record, grammar state and page table lie (Table 6.2). -/
inductive RecordTier where
  | crest | hearth | foothill
  deriving DecidableEq, Repr

/-- R118: in crest while an activity runs and crest has room, otherwise in the hearth tier; with no activity in the tier of
the session's resting state. Their bytes are not taken out of the frames of the hearth tier (notes/assumptions/30.md). -/
def recordTier (s : State) (x : Session) : RecordTier :=
  if isActive x then
    (if fld s.tie.crestCtl 5 0 != 0 && Config.crestRoom (sessionHandle s x) x.wseq then .crest else .hearth)
  else if x.state = .parked then .foothill
  else .hearth

/-! ### Migration (R121, R128, R129) -/

/-- Background migration may move pages of a session: bg_migrate, and the plan where it acts (R123, R128). -/
def mayMigrate (s : State) (x : Session) : Bool :=
  bit s.tie.placeCtl 2 &&
  match planFor s x with
  | some (_, _, d) => d
  | none => true

/-- A page that demotion moves: one in the home foothill tier that may lie in the pool (Tables 6.2, 6.4). -/
def demotes (p : Page) : Bool :=
  p.index < 0xFF0000 && match p.place with
    | .foothill _ _ => true
    | _ => false

/-- A page that promotion moves. -/
def promotes (p : Page) : Bool :=
  match p.place with
  | .pool _ _ _ _ => true
  | _ => false

/-- Parked sessions that demotion may move, the one parked longest ago first (R128). -/
def demotable (s : State) : List Session :=
  sortBy (fun (a b : Session) => decide (a.parkedAt < b.parkedAt))
    (s.ses.table.filter fun x => x.state = .parked && !isActive x && bit x.tclass 2 && mayMigrate s x &&
      x.pages.any demotes && !(x.pages.any fun p => p.target.isSome))

/-- Where a session's pages that demote would lie in the pool, in page order. -/
def demotionPlaces (s : State) (x : Session) : Option (List (Word × Nat)) :=
  poolPlaces s (orderedExtents s x ((planFor s x).map (·.2.1)))
    ((x.pages.filter demotes).map pageGranules)

/-- Replace one page of a session. -/
def setPage (s : State) (slot : Nat) (p : Page) : State :=
  s.onSession slot fun x => { x with pages := x.pages.map fun q => if q.index = p.index then p else q }

/-- A page's copy begins: its stored bytes go to the target unchanged, and the source stays authoritative (R121). -/
def startCopy (s : State) (x : Session) (p : Page) (t : PageTarget) : State :=
  let s := match t, storedOf p with
    | .pool e f, some c => writePool s x p.index e f c
    | _, _ => s
  setPage s x.slot { p with target := some t }
where
  /-- The coded bytes of a page in store. -/
  storedOf (p : Page) : Option (List Byte) :=
    match p.place with
    | .foothill _ c => some c
    | .pool _ _ _ c => some c
    | _ => none

/-- A copy has come to its target: the extent is still granted and not closing, or the home tier has room (R121). -/
def targetStands (s : State) (p : Page) : PageTarget → Bool
  | .home => foothillFits s (pageGranules p)
  | .pool e _ => s.rdg.borrowed.any fun b => b.handle == e && b.granted && !b.closing

/-- The page descriptor is switched to its target in one update: stored bytes unchanged, the source's granules freed
(R121, R128); none where the target does not stand. -/
def switchPage (s : State) (x : Session) (p : Page) (t : PageTarget) : Option State :=
  if !targetStands s p t then none
  else match p.place, t with
    | .foothill g c, .pool e f =>
      some (freeGranules (setPage s x.slot { p with place := .pool e f g c, target := none }) x.tenant g)
    | .pool _ _ g c, .pool e f => some (setPage s x.slot { p with place := .pool e f g c, target := none })
    | .pool _ _ g c, .home => some (setPage s x.slot { p with place := .foothill g c, target := none })
    | _, _ => none

/-- A whole session demoted at once, to make room for a PARK (Table 6.5). -/
def demoteNow (s : State) (x : Session) : State :=
  match demotionPlaces s x with
  | none => s
  | some places =>
    ((x.pages.filter demotes).zip places).foldl (fun s (p, e, f) =>
      let s := startCopy s x p (.pool e f)
      (switchPage s x p (.pool e f)).getD s) s

/-- Sessions demoted until a number of granules fits (Table 6.5). -/
def demoteFor (s : State) (g : Nat) : State :=
  (demotable s).foldl (fun s x => if foothillFits s g then s else demoteNow s x) s

/-- A copy to a lender that has not begun, since it waits for a credit (R137). -/
def copyWaits (s : State) : PageTarget → Bool
  | .home => false
  | .pool e f => s.tie.poolQueue.any fun w => match w.request with
    | .extentWrite e' f' _ => e' == e && f' == f
    | _ => false

/-- The migration of one page is stopped: one in copy finishes and switches, one whose copy has not begun stays (R122). -/
def stopPage (s : State) (slot : Nat) (p : Page) : State :=
  match p.target, s.session slot with
  | some t, some x =>
    let stay := setPage s slot { p with target := none }
    if copyWaits s t then
      stay.onTie fun q => { q with poolQueue := q.poolQueue.filter fun w => match w.request, t with
        | .extentWrite e' f' _, .pool e f => !(e' == e && f' == f)
        | _, _ => true }
    else (switchPage s x p t).getD stay
  | _, _ => s

/-- A descriptor that starts on a session stops its background migration: pages in copy finish and switch first
(R122). -/
def stopMigration (s : State) (slot : Nat) : State :=
  match s.session slot with
  | none => s
  | some x => (x.pages.filter fun p => p.target.isSome).foldl (fun s p => stopPage s slot p) s

/-- The state and the session that a descriptor that starts on a session finds, once its migration has stopped (R122). -/
def beginOn (s : State) (x : Session) : State × Session :=
  let s := stopMigration s x.slot
  (s, (s.session x.slot).getD x)

/-- The home tier at most at foothill_high with more granules (R124). -/
def belowHigh (s : State) (g : Nat) : Bool := decide (foothillPct s g ≤ fld s.tie.placeCtl 23 16)

/-- Pages in the pool, where the class may lie there (Table 6.2), the record's pages in the foothill tier (R118). -/
def placePool (s : State) (x : Session) (pages : List (Page × List Byte)) (planned : Option (List Nat)) :
    Option (State × List Page) :=
  if !bit x.tclass 2 then none
  else match placeInPool s x (pages.filter fun p => p.1.index < 0xFF0000) planned with
    | none => none
    | some (s', a) =>
      (placeInFoothill s' (pages.filter fun p => 0xFF0000 ≤ p.1.index)).map fun (s'', b) => (s'', a ++ b)

/-- Pages in the home foothill tier, with the demotion of other sessions where it is full (Table 6.5)
(notes/assumptions/154.md). -/
def placeHome (s : State) (pages : List (Page × List Byte)) : Option (State × List Page) :=
  match placeInFoothill s pages with
  | some r => some r
  | none => placeInFoothill (demoteFor s (pages.map fun p => granulesOf p.2).sum) pages

/-- The choice of tier for a parked session's pages: `target` 0 placement decides, 1 home foothill, 2 pool
(R118, R123, R124, Table 5.9). -/
def placeParked (s : State) (x : Session) (target : Nat) (pages : List (Page × List Byte)) :
    Option (State × List Page) :=
  let g := (pages.map fun p => granulesOf p.2).sum
  match target with
  | 1 => placeHome s pages
  | 2 => placePool s x pages ((planFor s x).map (·.2.1))
  | _ =>
    match planFor s x with
    | some (2, lenders, _) => placePool s x pages (some lenders)
    | some _ => placeHome s pages
    | none =>
      if belowHigh s g && foothillFits s g then placeInFoothill s pages
      else match placePool s x pages none with
        | some r => some r
        | none => placeHome s pages

/-- The coded pages of a session from 0xFF_0000 on, coded losslessly (R135). -/
def codedRecords (s : State) (x : Session) : List (Page × List Byte) :=
  let h := sessionHandle s x
  (recordPages h x.wseq).map fun (n, k) =>
    ({ index := n, kind := k, place := .lost .ok, epoch := x.epoch, wseq := x.wseq },
      codePage k x.epoch x.wseq false (recordBytes64 h n x.wseq))

/-- Pages a park codes: every page but those that hold only dead entries, and the record's (R200); of a share, which has
no record, only its pages. -/
def parkPages (s : State) (x : Session) (narrow : Bool) : List (Page × List Byte) :=
  let i := sessionImage s x
  ((x.pages.filter fun p => !deadPage i x p.index).map fun p => (p, codedOf s i narrow p)) ++
  (if x.guest.isSome then [] else codedRecords s x)

/-- Free the hearth frames of pages. -/
def freeFrames (s : State) (pages : List Page) : State :=
  pages.foldl (fun s p => match p.place with
    | .hearth f => freeFrame s f
    | _ => s) s

/-- Bytes that the grates coded count towards ratio_milli: the uncoded and the coded size of each page that
lay in hearth (Table 6.15). -/
def countCoded (s : State) (x : Session) (pages : List (Page × List Byte)) : State :=
  let mine := pages.filter fun p => x.pages.any fun q => q.index == p.1.index && match q.place with
    | .hearth _ => true
    | _ => false
  s.onTie fun t =>
    { t with codedBytes := t.codedBytes.add s.localNs ((mine.map fun p => p.2.length).sum),
             plainBytes := t.plainBytes.add s.localNs (65536 * mine.length) }

/-- The coded bytes of a page in store. -/
def storedBytes (p : Page) : Option (List Byte) :=
  match p.place with
  | .foothill _ c => some c
  | .pool _ _ _ c => some c
  | _ => none

/-- Copies of coded pages go to the twin (R346). -/
def sendCoded (s : State) (x : Session) (pages : List Page) : State :=
  pages.foldl (fun s p => match storedBytes p with
    | some c => if p.index < 0xFF0000 then sendBuddy s x p.index p.epoch p.wseq c else s
    | none => s) s

/-- The coded pages of a PARK in their tiers, and the granules they take; none where no tier has room (R100, R120,
R124). -/
def placePark (s : State) (x : Session) (target : Nat) (noNarrow : Bool) : Option (State × List Page × Nat) :=
  let pages := parkPages s x (bit x.tclass 1 && !noNarrow)
  (placeParked s x target pages).map fun (s', placed) =>
    (countCoded s' x pages, placed, (pages.map fun p => granulesOf p.2).sum)

/-- A PARK takes effect: the session holds its coded pages, its frames are freed, it is PARKED (R100, R120). -/
def commitPark (s : State) (slot : Nat) (placed : List Page) : State :=
  match s.session slot with
  | none => s
  | some x =>
    sendSlotEntry ((freeFrames s x.pages).onSession slot fun x =>
      { x with pages := placed, parkPlaced := [], state := .parked, parkedAt := s.localNs }) slot

/-- Park a RESIDENT session at once: the state and the granules placed; none where no tier has room (R100, R126). Its
coded pages go to the twin for class 2 and 3 (R346). -/
def parkSession (s : State) (slot target : Nat) (noNarrow : Bool) : Option (State × Nat) :=
  (s.session slot).bind fun x =>
    (placePark s x target noNarrow).map fun (s, placed, g) =>
      (commitPark (if 2 ≤ x.durability && twinServes s then sendCoded s x placed else s) slot placed, g)

/-! ### Shares on other stages (R13, R100) -/

/-- The parts that hold the other stages' shares of a session homed here, by stage. -/
def shareParts (s : State) (x : Session) : List Nat :=
  let i := sessionImage s x
  if x.guest.isSome || i.stages ≤ 1 then [] else i.group.tail

/-- The home asks the parts that hold shares of a session (R13). -/
def tellShares (s : State) (x : Session) (act : ShareAct) : State :=
  (shareParts s x).foldl (fun s p =>
    (sendRequest s p x.cls (.share (sessionHandle s x) act) x.tenant (sessionHandle s x)).1) s

/-- The guest record of a session homed elsewhere. -/
def guestOf (s : State) (h : Word) : Option Session := s.ses.table.find? fun x => x.guest == some h

/-- The highest slot from one on down that is not in use. -/
def freeDown (used : List Nat) : Nat → Nat → Nat
  | 0, n => n
  | k + 1, n => if used.contains n then freeDown used k (n - 1) else n

/-- The slot under which this part keeps a new share: the highest that no record holds (R117, notes/assumptions/68.md). -/
def guestSlot (s : State) : Nat :=
  freeDown (s.ses.table.map (·.slot)) s.ses.table.length 1048575

/-- The bytes and pages that the answers of the shares report. -/
def shareCount (as : List ShareAnswer) : Nat :=
  (as.map fun a => match a with
    | .done n => n
    | _ => 0).sum

/-- The loss that a share reports, if one does (R113). -/
def shareLoss (as : List ShareAnswer) : Option Status :=
  as.findSome? fun a => match a with
    | .lost 0 => some .peerLost
    | .lost 1 => some .revoked
    | .lost _ => some .poisoned
    | _ => none

/-! ### Room in the hearth tier (R126, R127) -/

/-- The dead pages of one session are freed (R126, R200). -/
def freeDeadOf (s : State) (x : Session) : State :=
  let i := sessionImage s x
  let dead := x.pages.filter fun p => deadPage i x p.index
  if dead.isEmpty then s
  else (freeFrames s dead).onSession x.slot fun x =>
    { x with pages := x.pages.filter fun p => !deadPage i x p.index }

/-- Step 1 of R126: pages of idle sessions that hold only dead entries are freed; the home has the other stages do the
same with their shares, which do not free them by themselves (R13). -/
def freeDead (s : State) : State :=
  s.ses.table.foldl (fun s x =>
    if isActive x || x.state ≠ .resident || x.guest.isSome then s
    else tellShares (freeDeadOf s x) x .freeDead) s

/-- A descriptor of this part's flight names a session and waits (R126). -/
def hasWaiter (s : State) (x : Session) : Bool :=
  s.desc.any fun d => namesSession d.raw && dHandle d.raw == sessionHandle s x && d.phase == .waiting

/-- A page whose location is lost (Table 6.4). -/
def pageLost (p : Page) : Bool :=
  match p.place with
  | .lost _ => p.index < 0xFF0000
  | _ => false

/-- Candidates of auto-park, the oldest commit first (R126). -/
def parkCandidates (s : State) : List Nat :=
  (sortBy (fun (a b : Session) => decide (a.lastCommit < b.lastCommit))
    (s.ses.table.filter fun x => x.state = .resident && x.guest.isNone && !isActive x && !hasWaiter s x &&
      x.kvLost.isNone && !x.pages.isEmpty && !(x.pages.any pageLost))).map (·.slot)

/-- Auto-park runs: auto_park is 1, and not in compatibility mode (R115). -/
def autoParks (s : State) : Bool := bit s.tie.placeCtl 0 && !s.host.compat

/-- One session is auto-parked with the shares of the other stages, by the rules of R124 or the plan (R126). -/
def autoPark (s : State) (slot : Nat) : Option State :=
  (s.session slot).bind fun x =>
    (parkSession s slot 0 false).map fun r => tellShares r.1 x (.park 0 false)

/-- Step 2 of R126: park candidates until there is room; a session with no tier is passed over. -/
def autoParkUntil (enough : State → Bool) (s : State) : List Nat → State
  | [] => s
  | c :: rest =>
    if enough s then s
    else match autoPark s c with
      | some s' => autoParkUntil enough s' rest
      | none => autoParkUntil enough s rest

/-- Make room for a number of frames by steps 1 and 2 of R126 (notes/assumptions/41.md). -/
def makeRoom (s : State) (enough : State → Bool) : State :=
  if enough s then s
  else
    let s := freeDead s
    if enough s || !autoParks s then s else autoParkUntil enough s (parkCandidates s)

/-- Frames that pass to another owner between two states, without their clear (R168, R341). -/
def takenUncleared (s t : State) : List Nat :=
  t.tie.frames.filterMap fun g =>
    if !g.clearing && !s.tie.frames.contains g && (s.frame g.number).any (fun f => f.tenant != g.tenant) then some g.number else none

/-- A command that finds room only in frames whose clear is pending waits for the clear: the room is made, it has no other
effect yet, and no frame is allocated while its clear is pending (R130, R168; notes/assumptions/131.md). -/
def awaitClears (s t : State) : State :=
  let l := takenUncleared s t
  if l.isEmpty then t else makeRoom s fun u => l.all (freeAfterClear u)

/-- The answer of a command that allocates frames. -/
def afterClears (s : State) : Host.Outcome State Fault Refusal → Host.Outcome State Fault Refusal
  | .next t => .next (awaitClears s t)
  | r => r

/-- Frames for pages of a session, after room has been made: outside the reserve, or out of it for a step
that finds none otherwise (R126, R127); none is TIER_FULL (R130), and the room made stays made. -/
def allotPages (s : State) (slot : Nat) (pages : List Nat) (step : Bool) : State × Option (List (Nat × Nat)) :=
  match s.session slot with
  | none => (s, none)
  | some x =>
    let i := sessionImage s x
    let fits := fun t => hearthFits t pages.length false && (placePages t i x pages).isSome
    let s := makeRoom s fits
    if fits s || (step && hearthFits s pages.length true) then
      match placePages s i x pages with
      | some (s', got) => (s', some got)
      | none => (s, none)
    else (s, none)

/-- New pages of a session in hearth, with zeros where a frame held another's data. -/
def addPages (s : State) (slot : Nat) (got : List (Nat × Nat)) : State :=
  s.onSession slot fun x =>
    let i := sessionImage s x
    { x with pages := x.pages ++ got.map fun (p, f) =>
        { index := p, kind := pageKind i p, place := .hearth f } }

/-- Pages of a session that its first w committed positions and the writes up to position upto need and it
does not hold. -/
def missingPages (i : Image) (x : Session) (blocks : List Nat) : List Nat :=
  let want := List.range i.statePages ++ (blocks.map (pagesOfBlock i)).flatten
  want.filter fun p => !(x.pages.any fun q => q.index == p)

/-- Free everything a session holds in the tiers (R120). -/
def freeSessionPages (s : State) (x : Session) : State :=
  let s := freeFrames s x.pages
  freeGranules s x.tenant (((x.pages ++ x.parkPlaced).map pageFoothill).sum)

end Sys2Proof.Machine
end

