-- ==== Sys2Proof/Machine/RegionOps.lean ====
section
/-!
DEFINITION. Regions as shared operations: where their bytes lie (R307), digests (R139, R313), the line cache
and the coherence directory (R308 to R310), sealing (R311, R312), and the end of a region (R305, R314).
-/

namespace Sys2Proof.Machine

/-! ### Regions homed here -/

/-- The region in a slot of this part. -/
def State.region (s : State) (slot : Nat) : Option Region := lookupBy (·.slot) slot s.rdg.regions

/-- Put a region. -/
def State.putRegion (s : State) (r : Region) : State :=
  s.onRdg fun g => { g with regions := upsert (·.slot) r g.regions }

/-- Change the region of a slot, if it is there. -/
def State.onRegion (s : State) (slot : Nat) (f : Region → Region) : State :=
  match s.region slot with
  | some r => s.putRegion { f r with slot := slot }
  | none => s

/-- The handle of a region homed here (R304). -/
def regionHandle (s : State) (r : Region) : Word := mkObject s.rdg.part r.tenant r.slot r.gen

/-- The region a handle names at its home (R304); one that waits for its commit is not yet there. -/
def regionOf (s : State) (h : Word) : Option Region :=
  match s.region (oSlot h) with
  | some r => if r.creating.isNone && regionHandle s r = h then some r else none
  | none => none

/-! ### Contents (R307) -/

/-- Bytes of a region within one page. -/
def readRegion (s : State) (r : Region) (off n : Nat) : List Byte :=
  match r.pages[off / 65536]? with
  | some (.frame f) => memReadAll s.hrt.mem (65536 * f + off % 65536) n
  | _ => memReadAll r.mem off n

/-- The 64 KiB of a page. -/
def regionPage (s : State) (r : Region) (page : Nat) : List Byte := readRegion s r (65536 * page) 65536

/-- The granule of a pool page that holds an offset, as the lender gets it: two lines of 256 bytes, each encrypted under
the region key with its offset as the tweak (R307; notes/assumptions/94.md). -/
def poolGranule (s : State) (r : Region) (off : Nat) : List Byte :=
  let o := off / 512 * 512
  Config.xtsEncrypt (Config.trng r.keyDraw) o (readRegion s r o 256) ++
  Config.xtsEncrypt (Config.trng r.keyDraw) (o + 256) (readRegion s r (o + 256) 256)

/-- Bytes written into a page; those of a pool page go to its lender as ciphertext (R307). -/
def writeRegionBytes (s : State) (slot off : Nat) (data : List Byte) : State :=
  match s.region slot with
  | none => s
  | some r =>
    match r.pages[off / 65536]? with
    | some (.frame f) =>
      s.onHrt fun h => { h with mem := memWriteAll h.mem (65536 * f + off % 65536) data }
    | some (.pool e page) =>
      let r := { r with mem := memWriteAll r.mem off data }
      let s := s.putRegion r
      (sendRequest s (hPart e) 0 (.extentWrite e (128 * page + off % 65536 / 512) (poolGranule s r off))
        r.tenant e).1
    | _ => s.putRegion { r with mem := memWriteAll r.mem off data }

/-- The first write to a page after a seal copies its contents as the page's sealed copy (R311). -/
def keepSealed (s : State) (slot page : Nat) : State :=
  match s.region slot with
  | none => s
  | some r =>
    if !r.shared || (r.sealedPages.any fun p => p.1 == page) then s
    else s.putRegion { r with sealedPages := r.sealedPages ++ [(page, regionPage s r page)] }

/-- The digest record of a page (Table 6.10; notes/assumptions/97.md). -/
def digestRecord (r : Region) (page : Nat) : DigestRecord :=
  (lookupBy (·.page) page r.records).getD { page := page }

/-- The digest of a page computed anew (R139, R313). -/
def digestPage (s : State) (slot page : Nat) (device : Bool) : State :=
  match s.region slot with
  | none => s
  | some r =>
    if !r.digests then s
    else
      let d := digestRecord r page
      s.putRegion { r with
        changed := r.changed.filter (· != page),
        records := upsert (·.page)
          { d with digest := sha384 (regionPage s r page), wseq := r.wcount, valid := true,
                   stale := false, device := d.device || device } r.records }

/-- A host write to a region: the sealed copy first, then the bytes; the page's digest is stale (R139, R311). -/
def hostWriteRegion (s : State) (slot off : Nat) (data : List Byte) : State :=
  let page := off / 65536
  (writeRegionBytes (keepSealed s slot page) slot off data).onRegion slot fun r =>
    { r with
      wcount := (r.wcount + 1) % 2 ^ 64,
      changed := dedup (r.changed ++ [page]),
      records := if r.digests then upsert (·.page) { digestRecord r page with stale := true } r.records
                 else r.records }

/-- The region page that a hearth frame holds. -/
def regionOfFrame (s : State) (n : Nat) : Option (Nat × Nat) :=
  s.rdg.regions.findSome? fun r =>
    (r.pages.findIdx? fun p => p == .frame n).map fun page => (r.slot, page)

/-- An ember is about to write frames: regions' sealed copies are made first (R311). -/
def beforeEmberWrite (s : State) (frames : List Nat) : State :=
  frames.foldl (fun s n => match regionOfFrame s n with
    | some (slot, page) => keepSealed s slot page
    | none => s) s

/-- An ember has written frames: a region page among them is marked device-written and its digest is computed
anew at the commit (R139, R166, R313). -/
def afterEmberWrite (s : State) (frames : List Nat) : State :=
  frames.foldl (fun s n => match regionOfFrame s n with
    | some (slot, page) =>
      let s := s.onRegion slot fun r =>
        { r with wcount := (r.wcount + 1) % 2 ^ 64, changed := dedup (r.changed ++ [page]),
                 records := upsert (·.page) { digestRecord r page with device := true } r.records }
      digestPage s slot page true
    | none => s) s

/-! ### Mappings of this part and the line cache -/

/-- 256 MiB, the unit of a mapping (R303). -/
def unitBytes : Nat := 2 ^ 28

/-- Where the digest window begins (R303). -/
def digestBase : Nat := 0xFFC0000000

/-- The mapping that holds an offset, with the offset in its region; a tail beyond the region is not mapped
(R305). -/
def mappingAt (s : State) (off : Nat) : Option (Mapping × Nat) :=
  s.rdg.mappings.findSome? fun m =>
    let o := unitBytes * m.unit
    if o ≤ off && off < o + m.size then some (m, off - o) else none

/-- Lines the line cache holds: line_cache_units of 64 MiB (Table 13.15). -/
def cacheLines (s : State) : Nat := 262144 * clamp 1 64 (fld s.rdg.poolCtl 31 24)

/-- One snoop for each host line of a range of a region, in every mapping of it here (R57, R309). -/
def snoopRegion (s : State) (region : Word) (off bytes : Nat) : State :=
  s.rdg.mappings.foldl (fun s m =>
    if m.handle = region then s.emit (.snoop (unitBytes * m.unit + off) bytes) else s) s

/-- Drop a line of the line cache and snoop the host die for it (R309). -/
def dropLine (s : State) (region : Word) (line : Nat) : State :=
  snoopRegion (s.onRdg fun g =>
    { g with lines := g.lines.filter fun l => !(l.region == region && l.line == line) }) region (256 * line) 256

/-- Drop the sealed lines of a region and snoop the host die for them (R312). -/
def dropSealed (s : State) (region : Word) : State :=
  (s.rdg.lines.filter fun l => l.region == region && l.version.isSome).foldl (fun s l =>
    snoopRegion (s.onRdg fun g => { g with lines := g.lines.filter (· != l) }) region (256 * l.line) 256) s

/-- Put a line into the line cache; the oldest makes room (R308). -/
def cacheLine (s : State) (l : CachedLine) : State :=
  let same : CachedLine → Bool := fun k => k.region == l.region && k.line == l.line
  let s := s.onRdg fun g => { g with lines := (g.lines.filter fun k => !same k) ++ [l] }
  if s.rdg.lines.length ≤ cacheLines s then s
  else match s.rdg.lines with
    | k :: _ => dropLine s k.region k.line
    | [] => s

/-- A host read returns all ones with CXL data poison (R56, R310, R314). -/
def poisonRead (s : State) (off : Nat) : State :=
  s.emit (.readData (off / 64 * 64) (List.replicate 64 0xFF) true)

/-- A host read returns the 64-byte host line at an offset out of a 256-byte line. -/
def lineToHost (s : State) (off : Nat) (line : List Byte) : State :=
  s.emit (.readData (off / 64 * 64) (slice line (off % 256 / 64 * 64) 64) false)

/-! ### The directory (R308) -/

/-- Mappers in a live view. -/
def liveMappers (r : Region) : List Mapper := r.mappers.filter fun m => m.view < 2

/-- The bit that marks a mapper in an entry: its sharer index, or its group of 16 parts. -/
def sharerBit (r : Region) (m : Mapper) : Nat := if r.coarse then m.part / 16 else m.index

/-- The parts marked in a line's directory entry (Table 13.10 step 2). -/
def sharersOf (r : Region) (line : Nat) : List Nat :=
  match lookupBy (·.1) line r.directory with
  | none => []
  | some (_, e) => ((liveMappers r).filter fun m => bit e (sharerBit r m)).map (·.part)

/-- Mark a part in a line's entry; a private range has no directory (R56, R308). -/
def markSharer (r : Region) (line part : Nat) : Region :=
  if !r.shared then r else match (liveMappers r).find? fun m => m.part == part with
  | none => r
  | some m =>
    let e := ((lookupBy (·.1) line r.directory).map (·.2)).getD 0
    { r with directory := upsert (·.1) (line, e ||| BitVec.ofNat 64 (2 ^ sharerBit r m)) r.directory }

/-- The lowest sharer index that no mapper holds. -/
def freeSharer (r : Region) : Nat :=
  ((List.range 65).find? fun i => !(liveMappers r).any fun m => m.index == i).getD 64

/-- Every entry rewritten for coarse mode, before the 65th live-view map completes (R308). -/
def makeCoarse (r : Region) : Region :=
  if r.coarse then r
  else
    { r with
      coarse := true,
      directory := r.directory.map fun (line, e) =>
        (line, (dedup ((liveMappers r).filterMap fun m =>
          if bit e m.index then some (m.part / 16) else none)).foldl
            (fun w g => w ||| BitVec.ofNat 64 (2 ^ g)) (0 : BitVec 64)) }

/-- Register a mapper (R305, R308). -/
def addMapper (r : Region) (part view : Nat) : Region :=
  let r := { r with mappers := r.mappers.filter fun m => m.part != part }
  let r := if view < 2 && 64 ≤ (liveMappers r).length then makeCoarse r else r
  { r with mappers := r.mappers ++
      [{ part := part, view := view, index := if view < 2 && !r.coarse then freeSharer r else 64 }] }

/-- A mapper leaves: in exact mode its bit is cleared in every entry (R310). -/
def removeMapper (r : Region) (part : Nat) : Region :=
  let gone := (liveMappers r).find? fun m => m.part == part
  let r' := { r with mappers := r.mappers.filter fun m => m.part != part }
  match gone with
  | some m =>
    if r.coarse then r'
    else { r' with directory := (r.directory.map fun (l, e) =>
        (l, e &&& ~~~ BitVec.ofNat 64 (2 ^ m.index))).filter fun d => d.2 != 0 }
  | none => r'

/-- The view in which a part maps a region. -/
def viewOf (r : Region) (part : Nat) : Option Nat := (r.mappers.find? fun m => m.part == part).map (·.view)

/-! ### The end of a region -/

/-- Free a region's slot and storage: frames, granules and extents pass through the clear (R305, R341). -/
def freeRegion (s : State) (slot : Nat) : State :=
  match s.region slot with
  | none => s
  | some r =>
    let s := r.pages.foldl (fun s p => match p with
      | .frame n => freeFrame s n
      | _ => s) s
    let s := freeGranules s r.tenant
      (128 * (r.pages.filter (· == .foothill)).length + r.spareGranules)
    let s := s.onRdg fun g => { g with regions := g.regions.filter fun x => x.slot != slot }
    if r.creating.isNone then propose s (.regionGone (regionHandle s r)) else s

/-- A REGION_MAP that creates a region is taken back before its commit (R293). -/
def undoRegionMap (s : State) (o : Origin) : State :=
  match s.rdg.regions.find? fun r => r.creating == some o with
  | some r =>
    let s := withdraw s (.region (regionHandle s r) r.shared)
    freeRegion (s.onRdg fun g => { g with mappings := g.mappings.filter fun m => m.handle != regionHandle s r }) r.slot
  | none => s

/-- Cancel one descriptor of any kind (R77, R103, R104): beside those of sessions, a REGION_MAP that waits for its commit is
taken back, and a REGION_PUBLISH is taken out of the order of its region where its seal has not begun. -/
def cancelWork (s : State) (d : InFlight) : Bool × State :=
  if d.phase = .running && dOpcode d.raw = opRegionMap then
    (true, complete (undoRegionMap s d.origin) d.origin [.cancelled] 0)
  else if d.phase = .running && dOpcode d.raw = opPublish then
    let s := s.onRdg fun g => { g with regions := g.regions.map fun r =>
      { r with ops := r.ops.filter fun p => p.begun || p.asker != .descriptor d.origin } }
    (true, complete s d.origin [.cancelled] 0)
  else cancelDescriptor s d

/-- An unmapping ends once no invalidate sent to its part is without acknowledgement (R310); when the last
mapping is gone, the region is freed (R305). -/
def endUnmappings (s : State) (slot : Nat) : State :=
  match s.region slot with
  | none => s
  | some r =>
    let still : Nat → Bool := fun part => r.ops.any fun op => op.waiting.contains part
    let done := r.unmapping.filter fun u => !still u.1
    let s := s.putRegion { r with unmapping := r.unmapping.filter fun u => still u.1 }
    let s := done.foldl (fun s (_, a) => match a with
      | .part p req => sendResponse s p req .ok (.done 0 []) (regionHandle s r)
      | .descriptor o => complete s o [] 0
      | .host _ => s) s
    match s.region slot with
    | some r => if r.mappers.isEmpty && r.unmapping.isEmpty then freeRegion s slot else s
    | none => s

/-! ### The home's order of operations (R309, R311) -/

/-- Two operations of which the later waits for the earlier: those of one line, and a seal with any. -/
def conflicts (a b : LineOp) : Bool :=
  match a.action, b.action with
  | .sealing _, _ => true
  | _, .sealing _ => true
  | .read l _ _, .read k _ _ => l == k
  | .read l _ _, .write k _ _ => l == k
  | .write l _ _, .read k _ _ => l == k
  | .write l _ _, .write k _ _ => l == k

/-- The first operation that can go on: none before it conflicts, and it waits for no acknowledgement. -/
def nextOp (before : List LineOp) : List LineOp → Option (Nat × LineOp)
  | [] => none
  | op :: rest =>
    if !(before.any fun b => conflicts b op) && op.waiting.isEmpty then some (before.length, op)
    else nextOp (before ++ [op]) rest

/-- The line that a read gets, with its version in a sealed view (R312); none where its page is lost. -/
def readLine (s : State) (r : Region) (line : Nat) (sealedView : Bool) : Option (List Byte × Option Nat) :=
  let page := line / 256
  if r.lostPages.contains page then none
  else if sealedView then
    match r.sealedPages.find? fun p => p.1 == page with
    | some p => some (slice p.2 (256 * (line % 256)) 256, some r.version)
    | none => some (readRegion s r (256 * line) 256, some r.version)
  else some (readRegion s r (256 * line) 256, none)

/-- A read ends: the reader is marked in a live view, and gets the line; a line of a shared region goes into the line
cache, one of a private range is plain memory of the part (R56, R308, R309). -/
def finishRead (s : State) (slot : Nat) (a : Asker) (line : Nat) (sealedView poisoned : Bool) : State :=
  match s.region slot with
  | none => s
  | some r =>
    let h := regionHandle s r
    let reader := match a with
      | .part p _ => p
      | _ => s.rdg.part
    match readLine s r line sealedView, a with
    | some (data, v), .host off =>
      if poisoned then poisonRead s off
      else
        let s := if sealedView then s else s.putRegion (markSharer r line reader)
        lineToHost (if r.shared then cacheLine s { region := h, line := line, data := data, version := v } else s) off
          data
    | none, .host off => poisonRead s off
    | some (data, v), .part p req =>
      let s := if sealedView then s else s.putRegion (markSharer r line reader)
      sendResponse s p req .ok (.data data v) h
    | none, .part p req => sendResponse s p req .poisoned (.done 0 []) h
    | _, .descriptor _ => s

/-- A write ends: the entry is zero, the line written, the writer answered; a write to a lost page is
discarded (Table 13.10 steps 4 to 6, R314). -/
def finishWrite (s : State) (slot : Nat) (a : Asker) (line offset : Nat) (data : List Byte) : State :=
  match s.region slot with
  | none => s
  | some r =>
    let s := s.putRegion { r with directory := r.directory.filter fun d => d.1 != line }
    let s := if r.lostPages.contains (line / 256) then s
      else hostWriteRegion s slot (256 * line + offset) data
    match a with
    | .host off => s.emit (.writeDone off)
    | .part p req => sendResponse s p req .ok (.done 0 []) (regionHandle s r)
    | .descriptor _ => s

/-- Pages whose digests a seal computes: those stale or changed since their last digest (R313). -/
def pagesToDigest (r : Region) : List Nat :=
  if r.digests then
    dedup (r.changed ++ (r.records.filter (·.stale)).map (·.page))
  else []

/-- A seal completes: digests written, the version advanced, the sealed copies of the version before freed
(R311, R313). -/
def finishSeal (s : State) (slot : Nat) (a : Asker) : State :=
  match s.region slot with
  | none => s
  | some r =>
    let pages := pagesToDigest r
    let s := pages.foldl (fun s p => digestPage s slot p false) s
    let v := (r.version + 1) % 2 ^ 32
    let s := s.onRegion slot fun r => { r with version := v, sealedPages := [], changed := [] }
    match a with
    | .descriptor o => complete s o [] (word [put 31 0 v, put 63 32 pages.length])
    | _ => s

/-- Take an operation out of a region's order. -/
def removeOp (s : State) (slot i : Nat) : State :=
  s.onRegion slot fun r => { r with ops := r.ops.take i ++ r.ops.drop (i + 1) }

/-- An operation begins to wait for other parts. -/
def awaitOp (s : State) (slot i : Nat) (parts : List Nat) : State :=
  s.onRegion slot fun r =>
    { r with ops := r.ops.zipIdx.map fun (op, j) =>
        if j = i then { op with begun := true, waiting := parts } else op }

/-- A refused seal (R311): a page lost, or another version current. -/
def sealRefusal (r : Region) (expected : Nat) : Option Status :=
  if !r.lostPages.isEmpty then some .poisoned
  else if r.version ≠ expected then some .publishConflict else none

/-- One operation of a region goes on: a read is served; a write or a seal sends what it must and ends when
nothing is outstanding (R309 to R312). -/
def runOp (s : State) (slot i : Nat) (op : LineOp) : State :=
  match s.region slot with
  | none => s
  | some r =>
    let h := regionHandle s r
    let others : List Nat → List Nat := fun l => l.filter (· != s.rdg.part)
    let tell : State → List Nat → Option Nat → State := fun s parts line =>
      parts.foldl (fun s p => sendFrame s p 3 0 (.invalidate h line) r.tenant 0 h) s
    match op.action with
    | .read line v poisoned => finishRead (removeOp s slot i) slot op.asker line v poisoned
    | .write line offset data =>
      if op.begun then finishWrite (removeOp s slot i) slot op.asker line offset data
      else
        let marked := sharersOf r line
        let s := if marked.contains s.rdg.part then dropLine s h line else s
        awaitOp (tell s (others marked) (some line)) slot i (others marked)
    | .sealing expected =>
      if op.begun then finishSeal (removeOp s slot i) slot op.asker
      else match sealRefusal r expected, op.asker with
        | some st, .descriptor o =>
          complete (removeOp s slot i) o [st] (if st = .publishConflict then BitVec.ofNat 64 r.version else 0)
        | some _, _ => removeOp s slot i
        | none, _ =>
          let viewers := (r.mappers.filter fun m => m.view == 2).map (·.part)
          let s := if viewers.contains s.rdg.part then dropSealed s h else s
          awaitOp (tell s (others viewers) none) slot i (others viewers)

/-- Everything that can go on in a region does; each operation takes at most two turns (notes/assumptions/95.md). -/
def pump : Nat → State → Nat → State
  | 0, s, slot => endUnmappings s slot
  | n + 1, s, slot =>
    match s.region slot with
    | none => s
    | some r =>
      match nextOp [] r.ops with
      | none => endUnmappings s slot
      | some (i, op) => pump n (runOp s slot i op) slot

/-- A region's operations go on. -/
def pumpRegion (s : State) (slot : Nat) : State :=
  match s.region slot with
  | some r => pump (2 * r.ops.length + 1) s slot
  | none => s

/-- An operation arrives at the home (R309). -/
def pushOp (s : State) (slot : Nat) (a : Asker) (act : LineAction) : State :=
  pumpRegion (s.onRegion slot fun r => { r with ops := r.ops ++ [{ asker := a, action := act }] }) slot

/-- A part's acknowledgement of an invalidate: of the line, or of a seal's new version (Table 13.10,
R312). -/
def acknowledgeLine (s : State) (slot part : Nat) (line : Option Nat) : State :=
  let matches' : LineOp → Bool := fun op => match op.action, line with
    | .write l _ _, some k => l == k
    | .sealing _, none => true
    | _, _ => false
  pumpRegion (s.onRegion slot fun r =>
    { r with ops := r.ops.map fun op =>
        if op.begun && matches' op then { op with waiting := op.waiting.filter (· != part) } else op }) slot

/-- A part no longer answers: its acknowledgements are treated as given and it is removed from every region
(R310). -/
def dropMapperPart (s : State) (part : Nat) : State :=
  (s.rdg.regions.map (·.slot)).foldl (fun s slot =>
    pumpRegion (s.onRegion slot fun r =>
      { (removeMapper r part) with
        unmapping := r.unmapping.filter fun u => u.1 != part,
        ops := r.ops.map fun op => { op with waiting := op.waiting.filter (· != part) } }) slot) s

end Sys2Proof.Machine
end

