-- ==== Sys2Proof/Machine/SearchOps.lean ====
section
/-!
DEFINITION. Vector search as shared operations (R261 to R271): handles and their checks, records, filters,
distances, the traversal of the cell graph, the search cache, the insertion of one record.
-/

namespace Sys2Proof.Machine

/-! ### Indexes -/

/-- A drop of the index stands before a descriptor: one fetched after it is refused (R277). -/
def afterDrop (s : State) (d : InFlight) : Bool :=
  (s.before d.origin).any fun e =>
    dOpcode e.raw == opDelete && bit e.raw 304 && dHandle e.raw == dHandle d.raw && e.tenant == d.tenant &&
    (e.phase == .waiting || e.phase == .running)

/-- The checks of R261, and the refusal of R277. -/
def findIndex (s : State) (d : InFlight) : Except Status Index :=
  let h := dHandle d.raw
  if h = 0 || !s.partKnown (hPart h) || hTenant h ≠ d.tenant || 256 ≤ oSlot h then .error .accessDenied
  else match s.index (oSlot h) with
    | none => .error .accessDenied
    | some x =>
      if x.gen ≠ oGen h || x.tenant ≠ d.tenant then .error .accessDenied
      else if x.lost then .error .stateLost
      else if x.live && !afterDrop s d then .ok x else .error .accessDenied

/-- Code width in bits of a width field; none for the reserved value. -/
def codeWidth : Nat → Option Nat
  | 0 => some 256
  | 1 => some 512
  | 2 => some 1024
  | _ => none

/-- The scree in the numbering of cells: after every cell. -/
def screeCell : Nat := 0x100000

/-! ### Distances and filters (R265, R266) -/

/-- Ones in a byte. -/
def onesOf (b : Byte) : Nat := ((List.range 8).filter fun i => b.toNat.testBit i).length

/-- Bits in which two codes differ. -/
def hamming : List Byte → List Byte → Nat
  | a :: as, b :: bs => onesOf (a ^^^ b) + hamming as bs
  | _, _ => 0

/-- A filter block (Table 12.3). -/
structure Filter where
  all   : Nat
  any   : Nat
  none' : Nat
  lo0   : Nat
  hi0   : Nat
  lo1   : Nat
  hi1   : Nat
  deriving DecidableEq, Repr

/-- Read a filter block. -/
def readFilter (bs : List Byte) : Filter :=
  { all := leAt bs 0 8, any := leAt bs 8 8, none' := leAt bs 16 8, lo0 := leAt bs 24 2,
    hi0 := leAt bs 26 2, lo1 := leAt bs 28 2, hi1 := leAt bs 30 2 }

/-- A record passes a filter block (R265). -/
def Filter.passes (f : Filter) (r : Posting) : Bool :=
  r.attr &&& f.all == f.all && (f.any == 0 || r.attr &&& f.any != 0) && r.attr &&& f.none' == 0 &&
  decide (f.lo0 ≤ r.range0) && decide (r.range0 ≤ f.hi0) &&
  decide (f.lo1 ≤ r.range1) && decide (r.range1 ≤ f.hi1)

/-- The order of candidates (R266): a later block holds later places. -/
def Hit.before (a b : Hit) : Bool :=
  decide (a.dist < b.dist) || (a.dist == b.dist && (decide (a.cell < b.cell) ||
    (a.cell == b.cell && decide (a.place < b.place))))

/-- The candidates among records (R266). -/
def candidatesIn (code : List Byte) (f : Option Filter) (cell : Nat) (rs : List Posting) : List Hit :=
  (rs.zipIdx.filter fun (r, _) => !r.deleted && match f with
    | some f => f.passes r
    | none => true).map fun (r, i) => { dist := hamming code r.code, cell := cell, place := i, key := r.key }

/-! ### The traversal (R268) -/

/-- A node and its distance. -/
abbrev Near := Nat × Nat

/-- Nearest first, ties to the lower node. -/
def nearer (a b : Near) : Bool := decide (a.1 < b.1) || (a.1 == b.1 && decide (a.2 < b.2))

/-- The cell of a node. -/
def cellOf (x : Index) (n : Nat) : Option IndexCell := lookupBy (·.node) n x.cells

/-- Distance of a code to a node's centroid. -/
def nodeNear (x : Index) (code : List Byte) (n : Nat) : Near :=
  (((cellOf x n).map fun c => hamming code c.centroid).getD 0, n)

/-- The traversal loop: candidates sorted, nodes seen, the best list sorted. -/
def traverseLoop (x : Index) (code : List Byte) (ef : Nat) :
    Nat → List Near → List Nat → List Near → List Near
  | 0, _, _, best => best
  | _, [], _, best => best
  | fuel + 1, c :: cand, seen, best =>
    let done := best.length == ef && match best.getLast? with
      | some l => decide (l.1 < c.1)
      | none => false
    if done then best
    else match cellOf x c.2 with
      | none => traverseLoop x code ef fuel cand seen best
      | some cell =>
        let best := if cell.dead then best else (insertBy nearer c best).take ef
        let new := cell.edges.filter fun n => !seen.contains n
        let cand := new.foldl (fun l n => insertBy nearer (nodeNear x code n) l) cand
        traverseLoop x code ef fuel cand (seen ++ new) best

/-- best of R268: the ef nearest live nodes that the traversal meets, nearest first. -/
def traverse (x : Index) (code : List Byte) (ef : Nat) : List Nat :=
  (traverseLoop x code ef (x.cells.length + 1) [nodeNear x code 0] [0] []).map (·.2)

/-! ### Hot and cold cells (R264) -/

/-- The search cache in frames (Table 12.11). -/
def cacheFrames (s : State) : Nat := 1024 * clamp 16 768 (fld s.srch.cacheCtl 9 0)

/-- The hot cell probed least recently over all indexes, none of a set kept: index slot and node. -/
def coldest (s : State) (keep : List (Nat × Nat)) : Option (Nat × Nat) :=
  let hot := (s.srch.indexes.map fun x =>
    (x.cells.filter fun c => c.hot && !keep.contains (x.slot, c.node)).map fun c => (c.used, x.slot, c.node)).flatten
  (hot.foldl (fun (best : Option (Nat × Nat × Nat)) c =>
    match best with
    | none => some c
    | some b => if c.1 < b.1 then some c else best) none).map (·.2)

/-- Change one cell of an index. -/
def onCell (s : State) (slot node : Nat) (f : IndexCell → IndexCell) : State :=
  match s.index slot with
  | none => s
  | some x => s.putIndex { x with cells := x.cells.map fun c => if c.node = node then f c else c }

/-- Evict cells while the cache is over its size. -/
def evictCells : Nat → State → List (Nat × Nat) → State
  | 0, s, _ => s
  | n + 1, s, keep =>
    if searchFrames s ≤ cacheFrames s then s
    else match coldest s keep with
      | none => s
      | some (slot, node) => evictCells n (onCell s slot node fun c => { c with hot := false, banks := [] }) keep

/-- A probed cell: made hot where it is cold, its blocks in banks of their own, counted, and its frames' room made (R264). -/
def probeCell (s : State) (slot node : Nat) : State :=
  match (s.index slot).bind fun x => cellOf x node with
  | none => s
  | some c =>
    let s := s.onSrch fun t =>
      { t with clock := t.clock + 1, coldLoads := if c.hot then t.coldLoads else bump 16 t.coldLoads }
    let banks := if c.hot then c.banks
      else banksFor s (((s.index slot).map fun x => blocksFor x.width c.records.length).getD 0) []
    let s := onCell s slot node fun c => { c with hot := true, used := s.srch.clock, banks := banks }
    evictCells ((s.srch.indexes.map fun x => x.cells.length).sum) s [(slot, node)]

/-! ### Records and keys (R262, R274, R276) -/

/-- A record holds a key and is live. -/
def holdsKey (k : Nat) (r : Posting) : Bool := r.key == k && !r.deleted

/-- The index has a live record with a key. -/
def Index.hasKey (x : Index) (k : Nat) : Bool :=
  x.scree.any (holdsKey k) || x.cells.any fun c => c.records.any (holdsKey k)

/-- Set the deleted bit of the live record with a key. -/
def Index.deleteKey (x : Index) (k : Nat) : Index :=
  let mark := fun (r : Posting) => if holdsKey k r then { r with deleted := true } else r
  { x with scree := x.scree.map mark, cells := x.cells.map fun c => { c with records := c.records.map mark } }

/-- The deleted bit as the queries that run on the index read it from now on (R278). -/
def markQueries (s : State) (slot k : Nat) : State :=
  let mark := fun (r : Posting) => if holdsKey k r then { r with deleted := true } else r
  s.onSrch fun t => { t with scans := t.scans.map fun q =>
    if q.slot = slot then
      { q with scree := q.scree.map mark, cells := q.cells.map fun c => { c with records := c.records.map mark } }
    else q }

/-- Cells whose last live record has gone are retired: a tombstone is never scanned (R267, R276). -/
def Index.retireEmpty (before after : Index) : Index :=
  { after with
    cells := after.cells.map fun c =>
      let had := ((cellOf before c.node).map fun o => o.records.any fun r => !r.deleted).getD false
      if had && (c.records.all (·.deleted)) then { c with dead := true, hot := false, banks := [] } else c }

/-- The scree limit in records (Table 12.10). -/
def screeMax (s : State) : Nat := 4096 * max 1 (fld s.srch.ctl 23 16)

/-- Commit one record to the scree, replacing a live record with its key: the state, and whether it was an
update; none where the scree or the foothill tier is full (R274, R275). -/
def insertRecord (s : State) (slot : Nat) (r : Posting) : Option (State × Bool) :=
  match s.index slot with
  | none => none
  | some x =>
    if screeMax s ≤ x.scree.length then none
    else
      let update := x.hasKey r.key
      let s := if update then markQueries s slot r.key else s
      let x := if update then x.deleteKey r.key else x
      let x := { x with scree := x.scree ++ [r] }
      let s' := s.putIndex
        { x with screeBanks := if blocksFor x.width x.scree.length ≤ x.screeBanks.length then x.screeBanks
            else x.screeBanks ++ banksFor s 1 [] }
      if foothillFits s' 0 then some (s', update) else none

/-- Posting records as bytes (Table 12.2). -/
def readPosting (width : Nat) (bs : List Byte) : Posting :=
  let w := width / 8
  { code := bs.take w, attr := leAt bs w 8, range0 := leAt bs (w + 8) 2, range1 := leAt bs (w + 10) 2,
    key := leAt bs (w + 16) 8 }

/-- Flags and reserved bytes of a record given to INDEX_INSERT are zero (R274). -/
def postingClean (width : Nat) (bs : List Byte) : Bool :=
  leAt bs (width / 8 + 12) 4 == 0 && leAt bs (width / 8 + 24) 8 == 0

/-- A block of an index is marked poisoned, with its event and count (R271; notes/assumptions/86.md). -/
def poisonBlock (s : State) (x : Index) (cell block : Nat) : State :=
  if x.poisoned.contains (cell, block) then s
  else
    let s := (s.putIndex { x with poisoned := x.poisoned ++ [(cell, block)] }).onSrch fun t =>
      { t with scans := t.scans.map fun q =>
          if q.slot = x.slot && q.version = x.version && q.left.contains (cell, block) then { q with bad := true }
          else q }
    logEvent (s.onSrch fun t => { t with poisonedBlocks := bump 16 t.poisonedBlocks }) 17 x.tenant x.slot

/-- A record's block is poisoned. -/
def inPoisoned (x : Index) (cell place : Nat) : Bool :=
  x.poisoned.contains (cell, place / recordsPerBlock x.width)

/-! ### Barriers (R162, R270) -/

/-- The run that a broadcaster is inside. -/
def runOf (s : State) (summit : Nat) : Option BroadcastRun := lookupBy (·.summit) summit s.hrt.runs

/-- The broadcaster stands at a boundary with a barrier, or at the end of a run; idle time between slices counts as such
a boundary (R162, Table 7.7). -/
def atBarrier (s : State) (summit : Nat) : Bool := (runOf s summit).isNone || emberPause s != 0

/-! ### Starting index work -/

/-- An earlier index descriptor of this flight stands before one on its index: inserts and deletes commit in
order of arrival, one merge runs at a time (R278, R280). -/
def indexBlocked (s : State) (d : InFlight) : Bool :=
  (s.before d.origin).any fun e =>
    dHandle e.raw == dHandle d.raw && dHandle d.raw != 0 &&
    (e.phase == .waiting || e.phase == .running) &&
    ((dOpcode d.raw != opMerge && (dOpcode e.raw == opInsert || dOpcode e.raw == opDelete)) ||
     (dOpcode d.raw == opMerge && dOpcode e.raw == opMerge))

end Sys2Proof.Machine
end

