-- ==== Sys2Proof/Machine/KvPages.lean ====
section
/-!
DEFINITION. What the pages of a session hold and how commits change it: class A slots, scores and eviction (R212 to R215),
attention state, KV and summary pages byte by byte (R203 to R207, R216), and what lookout makes a step read (R217, R218).
-/

namespace Sys2Proof.Machine

/-! ### Class A slots -/

/-- The lowest free slots, from one upward (R212). -/
def freeSlots (used : List Nat) : Nat → Nat → Nat → List Nat
  | 0, _, _ => []
  | n + 1, t, k =>
    if k = 0 then [] else if used.contains t then freeSlots used n (t + 1) k
    else t :: freeSlots used n (t + 1) (k - 1)

/-- The k lowest free slots of a layer. -/
def lowestFree (l : Layer) (k : Nat) : List Nat := freeSlots (usedSlots l) (l.slots.length + k) 0 k

/-- Budget of a session's class in positions (Table 9.5). -/
def kvBudget (kvclass : Word) : Nat := 64 * clamp 16 503 (fld kvclass 8 0)

/-- The lookout threshold of a session's class in positions (R217, Table 9.5). -/
def lookoutFrom (kvclass : Word) : Nat := 1024 * max 4 (fld kvclass 25 16)

/-- A position never evicted: the sink, and the recent window of a session with w committed positions
(R214). -/
def protectedPos (w p : Nat) : Bool := p < 4 || w ≤ p + 512

/-- A slot's eviction score summed over the layer's key heads (R214). -/
def slotScore (heads : List (BitVec 32)) : Fl := heads.foldl (fun a b => flAdd a (f32 b)) flZero

/-- Evict what exceeds the budget, lowest score first, ties to the lower position (R214). -/
def evictLayer (budget w : Nat) (l : Layer) : Layer :=
  let open' := l.slots.filter fun x => !protectedPos w x.2.1
  let order := sortBy (fun (a b : Nat × Nat × List (BitVec 32)) =>
    flLt (slotScore a.2.2) (slotScore b.2.2) ||
      (!flLt (slotScore b.2.2) (slotScore a.2.2) && decide (a.2.1 < b.2.1))) open'
  let gone := (order.take (l.slots.length - budget)).map (·.1)
  { slots := l.slots.filter fun x => !gone.contains x.1 }

/-- Positions p to p + k - 1 commit in one layer: slots taken, their scores zero, attention probabilities added for each key
head, the excess evicted; w are the committed positions afterwards (R212 to R214). -/
def commitLayer (handle : Word) (heads layer budget p k w : Nat) (l : Layer) : Layer :=
  let fresh := (lowestFree l k).zip (upFrom p k)
  let all : List (Nat × Nat × List (BitVec 32)) :=
    l.slots ++ fresh.map fun (t, q) => (t, q, List.replicate heads (0 : BitVec 32))
  evictLayer budget w
    { slots := all.map fun (t, q, sc) =>
        (t, q, (List.range heads).map fun n => addF32 (sc.getD n 0) (Config.attentionScore handle layer n w t)) }

/-- The layers of a class A session, blank where none has been written. -/
def layersOf (i : Image) (x : Session) : List Layer :=
  if x.layers.isEmpty then List.replicate i.layers {} else x.layers

/-- Slot blocks and positions that a write of k positions past the committed ones needs (R199, R212). -/
def blocksForWrite (i : Image) (x : Session) (k : Nat) : List Nat :=
  let w := x.log.length - 1
  if i.latent then dedup ((upFrom w k).map (· / 64))
  else dedup (((layersOf i x).map fun l => (lowestFree l k).map (· / 64)).flatten)

/-- Positions that a number of new tokens writes: one fewer on a session of length 0 (R199; notes/assumptions/61.md). -/
def positionsFor (x : Session) (m : Nat) : Nat := if x.log.isEmpty then m - 1 else m

/-! ### Attention state pages (R206) -/

/-- One 4 KiB record of an attention state page (R206). In class B bytes 4 to 7 and the bitmap are zero. -/
def layerRecord (i : Image) (x : Session) (layer : Nat) : List Byte :=
  if i.latent then leBytes 4 (x.log.length - 1) ++ List.replicate 4092 0
  else
    let l := ((layersOf i x)[layer]?).getD {}
    let used := usedSlots l
    leBytes 4 used.length ++ leBytes 4 (((lowestFree l 1)[0]?).getD 0) ++ List.replicate 56 0 ++
    (List.range 4032).map fun b =>
      BitVec.ofNat 8 (((List.range 8).filter fun j => used.contains (8 * b + j)).map (2 ^ ·)).sum

/-- The content of attention state page j (R206; notes/assumptions/119.md). -/
def statePage (i : Image) (x : Session) (j : Nat) : List Byte :=
  ((upFrom (16 * j) 16).map fun n =>
    if n < i.layers then layerRecord i x n else List.replicate 4096 0).flatten

/-! ### KV pages (R204) -/

/-- Where a KV or summary page stands: its block, its group, its number there among KV pages and then summary pages
(R207). -/
structure PagePos where
  block : Nat
  group : Nat
  part  : Nat
  deriving DecidableEq, Repr

/-- The place of a page; none for a page of another kind. -/
def pagePos (i : Image) (page : Nat) : Option PagePos :=
  (blockOfPage i page).map fun k =>
    let rem := (page - i.statePages) % i.blockPages
    { block := k, group := rem / i.groupPages, part := rem % i.groupPages }

/-- The index of a page at a place. -/
def pageAt (i : Image) (q : PagePos) : Nat := i.statePages + q.block * i.blockPages + q.group * i.groupPages + q.part

/-- Bytes of a region of a KV page: 64 keys and, in class A, 64 values (R204). -/
def regionBytes (i : Image) : Nat := 64 * i.perPosition

/-- Regions of a KV page. -/
def regionsOf (i : Image) : Nat := i.layersPerPage * i.map.perGroup

/-- A key's or value's channel of a position, divided by its scale and rounded to FP8; a latent row takes the key scale
throughout (R204, R209). -/
def kvByte (i : Image) (h : Word) (wseq layer head position : Nat) (isValue : Bool) (c : Nat) : Byte :=
  let (k, v) := (i.map.scales[layer * i.kvHeads + head]?).getD (0x3F800000, 0x3F800000)
  toE4m3 (flDiv (f32 (Config.kvValue h wseq layer head position isValue c)) (f32 (if isValue then v else k)))

/-- Slots that a commit writes in one layer with their positions; none marks the dead entry of a rejected draft. -/
abbrev Writes := List (Nat × Option Nat)

/-- What a commit writes at an offset of a KV page; none where it leaves the byte. The regions of layers that the last layer
group lacks read as zero (R202). -/
def kvEntry (i : Image) (h : Word) (wseq : Nat) (writes : List Writes) (q : PagePos) (off : Nat) : Option Byte :=
  let region := off / regionBytes i
  let rest := off % regionBytes i
  let half := 64 * i.headDim
  let isValue := half ≤ rest
  let slot := 64 * q.block + rest % half / i.headDim
  let layer := q.part * i.layersPerPage + region / i.map.perGroup
  let head := q.group * i.map.perGroup + region % i.map.perGroup
  if i.layers ≤ layer then some 0
  else (lookupBy (·.1) slot ((writes[layer]?).getD [])).map fun w => match w.2 with
    | some p => kvByte i h wseq layer head p isValue (rest % i.headDim)
    | none => (Config.kvContent h (pageAt i q) wseq).getD off 0

/-- A KV page after a commit's writes: every other byte stays (R204, R221). -/
def kvPage (i : Image) (h : Word) (wseq : Nat) (writes : List Writes) (q : PagePos) (old : List Byte) : List Byte :=
  old.zipIdx.map fun (b, off) => (kvEntry i h wseq writes q off).getD b

/-! ### Summary pages (R205, R216) -/

/-- The largest, or smallest, of FP8 values. -/
def extremeOf (largest : Bool) (vs : List Byte) : Byte :=
  if vs.any fun v => e4m3 v == .nan then Config.extremeNan largest vs
  else match vs with
    | [] => 0
    | v :: rest => rest.foldl (fun a b =>
        if (if largest then flLt (e4m3 a) (e4m3 b) else flLt (e4m3 b) (e4m3 a)) then b else a) v

/-- The bytes of a summary for 64 keys: per channel the maximum, then the minimum (R205). -/
def summaryBytes (m : List Host.Cell) (key d : Nat) : List Byte :=
  let channel := fun k => (List.range 64).map fun t => memRead m (key + t * d + k)
  ((List.range d).map fun k => extremeOf true (channel k)) ++
  ((List.range d).map fun k => extremeOf false (channel k))

/-- A row of 2 KiB: bytes, and zeros after them. -/
def rowOf (bs : List Byte) : List Byte := (bs ++ List.replicate 2048 0).take 2048

/-- The summary row of the KV page in a frame (Table 9.3). -/
def summaryRow (s : State) (i : Image) (frame : Nat) : List Byte :=
  rowOf ((List.range (regionsOf i)).flatMap fun r => summaryBytes s.hrt.mem (65536 * frame + r * regionBytes i) i.headDim)

/-- A slot's entry in a layer. -/
def slotEntry (x : Session) (layer slot : Nat) : Option (Nat × List (BitVec 32)) :=
  (lookupBy (·.1) slot (((x.layers[layer]?).map (·.slots)).getD [])).map (·.2)

/-- The eviction score row of a KV page: for each region one FP32 a slot; zero in class B (Table 9.3). -/
def scoreRow (i : Image) (x : Session) (q : PagePos) : List Byte :=
  if i.latent then List.replicate 2048 0
  else rowOf ((List.range (regionsOf i)).flatMap fun r => (List.range 64).flatMap fun t =>
    let e := slotEntry x (q.part * i.layersPerPage + r / i.map.perGroup) (64 * q.block + t)
    leBytes 4 (((e.map (·.2)).getD []).getD (q.group * i.map.perGroup + r % i.map.perGroup) 0).toNat)

/-- The position row of a KV page: for each of its layers one position a slot, all ones for a free slot; zero in class B
(Table 9.3). -/
def positionRow (i : Image) (x : Session) (q : PagePos) : List Byte :=
  if i.latent then List.replicate 2048 0
  else rowOf ((List.range i.layersPerPage).flatMap fun l => (List.range 64).flatMap fun t =>
    leBytes 4 (((slotEntry x (q.part * i.layersPerPage + l) (64 * q.block + t)).map (·.1)).getD 0xFFFFFFFF))

/-- The hearth frame of a page of a session. -/
def frameOfPage (x : Session) (page : Nat) : Option Nat :=
  (x.pages.find? (·.index == page)).bind fun p => match p.place with
    | .hearth f => some f
    | _ => none

/-- The KV pages of one block and one layer group, as one number; an image has up to 255 layers. -/
def kvCell (block part : Nat) : Nat := 256 * block + part

/-- A summary page after a commit: the score and position rows as the slots stand; the summary rows of the KV pages whose
summary the commit writes (R205, R216). -/
def summaryPage (s : State) (i : Image) (x : Session) (summed : List Nat) (q : PagePos) (old : List Byte) : List Byte :=
  let kv := fun n => { q with part := 8 * (q.part - i.kvPages) + n }
  let rows := (List.range 8).map fun n =>
    if (kv n).part < i.kvPages && summed.contains (kvCell q.block (kv n).part) then
      ((frameOfPage x (pageAt i (kv n))).map (summaryRow s i)).getD (List.replicate 2048 0)
    else (old.drop (2048 * n)).take 2048
  let side := fun (row : PagePos → List Byte) => (List.range 8).flatMap fun n =>
    if (kv n).part < i.kvPages then row (kv n) else List.replicate 2048 0
  rows.flatten ++ side (scoreRow i x) ++ side (positionRow i x) ++ List.replicate 16384 0

/-! ### Page writes (R107, R140) -/

/-- What a commit does to pages: the pages it writes, the slots it writes in each layer, the blocks and layer groups whose
summaries it writes. -/
structure PageWrites where
  pages  : List Nat
  writes : List Writes := []
  summed : List Nat := []
  deriving DecidableEq, Repr

/-- A page's content after a commit. -/
def pageContent (s : State) (i : Image) (x : Session) (w : PageWrites) (page : Nat) (old : List Byte) : List Byte :=
  let h := sessionHandle s x
  if page < i.statePages then statePage i x page
  else match pagePos i page with
    | some q => if q.part < i.kvPages then kvPage i h x.wseq w.writes q old else summaryPage s i x w.summed q old
    | none => (Config.kvContent h page x.wseq ++ List.replicate 65536 0).take 65536

/-- Pages written in the frames they lie in. -/
def writeContents (s : State) (x : Session) (w : PageWrites) (pages : List Nat) : State :=
  let i := sessionImage s x
  x.pages.foldl (fun s p => match p.place with
    | .hearth f => if pages.contains p.index then writeFrame s f (pageContent s i x w p.index (frameContent s f)) else s
    | _ => s) s

/-- The pages of a session that a commit writes, KV before the summaries that cover it, with the pair of the commit and
their dirty bit (R107, R140). -/
def writePages (s : State) (slot : Nat) (w : PageWrites) : State :=
  match s.session slot with
  | none => s
  | some x =>
    let i := sessionImage s x
    let (sums, kv) := w.pages.partition fun p => (pagePos i p).any fun q => i.kvPages ≤ q.part
    (writeContents (writeContents s x w kv) x w sums).onSession slot fun x =>
      { x with pages := x.pages.map fun p =>
          if w.pages.contains p.index then { p with dirty := true, epoch := x.epoch, wseq := x.wseq }
          else p }

/-- The blocks and layer groups in which slots of the layers lie. -/
def kvCells (i : Image) (slots : List (List Nat)) : List Nat :=
  dedup (slots.zipIdx.flatMap fun (l, j) => l.map fun t => kvCell (t / 64) (j / i.layersPerPage))

/-- KV pages of a block and layer group. -/
def kvOfCell (i : Image) (n : Nat) : List Nat :=
  (List.range i.map.groups).map fun g => pageAt i { block := n / 256, group := g, part := n % 256 }

/-- The blocks and layer groups of blocks. -/
def kvCellsOfBlocks (i : Image) (blocks : List Nat) : List Nat :=
  blocks.flatMap fun k => (List.range i.kvPages).map (kvCell k)

/-- Summary pages of a block. -/
def summaryOfBlock (i : Image) (k : Nat) : List Nat := (pagesOfBlock i k).filter fun p => pageKind i p = 1

/-- The slots that a commit of k positions from p on, with dead entries after them, writes in each layer (R199, R212). -/
def writesOf (i : Image) (x : Session) (p k dead : Nat) : List Writes :=
  let at' := fun (l : List Nat) => l.zip ((upFrom p k).map some ++ List.replicate dead none)
  if i.latent then List.replicate i.layers (at' (upFrom p (k + dead)))
  else (layersOf i x).map fun l => at' (lowestFree l (k + dead))

/-- Blocks whose last position lies in a run of newly committed ones (R216). -/
def filledBlocks (p w : Nat) : List Nat := (upFrom (p / 64) (w / 64 - p / 64))

/-! ### Lookout (R217, R218) -/

/-- An element of a query with the other sign's set to zero. -/
def signedPart (neg : Bool) (b : Byte) : Fl :=
  match e4m3 b with
  | .fin s m e => if s = neg then .fin s m e else flZero
  | v => v

/-- The estimate of a region for a query: the positive elements against the maxima, then the negative ones against the
minima, in one accumulator (R218). -/
def estimate (s : State) (row d : Nat) (query : List Byte) : BitVec 32 :=
  let half := fun (neg : Bool) (base : Nat) (acc : BitVec 32) => (List.range d).foldl (fun a c =>
    macF32 a (signedPart neg (query.getD c 0)) (e4m3 (memRead s.hrt.mem (base + c)))) acc
  half true (row + d) (half false row 0)

/-- A page as a query head sees it: the bank it lies in, its index, the head, the estimate. -/
structure Sight where
  bank  : Nat
  page  : Nat
  head  : Nat
  value : BitVec 32
  deriving DecidableEq, Repr

/-- One estimate ranks before another: larger first, ties to the lower page index. -/
def Sight.before (a b : Sight) : Bool :=
  flLt (f32 b.value) (f32 a.value) ||
    (!flLt (f32 a.value) (f32 b.value) && (decide (a.page < b.page) || (a.page == b.page && decide (a.head < b.head))))

/-- What the query heads of a key head see of one KV page, where it and its summary lie in hearth. -/
def sightsOf (s : State) (i : Image) (x : Session) (layer head : Nat) (q : PagePos) : List Sight :=
  let side := { q with part := i.kvPages + q.part / 8 }
  match frameOfPage x (pageAt i q), frameOfPage x (pageAt i side) with
  | some f, some g =>
    let region := layer % i.layersPerPage * i.map.perGroup + head % i.map.perGroup
    let row := 65536 * g + 2048 * (q.part % 8) + region * (2 * i.headDim)
    let n := i.qHeads / i.kvHeads
    (upFrom (head * n) n).map fun m =>
      { bank := f / 512, page := pageAt i q, head := m,
        value := estimate s row i.headDim (Config.query (sessionHandle s x) layer m x.log.length) }
  | _, _ => []

/-- The 64 best of each bank (R218 step 2). -/
def bestOfBanks (l : List Sight) : List Sight :=
  (dedup (l.map (·.bank))).flatMap fun b => (sortBy Sight.before (l.filter (·.bank == b))).take 64

/-- The pages of the best estimates, a page by the largest of its own (R218 step 3). -/
def selectPages (n : Nat) (l : List Sight) : List Nat := (dedup ((sortBy Sight.before (bestOfBanks l)).map (·.page))).take n

/-- Blocks of a layer that hold positions in use. -/
def layerBlocks (i : Image) (x : Session) (layer : Nat) : List Nat :=
  if i.latent then List.range (ceilDiv (x.log.length - 1) 64)
  else dedup ((((x.layers[layer]?).map usedSlots).getD []).map (· / 64))

/-- Blocks of a layer that a step of n columns reads in full: those of the sink, the recent window and its own positions,
and those without a summary (R216, R217, R355). -/
def fullBlocks (i : Image) (x : Session) (layer n : Nat) : List Nat :=
  let w := x.log.length - 1
  let near := fun p => p < 4 || w ≤ p + 512
  let mine := if i.latent then (upFrom 0 w).filter near
    else ((((x.layers[layer]?).map (·.slots)).getD []).filter fun e => near e.2.1).map (·.1)
  let own := ((writesOf i x w n 0)[layer]?).getD [] |>.map (·.1)
  dedup ((mine ++ own).map (· / 64) ++
    (layerBlocks i x layer).filter fun k => i.latent && !x.summaries.contains k)

/-- Lookout runs for a layer: its retained count exceeds the threshold of the session's class, and lookout_off is 0
(R217). -/
def lookoutRuns (i : Image) (x : Session) (layer : Nat) : Bool :=
  let retained := if i.latent then x.log.length - 1 else (((x.layers[layer]?).map (·.slots.length)).getD 0)
  !bit x.kvclass 26 && decide (lookoutFrom x.kvclass < retained)

/-- lookout_pages as it acts (Table 9.5). -/
def lookoutPages (kvclass : Word) : Nat := clamp 16 1024 (fld kvclass 42 32)

/-- The KV pages that a layer reads in a step of n columns (R217). -/
def layerReads (s : State) (i : Image) (x : Session) (n layer : Nat) : List Nat :=
  let full := fullBlocks i x layer n
  let rest := (layerBlocks i x layer).filter fun k => !full.contains k
  let at' := fun (g k : Nat) => ({ block := k, group := g, part := layer / i.layersPerPage } : PagePos)
  dedup (((List.range i.map.groups).flatMap fun g => full.map fun k => pageAt i (at' g k)) ++
    (List.range i.kvHeads).flatMap fun head =>
      selectPages (lookoutPages x.kvclass) (rest.flatMap fun k => sightsOf s i x layer head (at' (head / i.map.perGroup) k)))

/-- The KV pages that the step's layers read, for the layers for which lookout runs; every other layer reads all (R217). The
query is that of the session's column 0 (R218). -/
def stepReads (s : State) (i : Image) (x : Session) (n : Nat) : List (Nat × List Nat) :=
  ((List.range i.layers).filter (lookoutRuns i x)).map fun layer => (layer, layerReads s i x n layer)

/-- A session's step begins on a stage: its lookout selection is made from the committed summaries (Table 9.4). -/
def beginReads (s : State) (slot n : Nat) : State :=
  s.onSession slot fun x => { x with reads := stepReads s (sessionImage s x) x n }

end Sys2Proof.Machine
end

