-- ==== Sys2Proof/Machine/KvOps.lean ====
section
/-!
DEFINITION. What a commit does to a session's KV: class A slots, scores and eviction (R212 to R215),
summaries (R216), page writes with their pair (R140, R220, R221), and the rebuild of a session (R114).
-/

namespace Sys2Proof.Machine

/-! ### Commits (R140, R213, R216, R220, R221) -/

/-- A commit of a session whose length goes from n to the log's present length, after a step that wrote a number of dead
entries past it: the pair advances, class A slots and scores change, pages and summaries are written (R140, R213, R216,
R220, R221) (notes/assumptions/150.md). -/
def commitKv (s : State) (slot n : Nat) (dead : Nat := 0) : State :=
  match s.session slot with
  | none => s
  | some x =>
    let i := sessionImage s x
    let h := sessionHandle s x
    let p := n - 1
    let w := x.log.length - 1
    let layers := if i.latent then []
      else (layersOf i x).zipIdx.map fun (l, j) => commitLayer h i.kvHeads j (kvBudget x.kvclass) p (w - p) w l
    let fresh := writesOf i x p (w - p) 0
    let touched := if w = p then [] else kvCells i (fresh.map fun l => l.map (·.1))
    let filled := if i.latent then filledBlocks p w else dedup (touched.map (· / 256))
    let before := liveBlocks i x
    let s := s.onSession slot fun x =>
      { x with layers := layers, epoch := s.rdg.map.epoch, wseq := x.wseq + 1,
               summaries := dedup (x.summaries ++ filled), lastCommit := s.localNs }
    let sums := if i.latent then filled else dedup (before ++ liveBlocks i { x with layers := layers })
    writePages s slot
      { pages := List.range i.statePages ++ (touched.map (kvOfCell i)).flatten ++ (sums.map (summaryOfBlock i)).flatten,
        writes := writesOf i x p (w - p) dead,
        summed := if i.latent then kvCellsOfBlocks i filled else touched }

/-- Copies of the pages a commit wrote, for a class 3 session (R346). -/
def sendPageCopies (s : State) (slot : Nat) : State :=
  match s.session slot with
  | none => s
  | some x =>
    if x.durability ≠ 3 || !twinServes s then s
    else
      let i := sessionImage s x
      x.pages.foldl (fun s p =>
        if p.wseq = x.wseq then sendBuddy s x p.index p.epoch p.wseq (codedOf s i false p) else s) s

/-- Copies of everything that a session's class copies, as it stands: record and log; every page of a class 3 session, the
coded pages of a PARKED class 2 session (R102, R346, R349). `all` sends the pages of class 2 in any state (R143). -/
def sendFresh (s : State) (slot : Nat) (all : Bool := false) : State :=
  let s := sendRecordCopy s slot
  match s.session slot with
  | none => s
  | some x =>
    if twinServes s && (x.durability = 3 || (x.durability = 2 && (all || x.state = .parked))) then
      let i := sessionImage s x
      x.pages.foldl (fun s p =>
        if p.index < 0xFF0000 then sendBuddy s x p.index p.epoch p.wseq (codedOf s i false p) else s) s
    else s

/-! ### Pages that fail (R142, R163 to R165) -/

/-- What a comparison decides for one page (Table 6.11): the home copy stands, the twin's is taken, the two
conflict, or neither serves. `repaired` is the count and event: 0 none, 2 a lower pair, 3 a failed copy. -/
inductive CopyVerdict where
  | home (repaired : Nat)
  | twin (repaired : Nat)
  | conflict
  | lost
  deriving DecidableEq, Repr

/-- Pairs ordered by epoch, then by write sequence (R140). -/
def pairLe (a b : Nat × Nat) : Bool := decide (a.1 < b.1) || (a.1 == b.1 && decide (a.2 ≤ b.2))

/-- Table 6.11. `home` is the home copy's pair and tag where it is intact, `homePair` the pair recorded for
it (notes/assumptions/104.md). -/
def compareCopies (home : Option ((Nat × Nat) × BitVec 128)) (homePair : Nat × Nat)
    (t : Option TwinCopy) : CopyVerdict :=
  match home, t with
  | some (p, tag), some c =>
    let q := (c.epoch, c.wseq)
    if c.intact then
      if p = q then (if tag = c.tag then .home 0 else .conflict)
      else if pairLe q p then .home 2 else .twin 2
    else if c.known && pairLe q p then .home 3
    else .lost
  | some _, none => .home 0
  | none, some c =>
    if c.intact && pairLe homePair (c.epoch, c.wseq) then .twin 3 else .lost
  | none, none => .lost

/-- The code corrects one symbol in error; more are detected (R163, notes/assumptions/129.md). -/
def corrects (r : ReadError) : Bool := r.symbols == 1

/-- Corrected columns counted (R164). -/
def countCorrected (s : State) (e n : Nat) : State :=
  if n = 0 then s
  else (s.onEmber e fun x => { x with corrected := sat 16 (x.corrected + n) }).onHrt fun h =>
    { h with corrected := sat 32 (h.corrected + n) }

/-- An uncorrectable read counted (Tables 7.12, 7.16). -/
def countUncorrectable (s : State) (e : Nat) : State :=
  (s.onEmber e fun x => { x with uncorrectable := bump 8 x.uncorrectable }).onHrt fun h =>
    { h with uncorrectable := bump 16 h.uncorrectable, ueSeen := true, ueDie := emberDie e, ueBank := e % 128 }

/-- A page in hearth fails its check: its place is lost until R142 decides, at the session's next phase, between the
twin's copy and a rebuild (Table 7.8, R113). -/
def pageFails (s : State) (x : Session) (p : Page) : State :=
  freeFrames (setPage s x.slot { p with place := .lost .poisoned }) [p]

/-- The page of a session in whose frame a column lies. -/
def pageHit (x : Session) (r : ReadError) : Option Page :=
  x.pages.find? fun p => match p.place with
    | .hearth f => f == 512 * r.ember + r.row / 32
    | _ => false

/-- The grates' reads of a session's hearth pages meet errors: corrected columns are counted, a page with any other fails
its check (R164, R165). -/
def grateReads (s : State) (x : Session) (errs : List ReadError) : State :=
  errs.foldl (fun s r =>
    match (s.session x.slot).bind fun y => (pageHit y r).map fun p => (y, p) with
    | none => s
    | some (y, p) =>
      if corrects r then countCorrected s r.ember 1 else pageFails (countUncorrectable s r.ember) y p) s

/-- The twin's copy that stands in for a hearth page that has failed its check: one that is intact, decodes, and whose
pair is not lower (Table 6.11). -/
def standIn (x : Session) (twin : List TwinCopy) (p : Page) : Option (Page × List Byte) :=
  match p.place with
  | .lost .poisoned =>
    (twin.find? fun c => c.page == p.index).bind fun c =>
      if p.index < 0xFF0000 && 2 ≤ x.durability && compareCopies none (p.epoch, p.wseq) (some c) == .twin 3 then
        (decodePage c.data).map fun d => ({ p with epoch := c.epoch, wseq := c.wseq }, d)
      else none
  | _ => none

/-- Pages of a RESIDENT session that failed their check take the twin's copies, where these serve and a frame is free;
each is counted and recorded (R142). -/
def mendPages (s : State) (slot : Nat) (twin : List TwinCopy) : State :=
  match s.session slot with
  | none => s
  | some x =>
    let found := if twinServes s && x.state = .resident then x.pages.filterMap (standIn x twin) else []
    if found.isEmpty then s
    else match placePages s (sessionImage s x) x (found.map (·.1.index)) with
      | none => s
      | some (s', got) =>
        found.foldl (fun s (p, d) => match lookupBy (·.1) p.index got with
          | some (_, f) =>
            let s := setPage (writeFrame s f d) slot { p with place := .hearth f }
            sessionEvent (s.onTie fun t => { t with failedRepaired := bump 16 t.failedRepaired }) x 3 p.index
          | none => s) s'

/-! ### Rebuild (R114) -/

/-- Class A layers of a context taken 64 positions at a time, so that a layer never holds more than its
budget and 64 (R212, R214). -/
def rebuildLayers (handle : Word) (heads budget w : Nat) : Nat → Nat → List Layer → List Layer
  | 0, _, ls => ls
  | n + 1, p, ls =>
    if w ≤ p then ls
    else
      let k := min 64 (w - p)
      rebuildLayers handle heads budget w n (p + k)
        (ls.zipIdx.map fun (l, j) => commitLayer handle heads j budget p k (p + k) l)

/-- The session without KV: everything it held in the tiers is freed (notes/assumptions/62.md). -/
def dropKv (s : State) (slot : Nat) : State :=
  match s.session slot with
  | none => s
  | some x =>
    (freeSessionPages s x).onSession slot fun x =>
      { x with pages := [], layers := [], summaries := [] }

/-- The loss that a session's pages show, if any (R113). -/
def lossOf (x : Session) : Option Status :=
  let codes := x.pages.filterMap fun p => match p.place with
    | .lost why => if p.index < 0xFF0000 then some why else none
    | _ => none
  match codes with
  | [] => none
  | c :: cs => some (cs.foldl (fun a b => if b.beats a then b else a) c)

/-- The rebuild itself: hearth pages for the full context, the committed tokens prefilled, RESIDENT; none where the
hearth tier lacks room (R114). The grammar state and seed stand in the record. The other stages rebuild their shares, and
the twin gets copies of what its class copies (R102). -/
def rebuildOnce (s : State) (slot : Nat) (why : Status) : Option State :=
  match (dropKv s slot).session slot with
  | none => none
  | some x =>
    let s := dropKv s slot
    let i := sessionImage s x
    let w := x.log.length - 1
    let layers := if i.latent then []
      else rebuildLayers (sessionHandle s x) i.kvHeads (kvBudget x.kvclass) w (w + 1) 0 (layersOf i x)
    let s := s.onSession slot fun x => { x with layers := layers }
    let blocks := liveBlocks i { x with layers := layers }
    let want := if w = 0 then [] else missingPages i x blocks
    if !hearthFits s want.length false then none
    else (placePages s i x want).map fun (s, got) =>
      let s := (addPages s slot got).onSession slot fun x =>
        { x with state := .resident, kvLost := none, conflict := false, epoch := s.rdg.map.epoch,
                 wseq := x.wseq + 1, lastCommit := s.localNs,
                 summaries := if i.latent then List.range (w / 64) else blocks }
      let all := if i.latent then writesOf i x 0 w 0 else layers.map fun l => l.slots.map fun e => (e.1, some e.2.1)
      let s := writePages s slot
        { pages := want, writes := all, summed := kvCellsOfBlocks i (if i.latent then List.range (w / 64) else blocks) }
      let s := (sendSlotEntry s slot).onDgn fun d => { d with rebuilds := bump 16 d.rebuilds }
      match s.session slot with
      | some x => sessionEvent (sendFresh (tellShares s x .rebuild) slot) x 1 why.code
      | none => s

/-- Rebuild a session from its token log, room being made for it as R126 makes it; in error the hearth tier has no room
for it, the session is as it was, and the room made stays made (R114, R130). -/
def rebuildKv (s : State) (slot : Nat) (why : Status) : Except State State :=
  let s := makeRoom s fun t => (rebuildOnce t slot why).isSome
  match rebuildOnce s slot why with
  | some t => .ok t
  | none => .error s

/-- With no_rebuild set, the loss stands: the session holds no KV and answers with its code (R114). -/
def giveUpKv (s : State) (slot : Nat) (why : Status) : State :=
  (dropKv s slot).onSession slot fun x => { x with kvLost := some why, state := .resident }

/-- no_rebuild of a session's class (Table 5.11). -/
def noRebuild (x : Session) : Bool := bit x.tclass 3

/-- A phase that takes a time in µs ends after a deadline (R114). -/
def outlasts (s : State) (micros : Nat) (deadline : Option Nat) : Bool :=
  deadline.any fun t => decide (t < s.localNs + us micros)

/-- What R114 makes of a loss that a phase has found: with no_rebuild the code of the loss stands; else the session is
rebuilt and the phase runs from its start, unless the rebuild outlasts the request's deadline. -/
def recoverLoss (s : State) (x : Session) (why : Status) (micros : Nat) (deadline : Option Nat) :
    Except (State × Status) (State × List Status) :=
  if noRebuild x then .error (giveUpKv s x.slot why, why)
  else match rebuildKv s x.slot why with
    | .error s' => .error (s', .tierFull)
    | .ok s' => if outlasts s micros deadline then .error (s', .deadlineMissed) else .ok (s', [.okReplayed])

/-- The loss that a phase of a session meets: on this part, or in a share (R113). -/
def lossFor (x : Session) (how : Recovery) : Option Status :=
  match lossOf x with
  | some why => some why
  | none => shareLoss how.shares

/-- A phase begins on a session that is not PARKED: what its reads of hearth pages meet is counted, pages that fail take
the twin's copies where these serve (R142), and what is lost then is dealt with first (R114). -/
def recover (s : State) (x : Session) (how : Recovery) (deadline : Option Nat) :
    Except (State × Status) (State × List Status) :=
  let s := mendPages (grateReads s x how.errs) x.slot how.twin
  let x := (s.session x.slot).getD x
  match lossFor x how with
  | none => .ok (s, [])
  | some why => recoverLoss s x why how.micros deadline

end Sys2Proof.Machine
end

