-- ==== Sys2Proof/Machine/Residual.lean ====
section
/-!
DEFINITION. The residual stream of a column (R174, R176, R196): where it enters on stage 0, what the layers of a stage and
the steering variants make of it, and the activation frame that carries it on.
-/

namespace Sys2Proof.Machine

/-! ### Layer records of variants (R195) -/

/-- Payload bytes of a layer record by its mode; none for a mode that Table 8.11 does not give. -/
def recordPayload (hidden mode : Nat) : Option Nat :=
  match mode with
  | 0 | 1 => some (2 * hidden)
  | 2 | 3 => some hidden
  | _ => none

/-- A layer record (Table 8.11): layer, mode, the multipliers, the vectors. -/
structure LayerRecord where
  layer     : Nat
  mode      : Nat
  addMult   : BitVec 32
  scaleMult : BitVec 32
  payload   : List Byte
  deriving DecidableEq, Repr

/-- Bytes of a record, its header included. -/
def LayerRecord.size (r : LayerRecord) : Nat := 16 + r.payload.length

/-- The layer records of a variant, one after another; none where they disagree with mode and hidden, or one is over
16,384 bytes (R195, Table 8.13). -/
def readRecords (hidden : Nat) : Nat → List Byte → Option (List LayerRecord)
  | 0, bs => if bs.isEmpty then some [] else none
  | n + 1, bs =>
    if bs.isEmpty then some []
    else
      let h := bs.take 16
      match recordPayload hidden (bfld h 11 8) with
      | none => none
      | some p =>
        if bs.length < 16 + p || 16384 < p then none
        else (readRecords hidden n (bs.drop (16 + p))).map fun l =>
          { layer := bfld h 7 0, mode := bfld h 11 8, addMult := BitVec.ofNat 32 (bfld h 63 32),
            scaleMult := BitVec.ofNat 32 (bfld h 95 64), payload := slice bs 16 p } :: l

/-- a[c]: FP8 in byte c, or BF16 in bytes 2c and 2c + 1; zero in a mode without an add vector (R195, R196). -/
def LayerRecord.addAt (r : LayerRecord) (c : Nat) : Fl :=
  match r.mode with
  | 0 | 2 => e4m3 ((r.payload[c]?).getD 0)
  | 1 => bf16 (BitVec.ofNat 16 (leAt r.payload (2 * c) 2))
  | _ => flZero

/-- s[c]; zero in a mode without a scale vector (R196). -/
def LayerRecord.scaleAt (r : LayerRecord) (hidden c : Nat) : Fl :=
  match r.mode with
  | 0 => e4m3 ((r.payload[hidden + c]?).getD 0)
  | 3 => e4m3 ((r.payload[c]?).getD 0)
  | _ => flZero

/-- h[c] × (1 + scale_mult × s[c]) + add_mult × a[c], each operation rounded to FP32 (R196). -/
def LayerRecord.steer (r : LayerRecord) (hidden c : Nat) (h : BitVec 32) : BitVec 32 :=
  let k := toF32 (flAdd (.fin false 1 0) (f32 (toF32 (flMul (f32 r.scaleMult) (r.scaleAt hidden c)))))
  addF32 (mulF32 h k) (toF32 (flMul (f32 r.addMult) (r.addAt c)))

/-- The variant of a number on an image. -/
def variantAt (i : Image) (n : Nat) : Option Variant := lookupBy (·.number) n i.variants

/-- The record of a layer in a variant of an image; none for variant 0 and for a layer without one (R196). -/
def steeringRecord (i : Image) (variant layer : Nat) : Option LayerRecord :=
  (variantAt i variant).bind fun v => ((readRecords i.hidden 256 v.records).getD []).find? (·.layer == layer)

/-! ### The stream through a stage (R174, R196) -/

/-- The stream at the end of a layer: what the layer makes of it, then the variant's record of the layer (R196). -/
def throughLayer (i : Image) (h : Word) (variant position : Nat) (stream : List (BitVec 32)) (layer : Nat) :
    List (BitVec 32) :=
  (List.range i.hidden).map fun c =>
    let v := Config.layer i.id layer h position stream c
    match steeringRecord i variant layer with
    | none => v
    | some r => r.steer i.hidden c v

/-- The stream at the end of a stage, through its layers in order (R174). -/
def throughStage (i : Image) (h : Word) (variant position : Nat) (stream : List (BitVec 32)) : List (BitVec 32) :=
  (upFrom i.layerFirst i.layers).foldl (throughLayer i h variant position) stream

/-- The stream that enters stage 0: the token's row of the embedding table (R174). -/
def embedded (i : Image) (token : Nat) : List (BitVec 32) := (List.range i.hidden).map (Config.embedding i.id token)

/-- A column's stream as an activation frame holds it, in BF16 (R176). -/
def framed (stream : List (BitVec 32)) : List (BitVec 16) := stream.map fun v => toBf16 (f32 v)

/-- A column's stream out of an activation frame. -/
def unframed (column : List (BitVec 16)) : List (BitVec 32) := column.map fun v => toF32 (bf16 v)

/-- The columns that ride on a frame: for each its record and position (R176). -/
def frameColumns (records : List ColumnRecord) : List (ColumnRecord × Nat) :=
  records.flatMap fun r => (upFrom r.position r.columns).map fun p => (r, p)

/-- The columns of a frame after a later stage's layers (R174, R176). -/
def stageColumns (i : Image) (f : ActFrame) : List (List (BitVec 16)) :=
  ((frameColumns f.records).zip f.residual).map fun ((r, p), col) =>
    framed (throughStage i r.handle r.variant p (unframed col))

/-- The per-column record of a session (R176, R177): its length, and columns from a position on. -/
def columnRecord (s : State) (x : Session) (columns position : Nat) : ColumnRecord :=
  { handle := sessionHandle s x, length := x.log.length, columns := columns, position := position, cls := x.cls,
    durability := x.durability, variant := x.variant }

/-- The columns of a session's input tokens after stage 0's layers (R174). -/
def firstColumns (s : State) (i : Image) (x : Session) (position : Nat) (tokens : List Nat) : List (List (BitVec 16)) :=
  tokens.zipIdx.map fun (t, k) =>
    framed (throughStage i (sessionHandle s x) x.variant (position + k) (embedded i t))

end Sys2Proof.Machine
end

