-- ==== Sys2Proof/Machine/Batches.lean ====
section
/-!
DEFINITION. Sweep batches (R179, R180), drafted positions (R182, R236), variant residency (R198) and the
activation frames stage 0 sends at a token boundary (R176, R177, R220).
-/

namespace Sys2Proof.Machine

/-- Columns a batch of an image allows: 32, W2 images 16 (R179). -/
def batchWidth (i : Image) : Nat := if i.wfmtMask.testBit 3 then 16 else 32

/-- Columns of a batch in use. -/
def Batch.used (b : Batch) : Nat := (b.columns.map (·.2)).sum

/-- The batch with a number. -/
def State.batch (s : State) (id : Nat) : Option Batch := lookupBy (·.id) id s.ses.batches

/-- Change a batch, if it is there. -/
def State.onBatch (s : State) (id : Nat) (f : Batch → Batch) : State :=
  s.onSess fun t => { t with batches := t.batches.map fun b => if b.id = id then { f b with id := id } else b }

/-- Change an image slot's record. -/
def State.onImage (s : State) (slot : Nat) (f : Image → Image) : State :=
  s.onImg fun m => { m with slots := upsert (·.slot) { f (s.image slot) with slot := slot } m.slots }

/-- Place of a descriptor in order of arrival. -/
def arrivalOf (s : State) (o : Origin) : Nat := (s.desc.takeWhile fun d => d.origin != o).length

/-- The request-table priority of a slot (R116). -/
def priorityOf (s : State) (slot : Nat) : Nat := ((lookupBy (·.1) slot s.ses.priority).map (·.2)).getD 0

/-- The next recorded step of a replay. -/
def nextReplay (g : Gen) : Option ReplayStep := (g.replay.getD [])[g.step]?

/-- Columns a session asks for at admission: one, or those of its next recorded step (R382). -/
def columnsWanted (g : Gen) : Nat :=
  match g.replay with
  | none => 1
  | some _ => ((nextReplay g).map fun r => r.tokens.length).getD 1

/-- A session waits for a column: its GENERATE runs, it holds none, it is past its prefill, and it does not
sit out for flue room (R80) or a move, whose hand-over, once armed, holds it out of the next batch (R108, R109). -/
def wantsColumn (s : State) (x : Session) : Bool :=
  match x.gener with
  | none => false
  | some g =>
    g.batch.isNone && x.prefill.isNone && x.parkWaits.isNone && x.state == .resident &&
    !(x.move.any fun m => m.skip || m.armed) &&
    (!g.stalled || match g.origin with
      | .qp q _ => decide (0 < flueRoom s q)
      | .ridge _ _ => true)

/-- Which of two waiting sessions is admitted first: replays last (R382); by priority in compatibility mode
(R116), else by bellows class; then in order of arrival (R180). -/
def admittedBefore (s : State) (a b : Session) : Bool :=
  let rank := fun (x : Session) => if s.host.compat then priorityOf s x.slot else x.cls
  let rep := fun (x : Session) => x.gener.any fun g => g.replay.isSome
  let arr := fun (x : Session) => (x.gener.map fun g => arrivalOf s g.origin).getD 0
  if rep a != rep b then rep b
  else decide (rank b < rank a) || (rank a == rank b && decide (arr a < arr b))

/-- Waiting sessions of an image slot in the order of admission. -/
def waitingFor (s : State) (image : Nat) : List Session :=
  sortBy (admittedBefore s) (s.ses.table.filter fun x => wantsColumn s x && iSlot x.image == image)

/-- Variants of an image that sessions with columns use. -/
def heldVariants (s : State) (image : Nat) : List Nat :=
  dedup ((s.ses.table.filter fun x => iSlot x.image == image && x.gener.any fun g => g.batch.isSome).map
    (·.variant))

/-- Change variant n of an image. -/
def onVariant (s : State) (image n : Nat) (f : Variant → Variant) : State :=
  s.onImage image fun i => { i with variants := i.variants.map fun v => if v.number = n then f v else v }

/-- Make a variant resident for an admission: one that is resident already, or a slot that is free, or the
least recently used of those no column holds; none where every slot is held (R198). -/
def makeResident (s : State) (image n : Nat) : Option State :=
  if n = 0 then some s
  else
    let i := s.image image
    let now := fun s => onVariant s image n fun v => { v with resident := true, used := s.localNs }
    let res := i.variants.filter (·.resident)
    if res.any fun v => v.number == n then some (now s)
    else if res.length < i.variantSlots then some (now s)
    else
      let held := heldVariants s image
      match sortBy (fun (a b : Variant) => decide (a.used < b.used))
          (res.filter fun v => !held.contains v.number) with
      | [] => none
      | v :: _ => some (now (onVariant s image v.number fun v => { v with resident := false }))

/-- A session takes columns of a batch. -/
def takeColumns (s : State) (id slot n : Nat) : State :=
  (s.onBatch id fun b => { b with columns := b.columns ++ [(slot, n)] }).onSession slot fun x =>
    { x with gener := x.gener.map fun g => { g with batch := some id, stalled := false } }

/-- Admit waiting sessions to the free columns of a batch (R180 step 2, R198). -/
def admitColumns (s : State) (id : Nat) : State :=
  match s.batch id with
  | none => s
  | some b =>
    (waitingFor s b.image).foldl (fun s x =>
      match s.batch id, x.gener with
      | some b, some g =>
        let n := columnsWanted g
        if b.used + n ≤ batchWidth (s.image b.image) then
          match makeResident s b.image x.variant with
          | some s' => takeColumns s' id x.slot n
          | none => s
        else s
      | _, _ => s) s

/-- Store slots of an image's draft store in use (R236). -/
def draftSlotsUsed (s : State) (image : Nat) : Nat :=
  (s.ses.table.filter fun x => iSlot x.image == image && x.gener.any (·.store)).length

/-- Drafts R182 allows a session with free columns left: the smallest of its five bounds. -/
def draftBound (s : State) (x : Session) (g : Gen) (free : Nat) : Nat :=
  let i := sessionImage s x
  let cap := min 8 (fld s.ses.decodeCtl 3 0)
  if !bit s.ses.decodeCtl 4 || !i.draft || g.replay.isSome then 0
  else min (min g.specLen cap) (min free (min (x.context - x.log.length - 1)
    (if g.maxTokens = 0 then g.specLen else g.maxTokens - g.committed - 1)))

/-- The place of a session's prefill work in the queues (Table 10.2): by bellows class in strict priority, in compatibility
mode by the priority of R116. -/
def prefillRank (s : State) (x : Session) : Nat :=
  if s.host.compat then 7 - priorityOf s x.slot else 7 - x.cls

/-- The drafted positions of one session: a store slot at its first (R236); none until its window is filled
(R237). -/
def planSession (s : State) (slot free : Nat) : State × Nat :=
  match s.session slot with
  | none => (s, 0)
  | some x =>
    match x.gener with
    | none => (s, 0)
    | some g =>
      let d := draftBound s x g free
      let set := fun (g : Gen) => s.onSession slot fun x => { x with gener := some g }
      if d = 0 then (set { g with planned := 0, drafts := [] }, 0)
      else if !g.store then
        if draftSlotsUsed s (iSlot x.image) < (sessionImage s x).draftSlots then
          if x.log.length ≤ 1 then
            (set { g with store := true, refilled := true, planned := d, drafts := [] }, d)
          else (queueItem (set { g with store := true, planned := 0, drafts := [] }) .prefill (prefillRank s x) x.tenant, 0)
        else (set { g with planned := 0, drafts := [] }, 0)
      else if g.refilled then (set { g with planned := d, drafts := [] }, d)
      else (set { g with planned := 0, drafts := [] }, 0)

/-- Drafted positions for the columns that are left, in the admission order (R180 step 3, R182). -/
def planDrafts (s : State) (id : Nat) : State :=
  match s.batch id with
  | none => s
  | some b =>
    let order := sortBy (admittedBefore s) (b.columns.filterMap fun c => s.session c.1)
    let room := batchWidth (s.image b.image) - b.used
    (order.foldl (fun (s, free) x =>
      let (s', d) := planSession s x.slot free
      ((s'.onBatch id fun b =>
        { b with columns := b.columns.map fun c => if c.1 = x.slot then (c.1, c.2 + d) else c }),
       free - d)) (s, room)).1

/-- Sessions of an image that have sat out a step for a move come back for the next one (R109). -/
def endSkips (s : State) (image : Nat) : State :=
  s.onSess fun t =>
    { t with table := t.table.map fun x =>
        if iSlot x.image = image && x.gener.any (fun g => g.batch.isNone) then
          { x with move := x.move.map fun m => { m with skip := false } }
        else x }

/-- Sessions that leave a batch at its token boundary: their generation has ended, or they sit out (R80,
R109, R180 step 1). A column left over from the step before goes back to its base count. -/
def dropEnded (s : State) (id : Nat) : State :=
  match s.batch id with
  | none => s
  | some b =>
    b.columns.foldl (fun s (slot, _) =>
      match s.session slot with
      | none => s
      | some x =>
        let x : Session := { x with move := x.move.map fun m => { m with skip := m.sitsOut } }
        let s := s.putSession x
        let out : Bool := match x.gener with
          | none => true
          | some g => g.stalled || g.replay.isSome || x.move.any (fun m => m.skip || m.armed) || x.state != .resident
        if out then
          (s.onBatch id fun b => { b with columns := b.columns.filter fun c => c.1 != slot }).onSession slot
            fun x => { x with gener := x.gener.map fun g => { g with batch := none } }
        else s.onBatch id fun b =>
          { b with columns := b.columns.map fun c => if c.1 = slot then (slot, 1) else c }) s

/-- Input tokens of a session's first n columns: its last committed token, then its drafts, or the recorded tokens of a
replay (R182, R382). -/
def inputTokens (x : Session) (n : Nat) : List Nat :=
  let next := match x.gener with
    | none => []
    | some g => match nextReplay g with
      | some r => r.tokens.map (·.1)
      | none => g.drafts.map (·.1)
  (((x.log.getLast?).map (·.1)).getD 0 :: next).take n

/-- The part that takes stage 1 of an image, where it has further stages. -/
def secondStage (i : Image) : Option Nat := if i.stages ≤ 1 then none else i.group[1]?

/-- The activation frame of a batch to the next stage: the columns of its sessions after stage 0's layers, and commit
records of sessions that have left (R174, R176, R220). It goes under the class of its first column's session
(notes/assumptions/133.md). -/
def sendActivation (s : State) (i : Image) (b : Batch) : State :=
  match secondStage i with
  | none => s
  | some next =>
    let cols := b.columns.filterMap fun c => (s.session c.1).map fun x => (x, c.2)
    let cls := ((cols.head?).map (·.1.cls)).getD 0
    sendFrame s next 2 cls (.activation
      { image := i.id.toNat, batch := b.id, step := b.step, epoch := s.rdg.map.epoch,
        records := (cols.map fun (x, n) => columnRecord s x n (x.log.length - 1)) ++ b.leaving,
        residual := cols.flatMap fun (x, n) => firstColumns s i x (x.log.length - 1) (inputTokens x n) })

/-- A session's drafts of the step are there (R181). -/
def draftsDone (s : State) (slot : Nat) : Bool :=
  match (s.session slot).bind (·.gener) with
  | none => true
  | some g => g.planned ≤ g.drafts.length

/-- A batch's step goes to the stages once its columns are drafted (R181, R238): its activations go on where the image has
further stages. -/
def launchStep (s : State) (id : Nat) : State :=
  match s.batch id with
  | none => s
  | some b =>
    if b.columns.all fun c => draftsDone s c.1 then
      let s := b.columns.foldl (fun s c => beginReads s c.1 c.2) s
      sendActivation (s.onBatch id fun b => { b with drafting := false, leaving := [] }) (s.image b.image) b
    else s.onBatch id fun b => { b with drafting := true }

/-- Layer items of a step on a stage: one for each of the five stove rows of Table 8.2, layer by layer (R229). -/
def layerItems (i : Image) : Nat := 5 * i.layers

/-- A batch's step begins: its layer work is queued on decode assist (Table 10.2), the masks of its first columns on the
kindling (R178), and it goes to the stages. -/
def goStep (s : State) (id : Nat) : State :=
  match s.batch id with
  | none => s
  | some b =>
    let tenant := ((b.columns.head?.bind fun c => s.session c.1).map (·.tenant)).getD 0
    let s := if b.columns.isEmpty then s else queueItems s (layerItems (s.image b.image)) .decode 1 tenant
    let s := b.columns.foldl (fun s c => match s.session c.1 with
      | some x => if x.gener.any fun g => g.grammar && !g.maskOff then kindleMask s x 0 else s
      | none => s) s
    launchStep (s.onBatch id fun b => { b with resting := false }) id

/-- A batch's next step begins, with the commit records of the sessions that have left; while the part quiesces it waits
at its token boundary (R180, R220, R371). -/
def beginStep (s : State) (id : Nat) (left : List Session) : State :=
  let waits := s.fwu.attemptAt.isSome && !((s.batch id).any fun b => b.columns.isEmpty)
  let s := s.onBatch id fun b =>
    { b with back := false, resting := waits, leaving := left.map fun x => columnRecord s x 0 0 }
  if waits then s else goStep s id

/-- Batches that waited at their token boundary for the end of a quiesce attempt begin their steps (R371). -/
def resumeSteps (s : State) : State :=
  ((s.ses.batches.filter (·.resting)).map (·.id)).foldl goStep s

/-- Batches that the part runs: its own with columns, and those that reach it as a later stage (R179). -/
def liveBatches (s : State) : Nat :=
  (s.ses.batches.filter fun b => !b.columns.isEmpty).length + s.ses.passing.length

/-- The lowest number from one on that no batch has. -/
def freeNumber (used : List Nat) : Nat → Nat → Nat
  | 0, n => n
  | k + 1, n => if used.contains n then freeNumber used k (n + 1) else n

/-- A new batch opens when every batch of the image is full and the part runs fewer than 128; of the group's parts stage 0
knows its own batches (R179, R180; notes/assumptions/134.md; notes/assumptions/72.md). -/
def openBatches : Nat → State → Nat → State
  | 0, s, _ => s
  | n + 1, s, image =>
    let mine := s.ses.batches.filter fun b => b.image == image
    let full := mine.all fun b => b.used = batchWidth (s.image image)
    if full && liveBatches s < 128 && !(waitingFor s image).isEmpty then
      let id := freeNumber (s.ses.batches.map (·.id)) s.ses.batches.length 0
      let s' := admitColumns (s.onSess fun t =>
        { t with batches := t.batches ++ [{ id := id, image := image }] }) id
      match s'.batch id with
      | some b =>
        if b.columns.isEmpty then s else openBatches n (beginStep (planDrafts s' id) id []) image
      | none => s
    else s

/-- Batches without columns are over. -/
def closeEmpty (s : State) : State :=
  s.onSess fun t => { t with batches := t.batches.filter fun b => !b.columns.isEmpty }

/-- The token boundary of a batch (R180): ended sessions leave, waiting ones are admitted, drafts are given
out, the batch's next step begins. `before` are the sessions that had columns in the step. -/
def tokenBoundary (s : State) (id : Nat) (before : List Nat) : State :=
  match s.batch id with
  | none => s
  | some b =>
    let s := planDrafts (admitColumns (dropEnded (endSkips s b.image) id) id) id
    let s := s.onBatch id fun b => { b with step := b.step + 1 }
    let now := ((s.batch id).map fun b => b.columns.map (·.1)).getD []
    let left := (before.filter fun t => !now.contains t).filterMap s.session
    closeEmpty (openBatches 128 (beginStep s id left) b.image)

/-- Sessions that wait for a column and may take one again get a batch, where those of their image are full (R80, R111,
R180). -/
def readmit (s : State) : State :=
  (dedup ((s.ses.table.filter (wantsColumn s)).map fun x => iSlot x.image)).foldl (openBatches 128) s

end Sys2Proof.Machine
end

