-- ==== Sys2Proof/Machine/PoolOps.lean ====
section
/-!
DEFINITION. The pool as shared operations (R297 to R302, R129): extents lent and borrowed, their clear, their
loss, relocation, and what a commit about an extent does on its lender and its borrower.
-/

namespace Sys2Proof.Machine

/-! ### Extents -/

/-- The extent this part has lent under a handle. -/
def State.lentOf (s : State) (h : Word) : Option Lent := s.rdg.lent.find? fun l => l.handle == h

/-- Change a lent extent. -/
def State.onLent (s : State) (h : Word) (f : Lent → Lent) : State :=
  s.onRdg fun r => { r with lent := r.lent.map fun l => if l.handle = h then f l else l }

/-- The extent this part has borrowed, or has claimed. -/
def State.borrowedOf (s : State) (h : Word) : Option Borrowed := s.rdg.borrowed.find? fun b => b.handle == h

/-- Change a borrowed extent. -/
def State.onBorrowed (s : State) (h : Word) (f : Borrowed → Borrowed) : State :=
  s.onRdg fun r => { r with borrowed := r.borrowed.map fun b => if b.handle = h then f b else b }

/-- The map's entry of an extent. -/
def State.mapExtent (s : State) (h : Word) : Option MapExtent := s.rdg.map.extents.find? fun e => e.handle == h

/-- A borrowed extent holds no granule of this part: no page and no region (R299). -/
def extentEmpty (s : State) (h : Word) : Bool :=
  (extentRanges s h).isEmpty && !(s.rdg.regions.any fun r => r.extents.contains h)

/-- grace_us in ns: units of 100 µs, 0 acting as 1 (Table 13.15). -/
def graceNs (s : State) : Nat := us (100 * max 1 (fld s.rdg.poolCtl 15 0))

/-- The grace period of an extent: grace_us as it stood when its REVOKING committed (Table 19.11). -/
def graceOf (s : State) (l : Lent) : Nat := l.grace.getD (graceNs s)

/-- Room for extents: hearth frames outside the reserve, foothill granules (R298). -/
def extentRoom (s : State) (tier count : Nat) : Bool :=
  if tier = 0 then decide (framesUsed s + genReserve s + 1024 * count ≤ hearthRoom s)
  else foothillFits s (131072 * count)

/-- The lowest free extent indices of a tier (Table 13.4). -/
def freeExtents (s : State) (tier count : Nat) : List Nat :=
  ((List.range 32768).filter fun i => !s.rdg.lent.any fun l => l.tier == tier && l.index == i).take count

/-- The next lend count of an extent, never 0 (R297). -/
def nextLend (s : State) (tier index : Nat) : Nat :=
  let last := ((lookupBy (·.1) (32768 * tier + index) s.rdg.lendCounts).map (·.2)).getD 0
  if last + 1 = 2 ^ 32 then 1 else last + 1

/-- Note a lend count as used. -/
def useLend (s : State) (tier index lends : Nat) : State :=
  s.onRdg fun r => { r with lendCounts := upsert (·.1) (32768 * tier + index, lends) r.lendCounts }

/-- A lent extent goes to the clear with verification (R299, R301, R341; notes/assumptions/92.md). -/
def clearLent (s : State) (h : Word) : State :=
  (s.onLent h fun l => { l with data := [] }).onTie fun t =>
    { t with uncleared := t.uncleared ++ [{ tenant := 0, granules := 131072, extent := some h }] }

/-- Result of EXTENT_REVOKE: whether the extent was BORROWED, and the µs of its grace period (R301). -/
def revokeResult (l : Lent) : Word :=
  word [putBit 0 l.wasBorrowed, put 63 32 (match l.graceAt, l.graceEnd with
    | some a, some b => (b - a) / 1000
    | _, _ => 0)]

/-- A lent extent returns to the lender's own use, and every EXTENT_REVOKE on it completes (Table 13.7 step 7). -/
def returnLent (s : State) (h : Word) : State :=
  match s.lentOf h with
  | none => s
  | some l =>
    let s := s.onRdg fun r => { r with lent := r.lent.filter fun l => l.handle != h }
    l.revokers.foldl (fun s o => complete s o [] (revokeResult l)) s

/-- A lent extent has been cleared: a revoked one leaves the map and returns to the lender's own use
(Table 13.7 step 7), a released one is offered under the next lend count (R299). -/
def extentCleared (s : State) (h : Word) : State :=
  match s.lentOf h with
  | none => s
  | some l =>
    if l.state = 2 || l.state = 3 || !l.revokers.isEmpty then 
      (if (s.mapExtent h).isSome then propose s (.extentGone h) else returnLent s h)
    else
      let n := nextLend s l.tier l.index
      let h' := mkExtent s.rdg.part l.tier l.index n
      let s := (useLend s l.tier l.index n).onLent h fun l =>
        { l with handle := h', lends := n, state := 0, borrower := 0, claimed := false, graceAt := none, grace := none,
                 graceEnd := none, wasBorrowed := false }
      propose (propose s (.extentGone h)) (.extent h' 0 0)

/-! ### Loss and relocation -/

/-- Copies into an extent are given up: their pages stay at their source (R121). -/
def dropTargets (s : State) (h : Word) : State :=
  let into : Page → Bool := fun p => match p.target with
    | some (.pool e _) => e == h
    | _ => false
  (s.onSess fun t => { t with table := t.table.map fun x =>
    { x with pages := x.pages.map fun p => if into p then { p with target := none } else p } }).onTie fun t =>
      { t with poolQueue := t.poolQueue.filter fun w => w.extent != h }

/-- Pages held in an extent are lost (R113, R120, R300, R314). -/
def loseExtent (s : State) (h : Word) (why : Status) : State :=
  let inIt : Page → Bool := fun p => match p.place with
    | .pool e _ _ _ => e == h
    | _ => false
  let s := (dropTargets s h).onSess fun t =>
    { t with
      table := t.table.map fun x =>
        { x with pages := x.pages.map fun p =>
            if inIt p then { p with place := .lost why, target := none } else p,
                 parkPlaced := x.parkPlaced.map fun p =>
            if inIt p then { p with place := .lost why, target := none } else p } }
  s.onRdg fun r =>
    { r with
      borrowed := r.borrowed.filter fun b => b.handle != h,
      regions := r.regions.map fun g =>
        { g with lostPages := dedup (g.lostPages ++ ((g.pages.zipIdx.filter fun (p, _) => match p with
            | .pool e _ => e == h
            | _ => false).map (·.2))) } }

/-- Empty granted extents for the pages of regions, in the order of R124 (R299). -/
def emptyExtents (s : State) : List Word :=
  (s.rdg.borrowed.filter fun b => b.granted && !b.closing && extentEmpty s b.handle).map (·.handle)

/-- The pages of regions in a revoked extent move at once: to the home foothill tier if it has room, else to
another extent, whose lender gets them as page data (R129, R314). -/
def relocateRegions (s : State) (h : Word) : State :=
  s.rdg.regions.foldl (fun s r =>
    if !r.extents.contains h then s
    else if foothillFits s 131072 then
      s.onRegion r.slot fun r =>
        { r with extents := r.extents.filter (· != h),
                 spareGranules := r.spareGranules + (if (r.pages.any fun p => match p with
                   | .pool e _ => e == h
                   | _ => false) then 0 else 131072),
                 pages := r.pages.map fun p => match p with
                   | .pool e _ => if e = h then .foothill else p
                   | _ => p }
    else match emptyExtents s with
      | [] => s
      | e' :: _ =>
        let mine := r.pages.zipIdx.filter fun (p, _) => match p with
          | .pool e _ => e == h
          | _ => false
        let s := mine.foldl (fun s (_, page) =>
          sendFrame s (hPart e') 8 0 (.page (.lent e') (page % 1024)
            ((List.range 128).map fun g => poolGranule s r (65536 * page + 512 * g)).flatten) r.tenant 0 e') s
        s.onRegion r.slot fun r =>
          { r with extents := (r.extents.filter (· != h)) ++ [e'],
                   pages := r.pages.map fun p => match p with
                     | .pool e n => if e = h then .pool e' n else p
                     | _ => p }) s

/-- Granules on their way to the home foothill tier. -/
def homeward (s : State) : Nat :=
  (s.ses.table.map fun x => ((x.pages.filter fun p => p.target == some .home).map pageGranules).sum).sum

/-- One page of a session in a revoked extent begins its relocation: to the home foothill tier if it has room, else to
another lender's extent chosen under R124 (R129). -/
def relocatePage (h : Word) (s : State) (x : Session) (p : Page) : State :=
  match p.place, p.target with
  | .pool e _ n _, none =>
    if e ≠ h then s
    else if foothillFits s (homeward s + n) then startCopy s x p .home
    else match poolPlaces s (orderedExtents s x none) [n] with
      | some ((e', f) :: _) => startCopy s x p (.pool e' f)
      | _ => s
  | _, _ => s

/-- The pages of sessions in a revoked extent are relocated, each switching at its own MIGRATION_SWITCH (R121, R129)
(notes/assumptions/155.md). -/
def relocatePages (s : State) (h : Word) : State :=
  s.ses.table.foldl (fun s x => x.pages.foldl (fun s p => relocatePage h s x p) s) s

/-- Pages still in extents that are being revoked, whose relocation has been stopped or has failed, begin again (R122,
R129). -/
def relocateAgain (s : State) : State :=
  (s.rdg.borrowed.filter (·.closing)).foldl (fun s b => relocatePages s b.handle) s

/-- This part claims an extent of another part's. -/
def claimExtent (s : State) (extent : Word) : State :=
  let part := hPart extent
  let s := s.onRdg fun r => { r with borrowed := r.borrowed ++ [{ handle := extent, lender := part }] }
  (sendRequest s part 0 (.claim extent) 0 extent).1

/-- Extents OFFERED by other parts that are up, and not claimed here (R299). -/
def offeredExtents (s : State) : List Word :=
  (s.rdg.map.extents.filter fun e => e.state == 0 && hPart e.handle != s.rdg.part && s.partUp (hPart e.handle) &&
    (s.borrowedOf e.handle).isNone).map (·.handle)

/-- Claims of this part that have not been granted yet. -/
def claimsOpen (s : State) : Bool := s.rdg.borrowed.any fun b => !b.granted

/-! ### What a commit about an extent does here -/

/-- EXTENT_LEND completes once every extent of it is OFFERED: the handles go to param_ptr (R298). -/
def finishLend (s : State) (o : Origin) : State :=
  let mine := s.rdg.lent.filter fun l => l.lender == some o
  match s.descriptor o with
  | none => s
  | some d =>
    if mine.any (fun l => (s.mapExtent l.handle).isNone) then s
    else
      let s := deliver s o (dParam d.raw) ((mine.map fun l => leBytes 8 l.handle.toNat).flatten)
      let s := s.onRdg fun r =>
        { r with lent := r.lent.map fun l =>
            if l.lender = some o then { l with lender := none } else l }
      complete s o [] (BitVec.ofNat 64 mine.length)

/-- The lender's side of an extent's new state (Tables 13.6, 13.7, R299, R302). -/
def lenderExtent (s : State) (h : Word) (state borrower : Nat) : State :=
  match s.lentOf h with
  | none => s
  | some l =>
    let s := s.onLent h fun l =>
      { l with state := state, claimed := false,
               borrower := if state = 1 then borrower else l.borrower }
    match state with
    | 0 => match l.lender with
      | some o => finishLend s o
      | none => s
    | 2 =>
      let s := l.revokers.foldl (fun s o => s.onDescriptor o fun d => { d with waitsMap := none }) s
      if l.state = 1 then
        s.onLent h fun l => { l with wasBorrowed := true, graceAt := some s.localNs, grace := some (graceNs s) }
      else clearLent s h
    | 3 => clearLent s h
    | 4 =>
      clearLent (s.onLent h fun l =>
        { l with graceEnd := match l.graceAt, l.graceEnd with
            | some _, none => some s.localNs
            | _, e => e }) h
    | _ => s

/-- The borrower's side (R299, R301): granted, closing with its pages relocated, lost, or given back. -/
def borrowerExtent (s : State) (h : Word) (state borrower : Nat) : State :=
  match s.borrowedOf h with
  | none => s
  | some _ =>
    match state with
    | 1 => if borrower = s.rdg.part then s.onBorrowed h fun b => { b with granted := true }
           else s.onRdg fun r => { r with borrowed := r.borrowed.filter fun b => b.handle != h }
    | 2 => relocatePages (dropTargets (relocateRegions (s.onBorrowed h fun b => { b with closing := true }) h) h) h
    | 3 => loseExtent s h .revoked
    | 4 => s.onRdg fun r => { r with borrowed := r.borrowed.filter fun b => b.handle != h }
    | _ => s

/-- An entry has left the map: the lender has its memory back (Table 13.7 step 7); a borrower that held it has
lost it. -/
def extentRemoved (s : State) (h : Word) : State :=
  if (s.lentOf h).isSome then returnLent s h
  else if (s.borrowedOf h).isSome then loseExtent s h .extentUnmapped
  else s

end Sys2Proof.Machine
end

