-- ==== Sys2Proof/Machine/Text.lean ====
section
/-!
DEFINITION. Kindling text as shared operations: UTF-8 (R246, R251), tokenisation (R246 to R248),
detokenisation and the cutting of flue records (R250 to R252), grammar masks (R256, R257).
-/

namespace Sys2Proof.Machine

/-! ### UTF-8 -/

/-- The ranges of the continuation bytes that may follow a first byte; none where it begins no character. -/
def utf8Ranges (b : Nat) : Option (List (Nat × Nat)) :=
  if b < 0x80 then some []
  else if 0xC2 ≤ b && b ≤ 0xDF then some [(0x80, 0xBF)]
  else if b = 0xE0 then some [(0xA0, 0xBF), (0x80, 0xBF)]
  else if b = 0xED then some [(0x80, 0x9F), (0x80, 0xBF)]
  else if 0xE1 ≤ b && b ≤ 0xEF then some [(0x80, 0xBF), (0x80, 0xBF)]
  else if b = 0xF0 then some [(0x90, 0xBF), (0x80, 0xBF), (0x80, 0xBF)]
  else if 0xF1 ≤ b && b ≤ 0xF3 then some [(0x80, 0xBF), (0x80, 0xBF), (0x80, 0xBF)]
  else if b = 0xF4 then some [(0x80, 0x8F), (0x80, 0xBF), (0x80, 0xBF)]
  else none

/-- Continuation bytes that match their ranges, whether all do, and whether the input ends first. -/
def matchRanges : List (Nat × Nat) → List Byte → Nat × Bool × Bool
  | [], _ => (0, true, false)
  | _ :: _, [] => (0, false, true)
  | (lo, hi) :: rs, b :: bs =>
    if lo ≤ b.toNat && b.toNat ≤ hi then
      let (n, ok, ended) := matchRanges rs bs
      (n + 1, ok, ended)
    else (0, false, false)

/-- The character or maximal subpart at the front: its bytes, whether it is well formed, whether it is a
proper prefix that the input's end cuts off (R246, R251). -/
def utf8Next (b : Byte) (bs : List Byte) : Nat × Bool × Bool :=
  match utf8Ranges b.toNat with
  | none => (1, false, false)
  | some rs =>
    let (n, ok, ended) := matchRanges rs bs
    (n + 1, ok, ended)

/-- Well-formed characters, each ill-formed subpart as U+FFFD with its flag; what is left at the end when
`hold` keeps a final proper prefix (R251). -/
def utf8Chars (hold : Bool) : Nat → List Byte → List (List Byte × Bool) × List Byte
  | 0, _ => ([], [])
  | _, [] => ([], [])
  | n + 1, b :: bs =>
    let (len, ok, ended) := utf8Next b bs
    if !ok && ended && hold then ([], b :: bs)
    else
      let (rest, tail) := utf8Chars hold n ((b :: bs).drop len)
      ((if ok then (b :: bs).take len else replacement, !ok) :: rest, tail)

/-- Characters of bytes, ill-formed subparts replaced. -/
def charsOf (bytes : List Byte) : List (List Byte × Bool) := (utf8Chars false bytes.length bytes).1

/-- Bytes are well-formed UTF-8. -/
def validUtf8 (bytes : List Byte) : Bool := (charsOf bytes).all fun c => !c.2

/-! ### From text to tokens -/

/-- Token identifiers of an entry kind with their entries. -/
def piecesOf (v : Vocab) (kind : Nat) : List (Piece × Nat) :=
  v.pieces.zipIdx.filter fun p => p.1.kind == kind

/-- The kind of a token identifier: 0 normal, 1 control, 2 byte. -/
def tokenKind (v : Vocab) (t : Nat) : Nat := ((v.pieces[t]?).map (·.kind)).getD 0

/-- A list begins with another. -/
def hasPrefix (p bs : List Byte) : Bool := bs.take p.length == p

/-- The longest control spelling at the front of bytes (R246). -/
def controlAt (controls : List (Piece × Nat)) (bs : List Byte) : Option (Piece × Nat) :=
  controls.foldl (fun best c =>
    if hasPrefix c.1.text bs then
      match best with
      | none => some c
      | some b => if b.1.text.length < c.1.text.length then some c else best
    else best) none

/-- Text runs and control tokens of a prepared segment, left to right: a run as bytes, a control token as
its identifier. -/
def splitControls (controls : List (Piece × Nat)) : Nat → List Byte → List Byte →
    List (List Byte ⊕ Nat)
  | 0, acc, _ => if acc.isEmpty then [] else [.inl acc]
  | _ + 1, acc, [] => if acc.isEmpty then [] else [.inl acc]
  | n + 1, acc, b :: bs =>
    match controlAt controls (b :: bs) with
    | some (p, t) =>
      (if acc.isEmpty then [] else [.inl acc]) ++ .inr t ::
        splitControls controls n [] ((b :: bs).drop p.text.length)
    | none => splitControls controls n (acc ++ [b]) bs

/-- A path to a boundary: its total score, its tokens reversed, the length of its last arc and that arc's
identifier. -/
structure Path where
  score  : Fl
  tokens : List Nat
  last   : Nat
  id     : Nat
  deriving DecidableEq, Repr

/-- The first of two paths wins: greater score, then longer last arc, then lower identifier (R247). -/
def Path.wins (a b : Path) : Bool :=
  flLt b.score a.score ||
  (!flLt a.score b.score && (decide (b.last < a.last) || (a.last == b.last && decide (a.id < b.id))))

/-- The arc a piece makes. -/
def pieceArc (p : Path) (x : Piece × Nat) : Path :=
  { score := flAdd p.score (f32 x.1.score), tokens := x.2 :: p.tokens, last := x.1.text.length, id := x.2 }

/-- The fallback arc of a character: the byte tokens of its bytes (R247). -/
def fallbackArc (v : Vocab) (p : Path) (c : List Byte) : Path :=
  let ids := c.map fun b => v.byteBase + b.toNat
  { score := ids.foldl (fun a t => flAdd a (((v.pieces[t]?).map fun x => f32 x.score).getD flZero)) p.score,
    tokens := ids.reverse ++ p.tokens, last := c.length, id := (ids.head?).getD 0 }

/-- Put a path to a boundary if it wins there. -/
def offerPath (table : List (Nat × Path)) (j : Nat) (p : Path) : List (Nat × Path) :=
  match lookupBy (·.1) j table with
  | none => table ++ [(j, p)]
  | some (_, q) => if p.wins q then table.map fun e => if e.1 = j then (j, p) else e else table

/-- Boundaries after a position reached by whole characters: offsets of the ends of the characters. -/
def charEnds (from' : Nat) : List (List Byte) → List Nat
  | [] => []
  | c :: cs => (from' + c.length) :: charEnds (from' + c.length) cs

/-- Extend the best path at a boundary over every arc that begins there, then go on (R247). -/
def segmentFrom (v : Vocab) (normal : List (Piece × Nat)) : Nat → Nat → List (List Byte) →
    List (Nat × Path) → List (Nat × Path)
  | 0, _, _, table => table
  | _ + 1, _, [], table => table
  | n + 1, pos, c :: cs, table =>
    match lookupBy (·.1) pos table with
    | none => segmentFrom v normal n (pos + c.length) cs table
    | some (_, p) =>
      let rest := (c :: cs).flatten
      let ends := charEnds pos (c :: cs)
      let arcs := normal.filter fun x =>
        x.1.text.length ≠ 0 && hasPrefix x.1.text rest && ends.contains (pos + x.1.text.length)
      let table := if arcs.isEmpty then offerPath table (pos + c.length) (fallbackArc v p c)
        else arcs.foldl (fun t x => offerPath t (pos + x.1.text.length) (pieceArc p x)) table
      segmentFrom v normal n (pos + c.length) cs table

/-- The tokens of a text run (R246 step 3, R247). -/
def segmentRun (v : Vocab) (run : List Byte) : List Nat :=
  let bytes := if v.nfkc then Config.nfkc run else run
  let chars := (charsOf bytes).map (·.1)
  let total := (chars.map List.length).sum
  let table := segmentFrom v (piecesOf v 0) (chars.length + 1) 0 chars
    [(0, { score := flZero, tokens := [], last := 0, id := 0 })]
  match lookupBy (·.1) total table with
  | some (_, p) => p.tokens.reverse
  | none => []

/-- The tokens of a text segment under a trust, and the ill-formed subsequences replaced (R246). -/
def tokeniseText (v : Vocab) (trust : Nat) (text : List Byte) : List Nat × Nat :=
  let chars := charsOf text
  let bytes := (chars.map (·.1)).flatten
  let parts := if trust = 0 then splitControls (piecesOf v 1) (bytes.length + 1) [] bytes
    else if bytes.isEmpty then [] else [.inl bytes]
  ((parts.map fun p => match p with
    | .inl run => segmentRun v run
    | .inr t => [t]).flatten, (chars.filter (·.2)).length)

/-- Identifiers of a form-1 segment that its trust admits (R248). -/
def idsAllowed (v : Vocab) (trust : Nat) (ids : List Nat) : Bool :=
  ids.all fun t => t < v.pieces.length && (trust == 0 || tokenKind v t != 1)

/-! ### From tokens to text (R250 to R252) -/

/-- The bytes of one token. -/
def tokenBytes (v : Vocab) (t : Nat) : List Byte :=
  match v.pieces[t]? with
  | none => []
  | some p => if p.kind = 1 && !p.emit then [] else p.text

/-- The text of a step, the new held tail, and the U+FFFD put in; at a generation's end the tail is flushed
(R251, R252). Each character carries whether it replaces an ill-formed sequence. -/
def detokenise (v : Vocab) (tail : List Byte) (tokens : List Nat) (flush : Bool) :
    List (List Byte × Bool) × List Byte :=
  let bytes := tail ++ (tokens.map (tokenBytes v)).flatten
  utf8Chars (!flush) bytes.length bytes

/-- The characters that fit whole in a number of bytes, and the rest. -/
def takeFit : Nat → List (List Byte × Bool) → List (List Byte × Bool) × List (List Byte × Bool)
  | _, [] => ([], [])
  | room, c :: cs =>
    if c.1.length ≤ room then
      let (a, b) := takeFit (room - c.1.length) cs
      (c :: a, b)
    else ([], c :: cs)

/-- Continuation records of the characters left, 56 bytes each (R251). -/
def continuations (base : FlueRecord) : Nat → List (List Byte × Bool) → List FlueRecord
  | 0, _ => []
  | _, [] => []
  | n + 1, cs =>
    let (a, b) := takeFit 56 cs
    { base with
      kind := 1, tokens := [], text := (a.map (·.1)).flatten, more := !b.isEmpty,
      invalid := a.any (·.2) } :: continuations base n b

/-- The records of a step: a step record and its continuations (R79, R251). -/
def stepRecords (handle : Word) (genSeq : Seq) (step stop : Nat) (tokens : List Nat)
    (chars : List (List Byte × Bool)) : List FlueRecord :=
  let (a, b) := takeFit (40 - 4 * tokens.length) chars
  let base : FlueRecord :=
    { kind := 0, tokens := tokens, text := (a.map (·.1)).flatten, more := !b.isEmpty,
      invalid := a.any (·.2), stop := stop, handle := handle, genSeq := genSeq, step := step }
  base :: continuations base b.length b

/-! ### Grammar masks (R256, R257) -/

/-- The automaton consumes a token within its stack limit. -/
def grammarNext (g : BitVec 384) (maxStack : Nat) (st : Nat × List Nat) (t : Nat) :
    Option (Nat × List Nat) :=
  match Config.grammarStep g st.1 st.2 t with
  | some (q, stack) => if stack.length ≤ maxStack then some (q, stack) else none
  | none => none

/-- The mask of a column in a grammar state allows a token; in a final state it also allows eos (R257). -/
def maskAllows (g : BitVec 384) (maxStack eos : Nat) (st : Nat × List Nat) (t : Nat) : Bool :=
  (grammarNext g maxStack st t).isSome || (t == eos && Config.grammarFinal g st.1)

/-- The state after a token, unchanged by an eos that only finality allows. -/
def grammarAdvance (g : BitVec 384) (maxStack : Nat) (st : Nat × List Nat) (t : Nat) : Nat × List Nat :=
  (grammarNext g maxStack st t).getD st

/-- The mask allows no token of a vocabulary (R259). -/
def maskDead (g : BitVec 384) (maxStack : Nat) (v : Vocab) (st : Nat × List Nat) : Bool :=
  (List.range v.pieces.length).all fun t => !maskAllows g maxStack v.eos st t

/-- A final state that allows no token except eos (R258). -/
def accepted (g : BitVec 384) (maxStack : Nat) (v : Vocab) (st : Nat × List Nat) : Bool :=
  Config.grammarFinal g st.1 &&
  (List.range v.pieces.length).all fun t => t == v.eos || !maskAllows g maxStack v.eos st t

end Sys2Proof.Machine
end

