-- ==== Sys2Proof/Machine/Sessions.lean ====
section
/-!
DEFINITION. The meanings of the session descriptors and of what ends them (chapter 5; R97, R234, R246):
OPEN, APPEND with TOKENISE and PREFILL_CHUNK_END, GENERATE, PARK, REVIVE, MOVE with its rounds and
hand-over, SNAPSHOT, CLOSE, STUB_EXPIRE.
-/

namespace Sys2Proof.Machine

/-! ### Gates -/

/-- The state of a session decides (Table 5.2, R90, R114); `lenient` for a CLOSE and a REVIVE that may go on
with a suspended session or one without KV. -/
def sessionGate (s : State) (d : InFlight) (lenient : Bool) : Except (Status × Word) Session :=
  match findSession s d with
  | .error e => .error e
  | .ok x =>
    if lenient then .ok x
    else if x.state = .suspended then .error (.copyConflict, 0)
    else match x.kvLost with
      | some c => .error (c, 0)
      | none => .ok x

/-- A session descriptor that can start now with what its session's state answers; none while it waits,
while its session is restoring (R351), or while the slot entries of a returning part are awaited. -/
def startSession (s : State) (o : Origin) (op : Nat) (lenient : Bool) :
    Option (InFlight × Except (Status × Word) Session) :=
  match canStart s o op with
  | none => none
  | some d =>
    if s.ses.gate then none
    else match sessionGate s d lenient with
      | .ok x => if x.state = .restoring then none else some (d, .ok x)
      | .error e => some (d, .error e)

/-! ### OPEN (R95, R254, R255) -/

/-- The checks of a compiled grammar at OPEN (R254). -/
def grammarOk (len : Nat) (bytes : List Byte) (v : Vocab) : Bool :=
  let hdr := bytes.take 128
  let body := bytes.drop 128
  bytes.length == len && hdr.length == 128 && bfld hdr 3 0 == 1 && len == 128 + bfld hdr 287 256 &&
  len ≤ 2 ^ 24 && bfld hdr 255 128 == v.digest.toNat % 2 ^ 128 &&
  (sha384 body).toNat == bfld hdr 1023 640 &&
  1 ≤ bfld hdr 31 16 && bfld hdr 31 16 ≤ 1024 && bfld hdr 127 96 ≤ 4096 &&
  1 ≤ bfld hdr 63 32 && bfld hdr 63 32 ≤ 1048576 && bfld hdr 95 64 < bfld hdr 63 32

/-- The digest in a grammar's header. -/
def grammarDigest (bytes : List Byte) : BitVec 384 := BitVec.ofNat 384 (bfld (bytes.take 128) 1023 640)

/-- The grammar store has room: the copy is there, or fits beside those in use (R255; notes/assumptions/77.md). -/
def grammarFits (s : State) (tenant : Nat) (bytes : List Byte) : Bool :=
  (s.knd.grammars.any fun g => g.tenant == tenant && g.digest == grammarDigest bytes) ||
  decide ((s.knd.grammars.map (·.bytes)).sum + bytes.length ≤
    2 * clamp 16 4096 (fld s.knd.storeCtl 15 0) * 2 ^ 20)

/-- A session uses a grammar: one copy per tenant (R255). -/
def useGrammar (s : State) (tenant slot : Nat) (bytes : List Byte) : State :=
  let dg := grammarDigest bytes
  s.onKnd fun k =>
    if k.grammars.any fun g => g.tenant == tenant && g.digest == dg then
      { k with grammars := k.grammars.map fun g =>
          if g.tenant = tenant && g.digest = dg then { g with users := g.users ++ [slot] } else g }
    else { k with grammars := k.grammars ++
      [{ digest := dg, tenant := tenant, bytes := bytes.length, users := [slot] }] }

/-- A session gives up its grammar; the last user frees the copy (R255). -/
def dropGrammar (s : State) (slot : Nat) : State :=
  s.onKnd fun k =>
    { k with
      grammars := (k.grammars.map fun g => { g with users := g.users.filter (· != slot) }).filter
        fun g => !g.users.isEmpty }

/-- An image is bound to a tenant (Table 8.8). -/
def boundTo (i : Image) (tenant : Nat) : Bool :=
  match i.tenants with
  | none => true
  | some bits => bit ((bits[tenant / 8]?).getD 0) (tenant % 8)

/-- The decoder image a tenant may open sessions on: ready here, stage 0, bound (R175, R189; notes/assumptions/98.md). -/
def openableImage (s : State) (h : Word) (tenant : Nat) : Option Image :=
  match imageOf s h with
  | some i => if i.stage = 0 && boundTo i tenant && !standsBy s then some i else none
  | none => none

/-- Session slots the part serves (R12, R84, Table 5.15). -/
def slotLimit (s : State) : Nat := if s.host.compat then 4096 else 1048576

/-- A slot that an OPEN can take: FREE or LOST, not retired, with a generation left (R84, R85, R88; notes/assumptions/39.md). -/
def slotFree (s : State) (slot : Nat) : Bool :=
  slot < slotLimit s && !s.ses.retired.contains slot &&
  match s.session slot with
  | none => decide (s.ses.floor ≤ 0x3FFFFF)
  | some x => x.state == .free || (x.state == .lost && decide (s.ses.floor ≤ 0x3FFFFF))

/-- Slots of the part in use or retired: none is free when they are all. -/
def slotsTaken (s : State) : Nat :=
  (s.ses.table.filter fun x => x.state != .free && x.state != .lost && x.slot < slotLimit s).length +
  (s.ses.retired.filter fun n => n < slotLimit s).length

/-- The generation a slot issues: its own when FREE, the floor when LOST (R84, R85). -/
def nextGen (s : State) (slot : Nat) : Nat :=
  match s.session slot with
  | some x => if x.state = .free then x.gen else s.ses.floor
  | none => s.ses.floor

/-- The failures of SESSION_OPEN that hold (Table 5.5, with the limits of Table 5.15, R239 and R333): all of them are
conditions of the completion, whose status R10 chooses (R78). A grammar is checked against the image's vocabulary
(notes/assumptions/60.md). -/
def openRefusals (s : State) (d : InFlight) (param : List Byte) : List Status :=
  let b := d.raw
  let given := openGrammarLen b ≠ 0
  let twin := twinServes s && match openableImage s (openImage b) d.tenant with
    | some i => i.group.all (stageTwinServes s)
    | none => true
  (match openableImage s (openImage b) d.tenant with
   | none => [.imageNotBound]
   | some i =>
     let format := i.encoder || given && !grammarOk (openGrammarLen b) param i.vocab ||
       bit ((s.ses.tclass[openClass b]?).getD 0) 0 && !i.latent
     (if openVariant b ≠ 0 && !(i.variants.any fun v =>
        v.number == openVariant b && v.tenant == d.tenant) then [.imageNotBound] else []) ++
     (if format then [.formatUnsupported] else []) ++
     (if given && grammarOk (openGrammarLen b) param i.vocab && !grammarFits s d.tenant param then
        [.doesNotFit] else [])) ++
  (if s.host.compat && 2 ≤ openDurability b then [.formatUnsupported] else []) ++
  (if slotLimit s ≤ slotsTaken s then [.doesNotFit] else []) ++
  (if openDurability b ≠ 0 && !twin then [.twinLost] else []) ++
  (if !s.fbx.trngOk then [.hardwareFault] else [])

/-- The context limit of a session (R219, Tables 5.4, 5.15). -/
def contextLimit (s : State) (i : Image) (asked : Nat) : Nat :=
  let image := min 1048576 (1024 * i.contextK)
  let own := if asked = 0 || image < asked then image else asked
  if s.host.compat then min 32768 own else own

/-- Draw a key or a seed (R333). -/
def drawKey (s : State) : State × Nat :=
  (s.onFbx fun f => { f with draws := f.draws + 1 }, s.fbx.draws)

/-- The queue pair whose flight ring records a session opened on it (R377, R381). -/
def recorderFor (s : State) (d : InFlight) (cls : Nat) : Option Nat :=
  match d.origin with
  | .qp q _ =>
    let f := (s.qp q).flight
    if f.log2 ≠ 0 && f.mask.testBit cls && !d.replay then some q else none
  | .ridge _ _ => none

/-- Install a session: its slot's generation, the floor, the slot entry and floor for the twin (R85,
R348). -/
def installSession (s : State) (x : Session) : State :=
  let s := s.putSession x
  let s := if s.ses.floor ≤ x.gen then
      askTwin (s.onSess fun t => { t with floor := x.gen + 1 }) x.cls (.genFloor (x.gen + 1)) 0
        (mkHandle s.rdg.part 0 0 0)
    else s
  sendRecordCopy (sendSlotEntry s x.slot) x.slot

/-- The OPEN record of a recorded session (Table 18.2). -/
def recordOpen (s : State) (x : Session) : State :=
  let fw := ((slotImage s.fwu s.fwu.active).map (·.version)).getD 0
  recordFlight s x 0 1 (openPayload (sessionImage s x).id x.seed fw x.variant x.cls x.durability x.grammar)

/-- SESSION_OPEN (R95, R101, R102, R112). -/
def execSessionOpen (o : Origin) (param : List Byte) (slot : Nat) (s : State) : Answer :=
  match canStart s o opOpen with
  | none => .next s
  | some d =>
    if s.ses.gate then .next s
    else match openRefusals s d param with
      | st :: more => .next (complete s o (st :: more) 0)
      | [] =>
        if !slotFree s slot then .next s
        else
          let b := d.raw
          let i := s.image (iSlot (openImage b))
          let (s, key) := drawKey s
          let (s, seed) := if openSeed b = 0 then
              let (s', k) := drawKey s
              (s', BitVec.ofNat 64 (Config.trng k).toNat)
            else (s, openSeed b)
          let cls := openClass b
          let hasG := openGrammarLen b ≠ 0
          let start := bfld param 95 64
          let x : Session :=
            { slot := slot, gen := nextGen s slot, state := .resident, tenant := d.tenant,
              image := openImage b, variant := openVariant b, cls := cls,
              durability := openDurability b, tclass := (s.ses.tclass[cls]?).getD 0,
              kvclass := (s.ses.kvclass[cls]?).getD 0,
              context := contextLimit s i (openMaxContext b), seed := seed,
              grammar := if hasG then some (grammarDigest param) else none,
              start := if hasG then start else 0, gstate := if hasG then start else 0,
              maxStack := if hasG then bfld param 31 16 else 0, lastCommit := s.localNs,
              recorder := recorderFor s d cls, replaying := d.replay, pageKey := key }
          let s := if hasG then useGrammar s d.tenant slot param else s
          let s := recordOpen (installSession s x) x
          .next (complete s o [] (sessionHandle s x))

/-! ### Prefill (R97, R199, R215, R234) -/

/-- Tokens of one chunk: c of R234. -/
def chunkTokens (m g : Nat) : Nat := min 4096 (64 * ceilDiv (ceilDiv m (max 1 g)) 64)

/-- INPUT records' groups: up to 8 consecutive tokens of one trust with the first one's position. -/
def inputGroups (pos : Nat) : Nat → List (Nat × Nat) → List (Nat × Nat × List Nat)
  | 0, _ => []
  | _, [] => []
  | n + 1, (t, tr) :: rest =>
    let run := ((t, tr) :: rest).takeWhile fun x => x.2 == tr
    let run := run.take 8
    (pos, tr, run.map (·.1)) :: inputGroups (pos + run.length) n (((t, tr) :: rest).drop run.length)

/-- The commit of an append: tokens enter the log and the length, KV and copies follow, INPUT records are
written (R97, R105, R112, R378). -/
def commitAppend (s : State) (slot : Nat) (p : Prefill) : State :=
  match s.session slot with
  | none => s
  | some x =>
    let n := x.log.length
    let s := s.putSession { x with prefill := none, pending := [], log := x.log ++ p.tokens }
    let s := sendPageCopies (commitKv s slot n) slot
    let s := sendRecordCopy (countTenant s x.tenant 1 p.tokens.length) slot
    (inputGroups n p.tokens.length p.tokens).foldl (fun s (pos, tr, ids) =>
      recordFlight s x 1 ids.length (inputPayload pos tr ids)) s

/-- What follows a prefill's commit: the APPEND or REVIVE completes, or the generation takes its place, unless the pending
tokens have brought the session to its context limit (R97, R99, R219, Table 5.10). -/
def afterPrefill (s : State) (slot : Nat) (p : Prefill) : State :=
  let len := ((s.session slot).map fun x => x.log.length).getD 0
  match p.after with
  | 2 =>
    match s.session slot with
    | some x =>
      if x.gener.any fun g => g.replay == some [] then endGeneration s slot .ok 2
      else if x.context ≤ x.log.length then endGeneration s slot .contextFull 7
      else openBatches 128 s (iSlot x.image)
    | none => s
  | 1 => complete s p.origin [] (halves p.micros len)
  | _ => complete s p.origin (if p.truncated then [.okTruncated] else []) (halves p.tokens.length len)

/-- A prefill that cannot go on ends with a status (R97, Table 5.10, Table 6.5). -/
def failPrefill (s : State) (slot : Nat) (p : Prefill) (st : Status) : State :=
  endPrefill (s.onSession slot fun x => { x with prefill := some p }) slot st

/-- Begin the prefill of tokens on a RESIDENT session: pages for what it writes, outside the reserve; no
token at all commits at once. -/
def startPrefill (s : State) (slot : Nat) (p : Prefill) : State :=
  match s.session slot with
  | none => s
  | some x =>
    let i := sessionImage s x
    let m := p.tokens.length
    if x.context < x.log.length + m then failPrefill s slot p .contextFull
    else if m = 0 then afterPrefill s slot p
    else
      let want := missingPages i x (blocksForWrite i x (positionsFor x m))
      match allotPages (s.onSession slot fun x => { x with prefill := some p }) slot want false with
      | (s', none) => failPrefill s' slot p .tierFull
      | (s', some got) =>
        let c := chunkTokens m i.stages
        let s' := queueItems s' (ceilDiv m c) .prefill (prefillRank s x) x.tenant
        (addPages s' slot got).onSession slot fun x =>
          { x with prefill := some { p with chunk := c, left := ceilDiv m c * max 1 i.stages } }

/-- The batch number from which the activation frames of prefill chunks count, by session slot: above those of batches, of
which a part runs 128 (R179; notes/assumptions/132.md). -/
def prefillBatch : Nat := 128

/-- PREFILL_CHUNK_END (R97, R234): one stage ends one chunk, which goes on to the next stage as an
activation frame; the last end commits, once the twin has acknowledged the commit before (R346). -/
def execPrefillChunkEnd (slot : Nat) (s : State) : Answer :=
  afterClears s <|
  match s.session slot with
  | none => .next s
  | some x =>
    match x.prefill with
    | none => .next s
    | some p =>
      if s.pwr.heldNow || p.left = 0 then .next s
      else
        let i := sessionImage s x
        let own := ceilDiv p.tokens.length (max 1 p.chunk) * max 1 i.stages - p.left
        if 1 < p.left then
          let s := match i.group[1]? with
            | some next =>
              if own < ceilDiv p.tokens.length (max 1 p.chunk) && 1 < i.stages then
                let tokens := (p.tokens.drop (own * p.chunk)).take p.chunk
                let at' := x.log.length + own * p.chunk
                sendFrame s next 2 x.cls (.activation
                  { image := i.id.toNat, batch := prefillBatch + slot, step := own, epoch := s.rdg.map.epoch,
                    records := [columnRecord s x tokens.length at'],
                    residual := firstColumns s i x at' (tokens.map Prod.fst) })
              else s
            | none => s
          .next (s.onSession slot fun x => { x with prefill := some { p with left := p.left - 1 } })
        else if waitsForTwin s x then .next s
        else .next (afterPrefill (commitAppend s slot p) slot p)

/-! ### APPEND (R96, R97, R246, R249) -/

/-- Tokens of one segment that an earlier TOKENISE left, or from its text now. -/
def segmentTokens (s : State) (v : Vocab) (o : Origin) (n : Nat) (seg : Segment) : List Nat × Nat :=
  if seg.form = 1 then (readIds (seg.payload.length / 4) seg.payload, 0)
  else match s.knd.tokenised.find? fun t => t.1 == o && t.2.1 == n with
    | some t => (t.2.2, 0)
    | none => tokeniseText v seg.trust seg.payload

/-- The kindling has done with a descriptor's text. -/
def textDone (s : State) (o : Origin) : State :=
  s.onKnd fun k =>
    { k with tokenised := k.tokenised.filter fun t => t.1 != o,
             queues := k.queues.map fun u => (u.1, u.2.filter fun w => match w with
               | .tokens p _ => p != o
               | .mask _ _ => true) }

/-- TOKENISE (R246 to R249): a text segment of an APPEND in flight, or a document of an EMBED_BATCH, which has trust 1, is
tokenised early; no session state changes. Ill-formed input is counted. -/
def execTokenise (o : Origin) (segment trust : Nat) (text : List Byte) (s : State) : Answer :=
  match s.descriptor o with
  | none => .next s
  | some d =>
    if (s.knd.tokenised.any fun t => t.1 == o && t.2.1 == segment) ||
       !(dOpcode d.raw == opAppend || dOpcode d.raw == opEmbed) then .next s
    else
      let v := if dOpcode d.raw = opEmbed then (s.image (iSlot (openImage d.raw))).vocab
        else match slotOf s d with
          | some x => (sessionImage s x).vocab
          | none => {}
      let (ids, bad) := tokeniseText v (if dOpcode d.raw = opEmbed then 1 else trust) text
      .next ((unkindle s (.tokens o segment)).onKnd fun k =>
        { k with tokenised := k.tokenised ++ [(o, segment, ids)],
                 inReplaced := sat 32 (k.inReplaced + bad) })

/-- All tokens of an APPEND with their trust, and the ill-formed subsequences replaced; none where a
segment breaks R248. -/
def appendTokens (s : State) (v : Vocab) (o : Origin) (segs : List Segment) :
    Option (List (Nat × Nat) × Nat) :=
  segs.zipIdx.foldl (fun acc (seg, n) =>
    match acc with
    | none => none
    | some (ts, bad) =>
      let (ids, b) := segmentTokens s v o n seg
      if seg.form = 1 && !idsAllowed v seg.trust ids then none
      else some (ts ++ ids.map fun t => (t, seg.trust), bad + b)) (some ([], 0))

/-- Tokens of an APPEND that fit: the context limit with the pending tokens first, and the slots of class A
(R97, R215, R219). -/
def tokensThatFit (i : Image) (x : Session) (m : Nat) : Nat :=
  let byContext := x.context - x.log.length - x.pending.length
  let byslots :=
    if i.latent then m
    else
      let most := (((layersOf i x).map fun l => l.slots.length).foldl max 0)
      let room := 32256 - most + (if x.log.isEmpty then 1 else 0)
      room - x.pending.length
  min m (min byContext byslots)

/-- SESSION_APPEND (R96, R97, R114): refused whole, held pending, or prefilled with what was pending before
it. -/
def execSessionAppend : Start → List Byte → State → Answer
  | ⟨o, how⟩, param, s =>
  afterClears s <|
  match startSession s o opAppend false with
  | none => .next s
  | some (_, .error (st, r)) => .next (refuse s o st r)
  | some (d, .ok x) =>
    let (s, x) := beginOn s x
    let b := d.raw
    let i := sessionImage s x
    let len := x.log.length
    let fail := fun s st => refuse s o st (halves 0 len)
    if s.host.compat && appendDefer b then .next (fail s .formatUnsupported)
    else if appendSegments b = 0 || param.length ≠ appendLen b then .next (fail s .formatUnsupported)
    else match readSegments (appendSegments b) param with
      | none => .next (fail s .formatUnsupported)
      | some segs =>
        match appendTokens s i.vocab o segs with
        | none => .next (fail s .formatUnsupported)
        | some (own, bad) =>
          let s := (textDone s o).onKnd fun k => { k with inReplaced := sat 32 (k.inReplaced + bad) }
          let fit := tokensThatFit i x own.length
          if fit < own.length && !appendTruncateOk b then .next (fail s .contextFull)
          else
            let cut := fit < own.length
            let own := own.take fit
            if x.state = .parked || appendDefer b then
              let s := s.onSession x.slot fun x => { x with pending := x.pending ++ own }
              .next (complete s o (if cut then [.okTruncated] else [])
                (halves (x.pending.length + own.length) len))
            else match recover s x how d.deadline with
              | .error (s', st) => .next (fail s' st)
              | .ok (s', conds) =>
                .next (startPrefill
                  ((markRunning s' o).onDescriptor o fun d => { d with conds := d.conds ++ conds }) x.slot
                  { origin := o, tokens := x.pending ++ own, own := own.length, chunk := 0, left := 0,
                    truncated := cut })

/-! ### Copies that differ and the revive (R120, R141 to R143) -/

/-- The content of a stored page where it passes its check, and its pair and tag; an armed page fault makes
the next decode fail (R384). -/
def readStored (coded : List Byte) (fails : Bool) : Option (List Byte) :=
  if fails then none else decodePage coded

/-- A page read in on a revive: its content where a copy serves, what repairs it, or how it is lost. -/
structure PageRead where
  page    : Page
  content : Option (List Byte)
  repair  : Nat := 0
  fromTwin : Bool := false
  conflict : Bool := false
  lost    : Option Status := none
  deriving DecidableEq, Repr

/-- The home copy of a page, its content, pair and tag, where it is intact. The tag of a hearth page is computed from its
frame (R138). -/
def homeCopy (s : State) (p : Page) (fails : Bool) : Option (List Byte × (Nat × Nat) × BitVec 128) :=
  match p.place with
  | .hearth f => some (frameContent s f, (p.epoch, p.wseq), pageTag (frameContent s f))
  | _ => match storedBytes p with
    | some coded => (readStored coded fails).map fun c => (c, codedPair coded, codedTag coded)
    | none => none

/-- The page as the twin's copy gives it; lost where the copy that is fetched fails its check. -/
def fromTwinCopy (p : Page) (repair : Nat) : Option TwinCopy → PageRead
  | some c =>
    match decodePage c.data with
    | some content =>
      { page := { p with epoch := c.epoch, wseq := c.wseq }, content := some content, repair := repair, fromTwin := true }
    | none => { page := p, content := none, lost := some .poisoned }
  | none => { page := p, content := none, lost := some .poisoned }

/-- A page read, compared with the twin's copy where there is one (R141, R142). `keep` 1 keeps the
home copy, 2 the twin's (R143). -/
def readPage (s : State) (twin : List TwinCopy) (keep : Nat) (fails : Bool) (p : Page) : PageRead :=
  match p.place with
  | .lost why => { page := p, content := none, lost := some why }
  | _ =>
    let t := twin.find? fun c => c.page == p.index
    let plain : PageRead := match homeCopy s p fails with
      | some h => { page := p, content := some h.1 }
      | none => { page := p, content := none, lost := some .poisoned }
    if keep = 1 || (keep = 0 && t.isNone) then plain
    else if keep = 2 then
      if t.any (·.intact) then fromTwinCopy p 0 t else { page := p, content := none, lost := some .poisoned }
    else
      let home := homeCopy s p fails
      match compareCopies (home.map (·.2)) (p.epoch, p.wseq) t with
      | .home r => { page := p, content := home.map (·.1), repair := r }
      | .twin r => fromTwinCopy p r t
      | .conflict => { page := p, content := home.map (·.1), conflict := true }
      | .lost => { page := p, content := none, lost := some .poisoned }

/-- Copies overwritten are counted with their events; the twin's is rewritten where the home copy won
(R142). -/
def noteRepair (s : State) (x : Session) (r : PageRead) : State :=
  let again := fun (s : State) =>
    if r.fromTwin then s
    else sendBuddy s x r.page.index r.page.epoch r.page.wseq (codedOf s (sessionImage s x) false r.page)
  match r.repair with
  | 2 => again ((sessionEvent s x 2 r.page.index).onTie fun t => { t with staleRepaired := bump 16 t.staleRepaired })
  | 3 => again ((sessionEvent s x 3 r.page.index).onTie fun t => { t with failedRepaired := bump 16 t.failedRepaired })
  | _ => s

/-- Pages that failed their check on decode are counted (Table 6.15). -/
def countTagFailures (s : State) (x : Session) (fails : Bool) : State :=
  let bad := (x.pages.filter fun p => match storedBytes p with
    | some c => (readStored c fails).isNone
    | none => false).length
  s.onTie fun t => { t with tagFailures := sat 16 (t.tagFailures + bad) }

/-- An armed page-check fault strikes the next page decoded (R384, Table 18.4). -/
def pageFaultArmed (s : State) : Bool := s.dgn.armed && fld s.dgn.injectReg 2 0 == 3

/-- An armed fault has struck: event 15 with its kind, and it is disarmed (R384). -/
def faultStruck (s : State) (kind : Nat) : State :=
  (logEvent s 15 0 kind).onDgn fun d => { d with armed := false, injected := bump 16 d.injected }

/-- A session becomes SUSPENDED, and both copies of the page are poisoned (R90, Table 6.11). -/
def suspend (s : State) (slot : Nat) (page : Nat) : State :=
  match s.session slot with
  | none => s
  | some x =>
    let s := dropColumns (s.putSession { x with state := .suspended, conflict := true }) slot
    let s := s.onTie fun t => { t with conflicts := bump 16 t.conflicts, conflictSeen := true }
    let s := s.onSess fun t => { t with suspendedSeen := true }
    let s := askTwin s x.cls (.poisonCopy (sessionHandle s x) page) x.tenant (sessionHandle s x)
    sendSlotEntry (sessionEvent s x 4 page .copyConflict) slot

/-- How the page phase of a revive ends. -/
inductive PagePhase where
  | resident (s : State)
  | conflict (s : State) (page : Nat)
  | lost (s : State) (why : Status)
  | full (s : State)
  deriving DecidableEq, Repr

/-- The pages read are in hearth: those that lay in store in the frames taken for them, those that lay there already where
they are, with the twin's content where it was taken; the granules they held are freed. -/
def landPages (s : State) (x : Session) (reads : List PageRead) (got : List (Nat × Nat)) : State :=
  let frameOf : PageRead → Option Nat := fun r => match r.page.place with
    | .hearth f => some f
    | _ => (lookupBy (·.1) r.page.index got).map (·.2)
  let s := reads.foldl (fun s r => match frameOf r, r.content with
    | some f, some c => writeFrame s f c
    | _, _ => s) s
  let s := freeGranules s x.tenant ((x.pages.map pageFoothill).sum)
  sendSlotEntry (s.onSession x.slot fun x =>
    { x with
      state := .resident, conflict := false, lastCommit := s.localNs,
      pages := (reads.filter fun r => r.page.index < 0xFF0000).filterMap fun r =>
        (frameOf r).map fun f => placedAt r.page (.hearth f) }) x.slot

/-- The page phase of a revive: every stored page is read, compared, and brought into hearth frames; the
session stands RESIDENT (R100, R112, R120, R137, R141). -/
def bringIn (s : State) (slot : Nat) (twin : List TwinCopy) (keep : Nat) : PagePhase :=
  match s.session slot with
  | none => .full s
  | some x =>
    let armed := pageFaultArmed s
    let fails := fun (p : Page) => armed && (x.pages.head?.any fun q => q.index == p.index)
    let copies := if 2 ≤ x.durability && twinServes s then twin else []
    let reads := x.pages.map fun p => readPage s copies keep (fails p) p
    let s := if armed && !x.pages.isEmpty then faultStruck s 3 else s
    let s := x.pages.foldl (fun s p => readPool s x p) (countTagFailures s x false)
    let s := reads.foldl (fun s r => noteRepair s x r) s
    match reads.find? (·.conflict), (reads.filterMap (·.lost)) with
    | some r, _ => .conflict s r.page.index
    | none, c :: cs => .lost s (cs.foldl (fun a b => if b.beats a then b else a) c)
    | none, [] =>
      let stored := reads.filter fun r => r.page.index < 0xFF0000 && (storedBytes r.page).isSome
      match allotPages s slot (stored.map (·.page.index)) false with
      | (s, none) => .full s
      | (s, some got) => .resident (landPages s x reads got)

/-- What makes a PARKED session RESIDENT for a request: the page phase here and in the shares, or the rebuild of
R114; the state and conditions to go on with, or the status that ends the request. Where a share finds no room, the
others are parked again. -/
def makeResidentSession (s : State) (slot : Nat) (how : Recovery) (keep : Nat) (deadline : Option Nat) :
    Except (State × Status) (State × List Status) :=
  match s.session slot with
  | none => .error (s, .tierFull)
  | some x =>
    let s := tellShares s x (.revive keep)
    match bringIn s slot how.twin keep with
    | .conflict s page => .error (suspend s slot page, .copyConflict)
    | .full s => .error (tellShares s x (.park 0 true), .tierFull)
    | .lost s why => recoverLoss s x why how.micros deadline
    | .resident s' =>
      if how.shares.contains .conflict then .error (suspend s' slot recordPage, .copyConflict)
      else if how.shares.contains .full then .error (tellShares s x (.park 0 true), .tierFull)
      else match shareLoss how.shares with
        | some why => recoverLoss s' x why how.micros deadline
        | none => .ok (s', [])

/-! ### GENERATE (R98, R99, R256, R382) -/

/-- Recorded steps of a replay from STEP records of 64 bytes, those of one step index joined (R382). -/
def readReplay : Nat → List Byte → List (Nat × ReplayStep) → List ReplayStep
  | 0, _, acc => acc.map (·.2)
  | n + 1, bs, acc =>
    let r := bs.take 64
    let count := min 4 (bfld r 47 40)
    let step := leAt r 24 4
    let len := leAt r 28 4
    let entries := (List.range count).map fun k =>
      (leAt r (32 + 8 * k) 4, BitVec.ofNat 16 (leAt r (36 + 8 * k) 2), BitVec.ofNat 16 (leAt r (38 + 8 * k) 2))
    let acc := match acc.getLast? with
      | some (j, p) => if j = step && !acc.isEmpty
          then acc.dropLast ++ [(j, { p with tokens := p.tokens ++ entries })]
          else acc ++ [(step, { length := len, tokens := entries })]
      | none => [(step, { length := len, tokens := entries })]
    readReplay n (bs.drop 64) acc

/-- The queue pair that fetched a GENERATE has no flue ring (R79); a part far away has checked its own. -/
def lacksFlue (s : State) (o : Origin) : Bool :=
  match o with
  | .qp q _ => (s.qp q).ctx.flueLog2 == 0
  | .ridge _ _ => false

/-- A replay queue pair without a flight ring (R382). -/
def lacksFlight (s : State) (o : Origin) : Bool :=
  match o with
  | .qp q _ => (s.qp q).flight.log2 == 0
  | .ridge _ _ => true

/-- The session's grammar state as a generation begins: from the start after a bypass (R256). -/
def enterGrammar (x : Session) (on : Bool) : Session :=
  if on && x.bypassed then { x with gstate := x.start, gstack := [], bypassed := false } else x

/-- A generation as its descriptor asks for it. -/
def newGen (x : Session) (o : Origin) (b : BitVec 512) (param : List Byte) : Gen :=
  let grammar := genGrammar b && x.grammar.isSome
  if x.replaying then
    { origin := o, maxTokens := genMaxTokens b, grammar := grammar, forceEos := false,
      replay := some (readReplay (min (genMaxTokens b) (param.length / 64)) param []) }
  else
    { origin := o, maxTokens := genMaxTokens b, specLen := genSpecLen b, temp := genTemp b,
      topK := genTopK b, topP := genTopP b, stops := readIds (genStopCount b) param,
      grammar := grammar, forceEos := genForceEos b }

/-- The generation starts: at the context limit it ends at once (R99, R219); else it waits for a column
behind any pending tokens' prefill (Table 5.2). -/
def startGeneration (s : State) (x : Session) (g : Gen) : State :=
  let s := s.putSession { (enterGrammar x g.grammar) with gener := some g }
  if !x.pending.isEmpty then
    startPrefill s x.slot
      { origin := g.origin, tokens := x.pending, own := 0, chunk := 0, left := 0, after := 2 }
  else if g.replay = some [] then endGeneration s x.slot .ok 2
  else if x.context ≤ x.log.length then endGeneration s x.slot .contextFull 7
  else openBatches 128 s (iSlot x.image)

/-- SESSION_GENERATE (R98, R99, R114, R382). -/
def execSessionGenerate : Start → List Byte → State → Answer
  | ⟨o, how⟩, param, s =>
  afterClears s <|
  match startSession s o opGenerate false with
  | none => .next s
  | some (_, .error (st, r)) => .next (refuse s o st r)
  | some (d, .ok x) =>
    let (s, x) := beginOn s x
    let b := d.raw
    let fail := fun s st => refuse s o st (halves 0 x.log.length)
    if lacksFlue s o then .next (fail s .formatUnsupported)
    else if !x.replaying && (refusedF16 (genTemp b) || refusedF16 (genTopP b)) then
      .next (fail s .formatUnsupported)
    else if x.replaying && lacksFlight s o then .next (fail s .formatUnsupported)
    else
      let g := newGen x o b param
      let s := markRunning s o
      let ready := if x.state = .parked then makeResidentSession s x.slot how 0 d.deadline
        else recover s x how d.deadline
      match ready with
      | .error (s', st) => .next
          (endGeneration (s'.onSession x.slot fun x => { x with gener := some g }) x.slot st (stopOf st))
      | .ok (s', conds) =>
        match s'.session x.slot with
        | some x => .next (startGeneration (s'.onDescriptor o fun d => { d with conds := d.conds ++ conds }) x g)
        | none => .next s'

/-! ### PARK and REVIVE -/

/-- Bytes a parked session occupies: 512 for each granule of its coded pages (Table 5.9). -/
def parkedBytes (x : Session) : Nat :=
  512 * (x.pages.map fun p => match p.place with
    | .foothill g _ => g
    | .pool _ _ g _ => g
    | _ => 0).sum

/-- A PARK's coded pages stand in their tiers: it takes effect at once, or, for class 2 and 3 with the twin in service,
once the twin has its copies (R346, Table 5.12; notes/assumptions/66.md). -/
def finishPark (s : State) (o : Origin) (x : Session) (placed : List Page) (bytes : Nat) (conds : List Status) :
    State :=
  if 2 ≤ x.durability && twinServes s then
    (markRunning ((sendCoded s x placed).onDescriptor o fun d => { d with conds := d.conds ++ conds }) o).onSession x.slot
      fun x => { x with acks := x.acks + 1, parkWaits := some (o, bytes), parkPlaced := placed }
  else complete (commitPark s x.slot placed) o conds (BitVec.ofNat 64 bytes)

/-- PARK of a session whose pages are all there: this part's and the shares of the other stages; where one finds no tier,
the shares are brought back and the session stays RESIDENT (R100, R124, R130). With `where` 2 extents that other parts
offer are claimed first, and the PARK waits for them (Table 6.5; notes/assumptions/65.md). -/
def parkAll (s : State) (o : Origin) (x : Session) (d : InFlight) (how : Recovery) (conds : List Status) : State :=
  let told := tellShares s x (.park (parkWhere d.raw) (parkNoNarrow d.raw))
  if how.shares.contains .full then refuse (tellShares told x (.revive 0)) o .tierFull
  else match placePark told x (parkWhere d.raw) (parkNoNarrow d.raw) with
    | some (s', placed, g) => finishPark s' o x placed (512 * g + shareCount how.shares) conds
    | none =>
      if parkWhere d.raw = 2 && bit x.tclass 2 && (claimsOpen s || !(offeredExtents s).isEmpty) then
        match offeredExtents s with
        | e :: _ => claimExtent s e
        | [] => s
      else refuse (tellShares told x (.revive 0)) o .tierFull

/-- SESSION_PARK (R100, R123 to R125, R130, R135, R346; notes/assumptions/63.md). -/
def execSessionPark : Start → State → Answer
  | ⟨o, how⟩, s =>
  afterClears s <|
  match startSession s o opPark false with
  | none => .next s
  | some (_, .error (st, r)) => .next (refuse s o st r)
  | some (d, .ok x) =>
    if s.host.compat || parkWhere d.raw = 3 then .next (refuse s o .formatUnsupported)
    else
      let (s, x) := beginOn s x
      if x.state = .parked then
        .next (complete s o [] (BitVec.ofNat 64 (parkedBytes x + shareCount how.shares)))
      else match recover s x how d.deadline with
        | .error (s', st) => .next (refuse s' o st)
        | .ok (s', conds) => .next (parkAll s' o ((s'.session x.slot).getD x) d how conds)

/-- The revive is RESIDENT: pending tokens are prefilled, or it completes (Tables 5.9, 5.10). -/
def afterRevive (s : State) (o : Origin) (slot micros : Nat) (conds : List Status) : State :=
  match s.session slot with
  | none => s
  | some x =>
    if x.pending.isEmpty then complete s o conds (halves micros x.log.length)
    else startPrefill ((markRunning s o).onDescriptor o fun d => { d with conds := d.conds ++ conds }) slot
      { origin := o, tokens := x.pending, own := 0, chunk := 0, left := 0, after := 1, micros := micros }

/-- After resolve 1 the twin's copies are rewritten from the home copies, after 2 the home's stand rewritten
from the twin's (R143). -/
def rewriteCopies (s : State) (slot : Nat) (keep : Nat) : State :=
  if keep = 1 then sendFresh s slot true else s

/-- Resolve 3 discards both copies, and the session is rebuilt from its token log (R100, R114, R143). -/
def resolveRebuild (s : State) (x : Session) (why : Status) (how : Recovery) (deadline : Option Nat) :
    Except (State × Status) (State × List Status) :=
  let s := askTwin s x.cls (.dropCopies (sessionHandle s x)) x.tenant (sessionHandle s x)
  match rebuildKv s x.slot why with
  | .error s' => .error (s', .tierFull)
  | .ok s' => if outlasts s how.micros deadline then .error (s', .deadlineMissed) else .ok (s', [.okReplayed])

/-- SESSION_REVIVE (R100, R114, R141 to R143). A rebuild that outlasts the deadline reports that, with the time and the
length (R114). -/
def execSessionRevive (o : Origin) (twin : List TwinCopy) (phase : Revival) (s : State) : Answer :=
  let how : Recovery := { twin := twin, micros := phase.micros, shares := phase.shares, errs := phase.errs }
  afterClears s <|
  match startSession s o opRevive true with
  | none => .next s
  | some (_, .error (st, r)) => .next (refuse s o st r)
  | some (d, .ok x) =>
    if s.host.compat then .next (refuse s o .formatUnsupported)
    else
      let (s, x) := beginOn s x
      let resolve := reviveResolve d.raw
      let done := fun (r : Except (State × Status) (State × List Status)) keep micros => match r with
        | .error (s', st) => refuse s' o st
            (if st = .deadlineMissed then halves micros x.log.length else 0)
        | .ok (s', conds) => afterRevive (rewriteCopies s' x.slot keep) o x.slot micros conds
      match x.kvLost with
      | some c =>
        .next (if resolve = 3 then done (resolveRebuild s x c how d.deadline) 0 how.micros else refuse s o c)
      | none =>
        if x.state = .suspended then
          .next (if resolve = 0 then refuse s o .copyConflict
            else if resolve = 3 then done (resolveRebuild s x .copyConflict how d.deadline) 0 how.micros
            else done (makeResidentSession s x.slot how resolve d.deadline) resolve how.micros)
        else if x.state = .parked then .next (done (makeResidentSession s x.slot how 0 d.deadline) 0 how.micros)
        else .next (done (recover s x how d.deadline) 0 (if (lossFor x how).isSome then how.micros else 0))

/-! ### MOVE (R106 to R111) -/

/-- handover_pages as it acts (Table 5.19). -/
def handoverPages (s : State) : Nat := clamp 1 96 (fld s.ses.moveCtl 7 0)
/-- max_rounds as it acts. -/
def maxRounds (s : State) : Nat := max 2 (fld s.ses.moveCtl 12 8)

/-- Pages of a session sent to a part under a handle and a request, decrypted by the source and under the ridge encryption
(R106); a page goes in the coding it has (R135). -/
def sendPages (s : State) (x : Session) (dest req : Nat) (object : Word) (parked : Bool) (pages : List Page) : State :=
  let i := sessionImage s x
  (pages.filter fun p => p.index < 0xFF0000).foldl (fun s p =>
    let data := match p.place with
      | .hearth f => frameContent s f
      | _ => codedOf s i false p
    sendFrame s dest 8 x.cls (.page (.session parked) p.index data) x.tenant req object) s

/-- The home's own pages of a running move, all or the dirty ones, and the word to the other stages to send theirs to the
parts that take their layers (R106). -/
def sendRound (s : State) (x : Session) (m : Move) (dirtyOnly : Bool) : State :=
  let mine := if dirtyOnly then x.pages.filter (·.dirty) else x.pages
  let s := sendPages s x m.dest m.req (sessionHandle s x) m.parked mine
  ((shareParts s x).zip m.group.tail).foldl (fun s (p, q) =>
    (sendRequest s p x.cls (.share (sessionHandle s x) (.send q m.handle dirtyOnly)) x.tenant (sessionHandle s x)).1) s

/-- The failing answers of a destination (Table 5.10, R111). -/
def moveRefusal : MoveAnswer → Option Status
  | .unreachable => some .peerLost
  | .notBound => some .imageNotBound
  | .noSlot => some .doesNotFit
  | .noRoom => some .tierFull
  | .ready _ _ => none

/-- Mark every page of a session clean: a round copies the pages dirty at its start (R107). -/
def cleanPages (x : Session) : Session := { x with pages := x.pages.map fun p => { p with dirty := false } }

/-- The record and log of a session as another part gets them, under a slot and generation of its own (R106,
R346). -/
def recordOf (s : State) (x : Session) (slot gen : Nat) (parked : Bool) (running : Option (BitVec 512 × Gen)) :
    Restored :=
  let bytes := ((s.knd.grammars.find? fun g => g.tenant == x.tenant && some g.digest == x.grammar).map
    (·.bytes)).getD 0
  { slot := slot, gen := gen, tenant := x.tenant, image := x.image, variant := x.variant, cls := x.cls,
    durability := x.durability, tclass := some x.tclass, kvclass := some x.kvclass, tail := x.tail,
    bypassed := x.bypassed, streamFlag := x.streamFlag,
    pairs := x.pages.map fun p => (p.index, p.epoch, p.wseq), context := x.context, seed := x.seed, grammar := x.grammar,
    grammarBytes := bytes, start := x.start, maxStack := x.maxStack, gstate := x.gstate,
    gstack := x.gstack, log := x.log, waiting := x.pending, parked := parked, hasPages := true,
    epoch := x.epoch, wseq := x.wseq, layers := x.layers.map (·.slots),
    summaries := x.summaries, tuning := x.tuning,
    schedule := x.schedule.map fun c =>
      { c with armer := match c.armer with
          | .qp _ _ => .ridge s.rdg.part 0
          | a => a },
    cairns := (x.cairnSeq, x.cairnSlots), running := running }

/-- A generation as it goes on at a move's destination: it answers to the part that fetched its descriptor
(notes/assumptions/100.md). -/
def movedGen (s : State) (g : Gen) (id : Nat) : Gen :=
  { g with batch := none, stalled := false,
           origin := match g.origin with
             | .qp _ _ => .ridge s.rdg.part id
             | o => o }

/-- The digests of the pages that a hand-over leaves at the destination, which it checks (Table 5.14): of what each page
holds once decoded. -/
def pageDigests (s : State) (x : Session) : List (Nat × BitVec 128) :=
  (x.pages.filter fun p => p.index < 0xFF0000).filterMap fun p => match p.place with
    | .hearth f => some (p.index, pageTag (frameContent s f))
    | _ => (storedBytes p).map fun c => (p.index, codedTag c)

/-- The hand-over: the remaining dirty pages are sent, the destination holds the session under the new
handle, the source slot becomes a MOVED stub, a running generation goes on there (R108, R110, Table
5.14). The generation's descriptor is executed by the destination from then on, with what is left of its deadline. -/
def handOver (s : State) (slot : Nat) (x : Session) (m : Move) : State :=
  let s := sendRound s x m true
  let id := s.rdg.nextReq
  let running := x.gener.bind fun g => (s.descriptor g.origin).map fun d => (g, d)
  let goes := running.map fun (g, d) => (d.raw, movedGen s g id)
  let s := sendFrame s m.dest 8 x.cls (.page (.handed
    { recordOf s x (hSlot m.handle) (hGen m.handle) m.parked goes with
      deadlineUs := (running.map fun r => deadlineLeft s r.2.deadline).getD 0,
      tags := pageDigests s x,
      image := ((s.descriptor m.origin).map fun d => moveImage d.raw).getD x.image }) recordPage []) x.tenant 0
    (sessionHandle s x)
  let s := match x.gener with
    | some g =>
      let s := s.onRdg fun r => { r with nextReq := (r.nextReq + 1) % 2 ^ 64 }
      match g.origin with
      | .qp _ _ => s.onDescriptor g.origin fun d => { d with phase := .sent m.dest id }
      | .ridge _ _ => dropDescriptor s g.origin
    | none => s
  let s := tellShares s x .close
  let s := dropGrammar (dropColumns (freeSessionPages s x) slot) slot
  let s := sessionEvent s x 6 m.dest
  let stub : Session :=
    { slot := slot, gen := x.gen, state := .moved, tenant := x.tenant, cls := x.cls,
      movedTo := m.handle, expires := s.localNs + ms (fld s.ses.moveCtl 31 16) }
  complete (sendSlotEntry (s.putSession stub) slot) m.origin [] m.handle

/-- A move begins: round 1 copies every page (R106). A session with no activity on one part is handed over at once. -/
def startMove (s : State) (o : Origin) (d : InFlight) (x : Session) (h : Word) (group : List Nat)
    (conds : List Status) : State :=
  let m : Move := { origin := o, dest := moveDest d.raw, handle := h, group := group, req := s.rdg.nextReq,
                    parked := moveParked d.raw || x.state == .parked }
  let s := s.onRdg fun r => { r with nextReq := (r.nextReq + 1) % 2 ^ 64 }
  let s := (markRunning s o).onDescriptor o fun d => { d with conds := d.conds ++ conds }
  let s := sendRound s x m false
  let x := cleanPages x
  if x.gener.isNone && (shareParts s x).isEmpty then handOver (s.putSession x) x.slot x m
  else s.putSession { x with move := some { m with sent := x.pages.map (·.index) } }

/-- SESSION_MOVE (R100, R106, R114): to the home part it has no effect; a session without an activity is copied
whole and handed over; a generating one, and one with shares on other parts, starts round 1 (notes/assumptions/67.md). -/
def execSessionMove : Start → MoveAnswer → State → Answer
  | ⟨o, how⟩, answer, s =>
  afterClears s <|
  match startSession s o opMove false with
  | none => .next s
  | some (_, .error (st, r)) => .next (refuse s o st r)
  | some (d, .ok x) =>
    if s.host.compat then .next (refuse s o .formatUnsupported)
    else if moveDest d.raw = s.rdg.part then .next (complete s o [] (dHandle d.raw))
    else if !s.partUp (moveDest d.raw) then .next (refuse s o .peerLost)
    else match moveRefusal answer, answer with
      | some st, _ => .next (refuse s o st)
      | none, .ready h group =>
        let (s, x) := beginOn s x
        match recover s x how d.deadline with
        | .error (s', st) => .next (refuse s' o st)
        | .ok (s', conds) => .next (startMove s' o d ((s'.session x.slot).getD x) h group conds)
      | none, _ => .next s

/-- Dirty pages of a session. -/
def dirtyPages (x : Session) : Nat := (x.pages.filter (·.dirty)).length

/-- MOVE_ROUND_END (R107 to R109): the hand-over is armed when few enough pages are dirty on every participating part;
otherwise another round copies them, and after max_rounds the session sits out every other step. One that sat out the
step just ended waits for a column again. -/
def execMoveRoundEnd : RoundEnd → State → Answer
  | ⟨slot, dirty⟩, s =>
  match s.session slot with
  | none => .next s
  | some x =>
    match x.move with
    | none => .next s
    | some m =>
      if s.pwr.heldNow || m.armed then .next s
      else if (dirtyPages x :: dirty).all fun n => n ≤ handoverPages s then
        .next (s.putSession { x with
          move := some { m with armed := true, sitsOut := false, skip := false, sent := [] } })
      else
        let s := sendRound s x m true
        .next (readmit (s.putSession { (cleanPages x) with
          move := some { m with round := m.round + 1, skip := false,
                                sent := (x.pages.filter (·.dirty)).map (·.index),
                                sitsOut := m.sitsOut || maxRounds s ≤ m.round } }))

/-- MOVE_HANDOVER (R108, R110, R111): at the session's token boundary, once armed and with no hold; the session holds no
column then. With the destination gone the session takes its next step at the source. -/
def execMoveHandover (slot : Nat) (s : State) : Answer :=
  match s.session slot with
  | none => .next s
  | some x =>
    match x.move with
    | none => .next s
    | some m =>
      if s.pwr.heldNow || !m.armed || x.gener.any (fun g => g.batch.isSome) then .next s
      else if !s.partUp m.dest then .next (readmit (endMove s slot .peerLost))
      else .next (handOver s slot x m)

/-! ### SNAPSHOT and CLOSE -/

/-- Coded pages of a session for a copy: a parked page in the coding it has, a hearth page losslessly
(R135); the record's pages anew. -/
def snapshotPages (s : State) (x : Session) : List (Page × List Byte) :=
  let i := sessionImage s x
  ((x.pages.filter fun p => p.index < 0xFF0000 && !deadPage i x p.index).map fun p =>
    (p, codedOf s i false p)) ++
  (if x.guest.isSome then [] else codedRecords s x)

/-- The parked copy a SNAPSHOT makes, with keys of its own and no activity (Table 5.10). -/
def snapshotOf (s : State) (x : Session) (slot key : Nat) (placed : List Page) : Session :=
  { x with
    slot := slot, gen := nextGen s slot, state := .parked, prefill := none, gener := none, move := none,
    pages := placed, recorder := none, parkWaits := none, maskReady := 0, acks := 0, copied := false,
    heldRecords := [], movedTo := 0, parkedAt := s.localNs, lastCommit := s.localNs, pageKey := key }

/-- A SNAPSHOT of a session whose pages are all there: its copy here, under a key and slot of its own, and the shares'
copies on the other stages; TIER_FULL where one finds no tier leaves no copy (R100, R124, R130, R135). -/
def copySession (s : State) (o : Origin) (x : Session) (d : InFlight) (slot : Nat) (how : Recovery)
    (conds : List Status) : State :=
  let h := mkHandle s.rdg.part x.tenant slot (nextGen s slot)
  let told := tellShares s x (.copy h (parkWhere d.raw))
  let undone := (shareParts s x).foldl (fun s p => (sendRequest s p x.cls (.share h .close) x.tenant h).1) told
  let (keyed, key) := drawKey told
  if how.shares.contains .full then refuse undone o .tierFull
  else match placeParked keyed { x with slot := slot, pageKey := key } (parkWhere d.raw) (snapshotPages s x) with
    | none => refuse undone o .tierFull
    | some (s, placed) =>
      let y := snapshotOf s x slot key placed
      let s := installSession s y
      let s := if 2 ≤ y.durability && twinServes s then sendCoded s y placed else s
      let s := match x.grammar with
        | some g => s.onKnd fun k =>
            { k with grammars := k.grammars.map fun e =>
                if e.tenant = x.tenant && e.digest = g then { e with users := e.users ++ [slot] } else e }
        | none => s
      complete s o conds (sessionHandle s y)

/-- SESSION_SNAPSHOT (R100, R114, R124, R130, R135). -/
def execSessionSnapshot : Start → Nat → State → Answer
  | ⟨o, how⟩, slot, s =>
  afterClears s <|
  match startSession s o opSnapshot false with
  | none => .next s
  | some (_, .error (st, r)) => .next (refuse s o st r)
  | some (d, .ok x) =>
    if s.host.compat || parkWhere d.raw = 3 then .next (refuse s o .formatUnsupported)
    else if slotLimit s ≤ slotsTaken s then .next (refuse s o .doesNotFit)
    else if !s.fbx.trngOk then .next (refuse s o .hardwareFault)
    else if !slotFree s slot then .next s
    else
      let (s, x) := beginOn s x
      match recover s x how d.deadline with
      | .error (s', st) => .next (refuse s' o st)
      | .ok (s', conds) => .next (copySession s' o ((s'.session x.slot).getD x) d slot how conds)

/-- Free a slot: its generation advances, and past 0x3F_FFFF the slot is retired (R84). -/
def freeSlot (s : State) (slot : Nat) (gen : Nat) : State :=
  let held := ((s.session slot).map fun x => (x.heldRecords, x.acks)).getD ([], 0)
  let s := s.putSession { slot := slot, gen := gen + 1, state := .free,
                          heldRecords := held.1, acks := if held.1.isEmpty then 0 else held.2 }
  let s := if gen = 0x3FFFFF then s.onSess fun t => { t with retired := t.retired ++ [slot] } else s
  sendSlotEntry s slot

/-- Every descriptor on a session except its CLOSEs ends as cancelled (R92). -/
def endOthers (s : State) (h : Word) : State :=
  let mine := s.desc.filter fun d => namesSession d.raw && dHandle d.raw == h &&
    dOpcode d.raw != opClose
  mine.foldl (fun s d => match s.descriptor d.origin with
    | some d => (cancelDescriptor s d).2
    | none => s) s

/-- The descriptors on a session that have not completed: a generation's waits for its records (R74). -/
def stillEnding (s : State) (h : Word) : Option Origin :=
  (s.desc.find? fun d => namesSession d.raw && dHandle d.raw == h && dOpcode d.raw != opClose &&
    match d.phase with
    | .ended _ => true
    | _ => false).map (·.origin)

/-- A CLOSE of the same session that runs: it waits for the completions that come before its own. -/
def closing (s : State) (d : InFlight) : Option Origin :=
  (s.desc.find? fun e => e.origin != d.origin && dOpcode e.raw == opClose && dHandle e.raw == dHandle d.raw &&
    e.tenant == d.tenant && match e.phase with
    | .follows _ _ => true
    | _ => false).map (·.origin)

/-- The effect of a CLOSE: pages, record, shares and keys are freed and cleared; the slot is FREE with the next
generation. -/
def closeSession (s : State) (x : Session) : State :=
  let s := endOthers s (sessionHandle s x)
  let s := match s.session x.slot with
    | some x => freeSessionPages (tellShares s x .close) x
    | none => s
  freeSlot (dropGrammar s x.slot) x.slot x.gen

/-- SESSION_CLOSE (R92, R100): what runs and waits on the session ends as cancelled, its completions first; a second one
that comes meanwhile joins the first. -/
def execSessionClose (o : Origin) (s : State) : Answer :=
  match canStart s o opClose with
  | none => .next s
  | some d =>
    match closing s d with
    | some t => .next (s.onDescriptor o fun d => { d with phase := .follows t 0 })
    | none =>
      match startSession s o opClose true with
      | none => .next s
      | some (_, .error (st, r)) => .next (refuse s o st r)
      | some (d, .ok x) =>
        let s := closeSession s x
        match stillEnding s (dHandle d.raw) with
        | some t => .next (s.onDescriptor o fun d => { d with phase := .follows t 0 })
        | none => .next (complete s o [] 0)

/-- STUB_EXPIRE (R84, R89): forward_ms after the hand-over the slot is FREE and its generation advances. -/
def execStubExpire (slot : Nat) (s : State) : Answer :=
  match s.session slot with
  | none => .next s
  | some x =>
    .next (if x.state = .moved && x.expires ≤ s.localNs then freeSlot s slot x.gen else s)

end Sys2Proof.Machine
end

