-- ==== Sys2Proof/Machine/Weights.lean ====
section
/-!
DEFINITION. Weight rows of load images in the banks (R150, R169, R191, R193): which bank and row each takes, their
backing copy, how the rows of a bank out of service are spread over its die's other banks, and the work tables that an
image carries (R153, R173).
-/

namespace Sys2Proof.Machine

/-- The address of a row of an ember's bank: 2 KiB a row, 16,384 rows a bank (R145). -/
def rowAddr (e row : Nat) : Nat := 33554432 * e + 2048 * row

/-- Weight rows that each bank takes: the rows of the section, dealt in bank order (notes/assumptions/35.md). -/
def rowsPerBank (i : Image) : Nat := ceilDiv (ceilDiv i.backing 2048) 3072

/-- Banks of a die that hold their own weight rows of an image. -/
def ownBanks (i : Image) (die : Nat) : List Nat := (upFrom (128 * die) 128).filter fun e => !i.outBanks.contains e

/-- Banks of a die whose rows lie in its other banks. -/
def spreadBanks (i : Image) (die : Nat) : List Nat := i.outBanks.filter fun e => e / 128 == die

/-- Rows of an image in each bank of a die: its own, and its part of those of the banks out of service (R169). -/
def rowsInDie (i : Image) (die : Nat) : Nat :=
  rowsPerBank i + (spreadBanks i die).length * ceilDiv (rowsPerBank i) (ownBanks i die).length

/-- The bank of weight row n of an image, and the row's place among the image's rows there (R169, R191). -/
def weightPlace (i : Image) (n : Nat) : Option (Nat × Nat) :=
  let per := rowsPerBank i
  let e := n / per
  let r := n % per
  if !i.outBanks.contains e then some (e, r)
  else
    let own := ownBanks i (e / 128)
    (own[r % own.length]?).map fun b =>
      (b, per + ((spreadBanks i (e / 128)).takeWhile (· != e)).length * ceilDiv per own.length + r / own.length)

/-- The row of a bank at a place among an image's rows there. -/
def areaRow (i : Image) (e r : Nat) : Nat := 32 * (((imageFramesIn i e)[r / 32]?).getD 0) + r % 32

/-- The backing copy of a weight section: its bytes page by page, coded losslessly (R193). -/
def backingCopy (blob : List Byte) (epoch : Nat) : List (List Byte) :=
  (chunks 65536 (ceilDiv blob.length 65536) blob).map fun b =>
    codePage Config.backingKind epoch 0 false (b ++ List.replicate (65536 - b.length) 0)

/-- The weight rows of an image, decoded from its backing copy (R193). -/
def weightRows (i : Image) : List (List Byte) :=
  chunks 2048 (ceilDiv i.backing 2048) ((i.copy.filterMap decodePage).flatten.take i.backing)

/-- Weight rows written into the banks: those in the banks and rows named. -/
def layRows (s : State) (i : Image) (rows : List (List Byte)) (want : Nat → Nat → Bool) : State :=
  s.onHrt fun h =>
    { h with mem := rows.zipIdx.foldl (fun m (row, n) =>
        match weightPlace i n with
        | some (e, r) => if want e (areaRow i e r) then memWriteAll m (rowAddr e (areaRow i e r)) row else m
        | none => m) h.mem }

/-- A weight row restored from the backing copy of the image that it belongs to (Table 7.8). -/
def restoreRow (s : State) (e row : Nat) : State :=
  (s.img.slots.filter fun i => i.state != .empty && (imageFramesIn i e).contains (row / 32)).foldl
    (fun s i => layRows s i (weightRows i) fun b r => b == e && r == row) s

/-- The work tables that an image carries are written to the embers (R153); those for a part with banks retired as the
image's rows are then spread (Table 7.9). -/
def writeTables (s : State) (i : Image) : State :=
  if i.tables.isEmpty then s
  else (Config.workTables i.tables i.outBanks).foldl (fun s w =>
    if w.ember < 3072 && w.index < 256 then
      s.onEmber w.ember fun e => { e with table := upsert (·.1) (w.index, w.entry) e.table }
    else s) s

/-- Frames that every bank of a die has free for weight rows that are spread there. -/
def spreadChoices (s : State) (i : Image) (die : Nat) : List Nat :=
  (List.range 512).filter fun k => (ownBanks i die).all fun e =>
    !weightFrame s e k && !i.weightFrames.contains k &&
    match s.frame (512 * e + k) with
    | none => true
    | some f => f.clearing && f.tenant == 4096

/-- Further frames that an image needs in every bank of a die. -/
def spreadNeed (i : Image) (die : Nat) : Nat :=
  ceilDiv (rowsInDie i die) 32 - i.weightFrames.length -
    (((lookupBy (·.1) die i.extraFrames).map (·.2.length)).getD 0)

/-- Further frames for the rows of a die's banks out of service; none where its other banks lack room (Table 7.9 step 3). -/
def spreadFrames (s : State) (i : Image) (die : Nat) : Option (List Nat) :=
  let got := (spreadChoices s i die).take (spreadNeed i die)
  if got.length = spreadNeed i die && (!(ownBanks i die).isEmpty || rowsPerBank i = 0) then some got else none

/-- The rows of an image that lie in a bank going out of service move to its die's other banks, room being made by R126;
where there is none, decode on the part fails until the image is loaded again (R169, Table 7.9 step 3). -/
def spreadBank (s : State) (e slot : Nat) : State :=
  let i := { s.image slot with outBanks := (s.image slot).outBanks ++ [e] }
  if (s.image slot).state = .empty || (s.image slot).outBanks.contains e then s
  else
    let s := makeRoom s fun t => (spreadFrames t i (e / 128)).isSome
    match spreadFrames s i (e / 128) with
    | none => s.onImage slot fun i => { i with weightsLost := true }
    | some ks =>
      let had := ((lookupBy (·.1) (e / 128) i.extraFrames).map (·.2)).getD []
      let i := { i with extraFrames :=
        if ks.isEmpty then i.extraFrames else upsert (·.1) (e / 128, had ++ ks) i.extraFrames }
      layRows (s.onImage slot fun _ => i) i (weightRows i) fun b _ => b / 128 == e / 128

end Sys2Proof.Machine
end

