-- ==== Sys2Proof/Machine/EmberOps.lean ====
section
/-!
DEFINITION. The embers as shared operations (R144 to R172): bank addresses, broadcast commands and work-table
entries, weight formats, the skips of R154, read errors (Table 7.8), row repair and bank retirement, and the
way one command runs on every ember it addresses.
-/

namespace Sys2Proof.Machine

/-! ### Geometry (R144, R145) -/

/-- The frame a row lies in (Table 7.1). -/
def frameOf (e row : Nat) : Nat := 512 * e + row / 32

/-- The summit die of an ember (R144). -/
def summitOf (e : Nat) : Nat := e / 1536

/-! ### Broadcast commands (Table 7.4) -/

def cOp (c : BitVec 64) : Nat := fld c 3 0
def cEntry (c : BitVec 64) : Nat := fld c 11 4
def cDies (c : BitVec 64) : Nat := fld c 23 12
/-- Sequence columns in use: 0 acts as 32, as does a value above 32 (Table 7.4, notes/assumptions/33.md). -/
def cBatch (c : BitVec 64) : Nat :=
  let b := fld c 29 24
  if b = 0 || 32 < b then 32 else b
def cHalf (c : BitVec 64) : Nat := fld c 30 30
def cCont (c : BitVec 64) : Bool := bit c 31

/-! ### Work-table entries (Table 7.5) -/

def eOp (w : BitVec 128) : Nat := fld w 3 0
def eFormat (w : BitVec 128) : Nat := fld w 7 4
def eRow (w : BitVec 128) : Nat := fld w 21 8
def eRows (w : BitVec 128) : Nat := fld w 31 22
def eCol (w : BitVec 128) : Nat := fld w 37 32
/-- Input windows: 1 to 8; 0 acts as 8, as does a value above 8. -/
def eWindows (w : BitVec 128) : Nat :=
  let n := fld w 41 38
  if n = 0 || 8 < n then 8 else n
def eWindow (w : BitVec 128) : Nat := fld w 44 42
/-- Outputs: 0 acts as 64; at most 128 for W2 and 64 otherwise. -/
def eOuts (w : BitVec 128) : Nat :=
  let n := fld w 52 45
  min (if n = 0 then 64 else n) (if eOp w = 1 && eFormat w = 3 then 128 else 64)
def eAcc (w : BitVec 128) : Nat := fld w 59 53
def eClear (w : BitVec 128) : Bool := bit w 60
def eEmit (w : BitVec 128) : Bool := bit w 61
def eSplit (w : BitVec 128) : Nat := fld w 63 62
def eSeq (w : BitVec 128) : Nat := fld w 68 64
def eSeg (w : BitVec 128) : Nat := fld w 71 69
def eTenant (w : BitVec 128) : Nat := fld w 83 72
def eParam (w : BitVec 128) : BitVec 32 := BitVec.ofNat 32 (fld w 127 96)

/-- The columns an entry runs: at most 16 for W2 (Table 7.4). -/
def columnsOf (c : BitVec 64) (w : BitVec 128) : Nat :=
  if eOp w = 1 && eFormat w = 3 then min 16 (cBatch c) else cBatch c

/-- Outputs of an accumulator column: 128 for W2, else 64 (Table 7.2). -/
def outputsOf (w : BitVec 128) : Nat := if eOp w = 1 && eFormat w = 3 then 128 else 64

/-- The accumulator entry of output o of column j; the file has 2,048 (Table 7.2). -/
def accIndex (w : BitVec 128) (j o : Nat) : Nat := (outputsOf w * j + (eAcc w + o) % outputsOf w) % 2048

/-- The work-table entry at an index; one never written is all zero, IDLE (Table 7.5). -/
def tableEntry (e : Ember) (n : Nat) : BitVec 128 := ((lookupBy (·.1) n e.table).map (·.2)).getD 0

/-- An entry that does nothing: op 0, or no rows (Table 7.5). -/
def entryIdle (w : BitVec 128) : Bool := eOp w == 0 || eRows w == 0

/-- A bank runs broadcast commands: in service or retiring, its die in broadcast mode (R157, R169, R170). -/
def bankBroadcasts (s : State) (e : Ember) : Bool :=
  (e.state == .inService || e.state == .retiring) && !s.hrt.dieDirect.contains (emberDie e.number)

/-- The embers that a command addresses and whose entry is not IDLE, in ember order (R152). -/
def addressed (s : State) (summit : Nat) (c : BitVec 64) : List (Ember × BitVec 128) :=
  (sortBy (fun (a b : Ember) => decide (a.number < b.number)) s.hrt.embers).filterMap fun e =>
    let w := tableEntry e (cEntry c)
    if summitOf e.number = summit && (cDies c).testBit (emberDie e.number % 12) && bankBroadcasts s e &&
       !entryIdle w then some (e, w) else none

/-- The rows a slice touches beside its own: the row SUMMARY writes, the rows COPYROW copies to. -/
def destRows (w : BitVec 128) : List Nat :=
  if eOp w = 5 then [fld (eParam w) 22 9]
  else if eOp w = 8 then upFrom (fld (eParam w) 13 0) (eRows w)
  else []

/-- The rows of a slice. -/
def sliceRows (w : BitVec 128) : List Nat := upFrom (eRow w) (eRows w)

/-- Why a slice is skipped (R154). -/
inductive SkipCause where
  | operation | rows | tag
  deriving DecidableEq, Repr

/-- A frame tagged for another tenant and not shared-read (R154). -/
def foreignFrame (s : State) (tenant e row : Nat) : Bool :=
  match s.frame (frameOf e row) with
  | some f => !f.shared && f.tenant != tenant
  | none => false

/-- The check of R154 on one slice. -/
def skipCause (s : State) (op : Nat) (e : Ember) (w : BitVec 128) : Option SkipCause :=
  let rows := sliceRows w ++ destRows w
  if eOp w ≠ op || 8 < eOp w || (eOp w = 1 && 4 < eFormat w) then some .operation
  else if rows.any fun r => decide (16383 < r) then some .rows
  else if rows.any (foreignFrame s (eTenant w) e.number) then some .tag
  else none

/-! ### Slice time (R159) -/

/-- Banks and die crossings of a column-split segment (Table 7.5, R159). -/
def segmentBanks : Nat → Nat
  | 1 => 16 | 2 => 32 | 3 => 64 | 4 => 512 | _ => 128

/-- Cycles the bank works on a slice: 64 a row; for value rows the columns read, for a KVWRITE the columns
written, for TOPK_LOCAL 4 candidates a cycle, for copies 80 a row (R146, R151, Table 7.6). -/
def bankCycles (c : BitVec 64) (w : BitVec 128) : Nat :=
  match eOp w with
  | 1 =>
    if eFormat w = 4 then
      (eRows w * 2048 - eCol w * 32) / max 1 (fld (eParam w) 8 0) * ceilDiv (eOuts w) 32
    else 64 * eRows w
  | 2 | 3 => 64 * eRows w
  | 4 => ceilDiv (fld (eParam w) 15 0) 32
  | 5 => 64 * eRows w + 64
  | 6 => 16 * cBatch c
  | 7 => (if bit (eParam w) 0 then 144 else 80) * eRows w
  | 8 => 80 * eRows w
  | _ => 0

/-- Key vectors of a SCORE slice: those of its rows, at most out_count. -/
def scoreVectors (w : BitVec 128) : Nat :=
  min ((eRows w * 2048 - eCol w * 32) / fld (eParam w) 8 0) (eOuts w)

/-- Query heads of a SCORE slice, 1 to 16. -/
def scoreHeads (w : BitVec 128) : Nat := min 16 (fld (eParam w) 12 9)

/-- Sums that a slice emits: for SCORE one for each key vector and query head, for MATVEC and BINDOT one for each output
and column (Table 7.6). -/
def sumsOf (c : BitVec 64) (w : BitVec 128) : Nat :=
  match eOp w with
  | 1 | 3 => eOuts w * columnsOf c w
  | 2 => scoreVectors w * scoreHeads w
  | _ => 0

/-- Cycles of the chain drain; nothing drains where nothing is emitted (R159). -/
def drainCycles (c : BitVec 64) (w : BitVec 128) : Nat :=
  if eSplit w = 1 && eEmit w && sumsOf c w != 0 then
    segmentBanks (eSeg w) - 1 + 8 * (if eSeg w = 4 then 4 else 1) + ceilDiv (4 * sumsOf c w) 32
  else 0

/-- The bound of R159. -/
def sliceFits (c : BitVec 64) (w : BitVec 128) : Bool := decide (bankCycles c w + drainCycles c w ≤ 1300)

/-! ### Buffers and accumulators -/

/-- The broadcaster fills a half, and the token scales of the columns (R148); an empty fill leaves what it holds. -/
def fillHalf (s : State) (summit half : Nat) (acts : List Byte) (scales : List (BitVec 32)) : State :=
  s.onHrt fun h =>
    { h with
      buffers := if acts.isEmpty then h.buffers else upsert (·.1) (2 * summit + half, acts) h.buffers,
      scales := if scales.isEmpty then h.scales else upsert (·.1) (summit, scales) h.scales }

/-- A byte of the half a command reads; zero where nothing has been filled. -/
def halfByte (s : State) (summit half i : Nat) : Byte :=
  (((lookupBy (·.1) (2 * summit + half) s.hrt.buffers).map fun b => b.2.getD i 0)).getD 0

/-- The token scale of a column: 1.0 where nothing has been filled. -/
def columnScale (s : State) (summit j : Nat) : BitVec 32 :=
  (((lookupBy (·.1) summit s.hrt.scales).map fun b => b.2.getD j 0x3F800000)).getD 0x3F800000

/-- Element k of column j of a half (Table 7.2: 256 elements a half). -/
def actElem (s : State) (summit half j k : Nat) : Fl :=
  if k < 256 then e4m3 (halfByte s summit half (256 * j + k)) else flZero

/-- An accumulator. -/
def Ember.accAt (e : Ember) (i : Nat) : BitVec 32 := ((lookupBy (·.1) i e.acc).map (·.2)).getD 0

/-- Set an accumulator. -/
def Ember.setAcc (e : Ember) (i : Nat) (v : BitVec 32) : Ember := { e with acc := upsert (·.1) (i, v) e.acc }

/-- A run for another tenant starts with accumulators and top-k unit zeroed (Table 15.9). -/
def Ember.enter (e : Ember) (tenant : Nat) : Ember :=
  if e.lastTenant = tenant then e
  else { e with acc := [], accColumn := none, topk := [], scanned := 0, candidates := 0, lastTenant := tenant }

/-! ### Weight formats (R149, R150) -/

def formatBits : Nat → Nat
  | 0 => 8 | 1 => 6 | 2 => 4 | _ => 2

def blocksPerRow : Nat → Nat
  | 0 => 62 | 1 => 81 | 2 => 120 | _ => 227

/-- q_i from its field: two's complement, or the code of W2 (R149). -/
def weightQ (fmt q : Nat) : Int :=
  let n := formatBits fmt
  if fmt = 3 then (if q = 1 then 1 else if q = 3 then -1 else 0)
  else if q < 2 ^ (n - 1) then Int.ofNat q else Int.ofNat q - Int.ofNat (2 ^ n)

/-- One weight q × 2^(E - 127), or zero in a block whose E is 0xFF (R149). -/
def weightValue (fmt x q : Nat) : Fl :=
  if x = 255 then flZero
  else
    let v := weightQ fmt q
    .fin (decide (v < 0)) v.natAbs (Int.ofNat x - 127)

/-- Exponent byte and fields of block b of a row (R150). -/
def weightBlock (m : List Host.Cell) (row fmt b : Nat) : Nat × List Nat :=
  let n := formatBits fmt
  let bytes := memReadAll m (row + blocksPerRow fmt + 4 * n * b) (4 * n)
  ((memRead m (row + b)).toNat, (List.range 32).map fun i => bfld bytes (n * i + n - 1) (n * i))

/-- Format errors of a block: one for a reserved exponent, one for each reserved W2 code (R149). -/
def blockErrors (fmt : Nat) (blk : Nat × List Nat) : Nat :=
  if blk.1 = 255 then 1 else if fmt = 3 then (blk.2.filter (· == 2)).length else 0

/-- Block n of a slice's rows; none past its rows (R150). -/
def sliceBlock (s : State) (e : Nat) (w : BitVec 128) (n : Nat) : Option (Nat × List Nat) :=
  let per := blocksPerRow (eFormat w)
  if n < per * eRows w then
    some (weightBlock s.hrt.mem (rowAddr e (eRow w + n / per)) (eFormat w) (n % per))
  else none

/-! ### Read errors, repair and retirement (R163 to R172) -/

/-- Spare rows left in a bank (Table 7.16). -/
def spareLeft (s : State) (e : Nat) : Nat := 64 - (s.ember e).repairs.length

/-- A row mapped onto the next free spare row, and the repair recorded in the repair list (R172). -/
def repairRow (s : State) (e row : Nat) : State :=
  (s.onEmber e fun x => { x with repairs := x.repairs ++ [row],
                                 failedCols := x.failedCols.filter fun c => c.1 != row }).onFwu fun f =>
    { f with repairs := f.repairs ++ [(e, row)] }

/-- Session pages in the frames of a bank. -/
def bankPages (x : Session) (e : Nat) : List Page :=
  x.pages.filter fun p => match p.place with
    | .hearth f => f / 512 == e
    | _ => false

/-- The pages of one block and group of a session moved to another bank under R208, with their contents;
unchanged where no bank has room but in frames that await a clear (R169). -/
def moveGroup (s : State) (slot : Nat) (k g : Nat) (pages : List Nat) : State :=
  match s.session slot with
  | none => s
  | some x =>
    let i := sessionImage s x
    let s := makeRoom s fun t => (placeGroup t i x k g pages).isSome
    match placeGroup s i x k g pages with
    | none => s
    | some (s', got) =>
      if !(takenUncleared s s').isEmpty then s
      else x.pages.foldl (fun s p =>
        match p.place, lookupBy (·.1) p.index got with
        | .hearth f, some (_, f') =>
          setPage (freeFrame (writeFrame s f' (frameContent s f)) f) slot { p with place := .hearth f' }
        | _, _ => s) s'

/-- The session pages of a bank leave it (Table 7.9 step 2). -/
def moveBankPages (s : State) (e : Nat) : State :=
  s.ses.table.foldl (fun s x =>
    let mine := (bankPages x e).map (·.index)
    (pageRuns (sessionImage s x) mine).foldl (fun s (k, g, ps) => moveGroup s x.slot k g ps) s) s

/-- Steps 2 and 3 of Table 7.9: pages and weight rows leave a bank. No copy begins in a hold (R48). -/
def vacateBank (s : State) (e : Nat) : State :=
  if s.pwr.heldNow then s
  else (s.img.slots.map (·.slot)).foldl (fun s n => spreadBank s e n) (moveBankPages s e)

/-- A bank begins to retire: no new frame in it, its pages and weight rows leave it (R169, Table 7.9). -/
def beginRetire (s : State) (e : Nat) : State :=
  if (s.ember e).state ≠ .inService then s
  else leaveBank (vacateBank (s.onEmber e fun x => { x with state := .retiring }) e) e

/-- A row repaired, or the bank retired where no spare row is left (R167, R169). -/
def repairOrRetire (s : State) (e row : Nat) : State :=
  if spareLeft s e = 0 then beginRetire s e else repairRow s e row

/-- The session and page whose frame a row lies in. -/
def pageAtFrame (s : State) (frame : Nat) : Option (Session × Page) :=
  (s.ses.table.filterMap fun x =>
    (x.pages.find? fun p => match p.place with
      | .hearth f => f == frame
      | _ => false).map fun p => (x, p)).head?

/-- A weight row fails: restored from the image's backing copy; the second time in one column it is repaired
onto a spare row (Table 7.8). -/
def weightFails (s : State) (e row col : Nat) : State :=
  let again := (s.ember e).failedCols.contains (row, col)
  let s := restoreRow s e row
  if again then repairOrRetire s e row
  else s.onEmber e fun x => { x with failedCols := x.failedCols ++ [(row, col)] }

/-- What an uncorrectable read leads to (Table 7.8): a session page fails its check, a weight row is restored;
an index row is reloaded from its home copy without a trace (R271). An error that recurs after a repair retires the
bank (R169). -/
def uncorrectableRead (s : State) (weights : Bool) (e row col : Nat) : State :=
  let s := countUncorrectable s e
  let repaired := (s.ember e).repairs.contains row
  let s := match pageAtFrame s (frameOf e row) with
    | some (x, p) => pageFails s x p
    | none => if weights || weightFrame s e (row / 32) then
        (if repaired then restoreRow s e row else weightFails s e row col) else s
  if repaired then beginRetire s e else s

/-- Errors that an armed fault adds to the reads of a bank: kind 1 to any read, kind 2 to a weight row
(Table 18.4). -/
def armedError (s : State) (e row : Nat) (weights : Bool) : List ReadError :=
  if s.dgn.armed && selEmber s == e && (fld s.dgn.injectReg 2 0 == 1 ||
      (weights && fld s.dgn.injectReg 2 0 == 2)) then
    [{ ember := e, row := row, column := 0, symbols := fld s.dgn.injectReg 2 0 }]
  else []

/-- The errors that a read of rows meets; an armed fault strikes (R384). -/
def meetErrors (s : State) (e : Nat) (rows : List Nat) (weights : Bool) (errs : List ReadError) :
    State × List ReadError :=
  let mine := errs.filter fun r => r.ember == e && rows.contains r.row
  match rows with
  | [] => (s, [])
  | row :: _ =>
    match armedError s e row weights with
    | [] => (s, mine)
    | l => (faultStruck s (fld s.dgn.injectReg 2 0), l ++ mine)

/-- A read of rows with its errors counted and answered: whether every column was delivered (R164, R165). -/
def readRows (s : State) (e : Nat) (rows : List Nat) (weights : Bool) (errs : List ReadError) : State × Bool :=
  let (s, mine) := meetErrors s e rows weights errs
  let bad := mine.filter fun r => !corrects r
  let s := countCorrected s e (mine.filter corrects).length
  (bad.foldl (fun s r => uncorrectableRead s weights e r.row r.column) s, bad.isEmpty)

/-! ### Skips -/

/-- A slice is skipped: counted; a frame tag raises an isolation event; the third skip for another reason
within a second retires the bank (R154, R169, R345). -/
def skipSlice (s : State) (e : Nat) (tenant : Nat) (why : SkipCause) : State :=
  let s := s.onDgn fun d => { d with sliceSkips := bump 16 d.sliceSkips }
  match why with
  | .tag => isolation s 1 tenant
  | _ =>
    let recent := (s.ember e).skipTimes.filter fun t => s.localNs < t + 1000000000
    let s := s.onEmber e fun x => { x with skipTimes := recent ++ [s.localNs] }
    if 3 ≤ recent.length + 1 then beginRetire s e else s

/-- The requests that issued a slice that was skipped complete with HARDWARE_FAULT (R154). -/
def failRequests (s : State) (reqs : List Origin) : State :=
  reqs.foldl (fun s o => match s.descriptor o with
    | some d => failDescriptor s d .hardwareFault
    | none => s) s

/-! ### Clear budget (R168) -/

/-- clear_pct as it acts: 1 to 25 (Table 7.11). -/
def clearPct (s : State) : Nat := clamp 1 25 (fld s.hrt.shareCtl 4 0)

/-- A slice of so many cycles of 1.25 ns lets the bank's budget grow, up to 20 µs (R168). -/
def growBudget (s : State) (e cycles : Nat) : State :=
  s.onEmber e fun x => { x with budgetNs := min 20000 (x.budgetNs + cycles * 5 * clearPct s / 400) }

/-- Decode steps run on the part and the bank's work table gives it part in them (R168). -/
def bankBusy (s : State) (e : Nat) : Bool :=
  (s.ses.batches.any fun b => !b.columns.isEmpty) &&
  (s.ember e).table.any fun w => !entryIdle w.2 && eOp w.2 != 7

/-- How many of n pieces of clear work of so many ns each a bank does at a boundary: all while it has nothing else to do;
else as many as begin in the slack and while the budget lasts, and what exceeds the slack is drawn from the budget
(R168). -/
def spendClear (s : State) (e n each slack : Nat) : State × Nat :=
  if !bankBusy s e then (s, n)
  else
    let k := min n ((slack + (s.ember e).budgetNs) / each)
    (s.onEmber e fun x => { x with budgetNs := x.budgetNs - (k * each - slack) }, k)

/-! ### One command (R152, R154, R156, R157) -/

/-- The values that leave an ember: its accumulators in the given order, each with its column's token scale
(R148, R156). -/
def leaving (s : State) (summit : Nat) (scaled : Bool) (e : Nat) (used : List (Nat × Nat)) :
    List (BitVec 32) :=
  used.map fun (i, j) =>
    let v := (s.ember e).accAt i
    if scaled then mulF32 v (columnScale s summit j) else v

/-- The segment of an ember under a chain_seg and its place in the chain: within a die by bank, in a chimney
from die level 3 down to 0 (R157). -/
def segmentOf (seg e : Nat) : Nat := if seg = 4 then e / 512 else e / segmentBanks seg

def chainPlace (seg e : Nat) : Nat := if seg = 4 then 128 * (3 - e / 128 % 4) + e % 128 else e % segmentBanks seg

/-- The last ember of a segment. -/
def segmentTail (seg n : Nat) : Nat := if seg = 4 then 512 * n + 127 else segmentBanks seg * n + segmentBanks seg - 1

/-- Sums element by element: an ember's own partials and the incoming stream (R157). -/
def chainAdd : List (BitVec 32) → List (BitVec 32) → List (BitVec 32)
  | [], b => b
  | a, [] => a
  | x :: a, y :: b => addF32 x y :: chainAdd a b

/-- What the embers of column-split slices send out: one stream for each segment, added in chain order, from
the segment's tail (R157). -/
def chainEmissions (l : List (Nat × BitVec 128 × List (BitVec 32))) : List Emission :=
  let keys := l.foldl (fun ks (e, w, _) =>
    let k := (eSeg w, segmentOf (eSeg w) e)
    if ks.contains k then ks else ks ++ [k]) ([] : List (Nat × Nat))
  keys.map fun (seg, n) =>
    let mine := sortBy (fun (a b : Nat × BitVec 128 × List (BitVec 32)) =>
        decide (chainPlace seg a.1 < chainPlace seg b.1))
      (l.filter fun (e, w, _) => eSeg w == seg && segmentOf seg e == n)
    { ember := segmentTail seg n,
      base := ((mine.head?).map fun (_, w, _) => eAcc w).getD 0,
      values := mine.foldl (fun acc (_, _, v) => chainAdd v acc) [] }

/-- What a command's slices send out (R156, R157): entries with acc_emit, split 2 sends nothing. -/
def emissionsOf (l : List (Nat × BitVec 128 × List (BitVec 32))) : List Emission :=
  let out := l.filter fun (_, w, _) => eEmit w
  ((out.filter fun (_, w, _) => eSplit w == 0 || eSplit w == 3).map fun (e, w, v) =>
    { ember := e, base := eAcc w, values := v : Emission }) ++
  chainEmissions (out.filter fun (_, w, _) => eSplit w == 1)

/-- At the end of a run the top-k lists of its embers go out and the run's counts end (R269). -/
def endRun (s : State) (l : List (Nat × BitVec 128)) : State :=
  l.foldl (fun s (e, _) =>
    let x := s.ember e
    let lists := dedup (x.topk.map (·.1))
    let out := lists.map fun n =>
      { ember := e, base := n, values := [], pairs := (x.topk.filter (·.1 == n)).map (·.2) : Emission }
    (s.onEmber e fun x => { x with topk := [], scanned := 0, candidates := 0 }).onHrt fun h =>
      { h with emitted := h.emitted ++ out }) s

/-- Where a command leaves its broadcaster: inside a run, or at a boundary. Inside a column-split run the banks postpone
their refreshes; at any other boundary they issue what they owe, and an idle period counts as one (R161, R162). -/
def settleRun (s : State) (summit : Nat) (c : BitVec 64) (columnSplit : Bool) : State :=
  let had := runOf s summit
  let run : BroadcastRun := { summit := summit, dies := ((had.map (·.dies)).getD 0) ||| cDies c, split := columnSplit }
  let inside := cCont c && emberPause s == 0
  s.onHrt fun h =>
    { h with
      runs := if inside then upsert (·.summit) run h.runs else h.runs.filter fun r => r.summit != summit,
      owedShared := if inside && columnSplit then h.owedShared else h.owedShared.filter fun o => o.1 != summit }

/-- The entries of a command whose slices run, those that are skipped taken out and counted, and the requests behind
them failed (R154). -/
def checkSlices (s : State) (op : Nat) (reqs : List Origin) (l : List (Ember × BitVec 128)) :
    State × List (Nat × BitVec 128) :=
  l.foldl (fun (acc : State × List (Nat × BitVec 128)) (e, w) =>
    match skipCause acc.1 op e w with
    | some why => (failRequests (skipSlice acc.1 e.number (eTenant w) why) reqs, acc.2)
    | none => (acc.1, acc.2 ++ [(e.number, w)])) (s, [])

/-- Whether a broadcaster issues a command of an operation now: the part serves, no hold stands, the command
names that operation, and every entry keeps the bound of R159. -/
def issues (s : State) (summit op : Nat) (c : BitVec 64) : Bool :=
  s.pwr.ready && !s.pwr.heldNow && cOp c == op && summit < 2 &&
  (addressed s summit c).all fun (_, w) => sliceFits c w

/-- One command on every ember it addresses: the half filled, each slice checked, run, and its values sent
out (R152 to R157). `body` is one ember's slice; `used` the accumulators, with their columns, that the slice
works on and emits. -/
def runCommand (s : State) (summit op : Nat) (c : BitVec 64) (acts : List Byte) (scales : List (BitVec 32))
    (reqs : List Origin) (scaled : Bool) (used : BitVec 128 → List (Nat × Nat))
    (body : State → Nat → BitVec 128 → State) : State :=
  if !issues s summit op c then s
  else
    let s := fillHalf s summit (cHalf c) acts scales
    let (s, run) := checkSlices s op reqs (addressed s summit c)
    let s := run.foldl (fun s (e, w) =>
      growBudget (body (s.onEmber e fun x => x.enter (eTenant w)) e w) e (bankCycles c w)) s
    let s := s.onHrt fun h =>
      { h with emitted := emissionsOf (run.map fun (e, w) =>
          (e, w, leaving s summit scaled e (used w))) }
    let s := if cCont c then s else endRun s run
    settleRun s summit c (run.any fun (_, w) => eSplit w == 1)

/-- Ember writes to frames: region pages among them keep their sealed copy first, and are marked and digested at
the commit (R139, R311, R313). -/
def emberStore (s : State) (frames : List Nat) (f : List Host.Cell → List Host.Cell) : State :=
  let frames := dedup frames
  afterEmberWrite ((beforeEmberWrite s frames).onHrt fun h => { h with mem := f h.mem }) frames

end Sys2Proof.Machine
end

