-- ==== Sys2Proof/Machine/ImageOps.lean ====
section
/-!
DEFINITION. Load images as shared operations (R187 to R201, R235, R239, R245): their header, sections, head-group
map, draft header and vocabulary, the checks of Table 8.9, what a load takes and what an unload frees.
-/

namespace Sys2Proof.Machine

/-! ### The IMAGE_LOAD body (Table 8.8) -/

def loadUnload (d : BitVec 512) : Bool := bit d 256
def loadLength (d : BitVec 512) : Nat := fld d 303 264
def loadTenants (d : BitVec 512) : Nat := fld d 383 320
def loadGroup (d : BitVec 512) : Nat := fld d 447 384

/-! ### Header and sections (Tables 8.5 to 8.7) -/

/-- A section table entry (Table 8.7). -/
structure Section' where
  kind   : Nat
  offset : Nat
  length : Nat
  digest : BitVec 384
  clean  : Bool
  deriving DecidableEq, Repr

/-- Field [hi:lo] of a load image's header (Table 8.6). -/
def hdr (img : List Byte) (hi lo : Nat) : Nat := bfld (img.take 128) hi lo

/-- The section table of an image. -/
def sectionsOf (img : List Byte) : List Section' :=
  (List.range (hdr img 374 368)).map fun k =>
    let e := slice img (128 + 64 * k) 64
    { kind := bfld e 7 0, offset := bfld e 55 16, length := bfld e 95 56,
      digest := BitVec.ofNat 384 (bfld e 511 128), clean := bfld e 15 8 == 0 && bfld e 127 96 == 0 }

/-- The section of a kind. -/
def sectionOf (img : List Byte) (kind : Nat) : Option Section' := (sectionsOf img).find? (·.kind == kind)

/-- The bytes of a section. -/
def sectionBytes (img : List Byte) (x : Section') : List Byte := slice img x.offset x.length

/-- The bytes of the section of a kind; none where the image has none. -/
def sectionData (img : List Byte) (kind : Nat) : Option (List Byte) := (sectionOf img kind).map (sectionBytes img)

/-- Reserved header fields are zero (Table 8.6). -/
def headerClean (img : List Byte) : Bool :=
  hdr img 15 8 == 0 && hdr img 175 172 == 0 && hdr img 255 239 == 0 && hdr img 319 317 == 0 &&
  hdr img 367 363 == 0 && hdr img 1023 375 == 0

/-- Sections lie on 4 KiB boundaries from offset 8,192 on, in range, of a known kind, at most one of each
(Tables 8.5, 8.7, 8.9). -/
def sectionsInRange (img : List Byte) : Bool :=
  let l := sectionsOf img
  1 ≤ l.length && l.length ≤ 64 &&
  (l.all fun x => x.clean && 1 ≤ x.kind && x.kind ≤ 8 && x.offset % 4096 == 0 && 8192 ≤ x.offset &&
    x.offset + x.length ≤ img.length) &&
  (dedup (l.map (·.kind))).length == l.length

/-- The group list is present, names distinct parts, and this part at position stage (Table 8.9). -/
def groupHolds (part stages stage : Nat) (group : List Nat) : Bool :=
  1 ≤ stages && stages ≤ 32 && group.length == stages && (dedup group).length == stages &&
  group[stage]? == some part

/-! ### Head-group map (R201, R202) -/

/-- The map of a section (Tables 9.1, 9.2). -/
def readMap (bs : List Byte) : HeadMap :=
  let g := bfld bs 7 0
  { groups := g, perGroup := bfld bs 15 8, latentRank := bfld bs 24 16,
    dieMasks := (List.range g).map fun k => bfld (slice bs (64 + 16 * k) 16) 31 8,
    scales := (List.range ((bs.length - 64 - 16 * g) / 8)).map fun k =>
      (BitVec.ofNat 32 (leAt bs (64 + 16 * g + 8 * k) 4), BitVec.ofNat 32 (leAt bs (64 + 16 * g + 8 * k + 4) 4)) }

/-- The rules of R202 for a decoder image; in class B the value scales are ignored (R201). -/
def mapHolds (i : Image) (bs : List Byte) : Bool :=
  let m := i.map
  let row := i.perPosition * m.perGroup
  m.groups * m.perGroup == i.kvHeads && m.groups != 0 &&
  ((List.range m.groups).all fun g => bfld (slice bs (64 + 16 * g) 16) 7 0 == g * m.perGroup) &&
  (m.dieMasks.all fun d => d != 0) &&
  row != 0 && row ≤ 1024 && 1024 % row == 0 &&
  (!i.latent || (m.latentRank % 32 == 0 && m.latentRank < i.headDim)) &&
  ((List.range (i.layers * i.kvHeads)).all fun k =>
    match m.scales[k]? with
    | some (sk, sv) => posFiniteF32 sk && (i.latent || posFiniteF32 sv)
    | none => false) &&
  i.blockPages ≤ 1015

/-! ### Draft model (R235) -/

/-- The header of a draft section keeps its ranges (Table 10.3); its reserved fields are ignored (R5). -/
def draftHolds (bs : List Byte) : Bool :=
  let h := bs.take 16
  16 ≤ bs.length && 1 ≤ bfld h 7 0 && bfld h 7 0 ≤ 64 && bfld h 23 8 % 32 == 0 && bfld h 23 8 ≤ 8192 &&
  bfld h 27 24 ≤ 1 && 64 ≤ bfld h 47 32 && bfld h 47 32 ≤ 4096 && bfld h 47 32 % 64 == 0 &&
  1 ≤ bfld h 63 48 && bfld h 63 48 ≤ 4096

/-- Hearth frames of a draft store: store_slots × W × kv_bytes (R235). -/
def draftStoreFrames (bs : List Byte) : Nat :=
  ceilDiv (bfld bs 63 48 * bfld bs 47 32 * bfld bs 95 64) 65536

/-! ### Vocabulary (R244, R245) -/

/-- One vocabulary entry with its piece (Table 11.2). -/
def readPiece (bs : List Byte) (vocab k : Nat) : Piece :=
  let e := slice bs (64 + 16 * k) 16
  { text := slice bs (64 + 16 * vocab + bfld e 31 0) (bfld e 38 32), kind := bfld e 41 40,
    emit := bfld e 42 42 == 1, score := BitVec.ofNat 32 (bfld e 95 64) }

/-- Kindling table room of a vocabulary: 2 × (64 + 16 × vocab + store_bytes) (R245). -/
def vocabRoom (bs : List Byte) : Nat := 2 * (64 + 16 * bfld bs 47 16 + bfld bs 159 128)

/-- A vocabulary section read (Tables 11.1, 11.2). -/
def readVocab (bs : List Byte) (digest : BitVec 384) : Vocab :=
  { nfkc := bfld bs 4 4 == 1, byteBase := bfld bs 79 48, eos := bfld bs 111 80,
    pieces := (List.range (bfld bs 47 16)).map (readPiece bs (bfld bs 47 16)),
    bytes := vocabRoom bs, digest := digest }

/-- The rules of R245. -/
def vocabHolds (bs : List Byte) (vocab : Nat) : Bool :=
  let n := bfld bs 47 16
  let store := bfld bs 159 128
  let ps := (List.range n).map (readPiece bs n)
  let base := bfld bs 79 48
  let controls := (ps.filter fun p => p.kind == 1).map (·.text)
  bfld bs 3 0 == 1 && n == vocab && base + 255 < n && bfld bs 111 80 < n &&
  ((List.range 256).all fun b => ps[base + b]?.any fun p => p.kind == 2 && p.text == [BitVec.ofNat 8 b]) &&
  controls.length == bfld bs 127 112 && bfld bs 127 112 ≤ 1024 && decide (controls.Nodup) &&
  store ≤ 16777216 &&
  (ps.all fun p => p.kind != 3 && finiteF32 p.score && (p.kind != 0 || validUtf8 p.text)) &&
  ((List.range n).all fun k =>
    let e := slice bs (64 + 16 * k) 16
    1 ≤ bfld e 38 32 && bfld e 38 32 ≤ 64 && bfld e 31 0 + bfld e 38 32 ≤ store)

/-! ### Row 1 of Table 8.9 -/

/-- What an image says of itself, as an image slot's record. -/
def imageRecord (img : List Byte) (tenants : Option (List Byte)) (group : List Nat) : Image :=
  let draft := (sectionData img 6).getD []
  let voc := sectionOf img 7
  { slot := 0, state := .loading, id := BitVec.ofNat 128 (hdr img 159 32), encoder := hdr img 7 4 == 1,
    stages := hdr img 165 160, stage := hdr img 171 166, layerFirst := hdr img 183 176,
    layers := hdr img 191 184, hidden := hdr img 207 192, qHeads := hdr img 215 208,
    kvHeads := hdr img 223 216, headDim := hdr img 232 224, wfmtMask := hdr img 236 233,
    latent := hdr img 237 237 == 1, draft := hdr img 238 238 == 1,
    draftWindow := bfld draft 47 32, draftSlots := bfld draft 63 48,
    framesPerBank := hdr img 303 288,
    storeFrames := 16 * hdr img 335 320 + (if hdr img 238 238 = 1 then draftStoreFrames draft else 0),
    variantMib := hdr img 335 320, variantSlots := hdr img 316 304, crestKib := hdr img 351 336,
    contextK := hdr img 362 352, backing := ((sectionOf img 1).map (·.length)).getD 0,
    tables := (sectionData img 2).getD [],
    tenants := tenants, group := group, map := readMap ((sectionData img 4).getD []),
    vocab := match voc with
      | some x => readVocab (sectionBytes img x) x.digest
      | none => {},
    projection := (sectionData img 8).getD [],
    measured := sha384 (img.take 4320) }

/-- What an encoder image must hold (R239). -/
def encoderHolds (img : List Byte) (i : Image) : Bool :=
  i.stages == 1 && !i.draft && !i.latent && i.contextK ≤ 8 && (sectionOf img 8).isSome

/-- Header fields in the ranges of Tables 8.6 and 8.7 that Table 8.10 does not compare with what the part has
(notes/assumptions/78.md): layers and the context limit from 1, weight frames from 1, a head_dim that Table 8.6 lists, key
heads that divide the query heads, and a code projection in encoder images only. -/
def rangesHold (img : List Byte) (i : Image) : Bool :=
  i.layers != 0 && i.contextK != 0 && i.framesPerBank != 0 && i.kvHeads != 0 && i.qHeads % i.kvHeads == 0 &&
  [64, 128, 256].contains i.headDim && (i.encoder || (sectionOf img 8).isNone)

/-- The ember operation and split that Table 8.1 gives a piece of work; the stoves and kindling run the rest (R173). -/
def workDivided (w : WorkEntry) : Bool :=
  let op := eOp w.entry
  match w.work with
  | .projections | .outputProjection | .feedForward | .head => op == 1 && eSplit w.entry == 0
  | .kvWrite => op == 4
  | .scores => op == 2
  | .lookout => op == 2 || op == 6
  | .weightedSum => op == 1 && eSplit w.entry == 1
  | .residual | .rotary | .softmax | .nonlinearity | .finalNorm | .sampler | .draftModel | .mask => false

/-- The work-table entries that an image carries for this part, its banks out of service left out (R169). -/
def workOf (i : Image) : List WorkEntry := if i.tables.isEmpty then [] else Config.workTables i.tables i.outBanks

/-- Check 1 of Table 8.9, with the refusals that R173, R202, R235, R239 and R245 place there; a decoder has a
head-group map, stage 0 a vocabulary, an image with a draft model its section. -/
def formatHolds (s : State) (img : List Byte) (i : Image) : Bool :=
  128 ≤ img.length && hdr img 3 0 == 1 && hdr img 31 16 == 0x9140 && hdr img 7 4 ≤ 1 && headerClean img &&
  sectionsInRange img && groupHolds (if standsBy s then standFor s else s.rdg.part) i.stages i.stage i.group &&
  rangesHold img i &&
  (if i.encoder then encoderHolds img i else ((sectionData img 4).map (mapHolds i)).getD false) &&
  (!i.draft || (i.stage == 0 && ((sectionData img 6).map draftHolds).getD false)) &&
  (i.stage != 0 || ((sectionData img 7).map fun b => vocabHolds b (hdr img 287 256)).getD false) &&
  (workOf i).all workDivided

/-! ### Row 3 of Table 8.9: the fit (Table 8.10) -/

/-- The images on the part. -/
def heldImages (s : State) : List Image := s.img.slots.filter fun i => i.state != .empty

/-- Slots that hold no image. -/
def emptySlots (s : State) : List Nat := (List.range 8).filter fun n => (s.image n).state = .empty

/-- The lowest frames of every bank that no image takes (notes/assumptions/27.md). -/
def framesFor (s : State) (n : Nat) : List Nat :=
  ((List.range 512).filter fun k => (List.range 24).all fun d => !weightFrame s (128 * d) k).take n

/-- An image's rows as this part would take them: the frames of its rows in every bank, and further ones in the dies with
banks out of service, whose rows are spread there; none where a die lacks them (R169, R191). -/
def laidOut (s : State) (i : Image) : Option Image :=
  let out := (s.hrt.embers.filter fun e => e.state != .inService).map (·.number)
  let i := { i with weightFrames := framesFor s i.framesPerBank, outBanks := out }
  (dedup (out.map emberDie)).foldl (fun (acc : Option Image) d => acc.bind fun i =>
    let free := (List.range 512).filter fun k => !weightFrame s (128 * d) k && !i.weightFrames.contains k
    let need := spreadNeed i d
    if free.length < need || (ownBanks i d).isEmpty then none
    else some { i with extraFrames := if need = 0 then i.extraFrames else i.extraFrames ++ [(d, free.take need)] })
    (some i)

/-- Frames that an image's rows take: in every bank in service, and in the dies where rows are spread. -/
def rowFrames (s : State) (i : Image) : Nat :=
  (3072 - banksOut s) * i.framesPerBank + (i.extraFrames.map fun x => banksIn s x.1 * x.2.length).sum

/-- A work-table entry keeps the limits of Tables 7.5 and 7.6; its weight format is one that the image names. -/
def entryFits (i : Image) (w : WorkEntry) : Bool :=
  let e := w.entry
  let p := eParam e
  let dim := [64, 128, 256].contains (fld p 8 0)
  w.ember < 3072 && w.index < 256 && eOp e ≤ 8 &&
  (if eOp e = 1 then eFormat e = 4 || (eFormat e < 4 && i.wfmtMask.testBit (eFormat e)) else eFormat e = 0) &&
  eRow e + eRows e ≤ 16384 && fld e 41 38 ≤ 8 && fld e 52 45 ≤ (if eOp e = 1 && eFormat e = 3 then 128 else 64) &&
  eSplit e ≤ 2 && eSeg e ≤ 4 &&
  match eOp e with
  | 1 => eFormat e != 4 || dim
  | 2 => dim && 1 ≤ fld p 12 9
  | 3 => fld p 1 0 ≤ 2
  | 5 => dim
  | 6 => 1 ≤ fld p 6 0 && fld p 6 0 ≤ 64
  | _ => true

/-- The shape limits of the embers (Tables 7.5, 7.6, 8.6, 8.10). -/
def shapesFit (i : Image) : Bool :=
  i.hidden != 0 && i.hidden % 32 == 0 && i.hidden ≤ 16384 && 1 ≤ i.qHeads / i.kvHeads && i.qHeads / i.kvHeads ≤ 16 &&
  (workOf i).all (entryFits i)

/-- Every resource of Table 8.10, for an image as it would be laid out. -/
def fits (s : State) (i : Image) : Bool :=
  !(emptySlots s).isEmpty &&
  i.weightFrames.length == i.framesPerBank && rowsPerBank i ≤ 32 * i.framesPerBank &&
  rowFrames s i + i.storeFrames ≤ hearthRoom s &&
  foothillHeld s + foothillPending s + foothillLoads s + ceilDiv i.backing 512 ≤ foothillTotal s &&
  ((heldImages s).map (·.crestKib)).sum + i.crestKib + 1024 * min 48 (fld s.tie.crestCtl 5 0) ≤ 65536 &&
  shapesFit i && ((heldImages s).map (·.variantSlots)).sum + i.variantSlots ≤ 4096 &&
  i.vocab.pieces.length ≤ 262144 && ((heldImages s).map (·.vocab.bytes)).sum + i.vocab.bytes ≤ 50331648 &&
  i.contextK ≤ 1024

/-! ### Rows 2, 4 and 5 -/

/-- The signature verifies under some image key (Table 8.5, R330). -/
def imageSigned (s : State) (img : List Byte) : Bool :=
  s.fbx.imageKeys.any fun k => Config.ecdsaOk k (img.take 4224) (slice img 4224 96)

/-- A frame number lies in a frame that an image's rows take. -/
def takesFrame (i : Image) (n : Nat) : Bool := (imageFramesIn i (n / 512)).contains (n % 512)

/-- The frames a load takes hold no session page, and the room left suffices (R191). -/
def loadRoom (i : Image) (s : State) : Bool :=
  (s.tie.frames.all fun f => f.clearing || !takesFrame i f.number) &&
  decide (framesUsed s + rowFrames s i + i.storeFrames ≤ hearthRoom s)

/-- A frame that a load takes awaits its clear, which comes first (R192). -/
def awaitsClear (i : Image) (s : State) : Bool := s.tie.frames.any fun f => f.clearing && takesFrame i f.number

/-- Every section matches its digest (Table 8.9). -/
def sectionsMatch (img : List Byte) : Bool :=
  (sectionsOf img).all fun x => sha384 (sectionBytes img x) == x.digest

/-! ### Taking and freeing -/

/-- Put an image's record into its slot (notes/assumptions/82.md). -/
def putImage (s : State) (i : Image) : State :=
  s.onImg fun g => { g with slots := upsert (·.slot) i g.slots }

/-- Sessions on an image: those of this part, and shares of sessions homed elsewhere. -/
def imageSessions (s : State) (slot : Nat) : List Session :=
  s.ses.table.filter fun x => iSlot x.image == slot && x.state != .free && x.state != .lost && x.state != .moved

/-- An image slot emptied: its frames, stores and backing copy freed and cleared, the shares of sessions homed
elsewhere ended, its batches gone (R194). Its load count stands. -/
def freeImage (s : State) (slot : Nat) : State :=
  let i := s.image slot
  let guests := (imageSessions s slot).filter fun x => x.guest.isSome
  let s := guests.foldl (fun s x =>
    (freeSessionPages s x).onSess fun t => { t with table := dropKey (·.slot) x.slot t.table }) s
  let s := s.onSess fun t => { t with batches := t.batches.filter fun b => b.image != slot }
  let s := freeGranules s noTenant (copyGranules i)
  let s := s.onSess fun t => { t with passing := t.passing.filter fun p => p.1 != slot }
  putImage (freeRows s i) { slot := slot, loads := i.loads }

/-- The handle of an image in a slot (R189). -/
def imageHandle (s : State) (i : Image) : Word :=
  word [put 63 54 s.rdg.part, put 53 51 i.slot, put 31 0 i.loads]

/-- Stages of an image that have not reported (R192; notes/assumptions/120.md). -/
def stagesMissing (s : State) (i : Image) : List Nat :=
  (List.range i.stages).filter fun k => k != i.stage && !(s.img.reports.contains (i.id, k, (i.group[k]?).getD 1024))

/-- The image becomes ready; its handle names it from now on, and its load completes (R192, R194). -/
def becomeReady (s : State) (slot : Nat) : State :=
  let i := s.image slot
  let i := { i with state := .ready, loads := (i.loads + 1) % 2 ^ 32 }
  let s := putImage s { i with origin := none }
  match i.origin with
  | some o => complete s o [] (imageHandle s i)
  | none => s

/-- stage_wait_s as it acts (Table 8.14). -/
def stageWait (s : State) : Nat := max 1 (fld s.ses.decodeCtl 23 16) * 1000000000

/-! ### Variants (R195 to R197) -/

def variantNumber (d : BitVec 512) : Nat := fld d 271 256
def variantLength (d : BitVec 512) : Nat := fld d 303 272
def variantRemove (d : BitVec 512) : Bool := bit d 304

/-- The records of a variant hold (Table 8.13): no layer twice, and in an image of one stage none outside it;
the layers of other stages are those stages' to check (notes/assumptions/36.md). -/
def recordsHold (i : Image) (bs : List Byte) : Bool :=
  match readRecords i.hidden 256 bs with
  | none => false
  | some l =>
    decide ((l.map (·.layer)).Nodup) &&
    (1 < i.stages || l.all fun r => i.layerFirst ≤ r.layer && r.layer < i.layerFirst + i.layers)

/-- Bytes of a variant's records for this stage's layers. -/
def stageBytes (i : Image) (bs : List Byte) : Nat :=
  ((((readRecords i.hidden 256 bs).getD []).filter fun r =>
    i.layerFirst ≤ r.layer && r.layer < i.layerFirst + i.layers).map (·.size)).sum

/-- Stage 0 sends the other stages a variant's records, of which each keeps those of its layers; none takes the variant from
them (R197, notes/assumptions/36.md). -/
def tellVariant (s : State) (i : Image) (n tenant : Nat) (records : List Byte) : State :=
  (i.group.filter fun p => p != s.rdg.part && s.partUp p).foldl (fun s p =>
    (sendRequest s p 0 (.variant i.id n tenant records) tenant).1) s

/-- A session of a tenant, other than one slot's, is open with a variant of an image. -/
def variantInUse (s : State) (i : Image) (tenant n : Nat) (besides : Option Nat) : Bool :=
  (imageSessions s i.slot).any fun x => x.guest.isNone && x.tenant == tenant && x.variant == n &&
    some x.slot != besides

/-- Every other stage of an image is on a part that is up. -/
def stagesUp (s : State) (i : Image) : Bool := i.group.all fun p => p == s.rdg.part || s.partUp p

end Sys2Proof.Machine
end

