-- ==== Sys2Proof/Machine/MergeOps.lean ====
section
/-!
DEFINITION. The merge of an index as a function of the index (R280, Table 12.8), and the building of an index
graph (R279).
-/

namespace Sys2Proof.Machine

/-- The 32 nodes nearest a centroid among others, ties to the lower node (R267, R279). -/
def nearest32 (cells : List IndexCell) (self : Nat) (centroid : List Byte) : List Nat :=
  ((sortBy nearer ((cells.filter (·.node != self)).map fun c => (hamming centroid c.centroid, c.node))).take 32).map
    (·.2)

/-- The cells of a new index: a node per centroid with edges to its 32 nearest; without centroids one node
with a zero centroid (R279). -/
def buildCells (width : Nat) (centroids : List (List Byte)) : List IndexCell :=
  let bare : List IndexCell :=
    if centroids.isEmpty then [{ node := 0, centroid := List.replicate (width / 8) 0, edges := [] }]
    else centroids.zipIdx.map fun (c, n) => { node := n, centroid := c, edges := [] }
  bare.map fun c => { c with edges := nearest32 bare c.node c.centroid }

/-- Bitwise majority of codes, ties to 0 (R280 step 7). -/
def majority (width : Nat) (codes : List (List Byte)) : List Byte :=
  (List.range (width / 8)).map fun j =>
    BitVec.ofNat 8 (((List.range 8).filter fun b =>
      decide (codes.length < 2 * (codes.filter fun code => (code[j]?.getD 0).toNat.testBit b).length)).map
        (2 ^ ·)).sum

/-- Live records of a cell, those in poisoned blocks left out (R271). -/
def liveRecords (x : Index) (cell : Nat) (rs : List Posting) : List Posting :=
  (rs.zipIdx.filter fun (r, i) => !r.deleted && !inPoisoned x cell i).map (·.1)

/-- The cell a scree record goes to: the nearest live one of R268 with nprobe 1; the entry node where none is
live. -/
def assignCell (x : Index) (r : Posting) : Nat := ((traverse x r.code 2).head?).getD 0

/-- A cell with its merged records; `touched` where its blocks are written anew (step 3). -/
structure MergeCell where
  cell    : IndexCell
  touched : Bool
  deriving DecidableEq, Repr

/-- Steps 2 and 3: cell records first, then the assigned scree records in scree order; a tombstone that gains
records is live again (notes/assumptions/84.md). -/
def foldScree (x : Index) (folded : List Posting) : List MergeCell :=
  let homes := folded.map fun r => (assignCell x r, r)
  x.cells.map fun c =>
    let gains := (homes.filter fun h => h.1 == c.node).map (·.2)
    let kept := liveRecords x c.node c.records
    let touched := !gains.isEmpty || kept.length != c.records.length
    { cell := { c with records := if touched then kept ++ gains else c.records,
                       dead := c.dead && gains.isEmpty },
      touched := touched }

/-- Two rounds of 2-means on the codes, ties to the existing centroid: the records that stay and those that go
(step 4). -/
def twoMeans (width : Nat) : Nat → List Byte → List Byte → List Posting → List Posting × List Posting
  | 0, a, b, rs => (rs.filter fun r => hamming r.code a ≤ hamming r.code b,
      rs.filter fun r => !decide (hamming r.code a ≤ hamming r.code b))
  | n + 1, a, b, rs =>
    let (p, q) := (rs.filter fun r => hamming r.code a ≤ hamming r.code b,
      rs.filter fun r => !decide (hamming r.code a ≤ hamming r.code b))
    if n = 0 then (p, q)
    else twoMeans width n (majority width (p.map (·.code))) (majority width (q.map (·.code))) rs

/-- Step 4 on one cell: split where it holds more than cell_max. -/
def splitCell (width cellMax : Nat) (all : List MergeCell) (node : Nat) : List MergeCell :=
  match all.find? fun m => m.cell.node == node with
  | none => all
  | some m =>
    if m.cell.records.length ≤ cellMax then all
    else
      let codes := m.cell.records.map (·.code)
      let seed := (codes[Config.splitSeed codes % max 1 codes.length]?).getD []
      let (stay, go) := twoMeans width 2 m.cell.centroid seed m.cell.records
      let fresh := all.foldl (fun a m => max a (m.cell.node + 1)) 0
      let a : List Byte := majority width (stay.map (·.code))
      let b : List Byte := majority width (go.map (·.code))
      let cells : List IndexCell := (all.map fun m => if m.cell.node = node then { m.cell with centroid := a }
        else m.cell) ++ [{ node := fresh, centroid := b, edges := [] }]
      (all.map fun m =>
        if m.cell.node = node then
          { cell := { m.cell with centroid := a, edges := nearest32 cells node a, records := stay },
            touched := true }
        else m) ++
      [{ cell := { node := fresh, centroid := b, edges := nearest32 cells fresh b, records := go },
         touched := true }]

/-- The nearest live neighbour of a node among its edges (steps 5 and 6). -/
def liveNeighbour (all : List MergeCell) (centroid : List Byte) (edges : List Nat) (not : List Nat) :
    Option Nat :=
  ((sortBy nearer ((all.filter fun m => edges.contains m.cell.node && !m.cell.dead &&
      !not.contains m.cell.node).map fun m => (hamming centroid m.cell.centroid, m.cell.node))).head?).map (·.2)

/-- Step 5 on one cell: below cell_max ÷ 16 live records it is retired, its records going to its nearest live
neighbour. -/
def retireSmall (cellMax : Nat) (all : List MergeCell) (node : Nat) : List MergeCell :=
  match all.find? fun m => m.cell.node == node with
  | none => all
  | some m =>
    if m.cell.dead || cellMax ≤ 16 * m.cell.records.length then all
    else match liveNeighbour all m.cell.centroid m.cell.edges [node] with
      | none => all
      | some t => all.map fun n =>
          if n.cell.node = node then
            { cell := { n.cell with dead := true, hot := false, records := [] }, touched := true }
          else if n.cell.node = t then
            { cell := { n.cell with records := n.cell.records ++ m.cell.records },
              touched := n.touched || !m.cell.records.isEmpty }
          else n

/-- Step 6: edges to removed nodes are replaced by the nearest of that node's live neighbours, up to 32. -/
def repairEdges (all : List MergeCell) (c : IndexCell) : IndexCell :=
  { c with
    edges := (c.edges.foldl (fun (acc : List Nat) e =>
      match all.find? fun m => m.cell.node == e with
      | none => acc
      | some m =>
        if !m.cell.dead then (if acc.contains e then acc else acc ++ [e])
        else match liveNeighbour all c.centroid m.cell.edges (c.node :: acc ++ c.edges) with
          | some t => acc ++ [t]
          | none => acc) []).take 32 }

/-- Where node 0 is removed, the live node nearest its centroid becomes node 0. -/
def renumberEntry (cells : List MergeCell) (old0 : Option (List Byte)) : List MergeCell :=
  if cells.any fun m => m.cell.node == 0 then cells
  else match old0 with
    | none => cells
    | some z =>
      match (sortBy nearer (cells.map fun m => (hamming z m.cell.centroid, m.cell.node))).head? with
      | none => cells
      | some (_, t) =>
        let ren := fun n => if n = t then 0 else n
        cells.map fun m => { m with cell := { m.cell with node := ren m.cell.node, edges := m.cell.edges.map ren } }

/-- Step 7: the centroid of a rewritten cell is the bitwise majority of its live codes; its blocks are new, and it is
cold. -/
def recentre (width : Nat) (m : MergeCell) : IndexCell :=
  if m.touched then
    { m.cell with
      centroid := if m.cell.records.isEmpty then m.cell.centroid else majority width (m.cell.records.map (·.code))
      hot := false
      banks := [] }
  else m.cell

/-- What a merge gives: the new version, records folded, cells split, nodes removed, blocks written, old
blocks. -/
structure Merged where
  index   : Index
  folded  : Nat
  splits  : Nat
  removed : Nat
  written : Nat
  old     : Nat
  deriving DecidableEq, Repr

/-- The merge of Table 12.8, steps 1 to 9. -/
def mergeIndex (x : Index) : Merged :=
  let folded := liveRecords x screeCell x.scree
  let m0 := foldScree x folded
  let split := (m0.map fun m => m.cell.node).foldl (splitCell x.width x.cellMax) m0
  let small := (split.map fun m => m.cell.node).foldl (retireSmall x.cellMax) split
  let gone := (small.filter fun m => m.cell.dead).length
  let kept : List MergeCell := if gone = small.length then small else small.filter fun m => !m.cell.dead
  let zero := (small.find? fun m => m.cell.node == 0).map fun m => m.cell.centroid
  let touched := (small.filter (·.touched)).map fun m => m.cell.node
  let repaired := renumberEntry (kept.map fun m => { m with cell := repairEdges small m.cell }) zero
  { index := { x with cells := repaired.map (recentre x.width), scree := [], screeBanks := [], poisoned := [],
                      version := x.version + 1 }
    folded := folded.length
    splits := split.length - m0.length
    removed := small.length - kept.length
    written := ((small.filter (·.touched)).map fun m => blocksFor x.width m.cell.records.length).sum
    old := ((x.cells.filter fun c => touched.contains c.node).map fun c =>
        blocksFor x.width c.records.length).sum + blocksFor x.width x.scree.length }

end Sys2Proof.Machine
end

