-- ==== Sys2Proof/Machine/Search.lean ====
section
/-!
DEFINITION. The meanings of the search commands (chapter 12): SEARCH_QUERY, SCAN_TURN, INDEX_INSERT,
INDEX_DELETE, INDEX_DROP, INDEX_CREATE, INDEX_MERGE, MERGE_FREE_OLD.
-/

namespace Sys2Proof.Machine

/-! ### SEARCH_QUERY (R272, R273) -/

def queryK (d : BitVec 512) : Nat := fld d 262 256
def queryFilter (d : BitVec 512) : Bool := bit d 263
def queryExact (d : BitVec 512) : Bool := bit d 284
def queryOut (d : BitVec 512) : Nat := fld d 383 320
def queryWiden (d : BitVec 512) : Nat := fld d 283 276

/-- nprobe as it acts: 0 acts as default_nprobe, which acts as 1 at 0 (Tables 12.4, 12.10). -/
def queryProbes (s : State) (d : BitVec 512) : Nat :=
  if fld d 275 264 = 0 then max 1 (fld s.srch.ctl 11 0) else fld d 275 264

/-- ef as it acts (Table 12.4). -/
def queryEf (s : State) (d : BitVec 512) : Nat :=
  let p := queryProbes s d
  let e := fld d 395 384
  if e < p + queryWiden d then min 4095 (max (2 * p) (p + queryWiden d)) else e

/-- The checks of Table 12.6. -/
def queryBad (d : BitVec 512) (width : Nat) (param : List Byte) : Bool :=
  let f := readFilter (param.drop (width / 8))
  param.length != width / 8 + (if queryFilter d then 32 else 0) ||
  fld d 319 285 != 0 || fld d 479 396 != 0 || queryK d == 0 || 64 < queryK d || queryOut d == 0 ||
  (queryFilter d && (decide (f.hi0 < f.lo0) || decide (f.hi1 < f.lo1)))

/-- The blocks of cells and, with them, of the scree, in the order of R266: cells by number, the scree after every cell. -/
def blocksOf (width : Nat) (cells : List IndexCell) (nodes : List Nat) (scree : List Posting) : List (Nat × Nat) :=
  (sortBy (fun (a b : IndexCell) => decide (a.node < b.node))
      (cells.filter fun c => nodes.contains c.node && !c.dead)).flatMap
    (fun c => (List.range (blocksFor width c.records.length)).map fun b => (c.node, b)) ++
  (List.range (blocksFor width scree.length)).map fun b => (screeCell, b)

/-- Probed cells are made hot, nearest first (R264). -/
def probeCells (s : State) (slot : Nat) (nodes : List Nat) : State := nodes.foldl (fun s n => probeCell s slot n) s

/-- The nodes that a query scans first: every live cell where exact, else the first nprobe of best (R273, R281). -/
def firstNodes (s : State) (x : Index) (d : BitVec 512) (best : List Nat) : List Nat :=
  if queryExact d then (x.cells.filter fun c => !c.dead).map (·.node) else best.take (queryProbes s d)

/-- A query as its traversal begins: the version in force, the scree up to its last record, the first cells made hot
(R268, R273, R278; notes/assumptions/140.md). -/
def startQuery (s : State) (d : InFlight) (x : Index) (param : List Byte) : State × Query :=
  let code := param.take (x.width / 8)
  let f := asFetched s d.origin
  let best := if queryExact d.raw then [] else traverse x code (queryEf f d.raw)
  let first := firstNodes f x d.raw best
  let s := probeCells s x.slot first
  let cells := ((s.index x.slot).map (·.cells)).getD x.cells
  (s, { origin := some d.origin, slot := x.slot, version := x.version, width := x.width, code := code,
        filter := if queryFilter d.raw then some (param.drop (x.width / 8)) else none,
        k := queryK d.raw, widen := if queryExact d.raw then 0 else queryWiden d.raw, exact := queryExact d.raw,
        out := queryOut d.raw, best := best.drop (queryProbes f d.raw), sample := fld f.srch.ctl 35 32, cells := cells, scree := x.scree,
        screeBanks := x.screeBanks, left := blocksOf x.width cells first x.scree, scanned := first.length })

/-- The records of a cell of a query's version, or of its scree. -/
def Query.records' (q : Query) (cell : Nat) : List Posting :=
  if cell = screeCell then q.scree else ((lookupBy (·.node) cell q.cells).map (·.records)).getD []

/-- The candidates among the records of one block, each with its place in the cell (R266). -/
def blockHits (q : Query) (cell block : Nat) : List Hit :=
  let per := recordsPerBlock q.width
  (candidatesIn q.code (q.filter.map readFilter) cell (blockRecords q.width block (q.records' cell))).map fun h =>
    { h with place := h.place + per * block }

/-- One block scanned: the first k candidates so far, in the order of R266 (R269). -/
def scanBlock (q : Query) (b : Nat × Nat) : Query :=
  if q.left.contains b then
    { q with left := q.left.filter (· != b),
             hits := (sortBy Hit.before (q.hits ++ blockHits q b.1 b.2)).take q.k,
             records := q.records + (blockRecords q.width b.2 (q.records' b.1)).length }
  else q

/-- Every block that is left, scanned. -/
def scanAll (q : Query) : Query := q.left.foldl scanBlock q

/-- The further pass of a query that falls short of k: up to widen more cells, the next in best (R273). -/
def widenQuery (s : State) (q : Query) : State × Query :=
  if q.k ≤ q.hits.length || q.widen = 0 then (s, { q with widen := 0 })
  else
    let more := q.best.take q.widen
    let s := if ((s.index q.slot).any fun x => x.version == q.version) then probeCells s q.slot more else s
    (s, { q with widen := 0, left := blocksOf q.width q.cells more [], scanned := q.scanned + more.length })

/-- A hit record (Table 12.5). -/
def hitBytes (h : Hit) : List Byte :=
  leBytes 8 h.key ++ leBytes 2 h.dist ++
  leBytes 2 (if h.cell = screeCell then 1 else 0) ++
  leBytes 4 (if h.cell = screeCell then 0xFFFFFFFF else h.cell)

/-- Result of a query (R272). -/
def queryResult (q : Query) : Word :=
  word [put 15 0 q.hits.length, put 47 16 (sat 32 q.records), put 63 48 (sat 16 q.scanned)]

/-- One query in 2^n, with n the sample_log2 that it was fetched under, is also run exact, in the background, over the version
that it scanned (R281, Table 19.11). -/
def sampleQuery (s : State) (q : Query) : State :=
  let n := q.sample
  let s := s.onSrch fun t => { t with queries := t.queries + 1 }
  if n = 0 || s.srch.queries % 2 ^ max 4 n ≠ 0 then s
  else s.onSrch fun t => { t with scans := t.scans ++
    [{ q with origin := none, exact := true, best := [], widen := 0, hits := [], own := q.hits, records := 0,
              left := blocksOf q.width q.cells (q.cells.map (·.node)) q.scree }] }

/-- A sample ends: its exact hits and the overlap are counted, unless a merge has switched the index before (R281). -/
def endSample (s : State) (q : Query) : State :=
  if (s.index q.slot).any fun x => x.version == q.version then
    s.onSrch fun t =>
      { t with samples := bump 16 t.samples,
               expected := sat 24 (t.expected + q.hits.length),
               matched := sat 24 (t.matched + (q.own.filter fun h => q.hits.contains h).length) }
  else s

/-- A query ends as Table 12.6 gives. -/
def endQuery (s : State) (q : Query) : State :=
  match q.origin with
  | none => endSample s q
  | some o =>
    match s.descriptor o with
    | none => s
    | some d =>
      if q.bad then indexSettled (refuse s o .poisoned)
      else if pastDeadline s d then indexSettled (refuse s o .deadlineMissed)
      else
        let s := countTenant (sampleQuery s q) d.tenant 4 1
        let s := if q.hits.isEmpty then s else deliver s o q.out ((q.hits.map hitBytes).flatten)
        if q.k ≤ q.hits.length then indexSettled (complete s o [] (queryResult q))
        else indexSettled (complete (s.onSrch fun t => { t with partials := bump 16 t.partials }) o [.okPartial]
          (queryResult q))

/-- A query with nothing left to scan goes into its further pass, or ends; one with blocks left stays in the scan. -/
def settleQuery (s : State) (q : Query) : State :=
  let keep := fun (s : State) (q : Query) => s.onSrch fun t => { t with scans := t.scans ++ [q] }
  if q.bad then endQuery s q
  else if !q.left.isEmpty then keep s q
  else
    let (s, q) := widenQuery s q
    if q.left.isEmpty then endQuery s q else keep s q

/-- Decode steps run on the part (R270). -/
def decoding (s : State) : Bool := s.ses.batches.any fun b => !b.columns.isEmpty

/-- A query's turns follow one another without pause: the whole query (R270; notes/assumptions/139.md). -/
def wholeQuery (s : State) (q : Query) : State :=
  let (s, q) := widenQuery s (scanAll q)
  endQuery s (scanAll q)

/-- The background samples run to their ends while no decode step runs (R281). -/
def runSamples (s : State) : State :=
  let (samples, rest) := s.srch.scans.partition (·.origin.isNone)
  samples.foldl (fun s q => endSample s (scanAll q)) (s.onSrch fun t => { t with scans := rest })

/-- SEARCH_QUERY (R272, R273, R278, R281): while no decode step runs its turns follow at once; else they are SCAN_TURNs.
`poisoned` are blocks, 65,536 × cell + block, whose hearth and home copies both fail their checks as the scan needs them
(R271). -/
def execSearchQuery (o : Origin) (param : List Byte) (poisoned : List Nat) (s : State) : Answer :=
  match canStart s o opQuery with
  | none => .next s
  | some d =>
    match findIndex s d with
    | .error st => .next (refuse s o st)
    | .ok x =>
      if queryBad d.raw x.width param then .next (refuse s o .formatUnsupported)
      else if pastDeadline s d then .next (refuse s o .deadlineMissed)
      else
        let (s, q) := startQuery s d x param
        let needed := poisoned.filter fun b => q.left.contains (b / 65536, b % 65536)
        let s := needed.foldl (fun s b => match s.index x.slot with
          | some x => poisonBlock s x (b / 65536) (b % 65536)
          | none => s) s
        let q := { q with bad := !needed.isEmpty || q.left.any x.poisoned.contains }
        if decoding s then .next (settleQuery (markRunning s o) q)
        else .next (runSamples (wholeQuery s q))

/-! ### Scan turns (R270) -/

/-- Work of a broadcaster's search in the 100 µs before a moment, in µs (R270). -/
def scanTime (s : State) (summit : Nat) : Nat :=
  ((s.hrt.scanUsed.filter fun e => e.1 == summit && s.localNs < e.2.1 + us 100).map (·.2.2)).sum

/-- The bank of a query's block. -/
def blockBank (q : Query) (b : Nat × Nat) : Nat :=
  let banks := if b.1 = screeCell then q.screeBanks else ((lookupBy (·.node) b.1 q.cells).map (·.banks)).getD []
  (banks[b.2]?).getD 0

/-- The blocks of a turn: at most one per bank of the summit die, for each bank the first that the queries have left, in
their order, samples last (R269, R270, R281). -/
def turnBlocks (summit : Nat) (scans : List Query) : List (Nat × Nat × Nat × Nat × Nat) :=
  let order := (scans.filter (·.origin.isSome)) ++ scans.filter (·.origin.isNone)
  order.foldl (fun got q =>
    q.left.foldl (fun got b =>
      let e := blockBank q b
      if e / 1536 = summit && !(got.any fun g => g.1 == e) then got ++ [(e, q.slot, q.version, b.1, b.2)] else got) got) []

/-- A query's part in a turn: every block of it that the turn reads (R269: columns in one slice probe the same block). -/
def inTurn (turn : List (Nat × Nat × Nat × Nat × Nat)) (q : Query) : Query :=
  turn.foldl (fun q g =>
    if g.2.1 = q.slot && g.2.2.1 = q.version then scanBlock q (g.2.2.2.1, g.2.2.2.2) else q) q

/-- SCAN_TURN (R270): one block per bank at most, scanned for every query that needs it. While a decode step runs, a turn is
issued only at a barrier and within scan_pct of the last 100 µs. -/
def execScanTurn : Nat → ScanSpan → State → Answer
  | summit, ⟨micros, poisoned⟩, s =>
  let pct := min 50 (fld s.hrt.shareCtl 13 8)
  if !s.pwr.ready || s.pwr.heldNow || 3 < micros ||
     (decoding s && (!atBarrier s summit || pct < scanTime s summit + micros)) then .next s
  else
    let s := s.onHrt fun h =>
      { h with scanUsed := (h.scanUsed.filter fun e => s.localNs < e.2.1 + us 100) ++ [(summit, s.localNs, micros)] }
    let turn := turnBlocks summit s.srch.scans
    let s := (poisoned.filter fun p => turn.any fun g => g.2.1 == p.1 && g.2.2.2.1 == p.2 / 65536 &&
        g.2.2.2.2 == p.2 % 65536).foldl (fun s p => match s.index p.1 with
          | some x => poisonBlock s x (p.2 / 65536) (p.2 % 65536)
          | none => s) s
    let scans := s.srch.scans.map (inTurn turn)
    .next (scans.foldl settleQuery (s.onSrch fun t => { t with scans := [] }))

/-! ### Merge (R280) -/

/-- The switch of a merge: the new version in force, the old blocks left to be freed; none where the foothill
tier lacks room for the new blocks. -/
def switchMerge (s : State) (x : Index) : Option (State × Merged) :=
  let m := mergeIndex x
  if foothillFits s (128 * m.written) then
    some (s.putIndex { m.index with old := x.old + m.old }, m)
  else none

/-- The merge that the part starts itself when the scree reaches merge_at_pct of scree_max (R280). -/
def autoMerge (s : State) (slot : Nat) : State :=
  match s.index slot with
  | none => s
  | some x =>
    if bit s.srch.ctl 24 && screeMax s * clamp 10 100 (fld s.srch.ctl 31 25) ≤ 100 * x.scree.length then
      ((switchMerge s x).map (·.1)).getD s
    else s

/-! ### Inserts and deletes (R274 to R277) -/

def insertLength (d : BitVec 512) : Nat := fld d 287 256
def recordCount (d : BitVec 512) : Nat := fld d 303 288
def deleteDrop (d : BitVec 512) : Bool := bit d 304

/-- The records of an INDEX_INSERT; none where the request disagrees with itself (R275). -/
def insertRecords (d : BitVec 512) (width : Nat) (param : List Byte) : Option (List Posting) :=
  let n := recordCount d
  let size := recordBytes width
  let parts := (List.range n).map fun i => slice param (size * i) size
  if n = 0 || insertLength d ≠ n * size || param.length ≠ n * size || !(parts.all (postingClean width)) then
    none
  else some (parts.map (readPosting width))

/-- Commit records in order until one cannot be: the state, records committed, updates among them, whether all
were. -/
def insertAll (slot : Nat) : State → Nat → Nat → List Posting → State × Nat × Nat × Bool
  | s, n, u, [] => (s, n, u, true)
  | s, n, u, r :: rs =>
    match insertRecord s slot r with
    | none => (s, n, u, false)
    | some (s', up) => insertAll slot (autoMerge s' slot) (n + 1) (if up then u + 1 else u) rs

/-- INDEX_INSERT (R274, R275). -/
def execIndexInsert (o : Origin) (param : List Byte) (s : State) : Answer :=
  match canStart s o opInsert with
  | none => .next s
  | some d =>
    if indexBlocked s d then .next s
    else match findIndex s d with
      | .error st => .next (refuse s o st)
      | .ok x =>
        match insertRecords d.raw x.width param with
        | none => .next (refuse s o .formatUnsupported)
        | some rs =>
          if pastDeadline s d then .next (refuse s o .deadlineMissed)
          else
            let (s, n, u, all) := insertAll x.slot s 0 0 rs
            .next (complete s o (if all then [] else [.tierFull]) (word [put 31 0 n, put 63 32 u]))

/-- A delete or drop waits for what runs before it. -/
def waitOn (s : State) (w : IndexWait) : State := s.onSrch fun t => { t with waits := t.waits ++ [w] }

/-- INDEX_DELETE (R276): it completes after every query that runs as it sets its first bit; records of poisoned blocks go with their keys (R271). -/
def execIndexDelete (o : Origin) (param : List Byte) (s : State) : Answer :=
  match canStart s o opDelete with
  | none => .next s
  | some d =>
    if deleteDrop d.raw || indexBlocked s d then .next s
    else match findIndex s d with
      | .error st => .next (refuse s o st)
      | .ok x =>
        let keys := (List.range (recordCount d.raw)).map fun i => leAt param (8 * i) 8
        let (y, n) := keys.foldl (fun (acc : Index × Nat) k =>
          if acc.1.hasKey k then (acc.1.deleteKey k, acc.2 + 1) else acc) (x, 0)
        let on := (s.srch.scans.filter (·.slot == x.slot)).filterMap (·.origin)
        let s := keys.foldl (fun s k => markQueries s x.slot k) (s.putIndex (Index.retireEmpty x y))
        let result := word [put 31 0 n]
        if on.isEmpty then .next (complete s o [] result)
        else .next (waitOn (markRunning s o) { origin := o, slot := x.slot, drop := false, on := on, result := result })

/-- The descriptors that run on an index (R277). -/
def runningOn (s : State) (o : Origin) (h : Word) : List Origin :=
  (s.desc.filter fun e => e.origin != o && dHandle e.raw == h && e.phase == .running &&
    opEmbed ≤ dOpcode e.raw && dOpcode e.raw ≤ opQuery).map (·.origin)

/-- INDEX_DROP (R277): it waits for every descriptor that runs on the index, then the index is freed. -/
def execIndexDrop (o : Origin) (s : State) : Answer :=
  match canStart s o opDelete with
  | none => .next s
  | some d =>
    if !deleteDrop d.raw || indexBlocked s d then .next s
    else match findIndex s d with
      | .error st => .next (refuse s o st)
      | .ok x =>
        match runningOn s o (dHandle d.raw) with
        | [] => .next (complete (freeIndex s x) o [] 0)
        | on => .next (waitOn (markRunning s o) { origin := o, slot := x.slot, drop := true, on := on, result := 0 })

/-! ### Creation and merge (R279, R280) -/

def mergeCreate (d : BitVec 512) : Bool := bit d 256
def createCentroids (d : BitVec 512) : Nat := fld d 303 272
/-- cell_log2: 0 acts as 15 (R279); values outside 12 to 16 are held to it. -/
def createCellLog (d : BitVec 512) : Nat := if fld d 271 264 = 0 then 15 else clamp 12 16 (fld d 271 264)

/-- Hearth frames that are free of sessions, their reserve left out of account. -/
def hearthFree (s : State) : Nat := hearthRoom s - framesUsed s

/-- A slot that an index creation can take. -/
def indexSlotFree (s : State) (slot : Nat) : Bool :=
  slot < 256 && match s.index slot with
    | none => true
    | some x => !x.live

/-- Live indexes. -/
def liveIndexes (s : State) : Nat := (s.srch.indexes.filter fun x => x.live && !x.lost).length

/-- INDEX_CREATE (R279; notes/assumptions/85.md). -/
def execIndexCreate (o : Origin) (param : List Byte) (slot : Nat) (s : State) : Answer :=
  match canStart s o opMerge with
  | none => .next s
  | some d =>
    if dHandle d.raw ≠ 0 then .next s
    else match codeWidth (fld d.raw 258 257) with
      | none => .next (refuse s o .formatUnsupported)
      | some w =>
        let n := createCentroids d.raw
        if !mergeCreate d.raw || 1048576 < n || fld d.raw 351 320 ≠ n * (w / 8) || param.length ≠ n * (w / 8) then
          .next (refuse s o .formatUnsupported)
        else
          let cells := buildCells w ((List.range n).map fun i => slice param (w / 8 * i) (w / 8))
          let conds : List Status := (if 256 ≤ liveIndexes s || standsBy s then [.doesNotFit] else []) ++
            (if hearthFree s < ceilDiv (192 * cells.length) 65536 then [.tierFull] else []) ++
            (if !s.fbx.trngOk then [.hardwareFault] else [])
          if conds ≠ [] then .next (complete s o conds 0)
          else if !indexSlotFree s slot then .next s
          else
            let (s, key) := (s.onFbx fun f => { f with draws := f.draws + 1 }, s.fbx.draws)
            let gen := match s.index slot with
              | none => 1
              | some x => if x.lost then x.gen + 1 else x.gen
            let x : Index := { slot := slot, gen := gen, live := true, tenant := d.tenant, width := w,
                               cellMax := 2 ^ createCellLog d.raw, cells := cells, key := key }
            .next (complete (s.putIndex x) o [] (mkObject s.rdg.part d.tenant slot gen))

/-- INDEX_MERGE on a handle (R280). -/
def execIndexMerge (o : Origin) (s : State) : Answer :=
  match canStart s o opMerge with
  | none => .next s
  | some d =>
    if dHandle d.raw = 0 || indexBlocked s d then .next s
    else match findIndex s d with
      | .error st => .next (refuse s o st)
      | .ok x =>
        if mergeCreate d.raw then .next (refuse s o .formatUnsupported)
        else match switchMerge s x with
          | none => .next (refuse s o .tierFull)
          | some (s, m) =>
            .next (complete s o [] (word [put 31 0 (sat 32 m.folded), put 47 32 (sat 16 m.splits),
                                          put 63 48 (sat 16 m.removed)]))

/-- MERGE_FREE_OLD (R280 step 10): once every query that began before the switch has completed, the old blocks are freed and wait for their clear. -/
def execMergeFreeOld (slot : Nat) (s : State) : Answer :=
  match s.index slot with
  | none => .next s
  | some x =>
    if s.srch.scans.any fun q => q.slot == slot && q.version < x.version && q.origin.isSome then .next s
    else .next ((freeGranules s x.tenant (128 * x.old)).putIndex { x with old := 0 })

end Sys2Proof.Machine
end

