-- ==== Sys2Proof/Machine/Stoves.lean ====
section
/-!
DEFINITION. The meanings of the stove commands (chapter 10): WORK_ITEM_END, SPLIT_INTERVAL, EMBED_BATCH.
-/

namespace Sys2Proof.Machine

/-- WORK_ITEM_END (R227 to R232): the running item ends and leaves its results; an island due to change role does so; the
island takes its next item, none while a hold stands (R48: the item in progress goes on at 1.25 GHz, and no new work
begins), and while the part quiesces only on decode assist (R371). -/
def execWorkItemEnd (island : Nat) (e : ItemDone) (s : State) : Answer :=
  match s.stv.islands.find? fun i => i.number == island with
  | none => .next s
  | some i =>
    if !s.pwr.ready then .next s
    else
      let s := onIsland s island fun i =>
        { i with running := none, results := if i.running.isSome then tileResults e.tile else i.results }
      if s.pwr.heldNow || (s.fwu.attemptAt.isSome && i.role != .decode) then .next s
      else
        let s := if rolesFrozen s then s else s.onStv fun v =>
          (match i.leaving with
            | some r => v.changeRole island r
            | none => v).callDecode
        .next (takeNext s island e.crestOk)

/-- SPLIT_INTERVAL (R231, R233). -/
def execSplitInterval (m : SplitSample) (s : State) : Answer :=
  let s := if m.waitedOver5us then s.onStv fun v => { v with waitSeen := true } else s
  if rolesFrozen s || !s.pwr.ready then .next s
  else .next (s.onStv fun v => v.balance m)

/-! ### EMBED_BATCH (R239 to R242) -/

def embedImage (d : BitVec 512) : Word := BitVec.ofNat 64 (fld d 319 256)
def embedDocsLen (d : BitVec 512) : Nat := fld d 351 320
def embedDocs (d : BitVec 512) : Nat := fld d 367 352
def embedTruncateOk (d : BitVec 512) : Bool := bit d 372
def embedOut (d : BitVec 512) : Nat := fld d 447 384

/-- A document (Table 10.5). -/
structure Document where
  form   : Nat
  key    : Nat
  attr   : Nat
  range0 : Nat
  range1 : Nat
  text   : List Byte
  deriving DecidableEq, Repr

/-- Documents from their headers; none where count, length or padding disagree. -/
def readDocs : Nat → List Byte → Option (List Document)
  | 0, bs => if bs.isEmpty then some [] else none
  | n + 1, bs =>
    let len := leAt bs 0 4
    let padded := ceilDiv len 8 * 8
    let form := bfld bs 32 32
    if bs.length < 32 + padded || (form == 1 && len % 4 != 0) then none
    else (readDocs n (bs.drop (32 + padded))).map fun l =>
      { form := form, key := leAt bs 8 8, attr := leAt bs 16 8, range0 := leAt bs 24 2,
        range1 := leAt bs 26 2, text := slice bs 32 len } :: l

/-- The encoder image that a tenant may use (R242 check 1): ready here and bound. -/
def encoderFor (s : State) (h : Word) (tenant : Nat) : Option Image :=
  match imageOf s h with
  | some i => if boundTo i tenant then some i else none
  | none => none

/-- Tokens of a document: text with trust 1, tokenised early or now, or identifiers (R241, R248). -/
def docTokens (s : State) (v : Vocab) (o : Origin) (n : Nat) (d : Document) : List Nat × Nat :=
  segmentTokens s v o n { trust := 1, form := d.form, payload := d.text }

/-- Identifiers that trust 1 admits. -/
def docAllowed (v : Vocab) (d : Document) : Bool :=
  d.form != 1 || idsAllowed v 1 (readIds (d.text.length / 4) d.text)

/-- Bit j of a code is 1 where v_j > 0 (R241). -/
def binarise (width : Nat) (v : List (BitVec 32)) : List Byte :=
  (List.range (width / 8)).map fun j =>
    BitVec.ofNat 8 (((List.range 8).filter fun b =>
      flLt flZero (f32 ((v[8 * j + b]?).getD 0))).map (2 ^ ·)).sum

/-- The encoder limit in tokens. -/
def encoderLimit (i : Image) : Nat := 1024 * i.contextK

/-- The final-norm outputs of a document's tokens pooled in FP32: their mean, the first's or the last's (R241 step 1); of no
token, a free value. -/
def pooled (pooling hidden : Nat) (tokens : TokenRows) : List (BitVec 32) :=
  (List.range hidden).map fun c =>
    let at' := fun (t : List (BitVec 32)) => (t[c]?).getD 0
    match pooling, tokens, tokens.getLast? with
    | 0, _ :: _, _ => divFl32 (tokens.foldl (fun z t => addF32 z (at' t)) 0) (natF32 tokens.length)
    | 1, t :: _, _ => at' t
    | _, _ :: _, some t => at' t
    | _, _, _ => Config.emptyPool c

/-- The stoves' view of a pooled vector: BF16, the operand format of the projection's rows (Table 10.1; DEDUCED,
notes/assumptions/137.md). -/
def pooledRow (v : List (BitVec 32)) : StoveRow :=
  { format := .bf16, data := v.flatMap fun x => leBytes 2 (toBf16 (f32 x)).toNat }

/-- The pooled vector times the first rows of the code projection (R241 step 2). -/
def projected (i : Image) (width : Nat) (v : List (BitVec 32)) : List (BitVec 32) :=
  let h := pooledRow v
  (List.range width).map fun j =>
    stoveDot { format := .bf16, data := slice i.projection (2 * i.hidden * j) (2 * i.hidden) } h

/-- How far an embedding batch has come, the codes of this run, the condition that ended it. -/
structure EmbedRun where
  state : State
  at'   : Embedding
  codes : List Byte := []
  stop  : Option Status := none
  deriving DecidableEq, Repr

/-- One document embedded in its turn from the encoder's outputs for its tokens (R241, Table 10.6); one without outputs is
an item that failed. -/
def embedOne (i : Image) (index : Option Nat) (d : InFlight) (width : Nat) (r : EmbedRun) (doc : Document)
    (outputs : Option TokenRows) : EmbedRun :=
  if r.stop.isSome then r
  else
    let (ids, bad) := docTokens r.state i.vocab d.origin r.at'.seen doc
    let long := encoderLimit i < ids.length
    let s := r.state.onKnd fun k => { k with inReplaced := sat 32 (k.inReplaced + bad) }
    if long && !embedTruncateOk d.raw then { r with state := s, stop := some .contextFull }
    else match outputs with
      | none => { r with state := s, stop := some .hardwareFault }
      | some tokens =>
        let code := binarise width (projected i width (pooled (fld d.raw 371 370) i.hidden (tokens.take (encoderLimit i))))
        let done := fun (s : State) =>
          { r with
            state := s.onStv fun t =>
              { t with docs := bump 32 t.docs, docsRate := t.docsRate.add s.localNs 1,
                       truncated := if long then bump 16 t.truncated else t.truncated },
            at' := { seen := r.at'.seen + 1, done := r.at'.done + 1, cut := if long then r.at'.cut + 1 else r.at'.cut },
            codes := r.codes ++ code }
        match index with
        | none => done s
        | some slot =>
          match insertRecord s slot { code := code, attr := doc.attr, range0 := doc.range0, range1 := doc.range1,
                                      key := doc.key } with
          | none => { r with state := s, stop := some .tierFull }
          | some (s, _) => done (autoMerge s slot)

/-- The index an embedding batch inserts into, with the checks of R242: none for no index. -/
def embedTarget (s : State) (d : InFlight) : Except Status (Option Index) :=
  if dHandle d.raw = 0 then .ok none
  else match findIndex s d with
    | .error st => .error st
    | .ok x => .ok (some x)

/-- The width a batch asks for differs from its index's. -/
def widthDiffers (w : Nat) : Except Status (Option Index) → Bool
  | .ok (some x) => x.width != w
  | _ => false

/-- The documents of a batch as far as outputs have come for them, from where it stands (R241, R242): codes go out as they
come; the batch completes at its last document or at the condition that ended it, and else goes on. -/
def embedRun (s : State) (d : InFlight) (i : Image) (index : Option Nat) (width : Nat) (docs : List Document)
    (outputs : List (Option TokenRows)) (e : Embedding) : State :=
  let r := ((docs.drop e.seen).zip outputs).foldl (fun r (doc, o) => embedOne i index d width r doc o)
    ({ state := s, at' := e } : EmbedRun)
  let s := if embedOut d.raw = 0 || r.codes.isEmpty then r.state
    else deliver r.state d.origin (embedOut d.raw + width / 8 * e.done) r.codes
  let ends := r.stop.isSome || docs.length ≤ r.at'.seen
  let s := if ends then textDone s d.origin else s
  let result := halves r.at'.done r.at'.cut
  match r.stop with
  | some st => indexSettled (complete s d.origin [st] result)
  | none =>
    if r.at'.seen < docs.length then
      s.onDescriptor d.origin fun d => { d with phase := .running, embed := some r.at' }
    else indexSettled (complete s d.origin (if r.at'.cut = 0 then [] else [.okTruncated]) result)

/-- An embedding batch that has begun, whose hold is over (R49, Table 3.9). -/
def embedGoesOn (s : State) (o : Origin) : Option (InFlight × Embedding) :=
  match s.descriptor o with
  | none => none
  | some d =>
    if s.pwr.ready && !s.pwr.heldNow && d.phase = .running && dOpcode d.raw = opEmbed then d.embed.map fun e => (d, e)
    else none

/-- The index slot, image, code width and documents of a batch that has passed its checks: its image and index stand. -/
def embedParts (s : State) (d : InFlight) (param : List Byte) :
    Except Status (Image × Option Nat × Nat × List Document) :=
  match encoderFor s (embedImage d.raw) d.tenant with
  | none => .error .imageNotBound
  | some i =>
    let target := embedTarget s d
    match codeWidth (fld d.raw 369 368), readDocs (embedDocs d.raw) param with
    | some w, some docs =>
      if !i.encoder || (dHandle d.raw = 0 && embedOut d.raw = 0) || embedDocs d.raw = 0 ||
         param.length ≠ embedDocsLen d.raw || fld d.raw 371 370 = 3 || widthDiffers w target ||
         !(docs.all (docAllowed i.vocab)) then .error .formatUnsupported
      else target.map fun x => (i, x.map (·.slot), w, docs)
    | _, _ => .error .formatUnsupported

/-- EMBED_BATCH (R240 to R242): the checks in their order when the batch starts; the documents for whose tokens the encoder's
outputs are there, in order, now and at each later EMBED_BATCH of the same descriptor. -/
def execEmbedBatch (o : Origin) (param : List Byte) (outputs : List (Option TokenRows)) (s : State) :
    Answer :=
  match embedGoesOn s o with
  | some (d, e) =>
    match embedParts s d param with
    | .error st => .next (indexSettled (complete s o [st] (halves e.done e.cut)))
    | .ok (i, index, w, docs) =>
      if pastDeadline s d then .next (indexSettled (complete s o [.deadlineMissed] (halves e.done e.cut)))
      else .next (embedRun s d i index w docs outputs e)
  | none =>
    match canStart s o opEmbed with
    | none => .next s
    | some d =>
      if indexBlocked s d then .next s
      else match embedParts s d param with
        | .error st => .next (refuse s o st)
        | .ok (i, index, w, docs) =>
          if pastDeadline s d then .next (refuse s o .deadlineMissed)
          else .next (embedRun s d i index w docs outputs {})

end Sys2Proof.Machine
end

