-- ==== Sys2Proof/Machine/Tune.lean ====
section
/-!
DEFINITION. The update of a TUNE_STEP (R223 steps 5 to 7, R224): gradients from what the backward pass has summed, clipping,
Adam with bias correction on FP32 master copies, the stored moments, the records written back.
-/

namespace Sys2Proof.Machine

/-! ### The settings of a TUNE_STEP (Table 9.6) -/

def tuneLength (d : BitVec 512) : Nat := fld d 287 256
def tuneExamples (d : BitVec 512) : Nat := fld d 303 288
def tuneRate (d : BitVec 512) : BitVec 32 := BitVec.ofNat 32 (fld d 351 320)
/-- beta1; 0 acts as 0.9. -/
def tuneBeta1 (d : BitVec 512) : BitVec 32 :=
  if fld d 366 352 = 0 then 0x3F666666 else toF32 (f16 (BitVec.ofNat 16 (fld d 367 352)))
/-- beta2; 0 acts as 0.999. -/
def tuneBeta2 (d : BitVec 512) : BitVec 32 :=
  if fld d 382 368 = 0 then 0x3F7FBE77 else toF32 (f16 (BitVec.ofNat 16 (fld d 383 368)))
/-- eps; 0 acts as 1.0 × 10⁻⁸. -/
def tuneEps (d : BitVec 512) : BitVec 32 := if fld d 414 384 = 0 then 0x322BCC77 else BitVec.ofNat 32 (fld d 415 384)
/-- The global gradient-norm limit; none where clip is 0. -/
def tuneClip (d : BitVec 512) : Option (BitVec 32) :=
  if fld d 430 416 = 0 then none else some (toF32 (f16 (BitVec.ofNat 16 (fld d 431 416))))
def tuneEight (d : BitVec 512) : Bool := bit d 432
def tuneReset (d : BitVec 512) : Bool := bit d 433
def tunePosition (d : BitVec 512) : Nat := fld d 511 448

/-! ### Values of a variant's records (R195) -/

/-- Values that a mode trains: the add vector, then the scale vector. -/
def LayerRecord.hasAdd (r : LayerRecord) : Bool := r.mode ≤ 2
def LayerRecord.hasScale (r : LayerRecord) : Bool := r.mode == 0 || r.mode == 3

/-- The values of a record: its add vector, then its scale vector, channel by channel. -/
def LayerRecord.values (r : LayerRecord) (hidden : Nat) : List (BitVec 32) :=
  (if r.hasAdd then (List.range hidden).map fun c => toF32 (r.addAt c) else []) ++
  (if r.hasScale then (List.range hidden).map fun c => toF32 (r.scaleAt hidden c) else [])

/-- Gradients of a record's values: add_mult × Σ dh[c], scale_mult × Σ dh[c] × h[c] (R223 step 5). -/
def LayerRecord.gradients (r : LayerRecord) (hidden : Nat) (sums : List (BitVec 32) × List (BitVec 32)) :
    List (BitVec 32) :=
  (if r.hasAdd then (List.range hidden).map fun c => mulF32 r.addMult (sums.1.getD c 0) else []) ++
  (if r.hasScale then (List.range hidden).map fun c => mulF32 r.scaleMult (sums.2.getD c 0) else [])

/-- A record written back in its mode: nearest, ties to even, FP8 saturated at ±448 (R223 step 7). -/
def LayerRecord.writeBack (r : LayerRecord) (values : List (BitVec 32)) : List Byte :=
  leBytes 16 (put 7 0 r.layer + put 11 8 r.mode + put 63 32 r.addMult.toNat + put 95 64 r.scaleMult.toNat) ++
  if r.mode = 1 then values.flatMap fun v => leBytes 2 (toBf16 (f32 v)).toNat
  else values.map fun v => toE4m3 (f32 v)

/-- Values cut into those of each record. -/
def splitValues {α : Type} (hidden : Nat) : List LayerRecord → List α → List (LayerRecord × List α)
  | [], _ => []
  | r :: rs, l =>
    let n := hidden * ((if r.hasAdd then 1 else 0) + (if r.hasScale then 1 else 0))
    (r, l.take n) :: splitValues hidden rs (l.drop n)

/-! ### Stored moments (R224) -/

/-- floor(log2 |x|) of a finite value that is not zero. -/
def log2Of : Fl → Int
  | .fin _ m e => Int.ofNat m.log2 + e
  | _ => 0

/-- x × 2^k, rounded to a whole number, ties to even, clamped to ±127 (R224). -/
def blockQuotient (x : Fl) (k : Int) : Int :=
  match x with
  | .fin s m e =>
    let n := if 0 ≤ e + k then m <<< (e + k).toNat else shiftRne m (-(e + k)).toNat
    if s then -(Int.ofNat (min 127 n)) else Int.ofNat (min 127 n)
  | .inf s => if s then -127 else 127
  | .nan => 0

/-- A block of values with its exponent byte: E = floor(log2(max|x|)) + 121; a block of zeros takes 0 (R224). An exponent
outside a byte takes the nearest end, and a value that is no number counts as zero (notes/assumptions/135.md). -/
def momentBlock (xs : List (BitVec 32)) : Nat × List Int :=
  let fin := (xs.map f32).filter fun v => match v with
    | .fin _ m _ => m != 0
    | _ => false
  match fin with
  | [] => (0, xs.map fun _ => 0)
  | v :: vs =>
    let e := (vs.foldl (fun a b => max a (log2Of b)) (log2Of v) + 121).toNat
    let e := min 255 e
    (e, xs.map fun x => blockQuotient (f32 x) (127 - Int.ofNat e))

/-- Moments as they are stored: BF16, or blocks of 32 values. -/
def storeMoments (eightBit : Bool) (l : List (BitVec 32)) : Moments :=
  if eightBit then .blocks ((chunks 32 (l.length + 1) l).map momentBlock) else .bf16 (l.map fun v => toBf16 (f32 v))

/-- Stored moments read. -/
def momentValues : Moments → List (BitVec 32)
  | .bf16 l => l.map fun v => toF32 (bf16 v)
  | .blocks bs => bs.flatMap fun b => b.2.map fun q => toF32 (.fin (decide (q < 0)) q.natAbs (Int.ofNat b.1 - 127))

/-! ### Adam (R223 step 6) -/

/-- The integer square root of n, bit by bit from 2^k on. -/
def isqrt (n : Nat) : Nat → Nat → Nat
  | 0, r => r
  | k + 1, r => isqrt n k (if (r + 2 ^ k) * (r + 2 ^ k) ≤ n then r + 2 ^ k else r)

/-- The square root of a binary32 value, rounded to binary32. -/
def sqrtF32 (b : BitVec 32) : BitVec 32 :=
  match f32 b with
  | .fin false m e =>
    let sh : Nat := if e % 2 = 0 then 80 else 81
    let n := m <<< sh
    let r := isqrt n 64 0
    toF32 (.fin false (2 * r + (if r * r = n then 0 else 1)) ((e - Int.ofNat sh) / 2 - 1))
  | .fin true 0 _ => b
  | .inf false => b
  | _ => 0x7FC00000

/-- a - b in binary32. -/
def subF32 (a b : BitVec 32) : BitVec 32 := toF32 (flAdd (f32 a) (flNeg (f32 b)))

/-- One value's update: the master copy and its two moments, each operation rounded to FP32 (log 135): `c1`, `c2` are the
bias corrections 1 − β^t. -/
def adam (d : BitVec 512) (c1 c2 g w m v : BitVec 32) : BitVec 32 × BitVec 32 × BitVec 32 :=
  let b1 := tuneBeta1 d
  let b2 := tuneBeta2 d
  let m := addF32 (mulF32 b1 m) (mulF32 (subF32 0x3F800000 b1) g)
  let v := addF32 (mulF32 b2 v) (mulF32 (subF32 0x3F800000 b2) (mulF32 g g))
  let step := divFl32 (divFl32 m c1) (addF32 (sqrtF32 (divFl32 v c2)) (tuneEps d))
  (subF32 w (mulF32 (tuneRate d) step), m, v)

/-- Gradients clipped by their global norm. -/
def clipped (d : BitVec 512) (gs : List (BitVec 32)) : List (BitVec 32) :=
  match tuneClip d with
  | none => gs
  | some c =>
    let n := Config.gradNorm gs
    if flLt (f32 c) (f32 n) then gs.map fun g => mulF32 g (divFl32 c n) else gs

/-- The tuning state that a TUNE_STEP starts from: the session's, or a new one from the variant's present records, where it
has none, discards it, or the records have been replaced by ones with other values (R224, Table 9.6). -/
def tuneFrom (old : Option Tuning) (d : BitVec 512) (values : List (BitVec 32)) : Tuning :=
  match (if tuneReset d then none else old) with
  | some t => if t.master.length = values.length then t else fresh t.eightBit
  | none => fresh (tuneEight d)
where
  /-- A state of zero moments. -/
  fresh (eight : Bool) : Tuning :=
    { eightBit := eight, master := values, first := storeMoments eight (values.map fun _ => 0),
      second := storeMoments eight (values.map fun _ => 0) }

/-- The tuning state after a TUNE_STEP: one update of every value, its records written back, t and data_position advanced
(R223, R224). -/
def tuneUpdate (old : Option Tuning) (d : BitVec 512) (hidden : Nat) (records : List LayerRecord)
    (sums : List (List (BitVec 32) × List (BitVec 32))) : Tuning :=
  let t := tuneFrom old d (records.flatMap fun r => r.values hidden)
  let grads := clipped d ((records.zip (sums ++ List.replicate records.length ([], []))).flatMap fun (r, z) =>
    r.gradients hidden z)
  let correct := fun (b : BitVec 32) => subF32 0x3F800000 (Config.betaPower b (t.t + 1))
  let c1 := correct (tuneBeta1 d)
  let c2 := correct (tuneBeta2 d)
  let next := (grads.zip (t.master.zip ((momentValues t.first).zip (momentValues t.second)))).map fun (g, w, m, v) => adam d c1 c2 g w m v
  { t := t.t + 1, data := tunePosition d, eightBit := t.eightBit, master := next.map (·.1),
    first := storeMoments t.eightBit (next.map (·.2.1)), second := storeMoments t.eightBit (next.map (·.2.2)),
    records := (splitValues hidden records (next.map (·.1))).flatMap fun (r, l) => r.writeBack l }

end Sys2Proof.Machine
end

