-- ==== Sys2Proof/Machine/Images.lean ====
section
/-!
DEFINITION. IMAGE_LOAD and unload, VARIANT_LOAD and remove, TUNE_STEP (R187 to R198, R222 to R225).
-/

namespace Sys2Proof.Machine

/-! ### IMAGE_LOAD (R190 to R193) -/

/-- Rows 1 to 3 of Table 8.9: the image as the part would lay it out, or the status. -/
def loadChecks (s : State) (img : List Byte) (i : Image) : Except Status Image :=
  if !formatHolds s img i then .error .formatUnsupported
  else if !imageSigned s img then .error .signatureBad
  else match laidOut s i with
    | none => .error .doesNotFit
    | some i => if fits s i then .ok i else .error .doesNotFit

/-- An image that has passed its checks is written: slot, weight rows, backing copy, work tables (R192, R193). -/
def placeImage (s : State) (o : Origin) (img : List Byte) (i : Image) : State :=
  let slot := ((emptySlots s).head?).getD 0
  let blob := (sectionData img 1).getD []
  let i := { i with slot := slot, loads := (s.image slot).loads, origin := some o, copy := backingCopy blob s.rdg.map.epoch,
                    waitUntil := s.localNs + stageWait (asFetched s o), state := .waiting }
  let s := writeTables (layRows s i (chunks 2048 (ceilDiv blob.length 2048) blob) fun _ _ => true) i
  putImage (markRunning s o) i

/-- IMAGE_LOAD (R190): the image, the tenant bitmap and the group list as read from host memory. The load waits for the
clears pending in its frames; stage 0 waits for the other stages (R192); another stage reports to stage 0 and is ready. -/
def execImageLoad (o : Origin) (image : List Byte) (tenants : List Byte) (group : List Nat) (s : State) :
    Answer :=
  match canStart s o opImageLoad with
  | none => .next s
  | some d =>
    if loadUnload d.raw then .next s
    else
      let list := if loadGroup d.raw = 0 then [s.rdg.part] else group
      let i := imageRecord image (if loadTenants d.raw = 0 then none else some tenants) list
      if image.length ≠ loadLength d.raw || (loadGroup d.raw = 0 && i.stages ≠ 1) then
        .next (refuse s o .formatUnsupported)
      else match loadChecks s image i with
        | .error st => .next (refuse s o st)
        | .ok i =>
          let s := makeRoom s (loadRoom i)
          if !loadRoom i s then .next (refuse s o .tierFull)
          else if !sectionsMatch image then .next (refuse s o .signatureBad)
          else if awaitsClear i s then .next s
          else
            let s := placeImage s o image i
            let slot := ((s.img.slots.find? fun x => x.origin == some o).map (·.slot)).getD 0
            if i.stage ≠ 0 then
              match group[0]? with
              | some p => .next (becomeReady (sendRequest s p 0 (.imageReport i.id i.stage)).1 slot)
              | none => .next (becomeReady s slot)
            else if (stagesMissing s i).isEmpty then .next (becomeReady s slot)
            else .next s

/-- IMAGE_LOAD_COMPLETE (R192): every other stage has reported the same image_id. -/
def execImageLoadComplete (slot : Nat) (s : State) : Answer :=
  let i := s.image slot
  if i.state = .waiting && (stagesMissing s i).isEmpty then .next (becomeReady s slot) else .next s

/-- STAGE_WAIT_TIMEOUT (R192): stage_wait_s has passed; PEER_LOST, and stage 0 unloads its own stage. -/
def execStageWaitTimeout (slot : Nat) (s : State) : Answer :=
  let i := s.image slot
  if i.state = .waiting && i.waitUntil ≤ s.localNs && !(stagesMissing s i).isEmpty then
    let s := freeImage s slot
    match i.origin with
    | some o => .next (refuse s o .peerLost)
    | none => .next s
  else .next s

/-! ### IMAGE_UNLOAD (R194) -/

/-- An embedding batch in flight names an image. -/
def embedsOn (s : State) (i : Image) : Bool :=
  s.desc.any fun d => dOpcode d.raw == opEmbed && iSlot (embedImage d.raw) == i.slot

/-- An unload is refused while a session whose home is this part is open on the image, or an embedding batch in
flight names it. -/
def unloadBusy (s : State) (i : Image) : Bool :=
  ((imageSessions s i.slot).any fun x => x.guest.isNone) || embedsOn s i

/-- IMAGE_UNLOAD (R194): another stage asks stage 0, whose answer decides. -/
def execImageUnload (o : Origin) (s : State) : Answer :=
  match canStart s o opImageLoad with
  | none => .next s
  | some d =>
    if !loadUnload d.raw then .next s
    else match imageOf s (dHandle d.raw) with
      | none => .next (refuse s o .imageNotBound)
      | some i =>
        if unloadBusy s i then .next (refuse s o .sessionBusy)
        else if i.stage = 0 then .next (complete (freeImage s i.slot) o [] 0)
        else match i.group[0]? with
          | none => .next (complete (freeImage s i.slot) o [] 0)
          | some p =>
            if !s.partUp p then .next (refuse s o .peerLost)
            else
              .next (markRunning ((sendRequest s p 0 (.unloadAsk i.id) d.tenant (dHandle d.raw) 0 false none
                (some o)).1.onImage i.slot fun i => { i with state := .unloading }) o)

/-! ### Variants (R195 to R197) -/

/-- The image a variant descriptor names: ready here as stage 0, bound to the tenant (Table 8.13). -/
def variantImage (s : State) (d : InFlight) : Option Image :=
  match imageOf s (dHandle d.raw) with
  | some i => if i.stage = 0 && boundTo i d.tenant then some i else none
  | none => none

/-- The failures of VARIANT_LOAD in the order of Table 8.13 (notes/assumptions/80.md). -/
def variantRefusal (s : State) (i : Image) (d : InFlight) (bs : List Byte) (stagesFit : Bool) : Option Status :=
  let n := variantNumber d.raw
  let held := ((i.variants.filter fun v => v.number != n).map fun v => stageBytes i v.records).sum
  if (variantAt i n).any fun v => v.tenant != d.tenant then some .accessDenied
  else if n = 0 || bs.length ≠ variantLength d.raw || !recordsHold i bs then some .formatUnsupported
  else if variantInUse s i d.tenant n none then some .sessionBusy
  else if i.variantSlots = 0 || i.variantMib * 1048576 < held + stageBytes i bs || !stagesFit then
    some .doesNotFit
  else if !stagesUp s i then some .peerLost
  else none

/-- VARIANT_LOAD (R197): the loading tenant becomes the owner; a number it holds already is replaced. A stage without room,
or one that cannot be reached, removes the variant from every stage. -/
def execVariantLoad (o : Origin) (param : List Byte) (stagesFit : Bool) (s : State) : Answer :=
  match canStart s o opVariantLoad with
  | none => .next s
  | some d =>
    if variantRemove d.raw then .next s
    else match variantImage s d with
      | none => .next (refuse s o .imageNotBound)
      | some i =>
        match variantRefusal s i d param stagesFit with
        | some st =>
          let s := if st = .doesNotFit || st = .peerLost then
              tellVariant (s.onImage i.slot fun i =>
                { i with variants := dropKey (·.number) (variantNumber d.raw) i.variants })
                i (variantNumber d.raw) d.tenant []
            else s
          .next (refuse s o st)
        | none =>
          let v : Variant := { number := variantNumber d.raw, tenant := d.tenant, records := param }
          .next (complete (tellVariant (s.onImage i.slot fun i => { i with variants := upsert (·.number) v i.variants })
            i v.number d.tenant param) o [] 0)

/-- VARIANT_REMOVE (R197). -/
def execVariantRemove (o : Origin) (s : State) : Answer :=
  match canStart s o opVariantLoad with
  | none => .next s
  | some d =>
    if !variantRemove d.raw then .next s
    else match variantImage s d with
      | none => .next (refuse s o .imageNotBound)
      | some i =>
        let n := variantNumber d.raw
        match variantAt i n with
        | none => .next (if n = 0 then refuse s o .formatUnsupported else complete s o [] 0)
        | some v =>
          if v.tenant ≠ d.tenant then .next (refuse s o .accessDenied)
          else if variantInUse s i d.tenant n none then .next (refuse s o .sessionBusy)
          else if !stagesUp s i then .next (refuse s o .peerLost)
          else .next (complete
            (tellVariant (s.onImage i.slot fun i => { i with variants := dropKey (·.number) n i.variants })
              i n d.tenant []) o [] 0)

/-! ### TUNE_STEP (R222 to R225) -/

/-- An example: its tokens and where its loss starts (R222). -/
structure Example where
  tokens : List Nat
  start  : Nat
  deriving DecidableEq, Repr

/-- Examples; none where a count, length or range disagrees (R222, R225). -/
def readExamples : Nat → List Byte → Option (List Example)
  | 0, bs => if bs.isEmpty then some [] else none
  | n + 1, bs =>
    let t := leAt bs 0 4
    let start := leAt bs 4 4
    let size := 16 + ceilDiv (4 * t) 8 * 8
    if bs.length < size || t < 2 || 65536 < t || start < 1 || t ≤ start then none
    else (readExamples n (bs.drop size)).map fun l =>
      { tokens := readIds t (bs.drop 16), start := start } :: l

/-- Tokens counted in the loss: loss_start to T - 1 of every example (R222, R223). -/
def tuneCounted (l : List Example) : Nat := (l.map fun e => e.tokens.length - e.start).sum

/-- Hearth frames for the saved statistics of an example of T tokens: 8 bytes for each query row, layer and
head, and each layer's input in BF16 (R223). -/
def statisticsFrames (i : Image) (t : Nat) : Nat :=
  ceilDiv (8 * t * i.layers * i.qHeads + 2 * t * i.hidden * i.layers) 65536

/-- Pages of tuning state for records of so many values: FP32 masters and two moments, BF16 or 8-bit blocks with
an exponent byte (R224). -/
def tuningPages (values : Nat) (eightBit : Bool) : List Nat :=
  upFrom 0xFE0000 (ceilDiv (values * 4 + (if eightBit then 2 * (values + ceilDiv values 32) else 4 * values)) 65536)

/-- Values trained: those of every layer record of this stage. -/
def tuneValues (i : Image) (bs : List Byte) : Nat :=
  (((readRecords i.hidden 256 bs).getD []).filter fun r =>
    i.layerFirst ≤ r.layer && r.layer < i.layerFirst + i.layers).map
    (fun r => if r.mode ≤ 1 then 2 * i.hidden else i.hidden) |>.sum

/-- The checks 1 to 4 and 6 of R225 that need no room; examples where they pass. -/
def tuneRefusal (s : State) (x : Session) (i : Image) (d : InFlight) (param : List Byte) :
    Except Status (List Example × Variant) :=
  match (if x.variant = 0 then none else variantAt i x.variant) with
  | none => .error .accessDenied
  | some v =>
    if v.tenant ≠ d.tenant then .error .accessDenied
    else if param.length ≠ tuneLength d.raw || tuneExamples d.raw = 0 || 4096 < tuneExamples d.raw then
      .error .formatUnsupported
    else match readExamples (tuneExamples d.raw) param with
      | none => .error .formatUnsupported
      | some l =>
        if l.any fun e => e.tokens.any fun t => decide (i.vocab.pieces.length ≤ t) then .error .formatUnsupported
        else if variantInUse s i d.tenant x.variant (some x.slot) then .error .sessionBusy
        else if l.any fun e => decide (x.context < x.log.length + e.tokens.length - 1) then .error .contextFull
        else .ok (l, v)

/-- Room in hearth for the dead KV of the longest example, its statistics and new tuning pages (R225). -/
def tuneRoom (i : Image) (x : Session) (l : List Example) (pages : List Nat) (s : State) : Bool :=
  let t := (l.map fun e => e.tokens.length).foldl max 0
  let dead := missingPages i x (blocksForWrite i x t)
  let stats := (l.map fun e => statisticsFrames i e.tokens.length).foldl max 0
  hearthFits s (dead.length + stats + pages.length) false && (placePages s i x (dead ++ pages)).isSome

/-- The commit of a TUNE_STEP: the variant's records on every stage, the tuning state; the session's length, log and KV stand
(R223, R224; notes/assumptions/81.md). -/
def commitTune (s : State) (slot : Nat) (i : Image) (v : Variant) (u : Tuning) (pages : List Nat) : State :=
  let s := tellVariant
    (s.onImage i.slot fun i => { i with variants := upsert (·.number) { v with records := u.records } i.variants })
    i v.number v.tenant u.records
  let s := s.onSession slot fun x =>
    { x with wseq := x.wseq + 1, epoch := s.rdg.map.epoch,
             schedule := x.schedule.map fun c => { c with steps := c.steps + 1 }, tuning := some u }
  sendRecordCopy (writePages s slot { pages := pages }) slot

/-- TUNE_STEP (R222 to R225). A parked session is made RESIDENT first, as for GENERATE
(notes/assumptions/37.md). -/
def execTuneStep : Start → List Byte → BitVec 32 → List (List (BitVec 32) × List (BitVec 32)) → State → Answer
  | ⟨o, how⟩, param, loss, sums, s =>
  afterClears s <|
  match startSession s o opTune false with
  | none => .next s
  | some (_, .error (st, r)) => .next (refuse s o st r)
  | some (d, .ok x) =>
    let i := sessionImage s x
    match tuneRefusal s x i d param with
    | .error st => .next (refuse s o st)
    | .ok (l, v) =>
        let (s, x) := beginOn s x
        let ready := if x.state = .parked then makeResidentSession s x.slot how 0 d.deadline
          else recover s x how d.deadline
        match ready with
        | .error (s, st) => .next (refuse s o st)
        | .ok (s, conds) =>
          match s.session x.slot with
          | none => .next s
          | some x =>
            let u := tuneUpdate x.tuning d.raw i.hidden ((readRecords i.hidden 256 v.records).getD []) sums
            let all := tuningPages (tuneValues i v.records) u.eightBit
            let fresh := all.filter fun p => !(x.pages.any fun q => q.index == p)
            let s := makeRoom s (tuneRoom i x l fresh)
            if !tuneRoom i x l fresh s then .next (refuse s o .tierFull)
            else if !stagesUp s i then .next (refuse s o .peerLost)
            else match placePages s i x fresh with
              | none => .next (refuse s o .tierFull)
              | some (s, got) =>
                let s := commitTune (addPages s x.slot got) x.slot i v u all
                .next (complete s o conds (word [put 31 0 loss.toNat, put 63 32 (tuneCounted l)]))

end Sys2Proof.Machine
end

