-- ==== Sys2Proof/Machine/Sampler.lean ====
section
/-!
DEFINITION. The sampler (R185, R186, R393, R394), speculative acceptance (R183) and what ends a committed
run (R184, R258, R259), over the raw FP32 logits of a session's columns.
-/

namespace Sys2Proof.Machine

/-! ### Candidates -/

/-- A candidate: a token and its logit. -/
abbrev Cand := Nat × BitVec 32

/-- A logit divided by the temperature, rounded to FP32. -/
def divF32 (a : BitVec 32) (t : BitVec 16) : BitVec 32 := toF32 (flDiv (f32 a) (f16 t))

/-- The logits that take part: no token the mask forbids, no NaN and no −inf; +inf counts as the largest
finite value (R393). -/
def candidates (allowed : Nat → Bool) (logits : List (BitVec 32)) : List Cand :=
  (logits.zipIdx.filter fun (l, t) => allowed t && !isNanF32 l && l != 0xFF800000).map fun (l, t) =>
    (t, if l = 0x7F800000 then 0x7F7FFFFF else l)

/-- The greatest logit, the lowest identifier among equals (R185). -/
def argmax : List Cand → Option Nat
  | [] => none
  | c :: cs => some (cs.foldl (fun (b : Cand) x => if flLt (f32 b.2) (f32 x.2) then x else b) c).1

/-! ### Distributions -/

/-- Order of top_k: greater logit first, ties to the lower identifier. -/
def ranksBefore (a b : Cand) : Bool :=
  flLt (f32 b.2) (f32 a.2) || (!flLt (f32 a.2) (f32 b.2) && decide (a.1 < b.1))

/-- Temperature is zero (R185). -/
def isGreedy (temp : BitVec 16) : Bool := temp &&& 0x7FFF == 0

/-- Temperature is +infinity (Table 5.8). -/
def isFlat (temp : BitVec 16) : Bool := temp == 0x7C00

/-- Order of the sampler's sort: greater probability first, ties to the lower identifier (R185). -/
def likelier (a b : Nat × Nat) : Bool := decide (b.2 < a.2) || (a.2 == b.2 && decide (a.1 < b.1))

/-- A logit in units of 2^-149. A quotient beyond binary32's range counts as 2^128. -/
def fixedF32 (b : BitVec 32) : Int :=
  match f32 b with
  | .nan => 0
  | .inf s => if s then -(2 ^ 277) else 2 ^ 277
  | .fin s m e => flAlign s m e (-149)

/-- The series of exp(-r) to its n-th term, from the k-th on; r and the sum in units of 2^-96. -/
def expSeries (r : Nat) : Nat → Nat → Nat
  | 0, _ => 2 ^ 96
  | n + 1, k => 2 ^ 96 - r * expSeries r n (k + 1) / k / 2 ^ 96

/-- exp(-d) for d in units of 2^-149, in units of 2^-192: 2^-k times exp of what is left below ln 2, exact to within
2^-60 of the value; below 2^-192 it is 0. -/
def expNeg (d : Nat) : Nat :=
  let x := d >>> 53
  let k := x / 54916777467707473351141471128
  if 192 < k then 0 else (expSeries (x % 54916777467707473351141471128) 24 1 <<< 96) >>> k

/-- Shares of their sum, in units of 2^-192. -/
def normalised (l : List (Nat × Nat)) : List (Nat × Nat) :=
  l.map fun c => (c.1, (c.2 <<< 192) / max 1 (l.map (·.2)).sum)

/-- Softmax over the kept tokens (R185). -/
def softmax (kept : List Cand) : List (Nat × Nat) :=
  let top := (kept.map fun c => fixedF32 c.2).foldl max (-(2 ^ 278))
  normalised (kept.map fun c => (c.1, expNeg (top - fixedF32 c.2).toNat))

/-- A probability as the part computes it: within 2^-20 of its value (R394). -/
def roundedProb (dist : List (Nat × Nat)) (t p : Nat) : Nat :=
  let slack := p * (2 ^ 20 - 1) / 2 ^ 40
  p - slack + Config.probError dist t % (2 * slack + 1)

/-- A running sum as the part computes it: within 2^-20 (R394). -/
def roundedSum (dist : List (Nat × Nat)) (place sum : Nat) : Nat :=
  sum + Config.sumError dist place % (2 ^ 173 - 1) - (2 ^ 172 - 1)

/-- top_p reached by a sum of probabilities in units of 2^-192. -/
def reachesTopP (topP : BitVec 16) (sum : Nat) : Bool :=
  match f16 topP with
  | .fin _ m e => decide (m * 2 ^ (e + 192).toNat ≤ sum)
  | _ => false

/-- top_p sets a limit: not 0, not 1.0 or more (Table 5.8). -/
def topPLimits (topP : BitVec 16) : Bool := topP &&& 0x7FFF != 0 && flLt (f16 topP) (.fin false 1 0)

/-- The length of the shortest prefix whose running sum reaches top_p (R185). -/
def topPLength (topP : BitVec 16) (dist : List (Nat × Nat)) : Nat → Nat → List (Nat × Nat) → Nat
  | n, _, [] => n
  | n, sum, c :: cs =>
    if reachesTopP topP (roundedSum dist n (sum + c.2)) then n + 1 else topPLength topP dist (n + 1) (sum + c.2) cs

/-- The distribution of R185: the kept tokens in the sampler's order with their shares, in units of 2^-192. Under a
temperature of +infinity the order is that of the unscaled logits and the shares are equal (Table 5.8). The sort takes the
probabilities before their rounding, since the token drawn is fixed but at a boundary (R394; notes/assumptions/130.md). -/
def distribution (temp : BitVec 16) (topK : Nat) (topP : BitVec 16) (cands : List Cand) :
    List (Nat × Nat) :=
  let scaled := if isFlat temp then cands else cands.map fun c => (c.1, divF32 c.2 temp)
  let ranked := sortBy ranksBefore scaled
  let kept := if topK = 0 then ranked else ranked.take topK
  let dist := if isFlat temp then normalised (kept.map fun c => (c.1, 1)) else sortBy likelier (softmax kept)
  if topPLimits topP then normalised (dist.take (topPLength topP dist 0 0 dist)) else dist

/-- Probability of a token in a distribution, as the part computes it. -/
def probOf (dist : List (Nat × Nat)) (t : Nat) : Nat :=
  roundedProb dist t (((lookupBy (·.1) t dist).map (·.2)).getD 0)

/-- The first token whose running sum exceeds u / 2^24; the last one where rounding leaves none (R185). -/
def drawFrom (u : Nat) (dist : List (Nat × Nat)) : Nat → Nat → List (Nat × Nat) → Option Nat
  | _, _, [] => none
  | _, _, [c] => some c.1
  | n, sum, c :: cs =>
    if u * 2 ^ 168 < roundedSum dist n (sum + c.2) then some c.1 else drawFrom u dist (n + 1) (sum + c.2) cs

/-- A draw from a distribution. -/
def drawToken (u : Nat) (dist : List (Nat × Nat)) : Option Nat := drawFrom u dist 0 0 dist

/-! ### Draws -/

/-- How a session samples. -/
structure Settings where
  temp  : BitVec 16
  topK  : Nat
  topP  : BitVec 16
  seed  : Word
  deriving DecidableEq, Repr

/-- A column's token by a draw index: argmax, or the draw from its distribution (R185, R186). -/
def drawAs (z : Settings) (position index : Nat) (cands : List Cand) : Option Nat :=
  if isGreedy z.temp then argmax cands
  else drawToken (uniform24 z.seed position index) (distribution z.temp z.topK z.topP cands)

/-- The token a column draws without a draft to reject: draw index 2 (R186). -/
def drawColumn (z : Settings) (position : Nat) (cands : List Cand) : Option Nat := drawAs z position 2 cands

/-- A draft is accepted (R183). `q` is the distribution it was drawn from. -/
def acceptsDraft (z : Settings) (position t : Nat) (q : List (Nat × Nat)) (cands : List Cand) : Bool :=
  if isGreedy z.temp then argmax cands == some t
  else
    let p := probOf (distribution z.temp z.topK z.topP cands) t
    let qt := probOf q t
    if qt = 0 then decide (0 < p) else decide (uniform24 z.seed position 1 * qt < p * 2 ^ 24)

/-- The token drawn at a rejection: argmax, or a draw from the residual max(0, p − q), from p where the
residual sums to zero (R183). -/
def drawResidual (z : Settings) (position : Nat) (q : List (Nat × Nat)) (cands : List Cand) : Option Nat :=
  if isGreedy z.temp then argmax cands
  else
    let dist := distribution z.temp z.topK z.topP cands
    let res : List (Nat × Nat) := dist.map fun (t, p) => (t, roundedProb dist t p - probOf q t)
    let u := uniform24 z.seed position 2
    if (res.map (·.2)).sum = 0 then drawToken u dist
    else drawToken u (normalised (sortBy likelier (res.filter fun r => r.2 != 0)))

/-! ### Verification -/

/-- What the verification of a step's columns found: the accepted drafts, the token drawn, the first dead
column if the run reached it, and a column with a live mask and nothing to draw (R259, R393). -/
structure Verdict where
  accepted : List Nat
  drawn    : Option Nat
  dead     : Bool
  fault    : Bool
  deriving DecidableEq, Repr

/-- How a grammar holds a step: digest, stack limit, end-of-sequence, none without a grammar. -/
structure MaskOf where
  digest   : BitVec 384
  maxStack : Nat
  deriving DecidableEq, Repr

/-- The mask of a grammar state; everything is allowed without a grammar. -/
def allowedBy (g : Option MaskOf) (v : Vocab) (st : Nat × List Nat) (t : Nat) : Bool :=
  match g with
  | none => true
  | some m => maskAllows m.digest m.maxStack v.eos st t

/-- The state after a token. -/
def advanceBy (g : Option MaskOf) (st : Nat × List Nat) (t : Nat) : Nat × List Nat :=
  match g with
  | none => st
  | some m => grammarAdvance m.digest m.maxStack st t

/-- The column draws nothing because the mask of its state forbids every token (R259). -/
def columnDead (g : Option MaskOf) (v : Vocab) (st : Nat × List Nat) : Bool :=
  match g with
  | none => false
  | some m => maskDead m.digest m.maxStack v st

/-- Columns verified in order from column i at a position, over the drafts left (R183, R257, R259). -/
def verifyColumns (z : Settings) (g : Option MaskOf) (v : Vocab) (position : Nat)
    (st : Nat × List Nat) (done : List Nat) : List (List (BitVec 32)) → List (Nat × List (Nat × Nat)) → Verdict
  | [], _ => { accepted := done, drawn := none, dead := false, fault := true }
  | logits :: more, drafts =>
    let cands := candidates (allowedBy g v st) logits
    if columnDead g v st then { accepted := done, drawn := none, dead := true, fault := false }
    else if cands.isEmpty then { accepted := done, drawn := none, dead := false, fault := true }
    else match drafts with
      | [] => { accepted := done, drawn := drawColumn z position cands, dead := false, fault := false }
      | (t, q) :: rest =>
        if (cands.any fun c => c.1 == t) && acceptsDraft z position t q cands then
          verifyColumns z g v (position + 1) (advanceBy g st t) (done ++ [t]) more rest
        else
          { accepted := done, drawn := drawResidual z position q cands, dead := false, fault := false }

/-! ### The end of a run -/

/-- How a run of committed tokens ends: its OK stop reason, whether the context is full,
whether the grammar accepted (R184, R258). -/
structure RunEnd where
  reason   : Nat
  full     : Bool
  accepted : Bool
  deriving DecidableEq, Repr

/-- A token ends its run: stop token or end-of-sequence, the grammar's accepting state, the token count,
the context limit (R184; notes/assumptions/70.md). -/
def tokenEnd (stops : List Nat) (g : Option MaskOf) (v : Vocab) (maxTokens context committed length : Nat)
    (before after : Nat × List Nat) (t : Nat) : Option RunEnd :=
  let acc := match g with
    | none => false
    | some m => accepted m.digest m.maxStack v after
  let eosFinal := match g with
    | none => false
    | some m => t == v.eos && Config.grammarFinal m.digest before.1
  let count := maxTokens != 0 && maxTokens == committed
  let full := decide (context ≤ length)
  let reason := if stops.contains t then 1 else if acc then 3 else if t = v.eos then 1
    else if count then 2 else 0
  if reason ≠ 0 || full then
    some { reason := reason, full := full, accepted := acc || eosFinal }
  else none

/-- Walk a run of tokens to its end (R184): the grammar state afterwards and how it ended, if it did.
`n` is the length and `c` the generation's count before the run. -/
def walkRun (stops : List Nat) (g : Option MaskOf) (v : Vocab) (maxTokens context : Nat) :
    Nat → Nat → Nat × List Nat → List Nat → (Nat × List Nat) × List Nat × Option RunEnd
  | _, _, st, [] => (st, [], none)
  | n, c, st, t :: ts =>
    let after := advanceBy g st t
    match tokenEnd stops g v maxTokens context (c + 1) (n + 1) st after t with
    | some e => (after, [t], some e)
    | none =>
      let (st', taken, e) := walkRun stops g v maxTokens context (n + 1) (c + 1) after ts
      (st', t :: taken, e)

end Sys2Proof.Machine
end

