-- ==== Sys2Proof/Machine/Steps.lean ====
section
/-!
DEFINITION. The meanings of decode steps (chapter 8): STEP_COMMIT with sampling, acceptance, grammar,
replay, text and flight records; ACTIVATION_FRAME on a later stage; masks, drafts and refills; the twin's
acknowledgement (R346).
-/

namespace Sys2Proof.Machine

/-! ### What a step decides for one session -/

/-- How a session samples (Table 5.8). -/
def settingsOf (x : Session) (g : Gen) : Settings :=
  { temp := g.temp, topK := g.topK, topP := g.topP, seed := x.seed }

/-- The grammar that holds a generation's step, none where it applies none (R256, R382). -/
def maskFor (x : Session) (g : Gen) : Option MaskOf :=
  if g.grammar && !g.maskOff then x.grammar.map fun d => { digest := d, maxStack := x.maxStack } else none

/-- What a step commits for a session and how it ends its generation: the tokens, the grammar state after
them, the failing conditions, the stop reason of an OK end, the counts of R259, and a replay's findings
(R382). -/
structure StepRun where
  tokens   : List Nat
  grammar  : Nat × List Nat
  ends     : Bool := false
  conds    : List Status := []
  okStop   : Nat := 0
  dead     : Bool := false
  forced   : Bool := false
  maskOff  : Bool := false
  compares : List (List Byte) := []
  deriving DecidableEq, Repr

/-- A run that walked to an end, or on (R184, R258). -/
def plainRun (x : Session) (after : Nat × List Nat) (taken : List Nat) : Option RunEnd → StepRun
  | none => { tokens := taken, grammar := after }
  | some e =>
    { tokens := taken, grammar := if e.accepted then (x.start, []) else after, ends := true,
      conds := if e.full then [.contextFull] else [], okStop := e.reason }

/-- The first dead column was reached (R259). -/
def deadRun (x : Session) (g : Gen) (v : Vocab) (accepted : List Nat) : Option RunEnd → StepRun
  | some e =>
    if g.forceEos then
      { tokens := accepted, grammar := (x.start, []), ends := true,
        conds := if e.full then [.contextFull] else [], okStop := e.reason }
    else
      { tokens := accepted, grammar := (x.start, []), ends := true,
        conds := .grammarDead :: (if e.full then [.contextFull] else []), okStop := e.reason, dead := true }
  | none =>
    if g.forceEos then
      { tokens := accepted ++ [v.eos], grammar := (x.start, []), ends := true, okStop := 1, forced := true,
        conds := if x.context == x.log.length + accepted.length + 1 then [.contextFull] else [] }
    else { tokens := accepted, grammar := (x.start, []), ends := true, conds := [.grammarDead], dead := true }

/-- The step of a session that samples (R183 to R185, R257 to R259, R393). -/
def sampledRun (x : Session) (g : Gen) (v : Vocab) (logits : List (List (BitVec 32))) : StepRun :=
  let m := maskFor x g
  let st := (x.gstate, x.gstack)
  let n := x.log.length
  let walk := walkRun g.stops m v g.maxTokens x.context n g.committed st
  let r := verifyColumns (settingsOf x g) m v n st [] logits g.drafts
  if r.fault then { tokens := [], grammar := st, ends := true, conds := [.hardwareFault] }
  else if r.dead then
    let (after, taken, e) := walk r.accepted
    if taken.length < r.accepted.length then plainRun x after taken e else deadRun x g v r.accepted e
  else
    let (after, taken, e) := walk (r.accepted ++ r.drawn.toList)
    plainRun x after taken e

/-! ### Replay (R382) -/

/-- Magnitude. -/
def flAbs : Fl → Fl
  | .nan => .nan
  | .inf _ => .inf false
  | .fin _ m e => .fin false m e

/-- |replay − reference| > abs_tol + rel_tol × |reference| (R382, DGN_REPLAY_CTL; notes/assumptions/75.md). -/
def outsideTolerance (ctl : Word) (ref rep : BitVec 16) : Bool :=
  let limit := flAdd (.fin false (fld ctl 15 0) (-10))
    (flMul (.fin false (fld ctl 31 16) (-16)) (flAbs (f16 ref)))
  flLt limit (flAbs (flAdd (f16 rep) (flNeg (f16 ref))))

/-- The raw FP16 logit of a token in a column. -/
def rawLogit (logits : List (BitVec 32)) (t : Nat) : BitVec 16 := toF16 (f32 ((logits[t]?).getD 0))

/-- Compare recorded tokens with their columns: grammar state and mask switch after them, COMPARE payloads. -/
def compareTokens (ctl : Word) (step : Nat) (v : Vocab) :
    Nat → Option MaskOf → Nat × List Nat → List (Nat × BitVec 16 × BitVec 16) → List (List (BitVec 32)) →
      Option MaskOf × (Nat × List Nat) × List (List Byte)
  | _, m, st, [], _ => (m, st, [])
  | p, m, st, (t, rl, rz) :: rest, cols =>
    let c := (cols.head?).getD []
    let l := rawLogit c t
    let z := Config.logSumExp c
    let ok := allowedBy m v st t
    let a := outsideTolerance ctl rl l
    let b := outsideTolerance ctl rz z
    let m' := if ok then m else none
    let (m'', st', more) := compareTokens ctl step v (p + 1) m'
      (if ok then advanceBy m st t else st) rest cols.tail
    (m'', st', (if a || b || !ok then
        [comparePayload step p t rl l rz z (putBit 0 a + putBit 1 b + putBit 2 (!ok))] else []) ++ more)

/-- The step of a replay: the recorded tokens, whatever would have been drawn; a recorded length that differs
ends it with FORMAT_UNSUPPORTED; the last record ends it with OK (R382). -/
def replayRun (ctl : Word) (x : Session) (g : Gen) (v : Vocab) (rec : ReplayStep) (last : Bool)
    (logits : List (List (BitVec 32))) : StepRun :=
  let n := x.log.length
  let st := (x.gstate, x.gstack)
  if rec.length ≠ n then
    { tokens := [], grammar := st, ends := true, conds := [.formatUnsupported], maskOff := g.maskOff }
  else
    let all := rec.tokens.take (x.context - n)
    let m := maskFor x g
    let (m', st', cmp) := compareTokens ctl g.step v n m st all logits
    let full := x.context == n + all.length && !last
    { tokens := all.map (·.1), grammar := st', ends := last || full,
      conds := if full then [.contextFull] else [], okStop := 2,
      maskOff := g.maskOff || (m.isSome && m'.isNone), compares := cmp }

/-! ### The commit of one session (R80, R99, R105, R140, R177, R251, R346, R378) -/

/-- The deadline of a generation has passed at the commit (R94). -/
def lateAt (s : State) (g : Gen) : Bool :=
  match s.descriptor g.origin with
  | some d => d.deadline.any fun t => decide (t ≤ s.localNs)
  | none => false

/-- The ring has room for the records of a step, with the store of 64 held records (R80); the room of a ring of another
part is what that part has told. -/
def roomFor (s : State) (o : Origin) (told k : Nat) : Bool :=
  match o with
  | .qp q _ => k ≤ flueRoom s q
  | .ridge _ _ => k ≤ told

/-- The STEP records of a commit, four tokens each (Table 18.2). -/
def recordStep (s : State) (x : Session) (step n : Nat) (tokens : List Nat)
    (logits : List (List (BitVec 32))) : State :=
  let entries := (tokens.zip logits).map fun (t, c) => (t, rawLogit c t, Config.logSumExp c)
  (chunks 4 entries.length entries).foldl (fun s e =>
    recordFlight s x 2 e.length (stepPayload step n e)) s

/-- COMPARE records go to the flight ring of the replay queue pair (R382). -/
def recordCompares (s : State) (x : Session) (o : Origin) (cmp : List (List Byte)) : State :=
  match o with
  | .qp q _ => cmp.foldl (fun s p => writeFlight s q
      { kind := 4, count := 1, handle := sessionHandle s x, epoch := s.rdg.map.epoch, payload := p }) s
  | .ridge _ _ => s

/-- What a committed run changes in the session itself. -/
def sessionAfter (x : Session) (g : Gen) (r : StepRun) (tail : List Byte) : Session :=
  { x with
    log := x.log ++ r.tokens.map fun t => (t, 3)
    gstate := r.grammar.1
    gstack := r.grammar.2
    tail := tail
    bypassed := x.bypassed || (!g.grammar && x.grammar.isSome && !r.tokens.isEmpty)
    maskReady := 0
    maskWaited := false
    gener := some { g with
      committed := g.committed + r.tokens.length
      step := g.step + 1
      drafts := []
      planned := 0
      maskOff := r.maskOff
      compared := if g.replay.isSome then g.compared + r.tokens.length else 0
      outside := g.outside + r.compares.length } }

/-- Once a hand-over is armed, the pages that a commit has dirtied are copied after it (R108). -/
def copyArmed (s : State) (slot : Nat) : State :=
  match s.session slot with
  | none => s
  | some x =>
    match x.move with
    | some m => if m.armed then (sendRound s x m true).putSession (cleanPages x) else s
    | none => s

/-- KV, copies, counters and STEP records of committed tokens. -/
def commitTokens (s : State) (slot n step dead : Nat) (x : Session) (tokens : List Nat)
    (logits : List (List (BitVec 32))) : State :=
  if tokens.isEmpty then s
  else
    let s := copyArmed (sendRecordCopy (sendPageCopies (commitKv s slot n dead) slot) slot) slot
    recordStep (countTenant s x.tenant 0 tokens.length) x step n tokens logits

/-- Commit a decided run: nothing where the ring lacks room, and then the session sits out until there is
(R80); else tokens, text and records, and the end where the run has one. -/
def commitRun (s : State) (slot : Nat) (x : Session) (g : Gen) (v : Vocab) (r : StepRun)
    (logits : List (List (BitVec 32))) (told : Nat) : State :=
  let late := lateAt s g
  let ends := r.ends || late
  let conds := r.conds ++ (if late then [.deadlineMissed] else [])
  let status := chooseStatus conds
  let stop := if !ends then 0 else if status = .ok then r.okStop else stopOf status
  let (chars, tail) := detokenise v x.tail r.tokens ends
  let records := stepRecords (sessionHandle s x) (originSeq g.origin) g.step stop r.tokens chars
  if !r.tokens.isEmpty && !roomFor s g.origin told records.length then
    if late then endGeneration s slot .deadlineMissed 4
    else s.onSession slot fun x => { x with gener := some { g with stalled := true } }
  else
    let wait := x.durability == 3 && twinServes s && !r.tokens.isEmpty
    let s := s.putSession (sessionAfter x g r tail)
    let s := commitTokens s slot x.log.length g.step (g.drafts.length + 1 - r.tokens.length) x r.tokens logits
    let s := recordCompares s x g.origin r.compares
    let s := records.foldl (fun s rec => emitRecord s x g.origin wait rec) s
    let s := noteReplaced s slot (chars.filter (·.2)).length g.step
    let s := s.onKnd fun k =>
      { k with genDead := if r.dead then bump 16 k.genDead else k.genDead,
               forcedEos := if r.forced then bump 16 k.forcedEos else k.forcedEos }
    if !ends then s
    else match s.session slot with
      | some y =>
        match y.gener with
        | some g => closeGeneration (s.onDescriptor g.origin fun d => { d with conds := d.conds ++ conds })
            y g .ok
        | none => s
      | none => s

/-- The masks of a session's columns are ready, where its generation applies a grammar (R178, R257). -/
def masksReady (x : Session) (g : Gen) : Bool := (maskFor x g).isNone || g.drafts.length + 1 ≤ x.maskReady

/-- The sampler waits for a session's mask, which counts once until a mask comes (R178, Table 18.11). -/
def countMaskWait (s : State) (x : Session) : State :=
  if x.maskWaited then s
  else (s.onDgn fun d => { d with maskWaits := bump 16 d.maskWaits }).putSession { x with maskWaited := true }

/-- The pages of a session that a step finds lost are dealt with before it commits: the state to go on with, or the one in
which the generation has ended by it (R114, R165). -/
def recoverStep (s : State) (x : Session) (g : Gen) (how : Recovery) : Except State State :=
  match recover s x how ((s.descriptor g.origin).bind (·.deadline)) with
  | .ok (s', conds) => .ok (s'.onDescriptor g.origin fun d => { d with conds := d.conds ++ conds })
  | .error (s', st) => .error (endGeneration s' x.slot st (stopOf st))

/-- One session's part of a step's close. -/
def commitSession (s : State) (slot : Nat) (c : ColumnLogits) : State :=
  match s.session slot with
  | none => s
  | some x =>
    match x.gener with
    | none => s
    | some g =>
      let i := sessionImage s x
      let k := match nextReplay g with
        | some r => r.tokens.length
        | none => g.drafts.length + 1
      if i.weightsLost then endGeneration s slot .hardwareFault 8
      else match recoverStep s x g c.how with
      | .error s => s
      | .ok s =>
      let x := (s.session slot).getD x
      match allotPages s slot (missingPages i x (blocksForWrite i x k)) true with
      | (s, none) => endGeneration s slot .tierFull 8
      | (s, some got) =>
        let s := addPages s slot got
        match s.session slot with
        | none => s
        | some x =>
          let r := match g.replay, nextReplay g with
            | some l, some rec => replayRun (asFetched s g.origin).dgn.replayCtl x g i.vocab rec (g.step + 1 == l.length) c.logits
            | some _, none => { tokens := [], grammar := (x.gstate, x.gstack), ends := true, okStop := 2 }
            | none, _ => sampledRun x g i.vocab c.logits
          commitRun s slot x g i.vocab r c.logits c.room

/-- What a step's close has for a session. -/
def columnsTold (cols : List ColumnLogits) (slot : Nat) : ColumnLogits :=
  (lookupBy (·.slot) slot cols).getD { slot := slot, logits := [] }

/-- A session's columns are there with their logits, and its commit need not wait for the twin (R346)
(notes/assumptions/71.md). -/
def closable (s : State) (cols : List ColumnLogits) (slot : Nat) : Bool :=
  match s.session slot with
  | none => true
  | some x =>
    match x.gener with
    | none => true
    | some g => !waitsForTwin s x &&
        decide ((if g.replay.isSome then columnsWanted g else g.drafts.length + 1) ≤ (columnsTold cols slot).logits.length)

/-- A batch's step is at its close: its drafts have gone with it, and the frame has come back from the last stage where the
image has more than one (R177, R181). -/
def atClose (s : State) (b : Batch) : Bool := !b.drafting && !b.resting && (b.back || (s.image b.image).stages ≤ 1)

/-- Sessions of a batch whose masks the sampler waits for (R178). -/
def maskWaiters (s : State) (b : Batch) : List Session :=
  (b.columns.filterMap fun c => s.session c.1).filter fun x => x.gener.any fun g => !masksReady x g

/-- STEP_COMMIT (R177): the close of a batch's step on stage 0, session by session in the order of its
columns, then the token boundary. A close whose commits must wait, for a stage, a mask or the twin, or that a hold stops,
commits nothing yet (R49, R178, R346; notes/assumptions/14.md). -/
def execStepCommit (batch : Nat) (cols : List ColumnLogits) (s : State) : Answer :=
  afterClears s <|
  match s.batch batch with
  | none => .next s
  | some b =>
    if s.pwr.heldNow || !s.pwr.ready || b.columns.isEmpty || !atClose s b ||
        !(b.columns.all fun c => closable s cols c.1) then .next s
    else if !(maskWaiters s b).isEmpty then .next ((maskWaiters s b).foldl countMaskWait s)
    else
      let before := b.columns.map (·.1)
      let s := before.foldl (fun s slot => commitSession s slot (columnsTold cols slot)) s
      .next (tokenBoundary s batch before)

/-! ### Later stages (R176, R177, R212 to R216, R220, R355) -/

/-- The image of an image_id on this part: ready, or with an unload that stage 0 has yet to allow (R194). -/
def imageById (s : State) (id : Nat) : Option Image :=
  s.img.slots.find? fun i => i.id.toNat == id && (i.state == .ready || i.state == .unloading)

/-- Pages that came for a share of a session that has moved here are its share's (R106): in frames, with the length that
the frame tells. -/
def adoptPages (s : State) (i : Image) (slot : Nat) (r : ColumnRecord) : State :=
  let mine := s.rdg.arriving.filter fun a => a.handle == r.handle
  if mine.isEmpty then s
  else
    let s := s.onRdg fun g => { g with arriving := g.arriving.filter fun a => a.handle != r.handle }
    match s.session slot with
    | none => s
    | some x =>
      let w := r.length - 1
      let layers := if i.latent then []
        else rebuildLayers (sessionHandle s x) i.kvHeads (kvBudget x.kvclass) w (w + 1) 0 (layersOf i x)
      match allotPages s slot (mine.map (·.page)) true with
      | (s, none) => s
      | (s, some got) =>
        let s := mine.foldl (fun s a => match lookupBy (·.1) a.page got with
          | some (_, f) => writeFrame s f (if a.data.length = 65536 then a.data else (decodePage a.data).getD [])
          | none => s) (addPages s slot got)
        s.onSession slot fun x => { x with log := List.replicate r.length (0, 3), layers := layers }

/-- The guest record of a handle, made where it is new, with the classes that its home tells (R101, R102). -/
def withGuest (s : State) (i : Image) (r : ColumnRecord) : State × Nat :=
  match guestOf s r.handle with
  | some x => (s, x.slot)
  | none =>
    let slot := guestSlot s
    let x : Session :=
      { slot := slot, gen := hGen r.handle, state := .resident, tenant := hTenant r.handle,
        image := word [put 63 54 s.rdg.part, put 53 51 i.slot, put 31 0 i.loads], cls := r.cls,
        variant := r.variant, durability := r.durability, tclass := (s.ses.tclass[r.cls]?).getD 0,
        kvclass := (s.ses.kvclass[r.cls]?).getD 0, lastCommit := s.localNs, guest := some r.handle }
    (adoptPages (s.putSession x) i slot r, slot)

/-- A lower committed length: later entries are dead, their class A slots free with their bitmap bits and position entries
cleared, the summary of a block left not full is invalid (R355). -/
def rollbackKv (s : State) (slot length : Nat) : State :=
  match s.session slot with
  | none => s
  | some x =>
    let i := sessionImage s x
    let w := length - 1
    let s := s.putSession
      { x with log := x.log.take length,
               layers := x.layers.map fun l => { slots := l.slots.filter fun e => e.2.1 < w },
               summaries := if i.latent then x.summaries.filter fun k => 64 * (k + 1) ≤ w else x.summaries }
    writePages s slot
      { pages := List.range i.statePages ++
          (if i.latent then [] else (liveBlocks i x).flatMap (summaryOfBlock i)) }

/-- A stage applies the committed length of one record: the commit of R220, or the rollback of R355; length 0
ends its share of the session (notes/assumptions/73.md). -/
def applyRecord (s : State) (i : Image) (r : ColumnRecord) : State :=
  let (s, slot) := withGuest s i r
  match s.session slot with
  | none => s
  | some x =>
    let n := x.log.length
    if r.length = 0 then
      (freeSessionPages s x).onSess fun t => { t with table := dropKey (·.slot) slot t.table }
    else if r.length < n then rollbackKv s slot r.length
    else if r.length = n then s
    else
      let fresh := blocksForWrite i x (r.length - max 1 n)
      let s := match allotPages s slot (missingPages i x fresh) true with
        | (s, some got) => addPages s slot got
        | (s, none) => s
      sendPageCopies (commitKv (s.onSession slot fun x =>
        { x with log := x.log ++ List.replicate (r.length - n) (0, 3) }) slot n) slot

/-- The next part of a group after a stage: the next stage, or stage 0 after the last (R174). -/
def nextStage (i : Image) : Option Nat :=
  if i.stage + 1 < i.stages then i.group[i.stage + 1]? else i.group[0]?

/-- A share's step begins on this stage: its lookout selection (Table 9.4). -/
def beginShare (s : State) (r : ColumnRecord) : State :=
  match guestOf s r.handle with
  | some x => if r.columns = 0 then s else beginReads s x.slot r.columns
  | none => s

/-- A later stage notes the batches that reach it: one with columns, or one whose sessions have all left (Table 8.15).
Frames of prefill chunks are no batches. -/
def notePassing (s : State) (i : Image) (f : ActFrame) : State :=
  let n := (f.records.map (·.columns)).sum
  if prefillBatch ≤ f.batch then s
  else s.onSess fun t =>
    let rest := t.passing.filter fun p => !(p.1 == i.slot && p.2.1 == f.batch)
    { t with passing := if n = 0 then rest else rest ++ [(i.slot, f.batch, n)] }

/-- The frame of a batch's step has come back from the last stage: the work of the close is queued (R177, Table 8.3). -/
def stepBack (s : State) (i : Image) (f : ActFrame) : State :=
  match s.batch f.batch with
  | none => s
  | some b =>
    if b.image = i.slot && b.step = f.step && !b.back && !b.drafting then
      queueItems (s.onBatch f.batch fun b => { b with back := true }) 3 .decode 0 0
    else s

/-- The stove items of a frame on a later stage: the layer items of a step, or one prefill item for a chunk (R229, R234;
notes/assumptions/76.md). -/
def shareItems (s : State) (i : Image) (f : ActFrame) (cls : Nat) : State :=
  let tenant := ((f.records.head?).map fun r => hTenant r.handle).getD 0
  if prefillBatch ≤ f.batch then queueItem s .prefill (7 - cls) tenant
  else queueItems s (layerItems i) .decode 1 tenant

/-- ACTIVATION_FRAME (R176, R177, R220): a later stage applies the commits that the whole frame carries, runs its layers
with the sessions' variants and passes the activations on; on stage 0 the step is at its close (notes/assumptions/74.md). -/
def execActivationFrame (f : ActFrame) (s : State) : Answer :=
  afterClears s <|
  match imageById s f.image with
  | none => .next s
  | some i =>
    if !s.pwr.ready || s.pwr.heldNow then .next s
    else if i.stage = 0 then .next (stepBack s i f)
    else
      let s := notePassing (f.records.foldl (fun s r => beginShare (applyRecord s i r) r) s) i f
      if (f.records.map (·.columns)).sum = 0 then .next s
      else
        let cls := ((f.records.head?).map (·.cls)).getD 0
        let s := shareItems s i f cls
        match nextStage i with
        | some p => .next (sendFrame s p 2 cls (.activation
            { f with epoch := s.rdg.map.epoch, residual := stageColumns i f }))
        | none => .next s

/-! ### Masks and drafts (R178, R236 to R238, R257) -/

/-- GRAMMAR_MASK (R178, R257): the mask of a column, from the committed state or over the drafts before it. -/
def execGrammarMask (slot column : Nat) (s : State) : Answer :=
  match s.session slot with
  | none => .next s
  | some x =>
    match x.gener with
    | none => .next s
    | some g =>
      if (maskFor x g).isSome && column ≤ g.drafts.length && column = x.maskReady then
        .next ((unkindle s (.mask slot column)).putSession { x with maskReady := column + 1, maskWaited := false })
      else .next s

/-- The grammar state over a session's drafts. -/
def draftState (m : Option MaskOf) (x : Session) (g : Gen) : Nat × List Nat :=
  g.drafts.foldl (fun st d => advanceBy m st d.1) (x.gstate, x.gstack)

/-- A session's drafting ends for this step: the columns kept are those of its drafts (R257). -/
def endDrafting (s : State) (batch : Nat) (x : Session) (g : Gen) : State :=
  (s.onBatch batch fun b =>
    { b with columns := b.columns.map fun c => if c.1 = x.slot then (c.1, g.drafts.length + 1) else c }).putSession
    { x with gener := some { g with planned := g.drafts.length } }

/-- The draft model's logits: the items' partial results added in FP32, in the order in which they come (R238). -/
def draftLogits : List (List (BitVec 32)) → List (BitVec 32)
  | [] => []
  | p :: ps => ps.foldl (List.zipWith addF32) p

/-- The token drafted at a session's next position, with the distribution it is drawn from (R181, R183): from the draft
model's logits under the session's mask and sampler settings, by draw index 0 at the position that the token is to take
(R186); none where no token is left to draw (R393). -/
def drawDraft (x : Session) (g : Gen) (v : Vocab) (logits : List (BitVec 32)) : Option (Nat × List (Nat × Nat)) :=
  let z := settingsOf x g
  let cands := candidates (allowedBy (maskFor x g) v (draftState (maskFor x g) x g)) logits
  (drawAs z (x.log.length + g.drafts.length) 0 cands).map fun t =>
    (t, if isGreedy z.temp then [] else distribution z.temp z.topK z.topP cands)

/-- One session's position of a draft pass: none past its plan, and none before the mask over its drafts is ready (R178,
R257); drafting stops at a dead tentative mask and where nothing can be drawn. -/
def draftOne (s : State) (batch : Nat) (d : Draft) : State :=
  match s.session d.slot with
  | none => s
  | some x =>
    match x.gener with
    | none => s
    | some g =>
      if g.batch ≠ some batch || g.planned ≤ g.drafts.length || !g.refilled then s
      else
        let v := (sessionImage s x).vocab
        if (maskFor x g).isSome && x.maskReady ≤ g.drafts.length then countMaskWait s x
        else if columnDead (maskFor x g) v (draftState (maskFor x g) x g) then endDrafting s batch x g
        else match drawDraft x g v (draftLogits d.parts) with
          | none => endDrafting s batch x g
          | some t =>
            let s := if (maskFor x g).isSome then kindleMask s x (g.drafts.length + 1) else s
            s.putSession { x with gener := some { g with drafts := g.drafts ++ [t] } }

/-- DRAFT_PASS (R181, R238): one item for each decode-assist island; once every column is drafted the step goes to the
stages. -/
def execDraftPass (batch : Nat) (drafts : List Draft) (s : State) : Answer :=
  if s.pwr.heldNow || !(s.batch batch).any (·.drafting) then .next s
  else
    let s := drafts.foldl (fun s d => draftOne s batch d) s
    .next (launchStep (queueItems s (heading s .decode) .decode 2 0) batch)

/-- DRAFT_REFILL (R237): the slot's window is filled; the session drafts from its next token boundary. -/
def execDraftRefill (slot : Nat) (s : State) : Answer :=
  match s.session slot with
  | none => .next s
  | some x =>
    match x.gener with
    | none => .next s
    | some g =>
      if g.store && !g.refilled && !s.pwr.heldNow then
        .next (s.putSession { x with gener := some { g with refilled := true } })
      else .next s

/-! ### The twin's acknowledgement (R346) -/

/-- Flue records that waited go out in order. -/
def releaseRecords (s : State) (slot : Nat) : State :=
  match s.session slot with
  | none => s
  | some x =>
    x.heldRecords.foldl (fun s (o, r) => sendRecord s o x.cls r)
      (s.putSession { x with heldRecords := [] })

/-- Nothing of a session waits for the twin any longer: records go out, a PARK completes. -/
def settleAcks (s : State) (slot : Nat) : State :=
  let s := s.onSession slot fun x => { x with acks := 0, copied := true }
  let s := s.onCrn fun c =>
    { c with resync := c.resync && s.ses.table.any fun x => x.durability != 0 && !x.copied }
  let s := releaseRecords s slot
  let s := match (s.session slot).bind (·.parkWaits) with
    | some (o, r) =>
      complete ((commitPark s slot (((s.session slot).map (·.parkPlaced)).getD [])).onSession slot fun x =>
        { x with parkWaits := none }) o [] (BitVec.ofNat 64 r)
    | none => s
  finishEnded s

/-- BUDDY_ACKNOWLEDGE (R346). -/
def execBuddyAcknowledge (slot : Nat) (s : State) : Answer :=
  match s.session slot with
  | none => .next s
  | some x =>
    if x.acks = 0 then .next s
    else if x.acks = 1 then .next (settleAcks s slot)
    else .next (s.putSession { x with acks := x.acks - 1 })

end Sys2Proof.Machine
end

