-- ==== Sys2Proof/Machine/MapOps.lean ====
section
/-!
DEFINITION. The Ikivan map as shared operations (R289 to R296): which changes are valid, what a commit does to
the replica and to what hangs on it, requests sent again under a new epoch, and the loss of a part (R288,
R302, R310, R314).
-/

namespace Sys2Proof.Machine

/-! ### Keepers, quorum -/

/-- A keeper can be reached: this part, or one with agreed keys that is not suspect. -/
def keeperReached (s : State) (k : Nat) : Bool :=
  k == s.rdg.part ||
  (match s.addressOf k with
   | some a => (s.peer a).keyed && !(s.peer a).suspect && !(s.peer a).refused
   | none => false)

/-- A quorum, a majority of the keepers, can be reached (R291). -/
def quorumUp (s : State) : Bool :=
  let ks := s.rdg.map.keepers
  decide (ks.length < 2 * (ks.filter (keeperReached s)).length)

/-- This part is the leader keeper (notes/assumptions/87.md). -/
def isLeader (s : State) : Bool :=
  s.rdg.map.leader == s.rdg.part && s.rdg.map.keepers.contains s.rdg.part

/-- Parts up in a replica, in number order. -/
def upParts (m : MapReplica) : List Nat :=
  sortBy (fun a b => decide (a < b)) ((m.parts.filter fun p => p.state == 1).map (·.number))

/-! ### Changes (Table 13.2, R291) -/

/-- The state of an extent in a replica. -/
def extentState (m : MapReplica) (h : Word) : Option Nat :=
  (m.extents.find? fun e => e.handle == h).map (·.state)

/-- A change is valid against a replica (R289, R291, R299, R301). -/
def changeValid (m : MapReplica) : MapChange → Bool
  | .part n a st =>
    match lookupBy (·.number) n m.parts with
    | some p => p.address == a || p.state != 1
    | none => st != 2
  | .twinOf p _ => (lookupBy (·.number) p m.parts).isSome
  | .keepers ks leader _ => !ks.isEmpty && ks.length ≤ 5 && ks.contains leader
  | .extent h st _ =>
    match extentState m h, st with
    | none, 0 => true
    | some 0, 1 | some 0, 2 | some 1, 2 | some 2, 3 | some 1, 4 | some 2, 4 => true
    | _, _ => false
  | .extentGone h => (extentState m h).isSome
  | .region h _ => !(m.regions.any fun r => r.1 == h)
  | .regionGone h => m.regions.any fun r => r.1 == h
  | .activation _ _ _ => true

/-- A change applied to a replica. A part that goes down takes its extents with it, and releases those it
borrowed (R302). -/
def changeMap (m : MapReplica) (epoch : Nat) : MapChange → MapReplica
  | .part n a st =>
    let old := lookupBy (·.number) n m.parts
    let p : MapPart := { number := n, address := a, state := st, twin := old.bind (·.twin) }
    let m := { m with parts := upsert (·.number) p m.parts }
    let given : MapExtent → MapExtent := fun e =>
      if e.borrower = n && (e.state = 1 || e.state = 2) then { e with state := 4 } else e
    if st = 2 then { m with extents := (m.extents.filter fun e => hPart e.handle != n).map given } else m
  | .twinOf p t =>
    { m with parts := m.parts.map fun e => if e.number = p then { e with twin := some t } else e }
  | .keepers ks leader term => { m with keepers := ks, leader := leader, term := term }
  | .extent h st b =>
    let e := ((m.extents.find? fun e => e.handle == h)).getD { handle := h, state := st }
    let e := { e with state := st, borrower := if st = 1 then b else e.borrower }
    { m with extents := (m.extents.filter fun e => e.handle != h) ++ [e] }
  | .extentGone h => { m with extents := m.extents.filter fun e => e.handle != h }
  | .region h shared => { m with regions := m.regions ++ [(h, shared)] }
  | .regionGone h => { m with regions := m.regions.filter fun r => r.1 != h }
  | .activation d e cold =>
    let a : MapActivation := { digest := d, epoch := e, cold := cold, at' := epoch }
    { m with activations := (m.activations.filter fun x => x.digest != d) ++ [a] }

/-- The changes that build a replica from an empty one (R292). -/
def wholeMap (m : MapReplica) : List MapChange :=
  (m.parts.map fun p => MapChange.part p.number p.address (if p.state = 2 then 0 else p.state)) ++
  (m.parts.filterMap fun p => p.twin.map (MapChange.twinOf p.number)) ++
  ((m.parts.filter fun p => p.state == 2).map fun p => MapChange.part p.number p.address 2) ++
  [.keepers m.keepers m.leader m.term] ++
  (m.extents.map fun e => MapChange.extent e.handle e.state e.borrower) ++
  (m.regions.map fun r => MapChange.region r.1 r.2) ++
  (m.activations.map fun a => MapChange.activation a.digest a.epoch a.cold)

/-! ### Requests without an answer -/

/-- Take a request out of those whose answer is awaited. -/
def dropAsked (s : State) (id : Nat) : State :=
  s.onRdg fun r => { r with asked := r.asked.filter fun a => a.id != id }

/-- Remove this part's mapping of a region. -/
def dropMapping (s : State) (h : Word) : State :=
  s.onRdg fun r => { r with mappings := r.mappings.filter fun m => m.handle != h,
                            lines := r.lines.filter fun l => l.region != h }

/-- An awaited request ends without success: a claim is given up, an extent's pages are lost, a host read returns
poison and a host write is discarded, a descriptor completes (R56, R288, R299, R300, R310). -/
def failAsked (s : State) (a : Asked) (st : Status) : State :=
  let s := dropAsked s a.id
  let fail := fun s => match a.origin with
    | some o => complete s o [st] 0
    | none => s
  match a.request with
  | .claim e => s.onRdg fun r => { r with borrowed := r.borrowed.filter fun b => b.handle != e }
  | .extentRead e _ _ | .extentWrite e _ _ => pumpPool (loseExtent s e st)
  | .lineRead _ _ _ | .digestRead _ _ => match a.about with
    | some off => poisonRead s off
    | none => s
  | .lineWrite _ _ _ _ => match a.about with
    | some off => s.emit (.writeDone off)
    | none => s
  | .mapper _ _ => fail s
  | .unmapper h => fail (dropMapping s h)
  | .unloadAsk _ =>
    if (s.image (iSlot a.object)).state = .unloading then
      fail (s.onImage (iSlot a.object) fun i => { i with state := .ready })
    else fail s
  | _ => fail s

/-- Send an awaited request again, under the present epoch (R294, R296). -/
def resendAsked (s : State) (a : Asked) : State :=
  let s := s.onRdg fun r =>
    { r with asked := r.asked.map fun b => if b.id = a.id then { b with tries := b.tries + 1, waits := none } else b }
  sendFrame s a.part 0 a.cls (.request a.request) a.tenant a.id a.object

/-- Requests and descriptors that waited for an epoch before they are sent again (R296). -/
def resendWaiting (s : State) : State :=
  let reached : Option Nat → Bool := fun w => w.any fun e => decide (e ≤ s.rdg.map.epoch)
  let s := (s.rdg.asked.filter fun a => reached a.waits).foldl resendAsked s
  (s.desc.filter fun d => reached d.resendAt).foldl (fun s d =>
    match routedPart d.raw with
    | some p =>
      let s := s.onDescriptor d.origin fun d => { d with resendAt := none, tries := d.tries + 1 }
      forwardDescriptor s d p []
    | none => s) s

/-- Descriptors sent to a part, requests it has not answered and moves to it end with PEER_LOST (R288). -/
def losePeer (s : State) (part : Nat) : State :=
  let sent := s.desc.filter fun d => match d.phase with
    | .sent p _ => p == part
    | _ => false
  let s := sent.foldl (fun s d => if dOpcode d.raw = opGenerate then
      finishEnded (s.onDescriptor d.origin fun d => { d with phase := .ended 0, conds := d.conds ++ [.peerLost] })
    else complete s d.origin [.peerLost] 0) s
  let s := (s.rdg.asked.filter fun a => a.part == part).foldl (fun s a => failAsked s a .peerLost) s
  let s := (s.ses.table.filter fun x => x.move.any fun m => m.dest == part || m.group.contains part).foldl (fun s x =>
    endMove s x.slot .peerLost) s
  let s := readmit s
  dropMapperPart s part

/-- This part was committed down while it was silent: the extents it lent are cleared before it uses them again,
its regions are lost (R302, R314). -/
def selfDown (s : State) : State :=
  let s := s.rdg.lent.foldl (fun s l => clearLent (s.onLent l.handle fun l => { l with state := 3 }) l.handle) s
  let s := s.onRdg fun r =>
    { r with mappings := r.mappings.map fun m => if hPart m.handle = r.part then { m with dead := true } else m }
  s.rdg.regions.foldl (fun s r => freeRegion s r.slot) s

/-- A part is committed down: its requests end, the extents it lent are lost, those it borrowed are given back,
its regions are dead (R288, R302, R310, R314). -/
def partDown (s : State) (part : Nat) : State :=
  if part = s.rdg.part then selfDown s
  else
    let s := losePeer s part
    let s := (s.rdg.borrowed.filter fun b => b.lender == part).foldl (fun s b =>
      loseExtent s b.handle .peerLost) s
    let s := (s.rdg.lent.filter fun l => l.borrower == part && (l.state == 1 || l.state == 2)).foldl (fun s l =>
      lenderExtent s l.handle 4 0) s
    s.onRdg fun r =>
      { r with
        mappings := r.mappings.map fun m => if hPart m.handle = part then { m with dead := true } else m,
        lines := r.lines.filter fun l => hPart l.region != part,
        partnerDownAt := if s.twin = some part then some s.localNs else r.partnerDownAt }

/-! ### Commits -/

/-- A REGION_MAP that creates ends with its commit: the handle is its result (R305). -/
def regionCommitted (s : State) (h : Word) : State :=
  match s.region (oSlot h) with
  | some r =>
    match r.creating with
    | some o =>
      if regionHandle s r = h then complete (s.putRegion { r with creating := none }) o [] h else s
    | none => s
  | none => s

/-- This part stands by for a number that a commit gives to its address: it runs as that part from now on (R353,
R354). -/
def takeNumber (s : State) (n a : Nat) : State :=
  if a = s.rdg.address && n ≠ s.rdg.part && standsBy s && standFor s = n then
    (s.onRdg fun r => { r with part := n }).onCrn fun c =>
      { c with takeovers := sat 8 (c.takeovers + 1), takeoverSeen := true }
  else s

/-- A returning part that has a twin fetches no session descriptor until the twin has sent its slot entries, or is
out of service (R351). -/
def awaitTwin (s : State) : State :=
  match s.twin with
  | some t =>
    if s.ses.table.isEmpty && s.rdg.twinState ≠ 2 && s.partUp t then s.onSess fun x => { x with gate := true }
    else s
  | none => s

/-- The twin of a part that has returned, or of the standby that runs as it, sends it the slot entries and the floor
that it has kept, and every copy under the link keys, the most recent commit first (R351, R354). The copies then
stand under an old pair secret. -/
def sendRestore (s : State) (n : Nat) : State :=
  if s.rdg.partnerSlots.isEmpty && s.rdg.copies.isEmpty then s
  else
    let own := mkHandle n 0 0 0
    let s := (sendRequest s n 0 (.genFloor s.rdg.partnerFloor) 0 own 0 true).1
    let s := s.rdg.partnerSlots.foldl (fun s e =>
      (sendRequest s n 0 (.slotEntry e.slot e.gen (if e.parked then 2 else 1) e.durability) 0 own 0 true).1) s
    let order := sortBy (fun (a b : BuddyCopy) => decide (b.epoch < a.epoch)) s.rdg.copies
    let s := order.foldl (fun s c =>
      sendFrame s n 8 0 (.page (.restored (hSlot c.handle)) c.page c.data) (hTenant c.handle) 0 c.handle 0 .ok true) s
    s.onFbx fun f => { f with oldSecret := true }

/-- What a change does here, once the replica holds the commit. -/
def changeEffect (s : State) (epoch : Nat) : MapChange → State
  | .part n a st =>
    if st = 2 then partDown s n
    else
      let s := takeNumber s n a
      let s := if s.twin = some n then
          sendRestore (s.onRdg fun r => { r with partnerDownAt := none }) n else s
      if n = s.rdg.part && a = s.rdg.address then awaitTwin s else s
  | .twinOf p _ =>
    if p = s.rdg.part && s.rdg.twinState ≠ 2 then s.onRdg fun r => { r with twinState := 1 } else s
  | .keepers _ _ _ =>
    (s.rdg.map.proposals.filter fun p => p.1 == s.rdg.part).foldl (fun s p =>
      if s.rdg.map.leader = s.rdg.part then s
      else sendFrame s s.rdg.map.leader 5 0 (.map (.propose p.2))) s
  | .extent h st b => borrowerExtent (lenderExtent s h st b) h st b
  | .extentGone h => extentRemoved s h
  | .region h _ => regionCommitted s h
  | .regionGone h =>
    s.onRdg fun r =>
      { r with mappings := r.mappings.map fun m => if m.handle = h then { m with dead := true } else m }
  | .activation d e cold => noteActivation s d (max e epoch) cold

/-- Requests that waited for their epoch can be acted on (Table 13.3 row 1). -/
def earlyReady (s : State) : List Early := s.rdg.early.filter fun e => e.frame.hdr.epoch ≤ s.rdg.map.epoch

/-- A commit is applied (R292): the replica first, then what hangs on it; a keeper keeps the commit, and a part's
own proposals that it holds are settled. -/
def applyCommit (s : State) (epoch : Nat) (changes : List MapChange) : State :=
  let before := s.rdg.map
  let s := s.onRdg fun r =>
    let m := changes.foldl (fun m c => changeMap m epoch c) r.map
    { r with map := { m with
        epoch := epoch,
        proposals := m.proposals.filter fun p => !changes.contains p.2,
        missed := m.missed.filter fun x => epoch < x.1,
        history := (m.history ++ [(epoch, changes)]).drop (m.history.length + 1 - 1048576) } }
  let released := before.extents.filter fun e => extentState s.rdg.map e.handle = some 4 && e.state != 4 &&
    !changes.contains (.extent e.handle 4 0)
  let s := changes.foldl (fun s c => changeEffect s epoch c) s
  let s := released.foldl (fun s e =>
    if (s.borrowedOf e.handle).isSome then loseExtent s e.handle .revoked else s) s
  let s := actOnEpoch (s.onFwu fun f => { f with lastEpochNs := some s.localNs })
  resendWaiting s

/-- Commits that came before their turn are applied in order (R292). -/
def applyMissed : Nat → State → State
  | 0, s => s
  | n + 1, s =>
    match s.rdg.map.missed.find? fun x => x.1 == s.rdg.map.epoch + 1 with
    | some (e, cs) => applyMissed n (applyCommit s e cs)
    | none => s

/-- A commit arrives: the next epoch is applied, a later one kept while the missed ones are fetched from the leader,
an earlier one is known (R292). -/
def takeCommit (s : State) (epoch : Nat) (changes : List MapChange) : State :=
  let own := s.rdg.map.epoch
  if epoch = own + 1 then applyMissed s.rdg.map.missed.length (applyCommit s epoch changes)
  else if own + 1 < epoch then
    let s := s.onRdg fun r => { r with map := { r.map with missed := upsert (·.1) (epoch, changes) r.map.missed } }
    sendFrame s s.rdg.map.leader 5 0 (.map (.fetch (own + 1)))
  else s

/-- After a cold reset the whole replica is fetched from the first keeper with which link keys stand (R40, R292,
R335). -/
def fetchReplica (s : State) (part : Nat) : State :=
  if s.rdg.map.fetchWhole && s.rdg.map.keepers.contains part then sendFrame s part 5 0 (.map (.fetch 0)) else s

/-- A whole replica is taken where it is newer (R292): the entries of it that differ from the replica act as a
commit of its epoch. -/
def takeWhole (s : State) (epoch : Nat) (changes : List MapChange) : State :=
  let s := s.onRdg fun r => { r with map := { r.map with fetchWhole := false } }
  if epoch ≤ s.rdg.map.epoch then s
  else
    let old := s.rdg.map
    let s := s.onRdg fun r =>
      { r with map := { r.map with parts := [], extents := [], regions := [], activations := [] } }
    let s := old.extents.foldl (fun s e =>
      if changes.any fun c => match c with
        | .extent h _ _ => h == e.handle
        | _ => false
      then s else extentRemoved s e.handle) s
    applyMissed s.rdg.map.missed.length (applyCommit s epoch changes)

end Sys2Proof.Machine
end

