-- ==== Sys2Proof/Machine/RidgeOps.lean ====
section
/-!
DEFINITION. Receiving ridge frames as shared operations: delivery (R286, R287), requests (R295, Table 13.3)
with the checks of extents (Table 13.6) and regions, responses (R296), and a session that another part hands
over (R106, R351).
-/

namespace Sys2Proof.Machine

/-! ### Delivery (R286, R287) -/

/-- retx_us in ns, below 4 acting as 4 (Table 13.14). -/
def retxNs (s : State) : Nat := us (max 4 (fld s.rdg.linkCtl 7 0))
/-- peer_timeout in ns, below 3 acting as 3 (Table 13.14). -/
def peerTimeout (s : State) : Nat := us (100 * max 3 (fld s.rdg.linkCtl 15 8))
/-- stale_retries, 0 acting as 1 (Table 13.14). -/
def staleRetries (s : State) : Nat := max 1 (fld s.rdg.linkCtl 19 16)

/-- Change a port's record. -/
def State.onPort (s : State) (n : Nat) (f : Port → Port) : State :=
  s.onRdg fun r => { r with ports := upsert (·.number) { f (s.port n) with number := n } r.ports }

/-- A dip episode on VDD_SERDES or VDDA_SERDES runs, or ended less than 2 µs ago (R287). -/
def serdesDip (s : State) : Bool :=
  (s.pwr.dipRails.any fun r => r == .vddSerdes || r == .vddaSerdes) &&
  (s.pwr.dipActive || s.pwr.dipEnd.any fun t => decide (s.localNs < t + us 2))

/-- Acknowledge to an address the highest fseq received in order; the acknowledge frame counts for the nonce (R286,
R336). -/
def sendAck (s : State) (addr : Nat) : State :=
  (s.onPeer addr fun p => { p with framesSent := p.framesSent + 1 }).emit
    (.ackFrame addr ((s.peer addr).expected - 1))

/-- The frames that an ack covers are released (R286). -/
def releaseAcked (s : State) (addr : Nat) (ack : Seq) : State :=
  s.onPeer addr fun p => { p with unacked := p.unacked.filter fun o => !decide (dist o.hdr.fseq ack < 2 ^ 31) }

/-- An armed injected fault makes this frame fail its tag (Table 18.4 kind 4). -/
def tagFaultArmed (s : State) (port : Nat) : Bool :=
  s.dgn.armed && fld s.dgn.injectReg 2 0 == 4 && min 5 (fld s.dgn.injectReg 5 3) == port

/-- A frame arrives: whether it is delivered, and what its arrival does by itself (R285 to R287, R345). -/
def receive (s : State) (f : Received) (type : Nat) (sequenced : Bool) : Bool × State :=
  let h := f.hdr
  if h.type ≠ type then (false, s)
  else if h.version ≠ 1 then (false, s.onRdg fun r => { r with discarded := r.discarded + 1 })
  else
    let s := if f.fecOk then s else s.onPort f.port fun p => { p with fecBad := bump 16 p.fecBad }
    if serdesDip s && !(f.fecOk && f.crcOk && f.tagOk) then
      (false, s.onPort f.port fun p => { p with dipDiscards := bump 16 p.dipDiscards })
    else if !(f.fecOk && f.crcOk) then (false, if sequenced then sendAck s h.srcAddr else s)
    else
      let struck := sequenced && tagFaultArmed s f.port
      let s := if struck then faultStruck s 4 else s
      if struck || !f.tagOk then
        let s := isolation s 2 h.tenant
        (false, if sequenced then sendAck s h.srcAddr else s)
      else
        let s := (releaseAcked s h.srcAddr h.ack).onPeer h.srcAddr fun p =>
          { p with lastHeard := s.localNs, suspect := false }
        if !sequenced then (true, s)
        else if h.fseq ≠ (s.peer h.srcAddr).expected then (false, sendAck s h.srcAddr)
        else (true, sendAck (s.onPeer h.srcAddr fun p => { p with expected := p.expected + 1 }) h.srcAddr)

/-! ### Sessions handed over (R106, R351) -/

/-- The session that a record and log make, under a slot of this part. -/
def handedSession (s : State) (r : Restored) (key : Nat) (pages : List Page) : Session :=
  { slot := r.slot, gen := r.gen, state := if r.parked then .parked else .resident, tenant := r.tenant,
    image := r.image, variant := r.variant, cls := r.cls, durability := r.durability,
    tclass := r.tclass.getD ((s.ses.tclass[r.cls]?).getD 0),
    kvclass := r.kvclass.getD ((s.ses.kvclass[r.cls]?).getD 0),
    tail := r.tail, bypassed := r.bypassed, streamFlag := r.streamFlag,
    context := if s.host.compat then min 32768 r.context else r.context, seed := r.seed, grammar := r.grammar, start := r.start, maxStack := r.maxStack,
    gstate := r.gstate, gstack := r.gstack, log := r.log, pending := r.waiting, wseq := r.wseq,
    layers := r.layers.map fun l => { slots := l }, summaries := r.summaries,
    epoch := r.epoch, lastCommit := s.localNs, parkedAt := s.localNs, pages := pages,
    tuning := r.tuning, schedule := r.schedule, cairnSeq := r.cairns.1, cairnSlots := r.cairns.2,
    pageKey := key }

/-- The one page that stands for KV that has not come along: the session is rebuilt at its next use (R114,
R351). -/
def missingKv : Page := { index := 0, kind := 1, place := .lost .stateLost }

/-- Count a session among the users of its grammar, whose copy came along (R255). -/
def useHandedGrammar (s : State) (r : Restored) : State :=
  match r.grammar with
  | none => s
  | some d => s.onKnd fun k =>
    if k.grammars.any fun g => g.tenant == r.tenant && g.digest == d then
      { k with grammars := k.grammars.map fun g =>
          if g.tenant = r.tenant && g.digest = d then { g with users := g.users ++ [r.slot] } else g }
    else
      let g : Grammar := { digest := d, tenant := r.tenant, bytes := r.grammarBytes, users := [r.slot] }
      { k with grammars := k.grammars ++ [g] }

/-- The pages that came with a record, without the record's own. -/
def cameAlong (r : Restored) (pages : List (Nat × List Byte)) : List (Nat × List Byte) :=
  if r.hasPages then pages.filter fun p => p.1 < 0xFF0000 else []

/-- The pair of a page that came with a record (R140). -/
def pairOf (r : Restored) (page : Nat) : Nat × Nat := ((lookupBy (·.1) page r.pairs).map (·.2)).getD (r.epoch, r.wseq)

/-- A page as it is stored in a tier: one that came as 64 KiB is coded here. -/
def asCoded (i : Image) (r : Restored) (page : Nat) (d : List Byte) : List Byte :=
  if d.length = 65536 then codePage (pageKind i page) (pairOf r page).1 (pairOf r page).2 false d else d

/-- A page as it lies in hearth: one that came coded is decoded; none where it fails its check. -/
def asPlain (d : List Byte) : Option (List Byte) := if d.length = 65536 then some d else decodePage d

/-- A page that came passes the check of a hand-over (Table 5.14): it decodes, and its digest is the one that the record
lists, where it lists one. -/
def pageGood (r : Restored) (p : Nat × List Byte) : Bool :=
  match asPlain p.2 with
  | none => false
  | some c => match lookupBy (·.1) p.1 r.tags with
    | some t => pageTag c == t.2
    | none => true

/-- The pages of a record as they stand here: those that came and pass their check; lost where they do not. -/
def handedPage (i : Image) (r : Restored) (place : PagePlace) (n : Nat) : Page :=
  { index := n, kind := pageKind i n, epoch := (pairOf r n).1, wseq := (pairOf r n).2, place := place }

/-- The pages of a session that arrives PARKED in their tiers, as a PARK would place them (R130), with its record's; none
where no tier has room. -/
def placeHanded (s : State) (x : Session) (i : Image) (r : Restored) (bare : List (Nat × List Byte)) :
    Option (State × List Page) :=
  placeParked s x 0 ((bare.map fun p => (handedPage i r (.lost .ok) p.1, asCoded i r p.1 p.2)) ++ codedRecords s x)

/-- Install a session from its record, log and pages (R106, R130, R351): pages of a PARKED one as a PARK places them,
those of a RESIDENT one in hearth frames, each with its own pair; where they did not come, fail their check or find no
room, the session is rebuilt at its next use. The twin gets copies by the session's class (R102; notes/assumptions/99.md). -/
def installHanded (s : State) (r : Restored) (pages : List (Nat × List Byte)) : State :=
  let (s, key) := drawKey s
  let i := s.image (iSlot r.image)
  let s := useHandedGrammar s r
  let all := cameAlong r pages
  let bad := (all.filter fun p => !pageGood r p).map fun p => handedPage i r (.lost .poisoned) p.1
  let bare := all.filter (pageGood r)
  let whole := handedSession s r key []
  let missing := handedSession s { r with parked := false } key [missingKv]
  let done := fun (s : State) (x : Session) => sendFresh (installSession s x) x.slot
  if all.isEmpty then done s (if r.log.length ≤ 1 then whole else handedSession s r key [missingKv])
  else if !bad.isEmpty then done s (handedSession s { r with parked := false } key bad)
  else if r.parked then
    match placeHanded s whole i r bare with
    | some (s', placed) => done s' { whole with pages := placed }
    | none => done s missing
  else
    let s := installSession s whole
    match allotPages s r.slot (bare.map (·.1)) false with
    | (s, none) => s.onSession r.slot fun x => { x with pages := [missingKv] }
    | (s, some got) =>
      let s := bare.foldl (fun s p => match lookupBy (·.1) p.1 got, asPlain p.2 with
        | some (_, f), some c => writeFrame s f c
        | _, _ => s) s
      sendFresh (s.onSession r.slot fun x =>
        { x with pages := got.map fun g => handedPage i r (.hearth g.2) g.1 }) r.slot

/-- The generation that a hand-over brings goes on here, answering to the part that fetched its descriptor
(R94, R108, R110). -/
def resumeHanded (s : State) (r : Restored) : State :=
  match r.running with
  | none => s
  | some (raw, g) =>
    let d : InFlight :=
      { origin := g.origin, tenant := r.tenant, operator := false, raw := raw, phase := .running, fetched := s.localNs,
        deadline := if r.deadlineUs = 0 then none else some (s.localNs + us r.deadlineUs) }
    let s := (s.onDesc fun l => l ++ [d]).onSession r.slot fun x => { x with gener := some g }
    openBatches 128 s (iSlot r.image)

/-! ### Requests of other parts (R295) -/

/-- What Table 13.6 answers to an access of an extent; none serves it. -/
def extentAccess (s : State) (h : Word) (part : Nat) : Option Status :=
  match s.lentOf h with
  | none => some .extentUnmapped
  | some l =>
    if l.borrower ≠ part then some .extentUnmapped
    else match l.state with
      | 1 => none
      | 2 =>
        if !l.wasBorrowed then some .extentUnmapped
        else if l.graceEnd.isNone && l.graceAt.any fun t => decide (s.localNs < t + graceOf s l) then none
        else some .revoked
      | 3 => if l.wasBorrowed then some .revoked else some .extentUnmapped
      | _ => some .extentUnmapped

/-- Answer an access of an extent: refusals with REVOKED are counted (Table 13.17). -/
def answerExtent (s : State) (part req : Nat) (h : Word) (served : State → State × ResponseBody) : State :=
  match extentAccess s h part with
  | some st =>
    let s := if st = .revoked then
        s.onRdg fun r => { r with revokedRefusals := bump 16 r.revokedRefusals } else s
    sendResponse s part req st (.done 0 []) h
  | none =>
    let (s, b) := served s
    sendResponse s part req .ok b h

/-- Granules of a lent extent written. -/
def storeLent (s : State) (h : Word) (granule : Nat) (data : List Byte) : State :=
  s.onLent h fun l =>
    let put := fun (m : List (Nat × List Byte)) (x : List Byte × Nat) => upsert (·.1) (granule + x.2, x.1) m
    { l with data := ((chunks 512 (data.length / 512 + 1) data).zipIdx).foldl put l.data }

/-- A granule of a lent extent; cleared where nothing is stored. -/
def readLent (s : State) (h : Word) (granule : Nat) : List Byte :=
  match s.lentOf h with
  | some l => ((lookupBy (·.1) granule l.data).map (·.2)).getD (List.replicate 512 0)
  | none => []

/-- A claim reaches the lender: the first is granted and proposed, any later one refused (R299; notes/assumptions/91.md). -/
def takeClaim (s : State) (part req : Nat) (h : Word) : State :=
  match s.lentOf h with
  | none => sendResponse s part req .extentUnmapped (.done 0 []) h
  | some l =>
    if l.state ≠ 0 || l.claimed || l.lender.isSome then sendResponse s part req .extentUnmapped (.done 0 []) h
    else sendResponse (propose (s.onLent h fun l => { l with claimed := true }) (.extent h 1 part)) part req .ok
      (.done 0 []) h

/-- A descriptor sent under R86 or R260 is delivered: metered at the ridge point, then it waits for its start
(R86, R94, R323). -/
def takeDescriptor (s : State) (h : FrameHeader) (raw : BitVec 512) (operator : Bool) : State :=
  let o : Origin := .ridge h.srcPart h.reqId
  let (refused, s) := if unmetered (dOpcode raw) then (false, s)
    else meter s 1 h.tenant (descriptorClass s raw) (84 + h.length)
  if refused then sendResponse s h.srcPart h.reqId .queueFull (.done 0 (bitsOfConds [.queueFull])) h.object
  else
    let d : InFlight :=
      { origin := o, tenant := h.tenant, operator := operator, raw := raw, fetched := s.localNs,
        settings := some (settingsNow s),
        deadline := if h.deadlineUs = 0 then none else some (s.localNs + us h.deadlineUs) }
    arrive (s.onDesc fun l => l ++ [d]) o

/-- An access to a region from another part, at its home: the region, mapped by the part in a view that allows
it. -/
def mappedFor (s : State) (h : Word) (part : Nat) (allows : Nat → Bool) : Option Region :=
  match regionOf s h with
  | some r => if (viewOf r part).any allows then some r else none
  | none => none

/-- A part asks to map a region (R305, Table 13.9 row 2): only a shared one, for its own tenant. -/
def takeMapper (s : State) (part req tenant : Nat) (h : Word) (view : Nat) : State :=
  match regionOf s h with
  | some r =>
    if r.shared && r.tenant = tenant then
      sendResponse (s.putRegion (addMapper r part view)) part req .ok
        (.mapped (r.size / 0x4000000) r.shared r.digests) h
    else sendResponse s part req .accessDenied (.done 0 []) h
  | none => sendResponse s part req .accessDenied (.done 0 []) h

/-- Stage 0 is asked whether an image may be unloaded elsewhere (R194). -/
def takeUnload (s : State) (part req : Nat) (id : BitVec 128) : State :=
  match s.img.slots.find? fun i => i.state != .empty && i.id == id && i.stage == 0 with
  | some i =>
    if unloadBusy s i then sendResponse s part req .sessionBusy (.done 0 [])
    else
      let s := s.onImg fun g =>
        { g with reports := g.reports.filter fun r => !(r.1 == id && r.2.2 == part) }
      sendResponse s part req .ok (.done 0 [])
  | none =>
    let s := s.onImg fun g => { g with reports := g.reports.filter fun r => !(r.1 == id && r.2.2 == part) }
    sendResponse s part req .ok (.done 0 [])

/-- A stage keeps the records of a variant that stage 0 sends, or lets the variant go (R197). -/
def takeVariant (s : State) (src : Nat) (id : BitVec 128) (n tenant : Nat) (records : List Byte) : State :=
  match s.img.slots.find? fun i => i.state != .empty && i.id == id && i.stage != 0 && i.group[0]? == some src with
  | none => s
  | some i => s.onImage i.slot fun i =>
    { i with variants := if records.isEmpty then dropKey (·.number) n i.variants
        else upsert (·.number) { number := n, tenant := tenant, records := records } i.variants }

/-- What a home asks of the share that this part holds of its session (R13, R100, R106, R126); its answer tells how it
ended, and the bytes placed or the pages still dirty. -/
def takeShare (s : State) (src req : Nat) (h : Word) (act : ShareAct) : State :=
  let answer := fun (s : State) st n => sendResponse s src req st (.done (BitVec.ofNat 64 n) []) h
  match guestOf s h with
  | none => answer s .ok 0
  | some x =>
    if hPart h ≠ src then answer s .sessionUnknown 0
    else match act with
      | .park tier noNarrow =>
        if x.state = .parked then answer s .ok (parkedBytes x)
        else match parkSession s x.slot tier noNarrow with
          | some (s', g) => answer s' .ok (512 * g)
          | none => answer s .tierFull 0
      | .revive keep =>
        if x.state ≠ .parked then answer s .ok 0
        else match bringIn s x.slot [] keep with
          | .resident s' => answer s' .ok 0
          | .conflict s' _ => answer s' .copyConflict 0
          | .lost s' why => answer s' why 0
          | .full s' => answer s' .tierFull 0
      | .rebuild => match rebuildKv s x.slot .poisoned with
        | .ok s' => answer s' .ok 0
        | .error s' => answer s' .tierFull 0
      | .send dest object dirtyOnly =>
        let mine := if dirtyOnly then x.pages.filter (·.dirty) else x.pages
        answer ((sendPages s x dest req object (x.state == .parked) mine).putSession (cleanPages x)) .ok mine.length
      | .copy object tier =>
        let slot := guestSlot s
        let (s', key) := drawKey s
        let y : Session := { x with slot := slot, gen := hGen object, pageKey := key, guest := some object, state := .parked }
        match placeParked s' y tier (snapshotPages s x) with
        | some (s', placed) => answer (s'.putSession { y with pages := placed }) .ok 0
        | none => answer s .tierFull 0
      | .freeDead => answer (if isActive x || x.state ≠ .resident then s else freeDeadOf s x) .ok 0
      | .close => answer ((freeSessionPages s x).onSess fun t => { t with table := dropKey (·.slot) x.slot t.table }) .ok 0

/-- The receiver holds dst_part: the request acts under the checks of its object (Table 13.3 row 4). -/
def actRequest (s : State) (h : FrameHeader) (r : Request) : State :=
  let src := h.srcPart
  let unmapped := fun s => sendResponse s src h.reqId .extentUnmapped (.done 0 []) h.object
  match r with
  | .descriptor raw _ operator => takeDescriptor s h raw operator
  | .endOf req => match s.descriptor (.ridge src req) with
    | some d => readmit (cancelWork s d).2
    | none => s
  | .claim e => takeClaim s src h.reqId e
  | .extentRead e g n => answerExtent s src h.reqId e fun s =>
      (s, .data ((upFrom g n).flatMap (readLent s e)) none)
  | .extentWrite e g d => answerExtent s src h.reqId e fun s => (storeLent s e g d, .done 0 [])
  | .lineRead g line v => match mappedFor s g src fun w => if v then w == 2 else w < 2 with
    | some x => pushOp s x.slot (.part src h.reqId) (.read line v false)
    | none => unmapped s
  | .digestRead g page => match mappedFor s g src fun _ => true with
    | some x => sendResponse s src h.reqId .ok (.data (recordBytesOf (digestRecord x page)) none) g
    | none => unmapped s
  | .lineWrite g line off d => match mappedFor s g src fun w => w == 0 with
    | some x => pushOp s x.slot (.part src h.reqId) (.write line off d)
    | none => unmapped s
  | .mapper g view => takeMapper s src h.reqId h.tenant g view
  | .unmapper g => match regionOf s g with
    | some x =>
      let y := removeMapper x src
      pumpRegion (s.putRegion { y with unmapping := x.unmapping ++ [(src, .part src h.reqId)] }) x.slot
    | none => sendResponse s src h.reqId .ok (.done 0 []) g
  | .imageReport id stage =>
    if s.img.reports.contains (id, stage, src) then s
    else s.onImg fun g => { g with reports := g.reports ++ [(id, stage, src)] }
  | .unloadAsk id => takeUnload s src h.reqId id
  | .variant id n tenant records => takeVariant s src id n tenant records
  | .slotEntry slot gen state durability =>
    if s.twin = some src && hPart h.object = src then
      let e : SlotEntry := { slot := slot, gen := gen, durability := durability, parked := state == 2 }
      s.onRdg fun g =>
        { g with partnerSlots := upsert (·.slot) e g.partnerSlots,
                 copies := g.copies.filter fun c => !(hSlot c.handle == slot &&
                   (hGen c.handle != gen || state == 0 || state == 4 || durability == 0)) }
    else s
  | .genFloor f => if s.twin = some src && hPart h.object = src then s.onRdg fun g => { g with partnerFloor := f } else s
  | .share k act => takeShare s src h.reqId k act
  | .dropMove k => s.onRdg fun g => { g with arriving := g.arriving.filter fun a => a.handle != k }
  | .poisonCopy k page => if s.twin = some src then
      s.onRdg fun g => { g with copies := g.copies.map fun c =>
        if c.handle = k && c.page = page then { c with poisoned := true } else c }
    else s
  | .dropCopies k => if s.twin = some src then
      s.onRdg fun g => { g with copies := g.copies.filter fun c => c.handle != k || 0xFF0000 ≤ c.page }
    else s
where
  /-- A digest record as the host reads it (Table 6.10). -/
  recordBytesOf (d : DigestRecord) : List Byte :=
    leBytes 64 (put 383 0 d.digest.toNat + put 447 384 d.wseq + putBit 448 d.valid + putBit 449 d.stale +
      putBit 450 d.device)

/-- Rows 2 to 4 of Table 13.3. -/
def routeRequest (s : State) (f : Received) (r : Request) : State :=
  let h := f.hdr
  if h.dstPart = s.rdg.part then actRequest s h r
  else match s.mapPart h.dstPart with
    | some p =>
      if !h.forwarded && p.state = 1 then
        let s := s.onRdg fun g => { g with forwards := bump 16 g.forwards }
        let h : FrameHeader := { h with forwarded := true, retransmit := false, epoch := s.rdg.map.epoch,
                                        dstAddr := p.address, srcAddr := s.rdg.address }
        enqueueFrame s (generalPort s h.dstPart) { hdr := h, payload := .request r, sentAt := s.localNs }
      else sendResponse s h.srcPart h.reqId .staleEpoch (.done 0 []) h.object
    | none => sendResponse s h.srcPart h.reqId .staleEpoch (.done 0 []) h.object

/-- A request is judged (Table 13.3): one routed under a later epoch waits up to 100 µs for it. -/
def judgeRequest (s : State) (f : Received) (r : Request) : State :=
  if s.rdg.map.epoch < f.hdr.epoch then
    let e : Early := { id := f.hdr.reqId, bound := s.localNs + us 100, frame := f, req := r }
    sendFrame (s.onRdg fun g => { g with early := g.early ++ [e] }) s.rdg.map.leader 5 0
      (.map (.fetch (s.rdg.map.epoch + 1)))
  else routeRequest s f r

/-- Requests whose epoch has been applied are acted on, in their order. -/
def actEarly (s : State) : State :=
  let ready := earlyReady s
  let s := s.onRdg fun g => { g with early := g.early.filter fun e => !ready.contains e }
  ready.foldl (fun s e => routeRequest s e.frame e.req) s

/-! ### Responses (R296) -/

/-- An image whose stage 0 lets it go is unloaded: the one that the unload's handle names (R189, R194). -/
def unloadAnswered (s : State) (a : Asked) : State :=
  let i := s.image (iSlot a.object)
  let s := if i.state = .unloading then freeImage s i.slot else s
  match a.origin with
  | some o => complete s o [] 0
  | none => s

/-- A home has accepted this part as a mapper: the mapping stands, unless it would pass the end of the range or
overlap another (Table 13.9 row 1). -/
def mapperAnswered (s : State) (a : Asked) (region : Word) (view units : Nat) (shared digest : Bool) : State :=
  match a.origin with
  | none => s
  | some o =>
    match s.descriptor o with
    | none => s
    | some d =>
      let unit := fld d.raw 299 288
      let n := ceilDiv units 4
      if unit + n ≤ 4092 && !overlaps s unit n then
        let m : Mapping := { unit := unit, handle := region, size := 0x4000000 * units, view := view,
                             shared := shared, digest := digest }
        complete (s.onRdg fun g => { g with mappings := g.mappings ++ [m] }) o [] 0
      else complete (sendRequest s (hPart region) 0 (.unmapper region) a.tenant region).1 o [.formatUnsupported] 0
where
  /-- A mapping of n units from one on would overlap another. -/
  overlaps (s : State) (unit n : Nat) : Bool :=
    s.rdg.mappings.any fun m => unit < m.unit + ceilDiv m.size unitBytes && m.unit < unit + n

/-- An awaited request has its answer: its status, result and body decide what becomes of it. -/
def settleAsked (s : State) (a : Asked) (epoch : Nat) (st : Status) (body : ResponseBody) : State :=
  if st = .staleEpoch then
    let s := s.onRdg fun g => { g with staleRefusals := bump 16 g.staleRefusals }
    if staleRetries s ≤ a.tries then failAsked s a .staleEpoch
    else if epoch ≤ s.rdg.map.epoch then resendAsked s a
    else s.onRdg fun g =>
      { g with asked := g.asked.map fun b => if b.id = a.id then { b with waits := some epoch } else b }
  else if st ≠ .ok then
    match a.request with
    | .unmapper h => match a.origin with
      | some o => complete (dropMapping (dropAsked s a.id) h) o [] 0
      | none => dropAsked s a.id
    | _ => failAsked s a st
  else
    let s := dropAsked s a.id
    match a.request, body, a.about with
    | .lineRead g line _, .data bytes v, some off =>
      lineToHost (cacheLine s { region := g, line := line, data := bytes, version := v }) off bytes
    | .digestRead _ _, .data bytes _, some off => s.emit (.readData (off / 64 * 64) bytes false)
    | .lineWrite _ _ _ _, _, some off => s.emit (.writeDone off)
    | .mapper g view, .mapped units shared digest, _ => mapperAnswered s a g view units shared digest
    | .unmapper h, _, _ => match a.origin with
      | some o => complete (dropMapping s h) o [] 0
      | none => s
    | .unloadAsk _, _, _ => unloadAnswered s a
    | .extentRead _ _ _, _, _ | .extentWrite _ _ _, _, _ => pumpPool s
    | _, _, _ => s

/-- The descriptor that a response is for (R86). -/
def sentDescriptor (s : State) (req : Nat) : Option InFlight :=
  s.desc.find? fun d => match d.phase with
    | .sent _ id => id == req
    | _ => false

/-- A descriptor sent to another part has its answer (R86, R296): after STALE_EPOCH it is sent again, else it
completes once its flue records are out (R74). -/
def answerDescriptor (s : State) (d : InFlight) (epoch : Nat) (st : Status) (result : Word) (conds : List Nat) :
    State :=
  if st = .staleEpoch && conds.isEmpty then
    let s := s.onRdg fun g => { g with staleRefusals := bump 16 g.staleRefusals }
    if staleRetries s ≤ d.tries then complete s d.origin [.staleEpoch] 0
    else resendWaiting (s.onDescriptor d.origin fun d => { d with resendAt := some epoch })
  else
    let all := condsOfBits conds ++ (if st = .ok || (condsOfBits conds).contains st then [] else [st])
    finishEnded (s.onDescriptor d.origin fun d => { d with phase := .ended result, conds := d.conds ++ all })

/-- A flue record for a queue pair of this part has come: the records of one step join the queue of their class together,
once the last of them is here, with no other record among them (R79). -/
def takeFlue (s : State) (d : InFlight) (cls q : Nat) (r : FlueRecord) : State :=
  if r.more then s.onDescriptor d.origin fun d => { d with partial' := d.partial' ++ [r] }
  else
    let all := d.partial' ++ [r]
    (s.onDescriptor d.origin fun d => { d with partial' := [] }).onClass 6 cls fun c =>
      { c with queue := c.queue ++ all.map fun r =>
          ({ hdr := blankHeader, payload := .record q r } : OutFrame) }

/-- A move's destination has no room for its pages (R111). -/
def moveRefused (s : State) (req : Nat) (st : Status) : State :=
  match s.ses.table.find? fun x => x.move.any fun m => m.req == req && st == .tierFull with
  | some x => readmit (endMove s x.slot .tierFull)
  | none => s

/-- A response is delivered. -/
def takeResponse (s : State) (h : FrameHeader) (body : ResponseBody) : State :=
  let st := statusOfCode h.status.toNat
  match s.rdg.asked.find? fun a => a.id == h.reqId with
  | some a => settleAsked s a h.epoch st body
  | none =>
    match sentDescriptor s h.reqId with
    | none => moveRefused s h.reqId st
    | some d =>
      match body, d.origin with
      | .flue r, .qp q seq => if d.discard then s else takeFlue s d h.cls q { r with genSeq := seq }
      | .flight q r, _ => writeFlight s q r
      | .toHost addr bytes, .qp q _ =>
        if d.discard then s else s.emit (.hostWrite (s.qp q).ctx.pasid addr bytes)
      | .done result conds, _ => answerDescriptor s d h.epoch st result conds
      | _, _ => s

end Sys2Proof.Machine
end

