-- ==== Sys2Proof/Machine/Ridge.lean ====
section
/-!
DEFINITION. The meanings of the ridge commands (R283 to R296, R335, R336): frames received, retransmission,
keepalives, suspicion and loss, the map's proposals, commits and elections, ports, link keys.
-/

namespace Sys2Proof.Machine

/-! ### Frames received -/

/-- REQUEST_FRAME (R286, R295). -/
def execRequestFrame (f : Received) (req : Request) (s : State) : Answer :=
  afterClears s <|
  match receive s f 0 true with
  | (true, s) => .next (judgeRequest s f req)
  | (false, s) => .next s

/-- RESPONSE_FRAME (R286, R294, R296): epochs up to the responder's are fetched. -/
def execResponseFrame (f : Received) (body : ResponseBody) (s : State) : Answer :=
  match receive s f 1 true with
  | (true, s) =>
    let s := if s.rdg.map.epoch < f.hdr.epoch then
        sendFrame s s.rdg.map.leader 5 0 (.map (.fetch (s.rdg.map.epoch + 1))) else s
    .next (takeResponse s f.hdr body)
  | (false, s) => .next s

/-- INVALIDATE (R309, R312): the line, or the sealed lines of the version before, dropped and snooped, and
acknowledged. -/
def execInvalidate (f : Received) (region : Word) (line : Option Nat) (s : State) : Answer :=
  match receive s f 3 true with
  | (true, s) =>
    let s := match line with
      | some l => dropLine s region l
      | none => dropSealed s region
    .next (sendFrame s f.hdr.srcPart 4 0 (.invalidateAck region line) f.hdr.tenant 0 region)
  | (false, s) => .next s

/-- INVALIDATE_ACKNOWLEDGE (R309). -/
def execInvalidateAcknowledge (f : Received) (region : Word) (line : Option Nat) (s : State) : Answer :=
  match receive s f 4 true with
  | (true, s) => match regionOf s region with
    | some r => .next (acknowledgeLine s r.slot f.hdr.srcPart line)
    | none => .next s
  | (false, s) => .next s

/-- A keeper answers a part that has missed epochs: with their commits in order, or with a whole replica where it no
longer keeps the first of them (R292). -/
def answerFetch (s : State) (part epoch : Nat) : State :=
  if !s.rdg.map.keepers.contains s.rdg.part || s.rdg.map.epoch < epoch then s
  else match s.rdg.map.history.filter fun x => epoch ≤ x.1 && s.rdg.map.history.any fun y => y.1 == epoch with
    | x :: rest => (x :: rest).foldl (fun s c => sendFrame s part 5 0 (.map (.commit c.1 c.2))) s
    | [] => sendFrame s part 5 0 (.map (.whole s.rdg.map.epoch (wholeMap s.rdg.map)))

/-- A proposal of this part is rejected (R291): a join under a number that is up elsewhere holds the ports down
(R289), a granted claim is open again (R299). -/
def proposalRejected (s : State) (c : MapChange) : State :=
  let s := withdraw s c
  match c with
  | .part n _ _ =>
    if n = s.rdg.part then
      s.onRdg fun r => { r with map := { r.map with joinRefused := true },
                                ports := r.ports.map fun p => { p with state := .heldDown, lanes := 0 } }
    else s
  | .extent h 1 _ => s.onLent h fun l => { l with claimed := false }
  | .twinOf _ _ => s.onRdg fun r => { r with twinState := if r.twinState = 1 then 0 else r.twinState }
  | _ => s

/-- MAP_FRAME (R291, R292): what the frame says is taken; requests that waited for their epoch go on. -/
def execMapFrame (f : Received) (body : MapBody) (s : State) : Answer :=
  match receive s f 5 true with
  | (true, s) =>
    let src := f.hdr.srcPart
    .next (actEarly (match body with
      | .commit e cs => takeCommit s e cs
      | .whole e cs => takeWhole s e cs
      | .propose c =>
        if isLeader s then
          s.onRdg fun r => { r with map := { r.map with proposals := r.map.proposals ++ [(src, c)] } }
        else s
      | .rejected c => proposalRejected s c
      | .suspect p => s.onRdg fun r => { r with map := { r.map with suspects := dedup (r.map.suspects ++ [p]) } }
      | .fetch e => answerFetch s src e))
  | (false, s) => .next s

/-- ACKNOWLEDGE (R286): held frames up to the fseq acknowledged are released. -/
def execAcknowledge (f : Received) (s : State) : Answer := .next (receive s f 6 false).2

/-- The offer of a peer is accepted (R335): its chain verifies, its operator is this part's, the domain is equal, and
number and address agree with the map or the peer may join (R289). -/
def acceptsOffer (s : State) (addr : Nat) (o : PeerOffer) : Bool :=
  o.chainOk && o.leafEqual && o.domain == s.rdg.domain && o.address == addr &&
  match s.mapPart o.part with
  | some p => p.address == addr || p.state != 1
  | none => true

/-- Link keys are agreed with an address, or the peer is refused (R335); without a healthy TRNG no key is drawn
(R333). Proposals that the leader has not seen go to it. -/
def agreeKeys (s : State) (addr : Nat) (o : PeerOffer) : State :=
  if !s.fbx.identityOk || !s.fbx.trngOk || !s.rdg.configured then s
  else if !acceptsOffer s addr o then s.onPeer addr fun p => { p with refused := true, keyed := false }
  else
    let fresh := !(s.peer addr).keyed
    let (s, key) := drawKey s
    let s := s.onPeer addr fun p =>
      { p with keyed := true, refused := false, part := some o.part, keyDraw := key, framesSent := 0,
               keyedAt := s.localNs, oldKeyUntil := if p.keyed then s.localNs + ms 1 else 0,
               lastHeard := s.localNs, suspect := false }
    let s := fetchReplica s o.part
    if fresh && o.part = s.rdg.map.leader then
      (s.rdg.map.proposals.filter fun p => p.1 == s.rdg.part).foldl (fun s p =>
        sendFrame s o.part 5 0 (.map (.propose p.2))) s
    else s

/-- KEEPALIVE (R288, R335): proof of life, or a key exchange. -/
def execKeepalive (f : Received) (offer : Option PeerOffer) (s : State) : Answer :=
  match receive s f 7 false, offer with
  | (true, s), some o => .next (agreeKeys s f.hdr.srcAddr o)
  | (_, s), _ => .next s

/-- A buddy copy of the partner is written to the foothill tier and acknowledged (R346). -/
def takeBuddy (s : State) (h : FrameHeader) (handle : Word) (epoch wseq page : Nat) (data : List Byte) : State :=
  if s.twin ≠ some h.srcPart then s
  else
    let c : BuddyCopy := { handle := handle, page := page, data := data, epoch := epoch, wseq := wseq }
    let s := s.onRdg fun r =>
      { r with copies := (r.copies.filter fun x => !(x.handle == handle && x.page == page)) ++ [c] }
    sendResponse s h.srcPart h.reqId .ok (.done 0 []) handle h.cls

/-- A page of a session that moves here or is restored here is kept until the session's record comes (R106,
R351). -/
def keepArriving (s : State) (handle : Word) (page : Nat) (parked : Bool) (data : List Byte) : State :=
  s.onRdg fun r =>
    let a : Arriving := { handle := handle, page := page, data := data, parked := parked }
    { r with arriving := (r.arriving.filter fun x => !(x.handle == handle && x.page == page)) ++ [a] }

/-- A page of a session that moves here: room is made and kept for it, as a REVIVE or a PARK would (R111, R126, R127,
R130); with none the pages that came are freed, and the source learns that the tier is full. -/
def takeMoving (s : State) (h : FrameHeader) (page : Nat) (parked : Bool) (data : List Byte) : State :=
  let s := keepArriving s h.object page parked data
  let fits : State → Bool := fun s => if parked then foothillFits s 0 else hearthFits s 0 false
  let s := if parked then (if fits s then s else demoteFor s 0) else makeRoom s fits
  if fits s then s
  else sendResponse (s.onRdg fun r => { r with arriving := r.arriving.filter fun a => a.handle != h.object })
    h.srcPart h.reqId .tierFull (.done 0 []) h.object

/-- PAGE_DATA (R106, R300, R346, R351): a page of a session that moves here, the hand-over, a page of a lent extent, a
buddy copy, a restored page. -/
def execPageData (f : Received) (kind : PageKind) (page : Nat) (data : List Byte) (s : State) : Answer :=
  afterClears s <|
  match receive s f 8 true with
  | (false, s) => .next s
  | (true, s) =>
    let h := f.hdr
    match kind with
    | .session parked => .next (takeMoving s h page parked data)
    | .handed r =>
      let pages := (s.rdg.arriving.filter fun a => a.handle == h.object).map fun a => (a.page, a.data)
      let s := s.onRdg fun g => { g with arriving := g.arriving.filter fun a => a.handle != h.object }
      if slotFree s r.slot && s.fbx.trngOk then .next (resumeHanded (installHanded s r pages) r) else .next s
    | .lent e => .next (if (extentAccess s e h.srcPart).isNone then storeLent s e (128 * page) data else s)
    | .buddy handle epoch wseq => .next (takeBuddy s h handle epoch wseq page data)
    | .restored _ => .next (if s.twin = some h.srcPart then keepArriving s h.object page true data else s)

/-! ### Retransmission, keepalives, suspicion, loss (R286, R288) -/

/-- Frames sent again to an address: routed anew under the present epoch, in order, each with its fseq (R286,
R294). -/
def sendAgain (s : State) (addr : Nat) : State :=
  let p := s.peer addr
  let s := p.unacked.foldl (fun s o =>
    let dst := match s.mapPart o.hdr.dstPart with
      | some e => e.address
      | none => o.hdr.dstAddr
    let h : FrameHeader := { o.hdr with retransmit := true, epoch := s.rdg.map.epoch, dstAddr := dst }
    let n := generalPort s o.hdr.dstPart
    (enqueueFrame s n { o with hdr := h }).onPort n fun q => { q with resent := bump 16 q.resent }) s
  s.onPeer addr fun p => { p with unacked := p.unacked.map fun o => { o with again := some s.localNs, retx := some (retxNs s) } }

/-- The oldest frame an address has not acknowledged. -/
def oldestUnacked (s : State) (addr : Nat) : Option OutFrame := (s.peer addr).unacked[0]?

/-- A frame to an address has stood unacknowledged for a time. -/
def unackedFor (s : State) (addr ns : Nat) : Bool :=
  (oldestUnacked s addr).any fun o => decide (o.sentAt + ns ≤ s.localNs)

/-- RETRANSMIT_TIMEOUT (R286), by the retx_us under which the frame was last sent (Table 19.11). -/
def execRetransmitTimeout (addr : Nat) (s : State) : Answer :=
  match oldestUnacked s addr with
  | none => .next s
  | some o => .next (if (o.again.getD o.sentAt) + o.retx.getD (retxNs s) ≤ s.localNs then sendAgain s addr else s)

/-- KEEPALIVE_SEND (R288): one to each keeper. -/
def execKeepaliveSend (s : State) : Answer :=
  if !s.pwr.ready || !s.rdg.configured then .next s
  else .next ((s.rdg.map.keepers.filter (· != s.rdg.part)).foldl (fun s k => sendFrame s k 7 0 .none) s)

/-- The part at an address: the map's, or what the peer gave at the key exchange. -/
def partAt (s : State) (addr : Nat) : Option Nat :=
  match s.rdg.map.parts.find? fun p => p.address == addr && p.state != 2 with
  | some p => some p.number
  | none => (s.peer addr).part

/-- PEER_SUSPECT (R288): reported to the leader keeper. -/
def execPeerSuspect (addr : Nat) (s : State) : Answer :=
  if (s.peer addr).suspect || !unackedFor s addr (peerTimeout s) then .next s
  else
    let s := s.onPeer addr fun p => { p with suspect := true }
    match partAt s addr with
    | none => .next s
    | some p =>
      if isLeader s then
        .next (s.onRdg fun r => { r with map := { r.map with suspects := dedup (r.map.suspects ++ [p]) } })
      else .next (sendFrame s s.rdg.map.leader 5 0 (.map (.suspect p)))

/-- The keeper set without a lost keeper: the part up with the lowest number that is no keeper takes its place
(R291). -/
def keepersWithout (m : MapReplica) (lost : Nat) : List Nat :=
  let rest := m.keepers.filter (· != lost)
  match (upParts m).find? fun p => p != lost && !m.keepers.contains p with
  | some p => rest ++ [p]
  | none => rest

/-- PART_DOWN_DETECT (R288, R291): the leader proposes the part down, and its replacement where it is a keeper. -/
def execPartDownDetect (part : Nat) (s : State) : Answer :=
  match s.mapPart part with
  | none => .next s
  | some p =>
    if !isLeader s || !quorumUp s || p.state = 2 || part = s.rdg.part ||
       s.localNs < (s.peer p.address).lastHeard + peerTimeout s then .next s
    else
      let s := propose s (.part part p.address 2)
      .next (if s.rdg.map.keepers.contains part then
          propose s (.keepers (keepersWithout s.rdg.map part) s.rdg.map.leader s.rdg.map.term)
        else s)

/-- PEER_LOST_TIMEOUT (R288, R310): 4 × peer_timeout without an acknowledgement. -/
def execPeerLostTimeout (part : Nat) (s : State) : Answer :=
  match s.addressOf part with
  | none => .next s
  | some a => .next (if unackedFor s a (4 * peerTimeout s) then losePeer s part else s)

/-! ### The map -/

/-- MAP_PROPOSE (R291). -/
def execMapPropose (change : MapChange) (s : State) : Answer :=
  if !s.pwr.ready then .next s else .next (propose s change)

/-- The changes of a commit that are valid, each against the replica that those before it leave, and those that are
not (R291). -/
def sortChanges (m : MapReplica) : List (Nat × MapChange) → List MapChange × List (Nat × MapChange)
  | [] => ([], [])
  | (p, c) :: rest =>
    if changeValid m c then
      let (ok, bad) := sortChanges (changeMap m (m.epoch + 1) c) rest
      (c :: ok, bad)
    else
      let (ok, bad) := sortChanges m rest
      (ok, (p, c) :: bad)

/-- The keeper set that a commit with changes leaves short of min(5, parts up), and the set that it then has: the part up
with the lowest number that is no keeper joins it (R291; notes/assumptions/141.md). -/
def keepersGrown (m : MapReplica) (changes : List MapChange) : List MapChange :=
  let m := changes.foldl (fun m c => changeMap m (m.epoch + 1) c) m
  let missing := min 5 (upParts m).length - m.keepers.length
  match ((upParts m).filter fun p => !m.keepers.contains p).take missing with
  | [] => []
  | more => [.keepers (m.keepers ++ more) m.leader m.term]

/-- Parts a commit is sent to: the other keepers, and every part up (R291). -/
def commitTargets (s : State) : List Nat :=
  (dedup (s.rdg.map.keepers ++ upParts s.rdg.map)).filter (· != s.rdg.part)

/-- MAP_COMMIT (R291): the changes gathered are checked, the valid ones committed at the next epoch and sent to keepers
and parts, the others rejected (notes/assumptions/88.md). -/
def execMapCommit (changes : List (Nat × MapChange)) (s : State) : Answer :=
  if !isLeader s || !quorumUp s then .next s
  else
    let (ok, bad) := sortChanges s.rdg.map (s.rdg.map.proposals ++ changes)
    let ok := if ok.isEmpty then ok else ok ++ keepersGrown s.rdg.map ok
    let s := s.onRdg fun r =>
      { r with map := { r.map with proposals := r.map.proposals.filter fun p => p.1 == r.part } }
    let s := bad.foldl (fun s (p, c) =>
      if p = s.rdg.part then proposalRejected s c else sendFrame s p 5 0 (.map (.rejected c))) s
    if ok.isEmpty then .next s
    else
      let e := s.rdg.map.epoch + 1
      let before := commitTargets s
      let s := applyCommit s e ok
      let dests := dedup (before ++ commitTargets s)
      .next (actEarly (dests.foldl (fun s p => sendFrame s p 5 0 (.map (.commit e ok))) s))

/-- LEADER_ELECTION (R291): a keeper leads in a new term; this part's proposals go to it. -/
def execLeaderElection (winner term : Nat) (s : State) : Answer :=
  if !s.rdg.map.keepers.contains winner || term ≤ s.rdg.map.term || !quorumUp s ||
     keeperReached s s.rdg.map.leader then .next s
  else
    let s := s.onRdg fun r => { r with map := { r.map with leader := winner, term := term } }
    if winner = s.rdg.part then .next s
    else .next ((s.rdg.map.proposals.filter fun p => p.1 == s.rdg.part).foldl (fun s p =>
      sendFrame s winner 5 0 (.map (.propose p.2))) s)

/-- What a descriptor had begun before its commit is taken back (R293, Table 17.4 row 10). -/
def undoWait (s : State) (d : InFlight) : State :=
  let o := d.origin
  if dOpcode d.raw = opLend then
    let mine := s.rdg.lent.filter fun l => l.lender == some o
    let s := mine.foldl (fun s l => withdraw s (.extent l.handle 0 0)) s
    s.onRdg fun r => { r with lent := r.lent.filter fun l => l.lender != some o }
  else if dOpcode d.raw = opRevoke then
    let h := dHandle d.raw
    let s := s.onLent h fun l => { l with revokers := l.revokers.filter (· != o) }
    if (s.lentOf h).any fun l => l.revokers.isEmpty then withdraw s (.extent h 2 0) else s
  else if dOpcode d.raw = opRegionMap then undoRegionMap s o
  else match verifiedImage s.fwu with
    | some i => withdraw s (.activation i.digest (fwEpoch d.raw) (fwCold d.raw))
    | none => s

/-- MAP_WAIT_TIMEOUT (R293): 1 s without the commit. -/
def execMapWaitTimeout (o : Origin) (s : State) : Answer :=
  match s.descriptor o with
  | none => .next s
  | some d => match d.waitsMap with
    | none => .next s
    | some t => .next (if t + ms 1000 ≤ s.localNs then complete (undoWait s d) o [.peerLost] 0 else s)

/-- EPOCH_APPLY_TIMEOUT (Table 13.3 row 1): 100 µs without the epochs; STALE_EPOCH with this part's own
(notes/assumptions/101.md). -/
def execEpochApplyTimeout (o : Nat) (s : State) : Answer :=
  match s.rdg.early.find? fun e => e.id == o && decide (e.bound ≤ s.localNs) with
  | none => .next s
  | some e =>
    let s := s.onRdg fun g => { g with early := g.early.filter (· != e) }
    .next (sendResponse s e.frame.hdr.srcPart e.frame.hdr.reqId .staleEpoch (.done 0 []) e.frame.hdr.object)

/-! ### Ports and link keys -/

/-- A port's state by its number (Table 13.18). -/
def portState (n : Nat) : PortState :=
  match n with
  | 0 => .down | 1 => .training | 2 => .up | _ => .heldDown

/-- Frames that wait at the general ports go to the ports that now serve their destinations (R284); with port 5 held
down and the fallback on, twin traffic goes with them (R316). -/
def moveQueued (s : State) : State :=
  let from' := if (s.port 5).state = .heldDown && bit s.rdg.twinCtl 11 then List.range 6 else List.range 5
  let all := (from'.map fun n => (s.bellow n).control ++ ((s.bellow n).classes.map (·.queue)).flatten).flatten
  let s := from'.foldl (fun s n => s.onBellow n fun b =>
    { b with control := [], classes := b.classes.map fun c => { c with queue := [] } }) s
  all.foldl (fun s f => enqueueFrame s (generalPort s f.hdr.dstPart) f) s

/-- RIDGE_PORT_STATE_CHANGE (R284, R286): destinations are assigned again, and frames not acknowledged are sent again
to those whose port changed. -/
def execRidgePortStateChange (port state : Nat) (s : State) : Answer :=
  if s.rdg.ports.any fun p => p.number == port then
    let old := s
    let s := s.onPort port fun p =>
      { p with state := portState state, lanes := if state = 2 then p.lanes else 0 }
    let changed := s.rdg.peers.filter fun p => p.unacked.any fun o =>
      generalPort s o.hdr.dstPart != generalPort old o.hdr.dstPart
    .next (changed.foldl (fun s p => sendAgain s p.address) (moveQueued s))
  else .next s

/-- LINK_KEY_EXCHANGE (R335). -/
def execLinkKeyExchange (addr : Nat) (offer : PeerOffer) (s : State) : Answer := .next (agreeKeys s addr offer)

/-- LINK_REKEY (R336): after 2^48 frames or 24 h; for 1 ms frames under the previous key are accepted as well. -/
def execLinkRekey (addr : Nat) (s : State) : Answer :=
  let p := s.peer addr
  if !p.keyed || !s.fbx.trngOk || (p.framesSent < 2 ^ 48 && s.localNs < p.keyedAt + ms 86400000) then .next s
  else
    let (s, key) := drawKey s
    .next (s.onPeer addr fun p =>
      { p with keyDraw := key, framesSent := 0, keyedAt := s.localNs, oldKeyUntil := s.localNs + ms 1 })

end Sys2Proof.Machine
end

