-- ==== Sys2Proof/Machine/Twin.lean ====
section
/-!
DEFINITION. The twin pair (R315, R316, R346 to R355): the pairing, the twin's coming into service and leaving it,
the restoration of a returning part, the takeover by a standby.
-/

namespace Sys2Proof.Machine

/-- TWIN_PROPOSE (R315): RDG_TWIN_CTL is written; with propose set, the pairing is proposed to the map
(notes/assumptions/102.md). -/
def execTwinPropose (val : Word) (s : State) : Answer :=
  if !s.pwr.ready then .next s
  else
    let s := writeRegister s 0x70028 8 val
    if bit val 10 then
      .next (propose (s.onRdg fun r => { r with twinState := if r.twinState = 2 then 2 else 1 })
        (.twinOf s.rdg.part (fld val 9 0)))
    else .next s

/-- A path to the twin exists: port 5 up, or the fallback over the general ports (R316). -/
def twinPath (s : State) : Bool :=
  (s.port 5).state == .up ||
  ((s.port 5).state == .heldDown && bit s.rdg.twinCtl 11 && !s.generalUp.isEmpty)

/-- The three conditions of R316. -/
def twinReachable (s : State) : Bool := s.twin.any fun t => pairedWith s s.rdg.part t && twinPath s

/-- Sessions with copies, the most recent commit first (R349). -/
def copyOrder (s : State) : List Nat :=
  (sortBy (fun (a b : Session) => decide (b.lastCommit < a.lastCommit))
    (s.ses.table.filter fun x => x.durability != 0 && (x.state == .resident || x.state == .parked))).map (·.slot)

/-- A copy still matches a session of the partner, by the slot entries (R349). -/
def copyMatches (s : State) (c : BuddyCopy) : Bool :=
  s.rdg.partnerSlots.any fun e => e.slot == hSlot c.handle && e.gen == hGen c.handle && e.durability != 0

/-- The pair secret is agreed at pairing (R337): a new one where there is none or the old one's part has been lost,
whose copies are then discarded (R351, Table 15.6). -/
def agreeSecret (s : State) : State :=
  if s.fbx.pairSecret.isSome && !s.fbx.oldSecret then s
  else
    let (s, key) := drawKey s
    let s := if s.fbx.oldSecret then s.onRdg fun r => { r with copies := [], partnerSlots := [] } else s
    s.onFbx fun f => { f with pairSecret := some key, oldSecret := false }

/-- Sessions of this part still wait for their restoration (R351). -/
def restoringAny (s : State) : Bool := s.ses.gate || s.ses.table.any fun x => x.state == .restoring

/-- TWIN_IN_SERVICE (R316, R337, R348, R349): the secret is agreed, slot entries, floor and fresh copies are sent, and
copies of sessions that the partner no longer has are discarded. -/
def execTwinInService (s : State) : Answer :=
  if !s.pwr.ready || s.rdg.twinState = 2 || !twinReachable s || restoringAny s ||
     (!s.fbx.trngOk && s.fbx.pairSecret.isNone) then .next s
  else
    let s := (agreeSecret s).onRdg fun r => { r with twinState := 2 }
    let s := s.onRdg fun r => { r with copies := r.copies.filter (copyMatches s) }
    let s := askTwin s 0 (.genFloor s.ses.floor) 0 (mkHandle s.rdg.part 0 0 0)
    let s := (s.ses.table.map (·.slot)).foldl sendSlotEntry s
    let order := copyOrder s
    .next (order.foldl (fun s n => sendFresh s n) (s.onCrn fun c => { c with resync := !order.isEmpty }))

/-- Sessions that are not restored become LOST (R351). -/
def loseRestoring (s : State) : State :=
  s.onSess fun t =>
    { t with gate := false,
             table := t.table.map fun x => if x.state = .restoring then { x with state := .lost } else x }

/-- TWIN_OUT_OF_SERVICE (R349, R351): nothing waits for the twin any longer; sessions run on without copies, and
those not yet restored are lost. -/
def execTwinOutOfService (s : State) : Answer :=
  if twinReachable s || (s.rdg.twinState ≠ 2 && !restoringAny s) then .next s
  else
    let s := loseRestoring (s.onRdg fun r => { r with twinState := 3 })
    let s := (s.ses.table.map (·.slot)).foldl settleAcks s
    .next ((s.onSess fun t => { t with table := t.table.map fun x => { x with copied := false } }).onCrn fun c =>
      { c with resync := false })

/-- A slot that the twin lists becomes restoring, unless this part still holds its session; slots of class 0 stay LOST
(R351). -/
def listSlot (s : State) (e : SlotEntry) : State :=
  if e.durability = 0 then s
  else match s.session e.slot with
    | none => s.putSession { slot := e.slot, gen := e.gen, state := .restoring, durability := e.durability }
    | some x =>
      if x.state = .lost then
        s.putSession { slot := e.slot, gen := e.gen, state := .restoring, durability := e.durability }
      else s

/-- The twin's copy of a page that has come, with its pair and tag (R140, R141). -/
def cameCopy (r : Restored) (p : Nat × List Byte) : TwinCopy :=
  { page := p.1, epoch := (pairOf r p.1).1, wseq := (pairOf r p.1).2,
    tag := if p.2.length = 65536 then pageTag p.2 else codedTag p.2,
    intact := (asPlain p.2).isSome, known := true, data := p.2 }

/-- A page of a session whose home and twin copies carry equal pairs and different tags (Table 6.11). -/
def conflictingPage (s : State) (x : Session) (r : Restored) (pages : List (Nat × List Byte)) : Option Nat :=
  (x.pages.find? fun p => (readPage s (pages.map (cameCopy r)) 0 false p).conflict).map (·.index)

/-- A session of the twin's takes its slot: one that is restoring (R351), or one whose pair there is higher than that
here; where the pairs are equal and the tags of a page differ, the session is SUSPENDED (R141, R142, R352). -/
def restoreOne (s : State) (r : Restored) : State :=
  match s.session r.slot with
  | none => s
  | some x =>
    let higher := x.epoch < r.epoch || (x.epoch = r.epoch && x.wseq < r.wseq)
    if x.gen = r.gen && s.fbx.trngOk && (x.state = .restoring || (higher && !isActive x && x.tenant = r.tenant)) then
      let h := mkHandle s.rdg.part r.tenant r.slot r.gen
      let pages := (s.rdg.arriving.filter fun a => a.handle == h).map fun a => (a.page, a.data)
      let s := s.onRdg fun g => { g with arriving := g.arriving.filter fun a => a.handle != h }
      let s := if x.state = .restoring then s else dropGrammar (freeSessionPages s x) x.slot
      let s := (installHanded s r pages).onCrn fun c => { c with takeoverSeen := true }
      match s.session r.slot with
      | some y => sessionEvent s y 7 y.log.length
      | none => s
    else if x.gen = r.gen && x.tenant = r.tenant && x.epoch = r.epoch && x.wseq = r.wseq && !isActive x then
      let h := mkHandle s.rdg.part r.tenant r.slot r.gen
      let pages := (s.rdg.arriving.filter fun a => a.handle == h).map fun a => (a.page, a.data)
      let s' := s.onRdg fun g => { g with arriving := g.arriving.filter fun a => a.handle != h }
      match conflictingPage s x r pages with
      | some page => suspend s' x.slot page
      | none => s'
    else s

/-- TWIN_RESTORE (R351, R352, R354): the generation floor, the slot entries, then the sessions one at a time
(notes/assumptions/103.md). -/
def execTwinRestore (floor : Nat) (entries : List SlotEntry) (sessions : List Restored) (s : State) : Answer :=
  afterClears s <|
  if !s.pwr.ready || s.rdg.twinState = 2 || !s.twin.any s.partUp then .next s
  else
    let s := s.onSess fun t => { t with floor := max t.floor floor, gate := false }
    .next (sessions.foldl restoreOne (entries.foldl listSlot s))

/-- rejoin_wait in ns (Table 16.7). -/
def rejoinWait (s : State) : Nat := ms (100 * fld s.crn.standbyCtl 47 32)

/-- The changes of a takeover, committed in one epoch (R353). -/
def takeoverChanges (p standby t a : Nat) : List MapChange :=
  [.part p a 1, .part standby a 2, .twinOf p t, .twinOf t p]

/-- TAKEOVER (R353): the twin of a part that has been down for rejoin_wait proposes that a standby, up in the map, takes
its number. Which one stands for it with its images ready is what the operand tells (notes/assumptions/105.md). -/
def execTakeover (standby : Nat) (s : State) : Answer :=
  match s.twin, s.rdg.partnerDownAt, s.mapPart standby with
  | some p, some t0, some e =>
    if !s.pwr.ready || e.state ≠ 1 || standby = s.rdg.part || standby = p ||
       !((s.mapPart p).any fun x => x.state == 2) || s.localNs < t0 + rejoinWait s ||
       s.rdg.map.proposals.contains (s.rdg.part, .part p e.address 1) then .next s
    else
      let s := (takeoverChanges p standby s.rdg.part e.address).foldl propose s
      .next (s.onCrn fun c => { c with takeovers := sat 8 (c.takeovers + 1) })
  | _, _, _ => .next s

end Sys2Proof.Machine
end

