-- ==== Sys2Proof/Machine/Cairns.lean ====
section
/-!
DEFINITION. Cairns (R356 to R362): writing one to a slot of host memory, schedules, restoration, and the early-warning
trigger.
-/

namespace Sys2Proof.Machine

/-! ### The body of CAIRN_WRITE (Table 16.5) -/

def cairnIsRestore (d : BitVec 512) : Bool := bit d 256
def cairnIsArm (d : BitVec 512) : Bool := bit d 257
def cairnIsDisarm (d : BitVec 512) : Bool := bit d 258
def cairnKv (d : BitVec 512) : Bool := bit d 259
def cairnInterval (d : BitVec 512) : Nat := fld d 279 264
def cairnEvery (d : BitVec 512) : Nat := fld d 295 280
def cairnMib (d : BitVec 512) : Nat := fld d 311 296
def cairnSlotA (d : BitVec 512) : Nat := fld d 383 320
def cairnSlotB (d : BitVec 512) : Nat := fld d 447 384
def cairnSeed (d : BitVec 512) : Word := BitVec.ofNat 64 (fld d 511 448)

/-- Slot addresses and capacity that R359 refuses: a zero, equal or unaligned address, slot_mib 0. -/
def cairnBadSlots (d : BitVec 512) : Bool :=
  cairnSlotA d == 0 || cairnSlotB d == 0 || cairnSlotA d == cairnSlotB d ||
  cairnSlotA d % 4096 != 0 || cairnSlotB d % 4096 != 0 || cairnMib d == 0

/-- The schedule that a CAIRN_WRITE body sets out (Table 16.5). -/
def scheduleOf (o : Origin) (d : BitVec 512) (now : Nat) : Schedule :=
  { armer := o, kv := cairnKv d, interval := cairnInterval d, every := cairnEvery d, slotMib := cairnMib d,
    slotA := cairnSlotA d, slotB := cairnSlotB d, seed := cairnSeed d, lastNs := now }

/-! ### Objects, manifest, seal (Tables 16.2 to 16.4) -/

/-- Moments in the 8-bit form of R224: for each block of 32 values its exponent byte, then a byte for each value
(notes/assumptions/143.md). -/
def momentBytes (m : Moments) : List Byte :=
  match storeMoments true (momentValues m) with
  | .blocks bs => bs.flatMap fun b => BitVec.ofNat 8 b.1 :: b.2.map fun q => BitVec.ofInt 8 q
  | .bf16 _ => []

/-- The moments of n values read back from their bytes, and the bytes that follow. -/
def readMoments : Nat → Nat → List Byte → List (Nat × List Int) × List Byte
  | 0, _, bs => ([], bs)
  | k + 1, n, bs =>
    match bs with
    | e :: rest =>
      if n = 0 then ([], bs)
      else
        let (more, left) := readMoments k (n - min 32 n) (rest.drop (min 32 n))
        ((e.toNat, (rest.take (min 32 n)).map fun b => b.toInt) :: more, left)
    | [] => ([], [])

/-- The narrowed forms of a tuning state: its master copies in BF16, its two moments in the 8-bit form (Table 16.2). -/
def tuningObjects (stage : Nat) (t : Tuning) : List CairnObject :=
  [{ kind := 4, stage := stage, data := t.master.flatMap fun v => leBytes 2 (toBf16 (f32 v)).toNat },
   { kind := 5, stage := stage, data := momentBytes t.first ++ momentBytes t.second }]

/-- A tuning state widened from its narrowed forms (R361). -/
def widenTuning (t : Tuning) (masters moments : List Byte) : Tuning :=
  let master := (chunks 2 masters.length masters).map fun b => toF32 (bf16 (BitVec.ofNat 16 (leNat b)))
  let (first, rest) := readMoments moments.length master.length moments
  let second := (readMoments rest.length master.length rest).1
  { t with master := master, first := storeMoments t.eightBit (momentValues (.blocks first)),
           second := storeMoments t.eightBit (momentValues (.blocks second)) }

/-- Objects of this part in the forms the spec lays out: the variant records (Table 8.11), the tuning state narrowed, and
with kv the coded pages of this stage (Table 6.6). -/
def plainObjects (s : State) (x : Session) (kv : Bool) : List CairnObject :=
  let i := sessionImage s x
  let records := match variantAt i x.variant with
    | some v => [{ kind := 3, stage := i.stage, data := v.records : CairnObject }]
    | none => []
  let pages := ((snapshotPages s x).filter fun p => p.1.index < recordPage).map (·.2)
  records ++ (x.tuning.map (tuningObjects i.stage)).getD [] ++
    (if kv then [{ kind := 6, stage := i.stage, data := pages.flatten : CairnObject }] else [])

/-- An object of a form that the spec leaves open, where the session has one: record and log, with kv the pages of the
other stages. -/
def openObject (s : State) (x : Session) (kv : Bool) (c : CairnObject) : Bool :=
  c.kind == 1 || c.kind == 2 ||
  (c.kind == 6 && kv && c.stage != (sessionImage s x).stage)

/-- The objects of a cairn by kind and stage (Table 16.2; notes/assumptions/106.md). -/
def cairnObjects (s : State) (x : Session) (kv : Bool) (held : List CairnObject) : List CairnObject :=
  sortBy (fun (a b : CairnObject) => decide (a.kind < b.kind || (a.kind = b.kind && a.stage < b.stage)))
    (held.filter (openObject s x kv) ++ plainObjects s x kv)

/-- Objects cut into shards of at most 64 MiB (R356). -/
def cutShards (l : List CairnObject) : List CairnObject :=
  (l.map fun c => (chunks 67108864 (c.data.length / 67108864 + 1) c.data).map fun b =>
    { c with data := b }).flatten.filter fun c => !c.data.isEmpty

/-- Shards laid out from an offset on, each at 4 KiB (R357). -/
def layShards : Nat → List CairnObject → List (Nat × CairnObject)
  | _, [] => []
  | o, c :: rest => (o, c) :: layShards (ceilDiv (o + c.data.length) 4096 * 4096) rest

/-- The bytes a cairn takes of its slot. -/
def cairnSize (l : List (Nat × CairnObject)) : Nat := (l.map fun p => p.1 + p.2.data.length).foldl max 8192

/-- A manifest entry (R357). -/
def manifestEntry (p : Nat × CairnObject) : List Byte :=
  leBytes 64 (put 7 0 p.2.kind + put 13 8 p.2.stage + put 63 16 p.1 + put 127 64 p.2.data.length +
    put 511 128 (sha384 p.2.data).toNat)

/-- The manifest: header (Table 16.4) and entries. -/
def manifestOf (s : State) (x : Session) (seed : Word) (l : List (Nat × CairnObject)) : List Byte :=
  let t := x.tuning.getD {}
  leBytes 128 (put 63 0 (sessionHandle s x).toNat + put 191 64 (sessionImage s x).id.toNat + put 255 192 x.wseq +
    put 319 256 x.log.length + put 383 320 t.t + put 447 384 t.data + put 511 448 seed.toNat +
    put 527 512 l.length) ++ (l.map manifestEntry).flatten

/-- The seal (Table 16.3). -/
def sealOf (manifest : List Byte) (seq : Nat) : List Byte :=
  leBytes 64 (put 3 0 1 + put 63 32 manifest.length + put 127 64 seq + put 511 128 (sha384 manifest).toNat)

/-! ### Writing (R359) -/

/-- The cairn_seq that a session knows sealed at a slot address; 0 unsealed. -/
def sealedAt (x : Session) (addr : Nat) : Nat := ((lookupBy (·.1) addr x.cairnSlots).map (·.2)).getD 0

/-- The slot written: not the one that holds the sealed cairn with the higher cairn_seq, slot A when neither is sealed
(R359). -/
def targetSlot (x : Session) (c : Schedule) : Nat :=
  if sealedAt x c.slotB < sealedAt x c.slotA then c.slotB else c.slotA

/-- How the writing of a cairn ends. -/
inductive CairnEnd where
  | tooLarge
  | failed (s : State)
  | sealed (s : State) (seq : Nat)

/-- Halt the queue pair under which a host write failed (R63, R359). -/
def haltArmer (s : State) (o : Origin) (addr : Nat) : State :=
  match o with
  | .qp q seq => dmaHalt s q seq (BitVec.ofNat 64 addr) true
  | .ridge _ _ => s

/-- Write a cairn of a session (R359): the seal zeroed, shards, manifest, seal; a host write that fails leaves the slot
without a seal. -/
def writeCairn (s : State) (x : Session) (c : Schedule) (held : List CairnObject) (writeOk : Bool) : CairnEnd :=
  let shards := layShards 8192 (cutShards (cairnObjects s x c.kv held))
  if 1048576 * c.slotMib < cairnSize shards then .tooLarge
  else
    let a := targetSlot x c
    let seq := x.cairnSeq + 1
    let unsealed := x.cairnSlots.filter fun p => p.1 != a
    let s := deliver s c.armer a (List.replicate 64 0)
    if !writeOk then
      .failed (haltArmer (s.onSession x.slot fun x => { x with cairnSlots := unsealed }) c.armer a)
    else
      let s := shards.foldl (fun s p => deliver s c.armer (a + p.1) p.2.data) s
      let m := manifestOf s x c.seed shards
      let s := deliver (deliver s c.armer (a + 4096) m) c.armer a (sealOf m seq)
      let s := s.onSession x.slot fun x =>
        { x with cairnSeq := seq, cairnSlots := unsealed ++ [(a, seq)],
                 schedule := x.schedule.map fun k => { k with lastNs := s.localNs, steps := 0, due := false } }
      .sealed (s.onCrn fun k => { k with written := bump 16 k.written }) seq

/-- KV that a cairn takes along is rebuilt first where it is lost, as for a SNAPSHOT (R114). -/
def kvForCairn (s : State) (x : Session) (kv : Bool) (how : Recovery) (deadline : Option Nat) :
    Except (State × Status) (State × Session × List Status) :=
  if !kv then .ok (s, x, [])
  else
    let (s, x) := beginOn s x
    (recover s x how deadline).map fun (s, conds) => (s, (s.session x.slot).getD x, conds)

/-- CAIRN_WRITE with restore, arm and disarm 0 (R358, R359): at the session's last commit (notes/assumptions/109.md). -/
def execCairnWrite : Start → List CairnObject → Bool → State → Answer
  | ⟨o, how⟩, held, writeOk, s =>
  afterClears s <|
  match startSession s o opCairn false with
  | none => .next s
  | some (_, .error (st, r)) => .next (refuse s o st r)
  | some (d, .ok x) =>
    if cairnIsRestore d.raw || cairnIsArm d.raw || cairnIsDisarm d.raw then .next s
    else if cairnBadSlots d.raw then .next (refuse s o .formatUnsupported)
    else match kvForCairn s x (cairnKv d.raw) how d.deadline with
      | .error (s, st) => .next (refuse s o st)
      | .ok (s, x, conds) =>
        match writeCairn s x (scheduleOf o d.raw s.localNs) held writeOk with
        | .tooLarge => .next (refuse s o .doesNotFit)
        | .failed s => .next (refuse s o .hardwareFault)
        | .sealed s seq => .next (complete s o conds (BitVec.ofNat 64 seq))

/-- CAIRN_ARM (R358, R360): the schedule and slot pair are kept in the session record. -/
def execCairnArm (o : Origin) (s : State) : Answer :=
  match startSession s o opCairn false with
  | none => .next s
  | some (_, .error (st, r)) => .next (refuse s o st r)
  | some (d, .ok x) =>
    if cairnIsRestore d.raw || !cairnIsArm d.raw || cairnIsDisarm d.raw then .next s
    else if cairnBadSlots d.raw then .next (refuse s o .formatUnsupported)
    else .next (complete (s.onSession x.slot fun x => { x with schedule := some (scheduleOf o d.raw s.localNs) }) o [] 0)

/-- CAIRN_DISARM (R358, R360; notes/assumptions/107.md). -/
def execCairnDisarm (o : Origin) (s : State) : Answer :=
  match startSession s o opCairn false with
  | none => .next s
  | some (_, .error (st, r)) => .next (refuse s o st r)
  | some (d, .ok x) =>
    if cairnIsRestore d.raw || !cairnIsDisarm d.raw then .next s
    else .next (complete (s.onSession x.slot fun x => { x with schedule := none }) o [] 0)

/-! ### Schedules and triggers (R360, R362) -/

/-- A scheduled cairn is due (notes/assumptions/108.md). -/
def cairnIsDue (s : State) (c : Schedule) : Bool :=
  c.due || (c.interval != 0 && decide (c.lastNs + ms (1000 * c.interval) ≤ s.localNs)) ||
  (c.every != 0 && decide (c.every ≤ c.steps))

/-- The queue pair that armed a schedule serves: a due cairn of one FROZEN or HALTED waits (R360). -/
def armerServes (s : State) (o : Origin) : Bool :=
  match o with
  | .qp q _ => (s.qp q).state == .enabled
  | .ridge _ _ => true

/-- A scheduled cairn has failed (Table 16.8). -/
def cairnFailed (s : State) : State := s.onCrn fun k => { k with failures := bump 16 k.failures }

/-- CAIRN_DUE (R360): a due cairn is written, once no MOVE runs; one that exceeds slot_mib disarms its schedule. -/
def execCairnDue : Due → List CairnObject → Bool → State → Answer
  | ⟨slot, how⟩, held, writeOk, s =>
  afterClears s <|
  match s.session slot with
  | none => .next s
  | some x =>
    match x.schedule with
    | none => .next s
    | some c =>
      if !s.pwr.ready || s.pwr.heldNow || !cairnIsDue s c || !armerServes s c.armer || x.move.isSome ||
         !(x.state = .resident || x.state = .parked) then .next s
      else match kvForCairn s x c.kv how none with
        | .error (s, _) => .next (cairnFailed s)
        | .ok (s, x, _) =>
          match writeCairn s x c held writeOk with
          | .tooLarge => .next (cairnFailed (s.onSession slot fun x => { x with schedule := none }))
          | .failed s => .next (cairnFailed s)
          | .sealed s _ => .next s

/-- A count exceeds its threshold; a threshold of 0 is off (Table 16.6). -/
def overThreshold (count threshold : Nat) : Bool := threshold != 0 && decide (threshold < count)

/-- EARLY_WARNING_CHECK (R362): corrected hearth columns since the last check, corrected foothill reads and ridge
codewords of the last second. A trigger makes every armed schedule's next cairn due at once. -/
def execEarlyWarningCheck (foothill ridge : Nat) (s : State) : Answer :=
  if !s.pwr.ready || s.crn.lastCheck.any fun t => decide (s.localNs < t + ms 1000) then .next s
  else
    let s := s.onCrn fun k => { k with lastCheck := some s.localNs }
    let ctl := s.crn.triggerCtl
    let beyond := overThreshold (s.hrt.corrected - s.hrt.correctedMark) (fld ctl 15 0) ||
      overThreshold foothill (fld ctl 31 16) || overThreshold ridge (1000 * fld ctl 47 32)
    let s := s.onHrt fun h => { h with correctedMark := h.corrected }
    let held := s.crn.lastTrigger.any fun t => decide (s.localNs < t + ms (1000 * max 1 (fld ctl 55 48)))
    if !beyond || held then .next s
    else
      let s := s.onCrn fun k =>
        { k with triggers := bump 8 k.triggers, triggerSeen := true, lastTrigger := some s.localNs }
      .next (s.onSess fun t =>
        { t with table := t.table.map fun x =>
            { x with schedule := x.schedule.map fun c => { c with due := true } } })

/-! ### Restoration (R361) -/

/-- One manifest entry as bits. -/
def entryBits (m : List Byte) (n : Nat) (hi lo : Nat) : Nat := bfld (slice m (128 + 64 * n) 64) hi lo

/-- A shard matches its entry: length and digest (R361). -/
def shardMatches (m : List Byte) (n : Nat) (data : List Byte) : Bool :=
  entryBits m n 127 64 == data.length && entryBits m n 511 128 == (sha384 data).toNat

/-- A slot is valid: its seal has version 1, its manifest matches manifest_digest, every shard matches its entry
(R361). -/
def slotValid (c : CairnSlot) : Bool :=
  let n := bfld (c.manifest.take 128) 527 512
  fld c.sealBits 3 0 == 1 && fld c.sealBits 63 32 == c.manifest.length &&
  fld c.sealBits 511 128 == (sha384 c.manifest).toNat && c.manifest.length == 128 + 64 * n &&
  c.shards.length == n && c.shards.zipIdx.all fun p => shardMatches c.manifest p.2 p.1

/-- The cairn_seq of a slot's seal. -/
def slotSeq (c : CairnSlot) : Nat := fld c.sealBits 127 64

/-- The valid slot with the higher cairn_seq. -/
def chosenSlot (a b : CairnSlot) : Option CairnSlot :=
  match slotValid a, slotValid b with
  | true, true => if slotSeq a < slotSeq b then some b else some a
  | true, false => some a
  | false, true => some b
  | false, false => none

/-- A field of the manifest header. -/
def manifestField (c : CairnSlot) (hi lo : Nat) : Nat := bfld (c.manifest.take 128) hi lo

/-- The kinds of a cairn's shards. -/
def shardKinds (c : CairnSlot) : List Nat := (List.range c.shards.length).map fun n => entryBits c.manifest n 7 0

/-- The bytes of a cairn's objects of a kind. -/
def objectBytes (c : CairnSlot) (kind : Nat) : List Byte :=
  ((c.shards.zip (shardKinds c)).filter fun p => p.2 == kind).map (·.1) |>.flatten

/-- The variant records of a cairn load as VARIANT_LOAD would load them (R197, R361). -/
def cairnVariant (s : State) (i : Image) (tenant : Nat) (c : CairnSlot) (stagesFit : Bool) :
    Except Status (Option Variant) :=
  let n := c.record.variant
  let bs := objectBytes c 3
  let held := ((i.variants.filter fun v => v.number != n).map fun v => stageBytes i v.records).sum
  if n = 0 then .ok none
  else if (variantAt i n).any fun v => v.tenant != tenant then .error .accessDenied
  else if !recordsHold i bs then .error .formatUnsupported
  else if variantInUse s i tenant n none then .error .sessionBusy
  else if i.variantSlots = 0 || i.variantMib * 1048576 < held + stageBytes i bs || !stagesFit then .error .doesNotFit
  else .ok (some { number := n, tenant := tenant, records := bs })

/-- The record that the restored session takes: at the manifest's length and wseq, for this tenant, slot and image, with
the tuning state widened (R361). -/
def cairnRecord (s : State) (c : CairnSlot) (image : Word) (tenant slot : Nat) (slots : List (Nat × Nat)) : Restored :=
  let t := manifestField c 383 320
  { c.record with
    slot := slot, gen := nextGen s slot, tenant := tenant, image := image, parked := false, waiting := [],
    log := c.record.log.take (manifestField c 319 256), wseq := manifestField c 255 192, epoch := s.rdg.map.epoch,
    tuning := if t = 0 then none else
      some (widenTuning { t := t, data := manifestField c 447 384, records := objectBytes c 3,
                          eightBit := (c.record.tuning.map (·.eightBit)).getD false }
        (objectBytes c 4) (objectBytes c 5)),
    cairns := (slotSeq c, slots), running := none }

/-- The session stands with its KV in hearth: the cairn's, each page with the pair it has there, or rebuilt by prefill;
in error the hearth tier lacks room, and the room made stays made (R130, R140, R361). -/
def cairnKvIn (s : State) (r : Restored) (key : Nat) (pages : List (Nat × List Byte)) :
    Except State (State × List Status) :=
  let x := handedSession s r key []
  let place := fun (s : State) => installSession (useHandedGrammar s r) x
  if r.log.length ≤ 1 then .ok (place s, [])
  else if pages.isEmpty then
    let s := makeRoom s fun t => (rebuildOnce (place t) r.slot .stateLost).isSome
    match rebuildOnce (place s) r.slot .stateLost with
    | some t => .ok (t, [.okReplayed])
    | none => .error s
  else
    let i := s.image (iSlot r.image)
    let want := pages.map (·.1)
    let fits := fun (t : State) => hearthFits t want.length false && (placePages t i x want).isSome
    let s := makeRoom s fits
    match (if fits s then placePages (place s) i x want else none) with
    | none => .error s
    | some (t, got) =>
      let t := pages.foldl (fun s p => match lookupBy (·.1) p.1 got, asPlain p.2 with
        | some (_, f), some c => writeFrame s f c
        | _, _ => s) t
      .ok (sendFresh (t.onSession r.slot fun x =>
        { x with pages := got.map fun g => handedPage i r (.hearth g.2) g.1 }) r.slot true, [])

/-- The failures of a restoration that hold before its KV is placed (table of R361): all of them are conditions (R10,
R78). -/
def restoreRefusals (s : State) (d : InFlight) (c : CairnSlot) (stagesFit : Bool) : List Status :=
  if (shardKinds c).any fun k => k == 0 || decide (6 < k) then [.formatUnsupported]
  else
    let twin := twinServes s && match openableImage s (cairnSeed d.raw) d.tenant with
      | some i => i.group.all (stageTwinServes s)
      | none => true
    (match openableImage s (cairnSeed d.raw) d.tenant with
     | none => [.imageNotBound]
     | some i =>
       if i.id.toNat ≠ manifestField c 191 64 then [.imageNotBound]
       else match cairnVariant s i d.tenant c stagesFit with
         | .error st => [st]
         | .ok _ => []) ++
    (if slotLimit s ≤ slotsTaken s then [.doesNotFit] else []) ++
    (if s.host.compat && 2 ≤ c.record.durability then [.formatUnsupported] else []) ++
    (if c.record.durability ≠ 0 && !twin then [.twinLost] else []) ++
    (if !s.fbx.trngOk then [.hardwareFault] else [])

/-- What a CAIRN_WRITE with restore does once a valid slot is chosen (R361). -/
def restoreCairn (s : State) (d : InFlight) (c : CairnSlot) (slots : List (Nat × Nat)) (stagesFit : Bool) (slot : Nat) :
    Except (State × List Status) (State × List Status × Word) :=
  let image := cairnSeed d.raw
  match restoreRefusals s d c stagesFit, openableImage s image d.tenant with
  | [], some i =>
    match cairnVariant s i d.tenant c stagesFit with
    | .error st => .error (s, [st])
    | .ok v =>
      let (t, key) := drawKey s
      let r := cairnRecord s c image d.tenant slot slots
      let pages := if (shardKinds c).contains 6 then c.pages else []
      match cairnKvIn t r key pages with
      | .error t => .error (t, [.tierFull])
      | .ok (t, conds) =>
        let t := match v with
          | some v => t.onImage i.slot fun i => { i with variants := upsert (·.number) v i.variants }
          | none => t
        .ok (t, conds, mkHandle s.rdg.part d.tenant slot r.gen)
  | conds, _ => .error (s, conds)

/-- CAIRN_RESTORE (R361): a new session from the valid slot with the higher cairn_seq. -/
def execCairnRestore (o : Origin) (a b : CairnSlot) (stagesFit : Bool) (slot : Nat) (s : State) : Answer :=
  afterClears s <|
  match canStart s o opCairn with
  | none => .next s
  | some d =>
    if s.ses.gate || !cairnIsRestore d.raw then .next s
    else if dHandle d.raw ≠ 0 then .next (refuse s o .formatUnsupported)
    else match chosenSlot a b with
      | none => .next (refuse s o .stateLost)
      | some c =>
        let known := (if slotValid a then [(cairnSlotA d.raw, slotSeq a)] else []) ++
          (if slotValid b then [(cairnSlotB d.raw, slotSeq b)] else [])
        match restoreCairn s d c known stagesFit slot with
        | .error (t, conds) => .next (complete t o conds 0)
        | .ok (t, conds, h) => .next (if slotFree s slot then complete t o conds h else s)

end Sys2Proof.Machine
end

