-- ==== Sys2Proof/Machine/Firebox.lean ====
section
/-!
DEFINITION. The firebox (R326 to R345): the SPDM responder, the TRNG's health, what tenants can see.
-/

namespace Sys2Proof.Machine

/-! ### SPDM (R326 to R328) -/

/-- Answer a request; every answer is an error while identity_ok reads 0 (R326). -/
def spdmAnswer (s : State) (r : SpdmReply) : State := s.emit (.spdm (if s.fbx.identityOk then r else .error))

/-- Change the SPDM connection. -/
def onSpdm (s : State) (f : Spdm → Spdm) : State := s.onFbx fun b => { b with spdm := f b.spdm }

/-- The connection has settled its algorithms, which the later requests need (notes/assumptions/42.md). -/
def spdmReady (s : State) : Bool := s.fbx.spdm.version && s.fbx.spdm.caps && s.fbx.spdm.algos

/-- The chain in certificate slot 0: the one of manufacture, or one written back through FW_BLOCK (R326). -/
def certificateChain (s : State) : List Byte := s.fwu.chain.getD Config.deviceChain

/-- GET_VERSION (R327): 1.3 and 1.2; a connection begins anew. -/
def execGetVersion (s : State) : Answer :=
  .next (spdmAnswer (onSpdm s fun _ => { version := true }) (.version [0x12, 0x13]))

/-- GET_CAPABILITIES (R327). -/
def execGetCapabilities (s : State) : Answer :=
  if s.fbx.spdm.version then
    .next (spdmAnswer (onSpdm s fun p => { p with caps := true }) (.capabilities true true true))
  else .next (spdmAnswer s .error)

/-- NEGOTIATE_ALGORITHMS (R327): ECDSA P-384 and SHA-384, where the requester offers them. -/
def execNegotiateAlgorithms (ecdsaP384 sha384 : Bool) (s : State) : Answer :=
  if s.fbx.spdm.version && s.fbx.spdm.caps then
    .next (spdmAnswer (onSpdm s fun p => { p with algos := ecdsaP384 && sha384 }) (.algorithms ecdsaP384 sha384))
  else .next (spdmAnswer s .error)

/-- GET_DIGESTS (R327): slot 0 only. -/
def execGetDigests (s : State) : Answer :=
  .next (spdmAnswer s (if spdmReady s then .digests 1 [sha384 (certificateChain s)] else .error))

/-- GET_CERTIFICATE (R327): a piece of the chain in slot 0. -/
def execGetCertificate (slot offset length : Nat) (s : State) : Answer :=
  let c := certificateChain s
  .next (spdmAnswer s (if spdmReady s && slot = 0 && offset ≤ c.length then
      .certificate 0 (slice c offset length) (c.length - offset - length) else .error))

/-- CHALLENGE (R327): signed by the device key (notes/assumptions/113.md). -/
def execChallenge (slot : Nat) (nonce : BitVec 256) (s : State) : Answer :=
  let d := sha384 (certificateChain s)
  .next (spdmAnswer s (if spdmReady s && slot = 0 then
      .challengeAuth 0 d (Config.deviceSign (leBytes 32 nonce.toNat ++ leBytes 48 d.toNat)) else .error))

/-- The measurements of Table 15.3, absent objects left out (R328). -/
def measurements (s : State) : List Measurement :=
  [{ index := 1, value := Config.romDigest }] ++
  (match slotImage s.fwu s.fwu.active with
   | some i => [{ index := 2, value := i.digest, version := some i.version }]
   | none => []) ++
  [{ index := 3, value := s.fbx.configDigest }] ++
  (List.range 8).filterMap fun n =>
    let i := s.image n
    if i.state = .empty then none else some { index := 16 + n, value := i.measured }

/-- A measurement as it is signed: index, digest, version. -/
def measurementBytes (m : Measurement) : List Byte :=
  leBytes 1 m.index ++ leBytes 48 m.value.toNat ++ leBytes 4 (m.version.getD 0)

/-- GET_MEASUREMENTS (R327, R328): their number under index 0, all under 255, else the one named; with the device's
signature. -/
def execGetMeasurements (index : Nat) (nonce : BitVec 256) (s : State) : Answer :=
  let all := measurements s
  let asked := if index = 0 then [] else if index = 255 then all else all.filter fun m => m.index == index
  let message := leBytes 32 nonce.toNat ++ (asked.map measurementBytes).flatten
  .next (spdmAnswer s (if spdmReady s && (index = 0 || !asked.isEmpty) then
      .measurements all.length asked (Config.deviceSign message) else .error))

/-- SPDM_UNSUPPORTED_REQUEST (R327). -/
def execSpdmUnsupportedRequest (_code : Nat) (s : State) : Answer := .next (spdmAnswer s .unsupportedRequest)

/-! ### The TRNG (R333) -/

/-- TRNG_HEALTH_FAIL (R333): no key can be drawn from now on. -/
def execTrngHealthFail (s : State) : Answer :=
  .next (s.onFbx fun f => { f with trngOk := false, trngFailures := bump 8 f.trngFailures })

/-! ### What tenants can see (R343, R344) -/

/-- A session homed here that its tenant has open. -/
def openSession (x : Session) : Bool :=
  x.guest.isNone && !(x.state = .free || x.state = .lost || x.state = .moved)

/-- The true counts of a tenant, in the order of Table 15.10. -/
def tenantCounts (s : State) (c : TenantCounters) : List Nat :=
  let mine := s.ses.table.filter fun x => openSession x && x.tenant == c.tenant
  setAt (setAt c.counts 2 mine.length) 3 (mine.filter fun x => x.state == .parked).length

/-- The update interval in ns (Table 15.16). -/
def tenantInterval (s : State) : Nat := ms (10 * max 1 (fld s.fbx.coarseCtl 7 0))

/-- The power window in ns (Table 15.16). -/
def tenantPowerWindow (s : State) : Nat := ms (10 * clamp 1 100 (fld s.fbx.coarseCtl 15 8))

/-- A moment at least an interval after the last one (notes/assumptions/114.md). -/
def intervalOver (last : Option Nat) (ns now : Nat) : Bool := !(last.any fun t => decide (now < t + ns))

/-- TENANT_COUNTER_REFRESH (R343): at most once per interval, each counter is latched as the largest power of two not
above its count. -/
def execTenantCounterRefresh (tenant : Nat) (s : State) : Answer :=
  match lookupBy (·.tenant) tenant s.host.tenants with
  | none => .next s
  | some c =>
    if !intervalOver c.refreshed (tenantInterval s) s.localNs then .next s
    else
      let c' : TenantCounters :=
        { c with latched := (tenantCounts s c).map powerFloor, updates := (c.updates + 1) % 2 ^ 64,
                 refreshed := some s.localNs }
      .next (s.onHost fun h => { h with tenants := upsert (·.tenant) c' h.tenants })

/-- TENANT_POWER_REFRESH (R344): once per window, package power averaged over it, rounded down to 5 W. -/
def execTenantPowerRefresh (watts : Nat) (s : State) : Answer :=
  if intervalOver s.host.powerAt (tenantPowerWindow s) s.localNs then
    .next (s.onHost fun h => { h with powerLatched := watts / 5 * 5, powerAt := some s.localNs })
  else .next s

end Sys2Proof.Machine
end

