-- ==== Sys2Proof/Machine/Bellows.lean ====
section
/-!
DEFINITION. The bellows at work (R317 to R322): what starts at a frame boundary of a ridge port or of the flue, how gate
lists run, and the writes of shapers, gate lists and dampers (R321, R325).
-/

namespace Sys2Proof.Machine

/-! ### A ridge port at a frame boundary (R286, R318, R319) -/

/-- Accounted length of a ridge frame (R319). -/
def frameLength (b : Bellow) (f : OutFrame) : Nat := 84 + f.hdr.length + fld b.ctl 7 0

/-- A frame's fseq is assigned when it starts; acknowledge and keepalive frames take none, a retransmission keeps its
own (R286, R318). -/
def takesSeq (f : OutFrame) : Bool := f.hdr.type != 6 && f.hdr.type != 7 && !f.hdr.retransmit

/-- A frame can be sent to its address now: link keys are agreed, but for the keepalives that carry their exchange
(R335), and the window has room (R286). -/
def frameReady (s : State) (f : OutFrame) : Bool :=
  let p := s.peer f.hdr.dstAddr
  (f.hdr.type == 7 || p.keyed) && (!takesSeq f || p.unacked.length < 256)

/-- During a supply hold no data frame starts: link-level traffic continues (R48, R318; notes/assumptions/111.md). -/
def holdsFrame (s : State) (f : OutFrame) : Bool := s.pwr.heldNow && !controlType f.hdr.type

/-- Start a frame on a port: its fseq and the ack it carries, its copy kept until acknowledged (R286, R336). -/
def startFrame (s : State) (port : Nat) (f : OutFrame) : State :=
  let p := s.peer f.hdr.dstAddr
  let h : FrameHeader :=
    { f.hdr with fseq := if takesSeq f then p.nextSeq else f.hdr.fseq, ack := p.expected - 1 }
  let g : OutFrame := { f with hdr := h, sentAt := if takesSeq f then s.localNs else f.sentAt,
                               retx := some (retxNs s) }
  let s := s.onPeer f.hdr.dstAddr fun p =>
    { p with framesSent := p.framesSent + 1,
             nextSeq := if takesSeq f then p.nextSeq + 1 else p.nextSeq,
             unacked := if takesSeq f then p.unacked ++ [g] else p.unacked }
  s.emit (.frame port (encodeHeader h) (frameNonce p.framesSent s.rdg.address) g)

/-- The first frame of a queue that can be sent, with the queue without it (notes/assumptions/110.md). -/
def takeReady (ready : OutFrame → Bool) : List OutFrame → Option (OutFrame × List OutFrame)
  | [] => none
  | f :: rest =>
    if ready f then some (f, rest)
    else (takeReady ready rest).map fun (g, l) => (g, f :: l)

/-- A class has a head frame that can be sent, with its gate open (R318). -/
def classWaits (s : State) (b : Bellow) (cls : Nat) (c : BlwClass) : Bool :=
  match c.queue with
  | [] => false
  | f :: _ => gateNow b cls && frameReady s f && !holdsFrame s f

/-- A class is eligible (R318). -/
def classEligible (s : State) (b : Bellow) (cls : Nat) : Bool :=
  match b.classes[cls]? with
  | some c => classWaits s b cls c && !inGuard s b cls && c.shaped s.localNs
  | none => false

/-- A frame of a class has been started: counts and tokens (R320, Tables 14.8, 14.9; notes/assumptions/4.md). -/
def BlwClass.sent (c : BlwClass) (now l : Nat) : BlwClass :=
  let c := c.refill now
  { c with bucket := if c.rate = 0 then c.bucket else c.bucket - l * 1000, frames := bump 32 c.frames,
           bytes := (c.bytes + l) % 2 ^ 64 }

/-- What a boundary counts in a class that cannot start: a head frame that its guard band holds, once, and a wait on the
shaper (Table 14.8). -/
def countDefers (s : State) (b : Bellow) (cls : Nat) (c : BlwClass) : BlwClass :=
  if !classWaits s b cls c then c
  else if inGuard s b cls then
    match c.queue with
    | f :: rest =>
      if f.guarded then c
      else { c with queue := { f with guarded := true } :: rest, guards := bump 16 c.guards }
    | [] => c
  else if c.shaped s.localNs then c
  else { c with shapes := bump 16 c.shapes }

/-- The defers of a boundary at a ridge port. -/
def noteDefers (s : State) (n : Nat) : State :=
  let b := s.bellow n
  s.onBellow n fun b' => { b' with classes := b'.classes.zipIdx.map fun (c, i) => countDefers s b i c }

/-- Classes from the highest down. -/
def classOrder : List Nat := [7, 6, 5, 4, 3, 2, 1, 0]

/-- The next frame of a ridge port: the control queue's, else that of the highest eligible class (R318). -/
def ridgeBoundary (s : State) (n : Nat) : State :=
  let b := s.bellow n
  match takeReady (fun f => frameReady s f && !holdsFrame s f) b.control with
  | some (f, rest) => startFrame (s.onBellow n fun b => { b with control := rest }) n f
  | none =>
    let s := noteDefers s n
    match classOrder.find? (classEligible s b) with
    | none => s
    | some cls =>
      match ((s.bellow n).classes[cls]?).map (·.queue) with
      | some (f :: rest) =>
        startFrame (s.onClass n cls fun c => { c.sent s.localNs (frameLength b f) with queue := rest }) n f
      | _ => s

/-! ### The flue at a record boundary (R79, R80, R318) -/

/-- A record can be written to its ring: the queue pair is ENABLED, a slot is free, and no step of another class is
being written there (R79, R80). -/
def recordReady (s : State) (cls : Nat) (f : OutFrame) : Bool :=
  match f.payload with
  | .record q _ =>
    let p := s.qp q
    p.state == .enabled && p.ctx.flueLog2 != 0 && dist p.flueHead p.flueNext < 2 ^ p.ctx.flueLog2 &&
      (p.flueLock.isNone || p.flueLock == some cls)
  | _ => false

/-- Write a flue record to its ring with the next flue_seq; records of one step stay together (R65, R67, R79). -/
def putFlue (s : State) (cls q : Nat) (r : FlueRecord) : State :=
  let p := s.qp q
  let addr := p.ctx.flueBase + 64 * (p.flueNext.toNat % 2 ^ p.ctx.flueLog2)
  let s := s.onQp q fun p =>
    { p with flueNext := p.flueNext + 1, flueLock := if r.more then some cls else none }
  signalEntry (s.emit (.flue q p.ctx.pasid addr (encodeFlue p.flueNext s.host.version r))) q false

/-- The flue instance writes the next record of the highest class that has one to write and tokens for it. Records
leave a class in commit order for each ring. -/
def flueBoundary (s : State) : State :=
  let b := s.bellow 6
  let queue := fun cls => ((b.classes[cls]?).getD {}).queue
  let waits := fun cls => (queue cls).any (recordReady s cls)
  let open' := fun cls => waits cls && ((b.classes[cls]?).getD {}).shaped s.localNs
  let s := s.onBellow 6 fun b =>
    { b with classes := b.classes.zipIdx.map fun (c, i) =>
        if waits i && !c.shaped s.localNs then { c with shapes := bump 16 c.shapes } else c }
  match classOrder.find? open' with
  | none => s
  | some cls =>
    match takeReady (recordReady s cls) (queue cls) with
    | none => s
    | some (f, rest) =>
      match f.payload with
      | .record q r =>
        let s := s.onClass 6 cls fun c => { c.sent s.localNs (64 + fld b.ctl 7 0) with queue := rest }
        finishEnded (putFlue s cls q r)
      | _ => s

/-- BELLOWS_FRAME_BOUNDARY (R318): of a ridge port that is up, or of the flue. -/
def execBellowsFrameBoundary (port : Nat) (s : State) : Answer :=
  if port = 6 then .next (flueBoundary s)
  else if port < 6 && (s.port port).state = .up then .next (ridgeBoundary s port)
  else .next s

/-! ### Gate lists (R321) -/

/-- A list becomes active: its cycle starts at entry 0 at a moment (R321). -/
def Bellow.activate (b : Bellow) (l : List Gate) (moment : Nat) : Bellow :=
  { b with active := l, index := 0, entryAt := moment, cycleAt := moment, cycles := 0, committed := none,
           pendingEntries := [], lastEntry := none }

/-- The entry in force is over: the next one, or a new cycle, which a committed list takes whose base_ns has come. -/
def Bellow.nextEntry (b : Bellow) (until' : Nat) : Bellow :=
  if b.index + 1 < b.active.length then { b with index := b.index + 1, entryAt := until' }
  else match b.committed with
    | some l =>
      if b.gclBase.toNat ≤ until' then b.activate l until'
      else { b with index := 0, entryAt := until', cycleAt := until', cycles := bump 18 b.cycles }
    | none => { b with index := 0, entryAt := until', cycleAt := until', cycles := bump 18 b.cycles }

/-- GATE_ENTRY_BOUNDARY (R321). -/
def execGateEntryBoundary (port : Nat) (s : State) : Answer :=
  let b := s.bellow port
  match b.active[b.index]? with
  | some g =>
    if b.gated && b.entryAt + g.ns ≤ s.localNs then
      .next (s.onBellow port fun b => b.nextEntry (b.entryAt + g.ns))
    else .next s
  | none => .next s

/-- GCL_COMMIT (R321, Table 14.6). -/
def execGclCommit (val : Word) (s : State) : Answer :=
  .next (if s.pwr.ready && bit val 0 then commitGates s else s)

/-- GCL_DISCARD (R321, Table 14.6). -/
def execGclDiscard (val : Word) (s : State) : Answer :=
  .next (if s.pwr.ready && bit val 1 then discardGates s else s)

/-- GCL_TAKE_EFFECT (R321): at the later of base_ns and the end of the active cycle. -/
def execGclTakeEffect (port : Nat) (s : State) : Answer :=
  let b := s.bellow port
  match b.committed with
  | some l =>
    if effectMoment b ≤ s.localNs then
      .next (s.onBellow port fun b => b.activate l (if b.gated then effectMoment b else s.localNs))
    else .next s
  | none => .next s

/-! ### Shapers and dampers (R320, R325) -/

/-- SHAPER_WRITE (R320). -/
def execShaperWrite (val : Word) (s : State) : Answer := .next (if s.pwr.ready then writeShape s val else s)

/-- DAMPER_WRITE (R325). -/
def execDamperWrite (reg : Nat) (val : Word) (s : State) : Answer :=
  .next (if s.pwr.ready then writeDamper s reg val else s)

end Sys2Proof.Machine
end

