-- ==== Sys2Proof/Machine/Diag.lean ====
section
/-!
DEFINITION. DGN_INJECT (R384): one definition for each kind of fault that a write may arm. Where an armed fault strikes
stands with what it strikes: reads of a bank (EmberOps), pages decoded (Sessions), frames received (RidgeOps).
-/

namespace Sys2Proof.Machine

/-- The kind of fault that a write names; 6 and 7 act as 0 (Tables 18.4, 18.15; notes/assumptions/50.md). -/
def injectKind (v : Word) : Nat := if fld v 2 0 ≤ 5 then fld v 2 0 else 0

/-- Length of an injected hold in µs: 0 acts as 1, above 200 as 200 (Table 18.15). -/
def injectedUs (v : Word) : Nat := clamp 1 200 (fld v 13 6)

/-- The fields of DGN_INJECT that a write sets. -/
def injectValue (v : Word) : Word := masked v 0x3FFF

/-- A write of a kind to DGN_INJECT: ignored without debug_enable, with refused then set (R384). -/
def injectWrite (s : State) (val : Word) (kind : Nat) (f : State → State) : State :=
  if !s.pwr.ready || injectKind val ≠ kind then s
  else if !s.fbx.debug then s.onDgn fun d => { d with injRefused := true }
  else f (s.onDgn fun d => { d with injectReg := injectValue val, injRefused := false })

/-- Arm the fault that the register now names: one at a time (R384). -/
def armFault (s : State) : State := s.onDgn fun d => { d with armed := true }

/-- INJECT_DISARM (R384): kind 0. -/
def execInjectDisarm (val : Word) (s : State) : Answer :=
  .next (injectWrite s val 0 fun s => s.onDgn fun d => { d with armed := false })

/-- INJECT_CORRECTED_ERROR (R384): kind 1, at the next read of the bank that HRT_SEL selects. -/
def execInjectCorrectedError (val : Word) (s : State) : Answer := .next (injectWrite s val 1 armFault)

/-- INJECT_UNCORRECTABLE_ERROR (R384): kind 2, at that bank's next weight-row read. -/
def execInjectUncorrectableError (val : Word) (s : State) : Answer := .next (injectWrite s val 2 armFault)

/-- INJECT_PAGE_CHECK_FAIL (R384): kind 3, at the next page that a grate decodes. -/
def execInjectPageCheckFail (val : Word) (s : State) : Answer := .next (injectWrite s val 3 armFault)

/-- INJECT_FRAME_TAG_FAIL (R384): kind 4, at the next data frame received on the port. -/
def execInjectFrameTagFail (val : Word) (s : State) : Answer := .next (injectWrite s val 4 armFault)

/-- INJECT_SUPPLY_HOLD (R384): kind 5 strikes at once, a hold of its length without a rail crossing; during a dip episode
the hold that stands is that of the episode. -/
def execInjectSupplyHold (val : Word) (s : State) : Answer :=
  .next (injectWrite s val 5 fun s => faultStruck (if s.pwr.dipActive then s
    else (beginHold s true []).onPwr fun p => { p with injectedLen := injectedUs val }) 5)

end Sys2Proof.Machine
end

