-- ==== Sys2Proof/Machine/Embers.lean ====
section
/-!
DEFINITION. The ember operations (Table 7.6) and the service of the banks: work tables, refresh, patrol,
retirement (R152 to R169).
-/

namespace Sys2Proof.Machine

/-- WORK_TABLE_WRITE (R153): the broadcaster writes an entry; commands run to their end within their own step,
so none that names it is queued or running. -/
def execWorkTableWrite (ember entry : Nat) (val : BitVec 128) (s : State) : Answer :=
  if !s.pwr.ready || 3072 ≤ ember || 256 ≤ entry then .next s
  else .next (s.onEmber ember fun e => { e with table := upsert (·.1) (entry, val) e.table })

/-- IDLE (R154): the slice ends at once. -/
def execIdle (summit : Nat) (cmd : Broadcast) (s : State) : Answer :=
  .next (runCommand s summit 0 cmd.word [] [] cmd.reqs false (fun _ => []) (fun s _ _ => s))

/-! ### MATVEC (R147 to R151) -/

/-- Accumulators of a MATVEC in the order they leave: outputs of column 0, then of column 1, and so on, each
with its column. -/
def matvecUsed (c : BitVec 64) (w : BitVec 128) : List (Nat × Nat) :=
  ((List.range (columnsOf c w)).map fun j => (List.range (eOuts w)).map fun o => (accIndex w j o, j)).flatten

/-- One block of weights against its window of a column's activations, added into a sum (R147, R150). -/
def dotBlock (fmt : Nat) (blk : Nat × List Nat) (act : Nat → Fl) (sum : BitVec 32) : BitVec 32 :=
  (blk.2.zipIdx).foldl (fun a (q, i) => macF32 a (weightValue fmt blk.1 q) (act i)) sum

/-- Output o of column j of a weight slice: its blocks in window order (R150). -/
def weightSum (s : State) (summit : Nat) (c : BitVec 64) (e : Nat) (w : BitVec 128) (j o : Nat)
    (sum : BitVec 32) : BitVec 32 :=
  (List.range (eWindows w)).foldl (fun a k =>
    match sliceBlock s e w (o * eWindows w + k) with
    | some blk => dotBlock (eFormat w) blk (fun i => actElem s summit (cHalf c) j (32 * (eWindow w + k) + i)) a
    | none => a) sum

/-- Positions that a value-row slice reads: those of its rows, at most 256 - 32 × win_start (R151). -/
def valuePositions (w : BitVec 128) : Nat :=
  min ((eRows w * 2048 - eCol w * 32) / fld (eParam w) 8 0) (256 - 32 * eWindow w)

/-- Channel o of the window of a value-row slice, over its positions, for column j (R151). -/
def valueSum (s : State) (summit : Nat) (c : BitVec 64) (e : Nat) (w : BitVec 128) (j o : Nat)
    (sum : BitVec 32) : BitVec 32 :=
  let d := fld (eParam w) 8 0
  let first := rowAddr e (eRow w) + 32 * eCol w + fld (eParam w) 16 9 + o
  (List.range (valuePositions w)).foldl (fun a p =>
    macF32 a (e4m3 (memRead s.hrt.mem (first + p * d))) (actElem s summit (cHalf c) j (32 * eWindow w + p))) sum

/-- Format errors of the blocks a weight slice reads, each block once (R149). -/
def sliceFormatErrors (s : State) (e : Nat) (w : BitVec 128) : Nat :=
  ((List.range (eOuts w * eWindows w)).map fun n =>
    match sliceBlock s e w n with
    | some blk => blockErrors (eFormat w) blk
    | none => 0).sum

/-- One ember's MATVEC slice. An uncorrectable error leaves the accumulators as they were: the step is
replayed (Table 7.8). -/
def matvecSlice (summit : Nat) (c : BitVec 64) (errs : List ReadError) (s : State) (e : Nat) (w : BitVec 128) :
    State :=
  let weights := decide (eFormat w < 4)
  let (s, ok) := readRows s e (sliceRows w) weights errs
  if !ok then s
  else
    let from' := fun i => if eClear w then 0 else (s.ember e).accAt i
    let news := ((List.range (columnsOf c w)).map fun j => (List.range (eOuts w)).map fun o =>
      let i := accIndex w j o
      (i, if weights then weightSum s summit c e w j o (from' i) else valueSum s summit c e w j o (from' i))).flatten
    (s.onEmber e fun x => news.foldl (fun x (i, v) => x.setAcc i v) { x with candidates := 0, accColumn := none }).onHrt fun h =>
      { h with formatErrors := sat 32 (h.formatErrors + if weights then sliceFormatErrors s e w else 0) }

/-- MATVEC (R147 to R151, R156, R157). -/
def execMatvec (summit : Nat) (cmd : Broadcast) (acts : List Byte) (scales : List (BitVec 32))
    (errs : List ReadError) (s : State) : Answer :=
  .next (runCommand s summit 1 cmd.word acts scales cmd.reqs true (matvecUsed cmd.word) (matvecSlice summit cmd.word errs))

/-! ### SCORE (R209, R211) -/

/-- Accumulators of a SCORE: one for each query head and key vector; the scale is that of column seq. -/
def scoreUsed (w : BitVec 128) : List (Nat × Nat) :=
  ((List.range (scoreHeads w)).map fun h => (List.range (scoreVectors w)).map fun t =>
    (accIndex w h t, eSeq w)).flatten

/-- The score of query head h against key vector t (R209): the query of column seq lies head after head. -/
def scoreSum (s : State) (summit : Nat) (c : BitVec 64) (e : Nat) (w : BitVec 128) (h t : Nat)
    (sum : BitVec 32) : BitVec 32 :=
  let d := fld (eParam w) 8 0
  let key := rowAddr e (eRow w) + 32 * eCol w + t * d
  (List.range d).foldl (fun a k =>
    macF32 a (e4m3 (memRead s.hrt.mem (key + k))) (e4m3 (halfByte s summit (cHalf c) (h * d + k)))) sum

/-- One ember's SCORE slice. -/
def scoreSlice (summit : Nat) (c : BitVec 64) (errs : List ReadError) (s : State) (e : Nat) (w : BitVec 128) :
    State :=
  let (s, ok) := readRows s e (sliceRows w) false errs
  if !ok then s
  else
    let from' := fun i => if eClear w then 0 else (s.ember e).accAt i
    let news := ((List.range (scoreHeads w)).map fun h => (List.range (scoreVectors w)).map fun t =>
      (accIndex w h t, scoreSum s summit c e w h t (from' (accIndex w h t)))).flatten
    s.onEmber e fun x => news.foldl (fun x (i, v) => x.setAcc i v)
      { x with candidates := 0, accColumn := some (eSeq w) }

/-- SCORE (R209, R211). -/
def execScore (summit : Nat) (cmd : Broadcast) (acts : List Byte) (scales : List (BitVec 32))
    (errs : List ReadError) (s : State) : Answer :=
  .next (runCommand s summit 2 cmd.word acts scales cmd.reqs true scoreUsed (scoreSlice summit cmd.word errs))

/-! ### BINDOT (R265, R269) -/

/-- Code width of a BINDOT entry. -/
def bindotWidth (w : BitVec 128) : Nat :=
  match fld (eParam w) 1 0 with
  | 0 => 256 | 1 => 512 | _ => 1024

/-- Records that a BINDOT slice reads, at most 64, and the first one's number in its rows. -/
def bindotRecords (w : BitVec 128) : Nat × Nat :=
  let per := 2048 / recordBytes (bindotWidth w)
  let first := eCol w * 32 / recordBytes (bindotWidth w)
  (min (eOuts w) (per * eRows w - first), first)

/-- Address of record i of a slice: no record spans rows (R263). -/
def bindotAddr (e : Nat) (w : BitVec 128) (i : Nat) : Nat :=
  let size := recordBytes (bindotWidth w)
  let p := (bindotRecords w).2 + i
  rowAddr e (eRow w + p / (2048 / size)) + size * (p % (2048 / size))

/-- A posting record in a row (Table 12.2) and whether it is valid. -/
def postingAt (m : List Host.Cell) (addr width : Nat) : Posting × Bool :=
  let code := memReadAll m addr (width / 8)
  let tail := memReadAll m (addr + width / 8) 32
  ({ code := code, attr := leAt tail 0 8, range0 := leAt tail 8 2, range1 := leAt tail 10 2,
     key := leAt tail 16 8, deleted := (leAt tail 12 2).testBit 1 }, (leAt tail 12 2).testBit 0)

/-- The score of a record against column j: its distance, or 65,535.0 where it is no candidate (R266, R269). -/
def bindotScore (s : State) (summit : Nat) (c : BitVec 64) (e : Nat) (w : BitVec 128) (j i : Nat) : BitVec 32 :=
  let width := bindotWidth w
  let (r, valid) := postingAt s.hrt.mem (bindotAddr e w i) width
  let query := (List.range (width / 8 + 32)).map fun k => halfByte s summit (cHalf c) (256 * j + k)
  let f := readFilter (query.drop (width / 8))
  if valid && !r.deleted && (!bit (eParam w) 2 || f.passes r) then natF32 (hamming (query.take (width / 8)) r.code)
  else natF32 65535

/-- Accumulators of a BINDOT: record i of column j at 64 × j + i (R269). -/
def bindotUsed (c : BitVec 64) (w : BitVec 128) : List (Nat × Nat) :=
  ((List.range (cBatch c)).map fun j => (List.range (bindotRecords w).1).map fun i => (accIndex w j i, j)).flatten

/-- One ember's BINDOT slice. -/
def bindotSlice (summit : Nat) (c : BitVec 64) (errs : List ReadError) (s : State) (e : Nat) (w : BitVec 128) :
    State :=
  let (s, ok) := readRows s e (sliceRows w) false errs
  if !ok then s
  else
    let n := (bindotRecords w).1
    let news := ((List.range (cBatch c)).map fun j => (List.range n).map fun i =>
      (accIndex w j i, bindotScore s summit c e w j i)).flatten
    s.onEmber e fun x => news.foldl (fun x (i, v) => x.setAcc i v)
      { x with scanned := x.scanned + x.candidates, candidates := n }

/-- BINDOT (R269). -/
def execBindot (summit : Nat) (cmd : Broadcast) (acts : List Byte) (errs : List ReadError) (s : State) : Answer :=
  .next (runCommand s summit 3 cmd.word acts [] cmd.reqs false (bindotUsed cmd.word) (bindotSlice summit cmd.word errs))

/-! ### KVWRITE, SUMMARY, TOPK_LOCAL, COPYROW, CLEAR -/

/-- Bytes that a KVWRITE writes: those named, within its rows. -/
def kvwriteBytes (w : BitVec 128) : Nat := min (fld (eParam w) 15 0) (eRows w * 2048 - eCol w * 32)

/-- One ember's KVWRITE slice (R155): whole columns from row_start and col_start; a last column written in part
is read and merged. -/
def kvwriteSlice (summit : Nat) (c : BitVec 64) (errs : List ReadError) (s : State) (e : Nat) (w : BitVec 128) :
    State :=
  let n := kvwriteBytes w
  let last := eRow w * 64 + eCol w + n / 32
  let merged := if n % 32 = 0 then [] else [last / 64]
  let (s, ok) := readRows s e merged false (errs.filter fun r => r.row == last / 64 && r.column == last % 64)
  if !ok then s
  else
    let bytes := (List.range n).map fun k => halfByte s summit (cHalf c) (256 * eSeq w + 32 * eWindow w + k)
    let dest := rowAddr e (eRow w) + 32 * eCol w
    emberStore s [dest / 65536, (dest + n - 1) / 65536] fun m => memWriteAll m dest bytes

/-- KVWRITE (R155), with the saturations of its conversion counted (R204). -/
def execKvwrite (summit : Nat) (cmd : Broadcast) (acts : List Byte) (saturated : Nat)
    (errs : List ReadError) (s : State) : Answer :=
  let s' := runCommand s summit 4 cmd.word acts [] cmd.reqs false (fun _ => []) (kvwriteSlice summit cmd.word errs)
  .next (if issues s summit 4 cmd.word then s'.onDgn fun d => { d with fp8Sat := sat 32 (d.fp8Sat + saturated) } else s')

/-- The region that a key address lies in: a region takes 128 × head_dim bytes in class A, 64 × head_dim in
class B (R204, notes/assumptions/33.md). -/
def regionAt (s : State) (e : Nat) (w : BitVec 128) : Nat :=
  let d := fld (eParam w) 8 0
  let off := eRow w % 32 * 2048 + eCol w * 32
  match pageAtFrame s (frameOf e (eRow w)) with
  | some (x, _) => if (sessionImage s x).latent then off / (64 * d) else off / (128 * d)
  | none => off / (64 * d)

/-- One ember's SUMMARY slice (R216). -/
def summarySlice (errs : List ReadError) (s : State) (e : Nat) (w : BitVec 128) : State :=
  let (s, ok) := readRows s e (sliceRows w) false errs
  if !ok then s
  else
    let d := fld (eParam w) 8 0
    let bytes := summaryBytes s.hrt.mem (rowAddr e (eRow w) + 32 * eCol w) d
    let dest := rowAddr e (fld (eParam w) 22 9) + regionAt s e w * (2 * d)
    emberStore s [dest / 65536] fun m => memWriteAll m dest bytes

/-- SUMMARY (R216). -/
def execSummary (summit : Nat) (cmd : Broadcast) (errs : List ReadError) (s : State) : Answer :=
  .next (runCommand s summit 5 cmd.word [] [] cmd.reqs false (fun _ => []) (summarySlice errs))

/-- The place of a value among candidates. -/
def topKey (v : BitVec 32) : Int := if isNanF32 v then Config.nanKey v else f32Key v

/-- Better pairs first; ties to the lower index (Table 7.6). -/
def topBefore (largest : Bool) (a b : TopEntry) : Bool :=
  if topKey a.1 = topKey b.1 then decide (a.2 < b.2)
  else if largest then decide (topKey b.1 < topKey a.1) else decide (topKey a.1 < topKey b.1)

/-- The best k of a list's pairs and new candidates. -/
def topMerge (k : Nat) (largest : Bool) (l cands : List TopEntry) : List TopEntry :=
  (sortBy (topBefore largest) (l ++ cands)).take k

/-- The column whose token scale an accumulator takes as it leaves: that of a SCORE's query, or the column it lies in
(R148, Table 7.2). -/
def scaleColumn (w : BitVec 128) (x : Ember) (i : Nat) : Nat := x.accColumn.getD (i / outputsOf w)

/-- The candidates of an ember: after BINDOT slices, for each query column the records of the last slice with
their sequence numbers in the run; else every accumulator, with its token scale as it leaves the file (R148), and its
index (Table 7.6, R269). -/
def topCandidates (s : State) (summit : Nat) (c : BitVec 64) (w : BitVec 128) (x : Ember) :
    List (Nat × List TopEntry) :=
  if x.candidates = 0 then
    [(0, (sortBy (fun (a b : Nat × BitVec 32) => decide (a.1 < b.1)) x.acc).map fun (i, v) =>
      (mulF32 v (columnScale s summit (scaleColumn w x i)), i))]
  else (List.range (cBatch c)).map fun j =>
    (j, (List.range x.candidates).map fun i => (x.accAt (accIndex w j i), x.scanned + i))

/-- One ember's TOPK_LOCAL slice. -/
def topkSlice (summit : Nat) (c : BitVec 64) (s : State) (e : Nat) (w : BitVec 128) : State :=
  let k := min 64 (fld (eParam w) 6 0)
  s.onEmber e fun x =>
    let lists := topCandidates s summit c w x
    { x with
      topk := (x.topk.filter fun p => !(lists.any fun l => l.1 == p.1)) ++
        (lists.map fun (n, cands) =>
          (topMerge k (bit (eParam w) 7) ((x.topk.filter (·.1 == n)).map (·.2)) cands).map fun p => (n, p)).flatten }

/-- TOPK_LOCAL (R154, R269). -/
def execTopkLocal (summit : Nat) (cmd : Broadcast) (s : State) : Answer :=
  .next (runCommand s summit 6 cmd.word [] [] cmd.reqs false (fun _ => []) (topkSlice summit cmd.word))

/-- Rows of a bank zeroed. -/
def zeroRows (s : State) (e : Nat) (rows : List Nat) : State :=
  emberStore s (rows.map (frameOf e)) fun m => rows.foldl (fun m r => memZero m (rowAddr e r) 2048) m

/-- Rows of a bank's frames verified as cleared; a frame that awaits its clear passes when all 32 have (R167). -/
def verifyRows (s : State) (e : Nat) (rows : List Nat) : State :=
  s.onTie fun t =>
    { t with
      frames := (t.frames.map fun f =>
          if f.clearing then
            { f with
              cleared := (rows.filter fun r => frameOf e r == f.number).foldl
                (fun m r => m ||| 2 ^ (r % 32)) f.cleared }
          else f).filter fun f => !(f.clearing && f.cleared == 2 ^ 32 - 1) }

/-- One ember's CLEAR slice (R167, R168, R345), where its broadcaster stands at a boundary with a barrier, on as many of
its rows as the slack and the budget allow: a row that fails verification raises an isolation event, is
repaired onto a spare row and cleared again; with no spare left the bank is retired and the row stays unverified. -/
def clearSlice (summit slackNs : Nat) (errs : List ReadError) (s : State) (e : Nat) (w : BitVec 128) : State :=
  let verify := bit (eParam w) 0
  if !atBarrier s summit then s
  else
    let (s, n) := spendClear s e (eRows w) (if verify then 180 else 100) slackNs
    let rows := (sliceRows w).take n
    let s := zeroRows s e rows
    if !verify then s
    else
      let failing := rows.filter fun r => errs.any fun x => x.ember == e && x.row == r
      let (s, lost) := failing.foldl (fun (acc : State × List Nat) r =>
        let s := isolation acc.1 3 (eTenant w)
        if spareLeft s e = 0 then (beginRetire s e, acc.2 ++ [r]) else (repairRow s e r, acc.2)) (s, [])
      verifyRows s e (rows.filter fun r => !lost.contains r)

/-- CLEAR (R167, R168). -/
def execClear (summit : Nat) (cmd : Broadcast) (slackNs : Nat) (errs : List ReadError) (s : State) : Answer :=
  .next (runCommand s summit 7 cmd.word [] [] cmd.reqs false (fun _ => []) (clearSlice summit slackNs errs))

/-- One ember's COPYROW slice: row by row, in row order. -/
def copySlice (errs : List ReadError) (s : State) (e : Nat) (w : BitVec 128) : State :=
  let (s, ok) := readRows s e (sliceRows w) false errs
  if !ok then s
  else emberStore s ((destRows w).map (frameOf e)) fun m =>
    ((sliceRows w).zip (destRows w)).foldl (fun m (a, b) =>
      memWriteAll (memZero m (rowAddr e b) 2048) (rowAddr e b) (memReadAll m (rowAddr e a) 2048)) m

/-- COPYROW (Table 7.6). -/
def execCopyrow : Nat → Broadcast × List ReadError → State → Answer
  | summit, (cmd, errs), s => .next (runCommand s summit 8 cmd.word [] [] cmd.reqs false (fun _ => []) (copySlice errs))

/-! ### Refresh and patrol (R160 to R164) -/

/-- Refreshes that the banks of a summit die owe. -/
def owedOf (s : State) (summit : Nat) : Nat := ((lookupBy (·.1) summit s.hrt.owedShared).map (·.2)).getD 0

/-- Banks that a run's commands address: those of its dies in broadcast mode, but for retired ones (R157, R170). -/
def runBanks (s : State) (r : BroadcastRun) : Nat :=
  (((upFrom (12 * r.summit) 12).filter fun d => r.dies.testBit (d % 12) && !s.hrt.dieDirect.contains d).map fun d =>
    128 - (s.hrt.embers.filter fun e => emberDie e.number == d &&
      (e.state == .retired || e.state == .failed)).length).sum

/-- REFRESH_DUE (R161, R162): inside a column-split run the banks owe one more, and the fifth is forced in the banks of
the run; at any other boundary, in an idle period and during a hold, the one refresh owed is issued. -/
def execRefreshDue (summit : Nat) (s : State) : Answer :=
  let issued := s.onHrt fun h => { h with owedShared := h.owedShared.filter fun o => o.1 != summit }
  if s.pwr.heldInReset then .next issued
  else match runOf s summit with
    | some r =>
      if r.split && !s.pwr.heldNow && emberPause s = 0 then
        let owed := owedOf s summit + 1
        let s := s.onHrt fun h => { h with maxOwed := max h.maxOwed (min 5 owed) }
        if owed < 5 then .next (s.onHrt fun h => { h with owedShared := upsert (·.1) (summit, owed) h.owedShared })
        else .next (s.onHrt fun h =>
          { h with owedShared := h.owedShared.filter fun o => o.1 != summit,
                   forced := sat 16 (h.forced + runBanks s r) })
      else .next (issued.onHrt fun h => { h with maxOwed := max h.maxOwed 1 })
    | none => .next (issued.onHrt fun h => { h with maxOwed := max h.maxOwed 1 })

/-- PATROL_SCRUB (R164): one row read, its corrected columns counted and written back, inside the clear share, at a
boundary with a barrier; only while scrub_enable is 1 (Table 7.11). -/
def execPatrolScrub (ember row slackNs : Nat) (errs : List ReadError) (s : State) : Answer :=
  if !s.pwr.ready || s.pwr.heldNow || !bit s.hrt.shareCtl 16 || 3072 ≤ ember || 16384 ≤ row ||
     !atBarrier s (summitOf ember) then .next s
  else
    let (t, n) := spendClear s ember 1 80 slackNs
    if n = 0 then .next s else .next (readRows t ember [row] (weightFrame t ember (row / 32)) errs).1

/-! ### Retirement (R169) -/

/-- RETIRE_BANK (R169, Table 7.15). -/
def execRetireBank (ember : Nat) (s : State) : Answer :=
  if !s.pwr.ready || 3072 ≤ ember then .next s else .next (beginRetire s ember)

/-- Session pages still in a bank that leaves service are lost (notes/assumptions/34.md). -/
def losePages (s : State) (e : Nat) : State :=
  s.ses.table.foldl (fun s x => (bankPages x e).foldl (fun s p =>
    freeFrames (setPage s x.slot { p with place := .lost .hardwareFault }) [p]) s) s

/-- BANK_RETIRE_COMPLETE (R169, Table 7.9 steps 4 and 5): what still lies in the bank is moved, the new work tables take
effect, the bank is retired, event 11. -/
def execBankRetireComplete (ember : Nat) (s : State) : Answer :=
  if (s.ember ember).state ≠ .retiring || s.pwr.heldNow then .next s
  else
    let s := losePages (vacateBank s ember) ember
    let s := (s.img.slots.filter fun i => i.state != .empty).foldl writeTables s
    let s := s.onEmber ember fun x => { x with state := .retired, emberPass := false, patternPass := false }
    .next (logEvent s 11 0 ember)

end Sys2Proof.Machine
end

