-- ==== Sys2Proof/Machine/Direct.lean ====
section
/-!
DEFINITION. Direct memory commands (R170 to R172, Tables 7.10, 7.14 to 7.19). A command runs to its end in one
step, so busy never stands (notes/assumptions/38.md).
-/

namespace Sys2Proof.Machine

/-- DIRECT_MODE_SET (R170): a write of HRT_DIE_CTL's mode for the selected die. -/
def execDirectModeSet (val : Word) (s : State) : Answer :=
  if s.pwr.ready then .next (writeDieMode s val) else .next s

/-! ### HRT_DMC_CMD0 (Table 7.17) -/

def dmcOp (v : Word) : Nat := fld v 3 0

/-- The rows of a command: row_count 0 acts as 1, a range past row 16,383 is cut there. -/
def dmcRows (v : Word) : List Nat :=
  let first := fld v 21 8
  upFrom first (min (max 1 (fld v 36 22)) (16384 - first))

/-- The banks a command runs on: the selected one, or with all_banks every bank of a die in direct mode (R171). -/
def dmcBanks (s : State) : List Nat :=
  if bit s.hrt.sel 15 && s.hrt.dieDirect.contains (selDie s) then upFrom (128 * selDie s) 128 else [selEmber s]

/-- A bank is retired: in service, or at start-up (R39, R169). -/
def bankRetired (s : State) (e : Nat) : Bool := (s.ember e).state == .retired || (s.ember e).state == .failed

/-- A bank takes direct commands: its die is in direct mode, or it is retired (R170). -/
def bankDirect (s : State) (e : Nat) : Bool := s.hrt.dieDirect.contains (emberDie e) || bankRetired s e

def dmcDone : Nat := 0
def dmcFailed : Nat := 1
def dmcNotPermitted : Nat := 2
def dmcBadOp : Nat := 3
def dmcNoSpare : Nat := 4

/-- HRT_DMC_STATUS after a command (Table 7.19). -/
def dmcEnd (s : State) (result row count bank : Nat) : State :=
  s.onHrt fun h =>
    { h with dmcResult := result, dmcRow := row, dmcCount := sat 16 count, dmcBank := bank % 128,
             dmcSpare := 64 - ((lookupBy (·.number) bank h.embers).map (·.repairs.length)).getD 0 }

/-- Whether the operator can issue a command of an operation here now: the part serves and the value names it. -/
def dmcTakes (s : State) (val : Word) (op : Nat) : Bool := s.pwr.ready && dmcOp val == op

/-- A direct command on every bank it names, where it is permitted; the first failing bank is reported. `run`
gives the state and the bank's failing row, count and result where it fails. -/
def dmcRun (s : State) (val : Word) (op : Nat)
    (run : State → Nat → State × Option (Nat × Nat × Nat)) : State :=
  if !dmcTakes s val op then s
  else if !((dmcBanks s).all (bankDirect s)) then dmcEnd s dmcNotPermitted 0 0 (selEmber s)
  else
    let (s, fail) := (dmcBanks s).foldl (fun (acc : State × Option (Nat × Nat × Nat × Nat)) e =>
      let (s, r) := run acc.1 e
      match acc.2, r with
      | none, some (res, row, count) => (s, some (res, row, count, e))
      | f, _ => (s, f)) (s, none)
    match fail with
    | none => dmcEnd s dmcDone 0 0 (selEmber s)
    | some (res, row, count, e) => dmcEnd s res row count e

/-- A 64-bit pattern repeated over a row (Table 7.10). -/
def patternRow (p : Word) : List Byte := (List.replicate 256 (leBytes 8 p.toNat)).flatten

/-- PATTERN_WRITE (R171). -/
def execPatternWrite (val : Word) (s : State) : Answer :=
  .next (dmcRun s val 1 fun s e =>
    (s.onHrt fun h =>
      { h with mem := (dmcRows val).foldl (fun m r =>
          memWriteAll (memZero m (rowAddr e r) 2048) (rowAddr e r) (patternRow h.operand)) h.mem }, none))

/-- Columns of a row that fail a check against the pattern before correction: those that differ, and those that read in
error (R171). -/
def patternFails (s : State) (errs : List ReadError) (e row : Nat) : Nat :=
  ((List.range 64).filter fun c =>
    (errs.any fun r => r.ember == e && r.row == row && r.column == c) ||
    memReadAll s.hrt.mem (rowAddr e row + 32 * c) 32 !=
      (List.replicate 4 (leBytes 8 s.hrt.operand.toNat)).flatten).length

/-- PATTERN_CHECK (R171): failing columns counted; a pass counts towards test_passed (Table 7.16). -/
def execPatternCheck (c : DirectRead) (s : State) : Answer :=
  .next (dmcRun s c.word 2 fun s e =>
    let bad := (dmcRows c.word).filter fun r => patternFails s c.errs e r != 0
    match bad with
    | [] => (s.onEmber e fun x => { x with patternPass := true }, none)
    | r :: _ => (s.onEmber e fun x => { x with patternPass := false },
        some (dmcFailed, r, (bad.map (patternFails s c.errs e)).sum)))

/-- EMBER_TEST (R171): the built-in vectors fail on the embers named. -/
def execEmberTest (val : Word) (failing : List Nat) (s : State) : Answer :=
  .next (dmcRun s val 3 fun s e =>
    if failing.contains e then (s.onEmber e fun x => { x with emberPass := false }, some (dmcFailed, 0, 0))
    else (s.onEmber e fun x => { x with emberPass := true }, none))

/-- Microcodes of the active firmware image. -/
def ucodeCount (s : State) : Nat := ((slotImage s.fwu s.fwu.active).map (·.ucodes)).getD 0

/-- UCODE_LOAD (R171): the microcode of the active image with that number (notes/assumptions/83.md). -/
def execUcodeLoad (val : Word) (s : State) : Answer :=
  .next (dmcRun s val 4 fun s e =>
    let n := fld s.hrt.operand 3 0
    if n < ucodeCount s then (s.onEmber e fun x => { x with ucode := n }, none)
    else (s, some (dmcFailed, 0, 0)))

/-- ROW_REPAIR (R171, R172): the row named in the operand goes to the next free spare row. -/
def execRowRepair (val : Word) (s : State) : Answer :=
  .next (dmcRun s val 5 fun s e =>
    let row := fld s.hrt.operand 13 0
    if spareLeft s e = 0 then (s, some (dmcNoSpare, row, 0)) else (repairRow s e row, none))

/-- Steps of a MARGIN_SCAN, 1 to 8. -/
def scanSteps (v : Word) : Nat := clamp 1 8 (fld v 3 0)

/-- MARGIN_SCAN (R171): failing columns at the deepest step, as the rows' sense margins show them. `fails` lists
(ember, row) once for each failing column. -/
def execMarginScan (val : Word) (fails : List (Nat × Nat)) (s : State) : Answer :=
  .next (dmcRun s val 6 fun s e =>
    let mine := fails.filter fun f => f.1 == e && (dmcRows val).contains f.2
    match (dmcRows val).find? fun r => mine.any fun f => f.2 == r with
    | none => (s, none)
    | some r => (s, some (dmcFailed, r, mine.length)))

/-- test_passed (Table 7.16). -/
def Ember.testPassed (e : Ember) : Bool := e.emberPass && e.patternPass

/-- RETURN (R171): a retired bank that has passed its tests is in service again; its frames are free. -/
def execDmcReturn (val : Word) (s : State) : Answer :=
  .next (dmcRun s val 7 fun s e =>
    let x := s.ember e
    if bankRetired s e && x.testPassed then
      (s.onEmber e fun x => { x with state := .inService, failedCols := [], skipTimes := [] }, none)
    else (s, some (dmcFailed, 0, 0)))

/-- DMC_BAD_OPERATION (R171): codes 0x0 and 0x8 to 0xF. -/
def execDmcBadOperation (val : Word) (s : State) : Answer :=
  if s.pwr.ready && (dmcOp val = 0 || 8 ≤ dmcOp val) then .next (dmcEnd s dmcBadOp 0 0 (selEmber s)) else .next s

end Sys2Proof.Machine
end

