-- ==== Sys2Proof/Machine/Firmware.lean ====
section
/-!
DEFINITION. The meanings of the firmware commands (chapter 17): FW_BLOCK, the switch and its attempts,
confirmation and fallback, the recovery download.
-/

namespace Sys2Proof.Machine

/-- A FW_BLOCK of an operation that can start now (notes/assumptions/115.md). -/
def startFirmware (s : State) (o : Origin) (op : Nat) : Option InFlight :=
  match canStart s o opFwBlock with
  | some d => if fwOp d.raw = op || (op = 0 && 4 ≤ fwOp d.raw) then some d else none
  | none => none

/-- Row 1 of Table 17.4. -/
def fwMalformed (d : BitVec 512) : Bool :=
  4 ≤ fwOp d || fwTarget d == 3 || (fwOp d == 2 && fwTarget d != 0) ||
  (fwOp d == 0 && (fwLength d == 0 || 65536 < fwLength d || dParam d == 0 ||
    areaLength (fwTarget d) < fwOffset d + fwLength d))

/-- Row 2 of Table 17.4. -/
def fwBusy (s : State) (d : BitVec 512) : Bool :=
  fwTarget d == 0 && ((fwOp d == 0 && s.fwu.activation.isSome) || !s.fwu.confirmed)

/-- The descriptor names a download that has been discarded (R368). -/
def fwDiscarded (s : State) (d : BitVec 512) : Bool :=
  !((openDownload s.fwu (fwTarget d)).any fun x => x.id == fwId d) &&
  s.fwu.discardedIds.contains (fwTarget d, fwId d)

/-- FW_BLOCK WRITE (R367 to R369): the block's digest, its data, and whether the flash took it. -/
def execFwBlockWrite (o : Origin) (digest : BitVec 384) (data : List Byte) (flashOk : Bool) (s : State) : Answer :=
  match startFirmware s o 0 with
  | none => .next s
  | some d =>
    let b := d.raw
    let block := data.take (fwLength b)
    if fwMalformed b then .next (refuse s o .formatUnsupported)
    else if fwBusy s b then .next (refuse s o .sessionBusy)
    else if block.length ≠ fwLength b || sha384 block ≠ digest then .next (refuse s o .signatureBad)
    else
      let s := s.onFwu fun f => openFor f (fwTarget b) (fwId b)
      if !flashOk then .next (refuse s o .hardwareFault)
      else match openDownload s.fwu (fwTarget b) with
        | none => .next s
        | some x =>
          let x := addBlock x (fwOffset b) block
          .next (complete (s.onFwu fun f => setDownload f (fwTarget b) (some x)) o []
            (BitVec.ofNat 64 (writtenBytes x)))

/-- A verified firmware image takes the inactive slot (R369). -/
def acceptImage (s : State) (img : List Byte) : State :=
  s.onFwu fun f =>
    { setDownload f 0 none with
      slots := f.slots.zipIdx.map fun (x, i) =>
        if i = inactive f then { state := 2, image := some (imageKept img) } else x }

/-- FW_BLOCK VERIFY (R368, R369). -/
def execFwBlockVerify (o : Origin) (s : State) : Answer :=
  match startFirmware s o 1 with
  | none => .next s
  | some d =>
    let b := d.raw
    if fwMalformed b then .next (refuse s o .formatUnsupported)
    else if fwDiscarded s b then .next (refuse s o .cancelled)
    else match openDownload s.fwu (fwTarget b) with
      | none => .next (refuse s o .formatUnsupported)
      | some x =>
        if x.id ≠ fwId b then .next (refuse s o .formatUnsupported)
        else
          let all := downloadRun x
          match fwTarget b with
          | 0 =>
            let img := all.take (bfld (all.take 256) 95 64)
            match imageRefusal img with
            | some st => .next (refuse s o st)
            | none => .next (complete (acceptImage s img) o []
                (BitVec.ofNat 64 (imageKept img).version))
          | 1 =>
            let blk := all.take (bfld (all.take 128) 63 32)
            if blk.length ≠ bfld (all.take 128) 63 32 then .next (refuse s o .formatUnsupported)
            else match blockRefusal blk with
              | some st => .next (refuse s o st)
              | none =>
                let tag := if fwNewFormats b then
                    match verifiedImage s.fwu with
                    | some i => i.settings
                    | none => slotFormats s.fwu s.fwu.active
                  else slotFormats s.fwu s.fwu.active
                let c := readBlock blk tag
                .next (complete (s.onFwu fun f => { setDownload f 1 none with pendingCfg := some c }) o [] c.seq)
          | _ =>
            if all.length ≠ writtenBytes x then .next (refuse s o .formatUnsupported)
            else if !Config.certifiesDevice all then .next (refuse s o .signatureBad)
            else .next (complete ((s.onFwu fun f => { setDownload f 2 none with chain := some all }).onFbx
              fun f => { f with identityOk := true }) o [] 0)

/-- FW_BLOCK ACTIVATE (R368 to R370): for this part alone, or as an entry of the map. -/
def execFwBlockActivate (o : Origin) (s : State) : Answer :=
  match startFirmware s o 2 with
  | none => .next s
  | some d =>
    let b := d.raw
    if fwMalformed b then .next (refuse s o .formatUnsupported)
    else if fwDiscarded s b then .next (refuse s o .cancelled)
    else match verifiedImage s.fwu with
      | none => .next (refuse s o .imageNotBound)
      | some i =>
        if !fwCold b && !compatibleLive s then .next (refuse s o .versionRefused)
        else if fwDomain b then
          let s := (markRunning s o).onDescriptor o fun d => { d with waitsMap := some s.localNs }
          .next (propose s (.activation i.digest (fwEpoch b) (fwCold b)))
        else
          let s := s.onFwu fun f => { f with activation := some { epoch := fwEpoch b, cold := fwCold b } }
          .next (actOnEpoch (complete s o [] 0))

/-- FW_BLOCK ABORT (R368): the open download is discarded; for target 0 an activation that has not reached its
quiesce point is withdrawn and its slot marked invalid. -/
def execFwBlockAbort (o : Origin) (s : State) : Answer :=
  match startFirmware s o 3 with
  | none => .next s
  | some d =>
    let b := d.raw
    if fwMalformed b then .next (refuse s o .formatUnsupported)
    else if fwBusy s b then .next (refuse s o .sessionBusy)
    else
      let t := fwTarget b
      let s := s.onFwu fun f =>
        if (openDownload f t).isSome && t = 0 then
          { discardDownload f t with
            slots := f.slots.zipIdx.map fun (x, i) => if i = inactive f then {} else x }
        else discardDownload f t
      let s := if t = 0 && s.fwu.activation.isSome then
          s.onFwu fun f =>
            { f with activation := none, attemptAt := none, retryAt := none,
                     slots := f.slots.zipIdx.map fun (x, i) => if i = inactive f then {} else x }
        else s
      .next (complete s o [] 0)

/-- A live activation stands ready to switch: its epoch has been applied. -/
def switchPending (s : State) : Bool :=
  s.fwu.activation.any fun a => !a.cold && decide (a.epoch ≤ s.rdg.map.epoch)

/-- The part stands at a quiesce point (R371): no decode share or step close is in progress, and the stoves stand at item
boundaries. Embers and grates end what they do within the command that does it (notes/assumptions/145.md). -/
def quiesced (s : State) : Bool :=
  (s.ses.batches.all fun b => b.columns.isEmpty || b.resting) && s.stv.islands.all fun i => i.running.isNone

/-- The event of a switch, with an EVENT record, handle zero, to every flight ring of the part (R380). -/
def switchEvent (s : State) : State :=
  let v := ((slotImage s.fwu s.fwu.active).map (·.version)).getD 0
  let rings := (List.range s.host.qps.length).filter fun q => (s.qp q).state != .disabled && (s.qp q).flight.log2 != 0
  rings.foldl (fun s q => writeFlight s q { kind := 3, count := 1, handle := 0, epoch := s.rdg.map.epoch,
                                            payload := eventPayload 8 0 v s.localNs }) (logEvent s 8 0 v)

/-- FIRMWARE_SWITCH (R371, Table 17.5): the quiesce point is reached outside a hold; held work resumes where it
stood. -/
def execFirmwareSwitch (s : State) : Answer :=
  if !s.pwr.ready || s.pwr.heldNow || !switchPending s || s.fwu.retryAt.isSome || !compatibleLive s || !quiesced s then
    .next s
  else .next (resumeSteps (switchEvent (switchImage s)))

/-- QUIESCE_TIMEOUT (R371): what was held is released, the try counted and recorded, the next one due 10 ms later
(Table 18.3). -/
def execQuiesceTimeout (s : State) : Answer :=
  match s.fwu.attemptAt with
  | none => .next s
  | some t =>
    if s.pwr.heldNow || s.localNs < t + s.fwu.attemptWait.getD (quiesceNs s) then .next s
    else .next (resumeSteps (logEvent (s.onFwu fun f =>
      { f with attemptAt := none, retryAt := some (s.localNs + ms 10), quiesceTries := bump 16 f.quiesceTries })
      16 0 (s.fwu.quiesceTries + 1)))

/-- QUIESCE_RETRY (R371). -/
def execQuiesceRetry (s : State) : Answer :=
  match s.fwu.retryAt with
  | none => .next s
  | some t =>
    if s.localNs < t || s.pwr.heldNow || !switchPending s then .next s
    else .next (beginAttempt s)

/-- The host link and the attachment stand as before the switch (R373); a boot has nothing before it. -/
def hostAsBefore (s : State) : Bool :=
  match s.fwu.hostAtSwitch with
  | some b => b == (s.host.modulesUp != 0, s.host.attached)
  | none => true

/-- IMAGE_CONFIRM (R373): whether every tender core in service runs the image, and every broadcaster has
completed a broadcast to every hearth die in service. -/
def execImageConfirm (allCores allDies : Bool) (s : State) : Answer :=
  let epochRecent := !s.rdg.configured || s.fwu.lastEpochNs.any fun t => decide (s.localNs ≤ t + ms 1000)
  if s.pwr.ready && s.fbx.policy && !s.fwu.confirmed && allCores && allDies && hostAsBefore s && epochRecent then
    .next (s.onFwu fun f => { f with confirmed := true, confirmAt := none, hostAtSwitch := none })
  else .next s

/-- CONFIRM_WINDOW_EXPIRE (R373). -/
def execConfirmWindowExpire (s : State) : Answer :=
  match s.fwu.confirmAt with
  | none => .next s
  | some t => .next (if s.fbx.policy && !s.fwu.confirmed && t ≤ s.localNs then fallback s else s)

/-- FW_REJECT: a write to FWU_CTL (R373, Table 17.10). -/
def execFwReject (val : Word) (s : State) : Answer :=
  let s := writeRW s 0xB0028 val
  .next (if bit val 8 && s.fbx.policy && !s.fwu.confirmed then fallback s else s)

/-- RECOVERY_DOWNLOAD: a write to FWU_RCV_CTL (R374, Table 17.12). -/
def execRecoveryDownload (val : Word) (s : State) : Answer :=
  let s := writeRW s 0xB0038 val
  .next (if bit val 32 && s.pwr.bootStage = 7 && !s.fwu.rcvBusy then
      s.onFwu fun f => { f with rcvBusy := true } else s)

/-- Results of FWU_RCV_STATUS (Table 17.13). -/
def recoveryResult (s : State) (image : Option (List Byte)) (flashOk : Bool) : Nat :=
  match image with
  | none => 5
  | some img =>
    if img.length ≠ fld s.fwu.rcvCtl 25 0 then 1
    else match imageRefusal (img.take (bfld (img.take 256) 95 64)) with
      | some .imageNotBound => 2
      | some .signatureBad => 3
      | some _ => 1
      | none => if flashOk then 0 else 4

/-- RECOVERY_DOWNLOAD_DONE (R374): a good image takes slot 0, or the slot that last failed verification, active and
confirmed, and start-up goes on from step 5 of Table 3.2. -/
def execRecoveryDownloadDone (image : Option (List Byte)) (flashOk : Bool) (failedBanks : List Nat) (s : State) :
    Answer :=
  if !s.fwu.rcvBusy then .next s
  else
    let r := recoveryResult s image flashOk
    let s := s.onFwu fun f => { f with rcvBusy := false, rcvResult := r }
    match image, r with
    | some img, 0 =>
      let n := s.fwu.lastFailed.getD 0
      let img := img.take (bfld (img.take 256) 95 64)
      let s := s.onFwu fun f =>
        let f := { f with slots := setAt f.slots n { state := 2, image := some (imageKept img) } }
        { activateSlot f n with confirmed := true, confirmAt := none, lastFailed := none, coldSlot := none }
      .next (loadFirmware s [] failedBanks)
    | _, _ => .next s

end Sys2Proof.Machine
end

