-- ==== Sys2Proof/Machine/Pool.lean ====
section
/-!
DEFINITION. The meanings of the pool commands (R297 to R302): EXTENT_LEND, EXTENT_CLAIM, EXTENT_RELEASE,
EXTENT_REVOKE, GRACE_PERIOD_END.
-/

namespace Sys2Proof.Machine

def lendTier (d : BitVec 512) : Nat := fld d 256 256
def lendCount (d : BitVec 512) : Nat := fld d 271 264

/-- One extent is lent: it leaves this part's own placement, and is proposed OFFERED (R298). -/
def lendOne (s : State) (o : Origin) (tier index : Nat) : State :=
  let n := nextLend s tier index
  let h := mkExtent s.rdg.part tier index n
  let l : Lent := { handle := h, tier := tier, index := index, lends := n, lender := some o }
  propose ((useLend s tier index n).onRdg fun r => { r with lent := r.lent ++ [l] }) (.extent h 0 0)

/-- EXTENT_LEND (R298): all or nothing; it completes with its commit. A standby lends nothing (R353). -/
def execExtentLend (o : Origin) (s : State) : Answer :=
  match canStart s o opLend with
  | none => .next s
  | some d =>
    let tier := lendTier d.raw
    let n := lendCount d.raw
    let free := freeExtents s tier n
    if n = 0 || dParam d.raw = 0 then .next (refuse s o .formatUnsupported)
    else if !extentRoom s tier n || free.length < n || standsBy s then .next (refuse s o .tierFull)
    else
      let s := (markRunning s o).onDescriptor o fun d => { d with waitsMap := some s.localNs }
      .next (free.foldl (fun s i => lendOne s o tier i) s)

/-- EXTENT_CLAIM (R299): this part claims an OFFERED extent from its lender, up and within reach of a quorum
(R293). -/
def execExtentClaim (extent : Word) (s : State) : Answer :=
  let part := hPart extent
  if !s.pwr.ready || !quorumUp s || part = s.rdg.part || !s.partUp part || (s.borrowedOf extent).isSome ||
     extentState s.rdg.map extent ≠ some 0 then .next s
  else
    let s := s.onRdg fun r => { r with borrowed := r.borrowed ++ [{ handle := extent, lender := part }] }
    .next (sendRequest s part 0 (.claim extent) 0 extent).1

/-- borrow_ahead as it acts (Table 13.15). -/
def borrowAhead (s : State) : Nat := min 64 (fld s.rdg.poolCtl 23 16)

/-- EXTENT_RELEASE (R299, R301): an empty extent beyond the reserve, or one being revoked, is proposed RELEASED. -/
def execExtentRelease (extent : Word) (s : State) : Answer :=
  match s.borrowedOf extent with
  | none => .next s
  | some b =>
    if b.granted && extentEmpty s extent && (b.closing || borrowAhead s < (emptyExtents s).length) &&
       quorumUp s && !s.rdg.map.proposals.contains (s.rdg.part, .extent extent 4 0) then
      .next (propose s (.extent extent 4 0))
    else .next s

/-- EXTENT_REVOKE at the lender (R301): REVOKING is proposed; a second one joins the first. -/
def execExtentRevoke (o : Origin) (s : State) : Answer :=
  match canStart s o opRevoke with
  | none => .next s
  | some d =>
    let h := dHandle d.raw
    match s.lentOf h with
    | none => .next (refuse s o .extentUnmapped)
    | some l =>
      if l.lender.isSome then .next (refuse s o .extentUnmapped)
      else
        let s := (markRunning s o).onLent h fun l => { l with revokers := l.revokers ++ [o] }
        if l.revokers.isEmpty && l.state ≤ 1 then
          .next (propose (s.onDescriptor o fun d => { d with waitsMap := some s.localNs }) (.extent h 2 0))
        else .next s

/-- GRACE_PERIOD_END (R301, Table 13.7 step 5): grace_us after the commit, on this part's counter; REVOKED is
proposed. A RELEASED that commits first ends it too. -/
def execGracePeriodEnd (extent : Word) (s : State) : Answer :=
  match s.lentOf extent with
  | none => .next s
  | some l =>
    match l.graceAt with
    | none => .next s
    | some t =>
      if l.state ≠ 2 || l.graceEnd.isSome || s.localNs < t + graceOf s l then .next s
      else .next (propose (s.onLent extent fun l => { l with graceEnd := some s.localNs }) (.extent extent 3 0))

end Sys2Proof.Machine
end

