-- ==== Sys2Proof/Machine/Regions.lean ====
section
/-!
DEFINITION. The meanings of the CXL.mem and region commands (R56, R303 to R314): host reads and writes,
REGION_MAP in its three forms, REGION_PUBLISH and its query.
-/

namespace Sys2Proof.Machine

/-! ### Host reads and writes (R56, R57, R303, R309 to R314) -/

/-- The digest record that the window shows at an offset, where its page is mapped with a digest (R303). -/
def windowPage (s : State) (off : Nat) : Option (Mapping × Nat) :=
  match mappingAt s ((off - digestBase) / 64 * 65536) with
  | some (m, o) => if m.digest && !m.dead then some (m, o / 65536) else none
  | none => none

/-- A read of the digest window: zero where no record stands. -/
def readWindow (s : State) (off : Nat) : State :=
  match windowPage s off with
  | none => s.emit (.readData (off / 64 * 64) (List.replicate 64 0) false)
  | some (m, page) =>
    match regionOf s m.handle with
    | some r => s.emit (.readData (off / 64 * 64) (actRequest.recordBytesOf (digestRecord r page)) false)
    | none => (sendRequest s (hPart m.handle) 0 (.digestRead m.handle page) (hTenant m.handle) m.handle 0 false
        (some off)).1

/-- A line that the line cache holds in a view. -/
def cached (s : State) (h : Word) (line : Nat) (sealedView : Bool) : Option CachedLine :=
  s.rdg.lines.find? fun l => l.region == h && l.line == line && l.version.isSome == sealedView

/-- An error of a read lies in the columns of the line at an offset of a region here, where it lies in a hearth frame. -/
def inLine (r : Region) (off : Nat) (e : ReadError) : Bool :=
  match r.pages[off / 65536]? with
  | some (.frame f) =>
    let a := 65536 * f + off % 65536 / 256 * 256
    e.ember == f / 512 && e.row == a / 2048 % 16384 && a % 2048 / 32 ≤ e.column && e.column < a % 2048 / 32 + 8
  | _ => false

/-- The errors that a host read meets are counted; one that the code does not correct poisons the data (R164, R165). -/
def hostReadErrors (s : State) (r : Region) (off : Nat) (errs : List ReadError) : State × Bool :=
  (errs.filter (inLine r off)).foldl (fun (s, bad) e =>
    if corrects e then (countCorrected s e.ember 1, bad) else (countUncorrectable s e.ember, true)) (s, false)

/-- HOST_MEM_READ (R56, R303, R308, R312, R314): an offset not mapped, or a region lost, reads as ones with poison; a
line of the line cache is served here, any other by the region's home. Before the host attaches nothing is mapped, the digest
window neither (R303). -/
def execHostMemRead (off : Nat) (errs : List ReadError) (s : State) : Answer :=
  if !s.pwr.ready then .next s
  else if digestBase ≤ off && s.host.attached then .next (readWindow s off)
  else match mappingAt s off with
    | none => .next (poisonRead (s.onDgn fun d => { d with cxlUnmapped := bump 16 d.cxlUnmapped }) off)
    | some (m, o) =>
      if m.dead then .next (poisonRead s off)
      else
        let line := o / 256
        let v := m.view == 2
        match cached s m.handle line v with
        | some l => .next (lineToHost s off l.data)
        | none =>
          match regionOf s m.handle with
          | some r =>
            let (s, bad) := hostReadErrors s r o errs
            .next (pushOp s r.slot (.host off) (.read line v bad))
          | none => .next (sendRequest s (hPart m.handle) 0 (.lineRead m.handle line v) (hTenant m.handle) m.handle 0
              false (some off)).1

/-- HOST_MEM_WRITE (R56, R303, R309): within one 64-byte host line; discarded where nothing is mapped, in the digest
window, in a read-only or sealed view, or in a region that is lost (notes/assumptions/96.md). -/
def execHostMemWrite (off : Nat) (data : List Byte) (s : State) : Answer :=
  if !s.pwr.ready || 64 < off % 64 + data.length then .next s
  else if digestBase ≤ off && s.host.attached then .next (s.onDgn fun d => { d with digestWrites := bump 16 d.digestWrites })
  else match mappingAt s off with
    | none => .next (s.onDgn fun d => { d with cxlUnmapped := bump 16 d.cxlUnmapped })
    | some (m, o) =>
      if m.view ≠ 0 then .next (s.onDgn fun d => { d with viewWrites := d.viewWrites + 1 })
      else if m.dead then .next (s.emit (.writeDone off))
      else match regionOf s m.handle with
        | some r => .next (pushOp s r.slot (.host off) (.write (o / 256) (o % 256) data))
        | none => .next (sendRequest s (hPart m.handle) 0 (.lineWrite m.handle (o / 256) (o % 256) data)
            (hTenant m.handle) m.handle 0 false (some off)).1

/-! ### REGION_MAP (Tables 13.8, 13.9) -/

def mapCreate (d : BitVec 512) : Bool := bit d 256
def mapUnmap (d : BitVec 512) : Bool := bit d 257
def mapShared (d : BitVec 512) : Bool := bit d 258
def mapDigest (d : BitVec 512) : Bool := bit d 259
def mapView (d : BitVec 512) : Nat := fld d 261 260
def mapTier (d : BitVec 512) : Nat := fld d 263 262
def mapSize (d : BitVec 512) : Nat := fld d 274 264
def mapUnit (d : BitVec 512) : Nat := fld d 299 288

/-- Units from one on would pass unit 4,091 or overlap another mapping (Table 13.9 row 1). -/
def badPlace (s : State) (unit n : Nat) : Bool :=
  4092 < unit + n || mapperAnswered.overlaps s unit n

/-- Row 1 of Table 13.9 for a creation. -/
def createMalformed (s : State) (d : BitVec 512) : Bool :=
  mapUnmap d || dHandle d != 0 || mapView d == 3 || mapTier d == 3 || mapSize d == 0 ||
  (if mapShared d then 64 else 1024) < mapSize d || badPlace s (mapUnit d) (ceilDiv (mapSize d) 4) ||
  (!mapShared d && mapView d == 2)

/-- Row 1 of Table 13.9 for a mapping of a region that exists. -/
def mapMalformed (s : State) (d : BitVec 512) : Bool :=
  mapView d == 3 || badPlace s (mapUnit d) 1

/-- Hearth frames of any bank that a tenant may take, in bank order. -/
def anyFrames (s : State) (tenant n : Nat) : List Nat :=
  (((List.range 3072).filter (bankServes s)).map fun e => frameChoices s tenant e).flatten.take n

/-- What a new region reserves (R307): pages, spare frames, spare granules, extents; none where the tier lacks
room. -/
def reserveRegion (s : State) (d : BitVec 512) (tenant : Nat) :
    Option (State × List RegionPlace × Nat × Nat × List Word) :=
  let n := 1024 * mapSize d
  let extra := if mapShared d then n else 0
  let dir := if mapShared d then ceilDiv (n * 65536 / 32) 65536 else 0
  match mapTier d with
  | 0 =>
    let fs := anyFrames s tenant n
    if hearthFits s (n + extra + dir) false && fs.length = n then
      some (fs.foldl (fun s f => takeFrame s tenant f) s, fs.map RegionPlace.frame, extra + dir, 0, [])
    else none
  | 1 =>
    if foothillFits s (128 * (n + extra)) && hearthFits s dir false then
      some (s, List.replicate n .foothill, dir, 128 * extra, [])
    else none
  | _ =>
    let es := (emptyExtents s).take ((n + extra) / 1024)
    if es.length = (n + extra) / 1024 && hearthFits s dir false then
      some (s, (List.range n).map fun p => .pool ((es[p / 1024]?).getD 0) (p % 1024), dir, 0, es)
    else none

/-- The lowest free region slot (R304). -/
def freeRegionSlot (s : State) : Option Nat :=
  (List.range 1024).find? fun n => (s.region n).isNone

/-- REGION_MAP with create (R305 to R307): the part becomes the home and maps the region; it completes with its
commit. A standby holds no region (R353). -/
def execRegionCreate (o : Origin) (s : State) : Answer :=
  afterClears s <|
  match canStart s o opRegionMap with
  | none => .next s
  | some d =>
    if !mapCreate d.raw then .next s
    else if createMalformed s d.raw then .next (refuse s o .formatUnsupported)
    else match freeRegionSlot s with
      | none => .next (refuse s o .doesNotFit)
      | some slot =>
        if standsBy s then .next (refuse s o .doesNotFit)
        else if !s.fbx.trngOk then .next (refuse s o .hardwareFault)
        else match reserveRegion s d.raw d.tenant with
          | none => .next (refuse s o .tierFull)
          | some (s, pages, spare, granules, extents) =>
            let (s, key) := drawKey s
            let gen := ((lookupBy (·.1) slot s.rdg.regionGens).map (·.2)).getD 0 + 1
            let r : Region :=
              { slot := slot, gen := gen, tenant := d.tenant, shared := mapShared d.raw, digests := mapDigest d.raw,
                size := 0x4000000 * mapSize d.raw, creating := some o, pages := pages, spare := spare,
                spareGranules := granules, extents := extents, keyDraw := key }
            let r := addMapper r s.rdg.part (mapView d.raw)
            let h := regionHandle s r
            let m : Mapping := { unit := mapUnit d.raw, handle := h, size := r.size, view := mapView d.raw,
                                 shared := r.shared, digest := r.digests }
            let s := (s.putRegion r).onRdg fun g =>
              { g with mappings := g.mappings ++ [m], regionGens := upsert (·.1) (slot, gen) g.regionGens }
            let s := (markRunning s o).onDescriptor o fun d => { d with waitsMap := some s.localNs }
            .next (propose s (.region h r.shared))

/-- REGION_MAP of a region that exists (R305, R306, R308): registered with the home; a private range maps on its home
alone. -/
def execRegionMap (o : Origin) (s : State) : Answer :=
  match canStart s o opRegionMap with
  | none => .next s
  | some d =>
    let b := d.raw
    let h := dHandle b
    if mapCreate b || mapUnmap b then .next s
    else if mapMalformed s b then .next (refuse s o .formatUnsupported)
    else if hTenant h ≠ d.tenant || !s.partKnown (hPart h) then .next (refuse s o .accessDenied)
    else if hPart h = s.rdg.part then
      match regionOf s h with
      | none => .next (refuse s o .accessDenied)
      | some r =>
        if badPlace s (mapUnit b) (ceilDiv r.size unitBytes) || (!r.shared && mapView b == 2) then
          .next (refuse s o .formatUnsupported)
        else
          let m : Mapping := { unit := mapUnit b, handle := h, size := r.size, view := mapView b,
                               shared := r.shared, digest := r.digests }
          let s := s.putRegion (addMapper r s.rdg.part (mapView b))
          .next (complete (s.onRdg fun g => { g with mappings := g.mappings ++ [m] }) o [] 0)
    else if !s.partUp (hPart h) then .next (refuse s o .peerLost)
    else .next (markRunning (sendRequest s (hPart h) 0 (.mapper h (mapView b)) d.tenant h 0 false none (some o)).1 o)

/-- REGION_MAP with unmap (R305, R310): the host die is snooped for every line, the lines dropped, the home told. -/
def execRegionUnmap (o : Origin) (s : State) : Answer :=
  match canStart s o opRegionMap with
  | none => .next s
  | some d =>
    let h := dHandle d.raw
    if !mapUnmap d.raw || mapCreate d.raw then .next s
    else if hTenant h ≠ d.tenant || !s.partKnown (hPart h) then .next (refuse s o .accessDenied)
    else match s.rdg.mappings.find? fun m => m.handle == h with
      | none =>
        if hPart h = s.rdg.part && (regionOf s h).isNone then .next (refuse s o .accessDenied)
        else .next (refuse s o .extentUnmapped)
      | some m =>
        let s := snoopRegion s h 0 m.size
        let s := s.onRdg fun g => { g with lines := g.lines.filter fun l => l.region != h }
        if m.dead then .next (complete (dropMapping s h) o [] 0)
        else match regionOf s h with
          | some r =>
            let s := markRunning (dropMapping s h) o
            let r' := removeMapper r s.rdg.part
            .next (pumpRegion (s.putRegion { r' with
              unmapping := r.unmapping ++ [(s.rdg.part, .descriptor o)] }) r.slot)
          | none =>
            if !s.partUp (hPart h) then .next (refuse s o .peerLost)
            else .next (markRunning (sendRequest s (hPart h) 0 (.unmapper h) d.tenant h 0 false none (some o)).1 o)

/-! ### REGION_PUBLISH (R311) -/

def publishExpected (d : BitVec 512) : Nat := fld d 287 256
def publishQuery (d : BitVec 512) : Bool := bit d 288

/-- The region that a publication names at its home (Table 13.9 row 2). -/
def publishRegion (s : State) (d : InFlight) : Option Region :=
  match regionOf s (dHandle d.raw) with
  | some r => if r.tenant = d.tenant then some r else none
  | none => none

/-- REGION_PUBLISH (R311, R312): it seals in the home's order of operations. -/
def execRegionPublish (o : Origin) (s : State) : Answer :=
  match canStart s o opPublish with
  | none => .next s
  | some d =>
    if publishQuery d.raw then .next s
    else match publishRegion s d with
      | none => .next (refuse s o .accessDenied)
      | some r => .next (pushOp (markRunning s o) r.slot (.descriptor o) (.sealing (publishExpected d.raw)))

/-- REGION_PUBLISH with query (R311): the current version. -/
def execRegionPublishQuery (o : Origin) (s : State) : Answer :=
  match canStart s o opPublish with
  | none => .next s
  | some d =>
    if !publishQuery d.raw then .next s
    else match publishRegion s d with
      | none => .next (refuse s o .accessDenied)
      | some r => .next (complete s o (if r.lostPages.isEmpty then [] else [.poisoned]) (BitVec.ofNat 64 r.version))

end Sys2Proof.Machine
end

