-- ==== Sys2Proof/Machine/Rings.lean ====
section
/-!
DEFINITION. The host-port commands that end or let go on what other parts of the model run (chapter 4): RESUME, DISABLE and
its end, the flue head doorbell, QUEUE_CANCEL.
-/

namespace Sys2Proof.Machine

/-- Held completions written in order after RESUMED (R62). -/
def writeHeld (s : State) (q : Nat) (l : List Completion) : State :=
  l.foldl (fun s c => putCompletion s q c) s

/-- Descriptors that a warm reset ended complete with CANCELLED at RESUME, a GENERATE after its records (R64, R74). -/
def writeAborted (s : State) (q : Nat) : State :=
  (s.inflightOf q).foldl (fun s d => match d.phase with
    | .aborted r =>
      if dOpcode d.raw = opGenerate then
        s.onDescriptor d.origin fun d => { d with phase := .ended r, conds := d.conds ++ [.cancelled] }
      else complete s d.origin [.cancelled] r
    | _ => s) s

/-- QP_RESUME (R59, R64): tenant and role must match before the other constraints are checked; then RESUMED,
the held completions, and what a warm reset ended; sessions that sat out for flue room are taken up again (R80). -/
def execQpResume (q : Nat) (ctx : Option (BitVec 512)) (s : State) : Answer :=
  if !takesCommand s then .next s
  else if !s.host.attached then .next (cmdEnd s q cmdNotAttached)
  else
    let p := s.qp q
    if p.state = .disabled || p.state = .enabled then .next (cmdEnd s q cmdBadState)
    else match ctx with
      | none => .next (cmdEnd (haltQp s q 2) q cmdMemoryError)
      | some w =>
        let c := readContext w
        if c.tenant ≠ p.ctx.tenant || c.operator ≠ p.ctx.operator then
          .next (cmdEnd s q cmdTenantMismatch)
        else if !c.valid then .next (cmdEnd s q cmdContextInvalid)
        else
          let s := s.onQp q fun p =>
            { p with state := .enabled, cause := 0, ctx := c, held := [],
                     flight := latchFlight p.flight false }
          let s := queueEvent s q 4 p.sqNext (BitVec.ofNat 64 p.held.length)
          let s := writeAborted (writeHeld s q p.held) q
          .next (cmdEnd (readmit (finishEnded (drainFlight 64 s q))) q cmdDone)

/-- Take a queue pair's flue records out of the bellows (R61, R104). -/
def dropRecords (s : State) (q : Nat) : State :=
  s.onBellow 6 fun b =>
    { b with
      classes := b.classes.map fun c =>
        { c with
          queue := c.queue.filter fun f => match f.payload with
            | .record q' _ => q' != q
            | _ => true } }

/-- A descriptor that DISABLE has ended and that runs on takes an origin of its own beyond the queue pairs, so that the
sequence numbers of its queue pair are free again (R66, R104). -/
def orphan (s : State) (o : Origin) : State :=
  match o with
  | .qp _ seq => (renameOrigin s o (.qp (8192 + s.host.orphans) seq)).onHost fun h => { h with orphans := h.orphans + 1 }
  | .ridge _ _ => s

/-- End one descriptor for a DISABLE: no completion, no record; what it leaves is Table 5.13's (R104). One that no cancel
ends runs to completion (notes/assumptions/151.md). -/
def endForDisable (s : State) (d : InFlight) : State :=
  let s := s.onDescriptor d.origin fun d => { d with discard := true }
  match d.phase with
  | .sent _ _ => (cancelWork s { d with discard := true }).2
  | .running =>
    let s := (cancelWork s { d with discard := true }).2
    match s.descriptor d.origin with
    | some e => if e.phase = .running then orphan s d.origin else dropDescriptor s d.origin
    | none => s
  | _ => dropDescriptor s d.origin

/-- QP_DISABLE (R61, R104): every descriptor in flight and every held entry ends; busy stands while another
part has yet to acknowledge an end. -/
def execQpDisable (q : Nat) (s : State) : Answer :=
  if !takesCommand s then .next s
  else if !s.host.attached then .next (cmdEnd s q cmdNotAttached)
  else
    let p := s.qp q
    if p.state = .disabled || p.state = .enabled then .next (cmdEnd s q cmdBadState)
    else
      let s := (s.inflightOf q).foldl endForDisable s
      let s := dropRecords s q
      let s := s.onQp q fun p =>
        { p with state := .disabled, cause := 0, held := [], reReads := 0, signal := 0,
                 signalAt := none, flueLock := none,
                 flight := { p.flight with held := [],
                                           dropped := sat 32 (p.flight.dropped + p.flight.held.length) } }
      let s := readmit (finishEnded s)
      let away := s.desc.any fun d => fromQueue q d && match d.phase with
        | .sent _ _ => true
        | _ => false
      let s := cmdEnd s q cmdDone
      .next (if away then s.onHost fun h => { h with cmdBusy := true, cmdAt := s.localNs } else s)

/-- QP_DISABLE_DONE (R104): busy clears once every part concerned has acknowledged, or after 100 µs. -/
def execQpDisableDone (q : Nat) (s : State) : Answer :=
  let away := s.desc.any fun d => fromQueue q d && match d.phase with
    | .sent _ _ => true
    | _ => false
  if s.host.cmdBusy && s.host.cmdQp = q && (!away || s.host.cmdAt + us 100 ≤ s.localNs) then
    .next ((s.onDesc fun l => l.filter fun d => !(fromQueue q d && d.discard && match d.phase with
        | .sent _ _ => true
        | _ => false)).onHost fun h => { h with cmdBusy := false })
  else .next s

/-- FLUE_HEAD_WRITE (R69, R80): sessions that sat out for room are taken up again. -/
def execFlueHeadWrite (q : Nat) (val : Word) (s : State) : Answer :=
  let p := s.qp q
  let v : Seq := BitVec.ofNat 32 (fld val 31 0)
  if !hasRings s q || v = p.flueHead then .next s
  else if dist p.flueHead v ≤ dist p.flueHead p.flueNext then
    .next (readmit (s.onQp q fun p => { p with flueHead := v }))
  else .next (doorbellBad s q 2 v)

/-- QUEUE_CANCEL (R77): an earlier descriptor of the same queue pair, in flight, ends with CANCELLED before
this one completes with result 1; otherwise result 0 (notes/assumptions/53.md). -/
def execQueueCancel (o : Origin) (s : State) : Answer :=
  match canStart s o opCancel, o with
  | some d, .qp q own =>
    let seq : Seq := BitVec.ofNat 32 (fld d.raw 287 256)
    match s.descriptor (.qp q seq) with
    | some t =>
      if seqBefore seq own then
        let (ended, s') := cancelWork s t
        if ended then
          .next (readmit (finishEnded (releaseFences (s'.onDescriptor o fun d => { d with phase := .follows t.origin 1 }))))
        else .next (complete s' o [] 0)
      else .next (complete s o [] 0)
    | none => .next (complete s o [] 0)
  | some _, .ridge _ _ => .next (complete s o [] 0)
  | none, _ => .next s

end Sys2Proof.Machine
end

