-- ==== Sys2Proof/Machine/Tiers.lean ====
section
/-!
DEFINITION. The meanings of the background work of the tiers (R121, R126, R128, R129, R342):
MIGRATION_SWITCH, AUTO_PARK, DEMOTION, PROMOTION, FOOTHILL_CLEAR.
-/

namespace Sys2Proof.Machine

/-- Hearth fill in percent of the room left after loads; frames that await a clear count as full
(Table 6.14). -/
def hearthPct (s : State) : Nat := 100 * s.tie.frames.length / max 1 (hearthRoom s)

/-- MIGRATION_SWITCH (R121, R129): a page copy ends; a good one switches the page, a failed one leaves it at its
source. A page whose extent is being revoked begins again. -/
def execMigrationSwitch (slot page : Nat) (ok : Bool) (s : State) : Answer :=
  match s.session slot with
  | none => .next s
  | some x =>
    match x.pages.find? fun p => p.index == page with
    | none => .next s
    | some p =>
      match p.target with
      | none => .next s
      | some t =>
        if s.pwr.heldNow || copyWaits s t then .next s
        else
          let stay := setPage s slot { p with target := none }
          .next (relocateAgain (if ok then (switchPage s x p t).getD stay else stay))

/-- AUTO_PARK (R126): above hearth_high the oldest candidate that has a tier is parked (notes/assumptions/64.md). -/
def execAutoPark (s : State) : Answer :=
  if !s.pwr.ready || s.pwr.heldNow || !autoParks s || hearthPct s ≤ fld s.tie.placeCtl 15 8 then .next s
  else .next (((parkCandidates s).findSome? (autoPark s)).getD s)

/-- DEMOTION (R128, R129): above foothill_high the pages of the session parked longest ago are copied to the
pool; each switches at its own MIGRATION_SWITCH. Relocations that were stopped begin again. -/
def execDemotion (s : State) : Answer :=
  if !s.pwr.ready || s.pwr.heldNow then .next s
  else
    let s := relocateAgain s
    if foothillPct s 0 ≤ fld s.tie.placeCtl 23 16 then .next s
    else match (demotable s).findSome? fun x => (demotionPlaces s x).map fun pl => (x, pl) with
      | none => .next s
      | some (x, places) =>
        .next (((x.pages.filter demotes).zip places).foldl (fun s (p, e, f) => startCopy s x p (.pool e f)) s)

/-- Parked sessions that promotion may bring back, the one parked most recently first. -/
def promotable (s : State) : List Session :=
  sortBy (fun (a b : Session) => decide (b.parkedAt < a.parkedAt))
    (s.ses.table.filter fun x => x.state = .parked && !isActive x && mayMigrate s x &&
      x.pages.any promotes && !(x.pages.any fun p => p.target.isSome))

/-- PROMOTION (R128): below foothill_low the pages of the session parked most recently are copied back,
unless the fill would pass foothill_low. -/
def execPromotion (s : State) : Answer :=
  let low := fld s.tie.placeCtl 31 24
  if !s.pwr.ready || s.pwr.heldNow || low ≤ foothillPct s 0 then .next s
  else match promotable s with
    | [] => .next s
    | x :: _ =>
      let g := ((x.pages.filter promotes).map pageGranules).sum
      if low < foothillPct s (homeward s + g) then .next s
      else .next ((x.pages.filter promotes).foldl (fun s p => startCopy s x p .home) s)

/-- FOOTHILL_CLEAR (R341, R342): the oldest uncleared granules are cleared and verified; a granule that
fails is cleared again, and retired when it fails a second time; every failure is an isolation event. A lent
extent goes on as a whole once it is cleared (R299, R301). -/
def execFoothillClear (verified : Bool) (s : State) : Answer :=
  if !s.pwr.ready || s.pwr.heldNow then .next s
  else match s.tie.uncleared with
    | [] => .next s
    | u :: rest =>
      let cleared := fun (s : State) =>
        let s := s.onTie fun t => { t with uncleared := rest }
        match u.extent with
        | some e => extentCleared s e
        | none => s
      if verified then .next (cleared s)
      else
        let s := isolation s 3 u.tenant
        if u.failed then
          .next (cleared (s.onTie fun t => { t with retiredGranules := t.retiredGranules + 1 }))
        else .next (s.onTie fun t =>
          { t with uncleared :=
              { u with granules := if u.extent.isSome then u.granules else 1, failed := true } :: rest })

end Sys2Proof.Machine
end

