-- ==== Sys2Proof/Machine/Dispatch.lean ====
section
/-!
DEFINITION. One arm per command: a direct call of its meaning.
-/

namespace Sys2Proof.Machine

def exec (i : Instr) (s : State) : Host.Outcome State Fault Refusal :=
  match i with
  | .registerWrite off width val => Sys2Proof.Machine.execRegisterWrite off width val s
  | .powerOnReset => Sys2Proof.Machine.execPowerOnReset s
  | .sequenceFault r => Sys2Proof.Machine.execSequenceFault r s
  | .porstNAssert temps => Sys2Proof.Machine.execPorstNAssert temps s
  | .porstNRelease straps boot failedBanks => Sys2Proof.Machine.execPorstNRelease straps boot failedBanks s
  | .foothillTrainingDone failed => Sys2Proof.Machine.execFoothillTrainingDone failed s
  | .ridgeTrainingDone port lanes partnerPart => Sys2Proof.Machine.execRidgeTrainingDone port lanes partnerPart s
  | .startupComplete => Sys2Proof.Machine.execStartupComplete s
  | .coldRestart boot failedBanks => Sys2Proof.Machine.execColdRestart boot failedBanks s
  | .warmrstNAssert => Sys2Proof.Machine.execWarmrstNAssert s
  | .warmrstNRelease marginFails => Sys2Proof.Machine.execWarmrstNRelease marginFails s
  | .warmResetRecoveryEnd => Sys2Proof.Machine.execWarmResetRecoveryEnd s
  | .watchdogFire => Sys2Proof.Machine.execWatchdogFire s
  | .thermalTrip t => Sys2Proof.Machine.execThermalTrip t s
  | .thermalThrottle t => Sys2Proof.Machine.execThermalThrottle t s
  | .thermalThrottleRelease c => Sys2Proof.Machine.execThermalThrottleRelease c s
  | .extendedRefreshChange above => Sys2Proof.Machine.execExtendedRefreshChange above s
  | .throttleNAssert => Sys2Proof.Machine.execThrottleNAssert s
  | .throttleNRelease => Sys2Proof.Machine.execThrottleNRelease s
  | .powerCapEvaluation windowWatts milliWatts coreAmps railAmps => Sys2Proof.Machine.execPowerCapEvaluation windowWatts milliWatts coreAmps railAmps s
  | .dipEpisodeBegin r c => Sys2Proof.Machine.execDipEpisodeBegin r c s
  | .railRecovered r => Sys2Proof.Machine.execRailRecovered r s
  | .dipEpisodeEnd => Sys2Proof.Machine.execDipEpisodeEnd s
  | .supplyReset c => Sys2Proof.Machine.execSupplyReset c s
  | .marginCheck l eye celsius => Sys2Proof.Machine.execMarginCheck l eye celsius s
  | .retrainEnd l celsius => Sys2Proof.Machine.execRetrainEnd l celsius s
  | .hostLinkUp modules half rate repairs => Sys2Proof.Machine.execHostLinkUp modules half rate repairs s
  | .hostLinkDown => Sys2Proof.Machine.execHostLinkDown s
  | .attach val => Sys2Proof.Machine.execAttach val s
  | .qpTableBaseWrite val => Sys2Proof.Machine.execQpTableBaseWrite val s
  | .qpEnable q ctx => Sys2Proof.Machine.execQpEnable q ctx s
  | .qpFreeze q => Sys2Proof.Machine.execQpFreeze q s
  | .qpResume q ctx => Sys2Proof.Machine.execQpResume q ctx s
  | .qpSnapshot q write => Sys2Proof.Machine.execQpSnapshot q write s
  | .qpDisable q => Sys2Proof.Machine.execQpDisable q s
  | .qpDisableDone q => Sys2Proof.Machine.execQpDisableDone q s
  | .sqTailWrite q val => Sys2Proof.Machine.execSqTailWrite q val s
  | .cqHeadWrite q val => Sys2Proof.Machine.execCqHeadWrite q val s
  | .flueHeadWrite q val => Sys2Proof.Machine.execFlueHeadWrite q val s
  | .flightHeadWrite q val => Sys2Proof.Machine.execFlightHeadWrite q val s
  | .descriptorFetch q desc => Sys2Proof.Machine.execDescriptorFetch q desc s
  | .seqReread q desc => Sys2Proof.Machine.execSeqReread q desc s
  | .dmaError q about addr ringOk => Sys2Proof.Machine.execDmaError q about addr ringOk s
  | .irqCoalesceTimeout q => Sys2Proof.Machine.execIrqCoalesceTimeout q s
  | .nop o => Sys2Proof.Machine.execNop o s
  | .queueCancel o => Sys2Proof.Machine.execQueueCancel o s
  | .sessionOpen o param slot => Sys2Proof.Machine.execSessionOpen o param slot s
  | .sessionAppend w param => Sys2Proof.Machine.execSessionAppend w param s
  | .sessionGenerate w param => Sys2Proof.Machine.execSessionGenerate w param s
  | .sessionPark w => Sys2Proof.Machine.execSessionPark w s
  | .sessionRevive o twin phase => Sys2Proof.Machine.execSessionRevive o twin phase s
  | .sessionMove w answer => Sys2Proof.Machine.execSessionMove w answer s
  | .moveRoundEnd r => Sys2Proof.Machine.execMoveRoundEnd r s
  | .moveHandover slot => Sys2Proof.Machine.execMoveHandover slot s
  | .sessionSnapshot w slot => Sys2Proof.Machine.execSessionSnapshot w slot s
  | .sessionClose o => Sys2Proof.Machine.execSessionClose o s
  | .deadlineExpire o => Sys2Proof.Machine.execDeadlineExpire o s
  | .stubExpire slot => Sys2Proof.Machine.execStubExpire slot s
  | .migrationSwitch slot page ok => Sys2Proof.Machine.execMigrationSwitch slot page ok s
  | .autoPark => Sys2Proof.Machine.execAutoPark s
  | .demotion => Sys2Proof.Machine.execDemotion s
  | .promotion => Sys2Proof.Machine.execPromotion s
  | .foothillClear verified => Sys2Proof.Machine.execFoothillClear verified s
  | .activationFrame f => Sys2Proof.Machine.execActivationFrame f s
  | .stepCommit batch cols => Sys2Proof.Machine.execStepCommit batch cols s
  | .buddyAcknowledge slot => Sys2Proof.Machine.execBuddyAcknowledge slot s
  | .grammarMask slot column => Sys2Proof.Machine.execGrammarMask slot column s
  | .tokenise o segment trust text => Sys2Proof.Machine.execTokenise o segment trust text s
  | .draftPass batch drafts => Sys2Proof.Machine.execDraftPass batch drafts s
  | .draftRefill slot => Sys2Proof.Machine.execDraftRefill slot s
  | .prefillChunkEnd slot => Sys2Proof.Machine.execPrefillChunkEnd slot s
  | .workItemEnd island e => Sys2Proof.Machine.execWorkItemEnd island e s
  | .splitInterval m => Sys2Proof.Machine.execSplitInterval m s
  | .embedBatch o param outputs => Sys2Proof.Machine.execEmbedBatch o param outputs s
  | .tuneStep w param loss sums => Sys2Proof.Machine.execTuneStep w param loss sums s
  | .imageLoad o image tenants group => Sys2Proof.Machine.execImageLoad o image tenants group s
  | .imageLoadComplete slot => Sys2Proof.Machine.execImageLoadComplete slot s
  | .stageWaitTimeout slot => Sys2Proof.Machine.execStageWaitTimeout slot s
  | .imageUnload o => Sys2Proof.Machine.execImageUnload o s
  | .variantLoad o param stagesFit => Sys2Proof.Machine.execVariantLoad o param stagesFit s
  | .variantRemove o => Sys2Proof.Machine.execVariantRemove o s
  | .workTableWrite ember entry val => Sys2Proof.Machine.execWorkTableWrite ember entry val s
  | .idle summit cmd => Sys2Proof.Machine.execIdle summit cmd s
  | .matvec summit cmd acts scales errs => Sys2Proof.Machine.execMatvec summit cmd acts scales errs s
  | .score summit cmd acts scales errs => Sys2Proof.Machine.execScore summit cmd acts scales errs s
  | .bindot summit cmd acts errs => Sys2Proof.Machine.execBindot summit cmd acts errs s
  | .kvwrite summit cmd acts saturated errs => Sys2Proof.Machine.execKvwrite summit cmd acts saturated errs s
  | .summary summit cmd errs => Sys2Proof.Machine.execSummary summit cmd errs s
  | .topkLocal summit cmd => Sys2Proof.Machine.execTopkLocal summit cmd s
  | .clear summit cmd slackNs errs => Sys2Proof.Machine.execClear summit cmd slackNs errs s
  | .copyrow summit c => Sys2Proof.Machine.execCopyrow summit c s
  | .refreshDue summit => Sys2Proof.Machine.execRefreshDue summit s
  | .patrolScrub ember row slackNs errs => Sys2Proof.Machine.execPatrolScrub ember row slackNs errs s
  | .retireBank ember => Sys2Proof.Machine.execRetireBank ember s
  | .bankRetireComplete ember => Sys2Proof.Machine.execBankRetireComplete ember s
  | .directModeSet val => Sys2Proof.Machine.execDirectModeSet val s
  | .patternWrite val => Sys2Proof.Machine.execPatternWrite val s
  | .patternCheck c => Sys2Proof.Machine.execPatternCheck c s
  | .emberTest val failing => Sys2Proof.Machine.execEmberTest val failing s
  | .ucodeLoad val => Sys2Proof.Machine.execUcodeLoad val s
  | .rowRepair val => Sys2Proof.Machine.execRowRepair val s
  | .marginScan val fails => Sys2Proof.Machine.execMarginScan val fails s
  | .dmcReturn val => Sys2Proof.Machine.execDmcReturn val s
  | .dmcBadOperation val => Sys2Proof.Machine.execDmcBadOperation val s
  | .searchQuery o param poisoned => Sys2Proof.Machine.execSearchQuery o param poisoned s
  | .scanTurn summit span => Sys2Proof.Machine.execScanTurn summit span s
  | .indexInsert o param => Sys2Proof.Machine.execIndexInsert o param s
  | .indexDelete o param => Sys2Proof.Machine.execIndexDelete o param s
  | .indexDrop o => Sys2Proof.Machine.execIndexDrop o s
  | .indexCreate o param slot => Sys2Proof.Machine.execIndexCreate o param slot s
  | .indexMerge o => Sys2Proof.Machine.execIndexMerge o s
  | .mergeFreeOld slot => Sys2Proof.Machine.execMergeFreeOld slot s
  | .hostMemRead off errs => Sys2Proof.Machine.execHostMemRead off errs s
  | .hostMemWrite off data => Sys2Proof.Machine.execHostMemWrite off data s
  | .requestFrame f req => Sys2Proof.Machine.execRequestFrame f req s
  | .responseFrame f body => Sys2Proof.Machine.execResponseFrame f body s
  | .invalidate f region line => Sys2Proof.Machine.execInvalidate f region line s
  | .invalidateAcknowledge f region line => Sys2Proof.Machine.execInvalidateAcknowledge f region line s
  | .mapFrame f body => Sys2Proof.Machine.execMapFrame f body s
  | .acknowledge f => Sys2Proof.Machine.execAcknowledge f s
  | .keepalive f offer => Sys2Proof.Machine.execKeepalive f offer s
  | .pageData f kind page data => Sys2Proof.Machine.execPageData f kind page data s
  | .retransmitTimeout addr => Sys2Proof.Machine.execRetransmitTimeout addr s
  | .keepaliveSend => Sys2Proof.Machine.execKeepaliveSend s
  | .peerSuspect addr => Sys2Proof.Machine.execPeerSuspect addr s
  | .partDownDetect part => Sys2Proof.Machine.execPartDownDetect part s
  | .peerLostTimeout part => Sys2Proof.Machine.execPeerLostTimeout part s
  | .mapPropose change => Sys2Proof.Machine.execMapPropose change s
  | .mapCommit changes => Sys2Proof.Machine.execMapCommit changes s
  | .leaderElection winner term => Sys2Proof.Machine.execLeaderElection winner term s
  | .mapWaitTimeout o => Sys2Proof.Machine.execMapWaitTimeout o s
  | .ridgePortStateChange port state => Sys2Proof.Machine.execRidgePortStateChange port state s
  | .linkKeyExchange addr offer => Sys2Proof.Machine.execLinkKeyExchange addr offer s
  | .linkRekey addr => Sys2Proof.Machine.execLinkRekey addr s
  | .extentLend o => Sys2Proof.Machine.execExtentLend o s
  | .extentClaim extent => Sys2Proof.Machine.execExtentClaim extent s
  | .extentRelease extent => Sys2Proof.Machine.execExtentRelease extent s
  | .extentRevoke o => Sys2Proof.Machine.execExtentRevoke o s
  | .gracePeriodEnd extent => Sys2Proof.Machine.execGracePeriodEnd extent s
  | .regionCreate o => Sys2Proof.Machine.execRegionCreate o s
  | .regionMap o => Sys2Proof.Machine.execRegionMap o s
  | .regionUnmap o => Sys2Proof.Machine.execRegionUnmap o s
  | .regionPublish o => Sys2Proof.Machine.execRegionPublish o s
  | .regionPublishQuery o => Sys2Proof.Machine.execRegionPublishQuery o s
  | .twinPropose val => Sys2Proof.Machine.execTwinPropose val s
  | .twinOutOfService => Sys2Proof.Machine.execTwinOutOfService s
  | .twinInService => Sys2Proof.Machine.execTwinInService s
  | .twinRestore floor entries sessions => Sys2Proof.Machine.execTwinRestore floor entries sessions s
  | .takeover standby => Sys2Proof.Machine.execTakeover standby s
  | .cairnWrite w held writeOk => Sys2Proof.Machine.execCairnWrite w held writeOk s
  | .cairnArm o => Sys2Proof.Machine.execCairnArm o s
  | .cairnDisarm o => Sys2Proof.Machine.execCairnDisarm o s
  | .cairnRestore o a b stagesFit slot => Sys2Proof.Machine.execCairnRestore o a b stagesFit slot s
  | .cairnDue w held writeOk => Sys2Proof.Machine.execCairnDue w held writeOk s
  | .earlyWarningCheck foothill ridge => Sys2Proof.Machine.execEarlyWarningCheck foothill ridge s
  | .fwBlockWrite o digest data flashOk => Sys2Proof.Machine.execFwBlockWrite o digest data flashOk s
  | .fwBlockVerify o => Sys2Proof.Machine.execFwBlockVerify o s
  | .fwBlockActivate o => Sys2Proof.Machine.execFwBlockActivate o s
  | .fwBlockAbort o => Sys2Proof.Machine.execFwBlockAbort o s
  | .firmwareSwitch => Sys2Proof.Machine.execFirmwareSwitch s
  | .quiesceTimeout => Sys2Proof.Machine.execQuiesceTimeout s
  | .quiesceRetry => Sys2Proof.Machine.execQuiesceRetry s
  | .imageConfirm allCores allDies => Sys2Proof.Machine.execImageConfirm allCores allDies s
  | .confirmWindowExpire => Sys2Proof.Machine.execConfirmWindowExpire s
  | .fwReject val => Sys2Proof.Machine.execFwReject val s
  | .recoveryDownload val => Sys2Proof.Machine.execRecoveryDownload val s
  | .recoveryDownloadDone image flashOk failedBanks => Sys2Proof.Machine.execRecoveryDownloadDone image flashOk failedBanks s
  | .getVersion => Sys2Proof.Machine.execGetVersion s
  | .getCapabilities => Sys2Proof.Machine.execGetCapabilities s
  | .negotiateAlgorithms ecdsaP384 sha384 => Sys2Proof.Machine.execNegotiateAlgorithms ecdsaP384 sha384 s
  | .getDigests => Sys2Proof.Machine.execGetDigests s
  | .getCertificate slot offset length => Sys2Proof.Machine.execGetCertificate slot offset length s
  | .challenge slot nonce => Sys2Proof.Machine.execChallenge slot nonce s
  | .getMeasurements index nonce => Sys2Proof.Machine.execGetMeasurements index nonce s
  | .spdmUnsupportedRequest code => Sys2Proof.Machine.execSpdmUnsupportedRequest code s
  | .trngHealthFail => Sys2Proof.Machine.execTrngHealthFail s
  | .tenantCounterRefresh tenant => Sys2Proof.Machine.execTenantCounterRefresh tenant s
  | .tenantPowerRefresh watts => Sys2Proof.Machine.execTenantPowerRefresh watts s
  | .bellowsFrameBoundary port => Sys2Proof.Machine.execBellowsFrameBoundary port s
  | .gateEntryBoundary port => Sys2Proof.Machine.execGateEntryBoundary port s
  | .gclCommit val => Sys2Proof.Machine.execGclCommit val s
  | .gclDiscard val => Sys2Proof.Machine.execGclDiscard val s
  | .gclTakeEffect port => Sys2Proof.Machine.execGclTakeEffect port s
  | .shaperWrite val => Sys2Proof.Machine.execShaperWrite val s
  | .damperWrite reg val => Sys2Proof.Machine.execDamperWrite reg val s
  | .injectDisarm val => Sys2Proof.Machine.execInjectDisarm val s
  | .injectCorrectedError val => Sys2Proof.Machine.execInjectCorrectedError val s
  | .injectUncorrectableError val => Sys2Proof.Machine.execInjectUncorrectableError val s
  | .injectPageCheckFail val => Sys2Proof.Machine.execInjectPageCheckFail val s
  | .injectFrameTagFail val => Sys2Proof.Machine.execInjectFrameTagFail val s
  | .injectSupplyHold val => Sys2Proof.Machine.execInjectSupplyHold val s
  | .railRise r => Sys2Proof.Machine.execRailRise r s
  | .hostModuleLost m => Sys2Proof.Machine.execHostModuleLost m s
  | .epochApplyTimeout o => Sys2Proof.Machine.execEpochApplyTimeout o s

end Sys2Proof.Machine
end

