-- ==== Sys2Proof/Machine/Readout.lean ====
section
/-!
DEFINITION. What a read of the register window returns (R6, R7, R38, R385, R386, R392): for each register of Table 19.1
its fields, as (high bit, low bit, value). A WO field reads zero; the bits of no field are reserved and read as free
values.
-/

namespace Sys2Proof.Machine

/-- A register's fields. -/
abbrev Fields := List (Nat × Nat × Nat)

/-- A bit as a field. -/
def flag (i : Nat) (b : Bool) : Nat × Nat × Nat := (i, i, if b then 1 else 0)

/-- The fields of a stored word. -/
def fieldsOf (w : Word) (places : List (Nat × Nat)) : Fields := places.map fun (hi, lo) => (hi, lo, fld w hi lo)

/-- The values of the fields in place. -/
def Fields.value (f : Fields) : Nat := (f.map fun (hi, lo, v) => put hi lo v).sum

/-- The bits that fields cover. -/
def Fields.mask (f : Fields) : Nat := (f.map fun (hi, lo, _) => put hi lo (2 ^ (hi + 1 - lo) - 1)).sum

/-! ### ID_ (R386) -/

/-- Retired foothill channels. -/
def channelsOut (s : State) : Nat := (s.pwr.links.filter fun l => l.retired && l.link < 96).length
/-- Retired ridge lanes. -/
def lanesOut (s : State) : Nat := (s.pwr.links.filter fun l => l.retired && 96 ≤ l.link).length
/-- Stoves in service. -/
def stovesUp (s : State) : Nat := (s.stv.islands.map (·.stoves)).sum
/-- Hearth banks in service. -/
def banksUp (s : State) : Nat := 3072 - banksRetired s

/-- The capability registers, from start-up's step 9 on (Tables 19.3 to 19.10). -/
def capFields (s : State) (off : Nat) : Fields :=
  let compat := s.host.compat
  match off with
  | 0x08 => [(13, 0, 8192), (27, 16, 2048), (36, 32, 6), (41, 37, 16), (60, 48, 4096)]
  | 0x10 => [(20, 0, slotLimit s - (s.ses.retired.filter fun n => n < slotLimit s).length), (44, 32, 4096),
             (58, 48, if compat then 32 else 1024)]
  | 0x18 => [(18, 0, 262144), (27, 24, 8), (44, 32, 4096), (53, 48, 32)]
  | 0x20 => [(11, 0, banksUp s), (36, 16, 512 * banksUp s), (44, 40, 24)]
  | 0x28 => [(6, 0, 96 - channelsOut s), (28, 8, foothillTotal s / 2048)]
  | 0x30 => [(8, 0, stovesUp s), (22, 16, 64), (27, 24, s.knd.units), (36, 32, s.tie.grates), (49, 40, 512)]
  | 0x38 => [(10, 0, 1024), (21, 16, 48 - lanesOut s), (32, 24, 256), (46, 36, 1024), (63, 48, 32768)]
  | _ => [(4, 0, 16), (9, 5, 26), (14, 10, 8), (19, 15, 6), (24, 20, 5), (29, 25, 6), (46, 32, 16384),
          (52, 48, 18), (62, 53, 512)]

/-- ID_ registers (Table 19.2, R386): capabilities read zero until start-up's step 9. -/
def idFields (s : State) (off : Nat) : Option Fields :=
  if off = 0 then some [(15, 0, 0x9140), (23, 16, 1)]
  else if off ≤ 0x40 then
    some (if s.pwr.everReady then capFields s off else (capFields s off).map fun (hi, lo, _) => (hi, lo, 0))
  else none

/-! ### HST_ (Tables 4.16 to 4.22, 4.8, 15.10) -/

/-- HST_ set-up registers. -/
def hstFields (s : State) (off : Nat) : Option Fields :=
  let h := s.host
  match off with
  | 0x1000 => some [(3, 0, h.modulesUp.toNat), (6, 4, h.rate), flag 7 (h.modulesUp != 0), (11, 8, h.halfWidth.toNat),
      (31, 24, sat 8 h.laneRepairs), flag 32 h.linkDrop]
  | 0x1008 => some [(15, 0, 2)]
  | 0x1010 => some (fieldsOf h.attachReg [(3, 0), (4, 4)] ++ [(8, 8, 0)])
  | 0x1018 => some [flag 0 h.attached, flag 1 h.compat, (7, 4, h.version), (31, 16, h.attachStatus.toNat)]
  | 0x1020 => some (fieldsOf h.tableBase [(63, 12)])
  | 0x1028 => some [(12, 0, 0), (18, 16, 0)]
  | 0x1030 => some [flag 0 h.cmdBusy, (3, 1, h.cmdResult), (28, 16, h.cmdQp), (33, 32, h.cmdState.num)]
  | _ => none

/-- A session's generation has been fetched on queue pair q and sits out steps for lack of flue space (R80). -/
def flueStalled (s : State) (q : Nat) : Bool :=
  s.ses.table.any fun x => x.gener.any fun g => g.stalled && match g.origin with
    | .qp p _ => p == q
    | .ridge _ _ => false

/-- The doorbell page of queue pair q (Tables 4.6 to 4.8, 15.10 to 15.12; notes/assumptions/146.md). -/
def doorbellFields (s : State) (q off : Nat) : Option Fields :=
  let p := s.qp q
  let counts := (lookupBy (·.tenant) p.ctx.tenant s.host.tenants).getD { tenant := p.ctx.tenant }
  match off with
  | 0x000 | 0x008 | 0x010 | 0x020 => some [(31, 0, 0)]
  | 0x018 => some [(31, 0, p.sqNext.toNat), (33, 32, p.state.num), (37, 34, p.shownCause), flag 38 (flueStalled s q),
      (57, 48, (s.inflightOf q).length)]
  | 0x830 => some [(10, 0, s.host.powerLatched)]
  | 0x838 => some [(63, 0, counts.updates)]
  | _ => if 0x800 ≤ off && off < 0x830 && off % 8 = 0 then some [(63, 0, (counts.latched[(off - 0x800) / 8]?).getD 0)]
         else none

/-! ### TND_ (Tables 5.11, 5.16 to 5.21, 8.14, 8.15, 9.5) -/

/-- Sessions with a sweep column here. -/
def columnsHeld (s : State) : Nat := (dedup ((s.ses.batches.map (·.columns)).flatten.map (·.1))).length

/-- The request-table state of a slot (Table 5.17). -/
def rqtState (s : State) (slot : Nat) : Nat :=
  match s.session slot with
  | none => 5
  | some x =>
    if x.state = .free then 0
    else if x.state = .lost then 5
    else if x.prefill.isSome then 2
    else if x.gener.isSome then 3
    else if waitersOn s (sessionHandle s x) != 0 then 4
    else 1

/-- The running descriptor's remaining deadline in µs (Table 5.18). -/
def rqtDeadline (s : State) (x : Session) : Nat :=
  ((s.desc.find? fun d => namesSession d.raw && dHandle d.raw == sessionHandle s x && d.phase == .running).map fun d =>
    deadlineLeft s d.deadline).getD 0

/-- An image slot's state (Table 8.15). -/
def ImageState.num : ImageState → Nat
  | .empty => 0 | .loading => 1 | .waiting => 2 | .ready => 3 | .unloading => 4

/-- TND_IMAGE_STATUS_n (Table 8.15). -/
def imageFields (s : State) (n : Nat) : Fields :=
  let i := s.image n
  let mine := s.ses.table.filter fun x => openSession x && iSlot x.image == n && i.state != .empty
  let swept := (s.ses.batches.filter fun b => b.image == n && !b.columns.isEmpty).length +
    (s.ses.passing.filter fun p => p.1 == n).length
  [(2, 0, i.state.num), (9, 4, i.stage), (15, 10, if i.state = .empty then 0 else i.stages % 32), (35, 16, mine.length), (43, 36, swept),
   (63, 48, i.variants.length)]

/-- TND_ registers. -/
def tndFields (s : State) (off : Nat) : Option Fields :=
  let t := s.ses
  let mine := t.table.filter openSession
  let k := fld t.rqtIndex 11 0
  let x := (s.session k).getD { slot := k }
  let only := fun (f : Fields) => some (if s.host.compat then f else [(63, 0, 0)])
  if 0x10080 ≤ off && off < 0x100C0 && off % 8 = 0 then some (imageFields s ((off - 0x10080) / 8))
  else if 0x10100 ≤ off && off < 0x10140 && off % 8 = 0 then
    some (fieldsOf ((t.tclass[(off - 0x10100) / 8]?).getD 0) [(0, 0), (1, 1), (2, 2), (3, 3)])
  else if 0x10140 ≤ off && off < 0x10180 && off % 8 = 0 then
    some (fieldsOf ((t.kvclass[(off - 0x10140) / 8]?).getD 0) [(8, 0), (25, 16), (26, 26), (42, 32)])
  else match off with
  | 0x10000 => some (fieldsOf t.moveCtl [(7, 0), (12, 8), (31, 16)])
  | 0x10008 => some [(20, 0, mine.length), (41, 21, (mine.filter fun x => x.state == .parked).length),
      (54, 42, columnsHeld s), flag 55 t.suspendedSeen]
  | 0x10010 => some [(21, 0, t.floor), (41, 22, t.retired.length)]
  | 0x10018 => some (fieldsOf t.decodeCtl [(3, 0), (4, 4), (23, 16)])
  | 0x10040 => only [(11, 0, k)]
  | 0x10048 => only [(3, 0, rqtState s k), (10, 8, priorityOf s k), (35, 16, x.log.length),
      (63, 36, Config.pageList k)]
  | 0x10050 => only [(31, 0, rqtDeadline s x), (47, 32, x.pages.length)]
  | _ => none

/-! ### TIE_, HRT_ (Tables 6.12 to 6.16, 7.11 to 7.19) -/

/-- Coded ratio of the last second in thousandths (Table 6.15). -/
def ratioMilli (s : State) : Nat :=
  let c := s.tie.codedBytes.last (s.localNs / 1000000000)
  if c = 0 then 0 else sat 16 (1000 * s.tie.plainBytes.last (s.localNs / 1000000000) / c)

/-- TIE_ registers. -/
def tieFields (s : State) (off : Nat) : Option Fields :=
  let t := s.tie
  match off with
  | 0x20000 => some (fieldsOf t.placeCtl [(0, 0), (1, 1), (2, 2), (15, 8), (23, 16), (31, 24), (47, 32), (55, 48)])
  | 0x20008 => some (fieldsOf t.crestCtl [(5, 0)])
  | 0x20010 => some [(6, 0, hearthPct s), (14, 8, foothillPct s 0), (22, 16, Config.crestPct s.freeCount),
      (51, 32, (s.rdg.borrowed.filter (·.granted)).length)]
  | 0x20018 => some [(4, 0, t.grates), (23, 8, ratioMilli s), (47, 32, t.tagFailures)]
  | 0x20020 => some [(15, 0, t.staleRepaired), (31, 16, t.failedRepaired), (47, 32, t.conflicts),
      flag 48 t.conflictSeen]
  | _ => none

/-- A bank's state (Table 7.16). -/
def BankState.num : BankState → Nat
  | .inService => 0 | .retiring => 1 | .retired => 2 | .failed => 3

/-- HRT_ registers. -/
def hrtFields (s : State) (off : Nat) : Option Fields :=
  let h := s.hrt
  let e := s.ember (selEmber s)
  match off with
  | 0x30000 => some (fieldsOf h.shareCtl [(4, 0), (13, 8), (16, 16)])
  | 0x30008 => some [(31, 0, h.corrected), (47, 32, h.uncorrectable), flag 48 h.ueSeen, (53, 49, h.ueDie),
      (60, 54, h.ueBank)]
  | 0x30010 => some [flag 0 s.pwr.extended, (31, 16, h.forced), (35, 32, h.maxOwed)]
  | 0x30018 => some (fieldsOf h.sel [(4, 0), (14, 8), (15, 15)])
  | 0x30020 => some [(1, 0, if h.dieDirect.contains (selDie s) then 1 else 0), flag 2 h.dieBusy, (3, 3, 0)]
  | 0x30028 => some [(1, 0, e.state.num), (8, 2, 64 - e.repairs.length), (31, 16, e.corrected), (39, 32, e.uncorrectable),
      flag 40 e.testPassed]
  | 0x30030 => some [(3, 0, 0), (21, 8, 0), (36, 22, 0)]
  | 0x30038 => some [(63, 0, h.operand.toNat)]
  | 0x30040 => some [(0, 0, 0), (3, 1, h.dmcResult), (17, 4, h.dmcRow), (33, 18, h.dmcCount), (41, 34, h.dmcSpare),
      (48, 42, h.dmcBank)]
  | _ => none

/-! ### STV_, KND_, SRCH_ (Tables 10.7 to 10.9, 11.4 to 11.6, 12.10 to 12.13) -/

/-- STV_ registers. -/
def stvFields (s : State) (off : Nat) : Option Fields :=
  let t := s.stv
  match off with
  | 0x40000 => some (fieldsOf t.splitCtl [(5, 0), (13, 8), (21, 16), (29, 24), (37, 32), (47, 40), (48, 48)])
  | 0x40008 => some [(5, 0, roleCount s .decode), (13, 8, roleCount s .prefill), (21, 16, roleCount s .embed),
      flag 22 t.waitSeen, (40, 32, stovesUp s), (63, 48, t.moves)]
  | 0x40010 => some [(31, 0, t.docs), (47, 32, sat 16 (t.docsRate.last (s.localNs / 1000000000))),
      (63, 48, t.truncated)]
  | _ => none

/-- KND_ registers. -/
def kndFields (s : State) (off : Nat) : Option Fields :=
  let k := s.knd
  match off with
  | 0x50000 => some (fieldsOf k.storeCtl [(15, 0)])
  | 0x50008 => some [(3, 0, k.units), (31, 16, sat 16 (dedup (k.grammars.map (·.digest.toNat))).length),
      (47, 32, k.genDead), (63, 48, k.forcedEos)]
  | 0x50010 => some [(31, 0, k.inReplaced), (63, 32, k.outReplaced)]
  | _ => none

/-- SRCH_ registers. -/
def srchFields (s : State) (off : Nat) : Option Fields :=
  let t := s.srch
  match off with
  | 0x60000 => some (fieldsOf t.ctl [(11, 0), (23, 16), (24, 24), (31, 25), (35, 32)])
  | 0x60008 => some (fieldsOf t.cacheCtl [(9, 0)])
  | 0x60010 => some [(8, 0, (t.indexes.filter fun x => x.live && !x.lost).length), (31, 16, t.partials),
      (47, 32, t.poisonedBlocks), (63, 48, t.coldLoads)]
  | 0x60018 => some [(15, 0, t.samples), (39, 16, t.expected), (63, 40, t.matched)]
  | _ => none

/-! ### RDG_, BLW_ (Tables 13.11 to 13.18, 14.1 to 14.15) -/

/-- A port's state (Table 13.18). -/
def PortState.num : PortState → Nat
  | .down => 0 | .training => 1 | .up => 2 | .heldDown => 3

/-- RDG_PORT_STATUS_n (Table 13.18). -/
def portFields (s : State) (n : Nat) : Fields :=
  let p := s.port n
  [(7, 0, p.lanes.toNat), (9, 8, p.state.num), flag 10 p.partner, (31, 16, p.fecBad), (47, 32, p.resent),
   (63, 48, p.dipDiscards)]

/-- RDG_ registers. -/
def rdgFields (s : State) (off : Nat) : Option Fields :=
  let r := s.rdg
  if 0x70040 ≤ off && off < 0x70070 && off % 8 = 0 then some (portFields s ((off - 0x70040) / 8))
  else match off with
  | 0x70000 => some [(9, 0, r.part), (31, 16, r.address), (47, 32, r.domain), flag 48 r.configured]
  | 0x70008 => some [(63, 0, r.map.epoch)]
  | 0x70010 => some [flag 0 (r.map.keepers.contains r.part), flag 1 (isLeader s), flag 2 (quorumUp s),
      flag 3 r.map.joinRefused, (6, 4, r.map.keepers.length), (17, 7, (upParts r.map).length),
      (47, 32, r.staleRefusals), (63, 48, r.forwards)]
  | 0x70018 => some (fieldsOf r.linkCtl [(7, 0), (15, 8), (19, 16)])
  | 0x70020 => some (fieldsOf r.poolCtl [(15, 0), (23, 16), (31, 24)])
  | 0x70028 => some (fieldsOf r.twinCtl [(9, 0), (11, 11)] ++ [(10, 10, 0), (13, 12, r.twinState)])
  | 0x70030 => some [(15, 0, r.lent.length), (31, 16, (r.lent.filter fun l => l.state == 1 || l.state == 2).length),
      (39, 32, sat 8 (r.lent.filter fun l => l.state == 2).length), (47, 40, sat 8 r.regions.length),
      (63, 48, r.revokedRefusals)]
  | _ => none

/-- BLW_ registers of the selected instance, class and damper; the gate registers of port 6 read zero (Table 14.5). -/
def blwFields (s : State) (off : Nat) : Option Fields :=
  let b := s.bellow (selPort s)
  let c := (b.classes[selClass s]?).getD {}
  let d := s.damper (selDamper s)
  let gates := fun (f : Fields) => some (if selPort s = 6 then [(63, 0, 0)] else f)
  match off with
  | 0x80000 => some (fieldsOf s.blw.portSel [(2, 0), (10, 8)])
  | 0x80008 => some (fieldsOf b.ctl [(7, 0), (8, 8)])
  | 0x80010 => some (fieldsOf c.shape [(15, 0), (31, 16)])
  | 0x80018 => gates [(63, 0, b.gclBase.toNat)]
  | 0x80020 => gates (fieldsOf b.entryReg [(5, 0), (6, 6), (15, 8), (47, 16)])
  | 0x80028 => gates [(0, 0, 0), (1, 1, 0)]
  | 0x80030 => gates [(6, 0, b.active.length), (8, 7, if b.refused then 2 else if b.committed.isSome then 1 else 0),
      (45, 14, cycleNs b.active), (63, 46, b.cycles)]
  | 0x80038 => some [(31, 0, c.frames), (47, 32, c.guards), (63, 48, c.shapes)]
  | 0x80040 => some [(63, 0, c.bytes)]
  | 0x80100 => some (fieldsOf s.blw.dmpSel [(7, 0)])
  | 0x80108 => some (fieldsOf d.ctl [(0, 0), (2, 1), (3, 3), (4, 4), (5, 5), (17, 6), (25, 18), (26, 26), (27, 27),
      (43, 28)] ++ [flag 44 d.bad])
  | 0x80110 => some [(63, 0, d.rate.toNat)]
  | 0x80118 => some [(63, 0, d.burst.toNat)]
  | 0x80120 => some [(31, 0, d.green), (63, 32, d.yellow)]
  | 0x80128 => some [(31, 0, d.red), (63, 32, d.refused)]
  | _ => none

/-! ### FBX_, CRN_ (Tables 15.13 to 15.18, 16.6 to 16.9) -/

/-- Foothill and lent-extent storage that awaits its clear, in MiB (Table 15.18). -/
def clearMib (s : State) : Nat := (s.tie.uncleared.map (·.granules)).sum / 2048

/-- FBX_ registers. -/
def fbxFields (s : State) (off : Nat) : Option Fields :=
  let f := s.fbx
  match off with
  | 0x90000 => some [flag 0 f.identityOk, flag 1 f.trngOk, flag 2 f.pairSecret.isSome, (15, 8, f.trngFailures)]
  | 0x90008 => some [flag 0 f.bound, flag 1 f.policy, flag 2 f.debug, (5, 3, f.imageKeys.length),
      (26, 16, f.settingsApplied), (42, 32, f.settingsRefused)]
  | 0x90010 => some [(63, 0, f.configSeq.toNat)]
  | 0x90018 => some (fieldsOf f.coarseCtl [(7, 0), (15, 8)])
  | 0x90020 => some [(15, 0, f.tagSkips), (31, 16, f.ridgeTags), (47, 32, f.verifyFails), flag 48 f.isoSeen,
      (51, 49, f.isoCause), (63, 52, f.isoTenant)]
  | 0x90028 => some [(23, 0, (s.tie.frames.filter (·.clearing)).length), (47, 24, clearMib s),
      (63, 48, sat 16 s.tie.retiredGranules)]
  | _ => none

/-- Sessions of durability class 1 to 3 homed here, with or without copies acknowledged (Table 16.9). -/
def protectedCount (s : State) (copied : Bool) : Nat :=
  (s.ses.table.filter fun x => openSession x && x.durability != 0 && x.copied == copied).length

/-- CRN_ registers. -/
def crnFields (s : State) (off : Nat) : Option Fields :=
  let c := s.crn
  match off with
  | 0xA0000 => some (fieldsOf c.triggerCtl [(15, 0), (31, 16), (47, 32), (55, 48)])
  | 0xA0008 => some (fieldsOf c.standbyCtl [(0, 0), (25, 16), (47, 32)])
  | 0xA0010 => some [(15, 0, c.written), (31, 16, c.failures), (39, 32, c.triggers), flag 40 c.triggerSeen,
      flag 41 c.takeoverSeen, (49, 42, c.takeovers)]
  | 0xA0018 => some [(19, 0, protectedCount s true), (39, 20, protectedCount s false), flag 40 c.resync,
      flag 41 (restoringAny s)]
  | _ => none

/-! ### FWU_, DGN_, PWR_ (Tables 17.6 to 17.13, 18.5 to 18.15, 2.5 to 2.12, 3.6 to 3.11) -/

/-- The firmware image of a slot once verified: version, state format, frame version (Table 17.7). -/
def versionFields (s : State) (n : Nat) : Fields :=
  match s.fwu.slots[n]? with
  | some x =>
    let i := if 2 ≤ x.state then x.image.getD { frameVer := 0 } else { frameVer := 0 }
    [(31, 0, i.version), (39, 32, i.stateFmt), (43, 40, i.frameVer)]
  | none => []

/-- FWU_ registers. -/
def fwuFields (s : State) (off : Nat) : Option Fields :=
  let f := s.fwu
  let slotState := fun n => ((f.slots[n]?).map (·.state)).getD 0
  match off with
  | 0xB0000 => some [(0, 0, f.active), flag 1 f.confirmed, (3, 2, slotState 0), (5, 4, slotState 1), flag 6 s.fbx.policy,
      flag 7 f.activation.isSome, flag 8 f.coldSlot.isSome, flag 9 f.fallbackSeen, flag 10 f.refusedSeen,
      (31, 16, (f.confirmAt.map fun t => ceilDiv (t - s.localNs) 1000000000).getD 0), (47, 32, f.quiesceTries)]
  | 0xB0008 => some (versionFields s 0)
  | 0xB0010 => some (versionFields s 1)
  | 0xB0018 => some [(63, 0, (f.activation.map (·.epoch)).getD 0)]
  | 0xB0020 => some [(11, 0, f.settingsReset), (31, 16, f.pairsSkipped)]
  | 0xB0028 => some (fieldsOf f.ctl [(7, 0)] ++ [(8, 8, 0)])
  | 0xB0030 => some (fieldsOf f.rcvAddr [(63, 12)])
  | 0xB0038 => some (fieldsOf f.rcvCtl [(25, 0)] ++ [(32, 32, 0)])
  | 0xB0040 => some [flag 0 f.rcvBusy, (3, 1, f.rcvResult)]
  | _ => none

/-- The event that DGN_EVENT_INDEX presents: the entry of seq mod 256 (Table 18.10). -/
def shownEvent (s : State) : Event :=
  (s.dgn.events.find? fun e => e.seq % 256 == fld s.dgn.eventIndex 31 0 % 256).getD
    { seq := 0, code := 0, tenant := 0, detail := 0, ns := 0 }

/-- DGN_ registers. -/
def dgnFields (s : State) (off : Nat) : Option Fields :=
  let d := s.dgn
  let f := (s.qp (fld d.flightSel 12 0)).flight
  match off with
  | 0xC0000 => some (fieldsOf d.flightSel [(12, 0)])
  | 0xC0008 => some [(63, 0, s.localNs)]
  | 0xC0010 => some (fieldsOf s.pwr.marginCtl [(7, 0), (15, 8), (16, 16)])
  | 0xC0018 => some [(15, 0, s.pwr.foothillRetrains), (31, 16, s.pwr.ridgeRetrains), (39, 32, s.pwr.worstChannel),
      (47, 40, s.pwr.worstMargin)]
  | 0xC0020 => some (fieldsOf f.baseReg [(63, 12)])
  | 0xC0028 => some (fieldsOf f.ctlReg [(4, 0), (15, 8)])
  | 0xC0030 => some [(31, 0, f.next.toNat), (63, 32, f.dropped)]
  | 0xC0038 => some (fieldsOf d.replayCtl [(15, 0), (31, 16), (44, 32), (45, 45)])
  | 0xC0040 => some [(31, 0, fld d.eventIndex 31 0), (63, 32, d.nextEvent)]
  | 0xC0048 => some [(31, 0, (shownEvent s).seq), (39, 32, (shownEvent s).code), (51, 40, (shownEvent s).tenant),
      (63, 52, (shownEvent s).detail)]
  | 0xC0050 => some [(63, 0, (shownEvent s).ns)]
  | 0xC0058 => some [(15, 0, d.sliceSkips), (31, 16, d.cxlUnmapped), (47, 32, d.digestWrites), (63, 48, d.rebuilds)]
  | 0xC0060 => some [(31, 0, d.fp8Sat), (47, 32, d.maskWaits), (63, 48, d.injected)]
  | 0xC0068 => some (fieldsOf d.injectReg [(2, 0), (5, 3), (13, 6)] ++ [flag 14 d.armed, flag 15 d.injRefused])
  | _ => none

/-- The shed stage of Table 2.8. -/
def shedStage (s : State) : Nat :=
  let p := s.pwr
  if !s.pins.throttleN then 5
  else if !p.throttled.isEmpty then 6
  else if p.emberPacing != 0 then 4
  else if p.shedDecode != 0 then 3
  else if p.shedPrefill != 0 then 2
  else if p.shedEmbed != 0 then 1 else 0

/-- PWR_ registers. -/
def pwrFields (s : State) (off : Nat) : Option Fields :=
  let p := s.pwr
  match off with
  | 0xD0000 => some (fieldsOf p.capCtl [(10, 0), (23, 16), (42, 32)])
  | 0xD0008 => some [(10, 0, p.powerWatts), (18, 16, shedStage s), flag 31 p.capHit, (42, 32, p.coreAmps)]
  | 0xD0010 => some [(6, 0, (p.rails.zipIdx.map fun (r, i) => if r.pgood then 2 ^ i else 0).sum), flag 8 p.seqFault,
      (14, 12, p.faultGroup)]
  | 0xD0018 => some [(3, 0, p.lastCause), (11, 8, p.bootStage), flag 16 p.ready, flag 17 p.stateLost,
      flag 18 p.configDefault, (47, 32, p.bootCount)]
  | 0xD0020 => some [flag 0 p.dipActive, flag 1 p.dipSeen, (8, 2, railMask p.dipRails), (31, 16, p.dipCount),
      (47, 32, p.lastDipUs)]
  | _ => none

/-! ### A read -/

/-- The fields of the register at an offset of the window; none where it holds no register (Table 19.1). -/
def registerFields (s : State) (off : Nat) : Option Fields :=
  if off % 8 ≠ 0 then none
  else if 0x2000000 ≤ off && off < 0x4000000 then doorbellFields s ((off - 0x2000000) / 0x1000) (off % 0x1000)
  else match off / 0x10000 with
  | 0 => if off < 0x1000 then idFields s off else hstFields s off
  | 1 => tndFields s off
  | 2 => tieFields s off
  | 3 => hrtFields s off
  | 4 => stvFields s off
  | 5 => kndFields s off
  | 6 => srchFields s off
  | 7 => rdgFields s off
  | 8 => blwFields s off
  | 9 => fbxFields s off
  | 10 => crnFields s off
  | 11 => fwuFields s off
  | 12 => dgnFields s off
  | 13 => pwrFields s off
  | _ => none

/-- A 64-bit read of the window: zero where it is narrower or misaligned, holds no register, or is not served yet (R6,
R38); otherwise the fields, with free values in the reserved bits (R7). -/
def readRegister (s : State) (off width : Nat) : Word :=
  if width ≠ 8 || off % 8 ≠ 0 || !served s off then 0
  else match registerFields s off with
  | none => 0
  | some f => BitVec.ofNat 64 f.value ||| (Config.rsv off s.freeCount &&& ~~~(BitVec.ofNat 64 f.mask))

end Sys2Proof.Machine
end

