-- ==== Sys2Proof/Safety.lean ====
section
/-!
DEFINITION. What claims count as a sound state: memories in canonical form, so that equal memories are equal data, and
tables of the sizes that the part has.
-/

namespace Sys2Proof

/-- The hearth memory and the memory of every region stand in canonical form. -/
def memoriesCanonical (s : Machine.State) : Bool :=
  Machine.Memory.wf s.hrt.mem && s.rdg.regions.all fun r => Machine.Memory.wf r.mem

/-- Seven rails (Table 2.3), two firmware slots (R363), eight traffic classes and KV schemes (R101, Table 9.5). -/
def tablesWhole (s : Machine.State) : Bool :=
  s.pwr.rails.length == 7 && s.fwu.slots.length == 2 && s.ses.tclass.length == 8 && s.ses.kvclass.length == 8

/-- A well-shaped state: canonical memories and whole tables. -/
abbrev WellShaped (s : Machine.State) : Prop := memoriesCanonical s = true ∧ tablesWhole s = true

/-- The state with everything blanked that completing a descriptor, posting an entry or sending a frame changes: two states
with equal quiet parts agree on pins, power, sessions, tiers, hearth, images, stoves, kindling, search, firebox, cairns,
firmware, the counter, the queue of commands, and of the ridge on all but peers and outstanding requests and proposals. -/
def Machine.State.quiet (s : Machine.State) : Machine.State :=
  { s with
    host := {}, desc := [], blw := {}, dgn := {}, out := [], freeCount := 0
    rdg := { s.rdg with peers := [], nextReq := 0, asked := [], map := { s.rdg.map with proposals := [] } } }

end Sys2Proof
end

