-- ==== Sys2Proof/Certificates/Slice0/Obligations.lean ====
section
/-!
DEFINITION. The statements about the model, one `Obligations.<Name>` each, by family of commands. A statement with several
clauses joins what one family of rules says; every clause about a command ends in the next state that command answers.
Words: `quiet` (Sys2Proof/Safety.lean) is all of the state but what answering the host or another part changes.
-/

open Sys2Proof Sys2Proof.Machine

/-! ### The queue of commands -/

/-- With a command at the front of the queue, a step is that command's effect on the state with the queue's rest. -/
def Obligations.StepRunsFrontCommand : Prop :=
  ∀ (s : State) (c : Instr) (rest : List Instr), s.pending = c :: rest →
    step s = exec c { s with pending := rest }

/-- With no command waiting, a step is one nanosecond of the local counter and nothing else (the model's choice,
notes/assumptions/8.md; R33 gives the counter). -/
def Obligations.EmptyQueueStepsTheCounter : Prop :=
  ∀ s : State, s.pending = [] →
    ∃ t, step s = .next t ∧ t.localNs = (s.localNs + 1) % 2 ^ 64 ∧ { t with localNs := s.localNs } = s

/-- The state after reset is well shaped. -/
def Obligations.ResetIsWellShaped : Prop := WellShaped State.reset

/-- Every step keeps every memory in its canonical form, seven rails, two firmware slots and eight traffic and KV classes. -/
def Obligations.StepKeepsWellShaped : Prop :=
  ∀ s t : State, WellShaped s → step s = .next t → WellShaped t

/-- What a power-on reset leaves readable (Table 3.10, Table 2.5, Table 2.7, Table 4.21): the values the spec gives. -/
def Obligations.ResetRegisterValues : Prop :=
  registerFields State.reset 0xD0018 =
    some [(3, 0, 0), (11, 8, 0), (16, 16, 0), (17, 17, 1), (18, 18, 0), (47, 32, 0)] ∧
  (fld State.reset.pwr.capCtl 10 0 = 0x640 ∧ fld State.reset.pwr.capCtl 23 16 = 0x0A ∧
   fld State.reset.pwr.capCtl 42 32 = 0x47E) ∧
  (fld State.reset.pwr.marginCtl 7 0 = 0x64 ∧ fld State.reset.pwr.marginCtl 15 8 = 0x46 ∧
   fld State.reset.pwr.marginCtl 16 16 = 1) ∧
  State.reset.localNs = 0 ∧ State.reset.host.attached = false ∧
  (∀ q, (State.reset.qp q).state = .disabled) ∧ (∀ n, State.reset.session n = none)

/-! ### Resets -/

/-- A power-on reset restarts the local counter at 0 and puts every part of the state but boot flash at its value after reset:
power, sessions and generations, tiers, hearth, images, stoves, kindling, ridge and map replica, bellows, cairns, diagnostics,
queue pairs and attachment, descriptors and keys; every index is lost. Boot flash's slots, blocks, chain, repair list, choice of
slot and watchdog count stand, but for a slot that was receiving a download. VDD_AUX at its reset level for 20 ns is this reset
(R33, R40, R46, R51, R368). -/
def Obligations.PowerOnResetLosesAll : Prop :=
  ∀ s : State,
    (∃ t, exec .powerOnReset s = .next t ∧ t.localNs = 0 ∧ t.pwr = State.reset.pwr ∧ t.ses = State.reset.ses ∧
      t.tie = State.reset.tie ∧ t.hrt = State.reset.hrt ∧ t.img = State.reset.img ∧ t.stv = State.reset.stv ∧
      t.knd = State.reset.knd ∧ t.rdg = State.reset.rdg ∧ t.blw = State.reset.blw ∧ t.crn = State.reset.crn ∧
      t.dgn = State.reset.dgn ∧ t.host = State.reset.host ∧ t.desc = [] ∧ t.fbx.wrapKey = none ∧ t.fbx.pairSecret = none ∧
      (∀ x ∈ t.srch.indexes, x.live = false ∧ x.cells = [] ∧ x.scree = []) ∧
      t.hrt.mem = [] ∧ t.host.qps = [] ∧ t.host.attached = false ∧ t.pwr.ready = false ∧ t.pwr.stateLost = true ∧
      t.fwu.active = s.fwu.active ∧ t.fwu.config = s.fwu.config ∧ t.fwu.pendingCfg = s.fwu.pendingCfg ∧
      t.fwu.repairs = s.fwu.repairs ∧ t.fwu.chain = s.fwu.chain ∧ t.fwu.confirmed = s.fwu.confirmed ∧
      t.fwu.coldSlot = s.fwu.coldSlot ∧ t.fwu.flashDogs = s.fwu.flashDogs ∧
      ∀ (n : Nat) (x : FwSlot), s.fwu.slots[n]? = some x → x.state ≠ 1 → t.fwu.slots[n]? = some x) ∧
    ∀ mv ns, mv < 1620 → 20 ≤ ns → exec (.supplyReset (.resetLevel .vddAux mv ns)) s = exec .powerOnReset s

/-- What a cold reset with a cause leaves, of the state before it (Table 3.4, Table 3.10, R29, R42, R85). -/
def ColdResetOf (s t : State) (cause : Nat) : Prop :=
  t.localNs = s.localNs ∧ t.hrt.mem = [] ∧ t.ses.table = [] ∧ t.rdg.map = {} ∧ t.host.qps = [] ∧
  t.host.attached = false ∧ t.desc = [] ∧ t.fbx.wrapKey = none ∧ t.ses.floor = s.ses.floor ∧
  t.pwr.heldInReset = true ∧ t.pwr.ready = false ∧ t.pwr.everReady = false ∧ t.pwr.stateLost = true ∧
  t.pwr.lastCause = cause ∧ t.pwr.bootCount = min 0xFFFF (s.pwr.bootCount + 1) ∧
  t.tie = State.reset.tie ∧ t.img = State.reset.img ∧ t.stv = State.reset.stv ∧ t.crn = State.reset.crn ∧
  (∀ x ∈ t.srch.indexes, x.live = false) ∧
  t.fwu.active = s.fwu.active ∧ t.fwu.config = s.fwu.config ∧ t.fwu.repairs = s.fwu.repairs ∧ t.pending = s.pending

/-- The causes of a cold reset: PORST_N falling, a thermal trip, an episode past 200 µs, a rail other than VDD_AUX at its
reset level for 20 ns, the third watchdog within 10 minutes (R29, R40, R46, R51, R374). -/
def Obligations.ColdResetCauses : Prop :=
  (∀ (s : State) (temps : List Reading), s.pins.porstN = true →
    ∃ t, exec (.porstNAssert temps) s = .next t ∧ ColdResetOf s t 1 ∧ t.pins.porstN = false ∧
      (s.pwr.tripped = true → (t.pins.thermTripN = true ↔
        (s.pins.thermTripN = true ∨ ∀ r ∈ temps, r.celsius < tripPoint r.sensor)))) ∧
  (∀ (s : State) (r : Reading), s.pwr.tripped = false → tripPoint r.sensor ≤ r.celsius →
    ∃ t, exec (.thermalTrip r) s = .next t ∧ ColdResetOf s t 4 ∧ t.pins.thermTripN = false ∧ t.pwr.tripped = true) ∧
  (∀ (s : State) (r : Rail) (mv ns : Nat), r ≠ .vddAux → mv < (railLevels r).2.2 → 20 ≤ ns →
    ∃ t, exec (.supplyReset (.resetLevel r mv ns)) s = .next t ∧ ColdResetOf s t 3 ∧ t.pins.supplyAlertN = false) ∧
  (∀ s : State, s.pwr.dipActive = true → s.pwr.dipInjected = false → railsRecovered s = false →
    s.pwr.dipStart + 200000 < s.localNs →
    ∃ t, exec (.supplyReset .longEpisode) s = .next t ∧ ColdResetOf s t 2) ∧
  (∀ (s : State) (a b : Nat), s.pwr.everReady = true → (s.fbx.policy = false ∨ s.fwu.confirmed = true) →
    s.pwr.watchdogs = [a, b] → s.localNs < a + 600000000000 → s.localNs < b + 600000000000 →
    ∃ t, exec .watchdogFire s = .next t ∧ ColdResetOf s t 6 ∧ t.fwu.romRecovery = !s.fbx.policy)

/-- What a warm reset with a cause keeps and ends (R41, R64, Table 3.4): hearth, tiers, images but for loads and unloads under
way, indexes, keys and map replica stand, sessions keep their log at the last commit and their pages where they lie with no
copy or work under way, queue pairs that are not DISABLED are HALTED with cause 3 with their binding, counters and lists,
ready reads 0 and boot_stage 2. -/
def WarmResetOf (s t : State) (cause : Nat) : Prop :=
  t.localNs = s.localNs ∧ t.hrt.mem = s.hrt.mem ∧
  ((∀ i ∈ s.img.slots, i.state ≠ .waiting ∧ i.state ≠ .unloading) → t.img = s.img ∧ t.tie.frames = s.tie.frames) ∧
  t.srch.indexes = s.srch.indexes ∧ t.srch.scans = [] ∧
  t.rdg.regions = s.rdg.regions ∧ t.rdg.map.epoch = s.rdg.map.epoch ∧ t.rdg.map.parts = s.rdg.map.parts ∧
  t.fbx.wrapKey = s.fbx.wrapKey ∧
  t.ses.table.map (fun x => (x.slot, x.gen, x.log, x.pages.map fun p => (p.index, p.place))) =
    s.ses.table.map (fun x => (x.slot, x.gen, x.log, x.pages.map fun p => (p.index, p.place))) ∧
  (∀ x ∈ t.ses.table, x.gener = none ∧ x.prefill = none ∧ x.move = none ∧ ∀ p ∈ x.pages, p.target = none) ∧
  (∀ q ∈ t.host.qps, q.state = .disabled ∨ (q.state = .halted ∧ q.cause = 3)) ∧ t.host.attached = s.host.attached ∧
  t.host.qps.map (fun q => (q.id, q.ctx, q.sqNext, q.cqNext, q.flueNext, q.held)) =
    s.host.qps.map (fun q => (q.id, q.ctx, q.sqNext, q.cqNext, q.flueNext, q.held)) ∧
  t.pwr.ready = false ∧ t.pwr.recovering = true ∧ t.pwr.bootStage = 2 ∧ t.pwr.stateLost = false ∧
  t.pwr.lastCause = cause ∧ t.pwr.bootCount = min 0xFFFF (s.pwr.bootCount + 1)

/-- WARMRST_N falling after ready, and a watchdog that is not the third within 10 minutes, are warm resets while the
running image is confirmed or the policy is ROM recovery (R40, R41); before ready WARMRST_N does nothing but stand low. -/
def Obligations.WarmResetCauses : Prop :=
  (∀ s : State, s.pwr.everReady = true → s.pins.warmrstN = true → (s.fbx.policy = false ∨ s.fwu.confirmed = true) →
    ∃ t, exec .warmrstNAssert s = .next t ∧ WarmResetOf s t 5 ∧ t.pwr.warmHeld = true ∧ t.pins.warmrstN = false) ∧
  (∀ s : State, s.pwr.everReady = false → ∃ t, exec .warmrstNAssert s = .next t ∧
    t.pins.warmrstN = false ∧ t.pwr = s.pwr ∧ t.ses = s.ses ∧ t.host = s.host ∧ t.hrt = s.hrt) ∧
  (∀ s : State, s.pwr.everReady = true → (s.fbx.policy = false ∨ s.fwu.confirmed = true) →
    s.pwr.watchdogs.length ≤ 1 →
    ∃ t, exec .watchdogFire s = .next t ∧ WarmResetOf s t 6 ∧ t.pwr.warmHeld = false)

/-! ### Start-up -/

/-- From PORST_N to ready (R35 to R39, Tables 3.1 to 3.3): a rise with the gate open samples the straps and leaves reset,
into manufacturing test, ROM recovery or the normal order, and with a hearth die lost into boot_stage 8; a rise with the gate
shut leaves the part in reset; foothill channels and ridge lanes that fail are retired; at step 9 ready reads 1 with the grates
and kindling units that passed. -/
def Obligations.StartUpRunsInOrder : Prop :=
  (∀ (s : State) (straps : BitVec 4) (b : BootReport) (failedBanks : List Nat), s.pins.porstN = false →
    gateOpenForStart s b.refclkNs = true →
    ∃ t, exec (.porstNRelease straps b failedBanks) s = .next t ∧ t.pins.porstN = true ∧ t.pins.straps = straps ∧
      t.pwr.heldInReset = false ∧ t.pwr.ready = s.pwr.ready ∧ t.pwr.found = b.found ∧ (fld straps 3 2 = 2 → t.pwr.bootStage = 9) ∧
      (fld straps 3 2 = 1 → t.pwr.bootStage = 7) ∧
      (fld straps 3 2 ≠ 1 → fld straps 3 2 ≠ 2 → s.fwu.romRecovery = false → b.flashBad = [] →
        slotBoots s.fwu 0 = true →
        (dieFailed failedBanks = false → t.pwr.bootStage = 4) ∧
        (dieFailed failedBanks = true → t.pwr.bootStage = 8 ∧ t.pins.faultN = false))) ∧
  (∀ (s : State) (straps : BitVec 4) (b : BootReport) (failedBanks : List Nat), s.pins.porstN = false →
    gateOpenForStart s b.refclkNs = false →
    ∃ t, exec (.porstNRelease straps b failedBanks) s = .next t ∧ t.pwr = s.pwr ∧ t.pins.porstN = true ∧ t.pins.straps = straps) ∧
  (∀ (s : State) (b : BootReport) (failedBanks : List Nat), s.pins.porstN = true → gateOpenForStart s b.refclkNs = true →
    ∃ t, exec (.coldRestart b failedBanks) s = .next t ∧ t.pwr.heldInReset = false ∧ t.pwr.found = b.found ∧
      t.pins.straps = s.pins.straps ∧ (fld s.pins.straps 3 2 = 2 → t.pwr.bootStage = 9) ∧
      (fld s.pins.straps 3 2 = 1 → t.pwr.bootStage = 7) ∧
      (fld s.pins.straps 3 2 ≠ 2 → s.fwu.romRecovery = true → t.pwr.bootStage = 7 ∧ t.fwu.romRecovery = false)) ∧
  (∀ (s : State) (failed : List Nat), s.pwr.bootStage = 4 →
    ∃ t, exec (.foothillTrainingDone failed) s = .next t ∧ t.pwr.bootStage = 5 ∧ t.pwr.foothillDone = true ∧
      ∀ n < 96, { link := n, retired := failed.contains n } ∈ t.pwr.links) ∧
  (∀ (s : State) (n : Nat) (lanes : BitVec 8) (partner : Bool), n < 6 → (s.port n).state = .training →
    ∃ t, exec (.ridgeTrainingDone n lanes partner) s = .next t ∧ (t.port n).lanes = lanes ∧
      (t.port n).partner = partner ∧
      (t.port n).state = (if ((List.range 8).filter fun i => lanes.toNat.testBit i).length < 4 then .heldDown else .up) ∧
      ∀ i < 8, lanes.toNat.testBit i = false → ∃ l ∈ t.pwr.links, l.link = 96 + 8 * n + i ∧ l.retired = true) ∧
  (∀ s : State, s.pwr.bootStage = 5 → ridgeTrained s = true →
    ∃ t, exec .startupComplete s = .next t ∧ t.pwr.ready = true ∧ t.pwr.bootStage = 6 ∧ t.pwr.everReady = true ∧
      t.knd.units = min 8 s.pwr.found.kindling ∧ t.tie.grates = min 16 s.pwr.found.grates ∧ t.stv.islands.length = 32)

/-- The end of a warm reset (R41): WARMRST_N rising ends the hold and starts recovery's 300 ms; every link whose margin check
fails retrains, or waits for its window, while retrain_enable is 1; once every link has run its check, ready reads 1 and boot_stage 6, with sessions,
hearth and queue pairs as they were. -/
def Obligations.WarmRecoveryEndsReady : Prop :=
  (∀ (s : State) (fails : List Link), s.pwr.warmHeld = true →
    ∃ t, exec (.warmrstNRelease fails) s = .next t ∧ t.pins.warmrstN = true ∧ t.pwr.warmHeld = false ∧
      t.pwr.ready = s.pwr.ready ∧ t.pwr.bootStage = s.pwr.bootStage ∧ t.ses = s.ses ∧ t.hrt = s.hrt ∧
      t.pwr.marginFailures = s.pwr.marginFailures + fails.length ∧
      (∀ l x, l ∈ fails → x ∈ s.pwr.links → x.link = linkId l → x.retired = false → bit s.pwr.marginCtl 16 = true →
        ∃ y ∈ t.pwr.links, y.link = x.link ∧ (y.retraining = true ∨ y.due = true)) ∧
      (∀ l x, fails = [l] → x ∈ s.pwr.links → x.link = linkId l → x.retired = false → bit s.pwr.marginCtl 16 = true →
        s.pwr.heldNow = false → (∀ b ∈ s.pwr.links, b.retraining = false ∧ b.due = false) →
        { x with retraining := true } ∈ t.pwr.links)) ∧
  (∀ s : State, checksLeft s.pwr = true → exec .warmResetRecoveryEnd s = .next s) ∧
  (∀ s : State, s.pwr.recovering = true → s.pwr.warmHeld = false → checksLeft s.pwr = false →
    ∃ t, exec .warmResetRecoveryEnd s = .next t ∧ t.pwr.ready = true ∧ t.pwr.bootStage = 6 ∧
      t.pwr.recovering = false ∧ t.ses = s.ses ∧ t.hrt = s.hrt ∧ t.host = s.host)

/-! ### Rails, supply, heat, power cap, links, registers -/

/-- Rails at power-up (R22, R23): a rail whose earlier groups are up rises with its PGOOD_x; one out of order is a sequence
fault that holds the part in reset and names the first such rail's group. -/
def Obligations.RailsRiseInGroups : Prop :=
  (∀ (s : State) (r : Rail), WellShaped s → mayRise s r = true →
    ∃ t, exec (.railRise r) s = .next t ∧ (railOf t r).up = true ∧ (railOf t r).pgood = true ∧
      (∀ q, q ≠ r → railOf t q = railOf s q) ∧ t.pwr.seqFault = s.pwr.seqFault) ∧
  (∀ (s : State) (r : Rail), mayRise s r = false → (railOf s r).up = false →
    (∃ t, exec (.sequenceFault r) s = .next t ∧ t.pwr.seqFault = true ∧ t.pwr.heldInReset = true ∧
      t.pwr.ready = false ∧ t.pwr.faultGroup = (if s.pwr.faultGroup = 0 then railGroup r else s.pwr.faultGroup)) ∧
    exec (.railRise r) s = exec (.sequenceFault r) s)

/-- A dip episode (R46 to R49): the first crossing that counts holds work, flags it and drives SUPPLY_ALERT_N low, and one that
does not count changes nothing; once every rail has recovered SUPPLY_ALERT_N is high again, and work goes on if the last rail came
above its recovery level within 200 µs; 100 µs later the episode ends and is counted with its length, and no log has changed. -/
def Obligations.DipEpisodeHoldsAndResumes : Prop :=
  (∀ (s : State) (r : Rail) (c : Crossing),
    (warningCounts r c = false → exec (.dipEpisodeBegin r c) s = .next s) ∧
    (warningCounts r c = true → s.pwr.dipActive = false →
      ∃ t, exec (.dipEpisodeBegin r c) s = .next t ∧ t.pwr.dipActive = true ∧ t.pwr.heldNow = true ∧
        t.pwr.dipStart = s.localNs ∧ t.pwr.dipRails = [r] ∧ t.pins.supplyAlertN = false ∧ t.ses = s.ses ∧
        t.hrt.owedShared = [] ∧ t.hrt.mem = s.hrt.mem ∧
        (∀ b ∈ s.ses.batches, b.columns ≠ [] → b.resting = false → HeldWork.step b.id ∈ t.pwr.held) ∧
        (∀ x ∈ s.ses.table, x.prefill.isSome → HeldWork.chunk x.slot ∈ t.pwr.held))) ∧
  (∀ (s : State) (r : Rail) (mv ns : Nat), WellShaped s → s.pwr.dipActive = true → s.pwr.dipInjected = false →
    recoveryCounts r mv ns = true → (∀ q, q ≠ r → (railOf s q).below = false ∧ (railOf s q).pgood = true) →
    ∃ t, exec (.railRecovered ⟨r, mv, ns⟩) s = .next t ∧ t.pins.supplyAlertN = true ∧
      t.pwr.dipLastUp = max s.pwr.dipLastUp (s.localNs - ns) ∧ t.pwr.dipRecoveredAt = s.localNs ∧ t.pwr.dipActive = true ∧
      (t.pwr.heldNow = true ↔ s.pwr.heldNow = true ∧
        ¬(max s.pwr.dipLastUp (s.localNs - ns) ≤ s.pwr.dipStart + 200000 ∧ injectedEnd s.pwr ≤ s.localNs))) ∧
  (∀ (s : State) (last : Nat), s.pwr.dipActive = true → injectedEnd s.pwr ≤ s.localNs →
    (s.pwr.dipInjected = true ∨ (railsRecovered s = true ∧ s.pwr.dipRecoveredAt + 100000 ≤ s.localNs)) →
    last = max s.pwr.dipLastUp (injectedEnd s.pwr) → last ≤ s.pwr.dipStart + 200000 →
    ∃ t, exec .dipEpisodeEnd s = .next t ∧ t.pwr.dipActive = false ∧ t.pwr.heldNow = false ∧ t.pwr.dipSeen = true ∧
      t.pwr.dipCount = min 0xFFFF (s.pwr.dipCount + 1) ∧ t.pwr.held = [] ∧
      1000 * t.pwr.lastDipUs < last - s.pwr.dipStart + 1000 ∧ last - s.pwr.dipStart ≤ 1000 * t.pwr.lastDipUs ∧
      t.ses.table.map (fun x => (x.slot, x.log)) = s.ses.table.map (fun x => (x.slot, x.log)) ∧
      (s.pwr.heldNow = false → t.ses.table = s.ses.table))

/-- Heat and the forced power state (R27, R29, Tables 2.6, 2.8, 2.10): THROTTLE_N low puts every stove island at 1.25 GHz and the
embers at full pacing at once and shows as shed_stage 5; a sensor at its throttle point sheds and shows as 6; one that has stood
5 °C below it for 10 ms throttles no more; a hearth die above 85 °C sets the extended refresh. -/
def Obligations.ThrottlingSetsTheStage : Prop :=
  (∀ s : State, ∃ t, exec .throttleNAssert s = .next t ∧ t.pins.throttleN = false ∧ shedStage t = 5 ∧ t.pwr = s.pwr ∧
    (∀ r, stoveMHz t r = 1250) ∧ emberPause t = 4) ∧
  (∀ s : State, ∃ t, exec .throttleNRelease s = .next t ∧ t.pins.throttleN = true ∧ shedStage t ≠ 5 ∧ t.pwr = s.pwr ∧
    emberPause t = s.pwr.emberPacing) ∧
  (∀ (s : State) (r : Reading), s.pins.throttleN = true → throttlePoint r.sensor ≤ r.celsius →
    ∃ t, exec (.thermalThrottle r) s = .next t ∧ ⟨r.sensor, r.die, s.localNs⟩ ∈ t.pwr.throttled ∧ shedStage t = 6 ∧
      anyShed t.pwr = true ∧ t.ses = s.ses ∧ t.hrt = s.hrt) ∧
  (∀ (s : State) (r : Reading) (stoodNs : Nat), r.celsius + 5 ≤ throttlePoint r.sensor → 10000000 ≤ stoodNs →
    ∃ t, exec (.thermalThrottleRelease ⟨r, stoodNs⟩) s = .next t ∧ t.ses = s.ses ∧ t.hrt = s.hrt ∧
      ∀ x, x ∈ t.pwr.throttled ↔ x ∈ s.pwr.throttled ∧
        (x.sensor ≠ r.sensor ∨ x.die ≠ r.die ∨ s.localNs < x.at' + stoodNs)) ∧
  (∀ (s : State) (b : Bool), ∃ t, exec (.extendedRefreshChange b) s = .next t ∧ t.pwr.extended = b ∧ t.hrt = s.hrt)

/-- The power cap (R25, R26, Tables 2.6 to 2.8): over a limit, stages are shed in their order, a later one only once the one
before it has reached its bound or has no island; a full window within both limits by 5 % restores one step, the deepest first;
the measured power and current are what PWR_CAP_STATUS reads. -/
def Obligations.PowerCapShedsInOrder : Prop :=
  ∀ (s : State) (w m a : Nat) (rails : List Nat),
    ∃ t, exec (.powerCapEvaluation w m a rails) s = .next t ∧
      t.pwr.powerWatts = min 2047 m ∧ t.pwr.coreAmps = min 2047 a ∧ t.stv = s.stv ∧ t.ses = s.ses ∧
      (fld s.pwr.capCtl 10 0 < w → anyShed s.pwr = false → t.pwr.capHit = true ∧ anyShed t.pwr = true) ∧
      (fld s.pwr.capCtl 10 0 < w → s.pwr.shedPrefill < t.pwr.shedPrefill → 5 ≤ t.pwr.shedEmbed ∨ roleCount s .embed = 0) ∧
      (fld s.pwr.capCtl 10 0 < w → s.pwr.shedDecode < t.pwr.shedDecode → 5 ≤ t.pwr.shedPrefill ∨ roleCount s .prefill = 0) ∧
      (fld s.pwr.capCtl 10 0 < w → s.pwr.emberPacing < t.pwr.emberPacing → 5 ≤ t.pwr.shedDecode ∨ roleCount s .decode = 0) ∧
      (capHolds s.pwr.capCtl w a rails 95 = true → capHolds s.pwr.capCtl w a rails 100 = true → s.pins.throttleN = true →
        s.pwr.throttled = [] → ∀ since, s.pwr.quietSince = some since → since + capWindow s.pwr.capCtl ≤ s.localNs →
        (0 < s.pwr.emberPacing → t.pwr.emberPacing = s.pwr.emberPacing - 1 ∧ t.pwr.shedDecode = s.pwr.shedDecode) ∧
        (s.pwr.emberPacing = 0 → 0 < s.pwr.shedDecode → t.pwr.shedDecode = s.pwr.shedDecode - 1 ∧
          t.pwr.shedPrefill = s.pwr.shedPrefill) ∧
        (s.pwr.emberPacing = 0 → s.pwr.shedDecode = 0 → 0 < s.pwr.shedPrefill →
          t.pwr.shedPrefill = s.pwr.shedPrefill - 1 ∧ t.pwr.shedEmbed = s.pwr.shedEmbed))

/-- Margin checks and retraining (R41, R43, R44, Table 3.7): a check in its turn, or the one that a warm reset has, records the smaller of width and height; the link is
due to retrain, or retrains, on the conditions of R44 while retrain_enable is 1, and a failure is counted either way; any
other check changes nothing. The end of a retraining takes the new trained point and counts it. -/
def Obligations.MarginChecksRetrain : Prop :=
  (∀ (s : State) (l : Link) (width height celsius : Nat) (x : Trained), lookupBy (·.link) (linkId l) s.pwr.links = some x →
    x.retired = false → x.retraining = false →
    (owesCheck s x = false → checkTurn s x = false → exec (.marginCheck l ⟨width, height⟩ celsius) s = .next s) ∧
    ((owesCheck s x = true ∨ checkTurn s x = true) →
      ∃ t y, exec (.marginCheck l ⟨width, height⟩ celsius) s = .next t ∧ t.hrt = s.hrt ∧ t.ses = s.ses ∧
        lookupBy (·.link) (linkId l) t.pwr.links = some y ∧ y.margin = min width height ∧ y.checkedAt = some s.localNs ∧
        t.pwr.marginFailures = s.pwr.marginFailures + (if min width height < fld s.pwr.marginCtl 15 8 then 1 else 0) ∧
        ((y.retraining = true ∨ y.due = true) ↔ (x.due = true ∨ (bit s.pwr.marginCtl 16 = true ∧
          (min width height < fld s.pwr.marginCtl 15 8 ∨ (x.celsius.getD celsius) + 10 < celsius ∨
            celsius + 10 < x.celsius.getD celsius)))) ∧
        (y.retraining = true → bit s.pwr.marginCtl 16 = true ∧ s.pwr.heldNow = false))) ∧
  (∀ (s : State) (l : Link) (celsius : Nat) (x : Trained), lookupBy (·.link) (linkId l) s.pwr.links = some x →
    x.retraining = true → s.pwr.heldNow = false →
    ∃ t, exec (.retrainEnd l celsius) s = .next t ∧
      (∃ y, lookupBy (·.link) (linkId l) t.pwr.links = some y ∧ y.retraining = false ∧ y.celsius = some celsius ∧
        y.margin = 100) ∧
      (∀ n, l = .channel n → t.pwr.foothillRetrains = min 0xFFFF (s.pwr.foothillRetrains + 1) ∧
        t.pwr.ridgeRetrains = s.pwr.ridgeRetrains) ∧
      (∀ n, l = .lane n → t.pwr.ridgeRetrains = min 0xFFFF (s.pwr.ridgeRetrains + 1) ∧
        t.pwr.foothillRetrains = s.pwr.foothillRetrains))

/-- A supply hold stops retraining: during it no window ends, so the link stays diverted, and none begins; once the supply has
recovered the same window can end (R45). -/
def Obligations.HoldKeepsLinksDiverted : Prop :=
  ∀ (s : State) (l : Link) (celsius width height : Nat),
    (s.pwr.heldNow = true → exec (.retrainEnd l celsius) s = .next s ∧
      (∀ c : Crossing, ∀ r : Rail, ∃ t, exec (.dipEpisodeBegin r c) s = .next t ∧ t.pwr.links = s.pwr.links ∧ t.pwr.heldNow = true) ∧
      ∃ t, exec (.marginCheck l ⟨width, height⟩ celsius) s = .next t ∧
        t.pwr.links.map (fun x => (x.link, x.retraining)) = s.pwr.links.map (fun x => (x.link, x.retraining))) ∧
    (s.pwr.heldNow = false → ∀ x, lookupBy (·.link) (linkId l) s.pwr.links = some x → x.retraining = true →
      ∃ t y, exec (.retrainEnd l celsius) s = .next t ∧ lookupBy (·.link) (linkId l) t.pwr.links = some y ∧
        y.retraining = false)

/-- Until ready reads 1 only the ID_, PWR_, FBX_ and FWU_ blocks are served: a write elsewhere changes nothing, a read returns
zero, and no descriptor is fetched (R38). A narrow or misaligned write changes nothing; a value outside its bounds reads back
bounded; a W1C bit clears on a 1 and stands on a 0 (R6, R7, Tables 2.7, 3.6, 13.15). -/
def Obligations.RegisterWritesObeyTheWindow : Prop :=
  ∀ (s : State) (v : Word),
    (∀ off width, (width ≠ 8 ∨ off % 8 ≠ 0 ∨ 0x4000000 ≤ off ∨ (s.pwr.ready = false ∧ earlyBlock off = false)) →
      exec (.registerWrite off width v) s = .next s) ∧
    (s.pwr.ready = false → (∀ off width, earlyBlock off = false → readRegister s off width = 0) ∧
      ∀ q d, exec (.descriptorFetch q d) s = .next s ∧ exec (.seqReread q d) s = .next s) ∧
    (∀ off f, off % 8 = 0 → (s.pwr.ready = true ∨ earlyBlock off = true) → registerFields s off = some f →
      readRegister s off 8 = BitVec.ofNat 64 (Fields.value f) |||
        (Config.rsv off s.freeCount &&& ~~~(BitVec.ofNat 64 (Fields.mask f)))) ∧
    (∃ t, exec (.registerWrite 0xD0000 8 v) s = .next t ∧
      fld t.pwr.capCtl 10 0 = max 600 (min 1600 (fld v 10 0)) ∧ fld t.pwr.capCtl 23 16 = fld v 23 16 ∧
      fld t.pwr.capCtl 42 32 = max 400 (min 1150 (fld v 42 32)) ∧ { t with pwr := s.pwr } = s) ∧
    (s.pwr.ready = true → ∃ t, exec (.registerWrite 0xC0010 8 v) s = .next t ∧
      fld t.pwr.marginCtl 15 8 = max 30 (min 90 (fld v 15 8)) ∧ { t with pwr := s.pwr } = s) ∧
    (s.pwr.ready = true → ∃ t, exec (.registerWrite 0x70020 8 v) s = .next t ∧
      fld t.rdg.poolCtl 31 24 = max 1 (min 64 (fld v 31 24)) ∧ { t with rdg := s.rdg } = s) ∧
    (∃ t, exec (.registerWrite 0xD0020 8 v) s = .next t ∧
      t.pwr.dipSeen = (s.pwr.dipSeen && !bit v 1) ∧ t.pwr.dipCount = s.pwr.dipCount ∧ { t with pwr := s.pwr } = s)

/-! ### Host port -/

/-- No generation of this part waits for a column of a batch, so that room for one admits none. -/
def NoneWaitsForColumn (s : State) : Prop := ∀ x ∈ s.ses.table, ∀ g, x.gener = some g → g.batch.isSome = true

/-- The link comes up out of reset with the modules, widths and rate it trained, and going down halts every queue pair that is not
DISABLED with cause 4 and keeps the attachment and every count; the loss of one module of several leaves the queue pairs; an attach
with version 1 attaches, one with another version is refused with VERSION_REFUSED (R37, R52, R54, R63, R81, Tables 4.16 to
4.19). -/
def Obligations.LinkAndAttachment : Prop :=
  (∀ (s : State) (m h : BitVec 4) (rate n : Nat), s.pwr.heldInReset = false → ∃ t, exec (.hostLinkUp m h rate n) s = .next t ∧
    t.host.modulesUp = m ∧ t.host.halfWidth = h ∧ t.host.rate = rate ∧ t.host.qps = s.host.qps ∧ t.quiet = s.quiet) ∧
  (∀ s : State, ∃ t, exec .hostLinkDown s = .next t ∧ t.host.modulesUp = 0 ∧ t.host.linkDrop = true ∧
    t.host.attached = s.host.attached ∧ t.desc = s.desc ∧ t.quiet = s.quiet ∧
    (∀ q ∈ t.host.qps, q.state = .disabled ∨ (q.state = .halted ∧ q.cause = 4)) ∧
    t.host.qps.map (fun q => (q.id, q.sqNext, q.cqNext, q.flueNext, q.held)) =
      s.host.qps.map (fun q => (q.id, q.sqNext, q.cqNext, q.flueNext, q.held))) ∧
  (∀ (s : State) (m : Nat), s.host.modulesUp &&& ~~~ BitVec.ofNat 4 (1 <<< m) ≠ 0 →
    ∃ t, exec (.hostModuleLost m) s = .next t ∧ t.host.modulesUp = s.host.modulesUp &&& ~~~ BitVec.ofNat 4 (1 <<< m) ∧
      t.host.qps = s.host.qps ∧ t.quiet = s.quiet) ∧
  (∀ (s : State) (v : Word), s.pwr.ready = true → bit v 8 = true → s.host.attached = false →
    ∃ t, exec (.attach v) s = .next t ∧ t.quiet = s.quiet ∧ t.host.qps = s.host.qps ∧
      (fld v 3 0 = 1 → t.host.attached = true ∧ t.host.version = 1 ∧ t.host.compat = bit v 4 ∧ t.host.attachStatus = 0) ∧
      (fld v 3 0 ≠ 1 → t.host.attached = false ∧ t.host.attachStatus = 0x0403))

/-- A write to HST_QP_TABLE_BASE takes effect only while every queue pair is DISABLED, else the register keeps its value; an
ENABLE while base reads 0 fails with the result context invalid (R388). -/
def Obligations.QpTableBaseNeedsAllDisabled : Prop :=
  (∀ (s : State) (v : Word), s.pwr.ready = true → (∀ q ∈ s.host.qps, q.state = .disabled) →
    ∃ t, exec (.qpTableBaseWrite v) s = .next t ∧ t.host.tableBase = v &&& 0xFFFFFFFFFFFFF000#64 ∧
      { t with host := s.host } = s) ∧
  (∀ (s : State) (v : Word), (∃ q ∈ s.host.qps, q.state ≠ .disabled) → exec (.qpTableBaseWrite v) s = .next s) ∧
  (∀ (s : State) (q : Nat) (ctx : Option (BitVec 512)), s.pwr.ready = true → s.host.cmdBusy = false →
    s.host.attached = true → (s.qp q).state = .disabled → s.host.tableBase = 0 →
    ∃ t, exec (.qpEnable q ctx) s = .next t ∧ t.host.cmdResult = 2 ∧ (t.qp q).state = .disabled ∧ t.quiet = s.quiet)

/-- The queue-pair commands of an attached host (R59 to R64, R82, R104, Tables 4.3, 4.4): each from the states that allow it has its
effect and ends with result 0; from another state it changes no queue pair and ends with result 1; a snapshot writes its record with
snap_count last, and one that cannot be written halts with cause 2; a disable ends the descriptors that wait. -/
def Obligations.QueuePairCommands : Prop :=
  ∀ (s : State) (q : Nat), s.pwr.ready = true → s.host.cmdBusy = false → s.host.attached = true →
    ((s.qp q).state = .disabled → ∀ ctx write, ∀ c ∈ [Instr.qpFreeze q, .qpResume q ctx, .qpSnapshot q write, .qpDisable q],
      exec c s = .next (cmdEnd s q 1)) ∧
    ((s.qp q).state = .enabled → ∀ ctx, ∀ c ∈ [Instr.qpEnable q ctx, .qpResume q ctx, .qpDisable q],
      exec c s = .next (cmdEnd s q 1)) ∧
    (∀ w, (s.qp q).state = .disabled → s.host.tableBase ≠ 0 → (readContext w).valid = true →
      ∃ t, exec (.qpEnable q (some w)) s = .next t ∧ (t.qp q).state = .enabled ∧ (t.qp q).ctx = readContext w ∧
        (t.qp q).sqNext = (readContext w).sqInit ∧ (t.qp q).cqNext = (readContext w).cqInit ∧
        (t.qp q).flueNext = (readContext w).flueInit ∧ (t.qp q).held = [] ∧ t.host.cmdResult = 0 ∧
        t.host.cmdBusy = false ∧ t.quiet = s.quiet ∧ t.desc = s.desc) ∧
    ((s.qp q).state ≠ .disabled →
      ∃ t, exec (.qpFreeze q) s = .next t ∧ (t.qp q).state = .frozen ∧ t.host.cmdResult = 0 ∧ t.desc = s.desc ∧
        ((s.qp q).state ≠ .enabled → (t.qp q).cause = (s.qp q).cause) ∧ t.quiet = s.quiet) ∧
    (∀ w, ((s.qp q).state = .frozen ∨ (s.qp q).state = .halted) → (readContext w).valid = true →
      (readContext w).tenant = (s.qp q).ctx.tenant → (readContext w).operator = (s.qp q).ctx.operator →
      NoneWaitsForColumn s →
      ∃ t, exec (.qpResume q (some w)) s = .next t ∧ (t.qp q).state = .enabled ∧ (t.qp q).held = [] ∧
        t.host.cmdResult = 0 ∧ t.quiet = s.quiet ∧ s.out <+: t.out) ∧
    ((s.qp q).state ≠ .disabled → ∀ ring,
      (∃ t, exec (.qpSnapshot q .done) s = .next t ∧ (t.qp q).snapCount = (s.qp q).snapCount + 1 ∧
        (t.qp q).state = (s.qp q).state ∧ t.host.cmdResult = 0 ∧ t.desc = s.desc ∧ t.quiet = s.quiet ∧
        ∃ b : List Byte, t.out = s.out ++ [.hostWrite (s.qp q).ctx.pasid ((s.qp q).ctx.snapBase + 4) (b.drop 4),
          .hostWrite (s.qp q).ctx.pasid (s.qp q).ctx.snapBase (b.take 4)]) ∧
      ∃ t, exec (.qpSnapshot q (.failed ring)) s = .next t ∧ (t.qp q).state = .halted ∧ (t.qp q).cause = 2 ∧
        t.host.cmdResult = 5 ∧ t.desc = s.desc ∧ t.quiet = s.quiet) ∧
    (((s.qp q).state = .frozen ∨ (s.qp q).state = .halted) → (∀ d ∈ s.inflightOf q, d.phase = .waiting) →
      NoneWaitsForColumn s →
      ∃ t, exec (.qpDisable q) s = .next t ∧ (t.qp q).state = .disabled ∧ (t.qp q).held = [] ∧ t.host.cmdResult = 0 ∧
        t.inflightOf q = [] ∧ t.ses = s.ses ∧ t.hrt = s.hrt ∧ t.tie = s.tie)

/-- A DISABLE whose ended descriptors run on other parts stays busy until they have acknowledged or 100 µs have passed, and no longer;
its end takes no descriptor but those it ended (R104). -/
def Obligations.DisableStaysBusyForOtherParts : Prop :=
  ∀ (s : State) (q : Nat), s.host.cmdBusy = true → s.host.cmdQp = q →
    ((∃ d ∈ s.desc, fromQueue q d = true ∧ ∃ p id, d.phase = .sent p id) → s.localNs < s.host.cmdAt + 100000 →
      exec (.qpDisableDone q) s = .next s) ∧
    (((∀ d ∈ s.desc, fromQueue q d = true → ∀ p id, d.phase ≠ .sent p id) ∨ s.host.cmdAt + 100000 ≤ s.localNs) →
      ∃ t, exec (.qpDisableDone q) s = .next t ∧ t.host.cmdBusy = false ∧ t.quiet = s.quiet ∧ t.host.qps = s.host.qps ∧
        (∀ d ∈ t.desc, d ∈ s.desc) ∧ (∀ d ∈ s.desc, fromQueue q d = false ∨ d.discard = false → d ∈ t.desc))

/-- What a refused doorbell leaves (R69, Table 4.13): no count of the doorbells has moved, and DOORBELL_BAD has been written with the
value and the doorbell's number. -/
def ReportsDoorbell (s t : State) (q which : Nat) (v : Seq) : Prop :=
  (t.qp q).sqTail = (s.qp q).sqTail ∧ (t.qp q).cqHead = (s.qp q).cqHead ∧ (t.qp q).flueHead = (s.qp q).flueHead ∧
  (t.qp q).flight.head = (s.qp q).flight.head ∧ (t.qp q).cqNext = (s.qp q).cqNext + 1 ∧ t.desc = s.desc ∧ t.quiet = s.quiet ∧
  ∃ addr rest, t.out = s.out ++ .completion q (s.qp q).ctx.pasid addr (encodeCompletion (s.qp q).cqNext s.host.version
    { subSeq := (s.qp q).sqNext, tag := 0, status := 0, opcode := 2, kind := 1, conds := 0,
      result := word [put 31 0 v.toNat, put 33 32 which], irqNow := false }) :: rest

/-- A doorbell of an ENABLED queue pair (R69, R80, R376, Table 4.13): a value in range becomes the register's count, and after a
flue head the sessions that sat out for room are taken up; one out of range leaves every count and posts DOORBELL_BAD with the
value and the doorbell's number. -/
def Obligations.DoorbellsBoundTheirCounts : Prop :=
  ∀ (s : State) (q : Nat) (val : Word), s.pwr.ready = true → (s.qp q).state = .enabled →
    let p := s.qp q
    let v : Seq := BitVec.ofNat 32 (fld val 31 0)
    (v ≠ p.sqTail →
      (dist p.sqNext v ≤ 2 ^ p.ctx.sqLog2 →
        ∃ t, exec (.sqTailWrite q val) s = .next t ∧ (t.qp q).sqTail = v ∧ (t.qp q).sqNext = p.sqNext ∧ t.desc = s.desc ∧
          t.quiet = s.quiet) ∧
      (2 ^ p.ctx.sqLog2 < dist p.sqNext v → ∃ t, exec (.sqTailWrite q val) s = .next t ∧ ReportsDoorbell s t q 0 v)) ∧
    (v ≠ p.cqHead →
      (dist p.cqHead v ≤ dist p.cqHead p.cqNext →
        ∃ t, exec (.cqHeadWrite q val) s = .next t ∧ (t.qp q).cqHead = v ∧ (t.qp q).cqNext = p.cqNext ∧ t.desc = s.desc ∧
          t.quiet = s.quiet) ∧
      (dist p.cqHead p.cqNext < dist p.cqHead v → ∃ t, exec (.cqHeadWrite q val) s = .next t ∧ ReportsDoorbell s t q 1 v)) ∧
    (v ≠ p.flueHead →
      (dist p.flueHead v ≤ dist p.flueHead p.flueNext →
        exec (.flueHeadWrite q val) s = .next (readmit (s.onQp q fun p => { p with flueHead := v })) ∧
        (NoneWaitsForColumn s → ∃ t, exec (.flueHeadWrite q val) s = .next t ∧ (t.qp q).flueHead = v ∧
          (t.qp q).flueNext = p.flueNext ∧ t.desc = s.desc ∧ t.quiet = s.quiet)) ∧
      (dist p.flueHead p.flueNext < dist p.flueHead v →
        ∃ t, exec (.flueHeadWrite q val) s = .next t ∧ ReportsDoorbell s t q 2 v)) ∧
    (v ≠ p.flight.head →
      (dist p.flight.head v ≤ dist p.flight.head p.flight.next →
        ∃ t, exec (.flightHeadWrite q val) s = .next t ∧ (t.qp q).flight.head = v ∧ t.desc = s.desc ∧ t.quiet = s.quiet) ∧
      (dist p.flight.head p.flight.next < dist p.flight.head v →
        ∃ t, exec (.flightHeadWrite q val) s = .next t ∧ ReportsDoorbell s t q Config.flightDoorbell v))

/-- Fetching (R63, R66, R71, R74): a queue pair fetches in its turn only; a slot with the number expected advances sq_next by one;
another is read again, and after four re-reads the queue pair halts with cause 1; a failed access halts with cause 2; the coalesce
time raises the vector. -/
def Obligations.FetchTakesEachSubmissionOnce : Prop :=
  (∀ (s : State) (q : Nat) (d : BitVec 512),
    (turnOf s ≠ some q → exec (.descriptorFetch q d) s = .next s) ∧
    (turnOf s = some q → dSeq d = (s.qp q).sqNext →
      ∃ t, exec (.descriptorFetch q d) s = .next t ∧ (t.qp q).sqNext = (s.qp q).sqNext + 1 ∧ t.hrt = s.hrt ∧ t.ses = s.ses) ∧
    (turnOf s = some q → dSeq d ≠ (s.qp q).sqNext →
      ∃ t, exec (.descriptorFetch q d) s = .next t ∧ (t.qp q).sqNext = (s.qp q).sqNext ∧ (t.qp q).reReads = 1 ∧
        t.desc = s.desc ∧ t.quiet = s.quiet)) ∧
  (∀ (s : State) (q : Nat) (d : BitVec 512), mayFetch s q = true → (s.qp q).reReads ≠ 0 →
    ∃ t, exec (.seqReread q d) s = .next t ∧
      (dSeq d = (s.qp q).sqNext → (t.qp q).sqNext = (s.qp q).sqNext + 1 ∧ (t.qp q).reReads = 0) ∧
      (dSeq d ≠ (s.qp q).sqNext → (s.qp q).reReads < 4 → (t.qp q).reReads = (s.qp q).reReads + 1 ∧
        (t.qp q).state = .enabled ∧ t.desc = s.desc) ∧
      (dSeq d ≠ (s.qp q).sqNext → 4 ≤ (s.qp q).reReads → (t.qp q).state = .halted ∧ (t.qp q).cause = 1 ∧
        (t.qp q).cqNext = (s.qp q).cqNext + 1 ∧ t.desc = s.desc)) ∧
  (∀ (s : State) (q : Nat) (addr : Word) (ok : Bool), (s.qp q).state = .enabled →
    ∃ t, exec (.dmaError q none addr ok) s = .next t ∧ (t.qp q).state = .halted ∧ (t.qp q).cause = 2 ∧
      (t.qp q).cqNext = (if ok then (s.qp q).cqNext + 1 else (s.qp q).cqNext) ∧ t.desc = s.desc ∧ t.quiet = s.quiet) ∧
  (∀ (s : State) (q at' : Nat), (s.qp q).signalAt = some at' → (s.qp q).ctx.irqEnable = true →
    at' + 1000 * (s.qp q).ctx.coalesceUs ≤ s.localNs →
    ∃ t, exec (.irqCoalesceTimeout q) s = .next t ∧ t.out = s.out ++ [.msix (s.qp q).ctx.msix] ∧
      (t.qp q).signal = 0 ∧ (t.qp q).signalAt = none ∧ t.quiet = s.quiet)

/-- NOP does nothing and completes with OK and a zero result; with fence set it completes once every earlier descriptor of its
queue pair has completed (R76). -/
def Obligations.NopCompletesWithOk : Prop :=
  (∀ (s : State) (q : Nat) (n : Seq) (d : InFlight), canStart s (.qp q n) opNop = some d → (s.qp q).state = .enabled →
    d.conds = [] → d.discard = false →
    ∃ t addr rest, exec (.nop (.qp q n)) s = .next t ∧ t.quiet = s.quiet ∧
      t.out = s.out ++ .completion q (s.qp q).ctx.pasid addr (encodeCompletion (s.qp q).cqNext s.host.version
        { subSeq := n, tag := dTag d.raw, status := 0, opcode := 0, kind := 0, conds := 0, result := 0,
          irqNow := dIrqNow d.raw }) :: rest) ∧
  (∀ (s : State) (q : Nat) (n : Seq) (d : InFlight), s.descriptor (.qp q n) = some d → dFence d.raw = true →
    (∃ e ∈ s.before d.origin, sameQueue e.origin d.origin = true) → exec (.nop (.qp q n)) s = .next s)

/-- QUEUE_CANCEL of a waiting descriptor of the same queue pair ends it and completes after it; one that names no descriptor in flight
completes alone. A deadline that passes before the start ends the descriptor (R77, R94). -/
def Obligations.CancelAndDeadlineEndDescriptors : Prop :=
  (∀ (s : State) (q : Nat) (n : Seq) (d : InFlight), canStart s (.qp q n) opCancel = some d →
    s.descriptor (.qp q (BitVec.ofNat 32 (fld d.raw 287 256))) = none →
    ∃ t, exec (.queueCancel (.qp q n)) s = .next t ∧ t.descriptor (.qp q n) = none ∧ t.quiet = s.quiet) ∧
  (∀ (s : State) (q : Nat) (n : Seq) (d e : InFlight), canStart s (.qp q n) opCancel = some d →
    s.descriptor (.qp q (BitVec.ofNat 32 (fld d.raw 287 256))) = some e → e.phase = .waiting →
    seqBefore (BitVec.ofNat 32 (fld d.raw 287 256)) n = true → NoneWaitsForColumn s →
    ∃ t, exec (.queueCancel (.qp q n)) s = .next t ∧ t.descriptor e.origin = none ∧ t.descriptor (.qp q n) = none ∧
      t.quiet = s.quiet) ∧
  (∀ (s : State) (o : Origin) (d : InFlight) (at' : Nat), s.descriptor o = some d → d.phase = .waiting →
    d.deadline = some at' → at' ≤ s.localNs →
    ∃ t, exec (.deadlineExpire o) s = .next t ∧ t.descriptor o = none ∧ t.quiet = s.quiet)

/-! ### Sessions -/

/-- A request that starts on a session finds nothing to deal with first: no page of it is being copied to another place, no read
of it fails, and no page or share of it is lost (R114, R122). -/
def StartsClean (x : Session) (how : Recovery) : Prop :=
  (∀ p ∈ x.pages, p.target = none) ∧ how.errs = [] ∧ how.twin = [] ∧ lossFor x how = none

/-- No borrowed extent is being given back (R129). -/
def NoneClosing (s : State) : Prop := ∀ b ∈ s.rdg.borrowed, b.closing = false

/-- SESSION_OPEN that no check refuses takes the free slot under the generation it issues, RESIDENT and empty, and completes; the
floor passes that generation, and no other slot, no tier and no byte of the hearth changes (R84, R85, R95, Table 5.5). -/
def Obligations.SessionOpenTakesASlot : Prop :=
  ∀ (s : State) (o : Origin) (param : List Byte) (slot : Nat) (d : InFlight), canStart s o opOpen = some d →
    s.ses.gate = false → openRefusals s d param = [] → slotFree s slot = true →
    ∃ t x, exec (.sessionOpen o param slot) s = .next t ∧ t.session slot = some x ∧ x.state = .resident ∧
      x.tenant = d.tenant ∧ x.gen = nextGen s slot ∧ x.image = openImage d.raw ∧ x.variant = openVariant d.raw ∧
      x.durability = openDurability d.raw ∧ x.cls = openClass d.raw ∧ x.log = [] ∧ x.pages = [] ∧
      x.gener = none ∧ nextGen s slot < t.ses.floor ∧ t.descriptor o = none ∧ t.hrt = s.hrt ∧ t.tie = s.tie ∧
      ∀ n, n ≠ slot → t.session n = s.session n

/-- An APPEND changes the log only at the commit of its prefill: a deferred one, or one on a PARKED session, joins the pending
tokens; the last chunk end commits all tokens behind the log, an earlier one counts (R96, R97, R234). -/
def Obligations.AppendCommitsWithItsPrefill : Prop :=
  (∀ (s : State) (o : Origin) (param : List Byte) (how : Recovery) (d : InFlight) (x : Session) (segs : List Segment)
      (own : List (Nat × Nat)) (bad : Nat),
    startSession s o opAppend false = some (d, .ok x) → (∀ p ∈ x.pages, p.target = none) → s.host.compat = false →
    appendSegments d.raw ≠ 0 → param.length = appendLen d.raw → readSegments (appendSegments d.raw) param = some segs →
    appendTokens s (sessionImage s x).vocab o segs = some (own, bad) →
    tokensThatFit (sessionImage s x) x own.length = own.length →
    (x.state = .parked ∨ appendDefer d.raw = true) →
    ∃ t y, exec (.sessionAppend ⟨o, how⟩ param) s = .next t ∧ t.session x.slot = some y ∧ y.pending = x.pending ++ own ∧
      y.log = x.log ∧ t.descriptor o = none ∧ t.hrt = s.hrt) ∧
  (∀ (s : State) (slot : Nat) (x : Session) (p : Prefill), s.session slot = some x → x.prefill = some p →
    s.pwr.heldNow = false → 1 < p.left →
    ∃ t y, exec (.prefillChunkEnd slot) s = .next t ∧ t.session slot = some y ∧ y.log = x.log ∧
      y.prefill = some { p with left := p.left - 1 }) ∧
  (∀ (s : State) (slot : Nat) (x : Session) (p : Prefill), s.session slot = some x → x.prefill = some p →
    s.pwr.heldNow = false → p.left = 1 → waitsForTwin s x = false → p.after = 0 →
    ∃ t y, exec (.prefillChunkEnd slot) s = .next t ∧ t.session slot = some y ∧ y.log = x.log ++ p.tokens ∧
      y.prefill = none ∧ y.pending = [] ∧ t.descriptor p.origin = none)

/-- SESSION_GENERATE on a RESIDENT session that nothing refuses, that has no page to mend and no token pending, starts a generation:
its descriptor runs, nothing is committed, no byte of the hearth changes (R98, R99, Table 5.8). -/
def Obligations.GenerateStartsUncommitted : Prop :=
  ∀ (s : State) (o : Origin) (param : List Byte) (how : Recovery) (d : InFlight) (x : Session),
    startSession s o opGenerate false = some (d, .ok x) → StartsClean x how → lacksFlue s o = false → x.replaying = false →
    refusedF16 (genTemp d.raw) = false → refusedF16 (genTopP d.raw) = false → x.state = .resident →
    x.pending = [] → x.log.length < x.context →
    ∃ t y g e, exec (.sessionGenerate ⟨o, how⟩ param) s = .next t ∧ t.session x.slot = some y ∧ y.gener = some g ∧
      g.origin = o ∧ g.maxTokens = genMaxTokens d.raw ∧ g.temp = genTemp d.raw ∧ g.committed = 0 ∧ y.log = x.log ∧
      t.descriptor o = some e ∧ e.phase = .running ∧ t.hrt = s.hrt

/-- PARK leaves a session PARKED with no page in a hearth frame, for class 2 and 3 once the twin has its copies; REVIVE brings every
page into a hearth frame; SNAPSHOT makes a PARKED copy beside its source; CLOSE frees the slot under its next generation, and a
second one joins the first; so does the end of a stub's time free its slot (R84, R89, R92, R100, R120, R346). -/
def Obligations.SessionsMoveBetweenRestingStates : Prop :=
  (∀ (s s' : State) (o : Origin) (how : Recovery) (d : InFlight) (x : Session) (placed : List Page) (g : Nat),
    startSession s o opPark false = some (d, .ok x) → StartsClean x how → s.host.compat = false → parkWhere d.raw ≠ 3 →
    x.state = .resident → how.shares.contains .full = false →
    placePark (tellShares s x (.park (parkWhere d.raw) (parkNoNarrow d.raw))) x (parkWhere d.raw) (parkNoNarrow d.raw) =
      some (s', placed, g) → takenUncleared s s' = [] →
    ∃ t y, exec (.sessionPark ⟨o, how⟩) s = .next t ∧ t.session x.slot = some y ∧ y.log = x.log ∧
      ((x.durability < 2 ∨ twinServes s' = false) → y.state = .parked ∧ y.pages = placed ∧ t.descriptor o = none ∧
        ∀ p ∈ y.pages, ∀ f, p.place ≠ .hearth f) ∧
      (2 ≤ x.durability → twinServes s' = true → y.state = .resident ∧ y.parkPlaced = placed ∧
        ∃ bytes, y.parkWaits = some (o, bytes))) ∧
  (∀ (s s' : State) (o : Origin) (twin : List TwinCopy) (micros : Nat) (errs : List ReadError) (d : InFlight) (x : Session),
    startSession s o opRevive true = some (d, .ok x) → (∀ p ∈ x.pages, p.target = none) → s.host.compat = false →
    x.kvLost = none → x.state = .parked → x.pending = [] →
    bringIn (tellShares s x (.revive 0)) x.slot twin 0 = .resident s' → takenUncleared s s' = [] →
    ∃ t y, exec (.sessionRevive o twin ⟨micros, [], errs⟩) s = .next t ∧ t.session x.slot = some y ∧ y.state = .resident ∧
      y.log = x.log ∧ t.descriptor o = none ∧ ∀ p ∈ y.pages, ∃ f, p.place = .hearth f) ∧
  (∀ (s s' told : State) (o : Origin) (slot : Nat) (how : Recovery) (d : InFlight) (x : Session) (placed : List Page),
    startSession s o opSnapshot false = some (d, .ok x) → StartsClean x how → s.host.compat = false →
    parkWhere d.raw ≠ 3 → slotsTaken s < slotLimit s → s.fbx.trngOk = true → slotFree s slot = true →
    (x.state = .resident ∨ x.state = .parked) → how.shares.contains .full = false →
    told = tellShares s x (.copy (mkHandle s.rdg.part x.tenant slot (nextGen s slot)) (parkWhere d.raw)) →
    placeParked (drawKey told).1 { x with slot := slot, pageKey := (drawKey told).2 } (parkWhere d.raw)
      (snapshotPages s x) = some (s', placed) → takenUncleared s s' = [] →
    ∃ t y z, exec (.sessionSnapshot ⟨o, how⟩ slot) s = .next t ∧ t.session slot = some y ∧ y.state = .parked ∧
      y.log = x.log ∧ y.gener = none ∧ y.pages = placed ∧ t.descriptor o = none ∧
      t.session x.slot = some z ∧ z.state = x.state ∧ z.log = x.log ∧ z.gener = x.gener) ∧
  (∀ (s : State) (o : Origin) (d : InFlight) (x : Session), startSession s o opClose true = some (d, .ok x) →
    (closing s d = none →
      ∃ t y, exec (.sessionClose o) s = .next t ∧ t.session x.slot = some y ∧ y.state = .free ∧ y.gen = x.gen + 1 ∧
        y.log = [] ∧ y.pages = [] ∧ y.gener = none ∧ y.prefill = none ∧
        (stillEnding (closeSession s x) (dHandle d.raw) = none → t.descriptor o = none)) ∧
    (∀ first, closing s d = some first →
      exec (.sessionClose o) s = .next (s.onDescriptor o fun d => { d with phase := .follows first 0 }))) ∧
  (∀ (s : State) (slot : Nat) (x : Session), s.session slot = some x → x.state = .moved → x.expires ≤ s.localNs →
    ∃ t y, exec (.stubExpire slot) s = .next t ∧ t.session slot = some y ∧ y.state = .free ∧ y.gen = x.gen + 1 ∧
      t.hrt = s.hrt)

/-- SESSION_MOVE (R100, R106 to R111): to its own part it does nothing; an idle session of one part is handed over and leaves a stub
with the new handle; one that generates, or has shares on other parts, is copied in rounds until few enough pages are dirty on every
part, and handed over once armed, at a boundary at which it holds no column. -/
def Obligations.MoveHandsSessionsOver : Prop :=
  (∀ (s : State) (o : Origin) (a : MoveAnswer) (how : Recovery) (d : InFlight) (x : Session),
    startSession s o opMove false = some (d, .ok x) → s.host.compat = false → moveDest d.raw = s.rdg.part →
    ∃ t, exec (.sessionMove ⟨o, how⟩ a) s = .next t ∧ t.quiet = s.quiet ∧ t.descriptor o = none) ∧
  (∀ (s : State) (o : Origin) (h : Word) (group : List Nat) (how : Recovery) (d : InFlight) (x : Session),
    startSession s o opMove false = some (d, .ok x) → StartsClean x how → s.host.compat = false →
    moveDest d.raw ≠ s.rdg.part → s.partUp (moveDest d.raw) = true →
    ∃ t y, exec (.sessionMove ⟨o, how⟩ (.ready h group)) s = .next t ∧ t.session x.slot = some y ∧
      (x.gener = none → shareParts s x = [] →
        y.state = .moved ∧ y.movedTo = h ∧ y.gen = x.gen ∧ y.pages = [] ∧ t.descriptor o = none ∧
        y.expires = s.localNs + 1000000 * fld s.ses.moveCtl 31 16) ∧
      ((x.gener ≠ none ∨ shareParts s x ≠ []) → y.log = x.log ∧ y.gener = x.gener ∧ (∀ p ∈ y.pages, p.dirty = false) ∧
        ∃ m, y.move = some m ∧ m.origin = o ∧ m.handle = h ∧ m.group = group ∧ m.round = 1 ∧ m.armed = false)) ∧
  (∀ (s : State) (slot : Nat) (dirty : List Nat) (x : Session) (m : Move), s.session slot = some x → x.move = some m →
    s.pwr.heldNow = false → m.armed = false → NoneWaitsForColumn s →
    ∃ t y n, exec (.moveRoundEnd ⟨slot, dirty⟩) s = .next t ∧ t.session slot = some y ∧ y.move = some n ∧ y.log = x.log ∧
      (n.armed = true ↔ ∀ k ∈ dirtyPages x :: dirty, k ≤ handoverPages s) ∧
      ((∃ k ∈ dirtyPages x :: dirty, handoverPages s < k) → n.round = m.round + 1 ∧ (∀ p ∈ y.pages, p.dirty = false) ∧
        (maxRounds s ≤ m.round → n.sitsOut = true))) ∧
  (∀ (s : State) (slot : Nat) (x : Session) (m : Move), s.session slot = some x → x.move = some m →
    s.pwr.heldNow = false → m.armed = true →
    (x.gener.any (fun g => g.batch.isSome) = true → exec (.moveHandover slot) s = .next s) ∧
    (x.gener.any (fun g => g.batch.isSome) = false → s.partUp m.dest = true →
      ∃ t y, exec (.moveHandover slot) s = .next t ∧ t.session slot = some y ∧ y.state = .moved ∧ y.movedTo = m.handle ∧
        y.gener = none ∧ t.descriptor m.origin = none))

/-- Background work of the tiers (R121, R126, R128, R341, R342): a page copy switches the page or leaves it where it is, auto-park
parks the oldest candidate, demotion and promotion give every page of one session a target, a cleared granule leaves the
list, one that fails twice is retired with an isolation event each time. -/
def Obligations.TiersMigrateAndClear : Prop :=
  (∀ (s : State) (slot page : Nat) (ok : Bool) (x : Session) (p : Page) (target : PageTarget),
    s.session slot = some x → x.pages.find? (fun q => q.index == page) = some p → p.target = some target →
    s.pwr.heldNow = false → copyWaits s target = false → NoneClosing s →
    ∃ t y q, exec (.migrationSwitch slot page ok) s = .next t ∧ t.session slot = some y ∧ q ∈ y.pages ∧
      q.index = page ∧ q.target = none ∧ storedBytes q = storedBytes p ∧ (ok = false → q.place = p.place) ∧
      y.log = x.log ∧ t.hrt = s.hrt) ∧
  (∀ (s s' : State) (c : Nat) (cs : List Nat), s.pwr.ready = true → s.pwr.heldNow = false → autoParks s = true →
    fld s.tie.placeCtl 15 8 < hearthPct s → parkCandidates s = c :: cs → autoPark s c = some s' →
    ∃ t y, exec .autoPark s = .next t ∧ t.session c = some y ∧ y.state = .parked) ∧
  (∀ (s : State) (x : Session) (xs : List Session) (places : List (Word × Nat)), s.pwr.ready = true →
    s.pwr.heldNow = false → NoneClosing s → fld s.tie.placeCtl 23 16 < foothillPct s 0 → demotable s = x :: xs →
    s.session x.slot = some x → demotionPlaces s x = some places →
    ∃ t y, exec .demotion s = .next t ∧ t.session x.slot = some y ∧ y.log = x.log ∧ t.hrt = s.hrt ∧
      ∀ q ∈ y.pages, demotes q = true → ∃ e f, q.target = some (.pool e f)) ∧
  (∀ (s : State) (x : Session) (xs : List Session), s.pwr.ready = true → s.pwr.heldNow = false →
    promotable s = x :: xs → s.session x.slot = some x → foothillPct s 0 < fld s.tie.placeCtl 31 24 →
    foothillPct s (homeward s + ((x.pages.filter promotes).map pageGranules).sum) ≤ fld s.tie.placeCtl 31 24 →
    ∃ t y, exec .promotion s = .next t ∧ t.session x.slot = some y ∧ y.log = x.log ∧ t.hrt = s.hrt ∧
      ∀ q ∈ y.pages, promotes q = true → q.target = some .home) ∧
  (∀ (s : State) (verified : Bool) (u : Uncleared) (rest : List Uncleared), s.pwr.ready = true →
    s.pwr.heldNow = false → s.tie.uncleared = u :: rest → u.extent = none →
    ∃ t, exec (.foothillClear verified) s = .next t ∧ t.ses = s.ses ∧ t.hrt = s.hrt ∧
      (verified = true → t.tie.uncleared = rest ∧ t.tie.retiredGranules = s.tie.retiredGranules ∧ t.fbx = s.fbx) ∧
      (verified = false → t.fbx.isoSeen = true ∧ t.fbx.isoCause = 3 ∧ t.fbx.isoTenant = u.tenant ∧
        t.fbx.verifyFails = min 0xFFFF (s.fbx.verifyFails + 1) ∧
        (u.failed = true → t.tie.uncleared = rest ∧ t.tie.retiredGranules = s.tie.retiredGranules + 1) ∧
        (u.failed = false → t.tie.uncleared = { u with granules := 1, failed := true } :: rest)))

/-! ### Steps, masks, drafts and the twin's acknowledgement -/

/-- STEP_COMMIT (R49, R177, R178, R346): a close that a hold stops, whose step is not at its end, or one of whose sessions lacks
logits or waits for its twin changes nothing; one whose masks are not ready commits nothing; the close of a step on a batch of
one column that its run does not end commits exactly the run's tokens behind the log as generated ones, and counts them. -/
def Obligations.StepCommitAppendsItsRun : Prop :=
  (∀ (s : State) (batch : Nat) (cols : List ColumnLogits) (b : Batch), s.batch batch = some b →
    (s.pwr.heldNow = true ∨ atClose s b = false ∨ ∃ c ∈ b.columns, closable s cols c.1 = false) →
    exec (.stepCommit batch cols) s = .next s) ∧
  (∀ (s : State) (batch : Nat) (cols : List ColumnLogits) (b : Batch), s.batch batch = some b → maskWaiters s b ≠ [] →
    ∃ t, exec (.stepCommit batch cols) s = .next t ∧ t.hrt = s.hrt ∧ t.tie = s.tie ∧ t.desc = s.desc ∧
      ∀ n, (t.session n).map (fun z => { z with maskWaited := false }) =
        (s.session n).map (fun z => { z with maskWaited := false })) ∧
  (∀ (s s0 s1 : State) (batch slot n : Nat) (cols : List ColumnLogits) (b : Batch) (x x0 y : Session) (g : Gen)
      (got : List (Nat × Nat)) (r : StepRun),
    s.batch batch = some b → b.columns = [(slot, n)] → s.pwr.ready = true → s.pwr.heldNow = false → atClose s b = true →
    closable s cols slot = true → maskWaiters s b = [] → s.session slot = some x → x.gener = some g → g.replay = none →
    (sessionImage s x).weightsLost = false → recoverStep s x g (columnsTold cols slot).how = .ok s0 →
    s0.session slot = some x0 →
    allotPages s0 slot (missingPages (sessionImage s x) x0 (blocksForWrite (sessionImage s x) x0 (g.drafts.length + 1))) true =
      (s1, some got) → takenUncleared s s1 = [] →
    (addPages s1 slot got).session slot = some y →
    r = sampledRun y g (sessionImage s x).vocab (columnsTold cols slot).logits → r.ends = false →
    lateAt (addPages s1 slot got) g = false →
    roomFor (addPages s1 slot got) g.origin (columnsTold cols slot).room
      (stepRecords (sessionHandle (addPages s1 slot got) y) (originSeq g.origin) g.step 0 r.tokens
        (detokenise (sessionImage s x).vocab y.tail r.tokens false).1).length = true →
    ∃ t z h, exec (.stepCommit batch cols) s = .next t ∧ t.session slot = some z ∧ z.gener = some h ∧
      z.log = y.log ++ r.tokens.map (fun k => (k, 3)) ∧ h.committed = g.committed + r.tokens.length ∧
      h.step = g.step + 1)

/-- ACTIVATION_FRAME (R176, R177, R220, R355): on stage 0 the frame of the batch's step queues the work of the close, any other
changes nothing; on a later stage a higher committed length commits under a new pair, a lower one rolls the share back, length 0
ends it, and a frame with columns starts the layer work and goes on to the next stage with what the layers make of its columns. -/
def Obligations.ActivationFramesCarryCommits : Prop :=
  (∀ (s : State) (f : ActFrame) (i : Image) (b : Batch), imageById s f.image = some i → s.pwr.ready = true →
    s.pwr.heldNow = false → i.stage = 0 → s.batch f.batch = some b →
    (b.image = i.slot → b.step = f.step → b.back = false → b.drafting = false →
      ∃ t, exec (.activationFrame f) s = .next t ∧ t.batch f.batch = some { b with back := true } ∧
        t.ses.table = s.ses.table ∧ t.ses.arrivals = s.ses.arrivals + 3 ∧ t.hrt = s.hrt ∧ t.img = s.img ∧ t.desc = s.desc) ∧
    ((b.image ≠ i.slot ∨ b.step ≠ f.step ∨ b.back = true ∨ b.drafting = true) →
      exec (.activationFrame f) s = .next s)) ∧
  (∀ (s : State) (f : ActFrame) (i : Image) (r : ColumnRecord) (x : Session), imageById s f.image = some i →
    s.pwr.ready = true → s.pwr.heldNow = false → i.stage ≠ 0 → f.records = [r] →
    guestOf s r.handle = some x → s.session x.slot = some x →
    (r.columns = 0 → x.log.length < r.length → missingPages i x (blocksForWrite i x (r.length - max 1 x.log.length)) = [] →
      hearthFits s 0 false = true →
      ∃ t y, exec (.activationFrame f) s = .next t ∧ t.session x.slot = some y ∧
        y.log = x.log ++ List.replicate (r.length - x.log.length) (0, 3) ∧ y.wseq = x.wseq + 1 ∧
        y.epoch = s.rdg.map.epoch ∧ t.desc = s.desc ∧ ∀ n, n ≠ x.slot → t.session n = s.session n) ∧
    (r.columns = 0 → 0 < r.length → r.length < x.log.length →
      ∃ t y, exec (.activationFrame f) s = .next t ∧ t.session x.slot = some y ∧ y.log = x.log.take r.length ∧
        (∀ l ∈ y.layers, ∀ e ∈ l.slots, e.2.1 < r.length - 1) ∧
        y.pages.map (fun p => (p.index, p.place)) = x.pages.map (fun p => (p.index, p.place)) ∧
        t.desc = s.desc ∧ t.tie = s.tie ∧ ∀ n, n ≠ x.slot → t.session n = s.session n) ∧
    (r.columns = 0 → r.length = 0 → ∃ t, exec (.activationFrame f) s = .next t ∧ t.session x.slot = none) ∧
    (∀ p, r.columns ≠ 0 → 0 < r.length → r.length = x.log.length → f.batch < prefillBatch → nextStage i = some p →
      ∃ u, exec (.activationFrame f) s = .next (sendFrame u p 2 r.cls (.activation
          { f with epoch := s.rdg.map.epoch, residual := stageColumns i f })) ∧
        u.session x.slot = some { x with reads := stepReads s (sessionImage s x) x r.columns } ∧
        (i.slot, f.batch, r.columns) ∈ u.ses.passing ∧ u.ses.arrivals = s.ses.arrivals + layerItems i ∧
        u.desc = s.desc ∧ u.hrt = s.hrt ∧ u.tie = s.tie ∧ u.rdg = s.rdg ∧ u.blw = s.blw))

/-- Masks, drafts and acknowledgements touch their own session only (R178, R181, R237, R238, R257, R346): a mask is computed in
column order, a drafted token joins those planned, a refill fills the window; the last acknowledgement lets waiting records go and
a waiting PARK complete; TOKENISE keeps the tokens of a text for its descriptor and changes no other state (R246, R249). -/
def Obligations.MasksDraftsAcksAndTokensKeepOtherState : Prop :=
  (∀ (s : State) (slot column : Nat) (x : Session) (g : Gen), s.session slot = some x → x.gener = some g →
    exec (.grammarMask slot column) s =
      .next (if (maskFor x g).isSome = true ∧ column ≤ g.drafts.length ∧ column = x.maskReady
        then (unkindle s (.mask slot column)).putSession { x with maskReady := column + 1, maskWaited := false } else s)) ∧
  (∀ (s : State) (batch : Nat) (b : Batch) (d : Draft) (x : Session) (g : Gen) (p : Nat × List (Nat × Nat)),
    s.batch batch = some b → b.drafting = true → s.pwr.heldNow = false → s.session d.slot = some x → x.gener = some g →
    maskFor x g = none → g.batch = some batch → g.drafts.length < g.planned → g.refilled = true →
    drawDraft x g (sessionImage s x).vocab (draftLogits d.parts) = some p →
    ∃ t y, exec (.draftPass batch [d]) s = .next t ∧ t.session d.slot = some y ∧
      { y with reads := x.reads } = { x with gener := some { g with drafts := g.drafts ++ [p] } } ∧ t.hrt = s.hrt ∧
      t.desc = s.desc ∧ ∀ n, n ≠ d.slot →
        (t.session n).map (fun z => { z with reads := [] }) = (s.session n).map (fun z => { z with reads := [] })) ∧
  (∀ (s : State) (slot : Nat) (x : Session) (g : Gen), s.session slot = some x → x.gener = some g →
    exec (.draftRefill slot) s =
      .next (if g.store = true ∧ g.refilled = false ∧ s.pwr.heldNow = false
        then s.putSession { x with gener := some { g with refilled := true } } else s)) ∧
  (∀ (s : State) (slot k : Nat) (x : Session), s.session slot = some x → x.acks = k + 2 →
    exec (.buddyAcknowledge slot) s = .next (s.putSession { x with acks := k + 1 })) ∧
  (∀ (s : State) (slot : Nat) (x : Session), s.session slot = some x → x.acks = 1 →
    (x.parkWaits = none → ∃ t y, exec (.buddyAcknowledge slot) s = .next t ∧ t.session slot = some y ∧
      y = { x with acks := 0, copied := true, heldRecords := [] } ∧ t.hrt = s.hrt ∧
      ∀ n, n ≠ slot → t.session n = s.session n) ∧
    (∀ o r, x.parkWaits = some (o, r) → ∃ t y, exec (.buddyAcknowledge slot) s = .next t ∧ t.session slot = some y ∧
      y.state = .parked ∧ y.pages = x.parkPlaced ∧ y.parkWaits = none ∧ y.acks = 0 ∧ t.descriptor o = none ∧
      ∀ n, n ≠ slot → t.session n = s.session n)) ∧
  (∀ (s : State) (o : Origin) (segment trust tr : Nat) (text : List Byte) (d : InFlight) (v : Vocab),
    s.descriptor o = some d →
    ((dOpcode d.raw = opAppend ∧ tr = trust ∧ ∃ x : Session, slotOf s d = some x ∧ v = (sessionImage s x).vocab) ∨
      (dOpcode d.raw = opEmbed ∧ tr = 1 ∧ v = (s.image (iSlot (embedImage d.raw))).vocab)) →
    (∀ e ∈ s.knd.tokenised, ¬(e.1 = o ∧ e.2.1 = segment)) →
    ∃ t, exec (.tokenise o segment trust text) s = .next t ∧ { t with knd := s.knd } = s ∧
      t.knd.tokenised = s.knd.tokenised ++ [(o, segment, (tokeniseText v tr text).1)] ∧
      { t.knd with tokenised := s.knd.tokenised, inReplaced := s.knd.inReplaced, queues := s.knd.queues } = s.knd)

/-! ### Stoves -/

/-- The item that an island ends leaves the results of its tile, and the island takes the head of its queue; before an item of
another tenant its crest is cleared, and a clear that fails takes a stove out of service as an isolation event; in a hold it takes
none (R48, R226 to R228, R230, R341, R345). At a split interval no island changes while roles are frozen, and a split outside its
bounds moves one island towards them (R231 to R233). -/
def Obligations.IslandsWorkAndChangeRoles : Prop :=
  (∀ (s : State) (island : Nat) (crestOk : Bool) (tile : StoveTile) (i : Island) (it : Item) (rest : List Item),
    s.stv.islands.find? (fun i => i.number == island) = some i → s.pwr.heldNow = false → s.pwr.ready = true →
    (s.fwu.attemptAt = none ∨ i.role = .decode) → i.leaving = none → s.stv.waiting = [] → i.queue = it :: rest →
    i.stoves ≠ 0 → (i.tenant = none ∨ i.tenant = some it.tenant ∨ crestOk = true) →
    ∃ t j, exec (.workItemEnd island ⟨crestOk, tile⟩) s = .next t ∧
      t.stv.islands.find? (fun i => i.number == island) = some j ∧ j.running = some it ∧ j.queue = rest ∧
      j.results = (if i.running.isSome then tileResults tile else i.results) ∧ j.stoves = i.stoves ∧ j.role = i.role ∧
      j.tenant = some it.tenant ∧ t.fbx = s.fbx ∧ t.ses = s.ses ∧ t.hrt = s.hrt) ∧
  (∀ (s : State) (island old : Nat) (tile : StoveTile) (i : Island) (it : Item) (rest : List Item),
    s.stv.islands.find? (fun i => i.number == island) = some i → s.pwr.heldNow = false → s.pwr.ready = true →
    (s.fwu.attemptAt = none ∨ i.role = .decode) → i.leaving = none → s.stv.waiting = [] → i.queue = it :: rest →
    1 < i.stoves → i.tenant = some old → old ≠ it.tenant →
    ∃ t j, exec (.workItemEnd island ⟨false, tile⟩) s = .next t ∧
      t.stv.islands.find? (fun i => i.number == island) = some j ∧ j.running = some it ∧ j.stoves = i.stoves - 1 ∧
      t.fbx.isoSeen = true ∧ t.fbx.isoCause = 3 ∧ t.fbx.isoTenant = old ∧ t.ses = s.ses ∧ t.hrt = s.hrt) ∧
  (∀ (s : State) (island : Nat) (crestOk : Bool) (tile : StoveTile) (i : Island),
    s.stv.islands.find? (fun i => i.number == island) = some i → s.pwr.heldNow = true → s.pwr.ready = true →
    ∃ t, exec (.workItemEnd island ⟨crestOk, tile⟩) s = .next t ∧
      t.stv.islands.find? (fun i => i.number == island) =
        some { i with running := none, results := if i.running.isSome then tileResults tile else i.results } ∧
      { t with stv := s.stv } = s) ∧
  (∀ (s : State) (m : SplitSample), rolesFrozen s = true →
    ∃ t, exec (.splitInterval m) s = .next t ∧ { t.stv with waitSeen := s.stv.waitSeen } = s.stv ∧ { t with stv := s.stv } = s) ∧
  (∀ (s : State) (m : SplitSample) (a r : Role) (i : Island), rolesFrozen s = false → s.pwr.ready = true →
    s.stv.boundsMove = some (a, r) →
    s.stv.islands.find? (fun i => i.heading == a && i.leaving.isNone) = some i →
    s.stv.islands.find? (fun j => j.number == i.number) = some i →
    ∃ t j, exec (.splitInterval m) s = .next t ∧ t.stv.islands.find? (fun j => j.number == i.number) = some j ∧
      { t with stv := s.stv } = s ∧
      (i.running = none → j.role = r ∧ j.leaving = none ∧ t.stv.moves = min 0xFFFF (s.stv.moves + 1)) ∧
      (i.running ≠ none → j.role = i.role ∧ j.leaving = some r ∧ j.running = i.running ∧ t.stv.moves = s.stv.moves))

/-- The codes of documents from the encoder's outputs for their tokens: pooled, projected, binarised (R241). -/
def codesOf (i : Image) (pooling width : Nat) (outputs : List TokenRows) : List Byte :=
  outputs.flatMap fun t => binarise width (projected i width (pooled pooling i.hidden (t.take (encoderLimit i))))

/-- EMBED_BATCH without an index (R240 to R242): with every check passed, no document over the encoder's limit and the outputs
of all there, the codes of its documents in order go to out_ptr, they are counted, it completes, and no session, frame or
memory changes. -/
def Obligations.EmbedBatchDeliversItsCodes : Prop :=
  ∀ (s : State) (q : Nat) (m : Seq) (param : List Byte) (outputs : List TokenRows) (d : InFlight) (i : Image) (w : Nat)
      (docs : List Document),
    canStart s (.qp q m) opEmbed = some d → indexBlocked s d = false → embedParts s d param = .ok (i, none, w, docs) →
    pastDeadline s d = false → s.srch.waits = [] → docs ≠ [] →
    (∀ n e, docs[n]? = some e → (docTokens s i.vocab (.qp q m) n e).1.length ≤ encoderLimit i) →
    outputs.length = docs.length →
    ∃ t rest, exec (.embedBatch (.qp q m) param (outputs.map some)) s = .next t ∧ t.descriptor (.qp q m) = none ∧
      t.out = s.out ++ .hostWrite (s.qp q).ctx.pasid (embedOut d.raw) (codesOf i (fld d.raw 371 370) w outputs) :: rest ∧
      t.srch = s.srch ∧ t.ses = s.ses ∧ t.hrt = s.hrt ∧ t.tie = s.tie ∧ t.stv.truncated = s.stv.truncated ∧
      t.stv.docs = min 0xFFFFFFFF (s.stv.docs + docs.length)

/-! ### Images, variants, tuning -/

/-- IMAGE_LOAD of an image that every check passes fills the lowest empty slot; it is ready, unless it is stage 0 and another stage
has yet to report, and then it waits (R190 to R193). A waiting image is ready once every other stage has reported, and after
stage_wait_s without it is unloaded (R192). An unload of an image in use, or of none, changes nothing but its own descriptor; on
stage 0 it empties the slot; on another stage it asks stage 0, and the slot is unloading until stage 0 answers (R194). -/
def Obligations.ImagesLoadWaitAndUnload : Prop :=
  (∀ (s : State) (o : Origin) (img tenants : List Byte) (group : List Nat) (d : InFlight) (i : Image) (k : Nat)
      (ks : List Nat),
    canStart s o opImageLoad = some d → loadUnload d.raw = false → img.length = loadLength d.raw →
    (loadGroup d.raw = 0 → i.stages = 1) →
    loadChecks s img (imageRecord img (if loadTenants d.raw = 0 then none else some tenants)
      (if loadGroup d.raw = 0 then [s.rdg.part] else group)) = .ok i →
    loadRoom i s = true → sectionsMatch img = true → awaitsClear i s = false →
    (∀ j ∈ s.img.slots, j.origin ≠ some o) → emptySlots s = k :: ks →
    ∃ t, exec (.imageLoad o img tenants group) s = .next t ∧ (t.image k).id = i.id ∧
      (t.image k).weightFrames = framesFor s i.framesPerBank ∧ t.ses = s.ses ∧
      (∀ n, n ≠ k → t.image n = s.image n) ∧
      ((i.stage ≠ 0 ∨ stagesMissing s i = []) → (t.image k).state = .ready ∧ (t.image k).origin = none ∧
        (t.image k).loads = ((s.image k).loads + 1) % 2 ^ 32 ∧ t.descriptor o = none) ∧
      (i.stage = 0 → stagesMissing s i ≠ [] → (t.image k).state = .waiting ∧ (t.image k).origin = some o ∧
        (t.image k).loads = (s.image k).loads)) ∧
  (∀ (s : State) (slot : Nat), (s.image slot).state = .waiting → stagesMissing s (s.image slot) = [] →
    (s.image slot).slot = slot →
    ∃ t, exec (.imageLoadComplete slot) s = .next t ∧ (t.image slot).state = .ready ∧
      (t.image slot).loads = ((s.image slot).loads + 1) % 2 ^ 32 ∧ t.ses = s.ses ∧ t.hrt = s.hrt ∧ t.tie = s.tie ∧
      ∀ o, (s.image slot).origin = some o → t.descriptor o = none) ∧
  (∀ (s : State) (slot : Nat) (o : Origin), (s.image slot).state = .waiting → (s.image slot).waitUntil ≤ s.localNs →
    stagesMissing s (s.image slot) ≠ [] → (s.image slot).origin = some o →
    ∃ t, exec (.stageWaitTimeout slot) s = .next t ∧
      t.image slot = { slot := slot, loads := (s.image slot).loads } ∧ t.descriptor o = none) ∧
  (∀ (s : State) (o : Origin) (d : InFlight), canStart s o opImageLoad = some d → loadUnload d.raw = true →
    (imageOf s (dHandle d.raw) = none → exec (.imageUnload o) s = .next (refuse s o .imageNotBound)) ∧
    (∀ i, imageOf s (dHandle d.raw) = some i →
      (unloadBusy s i = true → exec (.imageUnload o) s = .next (refuse s o .sessionBusy)) ∧
      (unloadBusy s i = false → i.stage = 0 →
        ∃ t, exec (.imageUnload o) s = .next t ∧ t.image i.slot = { slot := i.slot, loads := (s.image i.slot).loads } ∧
          t.descriptor o = none ∧ ∀ n, n ≠ i.slot → t.image n = s.image n) ∧
      (∀ p, unloadBusy s i = false → i.stage ≠ 0 → i.group[0]? = some p → s.partUp p = true →
        ∃ t, exec (.imageUnload o) s = .next t ∧ (t.image i.slot).state = .unloading ∧
          (t.descriptor o).map (·.phase) = some .running ∧ t.ses = s.ses ∧ t.hrt = s.hrt ∧
          ∀ n, n ≠ i.slot → t.image n = s.image n)))

/-- VARIANT_LOAD makes its tenant the owner of the number with exactly the given records, VARIANT_REMOVE takes it away; no other
number, session or frame changes (R197). TUNE_STEP leaves its session's log and KV as they are, commits the updated tuning state
and writes the updated records back to the variant (R222 to R225). -/
def Obligations.VariantsAndTuningKeepTheLog : Prop :=
  (∀ (s : State) (o : Origin) (param : List Byte) (fit : Bool) (d : InFlight) (i : Image),
    canStart s o opVariantLoad = some d → variantRemove d.raw = false → variantImage s d = some i →
    variantRefusal s i d param fit = none →
    ∃ t v, exec (.variantLoad o param fit) s = .next t ∧ variantAt (t.image i.slot) (variantNumber d.raw) = some v ∧
      v.tenant = d.tenant ∧ v.records = param ∧ t.descriptor o = none ∧ t.ses = s.ses ∧ t.hrt = s.hrt ∧ t.tie = s.tie ∧
      ∀ n, n ≠ variantNumber d.raw → variantAt (t.image i.slot) n = variantAt (s.image i.slot) n) ∧
  (∀ (s : State) (o : Origin) (d : InFlight) (i : Image) (v : Variant),
    canStart s o opVariantLoad = some d → variantRemove d.raw = true → variantImage s d = some i →
    variantAt i (variantNumber d.raw) = some v → v.tenant = d.tenant →
    variantInUse s i d.tenant (variantNumber d.raw) none = false → stagesUp s i = true →
    ∃ t, exec (.variantRemove o) s = .next t ∧ variantAt (t.image i.slot) (variantNumber d.raw) = none ∧
      t.descriptor o = none ∧ t.ses = s.ses ∧ t.hrt = s.hrt ∧ t.tie = s.tie ∧
      ∀ n, n ≠ variantNumber d.raw → variantAt (t.image i.slot) n = variantAt (s.image i.slot) n) ∧
  (∀ (s s0 s1 s2 : State) (o : Origin) (param : List Byte) (loss : BitVec 32)
      (sums : List (List (BitVec 32) × List (BitVec 32))) (how : Recovery) (d : InFlight) (i : Image) (x x0 y : Session)
      (l : List Example) (v : Variant) (cs : List Status) (u : Tuning) (fresh : List Nat) (got : List (Nat × Nat)),
    startSession s o opTune false = some (d, .ok x) → i = sessionImage s x → tuneRefusal s x i d param = .ok (l, v) →
    beginOn s x = (s0, x0) →
    (if x0.state = .parked then makeResidentSession s0 x0.slot how 0 d.deadline else recover s0 x0 how d.deadline) =
      .ok (s1, cs) → s1.session x0.slot = some y →
    u = tuneUpdate y.tuning d.raw i.hidden ((readRecords i.hidden 256 v.records).getD []) sums →
    fresh = ((tuningPages (tuneValues i v.records) u.eightBit).filter fun p => !(y.pages.any fun q => q.index == p)) →
    tuneRoom i y l fresh s1 = true → stagesUp s1 i = true → placePages s1 i y fresh = some (s2, got) →
    takenUncleared s s2 = [] →
    ∃ t z, exec (.tuneStep ⟨o, how⟩ param loss sums) s = .next t ∧ t.session y.slot = some z ∧ z.log = y.log ∧
      z.layers = y.layers ∧ z.summaries = y.summaries ∧ z.tuning = some u ∧ u.data = tunePosition d.raw ∧
      z.wseq = y.wseq + 1 ∧ (variantAt (t.image i.slot) v.number).map (·.records) = some u.records ∧
      t.descriptor o = none)

/-! ### Embers -/

/-- A broadcast command that its broadcaster issues and that runs on one ember x, under its entry w. -/
def OneSlice (s : State) (summit op : Nat) (c : BitVec 64) (x : Ember) (w : BitVec 128) : Prop :=
  issues s summit op c = true ∧ addressed s summit c = [(x, w)] ∧ skipCause s op x w = none ∧
  s.ember x.number = x ∧ s.dgn.armed = false

/-- What a slice leaves as it was that stores nothing: memory, frame tags, sessions, descriptors, images, regions. -/
def StoresNothing (s t : State) : Prop :=
  t.hrt.mem = s.hrt.mem ∧ t.tie = s.tie ∧ t.ses = s.ses ∧ t.desc = s.desc ∧ t.img = s.img ∧ t.rdg = s.rdg

/-- Reads without errors fill the accumulators of a slice and store nothing (R147 to R151, R209, R269): a MATVEC its outputs of
every column by format, a SCORE one for each query head and key, a BINDOT one for each record and query column. -/
def Obligations.SlicesFillTheirAccumulators : Prop :=
  (∀ (s : State) (summit : Nat) (c : BitVec 64) (acts : List Byte) (scales : List (BitVec 32)) (reqs : List Origin)
      (x : Ember) (w : BitVec 128), OneSlice s summit 1 c x w →
    ∃ t, exec (.matvec summit ⟨c, reqs⟩ acts scales []) s = .next t ∧ StoresNothing s t ∧
      ∀ j o, j < columnsOf c w → o < eOuts w →
        let start := if eClear w then 0 else (x.enter (eTenant w)).accAt (accIndex w j o)
        (t.ember x.number).accAt (accIndex w j o) =
          if eFormat w < 4 then weightSum (fillHalf s summit (cHalf c) acts scales) summit c x.number w j o start
          else valueSum (fillHalf s summit (cHalf c) acts scales) summit c x.number w j o start) ∧
  (∀ (s : State) (summit : Nat) (c : BitVec 64) (acts : List Byte) (scales : List (BitVec 32)) (reqs : List Origin)
      (x : Ember) (w : BitVec 128), OneSlice s summit 2 c x w →
    ∃ t, exec (.score summit ⟨c, reqs⟩ acts scales []) s = .next t ∧ StoresNothing s t ∧
      ∀ h k, h < scoreHeads w → k < scoreVectors w →
        (t.ember x.number).accAt (accIndex w h k) =
          scoreSum (fillHalf s summit (cHalf c) acts scales) summit c x.number w h k
            (if eClear w then 0 else (x.enter (eTenant w)).accAt (accIndex w h k))) ∧
  (∀ (s : State) (summit : Nat) (c : BitVec 64) (acts : List Byte) (reqs : List Origin) (x : Ember) (w : BitVec 128),
    OneSlice s summit 3 c x w →
    ∃ t, exec (.bindot summit ⟨c, reqs⟩ acts []) s = .next t ∧ StoresNothing s t ∧
      ∀ j k, j < cBatch c → k < (bindotRecords w).1 →
        (t.ember x.number).accAt (accIndex w j k) =
          bindotScore (fillHalf s summit (cHalf c) acts []) summit c x.number w j k)

/-- Slices that store write exactly their destination (R155, R167, R205, R216, Table 7.6): KVWRITE its bytes of the half, SUMMARY
the extremes of its keys, COPYROW its rows, CLEAR zeros; every other byte of the hearth stands. -/
def Obligations.SlicesStoreOnlyTheirDestination : Prop :=
  (∀ (s : State) (summit n dest : Nat) (c : BitVec 64) (acts : List Byte) (sat : Nat) (reqs : List Origin) (x : Ember)
      (w : BitVec 128),
    OneSlice s summit 4 c x w → Memory.wf s.hrt.mem = true → n = kvwriteBytes w →
    dest = rowAddr x.number (eRow w) + 32 * eCol w →
    ∃ t, exec (.kvwrite summit ⟨c, reqs⟩ acts sat []) s = .next t ∧ t.ses = s.ses ∧ t.tie = s.tie ∧
      t.dgn.fp8Sat = min 0xFFFFFFFF (s.dgn.fp8Sat + sat) ∧
      (∀ k, k < n → memRead t.hrt.mem (dest + k) =
        halfByte (fillHalf s summit (cHalf c) acts []) summit (cHalf c) (256 * eSeq w + 32 * eWindow w + k)) ∧
      ∀ a, (a < dest ∨ dest + n ≤ a) → memRead t.hrt.mem a = memRead s.hrt.mem a) ∧
  (∀ (s : State) (summit d dest : Nat) (c : BitVec 64) (reqs : List Origin) (x : Ember) (w : BitVec 128),
    OneSlice s summit 5 c x w → Memory.wf s.hrt.mem = true → d = fld (eParam w) 8 0 →
    dest = rowAddr x.number (fld (eParam w) 22 9) + regionAt s x.number w * (2 * d) →
    ∃ t, exec (.summary summit ⟨c, reqs⟩ []) s = .next t ∧ t.ses = s.ses ∧ t.tie = s.tie ∧
      memReadAll t.hrt.mem dest (2 * d) =
        summaryBytes s.hrt.mem (rowAddr x.number (eRow w) + 32 * eCol w) d ∧
      ∀ a, (a < dest ∨ dest + 2 * d ≤ a) → memRead t.hrt.mem a = memRead s.hrt.mem a) ∧
  (∀ (s : State) (summit d : Nat) (c : BitVec 64) (reqs : List Origin) (x : Ember) (w : BitVec 128),
    OneSlice s summit 8 c x w → Memory.wf s.hrt.mem = true → d = fld (eParam w) 13 0 →
    ∃ t, exec (.copyrow summit (⟨c, reqs⟩, [])) s = .next t ∧ t.ses = s.ses ∧ t.tie = s.tie ∧
      ((d ≤ eRow w ∨ eRow w + eRows w ≤ d) → ∀ i k, i < eRows w → k < 2048 →
        memRead t.hrt.mem (rowAddr x.number (d + i) + k) = memRead s.hrt.mem (rowAddr x.number (eRow w + i) + k)) ∧
      ∀ a, (a < rowAddr x.number d ∨ rowAddr x.number (d + eRows w) ≤ a) →
        memRead t.hrt.mem a = memRead s.hrt.mem a) ∧
  (∀ (s : State) (summit slack : Nat) (c : BitVec 64) (reqs : List Origin) (x : Ember) (w : BitVec 128),
    OneSlice s summit 7 c x w → Memory.wf s.hrt.mem = true → bankBusy s x.number = false → atBarrier s summit = true →
    ∃ t, exec (.clear summit ⟨c, reqs⟩ slack []) s = .next t ∧ t.ses = s.ses ∧ t.fbx = s.fbx ∧
      (∀ a, rowAddr x.number (eRow w) ≤ a → a < rowAddr x.number (eRow w + eRows w) → memRead t.hrt.mem a = 0) ∧
      ∀ a, (a < rowAddr x.number (eRow w) ∨ rowAddr x.number (eRow w + eRows w) ≤ a) →
        memRead t.hrt.mem a = memRead s.hrt.mem a)

/-- TOPK_LOCAL keeps the best of what it held and of the accumulators under their token scales, and the end of a run sends the
list out; IDLE stores nothing; a slice on another tenant's frame is skipped as an isolation event, and the request that issued it
ends (R148, R154, R269, R345, Table 7.6). -/
def Obligations.TopkIdleAndSkips : Prop :=
  (∀ (s : State) (summit : Nat) (c : BitVec 64) (reqs : List Origin) (x : Ember) (w : BitVec 128) (best : List TopEntry),
    OneSlice s summit 6 c x w → (x.enter (eTenant w)).candidates = 0 →
    best = topMerge (min 64 (fld (eParam w) 6 0)) (bit (eParam w) 7)
      (((x.enter (eTenant w)).topk.filter (·.1 == 0)).map (·.2))
      ((sortBy (fun (a b : Nat × BitVec 32) => decide (a.1 < b.1)) (x.enter (eTenant w)).acc).map fun e =>
        (mulF32 e.2 (columnScale s summit (scaleColumn w (x.enter (eTenant w)) e.1)), e.1)) →
    ∃ t, exec (.topkLocal summit ⟨c, reqs⟩) s = .next t ∧ StoresNothing s t ∧
      (cCont c = true → ((t.ember x.number).topk.filter (·.1 == 0)).map (·.2) = best) ∧
      (cCont c = false → (t.ember x.number).topk = [] ∧
        (best ≠ [] → ∃ e ∈ t.hrt.emitted, e.ember = x.number ∧ e.base = 0 ∧ e.pairs = best))) ∧
  (∀ (s : State) (summit : Nat) (c : BitVec 64) (reqs : List Origin), issues s summit 0 c = true →
    addressed s summit c = [] →
    ∃ t, exec (.idle summit ⟨c, reqs⟩) s = .next t ∧ StoresNothing s t ∧ t.hrt.embers = s.hrt.embers ∧ t.hrt.emitted = []) ∧
  (∀ (s : State) (summit : Nat) (c : BitVec 64) (acts : List Byte) (scales : List (BitVec 32)) (errs : List ReadError)
      (x : Ember) (w : BitVec 128),
    issues s summit 1 c = true → addressed s summit c = [(x, w)] → skipCause s 1 x w = some .tag →
    ∃ t, exec (.matvec summit ⟨c, []⟩ acts scales errs) s = .next t ∧ t.hrt.mem = s.hrt.mem ∧ t.hrt.embers = s.hrt.embers ∧
      t.tie = s.tie ∧ t.ses = s.ses ∧ t.fbx.isoSeen = true ∧ t.fbx.isoCause = 1 ∧ t.fbx.isoTenant = eTenant w ∧
      t.fbx.tagSkips = min 0xFFFF (s.fbx.tagSkips + 1) ∧ t.dgn.sliceSkips = min 0xFFFF (s.dgn.sliceSkips + 1)) ∧
  (∀ (s : State) (summit : Nat) (c : BitVec 64) (acts : List Byte) (scales : List (BitVec 32)) (errs : List ReadError)
      (x : Ember) (w : BitVec 128) (o : Origin) (d : InFlight),
    issues s summit 1 c = true → addressed s summit c = [(x, w)] → skipCause s 1 x w = some .tag →
    s.descriptor o = some d → d.phase = .running → slotOf s d = none → d.embed = none → s.query o = none →
    ∃ t, exec (.matvec summit ⟨c, [o]⟩ acts scales errs) s = .next t ∧ t.descriptor o = none ∧ t.hrt.mem = s.hrt.mem ∧
      t.tie = s.tie ∧ t.ses = s.ses)

/-- The service of the banks (R153, R161 to R164, R169): a written work-table entry reads back; a column-split run postpones up to
four refreshes and forces the fifth; a scrub counts its corrected column; a bank retires, and then holds no session page. -/
def Obligations.BanksRefreshScrubAndRetire : Prop :=
  (∀ (s : State) (e n : Nat) (val : BitVec 128), s.pwr.ready = true → e < 3072 → n < 256 →
    ∃ t, exec (.workTableWrite e n val) s = .next t ∧ tableEntry (t.ember e) n = val ∧ t.hrt.mem = s.hrt.mem ∧
      (∀ m, m ≠ n → tableEntry (t.ember e) m = tableEntry (s.ember e) m) ∧ ∀ f, f ≠ e → t.ember f = s.ember f) ∧
  (∀ (s : State) (summit : Nat),
    ∃ t, exec (.refreshDue summit) s = .next t ∧ t.hrt.mem = s.hrt.mem ∧ { t with hrt := s.hrt } = s ∧
      ((s.pwr.heldInReset = true ∨ s.pwr.heldNow = true ∨ emberPause s ≠ 0 ∨
          ∀ r, runOf s summit = some r → r.split = false) →
        owedOf t summit = 0 ∧ t.hrt.forced = s.hrt.forced) ∧
      (∀ r, runOf s summit = some r → r.split = true → s.pwr.heldInReset = false → s.pwr.heldNow = false →
        emberPause s = 0 →
        (owedOf s summit < 4 → owedOf t summit = owedOf s summit + 1 ∧ t.hrt.forced = s.hrt.forced) ∧
        (4 ≤ owedOf s summit → owedOf t summit = 0 ∧
          t.hrt.forced = min 0xFFFF (s.hrt.forced + runBanks s r)))) ∧
  (∀ (s : State) (e row col slack : Nat), s.pwr.ready = true → s.pwr.heldNow = false → bit s.hrt.shareCtl 16 = true →
    e < 3072 → row < 16384 → bankBusy s e = false → atBarrier s (summitOf e) = true → s.dgn.armed = false →
    ∃ t, exec (.patrolScrub e row slack [{ ember := e, row := row, column := col, symbols := 1 }]) s = .next t ∧
      (t.ember e).corrected = min 0xFFFF ((s.ember e).corrected + 1) ∧
      t.hrt.corrected = min 0xFFFFFFFF (s.hrt.corrected + 1) ∧ StoresNothing s t) ∧
  (∀ (s : State) (e : Nat), s.pwr.ready = true → e < 3072 → (s.ember e).state = .inService →
    ∃ t, exec (.retireBank e) s = .next t ∧ (t.ember e).state = .retiring ∧ bankServes t e = false) ∧
  (∀ (s : State) (e : Nat), (s.ember e).state = .retiring → s.pwr.heldNow = false →
    ∃ t, exec (.bankRetireComplete e) s = .next t ∧ (t.ember e).state = .retired ∧ (t.ember e).testPassed = false ∧
      ∀ slot (y : Session), t.session slot = some y → bankPages y e = [])

/-! ### Direct memory commands -/

/-- A direct command of an operation that the part takes, on one bank. -/
def OneBank (s : State) (val : Word) (op e : Nat) : Prop :=
  dmcTakes s val op = true ∧ dmcBanks s = [e] ∧ bankDirect s e = true

/-- Direct commands stop with NOT_PERMITTED where a bank they name is neither in direct mode nor retired (R170); an operation code
without a meaning answers BAD_OP. On one bank (R171, R172): a written pattern fills exactly its rows; checks and tests set the
bank's passes; a repair takes the next spare row and joins the repair list; a retired bank that passed returns. -/
def Obligations.DirectCommandsWorkOnDirectBanks : Prop :=
  (∀ (s : State) (val : Word) (fails : List (Nat × Nat)) (failing : List Nat) (errs : List ReadError) (p : Instr × Nat),
    p ∈ [(Instr.patternWrite val, 1), (Instr.patternCheck ⟨val, errs⟩, 2), (Instr.emberTest val failing, 3),
      (Instr.ucodeLoad val, 4), (Instr.rowRepair val, 5), (Instr.marginScan val fails, 6), (Instr.dmcReturn val, 7)] →
    dmcTakes s val p.2 = true → (∃ e ∈ dmcBanks s, bankDirect s e = false) →
    exec p.1 s = .next (dmcEnd s dmcNotPermitted 0 0 (selEmber s))) ∧
  (∀ (s : State) (val : Word), s.pwr.ready = true → (dmcOp val = 0 ∨ 8 ≤ dmcOp val) →
    exec (.dmcBadOperation val) s = .next (dmcEnd s dmcBadOp 0 0 (selEmber s))) ∧
  (∀ (s : State) (val : Word), s.pwr.ready = true →
    ∃ t, exec (.directModeSet val) s = .next t ∧ { t with hrt := s.hrt } = s ∧ t.hrt.mem = s.hrt.mem ∧
      (fld val 1 0 = 1 → dieInUse s (selDie s) = false → t.hrt.dieDirect.contains (selDie s) = true ∧ t.hrt.dieBusy = false) ∧
      (fld val 1 0 = 1 → dieInUse s (selDie s) = true → t.hrt.dieBusy = true ∧ t.hrt.dieDirect = s.hrt.dieDirect) ∧
      (fld val 1 0 ≠ 1 → t.hrt.dieDirect.contains (selDie s) = false)) ∧
  (∀ (s : State) (val : Word) (e : Nat), OneBank s val 1 e → Memory.wf s.hrt.mem = true →
    ∃ t, exec (.patternWrite val) s = .next t ∧ t.hrt.dmcResult = dmcDone ∧ t.hrt.embers = s.hrt.embers ∧
      (∀ r k, r ∈ dmcRows val → k < 2048 →
        memRead t.hrt.mem (rowAddr e r + k) = (leBytes 8 s.hrt.operand.toNat).getD (k % 8) 0) ∧
      ∀ a, (∀ r ∈ dmcRows val, a < rowAddr e r ∨ rowAddr e r + 2048 ≤ a) →
        memRead t.hrt.mem a = memRead s.hrt.mem a) ∧
  (∀ (s : State) (val : Word) (errs : List ReadError) (e : Nat), OneBank s val 2 e →
    ∃ t, exec (.patternCheck ⟨val, errs⟩) s = .next t ∧ t.hrt.mem = s.hrt.mem ∧
      ((∀ r ∈ dmcRows val, patternFails s errs e r = 0) →
        (t.ember e).patternPass = true ∧ t.hrt.dmcResult = dmcDone) ∧
      (∀ r, (dmcRows val).find? (fun r => patternFails s errs e r != 0) = some r →
        (t.ember e).patternPass = false ∧ t.hrt.dmcResult = dmcFailed ∧ t.hrt.dmcRow = r)) ∧
  (∀ (s : State) (val : Word) (failing : List Nat) (e : Nat), OneBank s val 3 e →
    ∃ t, exec (.emberTest val failing) s = .next t ∧ t.hrt.mem = s.hrt.mem ∧
      (t.ember e).emberPass = !failing.contains e ∧
      t.hrt.dmcResult = if failing.contains e then dmcFailed else dmcDone) ∧
  (∀ (s : State) (val : Word) (e : Nat), OneBank s val 4 e → fld s.hrt.operand 3 0 < ucodeCount s →
    ∃ t, exec (.ucodeLoad val) s = .next t ∧ t.hrt.mem = s.hrt.mem ∧ (t.ember e).ucode = fld s.hrt.operand 3 0 ∧
      t.hrt.dmcResult = dmcDone) ∧
  (∀ (s : State) (val : Word) (e : Nat), OneBank s val 5 e → 0 < spareLeft s e →
    ∃ t, exec (.rowRepair val) s = .next t ∧ t.hrt.mem = s.hrt.mem ∧
      (t.ember e).repairs = (s.ember e).repairs ++ [fld s.hrt.operand 13 0] ∧
      t.fwu.repairs = s.fwu.repairs ++ [(e, fld s.hrt.operand 13 0)] ∧ t.hrt.dmcResult = dmcDone) ∧
  (∀ (s : State) (val : Word) (e : Nat), OneBank s val 5 e → spareLeft s e = 0 →
    exec (.rowRepair val) s = .next (dmcEnd s dmcNoSpare (fld s.hrt.operand 13 0) 0 e)) ∧
  (∀ (s : State) (val : Word) (fails : List (Nat × Nat)) (e : Nat), OneBank s val 6 e →
    (∀ f ∈ fails, f.1 = e → f.2 ∉ dmcRows val) →
    exec (.marginScan val fails) s = .next (dmcEnd s dmcDone 0 0 (selEmber s))) ∧
  (∀ (s : State) (val : Word) (e : Nat), OneBank s val 7 e → bankRetired s e = true →
    (s.ember e).testPassed = true →
    ∃ t, exec (.dmcReturn val) s = .next t ∧ (t.ember e).state = .inService ∧ t.hrt.mem = s.hrt.mem ∧
      t.hrt.dmcResult = dmcDone)

/-! ### Search -/

/-- A query's answer: every block that its first cells and its further pass name, scanned. -/
def answerOf (s : State) (d : InFlight) (x : Index) (param : List Byte) : Query :=
  let (s, q) := startQuery s d x param
  scanAll (widenQuery s (scanAll q)).2

/-- SEARCH_QUERY changes no record, session or page (R270, R272, R273, Table 12.5): while no decode step runs it scans what it
probes, writes its hits to out_ptr and completes, a partial answer counted; while one runs it stays in the scan; a malformed one does
nothing else. A scan turn is taken while decode runs only at a barrier within scan_pct, and takes the blocks it reads off its
query. -/
def Obligations.QueriesReadOnly : Prop :=
  (∀ (s : State) (o : Origin) (param : List Byte) (d : InFlight) (x : Index) (a : Query),
    canStart s o opQuery = some d → findIndex s d = .ok x → queryBad d.raw x.width param = false →
    pastDeadline s d = false → decoding s = false → s.srch.scans = [] → s.srch.waits = [] → x.poisoned = [] →
    a = answerOf s d x param →
    ∃ t, exec (.searchQuery o param []) s = .next t ∧ t.descriptor o = none ∧ t.ses = s.ses ∧ t.hrt = s.hrt ∧
      t.tie = s.tie ∧ t.rdg.regions = s.rdg.regions ∧ a.hits.length ≤ queryK d.raw ∧
      (∀ n y, s.index n = some y → ∃ z, t.index n = some z ∧ z.scree = y.scree ∧ z.live = y.live ∧ z.gen = y.gen ∧
        z.cells.map (·.records) = y.cells.map (·.records)) ∧
      (∀ q seq, o = .qp q seq → a.hits ≠ [] →
        Output.hostWrite (s.qp q).ctx.pasid (queryOut d.raw) ((a.hits.map hitBytes).flatten) ∈ t.out) ∧
      t.srch.partials = if a.hits.length < queryK d.raw then min 0xFFFF (s.srch.partials + 1) else s.srch.partials) ∧
  (∀ (s : State) (o : Origin) (param : List Byte) (d : InFlight) (x : Index),
    canStart s o opQuery = some d → findIndex s d = .ok x → queryBad d.raw x.width param = false →
    pastDeadline s d = false → decoding s = true → x.poisoned = [] → (startQuery s d x param).2.left ≠ [] →
    ∃ t, exec (.searchQuery o param []) s = .next t ∧ (t.descriptor o).map (·.phase) = some .running ∧
      (∃ z ∈ t.srch.scans, z.origin = some o ∧ z.left = (startQuery s d x param).2.left) ∧ t.ses = s.ses ∧ t.hrt = s.hrt ∧
      t.tie = s.tie) ∧
  (∀ (s : State) (o : Origin) (param : List Byte) (bad : List Nat) (d : InFlight) (x : Index),
    canStart s o opQuery = some d → findIndex s d = .ok x → queryBad d.raw x.width param = true →
    ∃ t, exec (.searchQuery o param bad) s = .next t ∧ t.descriptor o = none ∧ t.quiet = s.quiet) ∧
  (∀ (s : State) (summit micros : Nat) (poisoned : List (Nat × Nat)), s.pwr.ready = true → s.pwr.heldNow = false →
    micros ≤ 3 →
    (decoding s = true → (atBarrier s summit = false ∨ min 50 (fld s.hrt.shareCtl 13 8) < scanTime s summit + micros) →
      exec (.scanTurn summit ⟨micros, poisoned⟩) s = .next s) ∧
    (∀ q, (decoding s = false ∨ (atBarrier s summit = true ∧ scanTime s summit + micros ≤ min 50 (fld s.hrt.shareCtl 13 8))) →
      s.srch.scans = [q] → q.bad = false → (inTurn (turnBlocks summit [q]) q).left ≠ [] →
      ∃ t, exec (.scanTurn summit ⟨micros, []⟩) s = .next t ∧ (summit, s.localNs, micros) ∈ t.hrt.scanUsed ∧
        t.srch.scans = [inTurn (turnBlocks summit [q]) q] ∧ t.hrt.mem = s.hrt.mem ∧
        { t with hrt := s.hrt, srch := s.srch } = s))

/-- INDEX_INSERT appends a record to the scree and replaces a live one with its key (R274, R275); INDEX_DELETE takes away exactly
the keys it names (R276); INDEX_DROP of an index on which nothing runs frees the slot under its next generation (R277); INDEX_CREATE
builds an empty index (R279); INDEX_MERGE folds the scree at once and keeps the old blocks, which are freed once no query of an
earlier version runs (R280). -/
def Obligations.IndexCommandsChangeOneIndex : Prop :=
  (∀ (s s1 : State) (o : Origin) (param : List Byte) (d : InFlight) (x : Index) (r : Posting) (up : Bool),
    canStart s o opInsert = some d → indexBlocked s d = false → findIndex s d = .ok x →
    insertRecords d.raw x.width param = some [r] → pastDeadline s d = false →
    (bit s.srch.ctl 24 = false ∨ 100 * (x.scree.length + 1) < screeMax s * clamp 10 100 (fld s.srch.ctl 31 25)) →
    insertRecord s x.slot r = some (s1, up) →
    ∃ t y, exec (.indexInsert o param) s = .next t ∧ t.descriptor o = none ∧ t.index x.slot = some y ∧
      up = x.hasKey r.key ∧ y.scree = (if x.hasKey r.key then x.deleteKey r.key else x).scree ++ [r] ∧
      t.ses = s.ses ∧ t.hrt = s.hrt ∧ ∀ n, n ≠ x.slot → t.index n = s.index n) ∧
  (∀ (s : State) (o : Origin) (param : List Byte) (d : InFlight) (x : Index) (keys : List Nat),
    canStart s o opDelete = some d → deleteDrop d.raw = false → indexBlocked s d = false →
    findIndex s d = .ok x →
    keys = ((List.range (recordCount d.raw)).map fun i => leAt param (8 * i) 8) →
    (∀ q ∈ s.srch.scans, q.slot = x.slot → q.origin = none) →
    ∃ t y, exec (.indexDelete o param) s = .next t ∧ t.descriptor o = none ∧ t.index x.slot = some y ∧
      (∀ k ∈ keys, y.hasKey k = false) ∧ (∀ k, k ∉ keys → y.hasKey k = x.hasKey k) ∧ t.ses = s.ses ∧ t.hrt = s.hrt) ∧
  (∀ (s : State) (o : Origin) (d : InFlight) (x : Index), canStart s o opDelete = some d → deleteDrop d.raw = true →
    indexBlocked s d = false → findIndex s d = .ok x → runningOn s o (dHandle d.raw) = [] →
    ∃ t, exec (.indexDrop o) s = .next t ∧ t.descriptor o = none ∧
      t.index x.slot = some { slot := x.slot, gen := x.gen + 1, tenant := x.tenant } ∧ t.ses = s.ses ∧
      ∀ n, n ≠ x.slot → t.index n = s.index n) ∧
  (∀ (s : State) (o : Origin) (param : List Byte) (slot w n : Nat) (d : InFlight) (cells : List IndexCell),
    canStart s o opMerge = some d → dHandle d.raw = 0 → codeWidth (fld d.raw 258 257) = some w →
    n = createCentroids d.raw → mergeCreate d.raw = true → n ≤ 1048576 → fld d.raw 351 320 = n * (w / 8) →
    param.length = n * (w / 8) → liveIndexes s < 256 → standsBy s = false → s.fbx.trngOk = true →
    indexSlotFree s slot = true →
    cells = buildCells w ((List.range n).map fun i => slice param (w / 8 * i) (w / 8)) →
    ceilDiv (192 * cells.length) 65536 ≤ hearthFree s →
    ∃ t y, exec (.indexCreate o param slot) s = .next t ∧ t.descriptor o = none ∧ t.index slot = some y ∧
      y.live = true ∧ y.tenant = d.tenant ∧ y.width = w ∧ y.cells = cells ∧ y.scree = [] ∧ t.ses = s.ses ∧
      t.hrt = s.hrt) ∧
  (∀ (s : State) (o : Origin) (d : InFlight) (x : Index), canStart s o opMerge = some d → dHandle d.raw ≠ 0 →
    indexBlocked s d = false → findIndex s d = .ok x → mergeCreate d.raw = false →
    foothillFits s (128 * (mergeIndex x).written) = true →
    ∃ t y, exec (.indexMerge o) s = .next t ∧ t.descriptor o = none ∧ t.index x.slot = some y ∧ y.scree = [] ∧
      y.cells = (mergeIndex x).index.cells ∧ y.old = x.old + (mergeIndex x).old ∧ t.ses = s.ses ∧ t.hrt = s.hrt) ∧
  (∀ (s : State) (slot : Nat) (x : Index), s.index slot = some x →
    ((∃ q ∈ s.srch.scans, q.slot = slot ∧ q.version < x.version ∧ q.origin ≠ none) →
      exec (.mergeFreeOld slot) s = .next s) ∧
    ((∀ q ∈ s.srch.scans, q.slot = slot → q.version < x.version → q.origin = none) →
    ∃ t, exec (.mergeFreeOld slot) s = .next t ∧ t.index slot = some { x with old := 0 } ∧
      t.tie.uncleared = s.tie.uncleared ++
        (if x.old = 0 then [] else [{ tenant := x.tenant, granules := 128 * x.old }]) ∧ t.ses = s.ses ∧ t.hrt = s.hrt))

/-! ### Ridge -/

/-- A frame of a type arrives whole and in its turn: version 1, good FEC, check and tag, no injected fault, the fseq expected. -/
def Arrives (s : State) (f : Received) (type : Nat) : Prop :=
  f.hdr.type = type ∧ f.hdr.version = 1 ∧ f.fecOk = true ∧ f.crcOk = true ∧ f.tagOk = true ∧ s.dgn.armed = false ∧
  f.hdr.fseq = (s.peer f.hdr.srcAddr).expected

/-- The frames whose fseq is checked, each with its type. -/
def sequencedFrames (f : Received) (q : Request) (b : ResponseBody) (r : Word) (l : Option Nat) (m : MapBody)
    (k : PageKind) (page : Nat) (data : List Byte) : List (Instr × Nat) :=
  [(.requestFrame f q, 0), (.responseFrame f b, 1), (.invalidate f r l, 3), (.invalidateAcknowledge f r l, 4),
   (.mapFrame f m, 5), (.pageData f k page data, 8)]

/-- A frame is delivered once and in order (R286, R287, R345): a bad check or an fseq out of turn is answered with the last
acknowledgement and delivers nothing, a bad tag is an isolation event too; acknowledge and keepalive frames take no fseq. -/
def Obligations.FramesAreDeliveredInOrder : Prop :=
  (∀ (s : State) (f : Received) (q : Request) (b : ResponseBody) (r : Word) (l : Option Nat) (m : MapBody) (k : PageKind)
      (page : Nat) (data : List Byte) (c : Instr × Nat), c ∈ sequencedFrames f q b r l m k page data →
    f.hdr.type = c.2 → f.hdr.version = 1 → f.fecOk = true → serdesDip s = false →
    (f.crcOk = false → exec c.1 s = .next (sendAck s f.hdr.srcAddr)) ∧
    (f.crcOk = true → f.tagOk = false → s.dgn.armed = false →
      exec c.1 s = .next (sendAck (isolation s 2 f.hdr.tenant) f.hdr.srcAddr)) ∧
    (f.crcOk = true → f.tagOk = true → s.dgn.armed = false → f.hdr.fseq ≠ (s.peer f.hdr.srcAddr).expected →
      ∃ t, exec c.1 s = .next t ∧ t.quiet = s.quiet ∧ t.desc = s.desc ∧
        (t.peer f.hdr.srcAddr).expected = (s.peer f.hdr.srcAddr).expected)) ∧
  (∀ (s : State) (f : Received), f.hdr.type = 6 → f.hdr.version = 1 → f.fecOk = true → f.crcOk = true → f.tagOk = true →
    ∃ t, exec (.acknowledge f) s = .next t ∧ t.quiet = s.quiet ∧ t.desc = s.desc ∧
      (t.peer f.hdr.srcAddr).unacked = (s.peer f.hdr.srcAddr).unacked.filter fun o =>
        !decide (dist o.hdr.fseq f.hdr.ack < 2 ^ 31)) ∧
  (∀ (s : State) (f : Received), f.hdr.type = 7 → f.hdr.version = 1 → f.fecOk = true → f.crcOk = true → f.tagOk = true →
    ∃ t, exec (.keepalive f none) s = .next t ∧ t.quiet = s.quiet ∧ t.desc = s.desc ∧
      (t.peer f.hdr.srcAddr).lastHeard = s.localNs ∧ (t.peer f.hdr.srcAddr).suspect = false)

/-- What delivered frames do (R291, R292, R295, R296, R309, R312, R346): a write of a lent extent is stored for its borrower and
refused for others; a response ends its descriptor; an invalidate drops its lines; the last acknowledgement ends a write; a
proposal reaches the leader's list; commits are taken in the order of epochs; session pages and buddy copies are kept. -/
def Obligations.DeliveredFramesAct : Prop :=
  (∀ (s : State) (f : Received) (e : Word) (g : Nat) (data : List Byte), Arrives s f 0 →
    f.hdr.epoch ≤ s.rdg.map.epoch → f.hdr.dstPart = s.rdg.part → data.length = 512 →
    ∃ t, exec (.requestFrame f (.extentWrite e g data)) s = .next t ∧ t.ses = s.ses ∧ t.desc = s.desc ∧
      (t.peer f.hdr.srcAddr).expected = (s.peer f.hdr.srcAddr).expected + 1 ∧
      (extentAccess s e f.hdr.srcPart = none → readLent t e g = data ∧
        ∀ n, n ≠ g → readLent t e n = readLent s e n) ∧
      (∀ st, extentAccess s e f.hdr.srcPart = some st → t.rdg.lent = s.rdg.lent ∧
        t.rdg.revokedRefusals = if st = .revoked then min 0xFFFF (s.rdg.revokedRefusals + 1) else s.rdg.revokedRefusals)) ∧
  (∀ (s : State) (f : Received) (d : InFlight) (q : Nat) (seq : Seq) (result : Word), Arrives s f 1 →
    f.hdr.epoch ≤ s.rdg.map.epoch → statusOfCode f.hdr.status.toNat = .ok →
    (∀ a ∈ s.rdg.asked, a.id ≠ f.hdr.reqId) → sentDescriptor s f.hdr.reqId = some d → d.origin = .qp q seq →
    waitsRecords s d.origin = false → recordsOf s q seq = 0 →
    ∃ t, exec (.responseFrame f (.done result [])) s = .next t ∧ t.descriptor d.origin = none ∧ t.ses = s.ses ∧
      t.hrt = s.hrt) ∧
  (∀ (s : State) (f : Received) (region : Word) (line : Option Nat), Arrives s f 3 →
    ∃ t, exec (.invalidate f region line) s = .next t ∧ t.ses = s.ses ∧ t.hrt = s.hrt ∧ t.desc = s.desc ∧
      t.rdg.regions = s.rdg.regions ∧
      ∀ c ∈ t.rdg.lines, c ∈ s.rdg.lines ∧ ¬(c.region = region ∧ (line = some c.line ∨ (line = none ∧ c.version.isSome)))) ∧
  (∀ (s : State) (f : Received) (region : Word) (r : Region) (line off o : Nat) (data : List Byte), Arrives s f 4 →
    regionOf s region = some r → r.mappers ≠ [] → r.unmapping = [] →
    r.ops = [{ asker := .host o, action := .write line off data, begun := true, waiting := [f.hdr.srcPart] }] →
    ∃ t y, exec (.invalidateAcknowledge f region (some line)) s = .next t ∧ t.region r.slot = some y ∧ y.ops = [] ∧
      (∀ e ∈ y.directory, e.1 ≠ line) ∧ Output.writeDone o ∈ t.out ∧ t.ses = s.ses ∧ t.desc = s.desc) ∧
  (∀ (s : State) (f : Received) (c : MapChange), Arrives s f 5 → s.rdg.early = [] → isLeader s = true →
    ∃ t, exec (.mapFrame f (.propose c)) s = .next t ∧
      t.rdg.map.proposals = s.rdg.map.proposals ++ [(f.hdr.srcPart, c)] ∧ t.rdg.map.epoch = s.rdg.map.epoch ∧
      t.quiet = s.quiet) ∧
  (∀ (s : State) (f : Received) (e : Nat) (cs : List MapChange), Arrives s f 5 → s.rdg.early = [] →
    s.rdg.map.epoch + 1 < e →
    ∃ t, exec (.mapFrame f (.commit e cs)) s = .next t ∧ t.rdg.map.epoch = s.rdg.map.epoch ∧
      t.rdg.map.parts = s.rdg.map.parts ∧ (e, cs) ∈ t.rdg.map.missed ∧ t.ses = s.ses ∧ t.hrt = s.hrt) ∧
  (∀ (s : State) (f : Received) (p w : Nat) (x : MapPart), Arrives s f 5 → s.rdg.early = [] → s.rdg.map.missed = [] →
    p ≠ s.rdg.part → s.mapPart p = some x →
    ∃ t y, exec (.mapFrame f (.commit (s.rdg.map.epoch + 1) [.twinOf p w])) s = .next t ∧
      t.rdg.map.epoch = s.rdg.map.epoch + 1 ∧ t.mapPart p = some y ∧ y.twin = some w ∧ y.state = x.state ∧
      t.hrt = s.hrt) ∧
  (∀ (s : State) (f : Received) (page : Nat) (parked : Bool) (data : List Byte), Arrives s f 8 →
    (parked = false → hearthFits (keepArriving s f.hdr.object page parked data) 0 false = true) →
    (parked = true → foothillFits (keepArriving s f.hdr.object page parked data) 0 = true) →
    ∃ t, exec (.pageData f (.session parked) page data) s = .next t ∧
      (∃ a ∈ t.rdg.arriving, a.handle = f.hdr.object ∧ a.page = page ∧ a.data = data ∧ a.parked = parked) ∧
      t.ses = s.ses ∧ t.hrt = s.hrt) ∧
  (∀ (s : State) (f : Received) (h : Word) (epoch wseq page : Nat) (data : List Byte), Arrives s f 8 →
    ∃ t, exec (.pageData f (.buddy h epoch wseq) page data) s = .next t ∧ t.ses = s.ses ∧ t.hrt = s.hrt ∧
      (s.twin = some f.hdr.srcPart → ∃ c ∈ t.rdg.copies, c.handle = h ∧ c.page = page ∧ c.data = data ∧
        c.epoch = epoch ∧ c.wseq = wseq) ∧
      (s.twin ≠ some f.hdr.srcPart → t.rdg.copies = s.rdg.copies))

/-- The timers of the ridge act once their time has passed and not before (R286, R288): unacknowledged frames are sent again,
one keepalive goes to each keeper, a silent address is suspect, the leader proposes a silent part down, and after four times peer_timeout what was
sent to a part ends, a GENERATE once its records are out (R74). -/
def Obligations.RidgeTimersActWhenDue : Prop :=
  (∀ (s : State) (addr : Nat) (o : OutFrame), oldestUnacked s addr = some o →
    (s.localNs < o.again.getD o.sentAt + o.retx.getD (retxNs s) → exec (.retransmitTimeout addr) s = .next s) ∧
    (o.again.getD o.sentAt + o.retx.getD (retxNs s) ≤ s.localNs →
      ∃ t, exec (.retransmitTimeout addr) s = .next t ∧ t.ses = s.ses ∧ t.hrt = s.hrt ∧ t.desc = s.desc ∧
        (t.peer addr).unacked = (s.peer addr).unacked.map fun o => { o with again := some s.localNs, retx := some (retxNs s) })) ∧
  (∀ s : State, s.pwr.ready = true → s.rdg.configured = true →
    ∃ t, exec .keepaliveSend s = .next t ∧ t.quiet = s.quiet ∧ t.desc = s.desc ∧
      t = (s.rdg.map.keepers.filter (· != s.rdg.part)).foldl (fun s k => sendFrame s k 7 0 .none) s) ∧
  (∀ (s : State) (addr : Nat), (s.peer addr).suspect = false →
    (unackedFor s addr (peerTimeout s) = false → exec (.peerSuspect addr) s = .next s) ∧
    (unackedFor s addr (peerTimeout s) = true →
      ∃ t, exec (.peerSuspect addr) s = .next t ∧ (t.peer addr).suspect = true ∧ t.ses = s.ses ∧ t.desc = s.desc ∧
        (∀ p, partAt s addr = some p → isLeader s = true → p ∈ t.rdg.map.suspects))) ∧
  (∀ (s : State) (part : Nat) (p : MapPart), s.mapPart part = some p →
    (s.localNs < (s.peer p.address).lastHeard + peerTimeout s → exec (.partDownDetect part) s = .next s) ∧
    ((s.peer p.address).lastHeard + peerTimeout s ≤ s.localNs → isLeader s = true → quorumUp s = true → p.state ≠ 2 →
      part ≠ s.rdg.part →
      ∃ t, exec (.partDownDetect part) s = .next t ∧ (s.rdg.part, .part part p.address 2) ∈ t.rdg.map.proposals ∧
        t.rdg.map.parts = s.rdg.map.parts ∧ t.ses = s.ses ∧ t.desc = s.desc)) ∧
  (∀ (s : State) (part a : Nat), s.addressOf part = some a →
    (unackedFor s a (4 * peerTimeout s) = false → exec (.peerLostTimeout part) s = .next s) ∧
    (unackedFor s a (4 * peerTimeout s) = true →
      ∃ t, exec (.peerLostTimeout part) s = .next t ∧
        ∀ d ∈ s.desc, (∃ id, d.phase = .sent part id) → s.descriptor d.origin = some d →
          (dOpcode d.raw ≠ opGenerate → t.descriptor d.origin = none) ∧
          ∀ e, t.descriptor d.origin = some e → (∃ r, e.phase = .ended r) ∧ .peerLost ∈ e.conds))

/-- The map changes only by commits of its leader with a quorum (R291 to R293): a proposal waits, an invalid change is rejected, a
valid one makes the next epoch; a new leader is elected with a quorum only; waits for a commit or an epoch end in time. -/
def Obligations.MapChangesByCommit : Prop :=
  (∀ (s : State) (c : MapChange), s.pwr.ready = true →
    ∃ t, exec (.mapPropose c) s = .next t ∧ t.quiet = s.quiet ∧
      t.rdg.map.proposals = s.rdg.map.proposals ++ [(s.rdg.part, c)]) ∧
  (∀ (s : State) (cs : List (Nat × MapChange)), (isLeader s = false ∨ quorumUp s = false) →
    exec (.mapCommit cs) s = .next s) ∧
  (∀ (s : State) (p : Nat) (c : MapChange), isLeader s = true → quorumUp s = true → s.rdg.map.proposals = [] →
    changeValid s.rdg.map c = false → p ≠ s.rdg.part →
    ∃ t, exec (.mapCommit [(p, c)]) s = .next t ∧ t.quiet = s.quiet ∧ t.rdg.map.epoch = s.rdg.map.epoch) ∧
  (∀ (s : State) (p a w : Nat) (x : MapPart), isLeader s = true → quorumUp s = true → s.rdg.map.proposals = [] →
    s.rdg.early = [] → s.mapPart a = some x → a ≠ s.rdg.part →
    ∃ t y, exec (.mapCommit [(p, .twinOf a w)]) s = .next t ∧ t.rdg.map.epoch = s.rdg.map.epoch + 1 ∧
      t.mapPart a = some y ∧ y.twin = some w ∧ y.state = x.state ∧ y.address = x.address ∧ t.hrt = s.hrt) ∧
  (∀ (s : State) (winner term : Nat),
    (quorumUp s = false → exec (.leaderElection winner term) s = .next s) ∧
    (quorumUp s = true → s.rdg.map.keepers.contains winner = true → s.rdg.map.term < term →
      keeperReached s s.rdg.map.leader = false →
      ∃ t, exec (.leaderElection winner term) s = .next t ∧ t.rdg.map.leader = winner ∧ t.rdg.map.term = term ∧
        t.rdg.map.epoch = s.rdg.map.epoch ∧ t.ses = s.ses ∧ t.desc = s.desc)) ∧
  (∀ (s : State) (o : Origin) (d : InFlight) (t0 : Nat), s.descriptor o = some d → d.waitsMap = some t0 →
    (s.localNs < t0 + 1000000000 → exec (.mapWaitTimeout o) s = .next s) ∧
    (t0 + 1000000000 ≤ s.localNs → ∃ t, exec (.mapWaitTimeout o) s = .next t ∧ t.descriptor o = none)) ∧
  (∀ (s : State) (id : Nat) (e : Early), s.rdg.early.find? (fun e => e.id == id && decide (e.bound ≤ s.localNs)) = some e →
    ∃ t, exec (.epochApplyTimeout id) s = .next t ∧ e ∉ t.rdg.early ∧ t.rdg.map.epoch = s.rdg.map.epoch ∧
      t.ses = s.ses ∧ t.desc = s.desc ∧ t.hrt = s.hrt)

/-- Ports and link keys (R284, R335, R336): a port takes its new state; keys are agreed with a peer whose offer is accepted and
refused otherwise; a link is keyed anew only after 2^48 frames or 24 hours, the old key good for 1 ms more. -/
def Obligations.PortsAndLinkKeys : Prop :=
  (∀ (s : State) (n state : Nat), s.rdg.ports.any (fun p => p.number == n) = true →
    ∃ t, exec (.ridgePortStateChange n state) s = .next t ∧ (t.port n).state = portState state ∧
      (state ≠ 2 → (t.port n).lanes = 0) ∧ t.ses = s.ses ∧ t.desc = s.desc ∧ t.hrt = s.hrt) ∧
  (∀ (s : State) (addr : Nat) (o : PeerOffer), s.fbx.identityOk = true → s.fbx.trngOk = true → s.rdg.configured = true →
    ∃ t, exec (.linkKeyExchange addr o) s = .next t ∧ t.ses = s.ses ∧ t.desc = s.desc ∧ t.hrt = s.hrt ∧
      (acceptsOffer s addr o = true → (t.peer addr).keyed = true ∧ (t.peer addr).refused = false ∧
        (t.peer addr).part = some o.part ∧ (t.peer addr).keyDraw = s.fbx.draws ∧ t.fbx.draws = s.fbx.draws + 1) ∧
      (acceptsOffer s addr o = false → (t.peer addr).keyed = false ∧ (t.peer addr).refused = true ∧ t.fbx = s.fbx)) ∧
  (∀ (s : State) (addr : Nat), (s.peer addr).keyed = true → s.fbx.trngOk = true →
    ((s.peer addr).framesSent < 2 ^ 48 → s.localNs < (s.peer addr).keyedAt + 86400000000000 →
      exec (.linkRekey addr) s = .next s) ∧
    ((2 ^ 48 ≤ (s.peer addr).framesSent ∨ (s.peer addr).keyedAt + 86400000000000 ≤ s.localNs) →
      ∃ t, exec (.linkRekey addr) s = .next t ∧ (t.peer addr).keyed = true ∧ (t.peer addr).keyDraw = s.fbx.draws ∧
        (t.peer addr).framesSent = 0 ∧ (t.peer addr).oldKeyUntil = s.localNs + 1000000 ∧ t.ses = s.ses ∧ t.desc = s.desc))

/-! ### Pool, regions, host memory -/

/-- Extents (R297 to R301): a lend offers exactly the lowest free ones under their next lend counts and waits for its commit; a
claim, a release and a revocation act only in the states the map allows; the grace period ends after grace_us, not before. -/
def Obligations.ExtentsFollowTheMap : Prop :=
  (∀ (s : State) (o : Origin) (d : InFlight) (tier n : Nat), canStart s o opLend = some d → tier = lendTier d.raw →
    n = lendCount d.raw → n ≠ 0 → dParam d.raw ≠ 0 →
    (extentRoom s tier n = false → ∃ t, exec (.extentLend o) s = .next t ∧ t.quiet = s.quiet ∧ t.descriptor o = none) ∧
    (extentRoom s tier n = true → n ≤ (freeExtents s tier n).length → standsBy s = false →
      ∃ t e, exec (.extentLend o) s = .next t ∧
        t.rdg.lent.map (·.handle) = s.rdg.lent.map (·.handle) ++
          (freeExtents s tier n).map (fun i => mkExtent s.rdg.part tier i (nextLend s tier i)) ∧
        t.descriptor o = some e ∧ e.phase = .running ∧ e.waitsMap = some s.localNs ∧ t.ses = s.ses ∧ t.hrt = s.hrt)) ∧
  (∀ (s : State) (h : Word), s.pwr.ready = true → quorumUp s = true → hPart h ≠ s.rdg.part →
    s.partUp (hPart h) = true → s.borrowedOf h = none → extentState s.rdg.map h = some 0 →
    ∃ t, exec (.extentClaim h) s = .next t ∧ t.rdg.borrowed = s.rdg.borrowed ++ [{ handle := h, lender := hPart h }] ∧
      t.ses = s.ses ∧ t.desc = s.desc ∧ t.hrt = s.hrt) ∧
  (∀ (s : State) (h : Word) (b : Borrowed), s.borrowedOf h = some b →
    (extentEmpty s h = false → exec (.extentRelease h) s = .next s) ∧
    (b.granted = true → extentEmpty s h = true → (b.closing = true ∨ borrowAhead s < (emptyExtents s).length) →
      quorumUp s = true → s.rdg.map.proposals.contains (s.rdg.part, .extent h 4 0) = false →
      ∃ t, exec (.extentRelease h) s = .next t ∧ t.quiet = s.quiet ∧
        t.rdg.map.proposals = s.rdg.map.proposals ++ [(s.rdg.part, .extent h 4 0)])) ∧
  (∀ (s : State) (o : Origin) (d : InFlight) (l : Lent), canStart s o opRevoke = some d →
    s.lentOf (dHandle d.raw) = some l → l.lender = none →
    ∃ t y, exec (.extentRevoke o) s = .next t ∧ t.lentOf (dHandle d.raw) = some y ∧ y.revokers = l.revokers ++ [o] ∧
      t.ses = s.ses ∧ t.hrt = s.hrt ∧
      (l.revokers = [] → l.state ≤ 1 →
        t.rdg.map.proposals = s.rdg.map.proposals ++ [(s.rdg.part, .extent (dHandle d.raw) 2 0)]) ∧
      (l.revokers ≠ [] → t.rdg.map.proposals = s.rdg.map.proposals)) ∧
  (∀ (s : State) (h : Word) (l : Lent) (t0 : Nat), s.lentOf h = some l → l.graceAt = some t0 →
    (s.localNs < t0 + graceOf s l → exec (.gracePeriodEnd h) s = .next s) ∧
    (t0 + graceOf s l ≤ s.localNs → l.state = 2 → l.graceEnd = none →
      ∃ t y, exec (.gracePeriodEnd h) s = .next t ∧ t.lentOf h = some y ∧ y.graceEnd = some s.localNs ∧
        t.rdg.map.proposals = s.rdg.map.proposals ++ [(s.rdg.part, .extent h 3 0)] ∧ t.ses = s.ses ∧ t.desc = s.desc))

/-- Regions (R304 to R307, R311): a creation reserves its pages, maps the region and waits for its commit; a mapping at home
registers its part; an unmapping takes the mapping away; a seal of the version expected advances it and one of another
version does not; a query reads it. -/
def Obligations.RegionsAreMappedAndSealed : Prop :=
  (∀ (s s1 : State) (o : Origin) (d : InFlight) (slot spare gran : Nat) (pages : List RegionPlace) (ext : List Word),
    canStart s o opRegionMap = some d → mapCreate d.raw = true → createMalformed s d.raw = false →
    freeRegionSlot s = some slot → standsBy s = false → s.fbx.trngOk = true →
    reserveRegion s d.raw d.tenant = some (s1, pages, spare, gran, ext) → takenUncleared s s1 = [] →
    ∃ t r m e, exec (.regionCreate o) s = .next t ∧ t.region slot = some r ∧ r.creating = some o ∧
      r.tenant = d.tenant ∧ r.size = 0x4000000 * mapSize d.raw ∧ r.pages = pages ∧ r.version = 0 ∧
      m ∈ t.rdg.mappings ∧ m.unit = mapUnit d.raw ∧ m.handle = regionHandle t r ∧ t.descriptor o = some e ∧
      e.waitsMap = some s.localNs ∧ t.ses = s.ses) ∧
  (∀ (s : State) (o : Origin) (d : InFlight) (r : Region), canStart s o opRegionMap = some d →
    mapCreate d.raw = false → mapUnmap d.raw = false → mapMalformed s d.raw = false →
    hTenant (dHandle d.raw) = d.tenant → hPart (dHandle d.raw) = s.rdg.part → regionOf s (dHandle d.raw) = some r →
    badPlace s (mapUnit d.raw) (ceilDiv r.size unitBytes) = false → (r.shared = true ∨ mapView d.raw ≠ 2) →
    ∃ t y m, exec (.regionMap o) s = .next t ∧ t.descriptor o = none ∧ t.region r.slot = some y ∧
      viewOf y s.rdg.part = some (mapView d.raw) ∧ m ∈ t.rdg.mappings ∧ m.unit = mapUnit d.raw ∧
      m.handle = dHandle d.raw ∧ m.size = r.size ∧ t.ses = s.ses ∧ t.hrt = s.hrt) ∧
  (∀ (s : State) (o : Origin) (d : InFlight) (m : Mapping), canStart s o opRegionMap = some d →
    mapCreate d.raw = false → mapUnmap d.raw = true → hTenant (dHandle d.raw) = d.tenant →
    s.partKnown (hPart (dHandle d.raw)) = true → s.rdg.mappings.find? (fun m => m.handle == dHandle d.raw) = some m →
    (m.dead = true ∨ (regionOf s (dHandle d.raw)).isSome = true) →
    ∃ t, exec (.regionUnmap o) s = .next t ∧ (∀ n ∈ t.rdg.mappings, n.handle ≠ dHandle d.raw) ∧ t.ses = s.ses ∧
      (m.dead = true → t.descriptor o = none ∧ ∀ l ∈ t.rdg.lines, l.region ≠ dHandle d.raw)) ∧
  (∀ (s : State) (o : Origin) (d : InFlight) (r : Region), canStart s o opPublish = some d →
    publishQuery d.raw = false → publishRegion s d = some r → r.ops = [] → r.lostPages = [] → r.mappers ≠ [] →
    r.unmapping = [] → (∀ m ∈ r.mappers, m.view ≠ 2) →
    ∃ t y, exec (.regionPublish o) s = .next t ∧ t.descriptor o = none ∧ t.region r.slot = some y ∧ y.ops = [] ∧
      t.ses = s.ses ∧ t.hrt = s.hrt ∧
      (r.version = publishExpected d.raw → y.version = (r.version + 1) % 2 ^ 32 ∧ y.sealedPages = []) ∧
      (r.version ≠ publishExpected d.raw → y.version = r.version ∧ y.sealedPages = r.sealedPages)) ∧
  (∀ (s : State) (o : Origin) (d : InFlight) (r : Region), canStart s o opPublish = some d →
    publishQuery d.raw = true → publishRegion s d = some r →
    ∃ t, exec (.regionPublishQuery o) s = .next t ∧ t.quiet = s.quiet ∧ t.descriptor o = none)

/-- Host reads and writes (R56, R303, R309, R314): an unmapped or dead read returns ones with poison, a cached line is served, a
read at home returns the region's bytes, or ones with poison where a column's
error is not corrected; a write reaches the region only in a read-write view, and then reads back. Before the host attaches
the digest window is not mapped either. -/
def Obligations.HostReadsAndWritesRegions : Prop :=
  (∀ (s : State) (off : Nat) (errs : List ReadError), s.pwr.ready = true → (off < digestBase ∨ s.host.attached = false) →
    (mappingAt s off = none → ∃ t, exec (.hostMemRead off errs) s = .next t ∧ t.quiet = s.quiet ∧ t.desc = s.desc ∧
      t.out = s.out ++ [.readData (off / 64 * 64) (List.replicate 64 0xFF) true] ∧
      t.dgn.cxlUnmapped = min 0xFFFF (s.dgn.cxlUnmapped + 1)) ∧
    (∀ m o, mappingAt s off = some (m, o) → m.dead = true → exec (.hostMemRead off errs) s = .next (poisonRead s off)) ∧
    (∀ m o l, mappingAt s off = some (m, o) → m.dead = false → cached s m.handle (o / 256) (m.view == 2) = some l →
      exec (.hostMemRead off errs) s = .next (lineToHost s off l.data)) ∧
    (∀ m o r, mappingAt s off = some (m, o) → m.dead = false → m.view ≠ 2 → cached s m.handle (o / 256) false = none →
      regionOf s m.handle = some r → r.ops = [] → r.mappers ≠ [] → r.unmapping = [] →
      r.lostPages.contains (o / 256 / 256) = false →
      ∃ t, exec (.hostMemRead off errs) s = .next t ∧ t.ses = s.ses ∧ t.hrt.mem = s.hrt.mem ∧
        t.hrt = (hostReadErrors s r o errs).1.hrt ∧
        ((hostReadErrors s r o errs).2 = false →
          Output.readData (off / 64 * 64) (slice (readRegion s r (256 * (o / 256)) 256) (off % 256 / 64 * 64) 64) false
            ∈ t.out) ∧
        ((hostReadErrors s r o errs).2 = true →
          Output.readData (off / 64 * 64) (List.replicate 64 0xFF) true ∈ t.out))) ∧
  (∀ (s : State) (off : Nat) (errs : List ReadError), s.pwr.ready = true → s.host.attached = true → digestBase ≤ off →
    windowPage s off = none →
    exec (.hostMemRead off errs) s = .next (s.emit (.readData (off / 64 * 64) (List.replicate 64 0) false))) ∧
  (∀ (s : State) (off : Nat) (data : List Byte), s.pwr.ready = true → off % 64 + data.length ≤ 64 →
    (s.host.attached = true → digestBase ≤ off → exec (.hostMemWrite off data) s =
      .next (s.onDgn fun d => { d with digestWrites := bump 16 d.digestWrites })) ∧
    ((off < digestBase ∨ s.host.attached = false) → mappingAt s off = none → exec (.hostMemWrite off data) s =
      .next (s.onDgn fun d => { d with cxlUnmapped := bump 16 d.cxlUnmapped })) ∧
    (∀ m o, (off < digestBase ∨ s.host.attached = false) → mappingAt s off = some (m, o) → m.view ≠ 0 → exec (.hostMemWrite off data) s =
      .next (s.onDgn fun d => { d with viewWrites := d.viewWrites + 1 })) ∧
    (∀ m o r, (off < digestBase ∨ s.host.attached = false) → mappingAt s off = some (m, o) → m.view = 0 → m.dead = false →
      regionOf s m.handle = some r → r.ops = [] → r.mappers ≠ [] → r.unmapping = [] → sharersOf r (o / 256) = [] →
      r.lostPages.contains (o / 256 / 256) = false → memoriesCanonical s = true →
      ∃ t y, exec (.hostMemWrite off data) s = .next t ∧ t.region r.slot = some y ∧
        readRegion t y o data.length = data ∧ Output.writeDone off ∈ t.out ∧ t.ses = s.ses ∧ t.desc = s.desc))

/-! ### Twin and cairns -/

/-- The twin pair (R315, R316, R337, R349 to R353): a pairing is proposed to the map; coming into service agrees a secret and
keeps every log, as does leaving it, after which nothing waits; a restoration lists and restores sessions that were lost; a
takeover proposes its four changes in one. -/
def Obligations.TwinPairKeepsLogs : Prop :=
  (∀ (s : State) (val : Word), s.pwr.ready = true → bit val 10 = true →
    ∃ t, exec (.twinPropose val) s = .next t ∧ t.ses = s.ses ∧ t.desc = s.desc ∧ t.hrt = s.hrt ∧
      t.rdg.twinState = (if s.rdg.twinState = 2 then 2 else 1) ∧
      t.rdg.map.proposals = s.rdg.map.proposals ++ [(s.rdg.part, .twinOf s.rdg.part (fld val 9 0))]) ∧
  (∀ s : State, s.pwr.ready = true → s.rdg.twinState ≠ 2 → twinReachable s = true → restoringAny s = false →
    s.fbx.trngOk = true →
    ∃ t, exec .twinInService s = .next t ∧ t.rdg.twinState = 2 ∧ t.fbx.pairSecret.isSome = true ∧
      t.fbx.oldSecret = false ∧ t.hrt = s.hrt ∧
      ∀ n x, s.session n = some x → ∃ y, t.session n = some y ∧ y.log = x.log ∧ y.state = x.state) ∧
  (∀ s : State, (twinReachable s = true → exec .twinOutOfService s = .next s) ∧
    (twinReachable s = false → s.rdg.twinState = 2 →
      ∃ t, exec .twinOutOfService s = .next t ∧ t.rdg.twinState = 3 ∧ t.crn.resync = false ∧ t.hrt = s.hrt ∧
        ∀ n x, s.session n = some x → ∃ y, t.session n = some y ∧ y.log = x.log ∧ y.copied = false ∧
          y.acks = 0 ∧ y.parkWaits = none ∧ (x.parkWaits = none → y.state = (if x.state = .restoring then .lost else x.state)) ∧
          (x.parkWaits.isSome = true → y.state = .parked))) ∧
  (∀ (s : State) (floor : Nat) (e : SlotEntry), s.pwr.ready = true → s.rdg.twinState ≠ 2 →
    s.twin.any s.partUp = true → s.session e.slot = none →
    ∃ t, exec (.twinRestore floor [e] []) s = .next t ∧ t.ses.floor = max s.ses.floor floor ∧ t.ses.gate = false ∧
      t.hrt = s.hrt ∧ (e.durability = 0 → t.session e.slot = none) ∧
      (e.durability ≠ 0 → ∃ y, t.session e.slot = some y ∧ y.state = .restoring ∧ y.gen = e.gen)) ∧
  (∀ (s : State) (floor : Nat) (r : Restored) (x : Session), s.pwr.ready = true → s.rdg.twinState ≠ 2 →
    s.twin.any s.partUp = true → s.session r.slot = some x → x.state = .restoring → x.gen = r.gen →
    s.fbx.trngOk = true → r.hasPages = false →
    ∃ t y, exec (.twinRestore floor [] [r]) s = .next t ∧ t.session r.slot = some y ∧ y.log = r.log ∧ y.gen = r.gen ∧
      y.tenant = r.tenant ∧ y.state = (if r.parked then .parked else .resident) ∧ t.crn.takeoverSeen = true ∧
      t.hrt = s.hrt) ∧
  (∀ (s : State) (p standby t0 : Nat) (e q : MapPart), s.pwr.ready = true → s.twin = some p →
    s.rdg.partnerDownAt = some t0 → s.mapPart standby = some e → e.state = 1 → standby ≠ s.rdg.part → standby ≠ p →
    s.mapPart p = some q → q.state = 2 →
    (s.localNs < t0 + rejoinWait s → exec (.takeover standby) s = .next s) ∧
    (t0 + rejoinWait s ≤ s.localNs → s.rdg.map.proposals.contains (s.rdg.part, .part p e.address 1) = false →
      ∃ t, exec (.takeover standby) s = .next t ∧ t.ses = s.ses ∧ t.desc = s.desc ∧
        t.rdg.map.proposals = s.rdg.map.proposals ++
          (takeoverChanges p standby s.rdg.part e.address).map (fun c => (s.rdg.part, c))))

/-- Cairns (R356 to R362): one that fits is sealed in the slot that does not hold the newer one, a failed write leaves that slot
unsealed; a schedule is kept, dropped, and served when due; a restoration takes log and length from the manifest; a trigger
makes every schedule due. Neither writing a cairn nor serving a schedule
changes the session's log. -/
def Obligations.CairnsSealOneSlot : Prop :=
  (∀ (s : State) (o : Origin) (held : List CairnObject) (writeOk : Bool) (how : Recovery) (d : InFlight) (x : Session) (a size : Nat),
    startSession s o opCairn false = some (d, .ok x) → cairnIsRestore d.raw = false → cairnIsArm d.raw = false →
    cairnIsDisarm d.raw = false → cairnBadSlots d.raw = false → cairnKv d.raw = false →
    size = cairnSize (layShards 8192 (cutShards (cairnObjects s x false held))) →
    a = targetSlot x (scheduleOf o d.raw s.localNs) →
    ∃ t y, exec (.cairnWrite ⟨o, how⟩ held writeOk) s = .next t ∧ t.descriptor o = none ∧ t.session x.slot = some y ∧
      y.log = x.log ∧ t.hrt = s.hrt ∧
      (1048576 * cairnMib d.raw < size → y = x) ∧
      (size ≤ 1048576 * cairnMib d.raw → writeOk = true → y.cairnSeq = x.cairnSeq + 1 ∧
        sealedAt y a = x.cairnSeq + 1 ∧ t.crn.written = min 0xFFFF (s.crn.written + 1)) ∧
      (size ≤ 1048576 * cairnMib d.raw → writeOk = false → y.cairnSeq = x.cairnSeq ∧ sealedAt y a = 0 ∧
        t.crn.written = s.crn.written)) ∧
  (∀ (s : State) (o : Origin) (d : InFlight) (x : Session), startSession s o opCairn false = some (d, .ok x) →
    cairnIsRestore d.raw = false → cairnIsArm d.raw = true → cairnIsDisarm d.raw = false → cairnBadSlots d.raw = false →
    ∃ t, exec (.cairnArm o) s = .next t ∧ t.descriptor o = none ∧ t.hrt = s.hrt ∧
      t.session x.slot = some { x with schedule := some (scheduleOf o d.raw s.localNs) }) ∧
  (∀ (s : State) (o : Origin) (d : InFlight) (x : Session), startSession s o opCairn false = some (d, .ok x) →
    cairnIsRestore d.raw = false → cairnIsDisarm d.raw = true →
    ∃ t, exec (.cairnDisarm o) s = .next t ∧ t.descriptor o = none ∧ t.hrt = s.hrt ∧
      t.session x.slot = some { x with schedule := none }) ∧
  (∀ (s : State) (slot : Nat) (held : List CairnObject) (writeOk : Bool) (how : Recovery) (x : Session) (c : Schedule),
    s.session slot = some x → x.schedule = some c →
    (cairnIsDue s c = false → exec (.cairnDue ⟨slot, how⟩ held writeOk) s = .next s) ∧
    (cairnIsDue s c = true → s.pwr.ready = true → s.pwr.heldNow = false → armerServes s c.armer = true → x.move = none →
      (x.state = .resident ∨ x.state = .parked) → c.kv = false → writeOk = true →
      cairnSize (layShards 8192 (cutShards (cairnObjects s x false held))) ≤ 1048576 * c.slotMib →
      ∃ t y k, exec (.cairnDue ⟨slot, how⟩ held writeOk) s = .next t ∧ t.session slot = some y ∧ y.log = x.log ∧
        y.cairnSeq = x.cairnSeq + 1 ∧ y.schedule = some k ∧ k.lastNs = s.localNs ∧ k.steps = 0 ∧ k.due = false ∧
        t.hrt = s.hrt)) ∧
  (∀ (s : State) (o : Origin) (a b : CairnSlot) (fit : Bool) (slot : Nat) (d : InFlight),
    canStart s o opCairn = some d → s.ses.gate = false → cairnIsRestore d.raw = true → dHandle d.raw = 0 →
    (chosenSlot a b = none →
      ∃ t, exec (.cairnRestore o a b fit slot) s = .next t ∧ t.quiet = s.quiet ∧ t.descriptor o = none) ∧
    (∀ (c : CairnSlot) (u : State) (conds : List Status) (h : Word), chosenSlot a b = some c → slotFree s slot = true →
      restoreCairn s d c ((if slotValid a then [(cairnSlotA d.raw, slotSeq a)] else []) ++
        (if slotValid b then [(cairnSlotB d.raw, slotSeq b)] else [])) fit slot = .ok (u, conds, h) → takenUncleared s u = [] →
      ∃ t y, exec (.cairnRestore o a b fit slot) s = .next t ∧ t.descriptor o = none ∧ t.session slot = some y ∧
        y.state = .resident ∧ y.tenant = d.tenant ∧ y.log = c.record.log.take (manifestField c 319 256))) ∧
  (∀ (s : State) (foothill ridge : Nat) (beyond : Bool), s.pwr.ready = true →
    ((∃ t0, s.crn.lastCheck = some t0 ∧ s.localNs < t0 + 1000000000) → exec (.earlyWarningCheck foothill ridge) s = .next s) ∧
    ((∀ t0, s.crn.lastCheck = some t0 → t0 + 1000000000 ≤ s.localNs) →
    beyond = (overThreshold (s.hrt.corrected - s.hrt.correctedMark) (fld s.crn.triggerCtl 15 0) ||
      overThreshold foothill (fld s.crn.triggerCtl 31 16) ||
      overThreshold ridge (1000 * fld s.crn.triggerCtl 47 32)) →
    ∃ t, exec (.earlyWarningCheck foothill ridge) s = .next t ∧ t.hrt.correctedMark = s.hrt.corrected ∧
      t.hrt.mem = s.hrt.mem ∧ (beyond = false → t.ses = s.ses ∧
        t.crn = { s.crn with lastCheck := some s.localNs }) ∧
      (beyond = true → s.crn.lastTrigger = none → t.crn.triggers = min 0xFF (s.crn.triggers + 1) ∧
        t.crn.triggerSeen = true ∧ ∀ y ∈ t.ses.table, ∀ c, y.schedule = some c → c.due = true)))

/-! ### Firmware -/

/-- FW_BLOCK (R366 to R370, Table 17.4): a block whose digest does not match is refused; a good one joins its download; a verified
image takes the inactive slot; an activation acts at its epoch; an abort closes the download and withdraws the activation. -/
def Obligations.FirmwareBlocksFillTheInactiveSlot : Prop :=
  (∀ (s : State) (o : Origin) (digest : BitVec 384) (data : List Byte) (flashOk : Bool) (d : InFlight) (x : Download),
    startFirmware s o 0 = some d → fwMalformed d.raw = false → fwBusy s d.raw = false →
    ((data.take (fwLength d.raw)).length ≠ fwLength d.raw ∨ sha384 (data.take (fwLength d.raw)) ≠ digest →
      ∃ t, exec (.fwBlockWrite o digest data flashOk) s = .next t ∧ t.quiet = s.quiet ∧ t.descriptor o = none) ∧
    ((data.take (fwLength d.raw)).length = fwLength d.raw → sha384 (data.take (fwLength d.raw)) = digest → flashOk = true →
      openDownload (openFor s.fwu (fwTarget d.raw) (fwId d.raw)) (fwTarget d.raw) = some x →
      ∃ t, exec (.fwBlockWrite o digest data flashOk) s = .next t ∧ t.descriptor o = none ∧ t.fwu.active = s.fwu.active ∧
        openDownload t.fwu (fwTarget d.raw) = some (addBlock x (fwOffset d.raw) (data.take (fwLength d.raw))) ∧
        t.ses = s.ses ∧ t.hrt = s.hrt)) ∧
  (∀ (s : State) (o : Origin) (d : InFlight) (x : Download) (img : List Byte), startFirmware s o 1 = some d →
    fwMalformed d.raw = false → fwDiscarded s d.raw = false → fwTarget d.raw = 0 → openDownload s.fwu 0 = some x →
    x.id = fwId d.raw → img = (downloadRun x).take (bfld ((downloadRun x).take 256) 95 64) →
    s.fwu.slots.length = 2 →
    (∀ st, imageRefusal img = some st → ∃ t, exec (.fwBlockVerify o) s = .next t ∧ t.quiet = s.quiet ∧ t.descriptor o = none) ∧
    (imageRefusal img = none → ∃ t, exec (.fwBlockVerify o) s = .next t ∧ t.descriptor o = none ∧
      verifiedImage t.fwu = some (imageKept img) ∧ t.fwu.active = s.fwu.active ∧ t.ses = s.ses ∧ t.hrt = s.hrt)) ∧
  (∀ (s : State) (o : Origin) (d : InFlight) (i : FwImage), startFirmware s o 2 = some d → fwMalformed d.raw = false →
    fwDiscarded s d.raw = false → verifiedImage s.fwu = some i →
    (fwCold d.raw = false → compatibleLive s = false →
      ∃ t, exec (.fwBlockActivate o) s = .next t ∧ t.quiet = s.quiet ∧ t.descriptor o = none) ∧
    (fwCold d.raw = true → fwDomain d.raw = false →
      ∃ t, exec (.fwBlockActivate o) s = .next t ∧ t.descriptor o = none ∧ t.fwu.active = s.fwu.active ∧
        (s.rdg.map.epoch < fwEpoch d.raw → t.fwu.activation = some { epoch := fwEpoch d.raw, cold := true }) ∧
        (fwEpoch d.raw ≤ s.rdg.map.epoch → t.fwu.coldSlot = some (inactive s.fwu) ∧ t.fwu.activation = none)) ∧
    (fwCold d.raw = true → fwDomain d.raw = true →
      ∃ t, exec (.fwBlockActivate o) s = .next t ∧ t.fwu = s.fwu ∧
        t.rdg.map.proposals = s.rdg.map.proposals ++ [(s.rdg.part, .activation i.digest (fwEpoch d.raw) true)]) ∧
    (fwCold d.raw = false → fwDomain d.raw = false → compatibleLive s = true → s.fwu.attemptAt = none →
      s.fwu.retryAt = none → fwEpoch d.raw ≤ s.rdg.map.epoch →
      ∃ t, exec (.fwBlockActivate o) s = .next t ∧ t.descriptor o = none ∧ t.fwu.attemptAt = some s.localNs ∧
        t.fwu.activation = some { epoch := fwEpoch d.raw, cold := false } ∧ t.fwu.active = s.fwu.active)) ∧
  (∀ (s : State) (o : Origin) (d : InFlight), startFirmware s o 3 = some d → fwMalformed d.raw = false →
    fwBusy s d.raw = false →
    ∃ t, exec (.fwBlockAbort o) s = .next t ∧ t.descriptor o = none ∧ openDownload t.fwu (fwTarget d.raw) = none ∧
      t.fwu.active = s.fwu.active ∧ t.ses = s.ses ∧ t.hrt = s.hrt ∧
      (fwTarget d.raw = 0 → t.fwu.activation = none))

/-- The switch and what follows it (R371 to R374): a quiesced part makes the inactive slot active and keeps sessions, hearth and
descriptors; attempts end and start again in time; an image is confirmed on all its conditions or falls back at the window's
end or on a reject; a recovery download ends with its result. -/
def Obligations.FirmwareSwitchKeepsSessions : Prop :=
  (∀ s : State, (s.pwr.heldNow = true → exec .firmwareSwitch s = .next s) ∧
    (s.pwr.ready = true → s.pwr.heldNow = false → switchPending s = true → s.fwu.retryAt = none → compatibleLive s = true →
      (quiesced s = false → exec .firmwareSwitch s = .next s) ∧
      (quiesced s = true → (∀ b ∈ s.ses.batches, b.resting = false) →
      ∃ t, exec .firmwareSwitch s = .next t ∧ t.fwu.active = inactive s.fwu ∧ t.fwu.activation = none ∧
        t.fwu.confirmed = !s.fbx.policy ∧ t.ses.table = s.ses.table ∧ t.hrt.mem = s.hrt.mem ∧ t.desc = s.desc))) ∧
  (∀ (s : State) (t0 : Nat), s.fwu.attemptAt = some t0 →
    (s.localNs < t0 + s.fwu.attemptWait.getD (quiesceNs s) → exec .quiesceTimeout s = .next s) ∧
    (t0 + s.fwu.attemptWait.getD (quiesceNs s) ≤ s.localNs → s.pwr.heldNow = false →
      (∀ b ∈ s.ses.batches, b.resting = false) →
      ∃ t, exec .quiesceTimeout s = .next t ∧ { t with fwu := s.fwu, dgn := s.dgn } = s ∧ t.fwu.attemptAt = none ∧
        t.fwu.retryAt = some (s.localNs + 10000000) ∧ t.fwu.quiesceTries = min 0xFFFF (s.fwu.quiesceTries + 1) ∧
        t.fwu.active = s.fwu.active)) ∧
  (∀ (s : State) (t0 : Nat), s.fwu.retryAt = some t0 →
    (s.localNs < t0 → exec .quiesceRetry s = .next s) ∧
    (t0 ≤ s.localNs → s.pwr.heldNow = false → switchPending s = true →
      ∃ t, exec .quiesceRetry s = .next t ∧ { t with fwu := s.fwu } = s ∧ t.fwu.retryAt = none ∧
        t.fwu.attemptAt = some s.localNs ∧ t.fwu.attemptWait = some (quiesceNs s))) ∧
  (∀ (s : State) (cores dies : Bool), s.pwr.ready = true → s.fbx.policy = true → s.fwu.confirmed = false →
    ((cores = false ∨ dies = false ∨ hostAsBefore s = false) → exec (.imageConfirm cores dies) s = .next s) ∧
    (hostAsBefore s = true → s.rdg.configured = false →
      ∃ t, exec (.imageConfirm true true) s = .next t ∧ { t with fwu := s.fwu } = s ∧ t.fwu.confirmed = true ∧
        t.fwu.confirmAt = none ∧ t.fwu.active = s.fwu.active)) ∧
  (∀ (s : State) (t0 : Nat), s.fwu.confirmAt = some t0 → s.fbx.policy = true → s.fwu.confirmed = false →
    (s.localNs < t0 → exec .confirmWindowExpire s = .next s) ∧
    (t0 ≤ s.localNs → ∃ t, exec .confirmWindowExpire s = .next t ∧ t.fwu.confirmed = true ∧ t.fwu.fallbackSeen = true ∧
      t.pwr.lastCause = 7 ∧ t.pwr.ready = false ∧ (slotBoots s.fwu (1 - s.fwu.active) = true →
        t.fwu.active = 1 - s.fwu.active) ∧ t.hrt.mem = s.hrt.mem)) ∧
  (∀ (s : State) (val : Word),
    ((bit val 8 = true ∧ s.fbx.policy = true ∧ s.fwu.confirmed = false) →
      ∃ t, exec (.fwReject val) s = .next t ∧ t.fwu.confirmed = true ∧ t.fwu.fallbackSeen = true ∧ t.pwr.lastCause = 7) ∧
    ((bit val 8 = false ∨ s.fbx.policy = false ∨ s.fwu.confirmed = true) →
      ∃ t, exec (.fwReject val) s = .next t ∧ { t with fwu := s.fwu } = s ∧ t.fwu.ctl = val &&& 0xFF ∧
        { t.fwu with ctl := s.fwu.ctl } = s.fwu)) ∧
  (∀ (s : State) (val : Word),
    ∃ t, exec (.recoveryDownload val) s = .next t ∧ { t with fwu := s.fwu } = s ∧ t.fwu.slots = s.fwu.slots ∧
      t.fwu.rcvBusy = (s.fwu.rcvBusy || (bit val 32 && s.pwr.bootStage == 7))) ∧
  (∀ (s : State) (img : Option (List Byte)) (flashOk : Bool) (failed : List Nat), s.fwu.rcvBusy = true →
    ∃ t, exec (.recoveryDownloadDone img flashOk failed) s = .next t ∧ t.fwu.rcvBusy = false ∧
      t.fwu.rcvResult = recoveryResult s img flashOk ∧
      (recoveryResult s img flashOk ≠ 0 → t.fwu.slots = s.fwu.slots ∧ t.pwr = s.pwr) ∧
      (recoveryResult s img flashOk = 0 → s.fwu.lastFailed.getD 0 < s.fwu.slots.length →
        t.fwu.active = s.fwu.lastFailed.getD 0 ∧ t.fwu.confirmed = true))

/-! ### Firebox, bellows, injection -/

/-- The SPDM responder (R326 to R328) answers each request with one reply and changes nothing but its connection: errors while
identity_ok reads 0 or before the algorithms are settled, slot 0 only, the device's signature over its measurements. -/
def Obligations.SpdmAnswersEachRequest : Prop :=
  (∀ s : State, s.fbx.identityOk = true → ∃ t u v,
    exec .getVersion s = .next t ∧ t.out = s.out ++ [.spdm (.version [0x12, 0x13])] ∧ t.fbx.spdm = { version := true } ∧
    exec .getCapabilities t = .next u ∧ u.out = t.out ++ [.spdm (.capabilities true true true)] ∧
    exec (.negotiateAlgorithms true true) u = .next v ∧ v.out = u.out ++ [.spdm (.algorithms true true)] ∧
    spdmReady v = true ∧ { v with out := s.out, fbx := s.fbx } = s ∧
    { v.fbx with spdm := s.fbx.spdm } = s.fbx) ∧
  (∀ (s : State) (c : Instr) (slot off len index : Nat) (nonce : BitVec 256),
    (s.fbx.identityOk = false ∨ spdmReady s = false) →
    c ∈ [Instr.getDigests, .getCertificate slot off len, .challenge slot nonce, .getMeasurements index nonce] →
    exec c s = .next (s.emit (.spdm .error))) ∧
  (∀ s : State, s.fbx.identityOk = true → spdmReady s = true →
    exec .getDigests s = .next (s.emit (.spdm (.digests 1 [sha384 (certificateChain s)]))) ∧
    (∀ off len, off ≤ (certificateChain s).length → exec (.getCertificate 0 off len) s =
      .next (s.emit (.spdm (.certificate 0 (slice (certificateChain s) off len)
        ((certificateChain s).length - off - len))))) ∧
    (∀ (nonce : BitVec 256), exec (.challenge 0 nonce) s =
      .next (s.emit (.spdm (.challengeAuth 0 (sha384 (certificateChain s)) (Config.deviceSign
        (leBytes 32 nonce.toNat ++ leBytes 48 (sha384 (certificateChain s)).toNat)))))) ∧
    (∀ (slot off len : Nat) (nonce : BitVec 256), slot ≠ 0 →
      exec (.getCertificate slot off len) s = .next (s.emit (.spdm .error)) ∧
      exec (.challenge slot nonce) s = .next (s.emit (.spdm .error))) ∧
    (∀ (nonce : BitVec 256), exec (.getMeasurements 0 nonce) s =
      .next (s.emit (.spdm (.measurements (measurements s).length [] (Config.deviceSign (leBytes 32 nonce.toNat)))))) ∧
    (∀ (nonce : BitVec 256), exec (.getMeasurements 255 nonce) s =
      .next (s.emit (.spdm (.measurements (measurements s).length (measurements s) (Config.deviceSign
        (leBytes 32 nonce.toNat ++ ((measurements s).map measurementBytes).flatten))))))) ∧
  (∀ (s : State) (code : Nat), s.fbx.identityOk = true →
    exec (.spdmUnsupportedRequest code) s = .next (s.emit (.spdm .unsupportedRequest)))

/-- The bellows (R317 to R325): a port's control queue goes before its classes and a supply hold stops data; a gate list moves on
when its entry is over; a bad list is refused, a good one takes effect at its moment; a shaper or damper write fills its
buckets. -/
def Obligations.BellowsSendByClassAndGate : Prop :=
  (∀ (s : State) (n : Nat) (f : OutFrame) (rest : List OutFrame), n < 6 → (s.port n).state = .up →
    (s.bellow n).control = f :: rest → frameReady s f = true → holdsFrame s f = false →
    ∃ (t : State) (g : OutFrame), exec (.bellowsFrameBoundary n) s = .next t ∧ (t.bellow n).control = rest ∧
      (t.bellow n).classes = (s.bellow n).classes ∧ g.payload = f.payload ∧
      t.out = s.out ++ [.frame n (encodeHeader g.hdr) (frameNonce (s.peer f.hdr.dstAddr).framesSent s.rdg.address) g] ∧
      (takesSeq f = true → g.hdr.fseq = (s.peer f.hdr.dstAddr).nextSeq ∧
        (t.peer f.hdr.dstAddr).nextSeq = (s.peer f.hdr.dstAddr).nextSeq + 1 ∧
        (t.peer f.hdr.dstAddr).unacked = (s.peer f.hdr.dstAddr).unacked ++ [g]) ∧ t.ses = s.ses ∧ t.hrt = s.hrt) ∧
  (∀ (s : State) (n : Nat), n < 6 → (s.port n).state = .up → (s.bellow n).control = [] → s.pwr.heldNow = true →
    (∀ c ∈ (s.bellow n).classes, ∀ f ∈ c.queue, controlType f.hdr.type = false) →
    ∃ t, exec (.bellowsFrameBoundary n) s = .next t ∧ t.out = s.out ∧ t.quiet = s.quiet) ∧
  (∀ (s : State) (n : Nat) (g : Gate), (s.bellow n).active[(s.bellow n).index]? = some g → (s.bellow n).gated = true →
    (s.localNs < (s.bellow n).entryAt + g.ns → exec (.gateEntryBoundary n) s = .next s) ∧
    ((s.bellow n).entryAt + g.ns ≤ s.localNs → (s.bellow n).index + 1 < (s.bellow n).active.length →
      ∃ t, exec (.gateEntryBoundary n) s = .next t ∧ (t.bellow n).index = (s.bellow n).index + 1 ∧
        (t.bellow n).entryAt = (s.bellow n).entryAt + g.ns ∧ (t.bellow n).active = (s.bellow n).active ∧ t.quiet = s.quiet)) ∧
  (∀ (s : State) (val : Word), s.pwr.ready = true → selPort s ≠ 6 →
    (bit val 0 = true → ∃ t, exec (.gclCommit val) s = .next t ∧ t.quiet = s.quiet ∧
      (t.bellow (selPort s)).refused = gateListBad (pendingList (s.bellow (selPort s))) ∧
      (t.bellow (selPort s)).committed = (if gateListBad (pendingList (s.bellow (selPort s)))
        then (s.bellow (selPort s)).committed else some (pendingList (s.bellow (selPort s))))) ∧
    (bit val 1 = true → ∃ t, exec (.gclDiscard val) s = .next t ∧ t.quiet = s.quiet ∧
      (t.bellow (selPort s)).committed = none ∧ (t.bellow (selPort s)).pendingEntries = [] ∧
      (t.bellow (selPort s)).active = (s.bellow (selPort s)).active)) ∧
  (∀ (s : State) (n : Nat) (l : List Gate), (s.bellow n).committed = some l →
    (s.localNs < effectMoment (s.bellow n) → exec (.gclTakeEffect n) s = .next s) ∧
    (effectMoment (s.bellow n) ≤ s.localNs → ∃ t, exec (.gclTakeEffect n) s = .next t ∧ (t.bellow n).active = l ∧
      (t.bellow n).index = 0 ∧ (t.bellow n).committed = none ∧ t.quiet = s.quiet)) ∧
  (∀ (s : State) (val : Word) (c : BlwClass), s.pwr.ready = true → (s.bellow (selPort s)).classes[selClass s]? = some c →
    ∃ t y, exec (.shaperWrite val) s = .next t ∧ (t.bellow (selPort s)).classes[selClass s]? = some y ∧
      fld y.shape 31 0 = fld val 31 0 ∧ y.bucket = y.burst ∧ y.queue = c.queue ∧ t.quiet = s.quiet) ∧
  (∀ (s : State) (reg : Nat) (val : Word), s.pwr.ready = true → (reg = 1 ∨ reg = 2) →
    ∃ t, exec (.damperWrite reg val) s = .next t ∧ t.quiet = s.quiet ∧
      (reg = 1 → (t.damper (selDamper s)).rate = val) ∧ (reg = 2 → (t.damper (selDamper s)).burst = val) ∧
      (t.damper (selDamper s)).tc = fld (t.damper (selDamper s)).burst 31 0 * 1000000000 ∧
      (t.damper (selDamper s)).tp = fld (t.damper (selDamper s)).burst 63 32 * 1000000000)

/-- Injection, health and counters (R333, R343, R344, R384): a fault is armed only with debug_enable; a failed TRNG
leaves trng_ok at 0 and is counted; a tenant's counters and the power figure change at most once in their interval, rounded down. -/
def Obligations.InjectionHealthAndCoarseCounters : Prop :=
  (∀ (s : State) (val : Word) (c : Instr × Nat),
    c ∈ [(Instr.injectDisarm val, 0), (.injectCorrectedError val, 1), (.injectUncorrectableError val, 2),
      (.injectPageCheckFail val, 3), (.injectFrameTagFail val, 4), (.injectSupplyHold val, 5)] →
    s.pwr.ready = true → injectKind val = c.2 →
    (s.fbx.debug = false → exec c.1 s = .next (s.onDgn fun d => { d with injRefused := true })) ∧
    (s.fbx.debug = true → c.2 < 5 →
      exec c.1 s = .next (s.onDgn fun d =>
        { d with injectReg := injectValue val, injRefused := false, armed := decide (c.2 ≠ 0) })) ∧
    (s.fbx.debug = true → c.2 = 5 → s.pwr.dipActive = false →
      ∃ t, exec c.1 s = .next t ∧ t.pwr.heldNow = true ∧ t.pwr.injectedLen = injectedUs val ∧
        t.ses.table = s.ses.table ∧ t.hrt.mem = s.hrt.mem)) ∧
  (∀ s : State, ∃ t, exec .trngHealthFail s = .next t ∧ { t with fbx := s.fbx } = s ∧ t.fbx.trngOk = false ∧
    t.fbx.trngFailures = min 0xFF (s.fbx.trngFailures + 1)) ∧
  (∀ (s : State) (tenant : Nat) (c : TenantCounters), lookupBy (·.tenant) tenant s.host.tenants = some c →
    (intervalOver c.refreshed (tenantInterval s) s.localNs = false → exec (.tenantCounterRefresh tenant) s = .next s) ∧
    (intervalOver c.refreshed (tenantInterval s) s.localNs = true →
      ∃ t y, exec (.tenantCounterRefresh tenant) s = .next t ∧ lookupBy (·.tenant) tenant t.host.tenants = some y ∧
        y.latched = (tenantCounts s c).map powerFloor ∧ y.counts = c.counts ∧ y.refreshed = some s.localNs ∧
        { t with host := s.host } = s)) ∧
  (∀ (s : State) (watts : Nat),
    (intervalOver s.host.powerAt (tenantPowerWindow s) s.localNs = false → exec (.tenantPowerRefresh watts) s = .next s) ∧
    (intervalOver s.host.powerAt (tenantPowerWindow s) s.localNs = true →
      exec (.tenantPowerRefresh watts) s =
        .next (s.onHost fun h => { h with powerLatched := watts / 5 * 5, powerAt := some s.localNs })))
end

