-- ==== Sys2Proof/Laws/State.lean ====
section
/-!
SUPPORT. What each update of one part of the state leaves in every field, so that no proof unfolds a record update.
-/

namespace Sys2Proof.Machine

/-! ### onPins -/

@[simp] theorem State.onPins_pending (s : State) (f : Pins → Pins) : (s.onPins f).pending = s.pending := rfl
@[simp] theorem State.onPins_localNs (s : State) (f : Pins → Pins) : (s.onPins f).localNs = s.localNs := rfl
@[simp] theorem State.onPins_pins (s : State) (f : Pins → Pins) : (s.onPins f).pins = f s.pins := rfl
@[simp] theorem State.onPins_pwr (s : State) (f : Pins → Pins) : (s.onPins f).pwr = s.pwr := rfl
@[simp] theorem State.onPins_host (s : State) (f : Pins → Pins) : (s.onPins f).host = s.host := rfl
@[simp] theorem State.onPins_desc (s : State) (f : Pins → Pins) : (s.onPins f).desc = s.desc := rfl
@[simp] theorem State.onPins_ses (s : State) (f : Pins → Pins) : (s.onPins f).ses = s.ses := rfl
@[simp] theorem State.onPins_tie (s : State) (f : Pins → Pins) : (s.onPins f).tie = s.tie := rfl
@[simp] theorem State.onPins_hrt (s : State) (f : Pins → Pins) : (s.onPins f).hrt = s.hrt := rfl
@[simp] theorem State.onPins_img (s : State) (f : Pins → Pins) : (s.onPins f).img = s.img := rfl
@[simp] theorem State.onPins_stv (s : State) (f : Pins → Pins) : (s.onPins f).stv = s.stv := rfl
@[simp] theorem State.onPins_knd (s : State) (f : Pins → Pins) : (s.onPins f).knd = s.knd := rfl
@[simp] theorem State.onPins_srch (s : State) (f : Pins → Pins) : (s.onPins f).srch = s.srch := rfl
@[simp] theorem State.onPins_rdg (s : State) (f : Pins → Pins) : (s.onPins f).rdg = s.rdg := rfl
@[simp] theorem State.onPins_blw (s : State) (f : Pins → Pins) : (s.onPins f).blw = s.blw := rfl
@[simp] theorem State.onPins_fbx (s : State) (f : Pins → Pins) : (s.onPins f).fbx = s.fbx := rfl
@[simp] theorem State.onPins_crn (s : State) (f : Pins → Pins) : (s.onPins f).crn = s.crn := rfl
@[simp] theorem State.onPins_fwu (s : State) (f : Pins → Pins) : (s.onPins f).fwu = s.fwu := rfl
@[simp] theorem State.onPins_dgn (s : State) (f : Pins → Pins) : (s.onPins f).dgn = s.dgn := rfl
@[simp] theorem State.onPins_out (s : State) (f : Pins → Pins) : (s.onPins f).out = s.out := rfl
@[simp] theorem State.onPins_freeCount (s : State) (f : Pins → Pins) : (s.onPins f).freeCount = s.freeCount := rfl

/-! ### onPwr -/

@[simp] theorem State.onPwr_pending (s : State) (f : Power → Power) : (s.onPwr f).pending = s.pending := rfl
@[simp] theorem State.onPwr_localNs (s : State) (f : Power → Power) : (s.onPwr f).localNs = s.localNs := rfl
@[simp] theorem State.onPwr_pins (s : State) (f : Power → Power) : (s.onPwr f).pins = s.pins := rfl
@[simp] theorem State.onPwr_pwr (s : State) (f : Power → Power) : (s.onPwr f).pwr = f s.pwr := rfl
@[simp] theorem State.onPwr_host (s : State) (f : Power → Power) : (s.onPwr f).host = s.host := rfl
@[simp] theorem State.onPwr_desc (s : State) (f : Power → Power) : (s.onPwr f).desc = s.desc := rfl
@[simp] theorem State.onPwr_ses (s : State) (f : Power → Power) : (s.onPwr f).ses = s.ses := rfl
@[simp] theorem State.onPwr_tie (s : State) (f : Power → Power) : (s.onPwr f).tie = s.tie := rfl
@[simp] theorem State.onPwr_hrt (s : State) (f : Power → Power) : (s.onPwr f).hrt = s.hrt := rfl
@[simp] theorem State.onPwr_img (s : State) (f : Power → Power) : (s.onPwr f).img = s.img := rfl
@[simp] theorem State.onPwr_stv (s : State) (f : Power → Power) : (s.onPwr f).stv = s.stv := rfl
@[simp] theorem State.onPwr_knd (s : State) (f : Power → Power) : (s.onPwr f).knd = s.knd := rfl
@[simp] theorem State.onPwr_srch (s : State) (f : Power → Power) : (s.onPwr f).srch = s.srch := rfl
@[simp] theorem State.onPwr_rdg (s : State) (f : Power → Power) : (s.onPwr f).rdg = s.rdg := rfl
@[simp] theorem State.onPwr_blw (s : State) (f : Power → Power) : (s.onPwr f).blw = s.blw := rfl
@[simp] theorem State.onPwr_fbx (s : State) (f : Power → Power) : (s.onPwr f).fbx = s.fbx := rfl
@[simp] theorem State.onPwr_crn (s : State) (f : Power → Power) : (s.onPwr f).crn = s.crn := rfl
@[simp] theorem State.onPwr_fwu (s : State) (f : Power → Power) : (s.onPwr f).fwu = s.fwu := rfl
@[simp] theorem State.onPwr_dgn (s : State) (f : Power → Power) : (s.onPwr f).dgn = s.dgn := rfl
@[simp] theorem State.onPwr_out (s : State) (f : Power → Power) : (s.onPwr f).out = s.out := rfl
@[simp] theorem State.onPwr_freeCount (s : State) (f : Power → Power) : (s.onPwr f).freeCount = s.freeCount := rfl

/-! ### onHost -/

@[simp] theorem State.onHost_pending (s : State) (f : HostPort → HostPort) : (s.onHost f).pending = s.pending := rfl
@[simp] theorem State.onHost_localNs (s : State) (f : HostPort → HostPort) : (s.onHost f).localNs = s.localNs := rfl
@[simp] theorem State.onHost_pins (s : State) (f : HostPort → HostPort) : (s.onHost f).pins = s.pins := rfl
@[simp] theorem State.onHost_pwr (s : State) (f : HostPort → HostPort) : (s.onHost f).pwr = s.pwr := rfl
@[simp] theorem State.onHost_host (s : State) (f : HostPort → HostPort) : (s.onHost f).host = f s.host := rfl
@[simp] theorem State.onHost_desc (s : State) (f : HostPort → HostPort) : (s.onHost f).desc = s.desc := rfl
@[simp] theorem State.onHost_ses (s : State) (f : HostPort → HostPort) : (s.onHost f).ses = s.ses := rfl
@[simp] theorem State.onHost_tie (s : State) (f : HostPort → HostPort) : (s.onHost f).tie = s.tie := rfl
@[simp] theorem State.onHost_hrt (s : State) (f : HostPort → HostPort) : (s.onHost f).hrt = s.hrt := rfl
@[simp] theorem State.onHost_img (s : State) (f : HostPort → HostPort) : (s.onHost f).img = s.img := rfl
@[simp] theorem State.onHost_stv (s : State) (f : HostPort → HostPort) : (s.onHost f).stv = s.stv := rfl
@[simp] theorem State.onHost_knd (s : State) (f : HostPort → HostPort) : (s.onHost f).knd = s.knd := rfl
@[simp] theorem State.onHost_srch (s : State) (f : HostPort → HostPort) : (s.onHost f).srch = s.srch := rfl
@[simp] theorem State.onHost_rdg (s : State) (f : HostPort → HostPort) : (s.onHost f).rdg = s.rdg := rfl
@[simp] theorem State.onHost_blw (s : State) (f : HostPort → HostPort) : (s.onHost f).blw = s.blw := rfl
@[simp] theorem State.onHost_fbx (s : State) (f : HostPort → HostPort) : (s.onHost f).fbx = s.fbx := rfl
@[simp] theorem State.onHost_crn (s : State) (f : HostPort → HostPort) : (s.onHost f).crn = s.crn := rfl
@[simp] theorem State.onHost_fwu (s : State) (f : HostPort → HostPort) : (s.onHost f).fwu = s.fwu := rfl
@[simp] theorem State.onHost_dgn (s : State) (f : HostPort → HostPort) : (s.onHost f).dgn = s.dgn := rfl
@[simp] theorem State.onHost_out (s : State) (f : HostPort → HostPort) : (s.onHost f).out = s.out := rfl
@[simp] theorem State.onHost_freeCount (s : State) (f : HostPort → HostPort) : (s.onHost f).freeCount = s.freeCount := rfl

/-! ### onDesc -/

@[simp] theorem State.onDesc_pending (s : State) (f : List InFlight → List InFlight) : (s.onDesc f).pending = s.pending := rfl
@[simp] theorem State.onDesc_localNs (s : State) (f : List InFlight → List InFlight) : (s.onDesc f).localNs = s.localNs := rfl
@[simp] theorem State.onDesc_pins (s : State) (f : List InFlight → List InFlight) : (s.onDesc f).pins = s.pins := rfl
@[simp] theorem State.onDesc_pwr (s : State) (f : List InFlight → List InFlight) : (s.onDesc f).pwr = s.pwr := rfl
@[simp] theorem State.onDesc_host (s : State) (f : List InFlight → List InFlight) : (s.onDesc f).host = s.host := rfl
@[simp] theorem State.onDesc_desc (s : State) (f : List InFlight → List InFlight) : (s.onDesc f).desc = f s.desc := rfl
@[simp] theorem State.onDesc_ses (s : State) (f : List InFlight → List InFlight) : (s.onDesc f).ses = s.ses := rfl
@[simp] theorem State.onDesc_tie (s : State) (f : List InFlight → List InFlight) : (s.onDesc f).tie = s.tie := rfl
@[simp] theorem State.onDesc_hrt (s : State) (f : List InFlight → List InFlight) : (s.onDesc f).hrt = s.hrt := rfl
@[simp] theorem State.onDesc_img (s : State) (f : List InFlight → List InFlight) : (s.onDesc f).img = s.img := rfl
@[simp] theorem State.onDesc_stv (s : State) (f : List InFlight → List InFlight) : (s.onDesc f).stv = s.stv := rfl
@[simp] theorem State.onDesc_knd (s : State) (f : List InFlight → List InFlight) : (s.onDesc f).knd = s.knd := rfl
@[simp] theorem State.onDesc_srch (s : State) (f : List InFlight → List InFlight) : (s.onDesc f).srch = s.srch := rfl
@[simp] theorem State.onDesc_rdg (s : State) (f : List InFlight → List InFlight) : (s.onDesc f).rdg = s.rdg := rfl
@[simp] theorem State.onDesc_blw (s : State) (f : List InFlight → List InFlight) : (s.onDesc f).blw = s.blw := rfl
@[simp] theorem State.onDesc_fbx (s : State) (f : List InFlight → List InFlight) : (s.onDesc f).fbx = s.fbx := rfl
@[simp] theorem State.onDesc_crn (s : State) (f : List InFlight → List InFlight) : (s.onDesc f).crn = s.crn := rfl
@[simp] theorem State.onDesc_fwu (s : State) (f : List InFlight → List InFlight) : (s.onDesc f).fwu = s.fwu := rfl
@[simp] theorem State.onDesc_dgn (s : State) (f : List InFlight → List InFlight) : (s.onDesc f).dgn = s.dgn := rfl
@[simp] theorem State.onDesc_out (s : State) (f : List InFlight → List InFlight) : (s.onDesc f).out = s.out := rfl
@[simp] theorem State.onDesc_freeCount (s : State) (f : List InFlight → List InFlight) : (s.onDesc f).freeCount = s.freeCount := rfl

/-! ### onSess -/

@[simp] theorem State.onSess_pending (s : State) (f : Sessions → Sessions) : (s.onSess f).pending = s.pending := rfl
@[simp] theorem State.onSess_localNs (s : State) (f : Sessions → Sessions) : (s.onSess f).localNs = s.localNs := rfl
@[simp] theorem State.onSess_pins (s : State) (f : Sessions → Sessions) : (s.onSess f).pins = s.pins := rfl
@[simp] theorem State.onSess_pwr (s : State) (f : Sessions → Sessions) : (s.onSess f).pwr = s.pwr := rfl
@[simp] theorem State.onSess_host (s : State) (f : Sessions → Sessions) : (s.onSess f).host = s.host := rfl
@[simp] theorem State.onSess_desc (s : State) (f : Sessions → Sessions) : (s.onSess f).desc = s.desc := rfl
@[simp] theorem State.onSess_ses (s : State) (f : Sessions → Sessions) : (s.onSess f).ses = f s.ses := rfl
@[simp] theorem State.onSess_tie (s : State) (f : Sessions → Sessions) : (s.onSess f).tie = s.tie := rfl
@[simp] theorem State.onSess_hrt (s : State) (f : Sessions → Sessions) : (s.onSess f).hrt = s.hrt := rfl
@[simp] theorem State.onSess_img (s : State) (f : Sessions → Sessions) : (s.onSess f).img = s.img := rfl
@[simp] theorem State.onSess_stv (s : State) (f : Sessions → Sessions) : (s.onSess f).stv = s.stv := rfl
@[simp] theorem State.onSess_knd (s : State) (f : Sessions → Sessions) : (s.onSess f).knd = s.knd := rfl
@[simp] theorem State.onSess_srch (s : State) (f : Sessions → Sessions) : (s.onSess f).srch = s.srch := rfl
@[simp] theorem State.onSess_rdg (s : State) (f : Sessions → Sessions) : (s.onSess f).rdg = s.rdg := rfl
@[simp] theorem State.onSess_blw (s : State) (f : Sessions → Sessions) : (s.onSess f).blw = s.blw := rfl
@[simp] theorem State.onSess_fbx (s : State) (f : Sessions → Sessions) : (s.onSess f).fbx = s.fbx := rfl
@[simp] theorem State.onSess_crn (s : State) (f : Sessions → Sessions) : (s.onSess f).crn = s.crn := rfl
@[simp] theorem State.onSess_fwu (s : State) (f : Sessions → Sessions) : (s.onSess f).fwu = s.fwu := rfl
@[simp] theorem State.onSess_dgn (s : State) (f : Sessions → Sessions) : (s.onSess f).dgn = s.dgn := rfl
@[simp] theorem State.onSess_out (s : State) (f : Sessions → Sessions) : (s.onSess f).out = s.out := rfl
@[simp] theorem State.onSess_freeCount (s : State) (f : Sessions → Sessions) : (s.onSess f).freeCount = s.freeCount := rfl

/-! ### onTie -/

@[simp] theorem State.onTie_pending (s : State) (f : Tiers → Tiers) : (s.onTie f).pending = s.pending := rfl
@[simp] theorem State.onTie_localNs (s : State) (f : Tiers → Tiers) : (s.onTie f).localNs = s.localNs := rfl
@[simp] theorem State.onTie_pins (s : State) (f : Tiers → Tiers) : (s.onTie f).pins = s.pins := rfl
@[simp] theorem State.onTie_pwr (s : State) (f : Tiers → Tiers) : (s.onTie f).pwr = s.pwr := rfl
@[simp] theorem State.onTie_host (s : State) (f : Tiers → Tiers) : (s.onTie f).host = s.host := rfl
@[simp] theorem State.onTie_desc (s : State) (f : Tiers → Tiers) : (s.onTie f).desc = s.desc := rfl
@[simp] theorem State.onTie_ses (s : State) (f : Tiers → Tiers) : (s.onTie f).ses = s.ses := rfl
@[simp] theorem State.onTie_tie (s : State) (f : Tiers → Tiers) : (s.onTie f).tie = f s.tie := rfl
@[simp] theorem State.onTie_hrt (s : State) (f : Tiers → Tiers) : (s.onTie f).hrt = s.hrt := rfl
@[simp] theorem State.onTie_img (s : State) (f : Tiers → Tiers) : (s.onTie f).img = s.img := rfl
@[simp] theorem State.onTie_stv (s : State) (f : Tiers → Tiers) : (s.onTie f).stv = s.stv := rfl
@[simp] theorem State.onTie_knd (s : State) (f : Tiers → Tiers) : (s.onTie f).knd = s.knd := rfl
@[simp] theorem State.onTie_srch (s : State) (f : Tiers → Tiers) : (s.onTie f).srch = s.srch := rfl
@[simp] theorem State.onTie_rdg (s : State) (f : Tiers → Tiers) : (s.onTie f).rdg = s.rdg := rfl
@[simp] theorem State.onTie_blw (s : State) (f : Tiers → Tiers) : (s.onTie f).blw = s.blw := rfl
@[simp] theorem State.onTie_fbx (s : State) (f : Tiers → Tiers) : (s.onTie f).fbx = s.fbx := rfl
@[simp] theorem State.onTie_crn (s : State) (f : Tiers → Tiers) : (s.onTie f).crn = s.crn := rfl
@[simp] theorem State.onTie_fwu (s : State) (f : Tiers → Tiers) : (s.onTie f).fwu = s.fwu := rfl
@[simp] theorem State.onTie_dgn (s : State) (f : Tiers → Tiers) : (s.onTie f).dgn = s.dgn := rfl
@[simp] theorem State.onTie_out (s : State) (f : Tiers → Tiers) : (s.onTie f).out = s.out := rfl
@[simp] theorem State.onTie_freeCount (s : State) (f : Tiers → Tiers) : (s.onTie f).freeCount = s.freeCount := rfl

/-! ### onHrt -/

@[simp] theorem State.onHrt_pending (s : State) (f : Hearth → Hearth) : (s.onHrt f).pending = s.pending := rfl
@[simp] theorem State.onHrt_localNs (s : State) (f : Hearth → Hearth) : (s.onHrt f).localNs = s.localNs := rfl
@[simp] theorem State.onHrt_pins (s : State) (f : Hearth → Hearth) : (s.onHrt f).pins = s.pins := rfl
@[simp] theorem State.onHrt_pwr (s : State) (f : Hearth → Hearth) : (s.onHrt f).pwr = s.pwr := rfl
@[simp] theorem State.onHrt_host (s : State) (f : Hearth → Hearth) : (s.onHrt f).host = s.host := rfl
@[simp] theorem State.onHrt_desc (s : State) (f : Hearth → Hearth) : (s.onHrt f).desc = s.desc := rfl
@[simp] theorem State.onHrt_ses (s : State) (f : Hearth → Hearth) : (s.onHrt f).ses = s.ses := rfl
@[simp] theorem State.onHrt_tie (s : State) (f : Hearth → Hearth) : (s.onHrt f).tie = s.tie := rfl
@[simp] theorem State.onHrt_hrt (s : State) (f : Hearth → Hearth) : (s.onHrt f).hrt = f s.hrt := rfl
@[simp] theorem State.onHrt_img (s : State) (f : Hearth → Hearth) : (s.onHrt f).img = s.img := rfl
@[simp] theorem State.onHrt_stv (s : State) (f : Hearth → Hearth) : (s.onHrt f).stv = s.stv := rfl
@[simp] theorem State.onHrt_knd (s : State) (f : Hearth → Hearth) : (s.onHrt f).knd = s.knd := rfl
@[simp] theorem State.onHrt_srch (s : State) (f : Hearth → Hearth) : (s.onHrt f).srch = s.srch := rfl
@[simp] theorem State.onHrt_rdg (s : State) (f : Hearth → Hearth) : (s.onHrt f).rdg = s.rdg := rfl
@[simp] theorem State.onHrt_blw (s : State) (f : Hearth → Hearth) : (s.onHrt f).blw = s.blw := rfl
@[simp] theorem State.onHrt_fbx (s : State) (f : Hearth → Hearth) : (s.onHrt f).fbx = s.fbx := rfl
@[simp] theorem State.onHrt_crn (s : State) (f : Hearth → Hearth) : (s.onHrt f).crn = s.crn := rfl
@[simp] theorem State.onHrt_fwu (s : State) (f : Hearth → Hearth) : (s.onHrt f).fwu = s.fwu := rfl
@[simp] theorem State.onHrt_dgn (s : State) (f : Hearth → Hearth) : (s.onHrt f).dgn = s.dgn := rfl
@[simp] theorem State.onHrt_out (s : State) (f : Hearth → Hearth) : (s.onHrt f).out = s.out := rfl
@[simp] theorem State.onHrt_freeCount (s : State) (f : Hearth → Hearth) : (s.onHrt f).freeCount = s.freeCount := rfl

/-! ### onImg -/

@[simp] theorem State.onImg_pending (s : State) (f : Images → Images) : (s.onImg f).pending = s.pending := rfl
@[simp] theorem State.onImg_localNs (s : State) (f : Images → Images) : (s.onImg f).localNs = s.localNs := rfl
@[simp] theorem State.onImg_pins (s : State) (f : Images → Images) : (s.onImg f).pins = s.pins := rfl
@[simp] theorem State.onImg_pwr (s : State) (f : Images → Images) : (s.onImg f).pwr = s.pwr := rfl
@[simp] theorem State.onImg_host (s : State) (f : Images → Images) : (s.onImg f).host = s.host := rfl
@[simp] theorem State.onImg_desc (s : State) (f : Images → Images) : (s.onImg f).desc = s.desc := rfl
@[simp] theorem State.onImg_ses (s : State) (f : Images → Images) : (s.onImg f).ses = s.ses := rfl
@[simp] theorem State.onImg_tie (s : State) (f : Images → Images) : (s.onImg f).tie = s.tie := rfl
@[simp] theorem State.onImg_hrt (s : State) (f : Images → Images) : (s.onImg f).hrt = s.hrt := rfl
@[simp] theorem State.onImg_img (s : State) (f : Images → Images) : (s.onImg f).img = f s.img := rfl
@[simp] theorem State.onImg_stv (s : State) (f : Images → Images) : (s.onImg f).stv = s.stv := rfl
@[simp] theorem State.onImg_knd (s : State) (f : Images → Images) : (s.onImg f).knd = s.knd := rfl
@[simp] theorem State.onImg_srch (s : State) (f : Images → Images) : (s.onImg f).srch = s.srch := rfl
@[simp] theorem State.onImg_rdg (s : State) (f : Images → Images) : (s.onImg f).rdg = s.rdg := rfl
@[simp] theorem State.onImg_blw (s : State) (f : Images → Images) : (s.onImg f).blw = s.blw := rfl
@[simp] theorem State.onImg_fbx (s : State) (f : Images → Images) : (s.onImg f).fbx = s.fbx := rfl
@[simp] theorem State.onImg_crn (s : State) (f : Images → Images) : (s.onImg f).crn = s.crn := rfl
@[simp] theorem State.onImg_fwu (s : State) (f : Images → Images) : (s.onImg f).fwu = s.fwu := rfl
@[simp] theorem State.onImg_dgn (s : State) (f : Images → Images) : (s.onImg f).dgn = s.dgn := rfl
@[simp] theorem State.onImg_out (s : State) (f : Images → Images) : (s.onImg f).out = s.out := rfl
@[simp] theorem State.onImg_freeCount (s : State) (f : Images → Images) : (s.onImg f).freeCount = s.freeCount := rfl

/-! ### onStv -/

@[simp] theorem State.onStv_pending (s : State) (f : Stoves → Stoves) : (s.onStv f).pending = s.pending := rfl
@[simp] theorem State.onStv_localNs (s : State) (f : Stoves → Stoves) : (s.onStv f).localNs = s.localNs := rfl
@[simp] theorem State.onStv_pins (s : State) (f : Stoves → Stoves) : (s.onStv f).pins = s.pins := rfl
@[simp] theorem State.onStv_pwr (s : State) (f : Stoves → Stoves) : (s.onStv f).pwr = s.pwr := rfl
@[simp] theorem State.onStv_host (s : State) (f : Stoves → Stoves) : (s.onStv f).host = s.host := rfl
@[simp] theorem State.onStv_desc (s : State) (f : Stoves → Stoves) : (s.onStv f).desc = s.desc := rfl
@[simp] theorem State.onStv_ses (s : State) (f : Stoves → Stoves) : (s.onStv f).ses = s.ses := rfl
@[simp] theorem State.onStv_tie (s : State) (f : Stoves → Stoves) : (s.onStv f).tie = s.tie := rfl
@[simp] theorem State.onStv_hrt (s : State) (f : Stoves → Stoves) : (s.onStv f).hrt = s.hrt := rfl
@[simp] theorem State.onStv_img (s : State) (f : Stoves → Stoves) : (s.onStv f).img = s.img := rfl
@[simp] theorem State.onStv_stv (s : State) (f : Stoves → Stoves) : (s.onStv f).stv = f s.stv := rfl
@[simp] theorem State.onStv_knd (s : State) (f : Stoves → Stoves) : (s.onStv f).knd = s.knd := rfl
@[simp] theorem State.onStv_srch (s : State) (f : Stoves → Stoves) : (s.onStv f).srch = s.srch := rfl
@[simp] theorem State.onStv_rdg (s : State) (f : Stoves → Stoves) : (s.onStv f).rdg = s.rdg := rfl
@[simp] theorem State.onStv_blw (s : State) (f : Stoves → Stoves) : (s.onStv f).blw = s.blw := rfl
@[simp] theorem State.onStv_fbx (s : State) (f : Stoves → Stoves) : (s.onStv f).fbx = s.fbx := rfl
@[simp] theorem State.onStv_crn (s : State) (f : Stoves → Stoves) : (s.onStv f).crn = s.crn := rfl
@[simp] theorem State.onStv_fwu (s : State) (f : Stoves → Stoves) : (s.onStv f).fwu = s.fwu := rfl
@[simp] theorem State.onStv_dgn (s : State) (f : Stoves → Stoves) : (s.onStv f).dgn = s.dgn := rfl
@[simp] theorem State.onStv_out (s : State) (f : Stoves → Stoves) : (s.onStv f).out = s.out := rfl
@[simp] theorem State.onStv_freeCount (s : State) (f : Stoves → Stoves) : (s.onStv f).freeCount = s.freeCount := rfl

/-! ### onKnd -/

@[simp] theorem State.onKnd_pending (s : State) (f : Kindling → Kindling) : (s.onKnd f).pending = s.pending := rfl
@[simp] theorem State.onKnd_localNs (s : State) (f : Kindling → Kindling) : (s.onKnd f).localNs = s.localNs := rfl
@[simp] theorem State.onKnd_pins (s : State) (f : Kindling → Kindling) : (s.onKnd f).pins = s.pins := rfl
@[simp] theorem State.onKnd_pwr (s : State) (f : Kindling → Kindling) : (s.onKnd f).pwr = s.pwr := rfl
@[simp] theorem State.onKnd_host (s : State) (f : Kindling → Kindling) : (s.onKnd f).host = s.host := rfl
@[simp] theorem State.onKnd_desc (s : State) (f : Kindling → Kindling) : (s.onKnd f).desc = s.desc := rfl
@[simp] theorem State.onKnd_ses (s : State) (f : Kindling → Kindling) : (s.onKnd f).ses = s.ses := rfl
@[simp] theorem State.onKnd_tie (s : State) (f : Kindling → Kindling) : (s.onKnd f).tie = s.tie := rfl
@[simp] theorem State.onKnd_hrt (s : State) (f : Kindling → Kindling) : (s.onKnd f).hrt = s.hrt := rfl
@[simp] theorem State.onKnd_img (s : State) (f : Kindling → Kindling) : (s.onKnd f).img = s.img := rfl
@[simp] theorem State.onKnd_stv (s : State) (f : Kindling → Kindling) : (s.onKnd f).stv = s.stv := rfl
@[simp] theorem State.onKnd_knd (s : State) (f : Kindling → Kindling) : (s.onKnd f).knd = f s.knd := rfl
@[simp] theorem State.onKnd_srch (s : State) (f : Kindling → Kindling) : (s.onKnd f).srch = s.srch := rfl
@[simp] theorem State.onKnd_rdg (s : State) (f : Kindling → Kindling) : (s.onKnd f).rdg = s.rdg := rfl
@[simp] theorem State.onKnd_blw (s : State) (f : Kindling → Kindling) : (s.onKnd f).blw = s.blw := rfl
@[simp] theorem State.onKnd_fbx (s : State) (f : Kindling → Kindling) : (s.onKnd f).fbx = s.fbx := rfl
@[simp] theorem State.onKnd_crn (s : State) (f : Kindling → Kindling) : (s.onKnd f).crn = s.crn := rfl
@[simp] theorem State.onKnd_fwu (s : State) (f : Kindling → Kindling) : (s.onKnd f).fwu = s.fwu := rfl
@[simp] theorem State.onKnd_dgn (s : State) (f : Kindling → Kindling) : (s.onKnd f).dgn = s.dgn := rfl
@[simp] theorem State.onKnd_out (s : State) (f : Kindling → Kindling) : (s.onKnd f).out = s.out := rfl
@[simp] theorem State.onKnd_freeCount (s : State) (f : Kindling → Kindling) : (s.onKnd f).freeCount = s.freeCount := rfl

/-! ### onSrch -/

@[simp] theorem State.onSrch_pending (s : State) (f : Search → Search) : (s.onSrch f).pending = s.pending := rfl
@[simp] theorem State.onSrch_localNs (s : State) (f : Search → Search) : (s.onSrch f).localNs = s.localNs := rfl
@[simp] theorem State.onSrch_pins (s : State) (f : Search → Search) : (s.onSrch f).pins = s.pins := rfl
@[simp] theorem State.onSrch_pwr (s : State) (f : Search → Search) : (s.onSrch f).pwr = s.pwr := rfl
@[simp] theorem State.onSrch_host (s : State) (f : Search → Search) : (s.onSrch f).host = s.host := rfl
@[simp] theorem State.onSrch_desc (s : State) (f : Search → Search) : (s.onSrch f).desc = s.desc := rfl
@[simp] theorem State.onSrch_ses (s : State) (f : Search → Search) : (s.onSrch f).ses = s.ses := rfl
@[simp] theorem State.onSrch_tie (s : State) (f : Search → Search) : (s.onSrch f).tie = s.tie := rfl
@[simp] theorem State.onSrch_hrt (s : State) (f : Search → Search) : (s.onSrch f).hrt = s.hrt := rfl
@[simp] theorem State.onSrch_img (s : State) (f : Search → Search) : (s.onSrch f).img = s.img := rfl
@[simp] theorem State.onSrch_stv (s : State) (f : Search → Search) : (s.onSrch f).stv = s.stv := rfl
@[simp] theorem State.onSrch_knd (s : State) (f : Search → Search) : (s.onSrch f).knd = s.knd := rfl
@[simp] theorem State.onSrch_srch (s : State) (f : Search → Search) : (s.onSrch f).srch = f s.srch := rfl
@[simp] theorem State.onSrch_rdg (s : State) (f : Search → Search) : (s.onSrch f).rdg = s.rdg := rfl
@[simp] theorem State.onSrch_blw (s : State) (f : Search → Search) : (s.onSrch f).blw = s.blw := rfl
@[simp] theorem State.onSrch_fbx (s : State) (f : Search → Search) : (s.onSrch f).fbx = s.fbx := rfl
@[simp] theorem State.onSrch_crn (s : State) (f : Search → Search) : (s.onSrch f).crn = s.crn := rfl
@[simp] theorem State.onSrch_fwu (s : State) (f : Search → Search) : (s.onSrch f).fwu = s.fwu := rfl
@[simp] theorem State.onSrch_dgn (s : State) (f : Search → Search) : (s.onSrch f).dgn = s.dgn := rfl
@[simp] theorem State.onSrch_out (s : State) (f : Search → Search) : (s.onSrch f).out = s.out := rfl
@[simp] theorem State.onSrch_freeCount (s : State) (f : Search → Search) : (s.onSrch f).freeCount = s.freeCount := rfl

/-! ### onRdg -/

@[simp] theorem State.onRdg_pending (s : State) (f : Ridge → Ridge) : (s.onRdg f).pending = s.pending := rfl
@[simp] theorem State.onRdg_localNs (s : State) (f : Ridge → Ridge) : (s.onRdg f).localNs = s.localNs := rfl
@[simp] theorem State.onRdg_pins (s : State) (f : Ridge → Ridge) : (s.onRdg f).pins = s.pins := rfl
@[simp] theorem State.onRdg_pwr (s : State) (f : Ridge → Ridge) : (s.onRdg f).pwr = s.pwr := rfl
@[simp] theorem State.onRdg_host (s : State) (f : Ridge → Ridge) : (s.onRdg f).host = s.host := rfl
@[simp] theorem State.onRdg_desc (s : State) (f : Ridge → Ridge) : (s.onRdg f).desc = s.desc := rfl
@[simp] theorem State.onRdg_ses (s : State) (f : Ridge → Ridge) : (s.onRdg f).ses = s.ses := rfl
@[simp] theorem State.onRdg_tie (s : State) (f : Ridge → Ridge) : (s.onRdg f).tie = s.tie := rfl
@[simp] theorem State.onRdg_hrt (s : State) (f : Ridge → Ridge) : (s.onRdg f).hrt = s.hrt := rfl
@[simp] theorem State.onRdg_img (s : State) (f : Ridge → Ridge) : (s.onRdg f).img = s.img := rfl
@[simp] theorem State.onRdg_stv (s : State) (f : Ridge → Ridge) : (s.onRdg f).stv = s.stv := rfl
@[simp] theorem State.onRdg_knd (s : State) (f : Ridge → Ridge) : (s.onRdg f).knd = s.knd := rfl
@[simp] theorem State.onRdg_srch (s : State) (f : Ridge → Ridge) : (s.onRdg f).srch = s.srch := rfl
@[simp] theorem State.onRdg_rdg (s : State) (f : Ridge → Ridge) : (s.onRdg f).rdg = f s.rdg := rfl
@[simp] theorem State.onRdg_blw (s : State) (f : Ridge → Ridge) : (s.onRdg f).blw = s.blw := rfl
@[simp] theorem State.onRdg_fbx (s : State) (f : Ridge → Ridge) : (s.onRdg f).fbx = s.fbx := rfl
@[simp] theorem State.onRdg_crn (s : State) (f : Ridge → Ridge) : (s.onRdg f).crn = s.crn := rfl
@[simp] theorem State.onRdg_fwu (s : State) (f : Ridge → Ridge) : (s.onRdg f).fwu = s.fwu := rfl
@[simp] theorem State.onRdg_dgn (s : State) (f : Ridge → Ridge) : (s.onRdg f).dgn = s.dgn := rfl
@[simp] theorem State.onRdg_out (s : State) (f : Ridge → Ridge) : (s.onRdg f).out = s.out := rfl
@[simp] theorem State.onRdg_freeCount (s : State) (f : Ridge → Ridge) : (s.onRdg f).freeCount = s.freeCount := rfl

/-! ### onBlw -/

@[simp] theorem State.onBlw_pending (s : State) (f : Bellows → Bellows) : (s.onBlw f).pending = s.pending := rfl
@[simp] theorem State.onBlw_localNs (s : State) (f : Bellows → Bellows) : (s.onBlw f).localNs = s.localNs := rfl
@[simp] theorem State.onBlw_pins (s : State) (f : Bellows → Bellows) : (s.onBlw f).pins = s.pins := rfl
@[simp] theorem State.onBlw_pwr (s : State) (f : Bellows → Bellows) : (s.onBlw f).pwr = s.pwr := rfl
@[simp] theorem State.onBlw_host (s : State) (f : Bellows → Bellows) : (s.onBlw f).host = s.host := rfl
@[simp] theorem State.onBlw_desc (s : State) (f : Bellows → Bellows) : (s.onBlw f).desc = s.desc := rfl
@[simp] theorem State.onBlw_ses (s : State) (f : Bellows → Bellows) : (s.onBlw f).ses = s.ses := rfl
@[simp] theorem State.onBlw_tie (s : State) (f : Bellows → Bellows) : (s.onBlw f).tie = s.tie := rfl
@[simp] theorem State.onBlw_hrt (s : State) (f : Bellows → Bellows) : (s.onBlw f).hrt = s.hrt := rfl
@[simp] theorem State.onBlw_img (s : State) (f : Bellows → Bellows) : (s.onBlw f).img = s.img := rfl
@[simp] theorem State.onBlw_stv (s : State) (f : Bellows → Bellows) : (s.onBlw f).stv = s.stv := rfl
@[simp] theorem State.onBlw_knd (s : State) (f : Bellows → Bellows) : (s.onBlw f).knd = s.knd := rfl
@[simp] theorem State.onBlw_srch (s : State) (f : Bellows → Bellows) : (s.onBlw f).srch = s.srch := rfl
@[simp] theorem State.onBlw_rdg (s : State) (f : Bellows → Bellows) : (s.onBlw f).rdg = s.rdg := rfl
@[simp] theorem State.onBlw_blw (s : State) (f : Bellows → Bellows) : (s.onBlw f).blw = f s.blw := rfl
@[simp] theorem State.onBlw_fbx (s : State) (f : Bellows → Bellows) : (s.onBlw f).fbx = s.fbx := rfl
@[simp] theorem State.onBlw_crn (s : State) (f : Bellows → Bellows) : (s.onBlw f).crn = s.crn := rfl
@[simp] theorem State.onBlw_fwu (s : State) (f : Bellows → Bellows) : (s.onBlw f).fwu = s.fwu := rfl
@[simp] theorem State.onBlw_dgn (s : State) (f : Bellows → Bellows) : (s.onBlw f).dgn = s.dgn := rfl
@[simp] theorem State.onBlw_out (s : State) (f : Bellows → Bellows) : (s.onBlw f).out = s.out := rfl
@[simp] theorem State.onBlw_freeCount (s : State) (f : Bellows → Bellows) : (s.onBlw f).freeCount = s.freeCount := rfl

/-! ### onFbx -/

@[simp] theorem State.onFbx_pending (s : State) (f : Firebox → Firebox) : (s.onFbx f).pending = s.pending := rfl
@[simp] theorem State.onFbx_localNs (s : State) (f : Firebox → Firebox) : (s.onFbx f).localNs = s.localNs := rfl
@[simp] theorem State.onFbx_pins (s : State) (f : Firebox → Firebox) : (s.onFbx f).pins = s.pins := rfl
@[simp] theorem State.onFbx_pwr (s : State) (f : Firebox → Firebox) : (s.onFbx f).pwr = s.pwr := rfl
@[simp] theorem State.onFbx_host (s : State) (f : Firebox → Firebox) : (s.onFbx f).host = s.host := rfl
@[simp] theorem State.onFbx_desc (s : State) (f : Firebox → Firebox) : (s.onFbx f).desc = s.desc := rfl
@[simp] theorem State.onFbx_ses (s : State) (f : Firebox → Firebox) : (s.onFbx f).ses = s.ses := rfl
@[simp] theorem State.onFbx_tie (s : State) (f : Firebox → Firebox) : (s.onFbx f).tie = s.tie := rfl
@[simp] theorem State.onFbx_hrt (s : State) (f : Firebox → Firebox) : (s.onFbx f).hrt = s.hrt := rfl
@[simp] theorem State.onFbx_img (s : State) (f : Firebox → Firebox) : (s.onFbx f).img = s.img := rfl
@[simp] theorem State.onFbx_stv (s : State) (f : Firebox → Firebox) : (s.onFbx f).stv = s.stv := rfl
@[simp] theorem State.onFbx_knd (s : State) (f : Firebox → Firebox) : (s.onFbx f).knd = s.knd := rfl
@[simp] theorem State.onFbx_srch (s : State) (f : Firebox → Firebox) : (s.onFbx f).srch = s.srch := rfl
@[simp] theorem State.onFbx_rdg (s : State) (f : Firebox → Firebox) : (s.onFbx f).rdg = s.rdg := rfl
@[simp] theorem State.onFbx_blw (s : State) (f : Firebox → Firebox) : (s.onFbx f).blw = s.blw := rfl
@[simp] theorem State.onFbx_fbx (s : State) (f : Firebox → Firebox) : (s.onFbx f).fbx = f s.fbx := rfl
@[simp] theorem State.onFbx_crn (s : State) (f : Firebox → Firebox) : (s.onFbx f).crn = s.crn := rfl
@[simp] theorem State.onFbx_fwu (s : State) (f : Firebox → Firebox) : (s.onFbx f).fwu = s.fwu := rfl
@[simp] theorem State.onFbx_dgn (s : State) (f : Firebox → Firebox) : (s.onFbx f).dgn = s.dgn := rfl
@[simp] theorem State.onFbx_out (s : State) (f : Firebox → Firebox) : (s.onFbx f).out = s.out := rfl
@[simp] theorem State.onFbx_freeCount (s : State) (f : Firebox → Firebox) : (s.onFbx f).freeCount = s.freeCount := rfl

/-! ### onCrn -/

@[simp] theorem State.onCrn_pending (s : State) (f : Cairns → Cairns) : (s.onCrn f).pending = s.pending := rfl
@[simp] theorem State.onCrn_localNs (s : State) (f : Cairns → Cairns) : (s.onCrn f).localNs = s.localNs := rfl
@[simp] theorem State.onCrn_pins (s : State) (f : Cairns → Cairns) : (s.onCrn f).pins = s.pins := rfl
@[simp] theorem State.onCrn_pwr (s : State) (f : Cairns → Cairns) : (s.onCrn f).pwr = s.pwr := rfl
@[simp] theorem State.onCrn_host (s : State) (f : Cairns → Cairns) : (s.onCrn f).host = s.host := rfl
@[simp] theorem State.onCrn_desc (s : State) (f : Cairns → Cairns) : (s.onCrn f).desc = s.desc := rfl
@[simp] theorem State.onCrn_ses (s : State) (f : Cairns → Cairns) : (s.onCrn f).ses = s.ses := rfl
@[simp] theorem State.onCrn_tie (s : State) (f : Cairns → Cairns) : (s.onCrn f).tie = s.tie := rfl
@[simp] theorem State.onCrn_hrt (s : State) (f : Cairns → Cairns) : (s.onCrn f).hrt = s.hrt := rfl
@[simp] theorem State.onCrn_img (s : State) (f : Cairns → Cairns) : (s.onCrn f).img = s.img := rfl
@[simp] theorem State.onCrn_stv (s : State) (f : Cairns → Cairns) : (s.onCrn f).stv = s.stv := rfl
@[simp] theorem State.onCrn_knd (s : State) (f : Cairns → Cairns) : (s.onCrn f).knd = s.knd := rfl
@[simp] theorem State.onCrn_srch (s : State) (f : Cairns → Cairns) : (s.onCrn f).srch = s.srch := rfl
@[simp] theorem State.onCrn_rdg (s : State) (f : Cairns → Cairns) : (s.onCrn f).rdg = s.rdg := rfl
@[simp] theorem State.onCrn_blw (s : State) (f : Cairns → Cairns) : (s.onCrn f).blw = s.blw := rfl
@[simp] theorem State.onCrn_fbx (s : State) (f : Cairns → Cairns) : (s.onCrn f).fbx = s.fbx := rfl
@[simp] theorem State.onCrn_crn (s : State) (f : Cairns → Cairns) : (s.onCrn f).crn = f s.crn := rfl
@[simp] theorem State.onCrn_fwu (s : State) (f : Cairns → Cairns) : (s.onCrn f).fwu = s.fwu := rfl
@[simp] theorem State.onCrn_dgn (s : State) (f : Cairns → Cairns) : (s.onCrn f).dgn = s.dgn := rfl
@[simp] theorem State.onCrn_out (s : State) (f : Cairns → Cairns) : (s.onCrn f).out = s.out := rfl
@[simp] theorem State.onCrn_freeCount (s : State) (f : Cairns → Cairns) : (s.onCrn f).freeCount = s.freeCount := rfl

/-! ### onFwu -/

@[simp] theorem State.onFwu_pending (s : State) (f : Firmware → Firmware) : (s.onFwu f).pending = s.pending := rfl
@[simp] theorem State.onFwu_localNs (s : State) (f : Firmware → Firmware) : (s.onFwu f).localNs = s.localNs := rfl
@[simp] theorem State.onFwu_pins (s : State) (f : Firmware → Firmware) : (s.onFwu f).pins = s.pins := rfl
@[simp] theorem State.onFwu_pwr (s : State) (f : Firmware → Firmware) : (s.onFwu f).pwr = s.pwr := rfl
@[simp] theorem State.onFwu_host (s : State) (f : Firmware → Firmware) : (s.onFwu f).host = s.host := rfl
@[simp] theorem State.onFwu_desc (s : State) (f : Firmware → Firmware) : (s.onFwu f).desc = s.desc := rfl
@[simp] theorem State.onFwu_ses (s : State) (f : Firmware → Firmware) : (s.onFwu f).ses = s.ses := rfl
@[simp] theorem State.onFwu_tie (s : State) (f : Firmware → Firmware) : (s.onFwu f).tie = s.tie := rfl
@[simp] theorem State.onFwu_hrt (s : State) (f : Firmware → Firmware) : (s.onFwu f).hrt = s.hrt := rfl
@[simp] theorem State.onFwu_img (s : State) (f : Firmware → Firmware) : (s.onFwu f).img = s.img := rfl
@[simp] theorem State.onFwu_stv (s : State) (f : Firmware → Firmware) : (s.onFwu f).stv = s.stv := rfl
@[simp] theorem State.onFwu_knd (s : State) (f : Firmware → Firmware) : (s.onFwu f).knd = s.knd := rfl
@[simp] theorem State.onFwu_srch (s : State) (f : Firmware → Firmware) : (s.onFwu f).srch = s.srch := rfl
@[simp] theorem State.onFwu_rdg (s : State) (f : Firmware → Firmware) : (s.onFwu f).rdg = s.rdg := rfl
@[simp] theorem State.onFwu_blw (s : State) (f : Firmware → Firmware) : (s.onFwu f).blw = s.blw := rfl
@[simp] theorem State.onFwu_fbx (s : State) (f : Firmware → Firmware) : (s.onFwu f).fbx = s.fbx := rfl
@[simp] theorem State.onFwu_crn (s : State) (f : Firmware → Firmware) : (s.onFwu f).crn = s.crn := rfl
@[simp] theorem State.onFwu_fwu (s : State) (f : Firmware → Firmware) : (s.onFwu f).fwu = f s.fwu := rfl
@[simp] theorem State.onFwu_dgn (s : State) (f : Firmware → Firmware) : (s.onFwu f).dgn = s.dgn := rfl
@[simp] theorem State.onFwu_out (s : State) (f : Firmware → Firmware) : (s.onFwu f).out = s.out := rfl
@[simp] theorem State.onFwu_freeCount (s : State) (f : Firmware → Firmware) : (s.onFwu f).freeCount = s.freeCount := rfl

/-! ### onDgn -/

@[simp] theorem State.onDgn_pending (s : State) (f : Diag → Diag) : (s.onDgn f).pending = s.pending := rfl
@[simp] theorem State.onDgn_localNs (s : State) (f : Diag → Diag) : (s.onDgn f).localNs = s.localNs := rfl
@[simp] theorem State.onDgn_pins (s : State) (f : Diag → Diag) : (s.onDgn f).pins = s.pins := rfl
@[simp] theorem State.onDgn_pwr (s : State) (f : Diag → Diag) : (s.onDgn f).pwr = s.pwr := rfl
@[simp] theorem State.onDgn_host (s : State) (f : Diag → Diag) : (s.onDgn f).host = s.host := rfl
@[simp] theorem State.onDgn_desc (s : State) (f : Diag → Diag) : (s.onDgn f).desc = s.desc := rfl
@[simp] theorem State.onDgn_ses (s : State) (f : Diag → Diag) : (s.onDgn f).ses = s.ses := rfl
@[simp] theorem State.onDgn_tie (s : State) (f : Diag → Diag) : (s.onDgn f).tie = s.tie := rfl
@[simp] theorem State.onDgn_hrt (s : State) (f : Diag → Diag) : (s.onDgn f).hrt = s.hrt := rfl
@[simp] theorem State.onDgn_img (s : State) (f : Diag → Diag) : (s.onDgn f).img = s.img := rfl
@[simp] theorem State.onDgn_stv (s : State) (f : Diag → Diag) : (s.onDgn f).stv = s.stv := rfl
@[simp] theorem State.onDgn_knd (s : State) (f : Diag → Diag) : (s.onDgn f).knd = s.knd := rfl
@[simp] theorem State.onDgn_srch (s : State) (f : Diag → Diag) : (s.onDgn f).srch = s.srch := rfl
@[simp] theorem State.onDgn_rdg (s : State) (f : Diag → Diag) : (s.onDgn f).rdg = s.rdg := rfl
@[simp] theorem State.onDgn_blw (s : State) (f : Diag → Diag) : (s.onDgn f).blw = s.blw := rfl
@[simp] theorem State.onDgn_fbx (s : State) (f : Diag → Diag) : (s.onDgn f).fbx = s.fbx := rfl
@[simp] theorem State.onDgn_crn (s : State) (f : Diag → Diag) : (s.onDgn f).crn = s.crn := rfl
@[simp] theorem State.onDgn_fwu (s : State) (f : Diag → Diag) : (s.onDgn f).fwu = s.fwu := rfl
@[simp] theorem State.onDgn_dgn (s : State) (f : Diag → Diag) : (s.onDgn f).dgn = f s.dgn := rfl
@[simp] theorem State.onDgn_out (s : State) (f : Diag → Diag) : (s.onDgn f).out = s.out := rfl
@[simp] theorem State.onDgn_freeCount (s : State) (f : Diag → Diag) : (s.onDgn f).freeCount = s.freeCount := rfl

/-! ### emit, bumpFree -/

@[simp] theorem State.emit_pending (s : State) (o : Output) : (s.emit o).pending = s.pending := rfl
@[simp] theorem State.emit_localNs (s : State) (o : Output) : (s.emit o).localNs = s.localNs := rfl
@[simp] theorem State.emit_pins (s : State) (o : Output) : (s.emit o).pins = s.pins := rfl
@[simp] theorem State.emit_pwr (s : State) (o : Output) : (s.emit o).pwr = s.pwr := rfl
@[simp] theorem State.emit_host (s : State) (o : Output) : (s.emit o).host = s.host := rfl
@[simp] theorem State.emit_desc (s : State) (o : Output) : (s.emit o).desc = s.desc := rfl
@[simp] theorem State.emit_ses (s : State) (o : Output) : (s.emit o).ses = s.ses := rfl
@[simp] theorem State.emit_tie (s : State) (o : Output) : (s.emit o).tie = s.tie := rfl
@[simp] theorem State.emit_hrt (s : State) (o : Output) : (s.emit o).hrt = s.hrt := rfl
@[simp] theorem State.emit_img (s : State) (o : Output) : (s.emit o).img = s.img := rfl
@[simp] theorem State.emit_stv (s : State) (o : Output) : (s.emit o).stv = s.stv := rfl
@[simp] theorem State.emit_knd (s : State) (o : Output) : (s.emit o).knd = s.knd := rfl
@[simp] theorem State.emit_srch (s : State) (o : Output) : (s.emit o).srch = s.srch := rfl
@[simp] theorem State.emit_rdg (s : State) (o : Output) : (s.emit o).rdg = s.rdg := rfl
@[simp] theorem State.emit_blw (s : State) (o : Output) : (s.emit o).blw = s.blw := rfl
@[simp] theorem State.emit_fbx (s : State) (o : Output) : (s.emit o).fbx = s.fbx := rfl
@[simp] theorem State.emit_crn (s : State) (o : Output) : (s.emit o).crn = s.crn := rfl
@[simp] theorem State.emit_fwu (s : State) (o : Output) : (s.emit o).fwu = s.fwu := rfl
@[simp] theorem State.emit_dgn (s : State) (o : Output) : (s.emit o).dgn = s.dgn := rfl
@[simp] theorem State.emit_out (s : State) (o : Output) : (s.emit o).out = s.out ++ [o] := rfl
@[simp] theorem State.emit_freeCount (s : State) (o : Output) : (s.emit o).freeCount = s.freeCount := rfl
@[simp] theorem State.bumpFree_pending (s : State) : s.bumpFree.pending = s.pending := rfl
@[simp] theorem State.bumpFree_localNs (s : State) : s.bumpFree.localNs = s.localNs := rfl
@[simp] theorem State.bumpFree_pins (s : State) : s.bumpFree.pins = s.pins := rfl
@[simp] theorem State.bumpFree_pwr (s : State) : s.bumpFree.pwr = s.pwr := rfl
@[simp] theorem State.bumpFree_host (s : State) : s.bumpFree.host = s.host := rfl
@[simp] theorem State.bumpFree_desc (s : State) : s.bumpFree.desc = s.desc := rfl
@[simp] theorem State.bumpFree_ses (s : State) : s.bumpFree.ses = s.ses := rfl
@[simp] theorem State.bumpFree_tie (s : State) : s.bumpFree.tie = s.tie := rfl
@[simp] theorem State.bumpFree_hrt (s : State) : s.bumpFree.hrt = s.hrt := rfl
@[simp] theorem State.bumpFree_img (s : State) : s.bumpFree.img = s.img := rfl
@[simp] theorem State.bumpFree_stv (s : State) : s.bumpFree.stv = s.stv := rfl
@[simp] theorem State.bumpFree_knd (s : State) : s.bumpFree.knd = s.knd := rfl
@[simp] theorem State.bumpFree_srch (s : State) : s.bumpFree.srch = s.srch := rfl
@[simp] theorem State.bumpFree_rdg (s : State) : s.bumpFree.rdg = s.rdg := rfl
@[simp] theorem State.bumpFree_blw (s : State) : s.bumpFree.blw = s.blw := rfl
@[simp] theorem State.bumpFree_fbx (s : State) : s.bumpFree.fbx = s.fbx := rfl
@[simp] theorem State.bumpFree_crn (s : State) : s.bumpFree.crn = s.crn := rfl
@[simp] theorem State.bumpFree_fwu (s : State) : s.bumpFree.fwu = s.fwu := rfl
@[simp] theorem State.bumpFree_dgn (s : State) : s.bumpFree.dgn = s.dgn := rfl
@[simp] theorem State.bumpFree_out (s : State) : s.bumpFree.out = s.out := rfl
@[simp] theorem State.bumpFree_freeCount (s : State) : s.bumpFree.freeCount = s.freeCount + 1 := rfl

/-! ### onQp -/

@[simp] theorem State.onQp_pending (s : State) (q : Nat) (f : QueuePair → QueuePair) : (s.onQp q f).pending = s.pending := rfl
@[simp] theorem State.onQp_localNs (s : State) (q : Nat) (f : QueuePair → QueuePair) : (s.onQp q f).localNs = s.localNs := rfl
@[simp] theorem State.onQp_pins (s : State) (q : Nat) (f : QueuePair → QueuePair) : (s.onQp q f).pins = s.pins := rfl
@[simp] theorem State.onQp_pwr (s : State) (q : Nat) (f : QueuePair → QueuePair) : (s.onQp q f).pwr = s.pwr := rfl
@[simp] theorem State.onQp_desc (s : State) (q : Nat) (f : QueuePair → QueuePair) : (s.onQp q f).desc = s.desc := rfl
@[simp] theorem State.onQp_ses (s : State) (q : Nat) (f : QueuePair → QueuePair) : (s.onQp q f).ses = s.ses := rfl
@[simp] theorem State.onQp_tie (s : State) (q : Nat) (f : QueuePair → QueuePair) : (s.onQp q f).tie = s.tie := rfl
@[simp] theorem State.onQp_hrt (s : State) (q : Nat) (f : QueuePair → QueuePair) : (s.onQp q f).hrt = s.hrt := rfl
@[simp] theorem State.onQp_img (s : State) (q : Nat) (f : QueuePair → QueuePair) : (s.onQp q f).img = s.img := rfl
@[simp] theorem State.onQp_stv (s : State) (q : Nat) (f : QueuePair → QueuePair) : (s.onQp q f).stv = s.stv := rfl
@[simp] theorem State.onQp_knd (s : State) (q : Nat) (f : QueuePair → QueuePair) : (s.onQp q f).knd = s.knd := rfl
@[simp] theorem State.onQp_srch (s : State) (q : Nat) (f : QueuePair → QueuePair) : (s.onQp q f).srch = s.srch := rfl
@[simp] theorem State.onQp_rdg (s : State) (q : Nat) (f : QueuePair → QueuePair) : (s.onQp q f).rdg = s.rdg := rfl
@[simp] theorem State.onQp_blw (s : State) (q : Nat) (f : QueuePair → QueuePair) : (s.onQp q f).blw = s.blw := rfl
@[simp] theorem State.onQp_fbx (s : State) (q : Nat) (f : QueuePair → QueuePair) : (s.onQp q f).fbx = s.fbx := rfl
@[simp] theorem State.onQp_crn (s : State) (q : Nat) (f : QueuePair → QueuePair) : (s.onQp q f).crn = s.crn := rfl
@[simp] theorem State.onQp_fwu (s : State) (q : Nat) (f : QueuePair → QueuePair) : (s.onQp q f).fwu = s.fwu := rfl
@[simp] theorem State.onQp_dgn (s : State) (q : Nat) (f : QueuePair → QueuePair) : (s.onQp q f).dgn = s.dgn := rfl
@[simp] theorem State.onQp_out (s : State) (q : Nat) (f : QueuePair → QueuePair) : (s.onQp q f).out = s.out := rfl
@[simp] theorem State.onQp_freeCount (s : State) (q : Nat) (f : QueuePair → QueuePair) : (s.onQp q f).freeCount = s.freeCount := rfl

/-! ### putSession -/

@[simp] theorem State.putSession_pending (s : State) (x : Session) : (s.putSession x).pending = s.pending := rfl
@[simp] theorem State.putSession_localNs (s : State) (x : Session) : (s.putSession x).localNs = s.localNs := rfl
@[simp] theorem State.putSession_pins (s : State) (x : Session) : (s.putSession x).pins = s.pins := rfl
@[simp] theorem State.putSession_pwr (s : State) (x : Session) : (s.putSession x).pwr = s.pwr := rfl
@[simp] theorem State.putSession_host (s : State) (x : Session) : (s.putSession x).host = s.host := rfl
@[simp] theorem State.putSession_desc (s : State) (x : Session) : (s.putSession x).desc = s.desc := rfl
@[simp] theorem State.putSession_tie (s : State) (x : Session) : (s.putSession x).tie = s.tie := rfl
@[simp] theorem State.putSession_hrt (s : State) (x : Session) : (s.putSession x).hrt = s.hrt := rfl
@[simp] theorem State.putSession_img (s : State) (x : Session) : (s.putSession x).img = s.img := rfl
@[simp] theorem State.putSession_stv (s : State) (x : Session) : (s.putSession x).stv = s.stv := rfl
@[simp] theorem State.putSession_knd (s : State) (x : Session) : (s.putSession x).knd = s.knd := rfl
@[simp] theorem State.putSession_srch (s : State) (x : Session) : (s.putSession x).srch = s.srch := rfl
@[simp] theorem State.putSession_rdg (s : State) (x : Session) : (s.putSession x).rdg = s.rdg := rfl
@[simp] theorem State.putSession_blw (s : State) (x : Session) : (s.putSession x).blw = s.blw := rfl
@[simp] theorem State.putSession_fbx (s : State) (x : Session) : (s.putSession x).fbx = s.fbx := rfl
@[simp] theorem State.putSession_crn (s : State) (x : Session) : (s.putSession x).crn = s.crn := rfl
@[simp] theorem State.putSession_fwu (s : State) (x : Session) : (s.putSession x).fwu = s.fwu := rfl
@[simp] theorem State.putSession_dgn (s : State) (x : Session) : (s.putSession x).dgn = s.dgn := rfl
@[simp] theorem State.putSession_out (s : State) (x : Session) : (s.putSession x).out = s.out := rfl
@[simp] theorem State.putSession_freeCount (s : State) (x : Session) : (s.putSession x).freeCount = s.freeCount := rfl

/-! ### onPeer -/

@[simp] theorem State.onPeer_pending (s : State) (a : Nat) (f : Peer → Peer) : (s.onPeer a f).pending = s.pending := rfl
@[simp] theorem State.onPeer_localNs (s : State) (a : Nat) (f : Peer → Peer) : (s.onPeer a f).localNs = s.localNs := rfl
@[simp] theorem State.onPeer_pins (s : State) (a : Nat) (f : Peer → Peer) : (s.onPeer a f).pins = s.pins := rfl
@[simp] theorem State.onPeer_pwr (s : State) (a : Nat) (f : Peer → Peer) : (s.onPeer a f).pwr = s.pwr := rfl
@[simp] theorem State.onPeer_host (s : State) (a : Nat) (f : Peer → Peer) : (s.onPeer a f).host = s.host := rfl
@[simp] theorem State.onPeer_desc (s : State) (a : Nat) (f : Peer → Peer) : (s.onPeer a f).desc = s.desc := rfl
@[simp] theorem State.onPeer_ses (s : State) (a : Nat) (f : Peer → Peer) : (s.onPeer a f).ses = s.ses := rfl
@[simp] theorem State.onPeer_tie (s : State) (a : Nat) (f : Peer → Peer) : (s.onPeer a f).tie = s.tie := rfl
@[simp] theorem State.onPeer_hrt (s : State) (a : Nat) (f : Peer → Peer) : (s.onPeer a f).hrt = s.hrt := rfl
@[simp] theorem State.onPeer_img (s : State) (a : Nat) (f : Peer → Peer) : (s.onPeer a f).img = s.img := rfl
@[simp] theorem State.onPeer_stv (s : State) (a : Nat) (f : Peer → Peer) : (s.onPeer a f).stv = s.stv := rfl
@[simp] theorem State.onPeer_knd (s : State) (a : Nat) (f : Peer → Peer) : (s.onPeer a f).knd = s.knd := rfl
@[simp] theorem State.onPeer_srch (s : State) (a : Nat) (f : Peer → Peer) : (s.onPeer a f).srch = s.srch := rfl
@[simp] theorem State.onPeer_blw (s : State) (a : Nat) (f : Peer → Peer) : (s.onPeer a f).blw = s.blw := rfl
@[simp] theorem State.onPeer_fbx (s : State) (a : Nat) (f : Peer → Peer) : (s.onPeer a f).fbx = s.fbx := rfl
@[simp] theorem State.onPeer_crn (s : State) (a : Nat) (f : Peer → Peer) : (s.onPeer a f).crn = s.crn := rfl
@[simp] theorem State.onPeer_fwu (s : State) (a : Nat) (f : Peer → Peer) : (s.onPeer a f).fwu = s.fwu := rfl
@[simp] theorem State.onPeer_dgn (s : State) (a : Nat) (f : Peer → Peer) : (s.onPeer a f).dgn = s.dgn := rfl
@[simp] theorem State.onPeer_out (s : State) (a : Nat) (f : Peer → Peer) : (s.onPeer a f).out = s.out := rfl
@[simp] theorem State.onPeer_freeCount (s : State) (a : Nat) (f : Peer → Peer) : (s.onPeer a f).freeCount = s.freeCount := rfl

/-! ### onBellow -/

@[simp] theorem State.onBellow_pending (s : State) (n : Nat) (f : Bellow → Bellow) : (s.onBellow n f).pending = s.pending := rfl
@[simp] theorem State.onBellow_localNs (s : State) (n : Nat) (f : Bellow → Bellow) : (s.onBellow n f).localNs = s.localNs := rfl
@[simp] theorem State.onBellow_pins (s : State) (n : Nat) (f : Bellow → Bellow) : (s.onBellow n f).pins = s.pins := rfl
@[simp] theorem State.onBellow_pwr (s : State) (n : Nat) (f : Bellow → Bellow) : (s.onBellow n f).pwr = s.pwr := rfl
@[simp] theorem State.onBellow_host (s : State) (n : Nat) (f : Bellow → Bellow) : (s.onBellow n f).host = s.host := rfl
@[simp] theorem State.onBellow_desc (s : State) (n : Nat) (f : Bellow → Bellow) : (s.onBellow n f).desc = s.desc := rfl
@[simp] theorem State.onBellow_ses (s : State) (n : Nat) (f : Bellow → Bellow) : (s.onBellow n f).ses = s.ses := rfl
@[simp] theorem State.onBellow_tie (s : State) (n : Nat) (f : Bellow → Bellow) : (s.onBellow n f).tie = s.tie := rfl
@[simp] theorem State.onBellow_hrt (s : State) (n : Nat) (f : Bellow → Bellow) : (s.onBellow n f).hrt = s.hrt := rfl
@[simp] theorem State.onBellow_img (s : State) (n : Nat) (f : Bellow → Bellow) : (s.onBellow n f).img = s.img := rfl
@[simp] theorem State.onBellow_stv (s : State) (n : Nat) (f : Bellow → Bellow) : (s.onBellow n f).stv = s.stv := rfl
@[simp] theorem State.onBellow_knd (s : State) (n : Nat) (f : Bellow → Bellow) : (s.onBellow n f).knd = s.knd := rfl
@[simp] theorem State.onBellow_srch (s : State) (n : Nat) (f : Bellow → Bellow) : (s.onBellow n f).srch = s.srch := rfl
@[simp] theorem State.onBellow_rdg (s : State) (n : Nat) (f : Bellow → Bellow) : (s.onBellow n f).rdg = s.rdg := rfl
@[simp] theorem State.onBellow_fbx (s : State) (n : Nat) (f : Bellow → Bellow) : (s.onBellow n f).fbx = s.fbx := rfl
@[simp] theorem State.onBellow_crn (s : State) (n : Nat) (f : Bellow → Bellow) : (s.onBellow n f).crn = s.crn := rfl
@[simp] theorem State.onBellow_fwu (s : State) (n : Nat) (f : Bellow → Bellow) : (s.onBellow n f).fwu = s.fwu := rfl
@[simp] theorem State.onBellow_dgn (s : State) (n : Nat) (f : Bellow → Bellow) : (s.onBellow n f).dgn = s.dgn := rfl
@[simp] theorem State.onBellow_out (s : State) (n : Nat) (f : Bellow → Bellow) : (s.onBellow n f).out = s.out := rfl
@[simp] theorem State.onBellow_freeCount (s : State) (n : Nat) (f : Bellow → Bellow) : (s.onBellow n f).freeCount = s.freeCount := rfl

/-! ### onClass -/

@[simp] theorem State.onClass_pending (s : State) (n c : Nat) (f : BlwClass → BlwClass) : (s.onClass n c f).pending = s.pending := rfl
@[simp] theorem State.onClass_localNs (s : State) (n c : Nat) (f : BlwClass → BlwClass) : (s.onClass n c f).localNs = s.localNs := rfl
@[simp] theorem State.onClass_pins (s : State) (n c : Nat) (f : BlwClass → BlwClass) : (s.onClass n c f).pins = s.pins := rfl
@[simp] theorem State.onClass_pwr (s : State) (n c : Nat) (f : BlwClass → BlwClass) : (s.onClass n c f).pwr = s.pwr := rfl
@[simp] theorem State.onClass_host (s : State) (n c : Nat) (f : BlwClass → BlwClass) : (s.onClass n c f).host = s.host := rfl
@[simp] theorem State.onClass_desc (s : State) (n c : Nat) (f : BlwClass → BlwClass) : (s.onClass n c f).desc = s.desc := rfl
@[simp] theorem State.onClass_ses (s : State) (n c : Nat) (f : BlwClass → BlwClass) : (s.onClass n c f).ses = s.ses := rfl
@[simp] theorem State.onClass_tie (s : State) (n c : Nat) (f : BlwClass → BlwClass) : (s.onClass n c f).tie = s.tie := rfl
@[simp] theorem State.onClass_hrt (s : State) (n c : Nat) (f : BlwClass → BlwClass) : (s.onClass n c f).hrt = s.hrt := rfl
@[simp] theorem State.onClass_img (s : State) (n c : Nat) (f : BlwClass → BlwClass) : (s.onClass n c f).img = s.img := rfl
@[simp] theorem State.onClass_stv (s : State) (n c : Nat) (f : BlwClass → BlwClass) : (s.onClass n c f).stv = s.stv := rfl
@[simp] theorem State.onClass_knd (s : State) (n c : Nat) (f : BlwClass → BlwClass) : (s.onClass n c f).knd = s.knd := rfl
@[simp] theorem State.onClass_srch (s : State) (n c : Nat) (f : BlwClass → BlwClass) : (s.onClass n c f).srch = s.srch := rfl
@[simp] theorem State.onClass_rdg (s : State) (n c : Nat) (f : BlwClass → BlwClass) : (s.onClass n c f).rdg = s.rdg := rfl
@[simp] theorem State.onClass_fbx (s : State) (n c : Nat) (f : BlwClass → BlwClass) : (s.onClass n c f).fbx = s.fbx := rfl
@[simp] theorem State.onClass_crn (s : State) (n c : Nat) (f : BlwClass → BlwClass) : (s.onClass n c f).crn = s.crn := rfl
@[simp] theorem State.onClass_fwu (s : State) (n c : Nat) (f : BlwClass → BlwClass) : (s.onClass n c f).fwu = s.fwu := rfl
@[simp] theorem State.onClass_dgn (s : State) (n c : Nat) (f : BlwClass → BlwClass) : (s.onClass n c f).dgn = s.dgn := rfl
@[simp] theorem State.onClass_out (s : State) (n c : Nat) (f : BlwClass → BlwClass) : (s.onClass n c f).out = s.out := rfl
@[simp] theorem State.onClass_freeCount (s : State) (n c : Nat) (f : BlwClass → BlwClass) : (s.onClass n c f).freeCount = s.freeCount := rfl

/-! ### onDescriptor -/

@[simp] theorem State.onDescriptor_pending (s : State) (o : Origin) (f : InFlight → InFlight) : (s.onDescriptor o f).pending = s.pending := rfl
@[simp] theorem State.onDescriptor_localNs (s : State) (o : Origin) (f : InFlight → InFlight) : (s.onDescriptor o f).localNs = s.localNs := rfl
@[simp] theorem State.onDescriptor_pins (s : State) (o : Origin) (f : InFlight → InFlight) : (s.onDescriptor o f).pins = s.pins := rfl
@[simp] theorem State.onDescriptor_pwr (s : State) (o : Origin) (f : InFlight → InFlight) : (s.onDescriptor o f).pwr = s.pwr := rfl
@[simp] theorem State.onDescriptor_host (s : State) (o : Origin) (f : InFlight → InFlight) : (s.onDescriptor o f).host = s.host := rfl
@[simp] theorem State.onDescriptor_ses (s : State) (o : Origin) (f : InFlight → InFlight) : (s.onDescriptor o f).ses = s.ses := rfl
@[simp] theorem State.onDescriptor_tie (s : State) (o : Origin) (f : InFlight → InFlight) : (s.onDescriptor o f).tie = s.tie := rfl
@[simp] theorem State.onDescriptor_hrt (s : State) (o : Origin) (f : InFlight → InFlight) : (s.onDescriptor o f).hrt = s.hrt := rfl
@[simp] theorem State.onDescriptor_img (s : State) (o : Origin) (f : InFlight → InFlight) : (s.onDescriptor o f).img = s.img := rfl
@[simp] theorem State.onDescriptor_stv (s : State) (o : Origin) (f : InFlight → InFlight) : (s.onDescriptor o f).stv = s.stv := rfl
@[simp] theorem State.onDescriptor_knd (s : State) (o : Origin) (f : InFlight → InFlight) : (s.onDescriptor o f).knd = s.knd := rfl
@[simp] theorem State.onDescriptor_srch (s : State) (o : Origin) (f : InFlight → InFlight) : (s.onDescriptor o f).srch = s.srch := rfl
@[simp] theorem State.onDescriptor_rdg (s : State) (o : Origin) (f : InFlight → InFlight) : (s.onDescriptor o f).rdg = s.rdg := rfl
@[simp] theorem State.onDescriptor_blw (s : State) (o : Origin) (f : InFlight → InFlight) : (s.onDescriptor o f).blw = s.blw := rfl
@[simp] theorem State.onDescriptor_fbx (s : State) (o : Origin) (f : InFlight → InFlight) : (s.onDescriptor o f).fbx = s.fbx := rfl
@[simp] theorem State.onDescriptor_crn (s : State) (o : Origin) (f : InFlight → InFlight) : (s.onDescriptor o f).crn = s.crn := rfl
@[simp] theorem State.onDescriptor_fwu (s : State) (o : Origin) (f : InFlight → InFlight) : (s.onDescriptor o f).fwu = s.fwu := rfl
@[simp] theorem State.onDescriptor_dgn (s : State) (o : Origin) (f : InFlight → InFlight) : (s.onDescriptor o f).dgn = s.dgn := rfl
@[simp] theorem State.onDescriptor_out (s : State) (o : Origin) (f : InFlight → InFlight) : (s.onDescriptor o f).out = s.out := rfl
@[simp] theorem State.onDescriptor_freeCount (s : State) (o : Origin) (f : InFlight → InFlight) : (s.onDescriptor o f).freeCount = s.freeCount := rfl

/-! ### onSession -/

@[simp] theorem State.onSession_pending (s : State) (n : Nat) (f : Session → Session) : (s.onSession n f).pending = s.pending := by
  unfold State.onSession; split <;> rfl
@[simp] theorem State.onSession_localNs (s : State) (n : Nat) (f : Session → Session) : (s.onSession n f).localNs = s.localNs := by
  unfold State.onSession; split <;> rfl
@[simp] theorem State.onSession_pins (s : State) (n : Nat) (f : Session → Session) : (s.onSession n f).pins = s.pins := by
  unfold State.onSession; split <;> rfl
@[simp] theorem State.onSession_pwr (s : State) (n : Nat) (f : Session → Session) : (s.onSession n f).pwr = s.pwr := by
  unfold State.onSession; split <;> rfl
@[simp] theorem State.onSession_host (s : State) (n : Nat) (f : Session → Session) : (s.onSession n f).host = s.host := by
  unfold State.onSession; split <;> rfl
@[simp] theorem State.onSession_desc (s : State) (n : Nat) (f : Session → Session) : (s.onSession n f).desc = s.desc := by
  unfold State.onSession; split <;> rfl
@[simp] theorem State.onSession_tie (s : State) (n : Nat) (f : Session → Session) : (s.onSession n f).tie = s.tie := by
  unfold State.onSession; split <;> rfl
@[simp] theorem State.onSession_hrt (s : State) (n : Nat) (f : Session → Session) : (s.onSession n f).hrt = s.hrt := by
  unfold State.onSession; split <;> rfl
@[simp] theorem State.onSession_img (s : State) (n : Nat) (f : Session → Session) : (s.onSession n f).img = s.img := by
  unfold State.onSession; split <;> rfl
@[simp] theorem State.onSession_stv (s : State) (n : Nat) (f : Session → Session) : (s.onSession n f).stv = s.stv := by
  unfold State.onSession; split <;> rfl
@[simp] theorem State.onSession_knd (s : State) (n : Nat) (f : Session → Session) : (s.onSession n f).knd = s.knd := by
  unfold State.onSession; split <;> rfl
@[simp] theorem State.onSession_srch (s : State) (n : Nat) (f : Session → Session) : (s.onSession n f).srch = s.srch := by
  unfold State.onSession; split <;> rfl
@[simp] theorem State.onSession_rdg (s : State) (n : Nat) (f : Session → Session) : (s.onSession n f).rdg = s.rdg := by
  unfold State.onSession; split <;> rfl
@[simp] theorem State.onSession_blw (s : State) (n : Nat) (f : Session → Session) : (s.onSession n f).blw = s.blw := by
  unfold State.onSession; split <;> rfl
@[simp] theorem State.onSession_fbx (s : State) (n : Nat) (f : Session → Session) : (s.onSession n f).fbx = s.fbx := by
  unfold State.onSession; split <;> rfl
@[simp] theorem State.onSession_crn (s : State) (n : Nat) (f : Session → Session) : (s.onSession n f).crn = s.crn := by
  unfold State.onSession; split <;> rfl
@[simp] theorem State.onSession_fwu (s : State) (n : Nat) (f : Session → Session) : (s.onSession n f).fwu = s.fwu := by
  unfold State.onSession; split <;> rfl
@[simp] theorem State.onSession_dgn (s : State) (n : Nat) (f : Session → Session) : (s.onSession n f).dgn = s.dgn := by
  unfold State.onSession; split <;> rfl
@[simp] theorem State.onSession_out (s : State) (n : Nat) (f : Session → Session) : (s.onSession n f).out = s.out := by
  unfold State.onSession; split <;> rfl
@[simp] theorem State.onSession_freeCount (s : State) (n : Nat) (f : Session → Session) : (s.onSession n f).freeCount = s.freeCount := by
  unfold State.onSession; split <;> rfl

end Sys2Proof.Machine
end

