-- ==== Sys2Proof/Laws/Quiet.lean ====
section
/-!
SUPPORT. What completions, queue events, interrupts, flight and event records and ridge frames leave alone: all but the
host port, the descriptors in flight, the bellows, diagnostics, the outputs, the free-value count and the ridge's
requests and proposals. `State.quiet` blanks those; one lemma per shared operation says that it keeps the rest.
-/

namespace Sys2Proof.Machine

/-! ### What equal quiet parts share -/

theorem quiet_pending {s t : State} (h : s.quiet = t.quiet) : s.pending = t.pending := by
  have := congrArg State.pending h; exact this
theorem quiet_localNs {s t : State} (h : s.quiet = t.quiet) : s.localNs = t.localNs := by
  have := congrArg State.localNs h; exact this
theorem quiet_pins {s t : State} (h : s.quiet = t.quiet) : s.pins = t.pins := by
  have := congrArg State.pins h; exact this
theorem quiet_pwr {s t : State} (h : s.quiet = t.quiet) : s.pwr = t.pwr := by
  have := congrArg State.pwr h; exact this
theorem quiet_ses {s t : State} (h : s.quiet = t.quiet) : s.ses = t.ses := by
  have := congrArg State.ses h; exact this
theorem quiet_tie {s t : State} (h : s.quiet = t.quiet) : s.tie = t.tie := by
  have := congrArg State.tie h; exact this
theorem quiet_hrt {s t : State} (h : s.quiet = t.quiet) : s.hrt = t.hrt := by
  have := congrArg State.hrt h; exact this
theorem quiet_img {s t : State} (h : s.quiet = t.quiet) : s.img = t.img := by
  have := congrArg State.img h; exact this
theorem quiet_stv {s t : State} (h : s.quiet = t.quiet) : s.stv = t.stv := by
  have := congrArg State.stv h; exact this
theorem quiet_knd {s t : State} (h : s.quiet = t.quiet) : s.knd = t.knd := by
  have := congrArg State.knd h; exact this
theorem quiet_srch {s t : State} (h : s.quiet = t.quiet) : s.srch = t.srch := by
  have := congrArg State.srch h; exact this
theorem quiet_fbx {s t : State} (h : s.quiet = t.quiet) : s.fbx = t.fbx := by
  have := congrArg State.fbx h; exact this
theorem quiet_crn {s t : State} (h : s.quiet = t.quiet) : s.crn = t.crn := by
  have := congrArg State.crn h; exact this
theorem quiet_fwu {s t : State} (h : s.quiet = t.quiet) : s.fwu = t.fwu := by
  have := congrArg State.fwu h; exact this
theorem quiet_rdg {s t : State} (h : s.quiet = t.quiet) : s.quiet.rdg = t.quiet.rdg := by
  rw [h]
theorem quiet_regions {s t : State} (h : s.quiet = t.quiet) : s.rdg.regions = t.rdg.regions := by
  have := congrArg (fun x => x.rdg.regions) h; exact this

/-! ### Updates that quiet does not see -/

@[simp] theorem quiet_onHost (s : State) (f : HostPort → HostPort) : (s.onHost f).quiet = s.quiet := rfl
@[simp] theorem quiet_onDesc (s : State) (f : List InFlight → List InFlight) : (s.onDesc f).quiet = s.quiet := rfl
@[simp] theorem quiet_onBlw (s : State) (f : Bellows → Bellows) : (s.onBlw f).quiet = s.quiet := rfl
@[simp] theorem quiet_onDgn (s : State) (f : Diag → Diag) : (s.onDgn f).quiet = s.quiet := rfl
@[simp] theorem quiet_emit (s : State) (o : Output) : (s.emit o).quiet = s.quiet := rfl
@[simp] theorem quiet_bumpFree (s : State) : s.bumpFree.quiet = s.quiet := rfl
@[simp] theorem quiet_onQp (s : State) (q : Nat) (f : QueuePair → QueuePair) : (s.onQp q f).quiet = s.quiet := rfl
@[simp] theorem quiet_onPeer (s : State) (a : Nat) (f : Peer → Peer) : (s.onPeer a f).quiet = s.quiet := rfl
@[simp] theorem quiet_onBellow (s : State) (n : Nat) (f : Bellow → Bellow) : (s.onBellow n f).quiet = s.quiet := rfl
@[simp] theorem quiet_onClass (s : State) (n c : Nat) (f : BlwClass → BlwClass) :
    (s.onClass n c f).quiet = s.quiet := rfl
@[simp] theorem quiet_onDescriptor (s : State) (o : Origin) (f : InFlight → InFlight) :
    (s.onDescriptor o f).quiet = s.quiet := rfl
@[simp] theorem quiet_dropDescriptor (s : State) (o : Origin) : (dropDescriptor s o).quiet = s.quiet := rfl

/-! ### Rings and records -/

@[simp] theorem quiet_raiseIrq (s : State) (q : Nat) : (raiseIrq s q).quiet = s.quiet := rfl

@[simp] theorem quiet_signalEntry (s : State) (q : Nat) (now : Bool) : (signalEntry s q now).quiet = s.quiet := by
  unfold signalEntry
  simp only []
  split
  · rfl
  · split <;> simp

@[simp] theorem quiet_putCompletion (s : State) (q : Nat) (c : Completion) :
    (putCompletion s q c).quiet = s.quiet := by
  simp [putCompletion]

@[simp] theorem quiet_postEntry (s : State) (q : Nat) (c : Completion) : (postEntry s q c).quiet = s.quiet := by
  unfold postEntry; split <;> simp

@[simp] theorem quiet_queueEvent (s : State) (q code : Nat) (n : Seq) (r : Word) :
    (queueEvent s q code n r).quiet = s.quiet := by
  simp [queueEvent]

@[simp] theorem quiet_haltQp (s : State) (q cause : Nat) : (haltQp s q cause).quiet = s.quiet := rfl

@[simp] theorem quiet_dmaHalt (s : State) (q : Nat) (n : Seq) (a : Word) (ok : Bool) :
    (dmaHalt s q n a ok).quiet = s.quiet := by
  unfold dmaHalt; split <;> simp

@[simp] theorem quiet_countTenant (s : State) (t which n : Nat) : (countTenant s t which n).quiet = s.quiet := rfl

@[simp] theorem quiet_putFlight (s : State) (q : Nat) (r : FlightRecord) : (putFlight s q r).quiet = s.quiet := rfl

@[simp] theorem quiet_writeFlight (s : State) (q : Nat) (r : FlightRecord) :
    (writeFlight s q r).quiet = s.quiet := by
  unfold writeFlight
  simp only []
  split
  · simp
  · split
    · simp
    · split <;> simp

@[simp] theorem quiet_drainFlight (n : Nat) (s : State) (q : Nat) : (drainFlight n s q).quiet = s.quiet := by
  induction n generalizing s with
  | zero => rfl
  | succ n ih =>
    unfold drainFlight
    simp only []
    split
    · split
      · simp [ih]
      · rfl
    · rfl

@[simp] theorem quiet_logEvent (s : State) (c t d : Nat) : (logEvent s c t d).quiet = s.quiet := rfl

@[simp] theorem quiet_recordFlight (s : State) (x : Session) (k c : Nat) (p : List Byte) :
    (recordFlight s x k c p).quiet = s.quiet := by
  unfold recordFlight; split <;> simp

@[simp] theorem quiet_sessionEvent (s : State) (x : Session) (c d : Nat) (st : Status) :
    (sessionEvent s x c d st).quiet = s.quiet := by
  simp [sessionEvent]

/-- What each step of a fold keeps, the fold keeps. -/
theorem foldl_keeps {α β : Type} (g : State → β) (f : State → α → State) (h : ∀ s a, g (f s a) = g s) (l : List α)
    (s : State) : g (l.foldl f s) = g s := by
  induction l generalizing s with
  | nil => rfl
  | cons a l ih => simp [ih, h]

theorem quiet_foldl {α : Type} (f : State → α → State) (h : ∀ s a, (f s a).quiet = s.quiet) (l : List α)
    (s : State) : (l.foldl f s).quiet = s.quiet := foldl_keeps State.quiet f h l s

/-! ### Frames -/

@[simp] theorem quiet_enqueueFrame (s : State) (p : Nat) (f : OutFrame) : (enqueueFrame s p f).quiet = s.quiet := by
  unfold enqueueFrame; split <;> simp

@[simp] theorem quiet_sendFrame (s : State) (part type cls : Nat) (p : Payload) (tenant req : Nat) (obj : Word)
    (d : Nat) (st : Status) (tw : Bool) :
    (sendFrame s part type cls p tenant req obj d st tw).quiet = s.quiet := by
  unfold sendFrame
  split
  · rfl
  · exact quiet_foldl _ (fun s a => by simp) _ _

@[simp] theorem quiet_sendRequest (s : State) (part cls : Nat) (r : Request) (tenant : Nat) (obj : Word) (d : Nat)
    (tw : Bool) (about : Option Nat) (o : Option Origin) :
    (sendRequest s part cls r tenant obj d tw about o).1.quiet = s.quiet := by
  simp [sendRequest]; rfl

@[simp] theorem quiet_sendResponse (s : State) (part req : Nat) (st : Status) (b : ResponseBody) (obj : Word)
    (c : Nat) : (sendResponse s part req st b obj c).quiet = s.quiet := by
  simp [sendResponse]

@[simp] theorem quiet_propose (s : State) (c : MapChange) : (propose s c).quiet = s.quiet := by
  unfold propose
  simp only []
  split
  · rfl
  · simp; rfl

@[simp] theorem quiet_withdraw (s : State) (c : MapChange) : (withdraw s c).quiet = s.quiet := rfl

/-! ### Completions -/

@[simp] theorem quiet_completeOne (s : State) (o : Origin) (cs : List Status) (r : Word) :
    (completeOne s o cs r).quiet = s.quiet := by
  unfold completeOne
  split
  · rfl
  · simp only []
    split
    · simp
    · split <;> simp

@[simp] theorem quiet_forwardDescriptor (s : State) (d : InFlight) (part : Nat) (p : List Byte) :
    (forwardDescriptor s d part p).quiet = s.quiet := by
  simp [forwardDescriptor]

@[simp] theorem quiet_releaseFences (s : State) : (releaseFences s).quiet = s.quiet := by
  unfold releaseFences
  apply quiet_foldl
  intro s d
  split
  · rfl
  · split
    · split <;> simp
    · split
      · rfl
      · split
        · simp
        · split
          · split <;> simp
          · rfl
        · rfl

@[simp] theorem quiet_complete (s : State) (o : Origin) (cs : List Status) (r : Word) :
    (complete s o cs r).quiet = s.quiet := by
  simp [complete]

@[simp] theorem quiet_refuse (s : State) (o : Origin) (st : Status) (r : Word) :
    (refuse s o st r).quiet = s.quiet := by
  simp [refuse]

end Sys2Proof.Machine
end

