-- ==== Sys2Proof/Laws/Frames.lean ====
section
/-!
SUPPORT. Field by field: what completions, events, records and frames leave as it was (each follows from the
operation's lemma about `State.quiet`).
-/

namespace Sys2Proof.Machine

/-! ### raiseIrq -/

@[simp] theorem raiseIrq_pending (s : State) (q : Nat) : (raiseIrq s q).pending = s.pending :=
  quiet_pending (by simp)
@[simp] theorem raiseIrq_localNs (s : State) (q : Nat) : (raiseIrq s q).localNs = s.localNs :=
  quiet_localNs (by simp)
@[simp] theorem raiseIrq_pins (s : State) (q : Nat) : (raiseIrq s q).pins = s.pins :=
  quiet_pins (by simp)
@[simp] theorem raiseIrq_pwr (s : State) (q : Nat) : (raiseIrq s q).pwr = s.pwr :=
  quiet_pwr (by simp)
@[simp] theorem raiseIrq_ses (s : State) (q : Nat) : (raiseIrq s q).ses = s.ses :=
  quiet_ses (by simp)
@[simp] theorem raiseIrq_tie (s : State) (q : Nat) : (raiseIrq s q).tie = s.tie :=
  quiet_tie (by simp)
@[simp] theorem raiseIrq_hrt (s : State) (q : Nat) : (raiseIrq s q).hrt = s.hrt :=
  quiet_hrt (by simp)
@[simp] theorem raiseIrq_img (s : State) (q : Nat) : (raiseIrq s q).img = s.img :=
  quiet_img (by simp)
@[simp] theorem raiseIrq_stv (s : State) (q : Nat) : (raiseIrq s q).stv = s.stv :=
  quiet_stv (by simp)
@[simp] theorem raiseIrq_knd (s : State) (q : Nat) : (raiseIrq s q).knd = s.knd :=
  quiet_knd (by simp)
@[simp] theorem raiseIrq_srch (s : State) (q : Nat) : (raiseIrq s q).srch = s.srch :=
  quiet_srch (by simp)
@[simp] theorem raiseIrq_fbx (s : State) (q : Nat) : (raiseIrq s q).fbx = s.fbx :=
  quiet_fbx (by simp)
@[simp] theorem raiseIrq_crn (s : State) (q : Nat) : (raiseIrq s q).crn = s.crn :=
  quiet_crn (by simp)
@[simp] theorem raiseIrq_fwu (s : State) (q : Nat) : (raiseIrq s q).fwu = s.fwu :=
  quiet_fwu (by simp)
@[simp] theorem raiseIrq_regions (s : State) (q : Nat) : (raiseIrq s q).rdg.regions = s.rdg.regions :=
  quiet_regions (by simp)

/-! ### signalEntry -/

@[simp] theorem signalEntry_pending (s : State) (q : Nat) (now : Bool) : (signalEntry s q now).pending = s.pending :=
  quiet_pending (by simp)
@[simp] theorem signalEntry_localNs (s : State) (q : Nat) (now : Bool) : (signalEntry s q now).localNs = s.localNs :=
  quiet_localNs (by simp)
@[simp] theorem signalEntry_pins (s : State) (q : Nat) (now : Bool) : (signalEntry s q now).pins = s.pins :=
  quiet_pins (by simp)
@[simp] theorem signalEntry_pwr (s : State) (q : Nat) (now : Bool) : (signalEntry s q now).pwr = s.pwr :=
  quiet_pwr (by simp)
@[simp] theorem signalEntry_ses (s : State) (q : Nat) (now : Bool) : (signalEntry s q now).ses = s.ses :=
  quiet_ses (by simp)
@[simp] theorem signalEntry_tie (s : State) (q : Nat) (now : Bool) : (signalEntry s q now).tie = s.tie :=
  quiet_tie (by simp)
@[simp] theorem signalEntry_hrt (s : State) (q : Nat) (now : Bool) : (signalEntry s q now).hrt = s.hrt :=
  quiet_hrt (by simp)
@[simp] theorem signalEntry_img (s : State) (q : Nat) (now : Bool) : (signalEntry s q now).img = s.img :=
  quiet_img (by simp)
@[simp] theorem signalEntry_stv (s : State) (q : Nat) (now : Bool) : (signalEntry s q now).stv = s.stv :=
  quiet_stv (by simp)
@[simp] theorem signalEntry_knd (s : State) (q : Nat) (now : Bool) : (signalEntry s q now).knd = s.knd :=
  quiet_knd (by simp)
@[simp] theorem signalEntry_srch (s : State) (q : Nat) (now : Bool) : (signalEntry s q now).srch = s.srch :=
  quiet_srch (by simp)
@[simp] theorem signalEntry_fbx (s : State) (q : Nat) (now : Bool) : (signalEntry s q now).fbx = s.fbx :=
  quiet_fbx (by simp)
@[simp] theorem signalEntry_crn (s : State) (q : Nat) (now : Bool) : (signalEntry s q now).crn = s.crn :=
  quiet_crn (by simp)
@[simp] theorem signalEntry_fwu (s : State) (q : Nat) (now : Bool) : (signalEntry s q now).fwu = s.fwu :=
  quiet_fwu (by simp)
@[simp] theorem signalEntry_regions (s : State) (q : Nat) (now : Bool) : (signalEntry s q now).rdg.regions = s.rdg.regions :=
  quiet_regions (by simp)

/-! ### postEntry -/

@[simp] theorem postEntry_pending (s : State) (q : Nat) (c : Completion) : (postEntry s q c).pending = s.pending :=
  quiet_pending (by simp)
@[simp] theorem postEntry_localNs (s : State) (q : Nat) (c : Completion) : (postEntry s q c).localNs = s.localNs :=
  quiet_localNs (by simp)
@[simp] theorem postEntry_pins (s : State) (q : Nat) (c : Completion) : (postEntry s q c).pins = s.pins :=
  quiet_pins (by simp)
@[simp] theorem postEntry_pwr (s : State) (q : Nat) (c : Completion) : (postEntry s q c).pwr = s.pwr :=
  quiet_pwr (by simp)
@[simp] theorem postEntry_ses (s : State) (q : Nat) (c : Completion) : (postEntry s q c).ses = s.ses :=
  quiet_ses (by simp)
@[simp] theorem postEntry_tie (s : State) (q : Nat) (c : Completion) : (postEntry s q c).tie = s.tie :=
  quiet_tie (by simp)
@[simp] theorem postEntry_hrt (s : State) (q : Nat) (c : Completion) : (postEntry s q c).hrt = s.hrt :=
  quiet_hrt (by simp)
@[simp] theorem postEntry_img (s : State) (q : Nat) (c : Completion) : (postEntry s q c).img = s.img :=
  quiet_img (by simp)
@[simp] theorem postEntry_stv (s : State) (q : Nat) (c : Completion) : (postEntry s q c).stv = s.stv :=
  quiet_stv (by simp)
@[simp] theorem postEntry_knd (s : State) (q : Nat) (c : Completion) : (postEntry s q c).knd = s.knd :=
  quiet_knd (by simp)
@[simp] theorem postEntry_srch (s : State) (q : Nat) (c : Completion) : (postEntry s q c).srch = s.srch :=
  quiet_srch (by simp)
@[simp] theorem postEntry_fbx (s : State) (q : Nat) (c : Completion) : (postEntry s q c).fbx = s.fbx :=
  quiet_fbx (by simp)
@[simp] theorem postEntry_crn (s : State) (q : Nat) (c : Completion) : (postEntry s q c).crn = s.crn :=
  quiet_crn (by simp)
@[simp] theorem postEntry_fwu (s : State) (q : Nat) (c : Completion) : (postEntry s q c).fwu = s.fwu :=
  quiet_fwu (by simp)
@[simp] theorem postEntry_regions (s : State) (q : Nat) (c : Completion) : (postEntry s q c).rdg.regions = s.rdg.regions :=
  quiet_regions (by simp)

/-! ### queueEvent -/

@[simp] theorem queueEvent_pending (s : State) (q code : Nat) (n : Seq) (r : Word) : (queueEvent s q code n r).pending = s.pending :=
  quiet_pending (by simp)
@[simp] theorem queueEvent_localNs (s : State) (q code : Nat) (n : Seq) (r : Word) : (queueEvent s q code n r).localNs = s.localNs :=
  quiet_localNs (by simp)
@[simp] theorem queueEvent_pins (s : State) (q code : Nat) (n : Seq) (r : Word) : (queueEvent s q code n r).pins = s.pins :=
  quiet_pins (by simp)
@[simp] theorem queueEvent_pwr (s : State) (q code : Nat) (n : Seq) (r : Word) : (queueEvent s q code n r).pwr = s.pwr :=
  quiet_pwr (by simp)
@[simp] theorem queueEvent_ses (s : State) (q code : Nat) (n : Seq) (r : Word) : (queueEvent s q code n r).ses = s.ses :=
  quiet_ses (by simp)
@[simp] theorem queueEvent_tie (s : State) (q code : Nat) (n : Seq) (r : Word) : (queueEvent s q code n r).tie = s.tie :=
  quiet_tie (by simp)
@[simp] theorem queueEvent_hrt (s : State) (q code : Nat) (n : Seq) (r : Word) : (queueEvent s q code n r).hrt = s.hrt :=
  quiet_hrt (by simp)
@[simp] theorem queueEvent_img (s : State) (q code : Nat) (n : Seq) (r : Word) : (queueEvent s q code n r).img = s.img :=
  quiet_img (by simp)
@[simp] theorem queueEvent_stv (s : State) (q code : Nat) (n : Seq) (r : Word) : (queueEvent s q code n r).stv = s.stv :=
  quiet_stv (by simp)
@[simp] theorem queueEvent_knd (s : State) (q code : Nat) (n : Seq) (r : Word) : (queueEvent s q code n r).knd = s.knd :=
  quiet_knd (by simp)
@[simp] theorem queueEvent_srch (s : State) (q code : Nat) (n : Seq) (r : Word) : (queueEvent s q code n r).srch = s.srch :=
  quiet_srch (by simp)
@[simp] theorem queueEvent_fbx (s : State) (q code : Nat) (n : Seq) (r : Word) : (queueEvent s q code n r).fbx = s.fbx :=
  quiet_fbx (by simp)
@[simp] theorem queueEvent_crn (s : State) (q code : Nat) (n : Seq) (r : Word) : (queueEvent s q code n r).crn = s.crn :=
  quiet_crn (by simp)
@[simp] theorem queueEvent_fwu (s : State) (q code : Nat) (n : Seq) (r : Word) : (queueEvent s q code n r).fwu = s.fwu :=
  quiet_fwu (by simp)
@[simp] theorem queueEvent_regions (s : State) (q code : Nat) (n : Seq) (r : Word) : (queueEvent s q code n r).rdg.regions = s.rdg.regions :=
  quiet_regions (by simp)

/-! ### haltQp -/

@[simp] theorem haltQp_pending (s : State) (q c : Nat) : (haltQp s q c).pending = s.pending :=
  quiet_pending (by simp)
@[simp] theorem haltQp_localNs (s : State) (q c : Nat) : (haltQp s q c).localNs = s.localNs :=
  quiet_localNs (by simp)
@[simp] theorem haltQp_pins (s : State) (q c : Nat) : (haltQp s q c).pins = s.pins :=
  quiet_pins (by simp)
@[simp] theorem haltQp_pwr (s : State) (q c : Nat) : (haltQp s q c).pwr = s.pwr :=
  quiet_pwr (by simp)
@[simp] theorem haltQp_ses (s : State) (q c : Nat) : (haltQp s q c).ses = s.ses :=
  quiet_ses (by simp)
@[simp] theorem haltQp_tie (s : State) (q c : Nat) : (haltQp s q c).tie = s.tie :=
  quiet_tie (by simp)
@[simp] theorem haltQp_hrt (s : State) (q c : Nat) : (haltQp s q c).hrt = s.hrt :=
  quiet_hrt (by simp)
@[simp] theorem haltQp_img (s : State) (q c : Nat) : (haltQp s q c).img = s.img :=
  quiet_img (by simp)
@[simp] theorem haltQp_stv (s : State) (q c : Nat) : (haltQp s q c).stv = s.stv :=
  quiet_stv (by simp)
@[simp] theorem haltQp_knd (s : State) (q c : Nat) : (haltQp s q c).knd = s.knd :=
  quiet_knd (by simp)
@[simp] theorem haltQp_srch (s : State) (q c : Nat) : (haltQp s q c).srch = s.srch :=
  quiet_srch (by simp)
@[simp] theorem haltQp_fbx (s : State) (q c : Nat) : (haltQp s q c).fbx = s.fbx :=
  quiet_fbx (by simp)
@[simp] theorem haltQp_crn (s : State) (q c : Nat) : (haltQp s q c).crn = s.crn :=
  quiet_crn (by simp)
@[simp] theorem haltQp_fwu (s : State) (q c : Nat) : (haltQp s q c).fwu = s.fwu :=
  quiet_fwu (by simp)
@[simp] theorem haltQp_regions (s : State) (q c : Nat) : (haltQp s q c).rdg.regions = s.rdg.regions :=
  quiet_regions (by simp)

/-! ### dmaHalt -/

@[simp] theorem dmaHalt_pending (s : State) (q : Nat) (n : Seq) (a : Word) (ok : Bool) : (dmaHalt s q n a ok).pending = s.pending :=
  quiet_pending (by simp)
@[simp] theorem dmaHalt_localNs (s : State) (q : Nat) (n : Seq) (a : Word) (ok : Bool) : (dmaHalt s q n a ok).localNs = s.localNs :=
  quiet_localNs (by simp)
@[simp] theorem dmaHalt_pins (s : State) (q : Nat) (n : Seq) (a : Word) (ok : Bool) : (dmaHalt s q n a ok).pins = s.pins :=
  quiet_pins (by simp)
@[simp] theorem dmaHalt_pwr (s : State) (q : Nat) (n : Seq) (a : Word) (ok : Bool) : (dmaHalt s q n a ok).pwr = s.pwr :=
  quiet_pwr (by simp)
@[simp] theorem dmaHalt_ses (s : State) (q : Nat) (n : Seq) (a : Word) (ok : Bool) : (dmaHalt s q n a ok).ses = s.ses :=
  quiet_ses (by simp)
@[simp] theorem dmaHalt_tie (s : State) (q : Nat) (n : Seq) (a : Word) (ok : Bool) : (dmaHalt s q n a ok).tie = s.tie :=
  quiet_tie (by simp)
@[simp] theorem dmaHalt_hrt (s : State) (q : Nat) (n : Seq) (a : Word) (ok : Bool) : (dmaHalt s q n a ok).hrt = s.hrt :=
  quiet_hrt (by simp)
@[simp] theorem dmaHalt_img (s : State) (q : Nat) (n : Seq) (a : Word) (ok : Bool) : (dmaHalt s q n a ok).img = s.img :=
  quiet_img (by simp)
@[simp] theorem dmaHalt_stv (s : State) (q : Nat) (n : Seq) (a : Word) (ok : Bool) : (dmaHalt s q n a ok).stv = s.stv :=
  quiet_stv (by simp)
@[simp] theorem dmaHalt_knd (s : State) (q : Nat) (n : Seq) (a : Word) (ok : Bool) : (dmaHalt s q n a ok).knd = s.knd :=
  quiet_knd (by simp)
@[simp] theorem dmaHalt_srch (s : State) (q : Nat) (n : Seq) (a : Word) (ok : Bool) : (dmaHalt s q n a ok).srch = s.srch :=
  quiet_srch (by simp)
@[simp] theorem dmaHalt_fbx (s : State) (q : Nat) (n : Seq) (a : Word) (ok : Bool) : (dmaHalt s q n a ok).fbx = s.fbx :=
  quiet_fbx (by simp)
@[simp] theorem dmaHalt_crn (s : State) (q : Nat) (n : Seq) (a : Word) (ok : Bool) : (dmaHalt s q n a ok).crn = s.crn :=
  quiet_crn (by simp)
@[simp] theorem dmaHalt_fwu (s : State) (q : Nat) (n : Seq) (a : Word) (ok : Bool) : (dmaHalt s q n a ok).fwu = s.fwu :=
  quiet_fwu (by simp)
@[simp] theorem dmaHalt_regions (s : State) (q : Nat) (n : Seq) (a : Word) (ok : Bool) : (dmaHalt s q n a ok).rdg.regions = s.rdg.regions :=
  quiet_regions (by simp)

/-! ### countTenant -/

@[simp] theorem countTenant_pending (s : State) (t w n : Nat) : (countTenant s t w n).pending = s.pending :=
  quiet_pending (by simp)
@[simp] theorem countTenant_localNs (s : State) (t w n : Nat) : (countTenant s t w n).localNs = s.localNs :=
  quiet_localNs (by simp)
@[simp] theorem countTenant_pins (s : State) (t w n : Nat) : (countTenant s t w n).pins = s.pins :=
  quiet_pins (by simp)
@[simp] theorem countTenant_pwr (s : State) (t w n : Nat) : (countTenant s t w n).pwr = s.pwr :=
  quiet_pwr (by simp)
@[simp] theorem countTenant_ses (s : State) (t w n : Nat) : (countTenant s t w n).ses = s.ses :=
  quiet_ses (by simp)
@[simp] theorem countTenant_tie (s : State) (t w n : Nat) : (countTenant s t w n).tie = s.tie :=
  quiet_tie (by simp)
@[simp] theorem countTenant_hrt (s : State) (t w n : Nat) : (countTenant s t w n).hrt = s.hrt :=
  quiet_hrt (by simp)
@[simp] theorem countTenant_img (s : State) (t w n : Nat) : (countTenant s t w n).img = s.img :=
  quiet_img (by simp)
@[simp] theorem countTenant_stv (s : State) (t w n : Nat) : (countTenant s t w n).stv = s.stv :=
  quiet_stv (by simp)
@[simp] theorem countTenant_knd (s : State) (t w n : Nat) : (countTenant s t w n).knd = s.knd :=
  quiet_knd (by simp)
@[simp] theorem countTenant_srch (s : State) (t w n : Nat) : (countTenant s t w n).srch = s.srch :=
  quiet_srch (by simp)
@[simp] theorem countTenant_fbx (s : State) (t w n : Nat) : (countTenant s t w n).fbx = s.fbx :=
  quiet_fbx (by simp)
@[simp] theorem countTenant_crn (s : State) (t w n : Nat) : (countTenant s t w n).crn = s.crn :=
  quiet_crn (by simp)
@[simp] theorem countTenant_fwu (s : State) (t w n : Nat) : (countTenant s t w n).fwu = s.fwu :=
  quiet_fwu (by simp)
@[simp] theorem countTenant_regions (s : State) (t w n : Nat) : (countTenant s t w n).rdg.regions = s.rdg.regions :=
  quiet_regions (by simp)

/-! ### writeFlight -/

@[simp] theorem writeFlight_pending (s : State) (q : Nat) (r : FlightRecord) : (writeFlight s q r).pending = s.pending :=
  quiet_pending (by simp)
@[simp] theorem writeFlight_localNs (s : State) (q : Nat) (r : FlightRecord) : (writeFlight s q r).localNs = s.localNs :=
  quiet_localNs (by simp)
@[simp] theorem writeFlight_pins (s : State) (q : Nat) (r : FlightRecord) : (writeFlight s q r).pins = s.pins :=
  quiet_pins (by simp)
@[simp] theorem writeFlight_pwr (s : State) (q : Nat) (r : FlightRecord) : (writeFlight s q r).pwr = s.pwr :=
  quiet_pwr (by simp)
@[simp] theorem writeFlight_ses (s : State) (q : Nat) (r : FlightRecord) : (writeFlight s q r).ses = s.ses :=
  quiet_ses (by simp)
@[simp] theorem writeFlight_tie (s : State) (q : Nat) (r : FlightRecord) : (writeFlight s q r).tie = s.tie :=
  quiet_tie (by simp)
@[simp] theorem writeFlight_hrt (s : State) (q : Nat) (r : FlightRecord) : (writeFlight s q r).hrt = s.hrt :=
  quiet_hrt (by simp)
@[simp] theorem writeFlight_img (s : State) (q : Nat) (r : FlightRecord) : (writeFlight s q r).img = s.img :=
  quiet_img (by simp)
@[simp] theorem writeFlight_stv (s : State) (q : Nat) (r : FlightRecord) : (writeFlight s q r).stv = s.stv :=
  quiet_stv (by simp)
@[simp] theorem writeFlight_knd (s : State) (q : Nat) (r : FlightRecord) : (writeFlight s q r).knd = s.knd :=
  quiet_knd (by simp)
@[simp] theorem writeFlight_srch (s : State) (q : Nat) (r : FlightRecord) : (writeFlight s q r).srch = s.srch :=
  quiet_srch (by simp)
@[simp] theorem writeFlight_fbx (s : State) (q : Nat) (r : FlightRecord) : (writeFlight s q r).fbx = s.fbx :=
  quiet_fbx (by simp)
@[simp] theorem writeFlight_crn (s : State) (q : Nat) (r : FlightRecord) : (writeFlight s q r).crn = s.crn :=
  quiet_crn (by simp)
@[simp] theorem writeFlight_fwu (s : State) (q : Nat) (r : FlightRecord) : (writeFlight s q r).fwu = s.fwu :=
  quiet_fwu (by simp)
@[simp] theorem writeFlight_regions (s : State) (q : Nat) (r : FlightRecord) : (writeFlight s q r).rdg.regions = s.rdg.regions :=
  quiet_regions (by simp)

/-! ### logEvent -/

@[simp] theorem logEvent_pending (s : State) (c t d : Nat) : (logEvent s c t d).pending = s.pending :=
  quiet_pending (by simp)
@[simp] theorem logEvent_localNs (s : State) (c t d : Nat) : (logEvent s c t d).localNs = s.localNs :=
  quiet_localNs (by simp)
@[simp] theorem logEvent_pins (s : State) (c t d : Nat) : (logEvent s c t d).pins = s.pins :=
  quiet_pins (by simp)
@[simp] theorem logEvent_pwr (s : State) (c t d : Nat) : (logEvent s c t d).pwr = s.pwr :=
  quiet_pwr (by simp)
@[simp] theorem logEvent_ses (s : State) (c t d : Nat) : (logEvent s c t d).ses = s.ses :=
  quiet_ses (by simp)
@[simp] theorem logEvent_tie (s : State) (c t d : Nat) : (logEvent s c t d).tie = s.tie :=
  quiet_tie (by simp)
@[simp] theorem logEvent_hrt (s : State) (c t d : Nat) : (logEvent s c t d).hrt = s.hrt :=
  quiet_hrt (by simp)
@[simp] theorem logEvent_img (s : State) (c t d : Nat) : (logEvent s c t d).img = s.img :=
  quiet_img (by simp)
@[simp] theorem logEvent_stv (s : State) (c t d : Nat) : (logEvent s c t d).stv = s.stv :=
  quiet_stv (by simp)
@[simp] theorem logEvent_knd (s : State) (c t d : Nat) : (logEvent s c t d).knd = s.knd :=
  quiet_knd (by simp)
@[simp] theorem logEvent_srch (s : State) (c t d : Nat) : (logEvent s c t d).srch = s.srch :=
  quiet_srch (by simp)
@[simp] theorem logEvent_fbx (s : State) (c t d : Nat) : (logEvent s c t d).fbx = s.fbx :=
  quiet_fbx (by simp)
@[simp] theorem logEvent_crn (s : State) (c t d : Nat) : (logEvent s c t d).crn = s.crn :=
  quiet_crn (by simp)
@[simp] theorem logEvent_fwu (s : State) (c t d : Nat) : (logEvent s c t d).fwu = s.fwu :=
  quiet_fwu (by simp)
@[simp] theorem logEvent_regions (s : State) (c t d : Nat) : (logEvent s c t d).rdg.regions = s.rdg.regions :=
  quiet_regions (by simp)

/-! ### recordFlight -/

@[simp] theorem recordFlight_pending (s : State) (x : Session) (k c : Nat) (p : List Byte) : (recordFlight s x k c p).pending = s.pending :=
  quiet_pending (by simp)
@[simp] theorem recordFlight_localNs (s : State) (x : Session) (k c : Nat) (p : List Byte) : (recordFlight s x k c p).localNs = s.localNs :=
  quiet_localNs (by simp)
@[simp] theorem recordFlight_pins (s : State) (x : Session) (k c : Nat) (p : List Byte) : (recordFlight s x k c p).pins = s.pins :=
  quiet_pins (by simp)
@[simp] theorem recordFlight_pwr (s : State) (x : Session) (k c : Nat) (p : List Byte) : (recordFlight s x k c p).pwr = s.pwr :=
  quiet_pwr (by simp)
@[simp] theorem recordFlight_ses (s : State) (x : Session) (k c : Nat) (p : List Byte) : (recordFlight s x k c p).ses = s.ses :=
  quiet_ses (by simp)
@[simp] theorem recordFlight_tie (s : State) (x : Session) (k c : Nat) (p : List Byte) : (recordFlight s x k c p).tie = s.tie :=
  quiet_tie (by simp)
@[simp] theorem recordFlight_hrt (s : State) (x : Session) (k c : Nat) (p : List Byte) : (recordFlight s x k c p).hrt = s.hrt :=
  quiet_hrt (by simp)
@[simp] theorem recordFlight_img (s : State) (x : Session) (k c : Nat) (p : List Byte) : (recordFlight s x k c p).img = s.img :=
  quiet_img (by simp)
@[simp] theorem recordFlight_stv (s : State) (x : Session) (k c : Nat) (p : List Byte) : (recordFlight s x k c p).stv = s.stv :=
  quiet_stv (by simp)
@[simp] theorem recordFlight_knd (s : State) (x : Session) (k c : Nat) (p : List Byte) : (recordFlight s x k c p).knd = s.knd :=
  quiet_knd (by simp)
@[simp] theorem recordFlight_srch (s : State) (x : Session) (k c : Nat) (p : List Byte) : (recordFlight s x k c p).srch = s.srch :=
  quiet_srch (by simp)
@[simp] theorem recordFlight_fbx (s : State) (x : Session) (k c : Nat) (p : List Byte) : (recordFlight s x k c p).fbx = s.fbx :=
  quiet_fbx (by simp)
@[simp] theorem recordFlight_crn (s : State) (x : Session) (k c : Nat) (p : List Byte) : (recordFlight s x k c p).crn = s.crn :=
  quiet_crn (by simp)
@[simp] theorem recordFlight_fwu (s : State) (x : Session) (k c : Nat) (p : List Byte) : (recordFlight s x k c p).fwu = s.fwu :=
  quiet_fwu (by simp)
@[simp] theorem recordFlight_regions (s : State) (x : Session) (k c : Nat) (p : List Byte) : (recordFlight s x k c p).rdg.regions = s.rdg.regions :=
  quiet_regions (by simp)

/-! ### sessionEvent -/

@[simp] theorem sessionEvent_pending (s : State) (x : Session) (c d : Nat) (st : Status) : (sessionEvent s x c d st).pending = s.pending :=
  quiet_pending (by simp)
@[simp] theorem sessionEvent_localNs (s : State) (x : Session) (c d : Nat) (st : Status) : (sessionEvent s x c d st).localNs = s.localNs :=
  quiet_localNs (by simp)
@[simp] theorem sessionEvent_pins (s : State) (x : Session) (c d : Nat) (st : Status) : (sessionEvent s x c d st).pins = s.pins :=
  quiet_pins (by simp)
@[simp] theorem sessionEvent_pwr (s : State) (x : Session) (c d : Nat) (st : Status) : (sessionEvent s x c d st).pwr = s.pwr :=
  quiet_pwr (by simp)
@[simp] theorem sessionEvent_ses (s : State) (x : Session) (c d : Nat) (st : Status) : (sessionEvent s x c d st).ses = s.ses :=
  quiet_ses (by simp)
@[simp] theorem sessionEvent_tie (s : State) (x : Session) (c d : Nat) (st : Status) : (sessionEvent s x c d st).tie = s.tie :=
  quiet_tie (by simp)
@[simp] theorem sessionEvent_hrt (s : State) (x : Session) (c d : Nat) (st : Status) : (sessionEvent s x c d st).hrt = s.hrt :=
  quiet_hrt (by simp)
@[simp] theorem sessionEvent_img (s : State) (x : Session) (c d : Nat) (st : Status) : (sessionEvent s x c d st).img = s.img :=
  quiet_img (by simp)
@[simp] theorem sessionEvent_stv (s : State) (x : Session) (c d : Nat) (st : Status) : (sessionEvent s x c d st).stv = s.stv :=
  quiet_stv (by simp)
@[simp] theorem sessionEvent_knd (s : State) (x : Session) (c d : Nat) (st : Status) : (sessionEvent s x c d st).knd = s.knd :=
  quiet_knd (by simp)
@[simp] theorem sessionEvent_srch (s : State) (x : Session) (c d : Nat) (st : Status) : (sessionEvent s x c d st).srch = s.srch :=
  quiet_srch (by simp)
@[simp] theorem sessionEvent_fbx (s : State) (x : Session) (c d : Nat) (st : Status) : (sessionEvent s x c d st).fbx = s.fbx :=
  quiet_fbx (by simp)
@[simp] theorem sessionEvent_crn (s : State) (x : Session) (c d : Nat) (st : Status) : (sessionEvent s x c d st).crn = s.crn :=
  quiet_crn (by simp)
@[simp] theorem sessionEvent_fwu (s : State) (x : Session) (c d : Nat) (st : Status) : (sessionEvent s x c d st).fwu = s.fwu :=
  quiet_fwu (by simp)
@[simp] theorem sessionEvent_regions (s : State) (x : Session) (c d : Nat) (st : Status) : (sessionEvent s x c d st).rdg.regions = s.rdg.regions :=
  quiet_regions (by simp)

/-! ### enqueueFrame -/

@[simp] theorem enqueueFrame_pending (s : State) (p : Nat) (f : OutFrame) : (enqueueFrame s p f).pending = s.pending :=
  quiet_pending (by simp)
@[simp] theorem enqueueFrame_localNs (s : State) (p : Nat) (f : OutFrame) : (enqueueFrame s p f).localNs = s.localNs :=
  quiet_localNs (by simp)
@[simp] theorem enqueueFrame_pins (s : State) (p : Nat) (f : OutFrame) : (enqueueFrame s p f).pins = s.pins :=
  quiet_pins (by simp)
@[simp] theorem enqueueFrame_pwr (s : State) (p : Nat) (f : OutFrame) : (enqueueFrame s p f).pwr = s.pwr :=
  quiet_pwr (by simp)
@[simp] theorem enqueueFrame_ses (s : State) (p : Nat) (f : OutFrame) : (enqueueFrame s p f).ses = s.ses :=
  quiet_ses (by simp)
@[simp] theorem enqueueFrame_tie (s : State) (p : Nat) (f : OutFrame) : (enqueueFrame s p f).tie = s.tie :=
  quiet_tie (by simp)
@[simp] theorem enqueueFrame_hrt (s : State) (p : Nat) (f : OutFrame) : (enqueueFrame s p f).hrt = s.hrt :=
  quiet_hrt (by simp)
@[simp] theorem enqueueFrame_img (s : State) (p : Nat) (f : OutFrame) : (enqueueFrame s p f).img = s.img :=
  quiet_img (by simp)
@[simp] theorem enqueueFrame_stv (s : State) (p : Nat) (f : OutFrame) : (enqueueFrame s p f).stv = s.stv :=
  quiet_stv (by simp)
@[simp] theorem enqueueFrame_knd (s : State) (p : Nat) (f : OutFrame) : (enqueueFrame s p f).knd = s.knd :=
  quiet_knd (by simp)
@[simp] theorem enqueueFrame_srch (s : State) (p : Nat) (f : OutFrame) : (enqueueFrame s p f).srch = s.srch :=
  quiet_srch (by simp)
@[simp] theorem enqueueFrame_fbx (s : State) (p : Nat) (f : OutFrame) : (enqueueFrame s p f).fbx = s.fbx :=
  quiet_fbx (by simp)
@[simp] theorem enqueueFrame_crn (s : State) (p : Nat) (f : OutFrame) : (enqueueFrame s p f).crn = s.crn :=
  quiet_crn (by simp)
@[simp] theorem enqueueFrame_fwu (s : State) (p : Nat) (f : OutFrame) : (enqueueFrame s p f).fwu = s.fwu :=
  quiet_fwu (by simp)
@[simp] theorem enqueueFrame_regions (s : State) (p : Nat) (f : OutFrame) : (enqueueFrame s p f).rdg.regions = s.rdg.regions :=
  quiet_regions (by simp)

/-! ### sendFrame -/

@[simp] theorem sendFrame_pending (s : State) (part type cls : Nat) (p : Payload) (tenant req : Nat) (obj : Word) (d : Nat) (st : Status) (tw : Bool) : (sendFrame s part type cls p tenant req obj d st tw).pending = s.pending :=
  quiet_pending (by simp)
@[simp] theorem sendFrame_localNs (s : State) (part type cls : Nat) (p : Payload) (tenant req : Nat) (obj : Word) (d : Nat) (st : Status) (tw : Bool) : (sendFrame s part type cls p tenant req obj d st tw).localNs = s.localNs :=
  quiet_localNs (by simp)
@[simp] theorem sendFrame_pins (s : State) (part type cls : Nat) (p : Payload) (tenant req : Nat) (obj : Word) (d : Nat) (st : Status) (tw : Bool) : (sendFrame s part type cls p tenant req obj d st tw).pins = s.pins :=
  quiet_pins (by simp)
@[simp] theorem sendFrame_pwr (s : State) (part type cls : Nat) (p : Payload) (tenant req : Nat) (obj : Word) (d : Nat) (st : Status) (tw : Bool) : (sendFrame s part type cls p tenant req obj d st tw).pwr = s.pwr :=
  quiet_pwr (by simp)
@[simp] theorem sendFrame_ses (s : State) (part type cls : Nat) (p : Payload) (tenant req : Nat) (obj : Word) (d : Nat) (st : Status) (tw : Bool) : (sendFrame s part type cls p tenant req obj d st tw).ses = s.ses :=
  quiet_ses (by simp)
@[simp] theorem sendFrame_tie (s : State) (part type cls : Nat) (p : Payload) (tenant req : Nat) (obj : Word) (d : Nat) (st : Status) (tw : Bool) : (sendFrame s part type cls p tenant req obj d st tw).tie = s.tie :=
  quiet_tie (by simp)
@[simp] theorem sendFrame_hrt (s : State) (part type cls : Nat) (p : Payload) (tenant req : Nat) (obj : Word) (d : Nat) (st : Status) (tw : Bool) : (sendFrame s part type cls p tenant req obj d st tw).hrt = s.hrt :=
  quiet_hrt (by simp)
@[simp] theorem sendFrame_img (s : State) (part type cls : Nat) (p : Payload) (tenant req : Nat) (obj : Word) (d : Nat) (st : Status) (tw : Bool) : (sendFrame s part type cls p tenant req obj d st tw).img = s.img :=
  quiet_img (by simp)
@[simp] theorem sendFrame_stv (s : State) (part type cls : Nat) (p : Payload) (tenant req : Nat) (obj : Word) (d : Nat) (st : Status) (tw : Bool) : (sendFrame s part type cls p tenant req obj d st tw).stv = s.stv :=
  quiet_stv (by simp)
@[simp] theorem sendFrame_knd (s : State) (part type cls : Nat) (p : Payload) (tenant req : Nat) (obj : Word) (d : Nat) (st : Status) (tw : Bool) : (sendFrame s part type cls p tenant req obj d st tw).knd = s.knd :=
  quiet_knd (by simp)
@[simp] theorem sendFrame_srch (s : State) (part type cls : Nat) (p : Payload) (tenant req : Nat) (obj : Word) (d : Nat) (st : Status) (tw : Bool) : (sendFrame s part type cls p tenant req obj d st tw).srch = s.srch :=
  quiet_srch (by simp)
@[simp] theorem sendFrame_fbx (s : State) (part type cls : Nat) (p : Payload) (tenant req : Nat) (obj : Word) (d : Nat) (st : Status) (tw : Bool) : (sendFrame s part type cls p tenant req obj d st tw).fbx = s.fbx :=
  quiet_fbx (by simp)
@[simp] theorem sendFrame_crn (s : State) (part type cls : Nat) (p : Payload) (tenant req : Nat) (obj : Word) (d : Nat) (st : Status) (tw : Bool) : (sendFrame s part type cls p tenant req obj d st tw).crn = s.crn :=
  quiet_crn (by simp)
@[simp] theorem sendFrame_fwu (s : State) (part type cls : Nat) (p : Payload) (tenant req : Nat) (obj : Word) (d : Nat) (st : Status) (tw : Bool) : (sendFrame s part type cls p tenant req obj d st tw).fwu = s.fwu :=
  quiet_fwu (by simp)
@[simp] theorem sendFrame_regions (s : State) (part type cls : Nat) (p : Payload) (tenant req : Nat) (obj : Word) (d : Nat) (st : Status) (tw : Bool) : (sendFrame s part type cls p tenant req obj d st tw).rdg.regions = s.rdg.regions :=
  quiet_regions (by simp)

/-! ### sendResponse -/

@[simp] theorem sendResponse_pending (s : State) (part req : Nat) (st : Status) (b : ResponseBody) (obj : Word) (c : Nat) : (sendResponse s part req st b obj c).pending = s.pending :=
  quiet_pending (by simp)
@[simp] theorem sendResponse_localNs (s : State) (part req : Nat) (st : Status) (b : ResponseBody) (obj : Word) (c : Nat) : (sendResponse s part req st b obj c).localNs = s.localNs :=
  quiet_localNs (by simp)
@[simp] theorem sendResponse_pins (s : State) (part req : Nat) (st : Status) (b : ResponseBody) (obj : Word) (c : Nat) : (sendResponse s part req st b obj c).pins = s.pins :=
  quiet_pins (by simp)
@[simp] theorem sendResponse_pwr (s : State) (part req : Nat) (st : Status) (b : ResponseBody) (obj : Word) (c : Nat) : (sendResponse s part req st b obj c).pwr = s.pwr :=
  quiet_pwr (by simp)
@[simp] theorem sendResponse_ses (s : State) (part req : Nat) (st : Status) (b : ResponseBody) (obj : Word) (c : Nat) : (sendResponse s part req st b obj c).ses = s.ses :=
  quiet_ses (by simp)
@[simp] theorem sendResponse_tie (s : State) (part req : Nat) (st : Status) (b : ResponseBody) (obj : Word) (c : Nat) : (sendResponse s part req st b obj c).tie = s.tie :=
  quiet_tie (by simp)
@[simp] theorem sendResponse_hrt (s : State) (part req : Nat) (st : Status) (b : ResponseBody) (obj : Word) (c : Nat) : (sendResponse s part req st b obj c).hrt = s.hrt :=
  quiet_hrt (by simp)
@[simp] theorem sendResponse_img (s : State) (part req : Nat) (st : Status) (b : ResponseBody) (obj : Word) (c : Nat) : (sendResponse s part req st b obj c).img = s.img :=
  quiet_img (by simp)
@[simp] theorem sendResponse_stv (s : State) (part req : Nat) (st : Status) (b : ResponseBody) (obj : Word) (c : Nat) : (sendResponse s part req st b obj c).stv = s.stv :=
  quiet_stv (by simp)
@[simp] theorem sendResponse_knd (s : State) (part req : Nat) (st : Status) (b : ResponseBody) (obj : Word) (c : Nat) : (sendResponse s part req st b obj c).knd = s.knd :=
  quiet_knd (by simp)
@[simp] theorem sendResponse_srch (s : State) (part req : Nat) (st : Status) (b : ResponseBody) (obj : Word) (c : Nat) : (sendResponse s part req st b obj c).srch = s.srch :=
  quiet_srch (by simp)
@[simp] theorem sendResponse_fbx (s : State) (part req : Nat) (st : Status) (b : ResponseBody) (obj : Word) (c : Nat) : (sendResponse s part req st b obj c).fbx = s.fbx :=
  quiet_fbx (by simp)
@[simp] theorem sendResponse_crn (s : State) (part req : Nat) (st : Status) (b : ResponseBody) (obj : Word) (c : Nat) : (sendResponse s part req st b obj c).crn = s.crn :=
  quiet_crn (by simp)
@[simp] theorem sendResponse_fwu (s : State) (part req : Nat) (st : Status) (b : ResponseBody) (obj : Word) (c : Nat) : (sendResponse s part req st b obj c).fwu = s.fwu :=
  quiet_fwu (by simp)
@[simp] theorem sendResponse_regions (s : State) (part req : Nat) (st : Status) (b : ResponseBody) (obj : Word) (c : Nat) : (sendResponse s part req st b obj c).rdg.regions = s.rdg.regions :=
  quiet_regions (by simp)

/-! ### propose -/

@[simp] theorem propose_pending (s : State) (c : MapChange) : (propose s c).pending = s.pending :=
  quiet_pending (by simp)
@[simp] theorem propose_localNs (s : State) (c : MapChange) : (propose s c).localNs = s.localNs :=
  quiet_localNs (by simp)
@[simp] theorem propose_pins (s : State) (c : MapChange) : (propose s c).pins = s.pins :=
  quiet_pins (by simp)
@[simp] theorem propose_pwr (s : State) (c : MapChange) : (propose s c).pwr = s.pwr :=
  quiet_pwr (by simp)
@[simp] theorem propose_ses (s : State) (c : MapChange) : (propose s c).ses = s.ses :=
  quiet_ses (by simp)
@[simp] theorem propose_tie (s : State) (c : MapChange) : (propose s c).tie = s.tie :=
  quiet_tie (by simp)
@[simp] theorem propose_hrt (s : State) (c : MapChange) : (propose s c).hrt = s.hrt :=
  quiet_hrt (by simp)
@[simp] theorem propose_img (s : State) (c : MapChange) : (propose s c).img = s.img :=
  quiet_img (by simp)
@[simp] theorem propose_stv (s : State) (c : MapChange) : (propose s c).stv = s.stv :=
  quiet_stv (by simp)
@[simp] theorem propose_knd (s : State) (c : MapChange) : (propose s c).knd = s.knd :=
  quiet_knd (by simp)
@[simp] theorem propose_srch (s : State) (c : MapChange) : (propose s c).srch = s.srch :=
  quiet_srch (by simp)
@[simp] theorem propose_fbx (s : State) (c : MapChange) : (propose s c).fbx = s.fbx :=
  quiet_fbx (by simp)
@[simp] theorem propose_crn (s : State) (c : MapChange) : (propose s c).crn = s.crn :=
  quiet_crn (by simp)
@[simp] theorem propose_fwu (s : State) (c : MapChange) : (propose s c).fwu = s.fwu :=
  quiet_fwu (by simp)
@[simp] theorem propose_regions (s : State) (c : MapChange) : (propose s c).rdg.regions = s.rdg.regions :=
  quiet_regions (by simp)

/-! ### withdraw -/

@[simp] theorem withdraw_pending (s : State) (c : MapChange) : (withdraw s c).pending = s.pending :=
  quiet_pending (by simp)
@[simp] theorem withdraw_localNs (s : State) (c : MapChange) : (withdraw s c).localNs = s.localNs :=
  quiet_localNs (by simp)
@[simp] theorem withdraw_pins (s : State) (c : MapChange) : (withdraw s c).pins = s.pins :=
  quiet_pins (by simp)
@[simp] theorem withdraw_pwr (s : State) (c : MapChange) : (withdraw s c).pwr = s.pwr :=
  quiet_pwr (by simp)
@[simp] theorem withdraw_ses (s : State) (c : MapChange) : (withdraw s c).ses = s.ses :=
  quiet_ses (by simp)
@[simp] theorem withdraw_tie (s : State) (c : MapChange) : (withdraw s c).tie = s.tie :=
  quiet_tie (by simp)
@[simp] theorem withdraw_hrt (s : State) (c : MapChange) : (withdraw s c).hrt = s.hrt :=
  quiet_hrt (by simp)
@[simp] theorem withdraw_img (s : State) (c : MapChange) : (withdraw s c).img = s.img :=
  quiet_img (by simp)
@[simp] theorem withdraw_stv (s : State) (c : MapChange) : (withdraw s c).stv = s.stv :=
  quiet_stv (by simp)
@[simp] theorem withdraw_knd (s : State) (c : MapChange) : (withdraw s c).knd = s.knd :=
  quiet_knd (by simp)
@[simp] theorem withdraw_srch (s : State) (c : MapChange) : (withdraw s c).srch = s.srch :=
  quiet_srch (by simp)
@[simp] theorem withdraw_fbx (s : State) (c : MapChange) : (withdraw s c).fbx = s.fbx :=
  quiet_fbx (by simp)
@[simp] theorem withdraw_crn (s : State) (c : MapChange) : (withdraw s c).crn = s.crn :=
  quiet_crn (by simp)
@[simp] theorem withdraw_fwu (s : State) (c : MapChange) : (withdraw s c).fwu = s.fwu :=
  quiet_fwu (by simp)
@[simp] theorem withdraw_regions (s : State) (c : MapChange) : (withdraw s c).rdg.regions = s.rdg.regions :=
  quiet_regions (by simp)

/-! ### dropDescriptor -/

@[simp] theorem dropDescriptor_pending (s : State) (o : Origin) : (dropDescriptor s o).pending = s.pending :=
  quiet_pending (by simp)
@[simp] theorem dropDescriptor_localNs (s : State) (o : Origin) : (dropDescriptor s o).localNs = s.localNs :=
  quiet_localNs (by simp)
@[simp] theorem dropDescriptor_pins (s : State) (o : Origin) : (dropDescriptor s o).pins = s.pins :=
  quiet_pins (by simp)
@[simp] theorem dropDescriptor_pwr (s : State) (o : Origin) : (dropDescriptor s o).pwr = s.pwr :=
  quiet_pwr (by simp)
@[simp] theorem dropDescriptor_ses (s : State) (o : Origin) : (dropDescriptor s o).ses = s.ses :=
  quiet_ses (by simp)
@[simp] theorem dropDescriptor_tie (s : State) (o : Origin) : (dropDescriptor s o).tie = s.tie :=
  quiet_tie (by simp)
@[simp] theorem dropDescriptor_hrt (s : State) (o : Origin) : (dropDescriptor s o).hrt = s.hrt :=
  quiet_hrt (by simp)
@[simp] theorem dropDescriptor_img (s : State) (o : Origin) : (dropDescriptor s o).img = s.img :=
  quiet_img (by simp)
@[simp] theorem dropDescriptor_stv (s : State) (o : Origin) : (dropDescriptor s o).stv = s.stv :=
  quiet_stv (by simp)
@[simp] theorem dropDescriptor_knd (s : State) (o : Origin) : (dropDescriptor s o).knd = s.knd :=
  quiet_knd (by simp)
@[simp] theorem dropDescriptor_srch (s : State) (o : Origin) : (dropDescriptor s o).srch = s.srch :=
  quiet_srch (by simp)
@[simp] theorem dropDescriptor_fbx (s : State) (o : Origin) : (dropDescriptor s o).fbx = s.fbx :=
  quiet_fbx (by simp)
@[simp] theorem dropDescriptor_crn (s : State) (o : Origin) : (dropDescriptor s o).crn = s.crn :=
  quiet_crn (by simp)
@[simp] theorem dropDescriptor_fwu (s : State) (o : Origin) : (dropDescriptor s o).fwu = s.fwu :=
  quiet_fwu (by simp)
@[simp] theorem dropDescriptor_regions (s : State) (o : Origin) : (dropDescriptor s o).rdg.regions = s.rdg.regions :=
  quiet_regions (by simp)

/-! ### completeOne -/

@[simp] theorem completeOne_pending (s : State) (o : Origin) (cs : List Status) (r : Word) : (completeOne s o cs r).pending = s.pending :=
  quiet_pending (by simp)
@[simp] theorem completeOne_localNs (s : State) (o : Origin) (cs : List Status) (r : Word) : (completeOne s o cs r).localNs = s.localNs :=
  quiet_localNs (by simp)
@[simp] theorem completeOne_pins (s : State) (o : Origin) (cs : List Status) (r : Word) : (completeOne s o cs r).pins = s.pins :=
  quiet_pins (by simp)
@[simp] theorem completeOne_pwr (s : State) (o : Origin) (cs : List Status) (r : Word) : (completeOne s o cs r).pwr = s.pwr :=
  quiet_pwr (by simp)
@[simp] theorem completeOne_ses (s : State) (o : Origin) (cs : List Status) (r : Word) : (completeOne s o cs r).ses = s.ses :=
  quiet_ses (by simp)
@[simp] theorem completeOne_tie (s : State) (o : Origin) (cs : List Status) (r : Word) : (completeOne s o cs r).tie = s.tie :=
  quiet_tie (by simp)
@[simp] theorem completeOne_hrt (s : State) (o : Origin) (cs : List Status) (r : Word) : (completeOne s o cs r).hrt = s.hrt :=
  quiet_hrt (by simp)
@[simp] theorem completeOne_img (s : State) (o : Origin) (cs : List Status) (r : Word) : (completeOne s o cs r).img = s.img :=
  quiet_img (by simp)
@[simp] theorem completeOne_stv (s : State) (o : Origin) (cs : List Status) (r : Word) : (completeOne s o cs r).stv = s.stv :=
  quiet_stv (by simp)
@[simp] theorem completeOne_knd (s : State) (o : Origin) (cs : List Status) (r : Word) : (completeOne s o cs r).knd = s.knd :=
  quiet_knd (by simp)
@[simp] theorem completeOne_srch (s : State) (o : Origin) (cs : List Status) (r : Word) : (completeOne s o cs r).srch = s.srch :=
  quiet_srch (by simp)
@[simp] theorem completeOne_fbx (s : State) (o : Origin) (cs : List Status) (r : Word) : (completeOne s o cs r).fbx = s.fbx :=
  quiet_fbx (by simp)
@[simp] theorem completeOne_crn (s : State) (o : Origin) (cs : List Status) (r : Word) : (completeOne s o cs r).crn = s.crn :=
  quiet_crn (by simp)
@[simp] theorem completeOne_fwu (s : State) (o : Origin) (cs : List Status) (r : Word) : (completeOne s o cs r).fwu = s.fwu :=
  quiet_fwu (by simp)
@[simp] theorem completeOne_regions (s : State) (o : Origin) (cs : List Status) (r : Word) : (completeOne s o cs r).rdg.regions = s.rdg.regions :=
  quiet_regions (by simp)

/-! ### forwardDescriptor -/

@[simp] theorem forwardDescriptor_pending (s : State) (d : InFlight) (part : Nat) (p : List Byte) : (forwardDescriptor s d part p).pending = s.pending :=
  quiet_pending (by simp)
@[simp] theorem forwardDescriptor_localNs (s : State) (d : InFlight) (part : Nat) (p : List Byte) : (forwardDescriptor s d part p).localNs = s.localNs :=
  quiet_localNs (by simp)
@[simp] theorem forwardDescriptor_pins (s : State) (d : InFlight) (part : Nat) (p : List Byte) : (forwardDescriptor s d part p).pins = s.pins :=
  quiet_pins (by simp)
@[simp] theorem forwardDescriptor_pwr (s : State) (d : InFlight) (part : Nat) (p : List Byte) : (forwardDescriptor s d part p).pwr = s.pwr :=
  quiet_pwr (by simp)
@[simp] theorem forwardDescriptor_ses (s : State) (d : InFlight) (part : Nat) (p : List Byte) : (forwardDescriptor s d part p).ses = s.ses :=
  quiet_ses (by simp)
@[simp] theorem forwardDescriptor_tie (s : State) (d : InFlight) (part : Nat) (p : List Byte) : (forwardDescriptor s d part p).tie = s.tie :=
  quiet_tie (by simp)
@[simp] theorem forwardDescriptor_hrt (s : State) (d : InFlight) (part : Nat) (p : List Byte) : (forwardDescriptor s d part p).hrt = s.hrt :=
  quiet_hrt (by simp)
@[simp] theorem forwardDescriptor_img (s : State) (d : InFlight) (part : Nat) (p : List Byte) : (forwardDescriptor s d part p).img = s.img :=
  quiet_img (by simp)
@[simp] theorem forwardDescriptor_stv (s : State) (d : InFlight) (part : Nat) (p : List Byte) : (forwardDescriptor s d part p).stv = s.stv :=
  quiet_stv (by simp)
@[simp] theorem forwardDescriptor_knd (s : State) (d : InFlight) (part : Nat) (p : List Byte) : (forwardDescriptor s d part p).knd = s.knd :=
  quiet_knd (by simp)
@[simp] theorem forwardDescriptor_srch (s : State) (d : InFlight) (part : Nat) (p : List Byte) : (forwardDescriptor s d part p).srch = s.srch :=
  quiet_srch (by simp)
@[simp] theorem forwardDescriptor_fbx (s : State) (d : InFlight) (part : Nat) (p : List Byte) : (forwardDescriptor s d part p).fbx = s.fbx :=
  quiet_fbx (by simp)
@[simp] theorem forwardDescriptor_crn (s : State) (d : InFlight) (part : Nat) (p : List Byte) : (forwardDescriptor s d part p).crn = s.crn :=
  quiet_crn (by simp)
@[simp] theorem forwardDescriptor_fwu (s : State) (d : InFlight) (part : Nat) (p : List Byte) : (forwardDescriptor s d part p).fwu = s.fwu :=
  quiet_fwu (by simp)
@[simp] theorem forwardDescriptor_regions (s : State) (d : InFlight) (part : Nat) (p : List Byte) : (forwardDescriptor s d part p).rdg.regions = s.rdg.regions :=
  quiet_regions (by simp)

/-! ### releaseFences -/

@[simp] theorem releaseFences_pending (s : State)  : (releaseFences s).pending = s.pending :=
  quiet_pending (by simp)
@[simp] theorem releaseFences_localNs (s : State)  : (releaseFences s).localNs = s.localNs :=
  quiet_localNs (by simp)
@[simp] theorem releaseFences_pins (s : State)  : (releaseFences s).pins = s.pins :=
  quiet_pins (by simp)
@[simp] theorem releaseFences_pwr (s : State)  : (releaseFences s).pwr = s.pwr :=
  quiet_pwr (by simp)
@[simp] theorem releaseFences_ses (s : State)  : (releaseFences s).ses = s.ses :=
  quiet_ses (by simp)
@[simp] theorem releaseFences_tie (s : State)  : (releaseFences s).tie = s.tie :=
  quiet_tie (by simp)
@[simp] theorem releaseFences_hrt (s : State)  : (releaseFences s).hrt = s.hrt :=
  quiet_hrt (by simp)
@[simp] theorem releaseFences_img (s : State)  : (releaseFences s).img = s.img :=
  quiet_img (by simp)
@[simp] theorem releaseFences_stv (s : State)  : (releaseFences s).stv = s.stv :=
  quiet_stv (by simp)
@[simp] theorem releaseFences_knd (s : State)  : (releaseFences s).knd = s.knd :=
  quiet_knd (by simp)
@[simp] theorem releaseFences_srch (s : State)  : (releaseFences s).srch = s.srch :=
  quiet_srch (by simp)
@[simp] theorem releaseFences_fbx (s : State)  : (releaseFences s).fbx = s.fbx :=
  quiet_fbx (by simp)
@[simp] theorem releaseFences_crn (s : State)  : (releaseFences s).crn = s.crn :=
  quiet_crn (by simp)
@[simp] theorem releaseFences_fwu (s : State)  : (releaseFences s).fwu = s.fwu :=
  quiet_fwu (by simp)
@[simp] theorem releaseFences_regions (s : State)  : (releaseFences s).rdg.regions = s.rdg.regions :=
  quiet_regions (by simp)

/-! ### complete -/

@[simp] theorem complete_pending (s : State) (o : Origin) (cs : List Status) (r : Word) : (complete s o cs r).pending = s.pending :=
  quiet_pending (by simp)
@[simp] theorem complete_localNs (s : State) (o : Origin) (cs : List Status) (r : Word) : (complete s o cs r).localNs = s.localNs :=
  quiet_localNs (by simp)
@[simp] theorem complete_pins (s : State) (o : Origin) (cs : List Status) (r : Word) : (complete s o cs r).pins = s.pins :=
  quiet_pins (by simp)
@[simp] theorem complete_pwr (s : State) (o : Origin) (cs : List Status) (r : Word) : (complete s o cs r).pwr = s.pwr :=
  quiet_pwr (by simp)
@[simp] theorem complete_ses (s : State) (o : Origin) (cs : List Status) (r : Word) : (complete s o cs r).ses = s.ses :=
  quiet_ses (by simp)
@[simp] theorem complete_tie (s : State) (o : Origin) (cs : List Status) (r : Word) : (complete s o cs r).tie = s.tie :=
  quiet_tie (by simp)
@[simp] theorem complete_hrt (s : State) (o : Origin) (cs : List Status) (r : Word) : (complete s o cs r).hrt = s.hrt :=
  quiet_hrt (by simp)
@[simp] theorem complete_img (s : State) (o : Origin) (cs : List Status) (r : Word) : (complete s o cs r).img = s.img :=
  quiet_img (by simp)
@[simp] theorem complete_stv (s : State) (o : Origin) (cs : List Status) (r : Word) : (complete s o cs r).stv = s.stv :=
  quiet_stv (by simp)
@[simp] theorem complete_knd (s : State) (o : Origin) (cs : List Status) (r : Word) : (complete s o cs r).knd = s.knd :=
  quiet_knd (by simp)
@[simp] theorem complete_srch (s : State) (o : Origin) (cs : List Status) (r : Word) : (complete s o cs r).srch = s.srch :=
  quiet_srch (by simp)
@[simp] theorem complete_fbx (s : State) (o : Origin) (cs : List Status) (r : Word) : (complete s o cs r).fbx = s.fbx :=
  quiet_fbx (by simp)
@[simp] theorem complete_crn (s : State) (o : Origin) (cs : List Status) (r : Word) : (complete s o cs r).crn = s.crn :=
  quiet_crn (by simp)
@[simp] theorem complete_fwu (s : State) (o : Origin) (cs : List Status) (r : Word) : (complete s o cs r).fwu = s.fwu :=
  quiet_fwu (by simp)
@[simp] theorem complete_regions (s : State) (o : Origin) (cs : List Status) (r : Word) : (complete s o cs r).rdg.regions = s.rdg.regions :=
  quiet_regions (by simp)

/-! ### refuse -/

@[simp] theorem refuse_pending (s : State) (o : Origin) (st : Status) (r : Word) : (refuse s o st r).pending = s.pending :=
  quiet_pending (by simp)
@[simp] theorem refuse_localNs (s : State) (o : Origin) (st : Status) (r : Word) : (refuse s o st r).localNs = s.localNs :=
  quiet_localNs (by simp)
@[simp] theorem refuse_pins (s : State) (o : Origin) (st : Status) (r : Word) : (refuse s o st r).pins = s.pins :=
  quiet_pins (by simp)
@[simp] theorem refuse_pwr (s : State) (o : Origin) (st : Status) (r : Word) : (refuse s o st r).pwr = s.pwr :=
  quiet_pwr (by simp)
@[simp] theorem refuse_ses (s : State) (o : Origin) (st : Status) (r : Word) : (refuse s o st r).ses = s.ses :=
  quiet_ses (by simp)
@[simp] theorem refuse_tie (s : State) (o : Origin) (st : Status) (r : Word) : (refuse s o st r).tie = s.tie :=
  quiet_tie (by simp)
@[simp] theorem refuse_hrt (s : State) (o : Origin) (st : Status) (r : Word) : (refuse s o st r).hrt = s.hrt :=
  quiet_hrt (by simp)
@[simp] theorem refuse_img (s : State) (o : Origin) (st : Status) (r : Word) : (refuse s o st r).img = s.img :=
  quiet_img (by simp)
@[simp] theorem refuse_stv (s : State) (o : Origin) (st : Status) (r : Word) : (refuse s o st r).stv = s.stv :=
  quiet_stv (by simp)
@[simp] theorem refuse_knd (s : State) (o : Origin) (st : Status) (r : Word) : (refuse s o st r).knd = s.knd :=
  quiet_knd (by simp)
@[simp] theorem refuse_srch (s : State) (o : Origin) (st : Status) (r : Word) : (refuse s o st r).srch = s.srch :=
  quiet_srch (by simp)
@[simp] theorem refuse_fbx (s : State) (o : Origin) (st : Status) (r : Word) : (refuse s o st r).fbx = s.fbx :=
  quiet_fbx (by simp)
@[simp] theorem refuse_crn (s : State) (o : Origin) (st : Status) (r : Word) : (refuse s o st r).crn = s.crn :=
  quiet_crn (by simp)
@[simp] theorem refuse_fwu (s : State) (o : Origin) (st : Status) (r : Word) : (refuse s o st r).fwu = s.fwu :=
  quiet_fwu (by simp)
@[simp] theorem refuse_regions (s : State) (o : Origin) (st : Status) (r : Word) : (refuse s o st r).rdg.regions = s.rdg.regions :=
  quiet_regions (by simp)

/-! ### sendRequest -/

@[simp] theorem sendRequest_pending (s : State) (part cls : Nat) (r : Request) (tenant : Nat) (obj : Word) (d : Nat) (tw : Bool) (a : Option Nat) (o : Option Origin) :
    (sendRequest s part cls r tenant obj d tw a o).1.pending = s.pending :=
  quiet_pending (by simp)
@[simp] theorem sendRequest_localNs (s : State) (part cls : Nat) (r : Request) (tenant : Nat) (obj : Word) (d : Nat) (tw : Bool) (a : Option Nat) (o : Option Origin) :
    (sendRequest s part cls r tenant obj d tw a o).1.localNs = s.localNs :=
  quiet_localNs (by simp)
@[simp] theorem sendRequest_pins (s : State) (part cls : Nat) (r : Request) (tenant : Nat) (obj : Word) (d : Nat) (tw : Bool) (a : Option Nat) (o : Option Origin) :
    (sendRequest s part cls r tenant obj d tw a o).1.pins = s.pins :=
  quiet_pins (by simp)
@[simp] theorem sendRequest_pwr (s : State) (part cls : Nat) (r : Request) (tenant : Nat) (obj : Word) (d : Nat) (tw : Bool) (a : Option Nat) (o : Option Origin) :
    (sendRequest s part cls r tenant obj d tw a o).1.pwr = s.pwr :=
  quiet_pwr (by simp)
@[simp] theorem sendRequest_ses (s : State) (part cls : Nat) (r : Request) (tenant : Nat) (obj : Word) (d : Nat) (tw : Bool) (a : Option Nat) (o : Option Origin) :
    (sendRequest s part cls r tenant obj d tw a o).1.ses = s.ses :=
  quiet_ses (by simp)
@[simp] theorem sendRequest_tie (s : State) (part cls : Nat) (r : Request) (tenant : Nat) (obj : Word) (d : Nat) (tw : Bool) (a : Option Nat) (o : Option Origin) :
    (sendRequest s part cls r tenant obj d tw a o).1.tie = s.tie :=
  quiet_tie (by simp)
@[simp] theorem sendRequest_hrt (s : State) (part cls : Nat) (r : Request) (tenant : Nat) (obj : Word) (d : Nat) (tw : Bool) (a : Option Nat) (o : Option Origin) :
    (sendRequest s part cls r tenant obj d tw a o).1.hrt = s.hrt :=
  quiet_hrt (by simp)
@[simp] theorem sendRequest_img (s : State) (part cls : Nat) (r : Request) (tenant : Nat) (obj : Word) (d : Nat) (tw : Bool) (a : Option Nat) (o : Option Origin) :
    (sendRequest s part cls r tenant obj d tw a o).1.img = s.img :=
  quiet_img (by simp)
@[simp] theorem sendRequest_stv (s : State) (part cls : Nat) (r : Request) (tenant : Nat) (obj : Word) (d : Nat) (tw : Bool) (a : Option Nat) (o : Option Origin) :
    (sendRequest s part cls r tenant obj d tw a o).1.stv = s.stv :=
  quiet_stv (by simp)
@[simp] theorem sendRequest_knd (s : State) (part cls : Nat) (r : Request) (tenant : Nat) (obj : Word) (d : Nat) (tw : Bool) (a : Option Nat) (o : Option Origin) :
    (sendRequest s part cls r tenant obj d tw a o).1.knd = s.knd :=
  quiet_knd (by simp)
@[simp] theorem sendRequest_srch (s : State) (part cls : Nat) (r : Request) (tenant : Nat) (obj : Word) (d : Nat) (tw : Bool) (a : Option Nat) (o : Option Origin) :
    (sendRequest s part cls r tenant obj d tw a o).1.srch = s.srch :=
  quiet_srch (by simp)
@[simp] theorem sendRequest_fbx (s : State) (part cls : Nat) (r : Request) (tenant : Nat) (obj : Word) (d : Nat) (tw : Bool) (a : Option Nat) (o : Option Origin) :
    (sendRequest s part cls r tenant obj d tw a o).1.fbx = s.fbx :=
  quiet_fbx (by simp)
@[simp] theorem sendRequest_crn (s : State) (part cls : Nat) (r : Request) (tenant : Nat) (obj : Word) (d : Nat) (tw : Bool) (a : Option Nat) (o : Option Origin) :
    (sendRequest s part cls r tenant obj d tw a o).1.crn = s.crn :=
  quiet_crn (by simp)
@[simp] theorem sendRequest_fwu (s : State) (part cls : Nat) (r : Request) (tenant : Nat) (obj : Word) (d : Nat) (tw : Bool) (a : Option Nat) (o : Option Origin) :
    (sendRequest s part cls r tenant obj d tw a o).1.fwu = s.fwu :=
  quiet_fwu (by simp)
@[simp] theorem sendRequest_regions (s : State) (part cls : Nat) (r : Request) (tenant : Nat) (obj : Word) (d : Nat) (tw : Bool) (a : Option Nat) (o : Option Origin) :
    (sendRequest s part cls r tenant obj d tw a o).1.rdg.regions = s.rdg.regions :=
  quiet_regions (by simp)

/-! ### Sending leaves the host port, the descriptors and the outputs alone -/

@[simp] theorem enqueueFrame_host (s : State) (p : Nat) (f : OutFrame) : (enqueueFrame s p f).host = s.host := by
  unfold enqueueFrame; split <;> rfl
@[simp] theorem sendFrame_host (s : State) (part type cls : Nat) (p : Payload) (tenant req : Nat) (obj : Word) (d : Nat) (st : Status) (tw : Bool) :
    (sendFrame s part type cls p tenant req obj d st tw).host = s.host := by
  unfold sendFrame
  split
  · rfl
  · exact foldl_keeps (·.host) _ (fun s a => by simp) _ _
@[simp] theorem sendResponse_host (s : State) (part req : Nat) (st : Status) (b : ResponseBody) (obj : Word) (c : Nat) :
    (sendResponse s part req st b obj c).host = s.host := by
  simp [sendResponse]
@[simp] theorem sendRequest_host (s : State) (part cls : Nat) (r : Request) (tenant : Nat) (obj : Word) (d : Nat) (tw : Bool) (a : Option Nat) (o : Option Origin) :
    (sendRequest s part cls r tenant obj d tw a o).1.host = s.host := by
  simp [sendRequest]
@[simp] theorem propose_host (s : State) (c : MapChange) : (propose s c).host = s.host := by
  unfold propose; simp only []; split <;> simp
@[simp] theorem enqueueFrame_desc (s : State) (p : Nat) (f : OutFrame) : (enqueueFrame s p f).desc = s.desc := by
  unfold enqueueFrame; split <;> rfl
@[simp] theorem sendFrame_desc (s : State) (part type cls : Nat) (p : Payload) (tenant req : Nat) (obj : Word) (d : Nat) (st : Status) (tw : Bool) :
    (sendFrame s part type cls p tenant req obj d st tw).desc = s.desc := by
  unfold sendFrame
  split
  · rfl
  · exact foldl_keeps (·.desc) _ (fun s a => by simp) _ _
@[simp] theorem sendResponse_desc (s : State) (part req : Nat) (st : Status) (b : ResponseBody) (obj : Word) (c : Nat) :
    (sendResponse s part req st b obj c).desc = s.desc := by
  simp [sendResponse]
@[simp] theorem sendRequest_desc (s : State) (part cls : Nat) (r : Request) (tenant : Nat) (obj : Word) (d : Nat) (tw : Bool) (a : Option Nat) (o : Option Origin) :
    (sendRequest s part cls r tenant obj d tw a o).1.desc = s.desc := by
  simp [sendRequest]
@[simp] theorem propose_desc (s : State) (c : MapChange) : (propose s c).desc = s.desc := by
  unfold propose; simp only []; split <;> simp
@[simp] theorem enqueueFrame_out (s : State) (p : Nat) (f : OutFrame) : (enqueueFrame s p f).out = s.out := by
  unfold enqueueFrame; split <;> rfl
@[simp] theorem sendFrame_out (s : State) (part type cls : Nat) (p : Payload) (tenant req : Nat) (obj : Word) (d : Nat) (st : Status) (tw : Bool) :
    (sendFrame s part type cls p tenant req obj d st tw).out = s.out := by
  unfold sendFrame
  split
  · rfl
  · exact foldl_keeps (·.out) _ (fun s a => by simp) _ _
@[simp] theorem sendResponse_out (s : State) (part req : Nat) (st : Status) (b : ResponseBody) (obj : Word) (c : Nat) :
    (sendResponse s part req st b obj c).out = s.out := by
  simp [sendResponse]
@[simp] theorem sendRequest_out (s : State) (part cls : Nat) (r : Request) (tenant : Nat) (obj : Word) (d : Nat) (tw : Bool) (a : Option Nat) (o : Option Origin) :
    (sendRequest s part cls r tenant obj d tw a o).1.out = s.out := by
  simp [sendRequest]
@[simp] theorem propose_out (s : State) (c : MapChange) : (propose s c).out = s.out := by
  unfold propose; simp only []; split <;> simp
@[simp] theorem enqueueFrame_dgn (s : State) (p : Nat) (f : OutFrame) : (enqueueFrame s p f).dgn = s.dgn := by
  unfold enqueueFrame; split <;> rfl
@[simp] theorem sendFrame_dgn (s : State) (part type cls : Nat) (p : Payload) (tenant req : Nat) (obj : Word) (d : Nat) (st : Status) (tw : Bool) :
    (sendFrame s part type cls p tenant req obj d st tw).dgn = s.dgn := by
  unfold sendFrame
  split
  · rfl
  · exact foldl_keeps (·.dgn) _ (fun s a => by simp) _ _
@[simp] theorem sendResponse_dgn (s : State) (part req : Nat) (st : Status) (b : ResponseBody) (obj : Word) (c : Nat) :
    (sendResponse s part req st b obj c).dgn = s.dgn := by
  simp [sendResponse]
@[simp] theorem sendRequest_dgn (s : State) (part cls : Nat) (r : Request) (tenant : Nat) (obj : Word) (d : Nat) (tw : Bool) (a : Option Nat) (o : Option Origin) :
    (sendRequest s part cls r tenant obj d tw a o).1.dgn = s.dgn := by
  simp [sendRequest]
@[simp] theorem propose_dgn (s : State) (c : MapChange) : (propose s c).dgn = s.dgn := by
  unfold propose; simp only []; split <;> simp
@[simp] theorem enqueueFrame_rdg (s : State) (p : Nat) (f : OutFrame) : (enqueueFrame s p f).rdg = s.rdg := by
  unfold enqueueFrame; split <;> rfl
@[simp] theorem sendFrame_rdg (s : State) (part type cls : Nat) (p : Payload) (tenant req : Nat) (obj : Word) (d : Nat) (st : Status) (tw : Bool) :
    (sendFrame s part type cls p tenant req obj d st tw).rdg = s.rdg := by
  unfold sendFrame
  split
  · rfl
  · exact foldl_keeps (·.rdg) _ (fun s a => by simp) _ _
@[simp] theorem sendResponse_rdg (s : State) (part req : Nat) (st : Status) (b : ResponseBody) (obj : Word) (c : Nat) :
    (sendResponse s part req st b obj c).rdg = s.rdg := by
  simp [sendResponse]
@[simp] theorem propose_proposals (s : State) (c : MapChange) :
    (propose s c).rdg = { s.rdg with map := { s.rdg.map with proposals := s.rdg.map.proposals ++ [(s.rdg.part, c)] } } := by
  unfold propose; simp only []; split <;> simp
@[simp] theorem logEvent_rdg (s : State) (c t d : Nat) : (logEvent s c t d).rdg = s.rdg := by
  unfold logEvent; first | rfl | (split <;> first | rfl | simp [putCompletion, raiseIrq]) | (simp only []; split <;> first | rfl | (split <;> first | rfl | (split <;> rfl))) | simp
@[simp] theorem logEvent_desc (s : State) (c t d : Nat) : (logEvent s c t d).desc = s.desc := by
  unfold logEvent; first | rfl | (split <;> first | rfl | simp [putCompletion, raiseIrq]) | (simp only []; split <;> first | rfl | (split <;> first | rfl | (split <;> rfl))) | simp
@[simp] theorem signalEntry_rdg (s : State) (q : Nat) (now : Bool) : (signalEntry s q now).rdg = s.rdg := by
  unfold signalEntry; first | rfl | (split <;> first | rfl | simp [putCompletion, raiseIrq]) | (simp only []; split <;> first | rfl | (split <;> first | rfl | (split <;> rfl))) | simp
@[simp] theorem signalEntry_desc (s : State) (q : Nat) (now : Bool) : (signalEntry s q now).desc = s.desc := by
  unfold signalEntry; first | rfl | (split <;> first | rfl | simp [putCompletion, raiseIrq]) | (simp only []; split <;> first | rfl | (split <;> first | rfl | (split <;> rfl))) | simp
@[simp] theorem postEntry_rdg (s : State) (q : Nat) (c : Completion) : (postEntry s q c).rdg = s.rdg := by
  unfold postEntry; first | rfl | (split <;> first | rfl | simp [putCompletion, raiseIrq]) | (simp only []; split <;> first | rfl | (split <;> first | rfl | (split <;> rfl))) | simp
@[simp] theorem postEntry_desc (s : State) (q : Nat) (c : Completion) : (postEntry s q c).desc = s.desc := by
  unfold postEntry; first | rfl | (split <;> first | rfl | simp [putCompletion, raiseIrq]) | (simp only []; split <;> first | rfl | (split <;> first | rfl | (split <;> rfl))) | simp
@[simp] theorem queueEvent_rdg (s : State) (q code : Nat) (n : Seq) (r : Word) : (queueEvent s q code n r).rdg = s.rdg := by
  unfold queueEvent; first | rfl | (split <;> first | rfl | simp [putCompletion, raiseIrq]) | (simp only []; split <;> first | rfl | (split <;> first | rfl | (split <;> rfl))) | simp
@[simp] theorem queueEvent_desc (s : State) (q code : Nat) (n : Seq) (r : Word) : (queueEvent s q code n r).desc = s.desc := by
  unfold queueEvent; first | rfl | (split <;> first | rfl | simp [putCompletion, raiseIrq]) | (simp only []; split <;> first | rfl | (split <;> first | rfl | (split <;> rfl))) | simp
@[simp] theorem writeFlight_rdg (s : State) (q : Nat) (r : FlightRecord) : (writeFlight s q r).rdg = s.rdg := by
  unfold writeFlight; first | rfl | (split <;> first | rfl | simp [putCompletion, raiseIrq]) | (simp only []; split <;> first | rfl | (split <;> first | rfl | (split <;> rfl))) | simp
@[simp] theorem writeFlight_desc (s : State) (q : Nat) (r : FlightRecord) : (writeFlight s q r).desc = s.desc := by
  unfold writeFlight; first | rfl | (split <;> first | rfl | simp [putCompletion, raiseIrq]) | (simp only []; split <;> first | rfl | (split <;> first | rfl | (split <;> rfl))) | simp
@[simp] theorem countTenant_rdg (s : State) (t w n : Nat) : (countTenant s t w n).rdg = s.rdg := by
  unfold countTenant; first | rfl | (split <;> first | rfl | simp [putCompletion, raiseIrq]) | (simp only []; split <;> first | rfl | (split <;> first | rfl | (split <;> rfl))) | simp
@[simp] theorem countTenant_desc (s : State) (t w n : Nat) : (countTenant s t w n).desc = s.desc := by
  unfold countTenant; first | rfl | (split <;> first | rfl | simp [putCompletion, raiseIrq]) | (simp only []; split <;> first | rfl | (split <;> first | rfl | (split <;> rfl))) | simp
@[simp] theorem logEvent_host (s : State) (c t d : Nat) : (logEvent s c t d).host = s.host := rfl
@[simp] theorem logEvent_out (s : State) (c t d : Nat) : (logEvent s c t d).out = s.out := rfl

end Sys2Proof.Machine
end

