-- ==== Sys2Proof/WellFormed.lean ====
section
/-!
DEFINITION. Which commands can arise at all: operands inside the ranges the spec gives the thing they
name (queue pairs 0 to 8,191, session slots 0 to 1,048,575, embers 0 to 3,071, ports 0 to 5 ...).
`Machine.exec` is total and does not ask; a command that is not well formed names nothing that is there.
-/

namespace Sys2Proof

/-- A queue pair number (R58). -/
def isQp (q : Nat) : Bool := q < 8192
/-- A session slot (R12). -/
def isSlot (n : Nat) : Bool := n < 1048576
/-- An ember, die × 128 + bank (R147). -/
def isEmber (n : Nat) : Bool := n < 3072
/-- A ridge port (R283). -/
def isPort (n : Nat) : Bool := n < 6
/-- A part number (R289). -/
def isPart (n : Nat) : Bool := n < 1024
/-- A ridge address (R289). -/
def isAddress (n : Nat) : Bool := n < 65536

/-- An origin names a queue pair, or a part of the domain. -/
def Origin.wf : Origin → Bool
  | .qp q _ => isQp q
  | .ridge p _ => isPart p

/-- A link is one of 96 channels or 48 lanes. -/
def Link.wf : Link → Bool
  | .channel n => n < 96
  | .lane n => n < 48

/-- Read errors lie in an ember's 16,384 rows of 64 columns (R144), each in some of a column's 32 data symbols and 4
symbols of check bits (R163). -/
def errsWf (errs : List ReadError) : Bool :=
  errs.all fun e => isEmber e.ember && e.row < 16384 && e.column < 64 && 1 ≤ e.symbols && e.symbols ≤ 36

/-- A header's fields fit their bits (Table 13.1). -/
def FrameHeader.wf (h : FrameHeader) : Bool :=
  h.version < 16 && h.type < 16 && h.cls < 8 && h.length ≤ 16300 && h.length % 4 == 0 &&
  isPart h.srcPart && isPart h.dstPart && isAddress h.dstAddr && isAddress h.srcAddr &&
  h.epoch < 2 ^ 64 && h.reqId < 2 ^ 64 && h.tenant < 4096 && h.deadlineUs < 2 ^ 32

/-- The ranges of a command's operands. -/
def Instr.wf : Instr → Bool
  | .registerWrite off width _ => off < 0x4000000 && (width == 1 || width == 2 || width == 4 || width == 8)
  | .porstNRelease _ b l | .coldRestart b l =>
      b.flashBad.all (· < 6) && b.found.unpartnered.all isPort && l.all isEmber
  | .foothillTrainingDone l => l.all (· < 96)
  | .ridgeTrainingDone p _ _ | .ridgePortStateChange p _ => isPort p
  | .warmrstNRelease l => l.all Link.wf
  | .marginCheck l _ _ | .retrainEnd l _ => l.wf
  | .hostLinkUp _ _ rate _ => rate == 1 || rate == 2
  | .hostModuleLost m => m < 4
  | .qpEnable q _ | .qpFreeze q | .qpResume q _ | .qpSnapshot q _ | .qpDisable q | .qpDisableDone q
  | .sqTailWrite q _ | .cqHeadWrite q _ | .flueHeadWrite q _ | .flightHeadWrite q _
  | .descriptorFetch q _ | .seqReread q _ | .dmaError q _ _ _ | .irqCoalesceTimeout q => isQp q
  | .sessionAppend w _ | .sessionGenerate w _ | .sessionPark w | .sessionMove w _ | .tuneStep w _ _ _
  | .cairnWrite w _ _ => w.origin.wf && errsWf w.how.errs
  | .sessionSnapshot w slot => w.origin.wf && isSlot slot && errsWf w.how.errs
  | .cairnDue w _ _ => isSlot w.slot && errsWf w.how.errs
  | .sessionRevive o _ p => o.wf && errsWf p.errs
  | .nop o | .queueCancel o | .sessionClose o | .deadlineExpire o
  | .tokenise o _ _ _ | .embedBatch o _ _ | .imageLoad o _ _ _ | .imageUnload o
  | .variantLoad o _ _ | .variantRemove o | .searchQuery o _ _ | .indexInsert o _ | .indexDelete o _
  | .indexDrop o | .indexMerge o | .mapWaitTimeout o | .extentLend o | .extentRevoke o
  | .regionCreate o | .regionMap o | .regionUnmap o | .regionPublish o | .regionPublishQuery o
  | .cairnArm o | .cairnDisarm o | .fwBlockWrite o _ _ _ | .fwBlockVerify o
  | .fwBlockActivate o | .fwBlockAbort o => o.wf
  | .sessionOpen o _ slot | .cairnRestore o _ _ _ slot =>
      o.wf && isSlot slot
  | .indexCreate o _ slot => o.wf && slot < 256
  | .mergeFreeOld slot => slot < 256
  | .moveRoundEnd { slot := n, .. } | .moveHandover n | .stubExpire n | .migrationSwitch n _ _ | .buddyAcknowledge n
  | .grammarMask n _ | .draftRefill n | .prefillChunkEnd n => isSlot n
  | .imageLoadComplete n | .stageWaitTimeout n => n < 8
  | .workItemEnd n _ => n < 32
  | .workTableWrite e n _ => isEmber e && n < 256
  | .refreshDue d | .scanTurn d _ => d < 2
  | .idle d c | .topkLocal d c => d < 2 && c.reqs.all Origin.wf
  | .matvec d c _ _ e | .score d c _ _ e | .bindot d c _ e | .kvwrite d c _ _ e | .summary d c e
  | .clear d c _ e | .copyrow d (c, e) => d < 2 && errsWf e && c.reqs.all Origin.wf
  | .patrolScrub e row _ errs => isEmber e && row < 16384 && errsWf errs
  | .retireBank e | .bankRetireComplete e => isEmber e
  | .emberTest _ failing => failing.all isEmber
  | .patternCheck c => errsWf c.errs
  | .hostMemRead off errs => off < 2 ^ 40 && errsWf errs
  | .hostMemWrite off data => off < 2 ^ 40 && data.length ≤ 256
  | .requestFrame f _ | .responseFrame f _ | .invalidate f _ _ | .invalidateAcknowledge f _ _
  | .mapFrame f _ | .acknowledge f | .keepalive f _ | .pageData f _ _ _ => f.hdr.wf
  | .retransmitTimeout a | .peerSuspect a | .linkKeyExchange a _ | .linkRekey a => isAddress a
  | .partDownDetect p | .peerLostTimeout p | .takeover p => isPart p
  | .tenantCounterRefresh t => t < 4096
  | .bellowsFrameBoundary p => p < 7
  | .gateEntryBoundary p | .gclTakeEffect p => isPort p
  | .damperWrite r _ => r < 3
  | .getCertificate slot off len => slot < 256 && off < 65536 && len < 65536
  | .challenge slot _ => slot < 256
  | .getMeasurements i _ => i < 256
  | .spdmUnsupportedRequest c => c < 256
  | .powerOnReset | .startupComplete | .warmResetRecoveryEnd | .sequenceFault _ | .porstNAssert _ | .warmrstNAssert
  | .watchdogFire | .thermalTrip _ | .thermalThrottle _
  | .thermalThrottleRelease .. | .extendedRefreshChange _ | .throttleNAssert | .throttleNRelease
  | .powerCapEvaluation .. | .dipEpisodeBegin .. | .railRecovered .. | .dipEpisodeEnd | .supplyReset _
  | .hostLinkDown | .attach _ | .qpTableBaseWrite _ | .autoPark | .demotion | .promotion
  | .foothillClear _ | .activationFrame _ | .stepCommit .. | .draftPass .. | .splitInterval _
  | .directModeSet _ | .patternWrite _ | .ucodeLoad _ | .rowRepair _
  | .marginScan .. | .dmcReturn _ | .dmcBadOperation _ | .keepaliveSend | .mapPropose _ | .mapCommit _
  | .leaderElection .. | .extentClaim _ | .extentRelease _ | .gracePeriodEnd _ | .twinPropose _
  | .twinOutOfService | .twinInService | .twinRestore .. | .earlyWarningCheck .. | .firmwareSwitch
  | .quiesceTimeout | .quiesceRetry | .imageConfirm .. | .confirmWindowExpire | .fwReject _
  | .recoveryDownload _ | .recoveryDownloadDone .. | .getVersion | .getCapabilities
  | .negotiateAlgorithms .. | .getDigests | .trngHealthFail | .tenantPowerRefresh _ | .gclCommit _
  | .gclDiscard _ | .shaperWrite _ | .injectDisarm _ | .injectCorrectedError _
  | .injectUncorrectableError _ | .injectPageCheckFail _ | .injectFrameTagFail _ | .injectSupplyHold _
  | .railRise _ | .epochApplyTimeout _ => true

end Sys2Proof
end

