-- ==== Sys2Proof/Laws/Headers.lean ====
section
/-!
SUPPORT. The ridge frame header: reading undoes laying out.
-/

namespace Sys2Proof.Machine

/-- A field of a number as it is laid into bits. -/
theorem fld_ofNat (n v hi lo : Nat) (h : v < 2 ^ n) : fld (BitVec.ofNat n v) hi lo = v / 2 ^ lo % 2 ^ (hi + 1 - lo) := by
  simp [fld, Nat.shiftRight_eq_div_pow, Nat.mod_eq_of_lt h]

/-- A bit of a number as it is laid into bits. -/
theorem bit_ofNat (n v i : Nat) (h : v < 2 ^ n) : bit (BitVec.ofNat n v) i = decide (v / 2 ^ i % 2 = 1) := by
  simp [bit, Nat.mod_eq_of_lt h, Nat.testBit_eq_decide_div_mod_eq]

set_option exponentiation.threshold 600 in
/-- What the encoding of a well-formed header spells is read back, field by field: no field overlaps another, and none is
dropped (Table 13.1). -/
theorem decode_encode_header (h : FrameHeader) (hw : h.wf = true) : decodeHeader (encodeHeader h) = h := by
  obtain ⟨ver, ty, cls, fwd, rtx, len, sp, dp, da, sa, ep, fs, ack, ten, rq, ob, dl, st⟩ := h
  simp only [FrameHeader.wf, Bool.and_eq_true, decide_eq_true_eq, isPart, isAddress, beq_iff_eq] at hw
  obtain ⟨⟨⟨⟨⟨⟨⟨⟨⟨⟨⟨⟨h1, h2⟩, h3⟩, h4⟩, h5⟩, h6⟩, h7⟩, h8⟩, h9⟩, h10⟩, h11⟩, h12⟩, h13⟩ := hw
  have hf := fs.isLt
  have ha := ack.isLt
  have ho := ob.isLt
  have hs := st.isLt
  simp only [encodeHeader, put, putBit, Nat.shiftLeft_eq, Nat.reduceAdd, Nat.reduceSub, Nat.reducePow, Nat.one_mul, Nat.mul_one] at *
  generalize hx : (if fwd = true then 2048 else 0) = x
  generalize hy : (if rtx = true then 4096 else 0) = y
  have hx' : x = 0 ∨ x = 2048 := by subst hx; split <;> simp
  have hy' : y = 0 ∨ y = 4096 := by subst hy; split <;> simp
  simp only [decodeHeader]
  rw [FrameHeader.mk.injEq]
  rw [Nat.mod_eq_of_lt h1, Nat.mod_eq_of_lt h2, Nat.mod_eq_of_lt h3, Nat.mod_eq_of_lt (by omega : len < 16384), Nat.mod_eq_of_lt h6, Nat.mod_eq_of_lt h7,
    Nat.mod_eq_of_lt h8, Nat.mod_eq_of_lt h9, Nat.mod_eq_of_lt h10, Nat.mod_eq_of_lt h11, Nat.mod_eq_of_lt h12, Nat.mod_eq_of_lt h13, Nat.mod_eq_of_lt hf,
    Nat.mod_eq_of_lt ha, Nat.mod_eq_of_lt ho, Nat.mod_eq_of_lt hs]
  have hV : ver + ty * 16 + cls * 256 + x + y + len * 65536 + sp * 4294967296 + dp * 281474976710656 + da * 2 ^ 64 + sa * 2 ^ 80 + ep * 2 ^ 96 +
      fs.toNat * 2 ^ 160 + ack.toNat * 2 ^ 192 + ten * 2 ^ 224 + rq * 2 ^ 256 + ob.toNat * 2 ^ 320 + dl * 2 ^ 384 + st.toNat * 2 ^ 416 < 2 ^ 512 := by
    omega
  simp only [Nat.reducePow] at hV
  simp only [fld_ofNat 512 _ _ _ hV, bit_ofNat 512 _ _ hV, Nat.reduceAdd, Nat.reduceSub, Nat.reducePow]
  have e4 : (fwd = true ∧ x = 2048) ∨ (fwd = false ∧ x = 0) := by cases fwd <;> simp_all
  have e5 : (rtx = true ∧ y = 4096) ∨ (rtx = false ∧ y = 0) := by cases rtx <;> simp_all
  clear hx hy hx' hy' h5
  refine ⟨?_, ?_, ?_, ?_, ?_, ?_, ?_, ?_, ?_, ?_, ?_, ?_, ?_, ?_, ?_, ?_, ?_, ?_⟩
  · omega
  · omega
  · omega
  · rcases e4 with ⟨rfl, rfl⟩ | ⟨rfl, rfl⟩ <;> simp only [decide_eq_true_eq, decide_eq_false_iff_not] <;> omega
  · rcases e5 with ⟨rfl, rfl⟩ | ⟨rfl, rfl⟩ <;> simp only [decide_eq_true_eq, decide_eq_false_iff_not] <;> omega
  · omega
  · omega
  · omega
  · omega
  · omega
  · omega
  · apply BitVec.eq_of_toNat_eq; rw [BitVec.toNat_ofNat]; omega
  · apply BitVec.eq_of_toNat_eq; rw [BitVec.toNat_ofNat]; omega
  · omega
  · omega
  · apply BitVec.eq_of_toNat_eq; rw [BitVec.toNat_ofNat]; omega
  · omega
  · apply BitVec.eq_of_toNat_eq; rw [BitVec.toNat_ofNat]; omega

end Sys2Proof.Machine
end

