-- ==== Sys2Proof/Laws/Lists.lean ====
section
/-!
SUPPORT. Tables: entries found by key, put in by key, and set by position.
-/

namespace Sys2Proof.Machine

/-- What upsert puts in is found under its key. -/
theorem upsert_get {α} (key : α → Nat) (x : α) (l : List α) : lookupBy key (key x) (upsert key x l) = some x := by
  induction l with
  | nil => simp [upsert, lookupBy]
  | cons y ys ih =>
    unfold upsert
    split
    · simp [lookupBy]
    · rename_i h
      unfold lookupBy at *
      rw [List.find?_cons_of_neg]
      · exact ih
      · simp; exact fun h' => h h'

/-- The same, for a key that is given. -/
theorem upsert_get' {α} (key : α → Nat) (x : α) (l : List α) (n : Nat) (h : key x = n) : lookupBy key n (upsert key x l) = some x := by
  subst h; exact upsert_get key x l

/-- Every other key finds what it found. -/
theorem upsert_other {α} (key : α → Nat) (x : α) (l : List α) (n : Nat) (h : key x ≠ n) : lookupBy key n (upsert key x l) = lookupBy key n l := by
  unfold lookupBy
  induction l with
  | nil => simp [upsert, h]
  | cons y ys ih =>
    unfold upsert
    split
    · rename_i h2
      rw [List.find?_cons_of_neg (by simpa using h), List.find?_cons_of_neg (by simp; rw [h2]; exact h)]
    · simp only [List.find?_cons]
      rw [ih]

/-- Setting by position keeps the length. -/
theorem setAt_len {α} (l : List α) (i : Nat) (x : α) : (setAt l i x).length = l.length := by
  induction l generalizing i with
  | nil => rfl
  | cons y ys ih => cases i <;> simp [setAt, ih]

/-- What setAt puts in is at its place. -/
theorem setAt_same {α} (l : List α) (i : Nat) (x : α) (h : i < l.length) : (setAt l i x)[i]? = some x := by
  induction l generalizing i with
  | nil => simp at h
  | cons y ys ih => cases i with
    | zero => simp [setAt]
    | succ i => simp [setAt]; exact ih i (by simpa using h)

/-- Every other place stands. -/
theorem setAt_other {α} (l : List α) (i j : Nat) (x : α) (h : i ≠ j) : (setAt l i x)[j]? = l[j]? := by
  induction l generalizing i j with
  | nil => rfl
  | cons y ys ih => cases i with
    | zero => cases j with
      | zero => exact absurd rfl h
      | succ j => simp [setAt]
    | succ i => cases j with
      | zero => simp [setAt]
      | succ j => simp [setAt]; exact ih i j (by omega)

/-- Rails have different bits. -/
theorem railBit_inj (a b : Rail) (h : railBit a = railBit b) : a = b := by cases a <;> cases b <;> first | rfl | simp [railBit] at h

/-- There are seven rails. -/
theorem railBit_lt (a : Rail) : railBit a < 7 := by cases a <;> simp [railBit]

/-- What a key finds is in the table under that key. -/
theorem lookup_mem {α} {key : α → Nat} {k : Nat} {l : List α} {x : α} (h : lookupBy key k l = some x) : x ∈ l ∧ key x = k := by
  unfold lookupBy at h
  exact ⟨List.mem_of_find?_eq_some h, by simpa using List.find?_some h⟩

end Sys2Proof.Machine
end

