-- ==== Sys2Proof/Laws/Memory.lean ====
section
/-!
SUPPORT. The memory as a canonical list: reading after writing, and every operation keeps the canonical form.
-/

namespace Sys2Proof.Machine

/-! ### The canonical form -/

/-- The head of a canonical memory is not blank and lies below every later cell; the rest is canonical. -/
theorem memory_wf_cons (c : Host.Cell) (m : List Host.Cell) :
    Memory.wf (c :: m) = true ↔ c.2 ≠ memBlank ∧ (∀ d ∈ m, c.1 < d.1) ∧ Memory.wf m = true := by
  induction m generalizing c with
  | nil => obtain ⟨a, v⟩ := c; simp [Memory.wf]
  | cons d m ih =>
    obtain ⟨a, v⟩ := c
    obtain ⟨b, w⟩ := d
    have h := ih (b, w)
    simp only [Memory.wf, Bool.and_eq_true, bne_iff_ne, decide_eq_true_eq, List.forall_mem_cons]
    constructor
    · rintro ⟨⟨hv, hab⟩, hm⟩
      exact ⟨hv, ⟨hab, fun e he => Nat.lt_trans hab ((h.mp hm).2.1 e he)⟩, hm⟩
    · rintro ⟨hv, ⟨hab, -⟩, hm⟩
      exact ⟨⟨hv, hab⟩, hm⟩

/-- An address below every cell reads blank. -/
theorem memRead_below (m : List Host.Cell) (a : Nat) (h : ∀ d ∈ m, a < d.1) : memRead m a = memBlank := by
  cases m with
  | nil => rfl
  | cons d m =>
    have := h d (List.mem_cons_self ..)
    obtain ⟨k, v⟩ := d
    simp only [memRead]
    rw [if_neg (by simp at this; omega), if_pos this]

/-- The cells of a written memory: those of the memory before it, and the one written. -/
theorem mem_memWrite (m : List Host.Cell) (a : Nat) (b : Byte) (d : Host.Cell) (h : d ∈ memWrite m a b) :
    d ∈ m ∨ d = (a, b) := by
  induction m with
  | nil => simp only [memWrite] at h; split at h <;> simp_all
  | cons c m ih =>
    obtain ⟨k, v⟩ := c
    simp only [memWrite] at h
    split at h
    · split at h
      · exact .inl h
      · rcases List.mem_cons.mp h with h | h
        · exact .inr h
        · exact .inl h
    · split at h
      · split at h
        · exact .inl (List.mem_cons_of_mem _ h)
        · rcases List.mem_cons.mp h with h | h
          · exact .inr h
          · exact .inl (List.mem_cons_of_mem _ h)
      · simp only [List.mem_cons] at h
        rcases h with h | h
        · simp [h]
        · rcases ih h with h | h <;> simp [h]

/-- A write keeps the canonical form. -/
theorem memWrite_wf (m : List Host.Cell) (a : Nat) (b : Byte) (h : Memory.wf m = true) :
    Memory.wf (memWrite m a b) = true := by
  induction m with
  | nil => simp only [memWrite]; split <;> simp_all [Memory.wf]
  | cons c m ih =>
    obtain ⟨k, v⟩ := c
    have hc := (memory_wf_cons _ _).mp h
    simp only [memWrite]
    split
    · rename_i hak
      split
      · exact h
      · rename_i hb
        refine (memory_wf_cons _ _).mpr ⟨hb, ?_, h⟩
        intro d hd
        rcases List.mem_cons.mp hd with rfl | hd
        · exact hak
        · exact Nat.lt_trans hak (hc.2.1 d hd)
    · split
      · rename_i hak
        split
        · exact hc.2.2
        · rename_i hb
          exact (memory_wf_cons _ _).mpr ⟨hb, fun d hd => by have := hc.2.1 d hd; simp_all, hc.2.2⟩
      · refine (memory_wf_cons _ _).mpr ⟨hc.1, ?_, ih hc.2.2⟩
        intro d hd
        rcases mem_memWrite _ _ _ _ hd with hd | rfl
        · exact hc.2.1 d hd
        · simp only; omega

theorem memWriteAll_wf (bs : List Byte) (m : List Host.Cell) (a : Nat) (h : Memory.wf m = true) :
    Memory.wf (memWriteAll m a bs) = true := by
  induction bs generalizing m a with
  | nil => exact h
  | cons b bs ih => exact ih _ _ (memWrite_wf _ _ _ h)

/-- Taking cells away keeps the canonical form. -/
theorem memFilter_wf (m : List Host.Cell) (p : Host.Cell → Bool) (h : Memory.wf m = true) :
    Memory.wf (m.filter p) = true := by
  induction m with
  | nil => rfl
  | cons c m ih =>
    have hc := (memory_wf_cons _ _).mp h
    rw [List.filter_cons]
    split
    · exact (memory_wf_cons _ _).mpr ⟨hc.1, fun d hd => hc.2.1 d (List.mem_filter.mp hd).1, ih hc.2.2⟩
    · exact ih hc.2.2

theorem memZero_wf (m : List Host.Cell) (a n : Nat) (h : Memory.wf m = true) : Memory.wf (memZero m a n) = true :=
  memFilter_wf _ _ h

/-- The hearth memory of the reset state is canonical: nothing is listed. -/
theorem reset_memory_wf : Memory.wf State.reset.hrt.mem = true := rfl

/-! ### Reads after writes -/

theorem memRead_memWrite (m : List Host.Cell) (a x : Nat) (b : Byte) (h : Memory.wf m = true) :
    memRead (memWrite m a b) x = if x = a then b else memRead m x := by
  induction m with
  | nil =>
    simp only [memWrite]
    split
    · rename_i hb; simp [memRead, hb]
    · by_cases hx : x = a
      · subst hx; simp [memRead]
      · simp only [memRead]; rw [if_neg (fun e => hx e.symm), if_neg hx]; simp
  | cons c m ih =>
    obtain ⟨k, v⟩ := c
    have hc := (memory_wf_cons _ _).mp h
    have hlow : ∀ y, y ≤ k → memRead m y = memBlank := fun y hy =>
      memRead_below m y fun d hd => Nat.lt_of_le_of_lt hy (hc.2.1 d hd)
    have := ih hc.2.2
    simp only [memWrite]
    split
    · rename_i hak
      by_cases hb : b = memBlank
      · rw [if_pos hb]
        by_cases hx : x = a
        · subst hx; simp only [memRead, if_pos rfl, hb]; rw [if_neg (by omega), if_pos hak]; simp
        · rw [if_neg hx]
      · rw [if_neg hb]
        by_cases hx : x = a
        · subst hx; simp [memRead]
        · rw [if_neg hx]
          simp only [memRead]
          rw [if_neg (fun e => hx e.symm)]
          by_cases hxa : x < a
          · rw [if_pos hxa, if_neg (by omega), if_pos (by omega)]
          · rw [if_neg hxa]
    · split
      · rename_i hak
        subst hak
        by_cases hb : b = memBlank
        · rw [if_pos hb]
          by_cases hx : x = a
          · subst hx; rw [hlow _ (Nat.le_refl _), if_pos rfl, hb]
          · rw [if_neg hx]
            simp only [memRead]
            rw [if_neg (fun e => hx e.symm)]
            by_cases hxa : x < a
            · rw [if_pos hxa, hlow _ (by omega)]
            · rw [if_neg hxa]
        · rw [if_neg hb]
          by_cases hx : x = a
          · subst hx; simp [memRead]
          · have hx' : ¬a = x := fun e => hx e.symm
            simp only [memRead, if_neg hx, if_neg hx']
      · simp only [memRead]
        rw [this]
        by_cases hx : x = a
        · subst hx; rw [if_neg (by omega), if_neg (by omega)]; simp
        · simp [hx]

/-- A run of bytes written reads back in its place, and every other byte stands. -/
theorem memRead_memWriteAll (bs : List Byte) (m : List Host.Cell) (a x : Nat) (h : Memory.wf m = true) :
    memRead (memWriteAll m a bs) x =
      if a ≤ x ∧ x < a + bs.length then bs.getD (x - a) 0 else memRead m x := by
  induction bs generalizing m a with
  | nil => simp only [memWriteAll, List.length_nil]; rw [if_neg (by omega)]
  | cons b bs ih =>
    simp only [memWriteAll]
    rw [ih _ _ (memWrite_wf _ _ _ h), memRead_memWrite _ _ _ _ h]
    simp only [List.length_cons]
    by_cases hx : x = a
    · subst hx; rw [if_neg (by omega), if_pos rfl, if_pos (by omega)]; simp
    · rw [if_neg hx]
      by_cases hr : a + 1 ≤ x ∧ x < a + 1 + bs.length
      · rw [if_pos hr, if_pos (by omega)]
        obtain ⟨d, rfl⟩ : ∃ d, x = a + 1 + d := ⟨x - (a + 1), by omega⟩
        have h1 : a + 1 + d - (a + 1) = d := by omega
        have h2 : a + 1 + d - a = d + 1 := by omega
        rw [h1, h2]; simp
      · rw [if_neg hr, if_neg (by omega)]

/-- A range that is cleared reads blank, and every other byte stands. -/
theorem memRead_filter (m : List Host.Cell) (p : Nat → Bool) (x : Nat) (h : Memory.wf m = true) :
    memRead (m.filter fun c => p c.1) x = if p x then memRead m x else memBlank := by
  induction m with
  | nil => simp [memRead]
  | cons c m ih =>
    obtain ⟨k, v⟩ := c
    have hc := (memory_wf_cons _ _).mp h
    have hlow : ∀ y, y ≤ k → memRead (m.filter fun c => p c.1) y = memBlank := fun y hy =>
      memRead_below _ y fun d hd => Nat.lt_of_le_of_lt hy (hc.2.1 d (List.mem_filter.mp hd).1)
    rw [List.filter_cons]
    by_cases hk : x = k
    · subst hk
      by_cases hp : p x = true
      · simp [hp, memRead]
      · simp [hp, hlow]
    · by_cases hl : x < k
      · by_cases hp : p k = true
        · simp only [hp, if_pos, memRead, if_neg (fun e : k = x => hk e.symm), if_pos hl]; simp
        · simp only [hp]
          rw [if_neg (by simp), hlow _ (by omega)]
          simp [memRead, if_neg (fun e : k = x => hk e.symm), hl]
      · by_cases hp : p k = true
        · simp only [hp, if_pos, memRead, if_neg (fun e : k = x => hk e.symm), if_neg hl]; exact ih hc.2.2
        · simp only [hp]
          rw [if_neg (by simp), ih hc.2.2]
          simp [memRead, if_neg (fun e : k = x => hk e.symm), hl]

theorem memRead_memZero (m : List Host.Cell) (a n x : Nat) (h : Memory.wf m = true) :
    memRead (memZero m a n) x = if a ≤ x ∧ x < a + n then memBlank else memRead m x := by
  unfold memZero
  rw [memRead_filter m (fun y => !(decide (a ≤ y) && decide (y < a + n))) x h]
  by_cases hx : a ≤ x ∧ x < a + n
  · simp [hx.1, hx.2]
  · rw [if_neg hx, if_pos]
    simp only [Bool.not_eq_true', Bool.and_eq_false_iff, decide_eq_false_iff_not]
    omega

end Sys2Proof.Machine
end

