-- ==== Sys2Proof/Laws/Resets.lean ====
section
/-!
SUPPORT. What a cold and a warm reset do to each part of the state (Table 3.4).
-/

namespace Sys2Proof.Machine

/-! ### Cold reset -/

@[simp] theorem coldReset_pending (s : State) (c : Nat) : (coldReset s c).pending = s.pending := rfl
@[simp] theorem coldReset_localNs (s : State) (c : Nat) : (coldReset s c).localNs = s.localNs := rfl
@[simp] theorem coldReset_pins (s : State) (c : Nat) : (coldReset s c).pins = { s.pins with faultN := true } := rfl
@[simp] theorem coldReset_rails (s : State) (c : Nat) : (coldReset s c).pwr.rails = s.pwr.rails := rfl
@[simp] theorem coldReset_tripped (s : State) (c : Nat) : (coldReset s c).pwr.tripped = s.pwr.tripped := rfl
@[simp] theorem coldReset_mem (s : State) (c : Nat) : (coldReset s c).hrt.mem = [] := rfl
@[simp] theorem coldReset_ses (s : State) (c : Nat) :
    (coldReset s c).ses = { floor := s.ses.floor, retired := s.ses.retired } := rfl
@[simp] theorem coldReset_rdg (s : State) (c : Nat) : (coldReset s c).rdg = {} := rfl
@[simp] theorem coldReset_host (s : State) (c : Nat) : (coldReset s c).host = {} := rfl
@[simp] theorem coldReset_desc (s : State) (c : Nat) : (coldReset s c).desc = [] := rfl
@[simp] theorem coldReset_fwu (s : State) (c : Nat) : (coldReset s c).fwu = flashOnly s.fwu := rfl

/-! ### Warm reset -/

/-- The answers to other parts' descriptors leave everything but the sending side alone. -/
theorem quiet_answers (l : List InFlight) (s : State) :
    (l.foldl (fun s d => completeOne s d.origin [.cancelled] (abortResult s d)) s).quiet = s.quiet := by
  apply quiet_foldl; intro s a; simp

/-- The same, of the descriptors of other parts. -/
@[simp] theorem quiet_endGuests (s : State) : (endGuests s).quiet = s.quiet := quiet_answers _ s

/-- A warm reset is the fallback or the plain state of R41 over a state that differs from the one before it by the
answers to other parts' descriptors alone. -/
theorem warmReset_cases (s : State) (c : Nat) :
    ∃ u : State, u.quiet = s.quiet ∧
      warmReset s c = logEvent (if s.fbx.policy && !s.fwu.confirmed then warmState (fallbackImage u) 7
        else warmState u c) 14 0 (if s.fbx.policy && !s.fwu.confirmed then 7 else c) := by
  refine ⟨_, quiet_endGuests s, ?_⟩
  unfold warmReset fallback
  split <;> rfl

/-- What a warm reset discards in the tiers leaves everything but the image and tier tables alone. -/
theorem discardWork_keeps {β : Type} (g : State → β) (hi : ∀ s f, g (State.onImg s f) = g s)
    (ht : ∀ s f, g (State.onTie s f) = g s) (s : State) : g (discardWork s) = g s := by
  have hf : ∀ s t n, g (freeGranules s t n) = g s := by
    intro s t n; unfold freeGranules; split
    · rfl
    · exact ht s _
  unfold discardWork
  simp only []
  rw [foldl_keeps g _ (fun s a => hf s _ _), hi, foldl_keeps g _ (fun s a => by
    unfold discardLoad freeRows; rw [hi, ht, hf])]

@[simp] theorem discardWork_pins (s : State) : (discardWork s).pins = s.pins :=
  discardWork_keeps (·.pins) (fun _ _ => rfl) (fun _ _ => rfl) s
@[simp] theorem discardWork_ses (s : State) : (discardWork s).ses = s.ses :=
  discardWork_keeps (·.ses) (fun _ _ => rfl) (fun _ _ => rfl) s
@[simp] theorem discardWork_pwr (s : State) : (discardWork s).pwr = s.pwr :=
  discardWork_keeps (·.pwr) (fun _ _ => rfl) (fun _ _ => rfl) s
@[simp] theorem discardWork_host (s : State) : (discardWork s).host = s.host :=
  discardWork_keeps (·.host) (fun _ _ => rfl) (fun _ _ => rfl) s
@[simp] theorem discardWork_desc (s : State) : (discardWork s).desc = s.desc :=
  discardWork_keeps (·.desc) (fun _ _ => rfl) (fun _ _ => rfl) s
@[simp] theorem discardWork_mem (s : State) : (discardWork s).hrt.mem = s.hrt.mem :=
  discardWork_keeps (·.hrt.mem) (fun _ _ => rfl) (fun _ _ => rfl) s
@[simp] theorem discardWork_rdg (s : State) : (discardWork s).rdg = s.rdg :=
  discardWork_keeps (·.rdg) (fun _ _ => rfl) (fun _ _ => rfl) s

@[simp] theorem warmState_pins (s : State) (c : Nat) : (warmState s c).pins = s.pins := discardWork_pins s
@[simp] theorem warmState_hrt_mem (s : State) (c : Nat) : (warmState s c).hrt.mem = s.hrt.mem := discardWork_mem s
@[simp] theorem warmState_tie (s : State) (c : Nat) : (warmState s c).tie = (discardWork s).tie := rfl
@[simp] theorem warmState_img (s : State) (c : Nat) : (warmState s c).img = (discardWork s).img := rfl
@[simp] theorem warmState_regions (s : State) (c : Nat) : (warmState s c).rdg.regions = s.rdg.regions :=
  show (discardWork s).rdg.regions = _ from by rw [discardWork_rdg]
@[simp] theorem warmState_table (s : State) (c : Nat) :
    (warmState s c).ses.table = s.ses.table.map settleSession :=
  congrArg (fun t : Sessions => t.table.map settleSession) (discardWork_ses s)
@[simp] theorem warmState_rails (s : State) (c : Nat) : (warmState s c).pwr.rails = s.pwr.rails :=
  show (discardWork s).pwr.rails = _ from by rw [discardWork_pwr]

/-- With the running image confirmed, or under ROM recovery, a warm reset is no fallback. -/
theorem warmReset_plain (s : State) (c : Nat) (h : s.fbx.policy = false ∨ s.fwu.confirmed = true) :
    ∃ u : State, u.quiet = s.quiet ∧ warmReset s c = logEvent (warmState u c) 14 0 c := by
  obtain ⟨u, hq, hw⟩ := warmReset_cases s c
  have hp : (s.fbx.policy && !s.fwu.confirmed) = false := by
    cases h with
    | inl h => simp [h]
    | inr h => simp [h]
  exact ⟨u, hq, by simpa [hp] using hw⟩

end Sys2Proof.Machine
end

