-- ==== Sys2Proof/Tests/Slice0.lean ====
section
/-!
SUPPORT. Tests: for each statement concrete states and operands that meet its hypotheses together, with what one step
gives there; ill-formed commands that the checks refuse. Expected values follow from the spec's rules and tables.
-/

namespace Sys2Proof.Tests
open Sys2Proof.Machine
set_option Elab.async false

/-! ### Small states -/

/-- A rail that stands good. -/
def goodRail : RailState := { up := true, pgood := true }

/-- A part in reset whose rails have stood good for 2 ms. -/
def inReset : State :=
  { State.reset with localNs := 2000000, pwr := { ({} : Power) with rails := List.replicate 7 goodRail, pgoodSince := some 0 } }

/-- A queue pair's context: rings of 64 entries, tenant 7. -/
def ctx7 : QpContext :=
  { sqBase := 0x10000, cqBase := 0x20000, flueBase := 0x30000, snapBase := 0x40000, sqLog2 := 6, cqLog2 := 6, flueLog2 := 6,
    tenant := 7, pasid := 3, maxInflight := 16 }

/-- A ready part with the host attached and queue pair 0 enabled for tenant 7. -/
def up : State :=
  { State.reset with
    localNs := 5000000000
    pins := { porstN := true }
    pwr := { rails := List.replicate 7 goodRail, pgoodSince := some 0, heldInReset := false, ready := true, everReady := true, bootStage := 6,
             stateLost := false }
    host := { modulesUp := 0xF, attached := true, version := 1, qps := [{ id := 0, state := .enabled, ctx := ctx7, sqTail := 1 }] }
    tie := { grates := 16 }
    knd := { units := 8 }
    fbx := { identityOk := true, trngOk := true, wrapKey := some 0, draws := 1 } }

/-- The origin of the descriptors below: submission 0 of queue pair 0. -/
def o0 : Origin := .qp 0 0

/-- A descriptor of an opcode and a handle with further fields, placed. -/
def rawOf (op : Nat) (handle : Word) (more : List Nat) : BitVec 512 :=
  BitVec.ofNat 512 ([put 7 0 op, put 11 8 1, put 191 128 handle.toNat].foldl (· + ·) 0 + more.foldl (· + ·) 0)

/-- The same as waiting in flight. -/
def waits (raw : BitVec 512) : InFlight := { origin := o0, tenant := 7, operator := true, raw := raw }

/-- The ready part with one such descriptor. -/
def withDesc (s : State) (raw : BitVec 512) : State := { s with desc := [waits raw] }

/-- What a command's next state holds. -/
def after (a : Answer) (p : State → Bool) : Bool :=
  match a with
  | .next t => p t
  | _ => false

/-- The ready part with changed power state. -/
def withPwr (f : Power → Power) : State := { up with pwr := f up.pwr }

/-- A session descriptor finds its session and can start. -/
def runsOn (a : Option (InFlight × Except (Status × Word) Session)) (d : InFlight) (x : Session) : Bool :=
  match a with
  | some (e, .ok y) => e == d && y == x
  | _ => false

theorem runsOn_eq {a : Option (InFlight × Except (Status × Word) Session)} {d : InFlight} {x : Session}
    (h : runsOn a d x = true) : a = some (d, .ok x) := by
  match a with
  | none => simp [runsOn] at h
  | some (e, .error w) => simp [runsOn] at h
  | some (e, .ok y) =>
    simp only [runsOn, Bool.and_eq_true, beq_iff_eq] at h
    rw [h.1, h.2]

/-! ### Hypotheses of the statements, met: queue, resets, start-up -/

theorem test_StepRunsFrontCommand : ({ State.reset with pending := [.getVersion] } : State).pending = .getVersion :: [] := rfl

theorem test_EmptyQueueStepsTheCounter : State.reset.pending = [] := rfl

theorem test_StepKeepsWellShaped : WellShaped State.reset ∧ ∃ t, step State.reset = .next t := ⟨by decide, _, rfl⟩

/-- A dip episode whose 200 µs have passed. -/
def longDip : State :=
  withPwr fun p => { p with dipActive := true, heldNow := true, dipStart := 4999799999, rails := setAt p.rails 0 { up := true, below := true } }

theorem test_ColdResetCauses :
    up.pins.porstN = true ∧ up.pwr.tripped = false ∧ tripPoint .hearth ≤ 105 ∧ Rail.vddCore ≠ .vddAux ∧
    615 < (railLevels .vddCore).2.2 ∧ 1619 < 1620 ∧
    (let s : State := { up with pwr := { up.pwr with tripped := true }, pins := { up.pins with thermTripN := false } }
     s.pins.porstN = true ∧ s.pwr.tripped = true ∧ (∀ r ∈ [(⟨.hearth, 0, 104⟩ : Reading)], r.celsius < tripPoint r.sensor) ∧
      after (exec (.porstNAssert [⟨.hearth, 0, 104⟩]) s) (fun t => t.pins.thermTripN) = true ∧
      after (exec (.porstNAssert [⟨.hearth, 0, 105⟩]) s) (fun t => !t.pins.thermTripN) = true) ∧
    (longDip.pwr.dipActive = true ∧ longDip.pwr.dipInjected = false ∧ railsRecovered longDip = false ∧
      longDip.pwr.dipStart + 200000 < longDip.localNs) ∧
    (let s : State := { up with pwr := { up.pwr with watchdogs := [1, 2] } }
     s.pwr.everReady = true ∧ (s.fbx.policy = false ∨ s.fwu.confirmed = true) ∧ s.pwr.watchdogs = [1, 2] ∧
      s.localNs < 1 + 600000000000 ∧ s.localNs < 2 + 600000000000) := by decide +kernel

theorem test_WarmResetCauses :
    (up.pwr.everReady = true ∧ up.pins.warmrstN = true ∧ (up.fbx.policy = false ∨ up.fwu.confirmed = true)) ∧
    (∀ i ∈ up.img.slots, i.state ≠ .waiting ∧ i.state ≠ .unloading) ∧
    State.reset.pwr.everReady = false ∧ up.pwr.watchdogs.length ≤ 1 := by decide +kernel

theorem test_StartUpRunsInOrder :
    (inReset.pins.porstN = false ∧ gateOpenForStart inReset 1000000 = true) ∧
    (fld (8 : BitVec 4) 3 2 = 2 ∧ fld (4 : BitVec 4) 3 2 = 1) ∧
    (fld (0 : BitVec 4) 3 2 ≠ 1 ∧ fld (0 : BitVec 4) 3 2 ≠ 2 ∧ inReset.fwu.romRecovery = false ∧
      slotBoots inReset.fwu 0 = true ∧ dieFailed [] = false ∧
      after (exec (.porstNRelease 0 ⟨1000000, true, [], {}⟩ []) inReset) (fun t => t.pwr.bootStage == 4) = true) ∧
    (inReset.pins.porstN = false ∧ gateOpenForStart inReset 999999 = false) ∧
    (let s : State := { inReset with pins := { porstN := true }, fwu := { inReset.fwu with romRecovery := true } }
     s.pins.porstN = true ∧ gateOpenForStart s 1000000 = true ∧ fld s.pins.straps 3 2 ≠ 2 ∧ s.fwu.romRecovery = true) ∧
    (let s : State := { up with pwr := { up.pwr with bootStage := 4 } }
     s.pwr.bootStage = 4) ∧
    (let s : State := { up with rdg := { up.rdg with ports := [{ number := 0, state := .training }] } }
     0 < 6 ∧ (s.port 0).state = .training) ∧
    (let s : State := { up with pwr := { up.pwr with bootStage := 5, found := { grates := 15, kindling := 7 } } }
     s.pwr.bootStage = 5 ∧ ridgeTrained s = true ∧
      after (exec .startupComplete s) (fun t => t.tie.grates == 15 && t.knd.units == 7) = true) := by decide +kernel

/-- A warm reset held by its pin, with one trained channel. -/
def warm : State :=
  { up with pwr := { up.pwr with warmHeld := true, links := [{ link := 0 }] } }

theorem test_WarmRecoveryEndsReady :
    (warm.pwr.warmHeld = true ∧ (.channel 0 : Link) ∈ [(.channel 0 : Link)] ∧ ({ link := 0 } : Trained) ∈ warm.pwr.links ∧
      linkId (.channel 0) = 0 ∧ warm.pwr.heldNow = false ∧ bit warm.pwr.marginCtl 16 = true ∧
      (∀ b ∈ warm.pwr.links, b.retraining = false ∧ b.due = false)) ∧
    (let s : State := { up with pwr := { up.pwr with recovering := true } }
     s.pwr.recovering = true ∧ s.pwr.warmHeld = false ∧ checksLeft s.pwr = false) ∧
    (let s : State := { up with pwr := { up.pwr with recovering := true, links := [{ link := 0 }], warmDue := [0] } }
     checksLeft s.pwr = true ∧ owesCheck s { link := 0 } = true ∧
      after (exec (.marginCheck (.channel 0) ⟨69, 80⟩ 60) s) (fun t => !checksLeft t.pwr && t.pwr.links.any (·.retraining)) =
        true) := by decide +kernel

/-! ### Rails, supply, heat, links, registers -/

/-- An episode on VDD_CORE that began 150 µs ago. -/
def dip : State :=
  withPwr fun p => { p with dipActive := true, heldNow := true, dipStart := 4999850000, dipRails := [.vddCore], rails := setAt p.rails 0 { up := true, below := true } }

theorem test_RailsRiseInGroups :
    (WellShaped State.reset ∧ mayRise State.reset .vddqLp = false ∧ (railOf State.reset .vddqLp).up = false) ∧
    (WellShaped up ∧ mayRise up .vddCore = true) ∧
    after (exec (.sequenceFault .vddqLp) State.reset) (fun t => t.pwr.seqFault && t.pwr.faultGroup == railGroup .vddqLp) = true := by
  decide +kernel

theorem test_DipEpisodeHoldsAndResumes :
    up.pwr.dipActive = false ∧ warningCounts .vddCore (.level 650 20) = true ∧ warningCounts .vddCore (.level 650 19) = false ∧
    recoveryCounts .vddCore 659 2000 = true ∧
    (WellShaped dip ∧ dip.pwr.dipActive = true ∧ dip.pwr.dipInjected = false) ∧
    after (exec (.railRecovered ⟨.vddCore, 659, 2000⟩) dip) (fun t => !t.pwr.heldNow && t.pwr.dipLastUp == 4999998000) = true ∧
    (let s := withPwr fun p => { p with dipActive := true, dipStart := 4999697500, dipLastUp := 4999897000, dipRecoveredAt := 4999899000 }
     s.pwr.dipActive = true ∧ injectedEnd s.pwr ≤ s.localNs ∧ railsRecovered s = true ∧
      s.pwr.dipRecoveredAt + 100000 ≤ s.localNs ∧ 4999897000 = max s.pwr.dipLastUp (injectedEnd s.pwr) ∧
      4999897000 ≤ s.pwr.dipStart + 200000 ∧ s.pwr.heldNow = false ∧
      after (exec .dipEpisodeEnd s) (fun t => t.pwr.dipCount == 1 && t.pwr.lastDipUs == 200 && !t.pwr.dipActive) = true) := by
  decide +kernel

theorem test_DipRails : (∀ q, (railOf dip q).up = true) ∧
    ∀ q, q ≠ .vddCore → (railOf dip q).below = false ∧ (railOf dip q).pgood = true := by
  constructor <;> intro q <;> cases q <;> decide

theorem test_ThrottlingSetsTheStage :
    (up.pins.throttleN = true ∧ throttlePoint .hearth ≤ 95) ∧
    90 + 5 ≤ throttlePoint .hearth ∧ (10000000 : Nat) ≤ 10000000 ∧
    after (exec (.thermalThrottle { sensor := .hearth, celsius := 95 }) up) (fun t => shedStage t == 6) = true := by decide +kernel

/-- Islands of each role under the cap. -/
def capped : State :=
  { withPwr (fun p => { p with emberPacing := 1, quietSince := some 0 }) with
    stv := { islands := [{ number := 0, role := .embed }, { number := 1, role := .prefill }, { number := 2, role := .decode }] } }

theorem test_PowerCapShedsInOrder :
    (let s : State := { capped with pwr := up.pwr }
     fld s.pwr.capCtl 10 0 < 1601 ∧ anyShed s.pwr = false ∧ roleCount s .embed ≠ 0 ∧
      after (exec (.powerCapEvaluation 1601 1601 0 []) s) (fun t => t.pwr.capHit && t.pwr.shedEmbed != 0) = true) ∧
    (let s : State := { capped with pwr := { up.pwr with shedEmbed := 5 } }
     after (exec (.powerCapEvaluation 1601 1601 0 []) s) (fun t => decide (s.pwr.shedPrefill < t.pwr.shedPrefill)) = true) ∧
    (let s : State := { capped with pwr := { up.pwr with shedEmbed := 5, shedPrefill := 5 } }
     after (exec (.powerCapEvaluation 1601 1601 0 []) s) (fun t => decide (s.pwr.shedDecode < t.pwr.shedDecode)) = true) ∧
    (let s : State := { capped with pwr := { up.pwr with shedEmbed := 5, shedPrefill := 5, shedDecode := 5 } }
     after (exec (.powerCapEvaluation 1601 1601 0 []) s) (fun t => decide (s.pwr.emberPacing < t.pwr.emberPacing)) = true) ∧
    (capHolds capped.pwr.capCtl 1000 500 [] 95 = true ∧ capHolds capped.pwr.capCtl 1000 500 [] 100 = true ∧
      capped.pwr.throttled = [] ∧ capped.pwr.quietSince = some 0 ∧ 0 + capWindow capped.pwr.capCtl ≤ capped.localNs ∧
      0 < capped.pwr.emberPacing ∧
      after (exec (.powerCapEvaluation 1000 1000 500 []) capped) (fun t => t.pwr.emberPacing == 0) = true) := by decide +kernel

/-- Channel 0 trained at 60 °C. -/
def trained : State := withPwr fun p => { p with links := [{ link := 0, celsius := some 60 }] }

/-- Channel 0 in its retraining window. -/
def retraining : State := withPwr fun p => { p with links := [{ link := 0, celsius := some 60, retraining := true }] }

theorem test_MarginChecksRetrain :
    (lookupBy (·.link) (linkId (.channel 0)) trained.pwr.links = some { link := 0, celsius := some 60 }) ∧
    after (exec (.marginCheck (.channel 0) ⟨69, 80⟩ 60) trained) (fun t => t.pwr.links.any (·.retraining)) = true ∧
    checkTurn trained { link := 0, celsius := some 60 } = true ∧
    checkTurn (withPwr fun p => { p with links := [{ link := 0, checkedAt := some 4999999999 }] })
      { link := 0, checkedAt := some 4999999999 } = false ∧
    after (exec (.marginCheck (.channel 0) ⟨70, 80⟩ 70) trained) (fun t => t.pwr.links.all (!·.retraining)) = true ∧
    (lookupBy (·.link) (linkId (.channel 0)) retraining.pwr.links = some { link := 0, celsius := some 60, retraining := true } ∧
      retraining.pwr.heldNow = false) ∧
    (let l : Trained := { link := 97, celsius := some 60, retraining := true }
     let s := withPwr fun p => { p with links := [l] }
     lookupBy (·.link) (linkId (.lane 1)) s.pwr.links = some l ∧ s.pwr.heldNow = false ∧
      after (exec (.retrainEnd (.lane 1) 61) s) (fun t => t.pwr.ridgeRetrains == 1) = true) := by decide +kernel

theorem test_HoldKeepsLinksDiverted :
    dip.pwr.heldNow = true ∧
    (retraining.pwr.heldNow = false ∧
      lookupBy (·.link) (linkId (.channel 0)) retraining.pwr.links = some { link := 0, celsius := some 60, retraining := true }) := by
  decide +kernel

theorem test_RegisterWritesObeyTheWindow :
    (4 ≠ 8 ∧ 0x1004 % 8 ≠ 0 ∧ 0x4000000 ≤ 0x4000000 ∧ State.reset.pwr.ready = false ∧ earlyBlock 0x1000 = false ∧
      earlyBlock 0x2000000 = false) ∧
    (up.pwr.ready = true ∧ earlyBlock 0xD0018 = true ∧ (registerFields State.reset 0xD0018).isSome = true) ∧
    after (exec (.registerWrite 0xD0000 8 0) State.reset) (fun t => fld t.pwr.capCtl 10 0 == 600) = true ∧
    after (exec (.registerWrite 0xC0010 8 0xFF00) up) (fun t => fld t.pwr.marginCtl 15 8 == 90) = true := by decide +kernel

/-! ### Host port -/

/-- The ready part with its queue pair 0 changed. -/
def withQp (f : QueuePair → QueuePair) : State :=
  { up with host := { up.host with qps := [f { id := 0, state := .enabled, ctx := ctx7, sqTail := 1 }] } }

/-- The ready part with every queue pair DISABLED and a context table. -/
def idleHost : State := { up with host := { up.host with qps := [], tableBase := 0x50000 } }

/-- A context entry of tenant 7 with rings of 64 entries (Table 4.3). -/
def entry7 : BitVec 512 :=
  BitVec.ofNat 512 ([put 63 0 0x10000, put 127 64 0x20000, put 191 128 0x30000, put 255 192 0x40000, put 260 256 6, put 265 261 6,
    put 270 266 6, put 283 272 7, put 307 288 3, put 457 448 16].foldl (· + ·) 0)

theorem test_LinkAndAttachment :
    up.host.modulesUp &&& ~~~ BitVec.ofNat 4 (1 <<< 3) ≠ 0 ∧
    (let s : State := { up with host := {} }
     s.pwr.ready = true ∧ bit (0x101 : Word) 8 = true ∧ s.host.attached = false ∧ fld (0x101 : Word) 3 0 = 1 ∧
      fld (0x102 : Word) 3 0 ≠ 1 ∧ after (exec (.attach 0x111) s) (fun t => t.host.attached && t.host.compat) = true ∧
      after (exec (.attach 0x102) s) (fun t => !t.host.attached && t.host.attachStatus == 0x0403) = true) := by decide +kernel

theorem test_QpTableBaseNeedsAllDisabled :
    (idleHost.pwr.ready = true ∧ ∀ q ∈ idleHost.host.qps, q.state = .disabled) ∧
    (∃ q ∈ up.host.qps, q.state ≠ .disabled) ∧
    (let s : State := { idleHost with host := { idleHost.host with tableBase := 0 } }
     s.pwr.ready = true ∧ s.host.cmdBusy = false ∧ s.host.attached = true ∧ (s.qp 5).state = .disabled ∧ s.host.tableBase = 0 ∧
      after (exec (.qpEnable 5 (some entry7)) s) (fun t => t.host.cmdResult == 2) = true) := by decide +kernel

theorem test_QueuePairCommands :
    (idleHost.pwr.ready = true ∧ idleHost.host.cmdBusy = false ∧ idleHost.host.attached = true) ∧
    ((idleHost.qp 8191).state = .disabled ∧ idleHost.host.tableBase ≠ 0 ∧ (readContext entry7).valid = true ∧
      after (exec (.qpEnable 8191 (some entry7)) idleHost) (fun t => (t.qp 8191).state == .enabled) = true) ∧
    (up.qp 0).state ≠ .disabled ∧
    (let s := withQp fun q => { q with state := .halted, cause := 1 }
     (s.qp 0).state = .halted ∧ (readContext entry7).tenant = (s.qp 0).ctx.tenant ∧
      (readContext entry7).operator = (s.qp 0).ctx.operator ∧ s.inflightOf 0 = [] ∧
      after (exec (.qpResume 0 (some entry7)) s) (fun t => (t.qp 0).state == .enabled) = true ∧
      after (exec (.qpDisable 0) s) (fun t => (t.qp 0).state == .disabled && t.host.cmdResult == 0) = true) := by decide +kernel

theorem test_DisableStaysBusyForOtherParts :
    let s : State := { up with host := { up.host with cmdBusy := true, cmdQp := 0, cmdAt := 4999900000 } }
    s.host.cmdBusy = true ∧ s.host.cmdQp = 0 ∧ s.host.cmdAt + 100000 ≤ s.localNs ∧
      after (exec (.qpDisableDone 0) s) (fun t => !t.host.cmdBusy) = true := by decide +kernel

theorem test_DoorbellsBoundTheirCounts :
    let s := withQp fun q => { q with sqNext := 1, cqNext := 2, flueNext := 2, flight := { q.flight with next := 2 } }
    s.pwr.ready = true ∧ (s.qp 0).state = .enabled ∧
    (BitVec.ofNat 32 (fld (65 : Word) 31 0) ≠ (s.qp 0).sqTail ∧ dist (s.qp 0).sqNext (65#32) ≤ 2 ^ (s.qp 0).ctx.sqLog2) ∧
    (2#32 ≠ (s.qp 0).cqHead ∧ dist (s.qp 0).cqHead 2#32 ≤ dist (s.qp 0).cqHead (s.qp 0).cqNext) ∧
    (2#32 ≠ (s.qp 0).flueHead ∧ dist (s.qp 0).flueHead 2#32 ≤ dist (s.qp 0).flueHead (s.qp 0).flueNext) ∧
    (2#32 ≠ (s.qp 0).flight.head ∧ dist (s.qp 0).flight.head 2#32 ≤ dist (s.qp 0).flight.head (s.qp 0).flight.next) ∧
    (66#32 ≠ (s.qp 0).sqTail ∧ 2 ^ (s.qp 0).ctx.sqLog2 < dist (s.qp 0).sqNext 66#32) ∧
    after (exec (.sqTailWrite 0 65) s) (fun t => (t.qp 0).sqTail == 65) = true ∧
    after (exec (.sqTailWrite 0 66) s) (fun t => (t.qp 0).sqTail == 1 && (t.qp 0).cqNext == 3) = true := by decide +kernel

theorem test_FetchTakesEachSubmissionOnce :
    (mayFetch up 0 = true ∧ (up.qp 0).reReads = 0 ∧ dSeq (rawOf 0 0 []) = (up.qp 0).sqNext ∧
      dSeq (rawOf 0 0 [put 63 32 1]) ≠ (up.qp 0).sqNext) ∧
    (let s := withQp fun q => { q with reReads := 4 }
     s.pwr.ready = true ∧ (s.qp 0).state = .enabled ∧ (s.qp 0).reReads ≠ 0 ∧
      after (exec (.seqReread 0 (rawOf 0 0 [put 63 32 9])) s) (fun t => (t.qp 0).state == .halted && (t.qp 0).cause == 1) = true ∧
      after (exec (.seqReread 0 (rawOf 0 0 [])) s) (fun t => (t.qp 0).sqNext == 1) = true) ∧
    ((withQp fun q => { q with reReads := 3 }).qp 0).reReads < 4 ∧
    (up.qp 0).state = .enabled ∧
    (let s := withQp fun q => { q with signalAt := some 4999990000, ctx := { ctx7 with irqEnable := true, coalesceUs := 10 } }
     (s.qp 0).signalAt = some 4999990000 ∧ (s.qp 0).ctx.irqEnable = true ∧
      4999990000 + 1000 * (s.qp 0).ctx.coalesceUs ≤ s.localNs) := by decide +kernel

theorem test_NopCompletesWithOk :
    (let s := withDesc up (rawOf opNop 0 [])
     canStart s o0 opNop = some (waits (rawOf opNop 0 [])) ∧ (s.qp 0).state = .enabled ∧
      (waits (rawOf opNop 0 [])).conds = [] ∧ (waits (rawOf opNop 0 [])).discard = false) ∧
    (let d : InFlight := { waits (rawOf opNop 0 [put 16 16 1, put 63 32 1]) with origin := .qp 0 1 }
     let s : State := { up with desc := [waits (rawOf opNop 0 []), d] }
     s.descriptor (.qp 0 1) = some d ∧ dFence d.raw = true ∧
      ∃ e ∈ s.before d.origin, sameQueue e.origin d.origin = true) := by decide +kernel

theorem test_CancelAndDeadlineEndDescriptors :
    (let r := rawOf opCancel 0 [put 287 256 9]
     let s := withDesc up r
     canStart s o0 opCancel = some (waits r) ∧ s.descriptor (.qp 0 (BitVec.ofNat 32 (fld r 287 256))) = none) ∧
    (let r := rawOf opCancel 0 [put 63 32 1, put 287 256 0]
     let d : InFlight := { waits r with origin := .qp 0 1 }
     let s : State := { up with desc := [waits (rawOf opNop 0 []), d] }
     canStart s (.qp 0 1) opCancel = some d ∧ s.descriptor o0 = some (waits (rawOf opNop 0 [])) ∧
      fld r 287 256 = 0 ∧ seqBefore (BitVec.ofNat 32 (fld d.raw 287 256)) 1 = true ∧
      after (exec (.queueCancel (.qp 0 1)) s) (fun t => t.desc == []) = true) ∧
    (let d : InFlight := { waits (rawOf opPark 0 []) with deadline := some 5000000000 }
     let s : State := { up with desc := [d] }
     s.descriptor o0 = some d ∧ d.phase = .waiting ∧ (5000000000 : Nat) ≤ s.localNs ∧
      after (exec (.deadlineExpire o0) s) (fun t => t.desc == []) = true) := by decide +kernel

/-- No session waits for a column where none is there. -/
theorem test_NoneWaitsForColumn : NoneWaitsForColumn up := by intro x hx; cases hx

/-- A resident session of tenant 7 in slot 0, with no pages. -/
def ses7 : Session := { slot := 0, gen := 1, state := .resident, tenant := 7, context := 1024 }

/-- Its handle. -/
def h7 : Word := mkHandle 0 7 0 1

/-- The ready part with that session changed, and placement at run time. -/
def withSes (f : Session → Session) : State :=
  { up with ses := { table := [f ses7], floor := 2 }, tie := { up.tie with placeCtl := 0x0010100046_5A5F07 } }

/-! ### Room for what a session parks, whatever its record takes -/

theorem leBytes_len (n v : Nat) : (leBytes n v).length = n := by
  induction n generalizing v with
  | zero => rfl
  | succ n ih => simp [leBytes, ih]

theorem codeLossless_len (b : List Byte) : (codeLossless b).length ≤ 16 + b.length := by
  unfold codeLossless
  split
  · simp [subHeader, leBytes_len]
  · unfold shorter
    split <;> simp_all [subHeader, leBytes_len] <;> omega

theorem chunks_len (fuel : Nat) (l : List Byte) :
    (((chunks 4096 fuel l).map codeLossless).flatten).length ≤ 4112 * fuel := by
  induction fuel generalizing l with
  | zero => simp [chunks]
  | succ n ih =>
    simp only [chunks]
    split
    · simp
    · have h1 := codeLossless_len (l.take 4096)
      have h2 := ih (l.drop 4096)
      have h3 : (l.take 4096).length ≤ 4096 := by
        rw [List.length_take]
        exact Nat.min_le_left _ _
      simp only [List.map_cons, List.flatten_cons, List.length_append]
      omega

theorem codePage_granules (k e w : Nat) (c : List Byte) : granulesOf (codePage k e w false c) ≤ 137 := by
  have h := chunks_len 17 c
  simp only [granulesOf, codePage, padTo, List.length_append, List.length_replicate, leBytes_len, ceilDiv, Bool.false_eq_true,
    if_false]
  split
  · simp
  · simp only [Nat.reduceMul] at h
    omega

theorem codedRecords_granules (s : State) (x : Session) : ((codedRecords s x).map fun p => granulesOf p.2).sum ≤ 8978432 := by
  have hsum : ∀ l : List (Nat × Nat), ((l.map fun p => granulesOf
      (codePage p.2 x.epoch x.wseq false (recordBytes64 (sessionHandle s x) p.1 x.wseq))).sum ≤ 137 * l.length) := by
    intro l
    induction l with
    | nil => simp
    | cons a l ih =>
      have := codePage_granules a.2 x.epoch x.wseq (recordBytes64 (sessionHandle s x) a.1 x.wseq)
      simp only [List.map_cons, List.sum_cons, List.length_cons]
      omega
  have hup : ∀ a n, (upFrom a n).length = n := by
    intro a n
    induction n generalizing a with
    | zero => rfl
    | succ n ih => simp [upFrom, ih]
  have hlen : (recordPages (sessionHandle s x) x.wseq).length ≤ 65536 := by
    simp only [recordPages, List.length_cons, List.length_append, List.length_map, hup]
    omega
  have := hsum (recordPages (sessionHandle s x) x.wseq)
  simp only [codedRecords, List.map_map, Function.comp_def]
  omega

/-- The foothill tier has room for the record's pages: they are placed there, and nothing else of the state changes. -/
theorem records_placed (s : State) (x : Session) (h : foothillFits s 8978432 = true) :
    ∃ l, placeInFoothill s (codedRecords s x) = some (s, l) := by
  have hg := codedRecords_granules s x
  have : foothillFits s ((codedRecords s x).map fun p => granulesOf p.2).sum = true := by
    simp only [foothillFits, decide_eq_true_eq] at h ⊢
    omega
  refine ⟨(codedRecords s x).map fun (p, c) => placedAt p (.foothill (granulesOf c) c), ?_⟩
  unfold placeInFoothill
  rw [if_pos this]

/-- The same through the choice of tier, with no plan and no pool for the class. -/
theorem records_parked (s : State) (x y : Session) (hc : bit y.tclass 2 = false) (hb : bit s.tie.placeCtl 1 = true)
    (h : foothillFits s 8978432 = true) : ∃ l, placeParked s y 0 (codedRecords s x) = some (s, l) := by
  obtain ⟨l, hl⟩ := records_placed s x h
  refine ⟨l, ?_⟩
  simp only [placeParked, planFor, hb, Bool.true_or, if_true, placePool, hc, placeHome, hl]
  split <;> rfl

theorem takes_none {s t : State} (h : t.tie.frames = s.tie.frames) : takenUncleared s t = [] := by
  simp only [takenUncleared, h, List.filterMap_eq_nil_iff]
  intro g hg
  simp [hg]

/-- A session without live pages parks, and no frame passes to another owner. -/
theorem park_places (s : State) (x : Session) (n : Bool) (hg : x.guest = none)
    (hp : (x.pages.filter fun p => !deadPage (sessionImage s x) x p.index) = [])
    (hc : bit x.tclass 2 = false) (hb : bit s.tie.placeCtl 1 = true) (h : foothillFits s 8978432 = true) :
    ∃ s' placed g, placePark s x 0 n = some (s', placed, g) ∧ takenUncleared s s' = [] := by
  obtain ⟨l, hl⟩ := records_parked s x x hc hb h
  have hq : ∀ b, parkPages s x b = codedRecords s x := by intro b; simp [parkPages, hp, hg]
  refine ⟨countCoded s x (codedRecords s x), l, ((codedRecords s x).map fun p => granulesOf p.2).sum, ?_, takes_none rfl⟩
  simp only [placePark, hq, hl, Option.map_some]

/-! ### Sessions -/

/-- An image of one stage with a vocabulary of one byte piece for each byte. -/
def img7 : Image :=
  { slot := 0, state := .ready, loads := 1, layers := 1, contextK := 1, kvHeads := 1, qHeads := 1, headDim := 16,
    map := { groups := 1, perGroup := 1, dieMasks := [1] },
    vocab := { pieces := (List.range 256).map fun b => { text := [BitVec.ofNat 8 b], kind := 2, emit := true, score := 0 } } }

/-- A state with that image. -/
def withImg (s : State) : State := { s with img := { slots := [img7] } }

/-- A session descriptor in front of a session, with its image. -/
def sesDesc (op : Nat) (more : List Nat) (f : Session → Session) : State :=
  withDesc (withImg (withSes fun x => f { x with image := 1 })) (rawOf op h7 more)

theorem test_SessionOpenTakesASlot :
    let r := rawOf opOpen 0 [put 319 256 1]
    let s := withDesc (withImg up) r
    canStart s o0 opOpen = some (waits r) ∧ s.ses.gate = false ∧ openRefusals s (waits r) [] = [] ∧
      slotFree s 1048575 = true ∧
      after (exec (.sessionOpen o0 [] 1048575) s) (fun t => (t.session 1048575).any fun x => x.tenant == 7 && x.gen == 1) = true := by
  decide +kernel

/-- One segment of identifiers: tokens 65 and 66. -/
def ids2 : List Byte := leBytes 4 8 ++ leBytes 4 0x10 ++ leBytes 4 65 ++ leBytes 4 66

theorem test_AppendJoinsPending :
    let r := [put 287 256 16, put 303 288 1, put 305 305 1]
    let s := sesDesc opAppend r id
    let x : Session := { ses7 with image := 1 }
    runsOn (startSession s o0 opAppend false) (waits (rawOf opAppend h7 r)) x = true ∧ s.host.compat = false ∧
      appendSegments (rawOf opAppend h7 r) ≠ 0 ∧ ids2.length = appendLen (rawOf opAppend h7 r) ∧
      readSegments (appendSegments (rawOf opAppend h7 r)) ids2 = some [{ trust := 0, form := 1, payload := leBytes 4 65 ++ leBytes 4 66 }] ∧
      appendTokens s (sessionImage s x).vocab o0 [{ trust := 0, form := 1, payload := leBytes 4 65 ++ leBytes 4 66 }] =
        some ([(65, 0), (66, 0)], 0) ∧
      tokensThatFit (sessionImage s x) x 2 = 2 ∧ appendDefer (rawOf opAppend h7 r) = true ∧
      after (exec (.sessionAppend { origin := o0 } ids2) s) (fun t => (t.session 0).any fun y => y.pending == [(65, 0), (66, 0)]) = true := by
  decide +kernel

/-- A prefill of one token with a number of chunk ends to come. -/
def prefills (left : Nat) : State :=
  { withImg (withSes fun x => { x with image := 1, prefill := some { origin := o0, tokens := [(65, 0)], own := 1, chunk := 64, left := left } }) with
    desc := [{ waits (rawOf opAppend h7 []) with phase := .running }] }

theorem test_PrefillChunkEnds :
    (let s := prefills 2
     s.pwr.heldNow = false ∧ (s.session 0).any (fun x => x.prefill.any fun p => decide (1 < p.left)) = true) ∧
    (let s := prefills 1
     (s.session 0).any (fun x => x.prefill.any (fun p => p.left == 1 && p.after == 0) && !waitsForTwin s x) = true ∧
      after (exec (.prefillChunkEnd 0) s) (fun t => (t.session 0).any (fun y => y.log == [(65, 0)]) && t.desc == []) = true) := by
  decide +kernel

theorem test_GenerateStartsUncommitted :
    let r := [put 275 256 4]
    let x : Session := { ses7 with image := 1, log := [(65, 0)] }
    let s := sesDesc opGenerate r fun x => { x with log := [(65, 0)] }
    runsOn (startSession s o0 opGenerate false) (waits (rawOf opGenerate h7 r)) x = true ∧ lacksFlue s o0 = false ∧
      x.replaying = false ∧ refusedF16 (genTemp (rawOf opGenerate h7 r)) = false ∧
      refusedF16 (genTopP (rawOf opGenerate h7 r)) = false ∧ x.state = .resident ∧ lossFor x {} = none ∧ x.pages = [] ∧ x.pending = [] ∧
      x.log.length < x.context ∧
      after (exec (.sessionGenerate { origin := o0 } []) s) (fun t => (t.session 0).any fun y => y.gener.isSome) = true := by decide +kernel

theorem test_ParkRevive :
    (let s := sesDesc opPark [] id
     runsOn (startSession s o0 opPark false) (waits (rawOf opPark h7 [])) { ses7 with image := 1 } = true ∧
      s.host.compat = false ∧ parkWhere (rawOf opPark h7 []) ≠ 3 ∧ tellShares s { ses7 with image := 1 } (.park 0 false) = s) ∧
    (let s := sesDesc opRevive [] fun x => { x with state := .parked }
     runsOn (startSession s o0 opRevive true) (waits (rawOf opRevive h7 [])) { ses7 with image := 1, state := .parked } = true ∧
      (match bringIn (tellShares s { ses7 with image := 1, state := .parked } (.revive 0)) 0 [] 0 with
        | .resident u => (takenUncleared s u).isEmpty
        | _ => false) = true) := by decide +kernel

/-- PARK finds a place for a session without pages. -/
theorem test_ParkHasAPlace : ∃ s' placed g,
    placePark (sesDesc opPark [] id) { ses7 with image := 1 } 0 false = some (s', placed, g) ∧
      takenUncleared (sesDesc opPark [] id) s' = [] :=
  park_places _ _ _ rfl (by decide +kernel) (by decide +kernel) (by decide +kernel) (by decide +kernel)

theorem test_SnapshotHasAPlace :
    let s := sesDesc opSnapshot [] id
    let x : Session := { ses7 with image := 1 }
    runsOn (startSession s o0 opSnapshot false) (waits (rawOf opSnapshot h7 [])) x = true ∧ s.host.compat = false ∧
      parkWhere (rawOf opSnapshot h7 []) ≠ 3 ∧ slotsTaken s < slotLimit s ∧ s.fbx.trngOk = true ∧ slotFree s 1 = true ∧
      lossFor x {} = none ∧ tellShares s x (.copy (mkHandle 0 7 1 2) 0) = s := by decide +kernel

theorem test_CloseAndStub :
    runsOn (startSession (sesDesc opClose [] id) o0 opClose true) (waits (rawOf opClose h7 [])) { ses7 with image := 1 } = true ∧
    closing (sesDesc opClose [] id) (waits (rawOf opClose h7 [])) = none ∧
    stillEnding (closeSession (sesDesc opClose [] id) { ses7 with image := 1 }) h7 = none ∧
    (let d : InFlight := { waits (rawOf opClose h7 []) with origin := .qp 0 1 }
     let s := sesDesc opClose [] id
     let t : State := { s with desc := [{ waits (rawOf opClose h7 []) with phase := .follows (.qp 0 9) 0 }, d] }
     runsOn (startSession t (.qp 0 1) opClose true) d { ses7 with image := 1 } = true ∧ closing t d = some o0) ∧
    (let s := withSes fun x => { x with state := .moved, expires := 5000000000 }
     s.session 0 = some { ses7 with state := .moved, expires := 5000000000 } ∧
      after (exec (.stubExpire 0) s) (fun t => (t.session 0).any fun y => y.state == .free && y.gen == 2) = true) := by decide +kernel

/-! ### Moves and tiers -/

theorem test_SnapshotCopyHasAPlace :
    let s := (drawKey (sesDesc opSnapshot [] id)).1
    let x : Session := { ses7 with image := 1 }
    ∃ l, placeParked s { x with slot := 1, pageKey := 1 } 0 (snapshotPages (sesDesc opSnapshot [] id) x) = some (s, l) ∧
      takenUncleared (sesDesc opSnapshot [] id) s = [] := by
  obtain ⟨l, hl⟩ := records_parked (drawKey (sesDesc opSnapshot [] id)).1 { ses7 with image := 1 }
    { ses7 with image := 1, slot := 1, pageKey := 1 } (by decide +kernel) (by decide +kernel) (by decide +kernel)
  exact ⟨l, hl, by decide +kernel⟩

/-- Part 1 of the domain is up. -/
def withPeer (s : State) : State :=
  { s with rdg := { s.rdg with map := { s.rdg.map with parts := [{ number := 1, address := 1, state := 1 }] } } }

/-- A generation of the session. -/
def gen7 : Gen := { origin := o0, maxTokens := 4 }

/-- A move of the session to part 1. -/
def move7 : Move := { origin := o0, dest := 1, handle := mkHandle 1 7 3 5, parked := false }

theorem test_MoveHandsSessionsOver :
    (let s := sesDesc opMove [] id
     runsOn (startSession s o0 opMove false) (waits (rawOf opMove h7 [])) { ses7 with image := 1 } = true ∧
      s.host.compat = false ∧ moveDest (rawOf opMove h7 []) = s.rdg.part) ∧
    (let r := [put 265 256 1]
     let s := withPeer (sesDesc opMove r id)
     runsOn (startSession s o0 opMove false) (waits (rawOf opMove h7 r)) { ses7 with image := 1 } = true ∧
      lossFor { ses7 with image := 1 } {} = none ∧ shareParts s { ses7 with image := 1 } = [] ∧
      moveDest (rawOf opMove h7 r) ≠ s.rdg.part ∧ s.partUp (moveDest (rawOf opMove h7 r)) = true ∧
      after (exec (.sessionMove { origin := o0 } (.ready (mkHandle 1 7 3 5) [1])) s) (fun t => (t.session 0).any fun y => y.state == .moved) = true) ∧
    (let r := [put 265 256 1]
     let s := withPeer (sesDesc opMove r fun x => { x with gener := some gen7 })
     runsOn (startSession s o0 opMove false) (waits (rawOf opMove h7 r)) { ses7 with image := 1, gener := some gen7 } = true ∧
      after (exec (.sessionMove { origin := o0 } (.ready (mkHandle 1 7 3 5) [1])) s) (fun t => (t.session 0).any fun y => y.move.isSome) = true) ∧
    (let dirty : List Page := (List.range 97).map fun n => { index := n, kind := 0, place := .hearth n, dirty := true }
     let s := withPeer (withSes fun x => { x with gener := some gen7, move := some move7, pages := dirty })
     (s.session 0).any (fun x => x.move == some move7 && decide (handoverPages s < dirtyPages x)) = true ∧ s.pwr.heldNow = false ∧
      move7.armed = false ∧ maxRounds s ≤ 31) ∧
    (let s := withPeer (withSes fun x => { x with move := some move7 })
     (s.session 0).any (fun x => x.move == some move7 && dirtyPages x == 0) = true ∧ handoverPages s = 96 ∧
      after (exec (.moveRoundEnd ⟨0, [96]⟩) s) (fun t => (t.session 0).any fun y => y.move.any (·.armed)) = true ∧
      after (exec (.moveRoundEnd ⟨0, [97]⟩) s) (fun t => (t.session 0).any fun y => y.move.any (!·.armed)) = true) ∧
    (let s := withPeer (withSes fun x => { x with gener := some gen7, move := some { move7 with armed := true } })
     (s.session 0).any (fun x => x.move == some { move7 with armed := true }) = true ∧ s.partUp 1 = true ∧
      after (exec (.moveHandover 0) s) (fun t => (t.session 0).any fun y => y.state == .moved) = true) ∧
    (let s := withPeer (withSes fun x => { x with gener := some { gen7 with batch := some 0 }, move := some { move7 with armed := true } })
     (s.session 0).any (fun x => x.gener.any fun g => g.batch.isSome) = true) := by decide +kernel

/-- A parked page of one granule in the home foothill tier. -/
def cold : Page := { index := 0, kind := 0, place := .foothill 1 (List.replicate 512 0) }

/-- A session parked in the foothill tier, whose class may demote. -/
def parked7 (p : Page) : State :=
  withSes fun x => { x with state := .parked, tclass := 4, pages := [p] }

/-- An extent borrowed from part 1. -/
def ext1 : Word := mkExtent 1 1 0 1

/-- A tenant's uncleared granules filling the foothill tier, and an extent to demote to. -/
def fullFoothill : State :=
  let s := withPeer (parked7 cold)
  { s with tie := { s.tie with uncleared := [{ tenant := 9, granules := 3221225472 }] }
           rdg := { s.rdg with borrowed := [{ handle := ext1, lender := 1, granted := true }] } }

/-- A hearth that images fill, with a resident session whose one page is dead. -/
def fullHearth : State :=
  let s := withSes fun x => { x with image := 1, pages := [{ index := 9, kind := 0, place := .hearth 3 }] }
  { s with img := { slots := [{ img7 with framesPerBank := 512 }] }, tie := { s.tie with frames := [{ number := 3, tenant := 7 }] } }

theorem test_TiersMigrateAndClear :
    (let p : Page := { cold with target := some (.pool ext1 0) }
     let s := { fullFoothill with ses := (parked7 p).ses }
     (s.session 0).any (fun x => (x.pages.find? fun q => q.index == 0) == some p) = true ∧ s.pwr.heldNow = false ∧
      copyWaits s (.pool ext1 0) = false ∧ (∀ b ∈ s.rdg.borrowed, b.closing = false) ∧
      after (exec (.migrationSwitch 0 0 true) s) (fun t => (t.session 0).any fun y => y.pages.all fun q => q.target == none) = true) ∧
    (fullFoothill.pwr.ready = true ∧ fld fullFoothill.tie.placeCtl 23 16 < foothillPct fullFoothill 0 ∧
      (∃ x, demotable fullFoothill = [x] ∧ fullFoothill.session x.slot = some x ∧
        demotionPlaces fullFoothill x = some [(ext1, 0)]) ∧ (∀ b ∈ fullFoothill.rdg.borrowed, b.closing = false)) ∧
    (let s := parked7 { cold with place := .pool ext1 0 1 (List.replicate 512 0) }
     (∃ x, promotable s = [x] ∧ s.session x.slot = some x ∧
       foothillPct s (homeward s + ((x.pages.filter promotes).map pageGranules).sum) ≤ fld s.tie.placeCtl 31 24) ∧
      foothillPct s 0 < fld s.tie.placeCtl 31 24 ∧
      after (exec .promotion s) (fun t => (t.session 0).any fun y => y.pages.any fun q => q.target == some .home) = true) ∧
    (let u : Uncleared := { tenant := 9, granules := 1, failed := true }
     let s : State := { up with tie := { up.tie with uncleared := [u] } }
     s.tie.uncleared = u :: [] ∧ u.extent = none ∧
      after (exec (.foothillClear false) s) (fun t => t.tie.retiredGranules == 1 && t.fbx.isoSeen) = true) := by
  refine ⟨by decide +kernel, ⟨by decide +kernel, by decide +kernel, ⟨_, rfl, by decide +kernel, by decide +kernel⟩, by decide +kernel⟩,
    ⟨⟨_, rfl, by decide +kernel, by decide +kernel⟩, by decide +kernel, by decide +kernel⟩, by decide +kernel⟩

theorem test_AutoPark :
    fullHearth.pwr.ready = true ∧ fullHearth.pwr.heldNow = false ∧ autoParks fullHearth = true ∧
      fld fullHearth.tie.placeCtl 15 8 < hearthPct fullHearth ∧ parkCandidates fullHearth = [0] ∧
      ∃ s', autoPark fullHearth 0 = some s' := by
  refine ⟨by decide +kernel, by decide +kernel, by decide +kernel, by decide +kernel, by decide +kernel, ?_⟩
  let x : Session := { ses7 with image := 1, pages := [{ index := 9, kind := 0, place := .hearth 3 }] }
  have hx : fullHearth.session 0 = some x := by decide +kernel
  obtain ⟨s', placed, g, h, _⟩ := park_places fullHearth x false rfl (by decide +kernel) (by decide +kernel) (by decide +kernel)
    (by decide +kernel)
  unfold autoPark parkSession
  simp only [hx, Option.bind_some]
  rw [h]
  exact ⟨_, rfl⟩

/-! ### Steps, stoves, images -/

/-- A generating session whose batch of one column closes a step; a vocabulary of two pieces. -/
def steps : State :=
  let i : Image := { img7 with vocab := { eos := 1, pieces := [{ text := [65], kind := 0, emit := true, score := 0 }, { text := [], kind := 1, emit := false, score := 0 }] } }
  let s := withSes fun x => { x with image := 1, log := [(0, 0)], gener := some { gen7 with batch := some 0 }, pages := (List.range 3).map fun n => { index := n, kind := 0, place := .hearth n } }
  { s with
    img := { slots := [i] }
    ses := { s.ses with batches := [{ id := 0, image := 0, columns := [(0, 1)] }] }
    desc := [{ waits (rawOf opGenerate h7 []) with phase := .running }] }

/-- Logits 1.0 and 0.0 for the one column: token 0 is the best. -/
def logits0 : List ColumnLogits := [{ slot := 0, logits := [[0x3F800000, 0]] }]

/-- The hypotheses of the commit of one column, at the states and the run that it computes. -/
def oneColumn (s : State) (cols : List ColumnLogits) (slot : Nat) : Bool :=
  match s.session slot with
  | none => false
  | some x =>
    match x.gener with
    | none => false
    | some g =>
      match recoverStep s x g (columnsTold cols slot).how with
      | .error _ => false
      | .ok s0 =>
        match s0.session slot with
        | none => false
        | some x0 =>
          match allotPages s0 slot (missingPages (sessionImage s x) x0
              (blocksForWrite (sessionImage s x) x0 (g.drafts.length + 1))) true with
          | (_, none) => false
          | (s1, some got) =>
            match (addPages s1 slot got).session slot with
            | none => false
            | some y =>
              let r := sampledRun y g (sessionImage s x).vocab (columnsTold cols slot).logits
              takenUncleared s s1 == [] && g.replay.isNone && !(sessionImage s x).weightsLost && !r.ends &&
              !lateAt (addPages s1 slot got) g && r.tokens == [0] &&
              roomFor (addPages s1 slot got) g.origin (columnsTold cols slot).room
                (stepRecords (sessionHandle (addPages s1 slot got) y) (originSeq g.origin) g.step 0 r.tokens
                  (detokenise (sessionImage s x).vocab y.tail r.tokens false).1).length

theorem test_StepCommitAppendsItsRun :
    steps.batch 0 = some { id := 0, image := 0, columns := [(0, 1)] } ∧ steps.pwr.ready = true ∧ steps.pwr.heldNow = false ∧
      atClose steps { id := 0, image := 0, columns := [(0, 1)] } = true ∧ closable steps logits0 0 = true ∧
      maskWaiters steps { id := 0, image := 0, columns := [(0, 1)] } = [] ∧ oneColumn steps logits0 0 = true := by
  decide +kernel

/-- A close that waits: for logits, for the drafts, for a hold's end. -/
theorem test_StepCommitWaits :
    closable steps [] 0 = false ∧ atClose steps { id := 0, image := 0, columns := [(0, 1)], drafting := true } = false ∧
      ({ steps with pwr := { steps.pwr with heldNow := true } } : State).pwr.heldNow = true := by
  decide +kernel

/-- Grammar text for the one session, whose mask is not ready. -/
theorem test_StepCommitWaitsForMasks :
    let s : State := { steps with ses := { steps.ses with table := steps.ses.table.map fun x =>
        { x with grammar := some 5, gener := some { gen7 with batch := some 0, grammar := true } } } }
    (maskWaiters s { id := 0, image := 0, columns := [(0, 1)] }).length = 1 ∧
      after (exec (.stepCommit 0 logits0) s) (fun t => (t.session 0).any fun y => y.maskWaited) = true := by
  decide +kernel

/-- The share of a session homed on part 1, as stage 1 of its image. -/
def guest : State :=
  let s := withSes fun x => { x with slot := 1048575, image := 1, guest := some (mkHandle 1 7 3 5), log := [(0, 0), (0, 0)], pages := (List.range 3).map fun n => { index := n, kind := 0, place := .hearth n } }
  { s with img := { slots := [{ img7 with id := 5, stages := 2, stage := 1, group := [1, 0] }] } }

/-- An activation frame with one record. -/
def actFrame (length columns : Nat) : ActFrame :=
  { image := 5, batch := 0, step := 0, epoch := 0, records := [{ handle := mkHandle 1 7 3 5, length := length, columns := columns }] }

/-- Stage 0 of a two-stage image whose frame has come back, to close the step of its batch. -/
def returned : ActFrame := { image := 5, batch := 0, step := 0, epoch := 0, records := [] }

theorem test_ActivationFramesCarryCommits :
    (let s : State := { steps with img := { slots := [{ img7 with id := 5, stages := 2, group := [0, 1] }] } }
     (imageById s returned.image).any (fun i => i.stage == 0 && i.slot == 0) = true ∧
      s.batch returned.batch = some { id := 0, image := 0, columns := [(0, 1)] } ∧
      after (exec (.activationFrame returned) s) (fun t => (t.batch 0).any fun b => b.back) = true) ∧
    ((imageById guest 5).any (fun i => i.stage == 1) = true ∧ guest.pwr.ready = true ∧ guest.pwr.heldNow = false ∧
      (guestOf guest (mkHandle 1 7 3 5)).any (fun x => x.slot == 1048575 && x.log.length == 2) = true ∧
      (guest.session 1048575).any (fun x => x.guest == some (mkHandle 1 7 3 5)) = true) ∧
    (hearthFits guest 0 false = true ∧ (imageById guest 5).any (fun i => (guest.session 1048575).any fun x =>
        missingPages i x (blocksForWrite i x (4 - max 1 x.log.length)) == []) = true ∧
      after (exec (.activationFrame (actFrame 4 0)) guest) (fun t => (t.session 1048575).any fun y => y.log.length == 4) = true) ∧
    after (exec (.activationFrame (actFrame 1 0)) guest) (fun t => (t.session 1048575).any fun y => y.log.length == 1) = true ∧
    after (exec (.activationFrame (actFrame 0 0)) guest) (fun t => t.session 1048575 == none) = true ∧
    (let s : State := { guest with img := { slots := [{ img7 with id := 5, stages := 3, stage := 1, group := [1, 0, 2] }] } }
     (imageById s 5).any (fun i => i.stage == 1 && nextStage i == some 2) = true ∧ (actFrame 2 1).batch < prefillBatch ∧
      (guestOf s (mkHandle 1 7 3 5)).any (fun x => x.log.length == 2) = true ∧
      after (exec (.activationFrame (actFrame 2 1)) s) (fun t => (t.session 1048575).any fun y => y.log.length == 2) = true) := by
  decide +kernel

/-- The batch of `steps` with drafts still to come. -/
def draftsDue : State :=
  { steps with ses := { steps.ses with batches := [{ id := 0, image := 0, columns := [(0, 1)], drafting := true }], table := steps.ses.table.map fun x =>
      { x with gener := some { gen7 with batch := some 0, planned := 2, refilled := true } } } }

theorem test_MasksDraftsAcksAndTokensKeepOtherState :
    ((draftsDue.batch 0).any (·.drafting) = true ∧ draftsDue.pwr.heldNow = false ∧
      (draftsDue.session 0).any (fun x => x.gener.any fun g => (maskFor x g).isNone && g.batch == some 0 &&
        decide (g.drafts.length < g.planned) && g.refilled &&
        drawDraft x g (sessionImage draftsDue x).vocab (draftLogits [[0, 0x3F800000], [0, 0]]) == some (1, [])) = true ∧
      after (exec (.draftPass 0 [{ slot := 0, parts := [[0, 0x3F800000], [0, 0]] }]) draftsDue)
        (fun t => (t.session 0).any fun y => y.gener.any fun g => g.drafts == [(1, [])]) = true) ∧
    (let s := withSes fun x => { x with grammar := some 5, gener := some { gen7 with grammar := true, store := true } }
     (s.session 0).any (fun x => x.gener.any fun g => (maskFor x g).isSome && decide (0 ≤ g.drafts.length) && x.maskReady == 0) = true ∧
      (s.session 0).any (fun x => x.gener.any fun g => g.store && !g.refilled) = true ∧ s.pwr.heldNow = false ∧
      after (exec (.grammarMask 0 0) s) (fun t => (t.session 0).any fun y => y.maskReady == 1) = true) ∧
    ((withSes fun x => { x with acks := 2 }).session 0).any (fun x => x.acks == 0 + 2) = true ∧
    ((withSes fun x => { x with acks := 1 }).session 0).any (fun x => x.acks == 1 && x.parkWaits.isNone) = true ∧
    (let s := sesDesc opPark [] fun x => { x with acks := 1, parkWaits := some (o0, 0) }
     (s.session 0).any (fun x => x.acks == 1 && x.parkWaits == some (o0, 0)) = true ∧
      after (exec (.buddyAcknowledge 0) s) (fun t => (t.session 0).any fun y => y.state == .parked && y.acks == 0) = true) ∧
    (let s := sesDesc opAppend [] id
     (s.descriptor o0).any (fun d => dOpcode d.raw == opAppend && (slotOf s d).isSome) = true ∧ s.knd.tokenised = []) ∧
    (let s := withDesc (withImg up) (rawOf opEmbed 0 [])
     (s.descriptor o0).any (fun d => dOpcode d.raw == opEmbed) = true ∧ s.knd.tokenised = []) := by
  decide +kernel

/-- Islands with work: island 0 has an item of tenant 9 before it, and has worked for tenant 7. -/
def islands : State :=
  { up with stv := { islands := [{ number := 0, role := .decode, queue := [{ role := .decode, rank := 0, order := 0, tenant := 9 }], tenant := some 7 },
                                 { number := 1, role := .embed }, { number := 2, role := .embed, running := some { role := .embed, rank := 0, order := 0, tenant := 9 } }] } }

/-- What a split interval measures on an idle part. -/
def idleSplit : SplitSample := { daBusy := 0, waitedOver5us := false, pfQueued := false, pfQueuedEver := false, encQueued := false }

/-- A tile of no products. -/
def noTile : StoveTile := { left := [], right := [], result := .fp32 }

theorem test_IslandsWorkAndChangeRoles :
    (islands.stv.islands.find? (fun i => i.number == 0)).any
      (fun i => i.leaving.isNone && i.queue.length == 1 && decide (1 < i.stoves) && i.tenant == some 7) = true ∧
    islands.pwr.ready = true ∧ islands.pwr.heldNow = false ∧ islands.stv.waiting = [] ∧ islands.fwu.attemptAt = none ∧
    after (exec (.workItemEnd 0 ⟨true, noTile⟩) islands) (fun t => (t.stv.islands.find? fun i => i.number == 0).any fun j => j.tenant == some 9) = true ∧
    after (exec (.workItemEnd 0 ⟨false, noTile⟩) islands) (fun t => t.fbx.isoSeen && t.fbx.isoTenant == 7) = true ∧
    (let s : State := { islands with pwr := { islands.pwr with heldNow := true } }
     (s.stv.islands.find? (fun i => i.number == 2)).any (·.running.isSome) = true ∧ s.pwr.ready = true ∧
      after (exec (.workItemEnd 2 ⟨true, noTile⟩) s) (fun t => (t.stv.islands.find? fun i => i.number == 2).any (·.running.isNone)) = true) ∧
    (let s : State := { islands with stv := { islands.stv with splitCtl := 0x0001000000000000 } }
     rolesFrozen s = true) ∧
    (rolesFrozen islands = false ∧ islands.stv.boundsMove = some (.embed, .decode) ∧
      (islands.stv.islands.find? fun i => i.heading == .embed && i.leaving.isNone).any (fun i => i.number == 1 && i.running.isNone) = true ∧
      after (exec (.splitInterval idleSplit) islands) (fun t => (t.stv.islands.find? fun i => i.number == 1).any fun j => j.role == .decode) = true) ∧
    (let s : State := { islands with stv := { islands.stv with islands := islands.stv.islands.filter fun i => i.number != 1 } }
     s.stv.boundsMove = some (.embed, .decode) ∧
      (s.stv.islands.find? fun i => i.heading == .embed && i.leaving.isNone).any (fun i => i.number == 2 && i.running.isSome) = true) := by
  decide +kernel

/-- An encoder image of two tokens' context (tokens are its bytes). -/
def encoder : State := withImg { up with img := {} }

/-- One document of one identifier, 65. -/
def doc1 : List Byte := leBytes 8 (4 + 2 ^ 32) ++ leBytes 8 77 ++ List.replicate 16 0 ++ leBytes 8 65

theorem test_EmbedBatchDeliversItsCodes :
    let r := rawOf opEmbed 0 [put 319 256 1, put 351 320 40, put 367 352 1, put 447 384 0x8000]
    let i : Image := { img7 with encoder := true, hidden := 1 }
    let s : State := { withDesc up r with img := { slots := [i] } }
    canStart s o0 opEmbed = some (waits r) ∧ indexBlocked s (waits r) = false ∧ pastDeadline s (waits r) = false ∧ s.srch.waits = [] ∧
      (match embedParts s (waits r) doc1 with
        | .ok (j, none, w, docs) => j == i && w == 256 && docs.length == 1 &&
            docs.all fun e => decide ((docTokens s i.vocab o0 0 e).1.length ≤ encoderLimit i)
        | _ => false) = true ∧
      after (exec (.embedBatch o0 doc1 [some [[0x3F800000]]]) s) (fun t => t.desc == [] && t.stv.docs == 1) = true := by decide +kernel

/-- The image's other stage has not reported. -/
def waitingImage (reports : List (BitVec 128 × Nat × Nat)) : State :=
  { withDesc up (rawOf opImageLoad 0 []) with
    desc := [{ waits (rawOf opImageLoad 0 []) with phase := .running }]
    img := { slots := [{ img7 with state := .waiting, id := 5, stages := 2, group := [0, 1], origin := some o0, waitUntil := 5000000000 }], reports := reports } }

theorem test_ImagesWaitAndUnload :
    (let s := waitingImage [(5, 1, 1)]
     (s.image 0).state = .waiting ∧ stagesMissing s (s.image 0) = [] ∧ (s.image 0).slot = 0 ∧
      after (exec (.imageLoadComplete 0) s) (fun t => (t.image 0).state == .ready && t.desc == []) = true) ∧
    (let s := waitingImage []
     (s.image 0).state = .waiting ∧ (s.image 0).waitUntil ≤ s.localNs ∧ stagesMissing s (s.image 0) ≠ [] ∧
      (s.image 0).origin = some o0 ∧
      after (exec (.stageWaitTimeout 0) s) (fun t => (t.image 0).state == .empty) = true) ∧
    (let r := rawOf opImageLoad 1 [put 256 256 1]
     let s := withDesc (withImg (withSes fun x => { x with image := 1 })) r
     canStart s o0 opImageLoad = some (waits r) ∧ loadUnload r = true ∧ imageOf s (dHandle r) = some img7 ∧ unloadBusy s img7 = true) ∧
    (let r := rawOf opImageLoad 1 [put 256 256 1]
     let s := withDesc (withImg up) r
     canStart s o0 opImageLoad = some (waits r) ∧ imageOf s (dHandle r) = some img7 ∧ unloadBusy s img7 = false ∧ img7.stage = 0 ∧
      after (exec (.imageUnload o0) s) (fun t => (t.image 0).state == .empty && (t.image 0).loads == 1) = true) ∧
    (let r := rawOf opImageLoad 1 [put 256 256 1]
     let i : Image := { img7 with stages := 2, stage := 1, group := [1, 0] }
     let s := { withPeer (withDesc up r) with img := { slots := [i] } }
     canStart s o0 opImageLoad = some (waits r) ∧ imageOf s (dHandle r) = some i ∧ unloadBusy s i = false ∧ i.group[0]? = some 1 ∧
      s.partUp 1 = true) := by decide +kernel

/-- An image of 32 hidden values with one variant of tenant 7 in slot 1: one record of kind 0 for layer 0. -/
def variantBytes : List Byte := List.replicate 80 0

def imgV : Image :=
  { img7 with hidden := 32, variantSlots := 2, variantMib := 1, variants := [{ number := 1, tenant := 7, records := variantBytes }] }

theorem test_Variants :
    (let r := rawOf opVariantLoad 1 [put 271 256 2, put 303 272 80]
     let s : State := { withDesc up r with img := { slots := [imgV] } }
     canStart s o0 opVariantLoad = some (waits r) ∧ variantRemove r = false ∧ variantImage s (waits r) = some imgV ∧
      variantRefusal s imgV (waits r) variantBytes true = none ∧
      after (exec (.variantLoad o0 variantBytes true) s) (fun t => (variantAt (t.image 0) 2).isSome) = true) ∧
    (let r := rawOf opVariantLoad 1 [put 271 256 1, put 304 304 1]
     let s : State := { withDesc up r with img := { slots := [imgV] } }
     canStart s o0 opVariantLoad = some (waits r) ∧ variantRemove r = true ∧ variantImage s (waits r) = some imgV ∧
      (variantAt imgV 1).any (fun v => v.tenant == 7) = true ∧ variantInUse s imgV 7 1 none = false ∧ stagesUp s imgV = true ∧
      after (exec (.variantRemove o0) s) (fun t => variantAt (t.image 0) 1 == none) = true) := by decide +kernel

/-- One example of tokens 65 and 66, loss from the second. -/
def example1 : List Byte := leBytes 4 2 ++ leBytes 4 1 ++ List.replicate 8 0 ++ leBytes 4 65 ++ leBytes 4 66

/-- The hypotheses of a tuning step, at what the checks and the start compute. -/
def tunes (s : State) (o : Origin) (param : List Byte) (sums : List (List (BitVec 32) × List (BitVec 32))) : Bool :=
  match startSession s o opTune false with
  | some (d, .ok x) =>
    let i := sessionImage s x
    match tuneRefusal s x i d param with
    | .ok (l, v) =>
      let (s0, x0) := beginOn s x
      match (if x0.state = .parked then makeResidentSession s0 x0.slot {} 0 d.deadline else recover s0 x0 {} d.deadline) with
      | .ok (s1, _) =>
        match s1.session x0.slot with
        | none => false
        | some y =>
          let u := tuneUpdate y.tuning d.raw i.hidden ((readRecords i.hidden 256 v.records).getD []) sums
          let fresh := (tuningPages (tuneValues i v.records) u.eightBit).filter fun p => !(y.pages.any fun q => q.index == p)
          tuneRoom i y l fresh s1 && stagesUp s1 i &&
            match placePages s1 i y fresh with
            | some (s2, _) => takenUncleared s s2 == []
            | none => false
      | .error _ => false
    | _ => false
  | _ => false

theorem test_Tuning :
    let r := [put 287 256 24, put 303 288 1, put 511 448 9]
    let s := { sesDesc opTune r (fun x => { x with variant := 1, tuning := some { records := variantBytes }, pages := (List.range 3).map (fun n => { index := n, kind := 0, place := .hearth n }) ++ [{ index := 0xFE0000, kind := 1, place := .hearth 9 }] }) with img := { slots := [imgV] } }
    tunes s o0 example1 [] = true := by decide +kernel

/-! ### An image load -/

/-- A head-group map of one group, one layer and one KV head (Tables 9.1, 9.2). -/
def mapBytes : List Byte :=
  leBytes 64 (1 + 2 ^ 8) ++ leBytes 16 (2 ^ 8) ++ leBytes 4 0x3F800000 ++ leBytes 4 0x3F800000

/-- SHA-384 of those bytes. -/
def mapDigest : Nat := 20817462535941245731979005822201029468927465971014705371096088662819489840823680615145341634262961226747898187394442

/-- Stage 1 of a decoder image of two stages: header, one section entry, signature area, the head-group map at 8,192. -/
def imageBytes : List Byte :=
  leBytes 128 (1 + 0x9140 * 2 ^ 16 + 5 * 2 ^ 32 + 2 * 2 ^ 160 + 2 ^ 166 + 2 ^ 176 + 2 ^ 184 + 32 * 2 ^ 192 + 2 ^ 208 + 2 ^ 216 + 64 * 2 ^ 224 + 2 ^ 288 + 2 ^ 352 + 2 ^ 368) ++
  leBytes 64 (4 + 8192 * 2 ^ 16 + 88 * 2 ^ 56 + mapDigest * 2 ^ 128) ++ List.replicate (8192 - 192) 0 ++ mapBytes

/-- The load of that image on a part with one image key. -/
def loads : State :=
  { withDesc up (rawOf opImageLoad 0 [put 303 264 8280, put 447 384 0x9000]) with fbx := { up.fbx with imageKeys := [[1]] } }

/-- The image as that part lays it out. -/
def laid1 : Image := (laidOut loads (imageRecord imageBytes none [1, 0])).getD { slot := 0 }

/-- A signature that verifies is all that the image needs. -/
theorem test_ImageLoads (signed : imageSigned loads imageBytes = true) :
    loadChecks loads imageBytes (imageRecord imageBytes none [1, 0]) = .ok laid1 := by
  have h : formatHolds loads imageBytes (imageRecord imageBytes none [1, 0]) = true := by decide +kernel
  have l : (laidOut loads (imageRecord imageBytes none [1, 0])).isSome = true := by decide +kernel
  have f : fits loads laid1 = true := by decide +kernel
  obtain ⟨i, hi⟩ := Option.isSome_iff_exists.mp l
  have e : laid1 = i := by simp [laid1, hi]
  simp [loadChecks, h, signed, hi, ← e, f]

theorem test_ImageLoad :
    let r := rawOf opImageLoad 0 [put 303 264 8280, put 447 384 0x9000]
    canStart loads o0 opImageLoad = some (waits r) ∧ loadUnload r = false ∧ loadTenants r = 0 ∧ loadGroup r ≠ 0 ∧
      imageBytes.length = loadLength r ∧ laid1.stage ≠ 0 ∧ (∀ j ∈ loads.img.slots, j.origin ≠ some o0) ∧
      emptySlots loads = [0, 1, 2, 3, 4, 5, 6, 7] ∧ loadRoom laid1 loads = true ∧ awaitsClear laid1 loads = false ∧
      sectionsMatch imageBytes = true := by decide +kernel

/-! ### Embers and direct commands -/

/-- A work-table entry of an operation: one row from row 0, for tenant 7. -/
def entryOf (op : Nat) (more : List Nat) : BitVec 128 :=
  BitVec.ofNat 128 ([put 3 0 op, put 31 22 1, put 83 72 7].foldl (· + ·) 0 + more.foldl (· + ·) 0)

/-- A broadcast command of an operation to die 0, entry 0, one column, the run going on. -/
def cmdOf (op : Nat) : BitVec 64 := BitVec.ofNat 64 ([put 3 0 op, put 23 12 1, put 29 24 1].foldl (· + ·) 0 + 2 ^ 31)

/-- Ember 0 with that entry and one byte of 0x38 (1.0) at address 0 of its bank. -/
def emberOf (w : BitVec 128) : Ember := { number := 0, table := [(0, w)] }
def sliceOf (w : BitVec 128) : State := { up with hrt := { embers := [emberOf w], mem := [(0, 0x38)] } }

theorem test_SlicesFillTheirAccumulators :
    OneSlice (sliceOf (entryOf 1 [put 52 45 1])) 0 1 (cmdOf 1) (emberOf (entryOf 1 [put 52 45 1])) (entryOf 1 [put 52 45 1]) ∧
    OneSlice (sliceOf (entryOf 2 [put 104 96 32])) 0 2 (cmdOf 2) (emberOf (entryOf 2 [put 104 96 32])) (entryOf 2 [put 104 96 32]) ∧
    OneSlice (sliceOf (entryOf 3 [put 52 45 1])) 0 3 (cmdOf 3) (emberOf (entryOf 3 [put 52 45 1])) (entryOf 3 [put 52 45 1]) ∧
    after (exec (.matvec 0 ⟨cmdOf 1, []⟩ (List.replicate 32 0x38) [0x3F800000] []) (sliceOf (entryOf 1 [put 52 45 1])))
      (fun t => (t.hrt.embers.map fun e => e.acc.length) == [1]) = true := by
  unfold OneSlice; decide +kernel

theorem test_SlicesStoreOnlyTheirDestination :
    OneSlice (sliceOf (entryOf 4 [])) 0 4 (cmdOf 4) (emberOf (entryOf 4 [])) (entryOf 4 []) ∧
    OneSlice (sliceOf (entryOf 5 [put 104 96 32])) 0 5 (cmdOf 5) (emberOf (entryOf 5 [put 104 96 32])) (entryOf 5 [put 104 96 32]) ∧
    OneSlice (sliceOf (entryOf 8 [put 109 96 1])) 0 8 (cmdOf 8) (emberOf (entryOf 8 [put 109 96 1])) (entryOf 8 [put 109 96 1]) ∧
    OneSlice (sliceOf (entryOf 7 [])) 0 7 (cmdOf 7) (emberOf (entryOf 7 [])) (entryOf 7 []) ∧
    Memory.wf (sliceOf 0).hrt.mem = true ∧ bankBusy (sliceOf (entryOf 7 [])) 0 = false ∧
    atBarrier (sliceOf (entryOf 7 [])) 0 = true ∧ eRow (entryOf 8 [put 109 96 1]) + eRows (entryOf 8 [put 109 96 1]) ≤ fld (eParam (entryOf 8 [put 109 96 1])) 13 0 ∧
    after (exec (.clear 0 ⟨cmdOf 7, []⟩ 0 []) (sliceOf (entryOf 7 []))) (fun t => t.hrt.mem == []) = true := by
  unfold OneSlice; decide +kernel

/-- Row 0 of ember 0 lies in a frame of tenant 9. -/
def foreign : State := { sliceOf (entryOf 1 []) with tie := { up.tie with frames := [{ number := 0, tenant := 9 }] } }

theorem test_TopkIdleAndSkips :
    (OneSlice (sliceOf (entryOf 6 [put 102 96 2])) 0 6 (cmdOf 6) (emberOf (entryOf 6 [put 102 96 2])) (entryOf 6 [put 102 96 2]) ∧
      ((emberOf (entryOf 6 [put 102 96 2])).enter 7).candidates = 0 ∧ cCont (cmdOf 6) = true ∧ cCont (cmdOf 6 ^^^ 0x80000000) = false ∧
      OneSlice (sliceOf (entryOf 6 [put 102 96 2])) 0 6 (cmdOf 6 ^^^ 0x80000000) (emberOf (entryOf 6 [put 102 96 2])) (entryOf 6 [put 102 96 2])) ∧
    (issues up 0 0 0 = true ∧ addressed up 0 0 = []) ∧
    (issues foreign 0 1 (cmdOf 1) = true ∧ addressed foreign 0 (cmdOf 1) = [(emberOf (entryOf 1 []), entryOf 1 [])] ∧
      skipCause foreign 1 (emberOf (entryOf 1 [])) (entryOf 1 []) = some .tag ∧
      after (exec (.matvec 0 ⟨cmdOf 1, []⟩ [] [] []) foreign) (fun t => t.fbx.isoSeen && t.fbx.isoTenant == 7) = true) ∧
    (let s : State := { foreign with desc := [{ waits (rawOf opQuery 0 []) with phase := .running }] }
     issues s 0 1 (cmdOf 1) = true ∧ addressed s 0 (cmdOf 1) = [(emberOf (entryOf 1 []), entryOf 1 [])] ∧
      skipCause s 1 (emberOf (entryOf 1 [])) (entryOf 1 []) = some .tag ∧
      (s.descriptor o0).any (fun d => d.phase == .running && slotOf s d == none && d.embed == none) = true ∧ s.query o0 = none ∧
      after (exec (.matvec 0 ⟨cmdOf 1, [o0]⟩ [] [] []) s) (fun t => t.desc == []) = true) := by
  unfold OneSlice; decide +kernel

/-- Inside a column-split run of summit 0 that owes four refreshes. -/
def owing : State := { up with hrt := { runs := [{ summit := 0, dies := 0xFFF, split := true }], owedShared := [(0, 4)] } }

theorem test_BanksRefreshScrubAndRetire :
    (up.pwr.ready = true ∧ 3071 < 3072 ∧ 255 < 256) ∧
    (State.reset.pwr.heldInReset = true ∧ owing.pwr.heldInReset = false ∧ (runOf owing 0).any (·.split) = true ∧ emberPause owing = 0 ∧
      owing.pwr.heldNow = false ∧ 4 ≤ owedOf owing 0 ∧ owedOf { owing with hrt := { owing.hrt with owedShared := [] } } 0 < 4 ∧
      after (exec (.refreshDue 0) owing) (fun t => owedOf t 0 == 0 && t.hrt.forced == 1536) = true) ∧
    (bit up.hrt.shareCtl 16 = true ∧ 16383 < 16384 ∧ bankBusy up 3071 = false ∧ atBarrier up (summitOf 3071) = true ∧ up.pwr.ready = true ∧ up.pwr.heldNow = false ∧ up.dgn.armed = false) ∧
    (up.ember 3071).state = .inService ∧
    (let s : State := { up with hrt := { embers := [{ number := 5, state := .retiring }] } }
     (s.ember 5).state = .retiring ∧
      after (exec (.bankRetireComplete 5) s) (fun t => (t.ember 5).state == .retired) = true) := by decide +kernel

/-- Die 0 in direct mode. -/
def direct : State := { up with hrt := { dieDirect := [0], operand := 0x1122334455667788, mem := [(1, 0x77)] } }

/-- A direct command's register value. -/
def dmc (op : Nat) : Word := word [put 3 0 op, put 21 8 0]

theorem test_DirectCommandsWorkOnDirectBanks :
    (dmcTakes up (dmc 1) 1 = true ∧ dmcTakes up (dmc 7) 7 = true ∧ ∃ e ∈ dmcBanks up, bankDirect up e = false) ∧
    (dmcOp 0 = 0 ∧ 8 ≤ dmcOp (dmc 8)) ∧
    (dieInUse up (selDie up) = false ∧ fld (1 : Word) 1 0 = 1 ∧ fld (0 : Word) 1 0 ≠ 1) ∧
    dieInUse { up with tie := { up.tie with frames := [{ number := 0, tenant := 7 }] } } (selDie up) = true ∧
    (OneBank direct (dmc 1) 1 0 ∧ Memory.wf direct.hrt.mem = true) ∧
    (OneBank direct (dmc 2) 2 0 ∧ (dmcRows (dmc 2)).find? (fun r => patternFails direct [] 0 r != 0) = some 0) ∧
    OneBank direct (dmc 3) 3 0 ∧
    (let s : State := { direct with hrt := { dieDirect := [0] } }
     OneBank s (dmc 4) 4 0 ∧ fld s.hrt.operand 3 0 < ucodeCount s ∧ OneBank s (dmc 2) 2 0 ∧
      (∀ r ∈ dmcRows (dmc 2), patternFails s [] 0 r = 0) ∧
      after (exec (.patternCheck ⟨dmc 2, []⟩) s) (fun t => (t.ember 0).patternPass) = true) ∧
    (OneBank direct (dmc 5) 5 0 ∧ 0 < spareLeft direct 0 ∧
      spareLeft { direct with hrt := { direct.hrt with embers := [{ number := 0, repairs := List.range 64 }] } } 0 = 0) ∧
    (OneBank direct (dmc 6) 6 0 ∧ ∀ f ∈ [(0, 9)], f.1 = 0 → f.2 ∉ dmcRows (dmc 6)) ∧
    (let s : State := { direct with hrt := { direct.hrt with embers := [{ number := 0, state := .retired, emberPass := true, patternPass := true }] } }
     OneBank s (dmc 7) 7 0 ∧ bankRetired s 0 = true ∧ (s.ember 0).testPassed = true ∧
      after (exec (.dmcReturn (dmc 7)) s) (fun t => (t.ember 0).state == .inService) = true) := by
  unfold OneBank; decide +kernel

/-! ### Search -/

/-- A record of a zero code under a key. -/
def rec7 (key : Nat) : Posting := { code := List.replicate 32 0, attr := 0, range0 := 0, range1 := 0, key := key }

/-- An index of tenant 7 in slot 0: one cell of one record, one record in the scree. -/
def idx7 : Index :=
  { slot := 0, gen := 1, live := true, tenant := 7, width := 256, cellMax := 32768,
    cells := [{ node := 0, centroid := List.replicate 32 0, edges := [], records := [rec7 1] }], scree := [rec7 2], old := 3 }

/-- Its handle. -/
def hIdx : Word := mkObject 0 7 0 1

/-- The ready part with that index and one descriptor. -/
def idxDesc (op : Nat) (more : List Nat) : State :=
  { withDesc up (rawOf op hIdx more) with srch := { indexes := [idx7] } }

/-- A lookup that finds a thing. -/
def finds {α ε : Type} [DecidableEq α] (a : Except ε α) (x : α) : Bool :=
  match a with
  | .ok y => y == x
  | _ => false

/-- An exact query of up to 64 hits. -/
def askAll : List Nat := [put 262 256 64, put 284 284 1, put 383 320 0x8000]

/-- The query's state with its one descriptor. -/
def asking : State := idxDesc opQuery askAll

/-- That query once it has started. -/
def asked : Query := (startQuery asking (waits (rawOf opQuery hIdx askAll)) idx7 (List.replicate 32 0)).2

theorem test_QueriesReadOnly :
    (let r := rawOf opQuery hIdx askAll
     canStart asking o0 opQuery = some (waits r) ∧ finds (findIndex asking (waits r)) idx7 = true ∧
      queryBad r 256 (List.replicate 32 0) = false ∧ pastDeadline asking (waits r) = false ∧ decoding asking = false ∧
      asking.srch.scans = [] ∧ asking.srch.waits = [] ∧ idx7.poisoned = [] ∧
      (answerOf asking (waits r) idx7 (List.replicate 32 0)).hits.length = 2 ∧ queryBad r 256 [] = true ∧
      after (exec (.searchQuery o0 (List.replicate 32 0) []) asking) (fun t => t.desc == [] && t.srch.partials == 1) = true) ∧
    (let s : State := { asking with ses := steps.ses }
     decoding s = true ∧ asked.left ≠ [] ∧
      after (exec (.searchQuery o0 (List.replicate 32 0) []) s) (fun t => t.srch.scans == [asked]) = true) ∧
    (up.pwr.ready = true ∧ up.pwr.heldNow = false ∧ 3 ≤ 3 ∧ decoding up = false ∧ atBarrier steps 0 = true ∧ decoding steps = true ∧
      scanTime steps 0 + 3 ≤ min 50 (fld up.hrt.shareCtl 13 8)) ∧
    (asked.bad = false ∧ (inTurn (turnBlocks 0 [asked]) asked).left ≠ [] ∧ (inTurn (turnBlocks 0 [asked]) asked).left ≠ asked.left) ∧
    (let s : State := { steps with hrt := { scanUsed := [(0, 5000000000, 8)] } }
     decoding s = true ∧ min 50 (fld s.hrt.shareCtl 13 8) < scanTime s 0 + 3 ∧ s.pwr.ready = true ∧ s.pwr.heldNow = false) ∧
    (let s : State := { steps with hrt := { runs := [{ summit := 0, dies := 1, split := false }] } }
     decoding s = true ∧ atBarrier s 0 = false) := by
  decide +kernel

/-- The bytes of a record to insert: a zero code under key 2. -/
def recBytes : List Byte := List.replicate 48 0 ++ leBytes 16 2

theorem test_IndexCommandsChangeOneIndex :
    (let m := [put 287 256 64, put 303 288 1]
     let s := idxDesc opInsert m
     let r := rawOf opInsert hIdx m
     canStart s o0 opInsert = some (waits r) ∧ indexBlocked s (waits r) = false ∧ finds (findIndex s (waits r)) idx7 = true ∧
      ((insertRecords r 256 recBytes).any fun l => l.length == 1 && l.all fun p => (insertRecord s 0 p).isSome) = true ∧
      pastDeadline s (waits r) = false ∧
      100 * (idx7.scree.length + 1) < screeMax s * clamp 10 100 (fld s.srch.ctl 31 25) ∧
      after (exec (.indexInsert o0 recBytes) s) (fun t => (t.index 0).any fun y => y.hasKey 2) = true) ∧
    (let m := [put 303 288 2]
     let s := idxDesc opDelete m
     let r := rawOf opDelete hIdx m
     canStart s o0 opDelete = some (waits r) ∧ deleteDrop r = false ∧ indexBlocked s (waits r) = false ∧ recordCount r = 2 ∧
      finds (findIndex s (waits r)) idx7 = true ∧ s.srch.scans = [] ∧
      after (exec (.indexDelete o0 (leBytes 8 1 ++ leBytes 8 9)) s) (fun t => (t.index 0).any fun y => !y.hasKey 1 && y.hasKey 2) = true) ∧
    (let m := [put 304 304 1]
     let s := idxDesc opDelete m
     let r := rawOf opDelete hIdx m
     canStart s o0 opDelete = some (waits r) ∧ deleteDrop r = true ∧ indexBlocked s (waits r) = false ∧ finds (findIndex s (waits r)) idx7 = true ∧
      runningOn s o0 (dHandle r) = []) ∧
    (let r := rawOf opMerge 0 [put 256 256 1, put 303 272 2, put 351 320 64]
     let s := withDesc up r
     canStart s o0 opMerge = some (waits r) ∧ dHandle r = 0 ∧ codeWidth (fld r 258 257) = some 256 ∧ createCentroids r = 2 ∧
      mergeCreate r = true ∧ fld r 351 320 = 2 * (256 / 8) ∧ liveIndexes s < 256 ∧ standsBy s = false ∧ s.fbx.trngOk = true ∧
      indexSlotFree s 255 = true ∧ ceilDiv (192 * 2) 65536 ≤ hearthFree s ∧
      after (exec (.indexCreate o0 (List.replicate 64 0) 255) s) (fun t => (t.index 255).any fun y => y.live && y.cells.length == 2) = true) ∧
    (let s := idxDesc opMerge []
     let r := rawOf opMerge hIdx []
     canStart s o0 opMerge = some (waits r) ∧ dHandle r ≠ 0 ∧ indexBlocked s (waits r) = false ∧ mergeCreate r = false ∧
      foothillFits s (128 * (mergeIndex idx7).written) = true ∧ s.index 0 = some idx7 ∧ finds (findIndex s (waits r)) idx7 = true ∧
      s.srch.scans = [] ∧
      after (exec (.indexMerge o0) s) (fun t => (t.index 0).any fun y => y.scree == []) = true) ∧
    (let x : Index := { idx7 with version := 1 }
     let s : State := { up with srch := { indexes := [x], scans := [asked] } }
     s.index 0 = some x ∧ ∃ q ∈ s.srch.scans, q.slot = 0 ∧ q.version < x.version ∧ q.origin ≠ none) := by decide +kernel

/-! ### Ridge -/

/-- Part 0 of a domain of two parts, leader and only keeper, with keys agreed with part 1 at address 1. -/
def net : State :=
  { up with rdg := { up.rdg with
      configured := true
      peers := [{ address := 1, part := some 1, keyed := true, lastHeard := 4000000000 }]
      map := { parts := [{ number := 0, address := 0, state := 1 }, { number := 1, address := 1, state := 1 }], keepers := [0] } } }

/-- A frame of a type from part 1, whole and first in its order. -/
def recv (type : Nat) : Received :=
  { port := 0, crcOk := true, tagOk := true, fecOk := true
    hdr := { version := 1, type := type, cls := 0, forwarded := false, retransmit := false, length := 0, srcPart := 1, dstPart := 0,
             dstAddr := 0, srcAddr := 1, epoch := 0, fseq := 0, ack := 0, tenant := 7, reqId := 0, object := 0, deadlineUs := 0,
             status := 0 } }

theorem test_FramesAreDeliveredInOrder :
    (serdesDip net = false ∧ net.dgn.armed = false ∧ (recv 0).hdr.fseq = (net.peer 1).expected ∧
      1 ≠ ((net.peer 1).expected).toNat ∧ ({ recv 0 with crcOk := false }).fecOk = true) ∧
    (Instr.requestFrame (recv 0) (.genFloor 0), 0) ∈ sequencedFrames (recv 0) (.genFloor 0) (.done 0 []) 0 none (.suspect 1) (.session false) 0 [] ∧
    after (exec (.requestFrame { recv 0 with tagOk := false } (.genFloor 0)) net) (fun t => t.fbx.isoSeen && t.fbx.isoCause == 2) = true ∧
    ((recv 6).hdr.type = 6 ∧ (recv 7).hdr.type = 7) ∧
    after (exec (.keepalive (recv 7) none) net) (fun t => (t.peer 1).lastHeard == 5000000000) = true := by decide +kernel

/-- A foothill extent of this part, lent to part 1. -/
def lent1 : Lent := { handle := mkExtent 0 1 0 1, tier := 1, index := 0, state := 1, borrower := 1, wasBorrowed := true }

/-- A region of one unit of 64 MiB in slot 0, mapped here with a live view, and mapped by part 1. -/
def reg7 : Region :=
  { slot := 0, gen := 1, tenant := 7, shared := true, digests := false, size := 0x4000000,
    mappers := [{ part := 0, view := 0, index := 0 }, { part := 1, view := 0, index := 1 }] }

/-- Its handle. -/
def hReg : Word := mkObject 0 7 0 1

def withRegion (r : Region) (s : State) : State := { s with rdg := { s.rdg with regions := [r] } }

theorem test_Arrives :
    (Arrives net (recv 0) 0 ∧ Arrives net (recv 1) 1 ∧ Arrives net (recv 3) 3 ∧ Arrives net (recv 4) 4 ∧ Arrives net (recv 5) 5 ∧
      Arrives net (recv 8) 8) := by
  unfold Arrives; decide +kernel

theorem test_DeliveredFramesAct :
    ((recv 0).hdr.epoch ≤ net.rdg.map.epoch ∧ (recv 0).hdr.dstPart = net.rdg.part ∧ (List.replicate 512 (0 : Byte)).length = 512) ∧
    (let s : State := { net with rdg := { net.rdg with lent := [lent1] } }
     extentAccess s lent1.handle 1 = none ∧ extentAccess net lent1.handle 1 = some .extentUnmapped) ∧
    (let d : InFlight := { waits (rawOf opPark 0 []) with phase := .sent 1 0 }
     let s : State := { net with desc := [d] }
     statusOfCode (recv 1).hdr.status.toNat = .ok ∧ (∀ a ∈ s.rdg.asked, a.id ≠ (recv 1).hdr.reqId) ∧ sentDescriptor s (recv 1).hdr.reqId = some d ∧
      waitsRecords s d.origin = false ∧ recordsOf s 0 0 = 0 ∧
      after (exec (.responseFrame (recv 1) (.done 5 [])) s) (fun t => t.desc == []) = true) ∧
    (let r : Region := { reg7 with ops := [{ asker := .host 64, action := .write 2 0 [1], begun := true, waiting := [1] }] }
     let s := withRegion r net
     regionOf s hReg = some r ∧ r.mappers ≠ [] ∧ r.unmapping = [] ∧
      r.ops = [{ asker := .host 64, action := .write 2 0 [1], begun := true, waiting := [(recv 4).hdr.srcAddr] }] ∧
      after (exec (.invalidateAcknowledge (recv 4) hReg (some 2)) s) (fun t => t.out.contains (.writeDone 64)) = true) ∧
    (hearthFits (keepArriving net (recv 8).hdr.object 0 false []) 0 false = true ∧
      foothillFits (keepArriving net (recv 8).hdr.object 0 true []) 0 = true) ∧
    (net.rdg.early = [] ∧ isLeader net = true ∧ net.rdg.map.epoch + 1 < 2 ∧ net.rdg.map.missed = [] ∧ (1 : Nat) ≠ net.rdg.part ∧
      (net.mapPart 1).isSome = true) ∧
    after (exec (.mapFrame (recv 5) (.commit 1 [.twinOf 1 0])) net) (fun t => t.rdg.map.epoch == 1) = true ∧
    (net.twin ≠ some 1 ∧
      ({ net with rdg := { net.rdg with map := { net.rdg.map with parts := [{ number := 0, address := 0, state := 1, twin := some 1 }] } } } : State).twin = some 1) := by decide +kernel

/-- A frame to address 1 that was sent at 4 s and is not acknowledged. -/
def sent1 : OutFrame := { hdr := { (recv 0).hdr with dstAddr := 1, srcAddr := 0 }, payload := .none, sentAt := 4000000000 }

def netUnacked (at' : Nat) : State :=
  { net with rdg := { net.rdg with peers := [{ address := 1, part := some 1, keyed := true, lastHeard := 4000000000, unacked := [{ sent1 with sentAt := at' }] }] } }

theorem test_RidgeTimersActWhenDue :
    (oldestUnacked (netUnacked 4000000000) 1 = some sent1 ∧
      sent1.again.getD sent1.sentAt + retxNs (netUnacked 4000000000) ≤ (netUnacked 4000000000).localNs ∧
      (netUnacked 5000000000).localNs < 5000000000 + retxNs (netUnacked 5000000000)) ∧
    (net.pwr.ready = true ∧ net.rdg.configured = true) ∧
    (((netUnacked 4000000000).peer 1).suspect = false ∧ unackedFor (netUnacked 4000000000) 1 (peerTimeout net) = true ∧
      unackedFor (netUnacked 5000000000) 1 (peerTimeout net) = false ∧ partAt (netUnacked 4000000000) 1 = some 1 ∧
      isLeader (netUnacked 4000000000) = true) ∧
    ((net.mapPart 1).any (fun p => decide ((net.peer p.address).lastHeard + peerTimeout net ≤ net.localNs) && p.state != 2) = true ∧
      quorumUp net = true ∧ isLeader net = true ∧ (1 : Nat) ≠ net.rdg.part) ∧
    (let s : State := { net with localNs := 4000000000 }
     (s.mapPart 1).any (fun p => decide (s.localNs < (s.peer p.address).lastHeard + peerTimeout s)) = true) ∧
    (net.addressOf 1 = some 1 ∧ unackedFor (netUnacked 4000000000) 1 (4 * peerTimeout net) = true ∧
      unackedFor (netUnacked 5000000000) 1 (4 * peerTimeout net) = false) ∧
    (let d : InFlight := { waits (rawOf opPark 0 []) with phase := .sent 1 0 }
     let s : State := { netUnacked 0 with desc := [d] }
     unackedFor s 1 (4 * peerTimeout s) = true ∧ s.descriptor o0 = some d ∧ dOpcode d.raw ≠ opGenerate ∧
      after (exec (.peerLostTimeout 1) s) (fun t => t.desc == []) = true) ∧
    after (exec (.partDownDetect 1) net) (fun t => t.rdg.map.proposals == [(0, .part 1 1 2)]) = true := by decide +kernel

theorem test_MapChangesByCommit :
    (isLeader up = false ∧ isLeader net = true ∧ quorumUp net = true ∧ net.rdg.map.proposals = [] ∧
      changeValid net.rdg.map (.extentGone 5) = false ∧ (1 : Nat) ≠ net.rdg.part ∧ net.rdg.early = [] ∧ (net.mapPart 1).isSome = true) ∧
    (quorumUp up = false ∧
     (let s : State := { net with rdg := { net.rdg with map := { net.rdg.map with keepers := [0, 1, 2], leader := 2 } } }
      quorumUp s = true ∧ s.rdg.map.keepers.contains 0 = true ∧ s.rdg.map.term < 1 ∧ keeperReached s s.rdg.map.leader = false)) ∧
    (let d : InFlight := { waits (rawOf opLend 0 []) with phase := .running, waitsMap := some 4000000000 }
     let s : State := { net with desc := [d] }
     s.descriptor o0 = some d ∧ 4000000000 + 1000000000 ≤ s.localNs ∧ ({ s with localNs := 4999999999 } : State).localNs < 4000000000 + 1000000000) ∧
    (let e : Early := { id := 4, bound := 5000000000, frame := recv 0, req := .genFloor 1 }
     let s : State := { net with rdg := { net.rdg with early := [e] } }
     s.rdg.early.find? (fun e => e.id == 4 && decide (e.bound ≤ s.localNs)) = some e) := by decide +kernel

theorem test_PortsAndLinkKeys :
    net.rdg.ports.any (fun p => p.number == 5) = true ∧
    (net.fbx.identityOk = true ∧ net.fbx.trngOk = true ∧ net.rdg.configured = true ∧
      acceptsOffer net 1 { chainOk := true, leafEqual := true, domain := 0, part := 1, address := 1 } = true ∧
      acceptsOffer net 1 { chainOk := true, leafEqual := true, domain := 3, part := 1, address := 1 } = false) ∧
    ((net.peer 1).keyed = true ∧ (net.peer 1).framesSent < 2 ^ 48 ∧ net.localNs < (net.peer 1).keyedAt + 86400000000000 ∧
      (let s : State := { net with localNs := 86400000000000 }
       (s.peer 1).keyedAt + 86400000000000 ≤ s.localNs ∧ (s.peer 1).keyed = true)) := by decide +kernel

/-! ### Pool and regions -/

/-- One borrowed extent of part 1, granted and empty. -/
def borrows : State :=
  { net with rdg := { net.rdg with borrowed := [{ handle := ext1, lender := 1, granted := true, closing := true }] } }

theorem test_ExtentsFollowTheMap :
    (let r := rawOf opLend 0 [put 255 192 0x9000, put 263 256 1, put 271 264 1]
     let s := withDesc net r
     canStart s o0 opLend = some (waits r) ∧ lendCount r = 1 ∧ dParam r ≠ 0 ∧ lendTier r = 1 ∧ extentRoom s 1 1 = true ∧
      standsBy s = false ∧
      extentRoom { s with tie := { s.tie with retiredGranules := 3221225472 } } 1 1 = false) ∧
    (let s : State := { net with rdg := { net.rdg with map := { net.rdg.map with extents := [{ handle := ext1, state := 0 }] } } }
     s.pwr.ready = true ∧ quorumUp s = true ∧ hPart ext1 ≠ s.rdg.part ∧ s.partUp (hPart ext1) = true ∧ s.borrowedOf ext1 = none ∧
      extentState s.rdg.map ext1 = some 0) ∧
    ((borrows.borrowedOf ext1).any (fun b => b.granted && b.closing) = true ∧ extentEmpty borrows ext1 = true ∧ quorumUp borrows = true ∧
      borrows.rdg.map.proposals.contains (borrows.rdg.part, .extent ext1 4 0) = false ∧
      extentEmpty { borrows with ses := { table := [{ ses7 with pages := [{ cold with place := .pool ext1 0 1 [] }] }] } } ext1 = false) ∧
    (let r := rawOf opRevoke lent1.handle []
     let s : State := { withDesc net r with rdg := { net.rdg with lent := [lent1] } }
     canStart s o0 opRevoke = some (waits r) ∧ s.lentOf (dHandle r) = some lent1 ∧ lent1.lender = none ∧ lent1.revokers = [] ∧
      lent1.state ≤ 1 ∧ after (exec (.extentRevoke o0) s) (fun t => t.rdg.map.proposals.length == 1) = true) ∧
    (let l : Lent := { lent1 with state := 2, graceAt := some 4000000000 }
     let s : State := { net with rdg := { net.rdg with lent := [l] } }
     s.lentOf l.handle = some l ∧ 4000000000 + graceOf s l ≤ s.localNs ∧ l.graceEnd = none ∧
      ({ s with localNs := 4000000000 } : State).localNs < 4000000000 + graceOf s l) := by decide +kernel

/-- The lowest free extents of the foothill tier number one when one is asked for. -/
theorem test_FreeExtents : (freeExtents net 1 1).length = 1 := by decide +kernel

/-- No frame with a clear pending passes to another owner. -/
def takesNone (s t : State) : Bool := takenUncleared s t == []

/-- The region's handle mapped at unit 5. -/
def map5 (view : Nat) : Mapping := { unit := 5, handle := hReg, size := 0x4000000, view := view, shared := true, digest := false }

theorem test_RegionsAreMappedAndSealed :
    (let r := rawOf opRegionMap 0 [put 256 256 1, put 263 262 1, put 274 264 1, put 299 288 5]
     let s := withDesc net r
     canStart s o0 opRegionMap = some (waits r) ∧ mapCreate r = true ∧ createMalformed s r = false ∧ mapTier r = 1 ∧ freeRegionSlot s = some 0 ∧
      standsBy s = false ∧ s.fbx.trngOk = true ∧ (reserveRegion s r 7).any (fun q => takesNone s q.1) = true) ∧
    (let r := rawOf opRegionMap hReg [put 299 288 9]
     let s := withRegion reg7 (withDesc net r)
     canStart s o0 opRegionMap = some (waits r) ∧ mapCreate r = false ∧ mapUnmap r = false ∧ mapMalformed s r = false ∧
      hTenant (dHandle r) = 7 ∧ hPart (dHandle r) = s.rdg.part ∧ regionOf s (dHandle r) = some reg7 ∧
      badPlace s (mapUnit r) (ceilDiv reg7.size unitBytes) = false ∧ reg7.shared = true ∧
      after (exec (.regionMap o0) s) (fun t => t.rdg.mappings.length == 1) = true) ∧
    (let r := rawOf opRegionMap hReg [put 257 257 1]
     let s : State := withRegion reg7 (withDesc net r)
     let s : State := { s with rdg := { s.rdg with mappings := [map5 0] } }
     canStart s o0 opRegionMap = some (waits r) ∧ mapUnmap r = true ∧ hTenant (dHandle r) = 7 ∧ s.partKnown (hPart (dHandle r)) = true ∧
      s.rdg.mappings.find? (fun m => m.handle == dHandle r) = some (map5 0) ∧ (regionOf s (dHandle r)).isSome = true) ∧
    (let r := rawOf opPublish hReg [put 287 256 1]
     let s := withRegion { reg7 with version := 1 } (withDesc net r)
     canStart s o0 opPublish = some (waits r) ∧ publishQuery r = false ∧ publishRegion s (waits r) = some { reg7 with version := 1 } ∧
      reg7.ops = [] ∧ reg7.lostPages = [] ∧ reg7.mappers ≠ [] ∧ reg7.unmapping = [] ∧ (∀ m ∈ reg7.mappers, m.view ≠ 2) ∧ publishExpected r = 1 ∧
      after (exec (.regionPublish o0) s) (fun t => (t.region 0).any fun y => y.version == 2) = true ∧
      after (exec (.regionPublish o0) (withRegion reg7 s)) (fun t => (t.region 0).any fun y => y.version == 0) = true) ∧
    publishQuery (rawOf opPublish hReg [put 288 288 1]) = true := by decide +kernel

/-- The region mapped at unit 5 for the host. -/
def hostSees (view : Nat) : State :=
  let s := withRegion { reg7 with mappers := [{ part := 0, view := view, index := 0 }] } net
  { s with rdg := { s.rdg with mappings := [map5 view] } }

def off5 : Nat := 5 * unitBytes + 192

theorem test_HostReadsAndWritesRegions :
    (net.pwr.ready = true ∧ net.host.attached = true ∧ off5 < digestBase ∧ digestBase ≤ digestBase + 64 ∧ mappingAt net off5 = none ∧
      windowPage net (digestBase + 64) = none ∧ off5 % 64 + 64 ≤ 64) ∧
    (mappingAt (hostSees 0) off5 = some (map5 0, 192) ∧ (map5 0).dead = false ∧ (map5 0).view ≠ 2 ∧ cached (hostSees 0) hReg (192 / 256) false = none ∧
      (regionOf (hostSees 0) hReg).any (fun r => r.ops == [] && r.mappers != [] && r.unmapping == [] && !r.lostPages.contains (192 / 256 / 256) &&
        !(hostReadErrors (hostSees 0) r 192 []).2 && sharersOf r (192 / 256) == []) = true ∧ memoriesCanonical (hostSees 0) = true) ∧
    (hostReadErrors (hostSees 0) { reg7 with pages := [.frame 0] } 192 [{ ember := 0, row := 0, column := 0, symbols := 2 }]).2 = true ∧
    (mappingAt (hostSees 1) off5 = some (map5 1, 192) ∧ (map5 1).view ≠ 0) ∧
    (let s : State := { hostSees 1 with rdg := { (hostSees 1).rdg with lines := [{ region := hReg, line := 0, data := List.replicate 256 1, version := none }] } }
     (cached s hReg (192 / 256) ((map5 1).view == 2)).isSome = true) ∧
    (let s : State := { net with rdg := { net.rdg with mappings := [{ map5 0 with dead := true }] } }
     mappingAt s off5 = some ({ map5 0 with dead := true }, 192)) ∧
    after (exec (.hostMemWrite off5 [1, 2, 3]) (hostSees 0)) (fun t => (t.region 0).any fun y => readRegion t y 192 3 == [1, 2, 3]) = true ∧
    after (exec (.hostMemRead off5 []) net) (fun t => t.out == [.readData off5 (List.replicate 64 0xFF) true]) = true ∧
    after (exec (.hostMemRead (digestBase + 64) []) { net with host := { net.host with attached := false } })
      (fun t => t.out == [.readData (digestBase + 64) (List.replicate 64 0xFF) true] && t.dgn.cxlUnmapped == 1) = true := by decide +kernel

/-! ### Twin and cairns -/

/-- Part 0 paired with part 1, port 5 up to its partner. -/
def paired : State :=
  { net with rdg := { net.rdg with
      twinState := 1
      ports := [{ number := 5, state := .up, lanes := 0xFF, partner := true }]
      map := { net.rdg.map with parts := [{ number := 0, address := 0, state := 1, twin := some 1 }, { number := 1, address := 1, state := 1, twin := some 0 },
                                          { number := 2, address := 2, state := 1 }] } } }

/-- What the twin sends of one session. -/
def handed7 : Restored :=
  { slot := 3, gen := 4, tenant := 7, image := 1, variant := 0, cls := 0, durability := 1, context := 64, seed := 0, grammar := none, grammarBytes := 0,
    start := 0, maxStack := 0, gstate := 0, gstack := [], log := [(65, 0)], waiting := [], parked := false, hasPages := false, epoch := 0, wseq := 1,
    layers := [], summaries := [], tuning := none, schedule := none, running := none }

theorem test_TwinPairKeepsLogs :
    (net.pwr.ready = true ∧ bit (0x401 : Word) 10 = true) ∧
    (paired.rdg.twinState ≠ 2 ∧ twinReachable paired = true ∧ restoringAny paired = false ∧ paired.fbx.trngOk = true) ∧
    (let s : State := { paired with rdg := { paired.rdg with twinState := 2, ports := [] , twinCtl := 0 } }
     twinReachable s = false ∧ s.rdg.twinState = 2) ∧
    (paired.twin.any paired.partUp = true ∧ paired.session 3 = none ∧ (1 : Nat) ≠ 0 ∧
      after (exec (.twinRestore 9 [{ slot := 3, gen := 4, durability := 1, parked := false }] []) paired)
        (fun t => t.ses.floor == 9 && (t.session 3).any fun y => y.state == .restoring) = true) ∧
    (let s : State := { paired with ses := { table := [{ slot := 3, gen := 4, state := .restoring, tenant := 7 }] } }
     (s.session 3).any (fun x => x.state == .restoring && x.gen == handed7.gen) = true ∧ handed7.hasPages = false ∧
      after (exec (.twinRestore 9 [] [handed7]) s) (fun t => (t.session 3).any fun y => y.log == [(65, 0)]) = true) ∧
    (let s : State := { paired with rdg := { paired.rdg with partnerDownAt := some 0, map := { paired.rdg.map with
        parts := [{ number := 0, address := 0, state := 1, twin := some 1 }, { number := 1, address := 1, state := 2, twin := some 0 }, { number := 2, address := 2, state := 1 }] } } }
     s.twin = some 1 ∧ s.rdg.partnerDownAt = some 0 ∧ (s.mapPart 2).any (fun e => e.state == 1) = true ∧ 2 ≠ s.rdg.part ∧
      (s.mapPart 1).any (fun q => q.state == 2) = true ∧ 0 + rejoinWait s ≤ s.localNs ∧
      s.rdg.map.proposals.contains (s.rdg.part, .part 1 2 1) = false ∧ ({ s with localNs := 0 } : State).localNs < 0 + rejoinWait s ∧
      after (exec (.takeover 2) s) (fun t => t.rdg.map.proposals.length == 4) = true) := by decide +kernel

/-- The slots of a cairn of 1 MiB at 0x100000 and 0x200000. -/
def cairnMore : List Nat := [put 311 296 1, put 383 320 0x100000, put 447 384 0x200000]

/-- Stages' tuning states, more than a slot holds. -/
def bigCairn : List CairnObject := (List.range 260).map fun n => { kind := 1, stage := n, data := [1] }

/-- A sealed slot whose manifest lists no shard, of cairn_seq 5, for image 0 and a log of one token. -/
def cairnManifest : List Byte := leBytes 128 (2 ^ 256)
def cairnSlot5 : CairnSlot :=
  { sealBits := BitVec.ofNat 512 (1 + 128 * 2 ^ 32 + 5 * 2 ^ 64 + (sha384 cairnManifest).toNat * 2 ^ 128), manifest := cairnManifest, shards := [],
    record := { handed7 with durability := 0 }, pages := [] }
def noSlot : CairnSlot := { cairnSlot5 with sealBits := 0 }

theorem test_CairnsSealOneSlot :
    (let s := sesDesc opCairn cairnMore id
     let r := rawOf opCairn h7 cairnMore
     let x : Session := { ses7 with image := 1 }
     runsOn (startSession s o0 opCairn false) (waits r) x = true ∧ cairnIsRestore r = false ∧ cairnIsArm r = false ∧ cairnIsDisarm r = false ∧
      cairnBadSlots r = false ∧ cairnKv r = false ∧ cairnSize (layShards 8192 (cutShards (cairnObjects s x false []))) ≤ 1048576 * cairnMib r ∧
      after (exec (.cairnWrite { origin := o0 } [] true) s) (fun t => (t.session 0).any fun y => y.cairnSeq == 1) = true) ∧
    (let s := sesDesc opCairn (put 257 257 1 :: cairnMore) id
     runsOn (startSession s o0 opCairn false) (waits (rawOf opCairn h7 (put 257 257 1 :: cairnMore))) { ses7 with image := 1 } = true ∧
      cairnIsArm (rawOf opCairn h7 (put 257 257 1 :: cairnMore)) = true ∧ cairnBadSlots (rawOf opCairn h7 (put 257 257 1 :: cairnMore)) = false) ∧
    (let s := sesDesc opCairn [put 258 258 1] id
     runsOn (startSession s o0 opCairn false) (waits (rawOf opCairn h7 [put 258 258 1])) { ses7 with image := 1 } = true ∧
      cairnIsDisarm (rawOf opCairn h7 [put 258 258 1]) = true) ∧
    (let c : Schedule := { armer := o0, kv := false, interval := 1, every := 0, slotMib := 1, slotA := 0x100000, slotB := 0x200000, seed := 0, lastNs := 4000000000 }
     let s := withSes fun x => { x with schedule := some c }
     cairnIsDue s c = true ∧ cairnIsDue s { c with interval := 2 } = false ∧ s.pwr.ready = true ∧ s.pwr.heldNow = false ∧ armerServes s c.armer = true ∧
      cairnSize (layShards 8192 (cutShards (cairnObjects s { ses7 with schedule := some c } false []))) ≤ 1048576 * c.slotMib ∧
      after (exec (.cairnDue { slot := 0 } [] true) s) (fun t => (t.session 0).any fun y => y.cairnSeq == 1) = true) ∧
    (up.pwr.ready = true ∧ overThreshold 1001 (fld up.crn.triggerCtl 31 16) = true ∧ overThreshold 1000 (fld up.crn.triggerCtl 31 16) = false ∧
      up.crn.lastTrigger = none ∧ up.crn.lastCheck = none ∧
      ({ up.crn with lastCheck := some 4500000000 }).lastCheck.any (fun t0 => decide (up.localNs < t0 + 1000000000)) = true ∧ after (exec (.earlyWarningCheck 1001 0) up) (fun t => t.crn.triggerSeen) = true) := by decide +kernel

theorem test_CairnTooLarge :
    1048576 * cairnMib (rawOf opCairn h7 cairnMore) <
      cairnSize (layShards 8192 (cutShards (cairnObjects (sesDesc opCairn cairnMore id) { ses7 with image := 1 } false bigCairn))) := by decide +kernel

theorem test_CairnRestores :
    (let r := rawOf opCairn 0 (put 256 256 1 :: cairnMore ++ [put 511 448 1])
     let s := withDesc (withImg up) r
     canStart s o0 opCairn = some (waits r) ∧ s.ses.gate = false ∧ cairnIsRestore r = true ∧ dHandle r = 0 ∧ chosenSlot noSlot noSlot = none ∧
      chosenSlot cairnSlot5 noSlot = some cairnSlot5 ∧ slotFree s 9 = true ∧
      (match restoreCairn s (waits r) cairnSlot5 [(0x100000, 5)] true 9 with | .ok q => takesNone s q.1 | .error _ => false) = true) := by decide +kernel

/-! ### Firmware -/

/-- A FW_BLOCK descriptor: op, target, download 9. -/
def fwRaw (op target : Nat) (more : List Nat) : BitVec 512 :=
  rawOf opFwBlock 0 ([put 258 256 op, put 260 259 target, put 295 264 9] ++ more)

/-- A block of four bytes. -/
def fwBytes : List Byte := [1, 2, 3, 4]

/-- A state whose inactive slot holds a verified image of another frame version. -/
def newImage : FwImage := { version := 2, frameVer := 2, digest := 77 }
def twoSlots (i : FwImage) (s : State) : State :=
  { s with fwu := { s.fwu with slots := [{ state := 3, image := some {} }, { state := 2, image := some i }] } }

/-- A good header of an image of n bytes, its first 40 bytes. -/
def imageHead (n : Nat) : List Byte := leBytes 40 (1 + 0x9140 * 2 ^ 16 + 3 * 2 ^ 32 + n * 2 ^ 64 + 1 * 2 ^ 192)

/-- An image of 8,192 bytes, good but for what its signature says. -/
def fwImg : List Byte := imageHead 8192 ++ List.replicate 8152 0

/-- A download that holds it. -/
def downloaded (bytes : List Byte) (s : State) : State :=
  { s with fwu := { s.fwu with downloads := [some { id := 9, blocks := [(0, bytes)] }, none, none] } }

theorem test_FirmwareBlocksFillTheInactiveSlot :
    (let r := fwRaw 0 0 [put 336 320 4, put 255 192 0x8000]
     let s := withDesc up r
     startFirmware s o0 0 = some (waits r) ∧ fwMalformed r = false ∧ fwBusy s r = false ∧ (fwBytes.take (fwLength r)).length = fwLength r ∧
      (openDownload (openFor s.fwu (fwTarget r) (fwId r)) (fwTarget r)).isSome = true ∧
      sha384 (fwBytes.take (fwLength r)) ≠ 0 ∧ sha384 (fwBytes.take (fwLength r)) = sha384 fwBytes ∧
      after (exec (.fwBlockWrite o0 (sha384 fwBytes) fwBytes true) s)
        (fun t => t.desc == [] && openDownload t.fwu 0 == some { id := 9, blocks := [(0, fwBytes)] }) = true) ∧
    (let r := fwRaw 1 0 []
     let s := downloaded fwBytes (withDesc up r)
     startFirmware s o0 1 = some (waits r) ∧ fwMalformed r = false ∧ fwDiscarded s r = false ∧ fwTarget r = 0 ∧
      openDownload s.fwu 0 = some { id := 9, blocks := [(0, fwBytes)] } ∧ fwId r = 9 ∧ s.fwu.slots.length = 2 ∧
      imageRefusal (fwBytes.take (bfld (fwBytes.take 256) 95 64)) = some .formatUnsupported) ∧
    (let r := fwRaw 2 0 []
     let s := twoSlots newImage (withDesc up r)
     startFirmware s o0 2 = some (waits r) ∧ fwMalformed r = false ∧ fwDiscarded s r = false ∧ verifiedImage s.fwu = some newImage ∧
      fwCold r = false ∧ compatibleLive s = false) ∧
    (let r := fwRaw 2 0 []
     let s := twoSlots { version := 2, digest := 77 } (withDesc up r)
     startFirmware s o0 2 = some (waits r) ∧ fwMalformed r = false ∧ fwDiscarded s r = false ∧ (verifiedImage s.fwu).isSome = true ∧
      fwCold r = false ∧ fwDomain r = false ∧ compatibleLive s = true ∧ s.fwu.attemptAt = none ∧ s.fwu.retryAt = none ∧
      fwEpoch r ≤ s.rdg.map.epoch) ∧
    (let r := fwRaw 2 0 [put 261 261 1]
     let s := twoSlots newImage (withDesc up r)
     startFirmware s o0 2 = some (waits r) ∧ verifiedImage s.fwu = some newImage ∧ fwCold r = true ∧ fwDomain r = false ∧
      decide (fwEpoch r ≤ s.rdg.map.epoch) = true ∧
      after (exec (.fwBlockActivate o0) s) (fun t => t.fwu.coldSlot == some 1) = true) ∧
    (let r := fwRaw 2 0 [put 261 261 1, put 447 384 5]
     let s := twoSlots newImage (withDesc up r)
     startFirmware s o0 2 = some (waits r) ∧ fwCold r = true ∧ s.rdg.map.epoch < fwEpoch r) ∧
    (let r := fwRaw 2 0 [put 261 261 1, put 262 262 1]
     let s := twoSlots newImage (withDesc up r)
     startFirmware s o0 2 = some (waits r) ∧ fwMalformed r = false ∧ fwCold r = true ∧ fwDomain r = true) ∧
    (let r := fwRaw 3 0 []
     let s := downloaded fwBytes (withDesc up r)
     startFirmware s o0 3 = some (waits r) ∧ fwMalformed r = false ∧ fwBusy s r = false ∧
      after (exec (.fwBlockAbort o0) s) (fun t => t.desc == [] && t.fwu.discardedIds == [(0, 9)]) = true) := by decide +kernel

/-- The bytes of a download in one run, cut at the length its header gives. -/
theorem fwImg_whole : fwImg.length = 8192 ∧ bfld (fwImg.take 256) 95 64 = 8192 ∧ imageOutOfRange (fwImg.take 256) = false ∧
    imageElsewhere (fwImg.take 256) = false := by decide +kernel

/-- A whole image whose chain and signature hold is taken: no evaluation can show one, since the device's key is
the implementation's (Config.chainLeaf, Config.ecdsaOk). -/
theorem test_SignedImageIsTaken (signed : imageSignatureOk fwImg = true) : imageRefusal fwImg = none := by
  obtain ⟨h1, h2, h3, h4⟩ := fwImg_whole
  simp [imageRefusal, h1, h2, h3, h4, signed]

/-- The part with a live activation that its inactive slot can serve. -/
def switches : State :=
  let s := twoSlots { version := 2, digest := 77 } up
  { s with fwu := { s.fwu with activation := some { epoch := 0 }, attemptAt := some 0 } }

def confirming : State :=
  { up with fbx := { up.fbx with policy := true }, fwu := { up.fwu with confirmed := false, confirmAt := some 5000000000 } }

theorem test_FirmwareSwitchKeepsSessions :
    (switches.pwr.ready = true ∧ switches.pwr.heldNow = false ∧ switchPending switches = true ∧ switches.fwu.retryAt = none ∧
      compatibleLive switches = true ∧ quiesced switches = true ∧ switches.ses.batches = [] ∧
      quiesced { switches with ses := steps.ses } = false ∧ after (exec .firmwareSwitch switches) (fun t => t.fwu.active == 1) = true ∧
      (withPwr fun p => { p with dipActive := true, heldNow := true }).pwr.heldNow = true) ∧
    (0 + switches.fwu.attemptWait.getD (quiesceNs switches) ≤ switches.localNs ∧ ({ switches with localNs := 0 } : State).localNs < 0 + quiesceNs switches ∧
      after (exec .quiesceTimeout switches) (fun t => t.fwu.retryAt == some 5010000000) = true) ∧
    (let s : State := { switches with fwu := { switches.fwu with retryAt := some 5000000000, attemptAt := none } }
     5000000000 ≤ s.localNs ∧ ({ s with localNs := 0 } : State).localNs < 5000000000 ∧ s.pwr.heldNow = false ∧ switchPending s = true ∧
      after (exec .quiesceRetry s) (fun t => t.fwu.attemptAt == some 5000000000) = true) ∧
    (confirming.pwr.ready = true ∧ confirming.fbx.policy = true ∧ confirming.fwu.confirmed = false ∧ hostAsBefore confirming = true ∧
      confirming.rdg.configured = false ∧ after (exec (.imageConfirm true true) confirming) (fun t => t.fwu.confirmed) = true ∧
      after (exec (.imageConfirm false true) confirming) (fun t => t.fwu.confirmed) = false) ∧
    ((5000000000 : Nat) ≤ confirming.localNs ∧ ({ confirming with localNs := 0 } : State).localNs < 5000000000 ∧
      after (exec .confirmWindowExpire confirming) (fun t => t.pwr.lastCause == 7 && t.fwu.fallbackSeen) = true ∧
      slotBoots (twoSlots newImage confirming).fwu (1 - confirming.fwu.active) = true) ∧
    (bit (0x100 : Word) 8 = true ∧ bit (0x05 : Word) 8 = false ∧
      after (exec (.fwReject 0x105) confirming) (fun t => t.pwr.lastCause == 7) = true) ∧
    (let s : State := { inReset with pwr := { inReset.pwr with bootStage := 7 }, fwu := { inReset.fwu with rcvBusy := true, rcvCtl := 4 } }
     s.fwu.rcvBusy = true ∧ recoveryResult s (some fwBytes) true = 1 ∧ recoveryResult s none true = 5 ∧
      s.fwu.lastFailed.getD 0 < s.fwu.slots.length ∧
      after (exec (.recoveryDownloadDone none true []) s) (fun t => t.fwu.rcvResult == 5 && !t.fwu.rcvBusy) = true) := by decide +kernel

/-- A recovery download of a whole signed image ends well. -/
theorem test_SignedRecoveryEndsWell (signed : imageSignatureOk fwImg = true) :
    recoveryResult { inReset with fwu := { inReset.fwu with rcvBusy := true, rcvCtl := 8192 } } (some fwImg) true = 0 := by
  obtain ⟨h1, h2, h3, h4⟩ := fwImg_whole
  have ht : fwImg.take 8192 = fwImg := by rw [← h1, List.take_length]
  have hc : fld (8192#64) 25 0 = 8192 := by decide
  simp [recoveryResult, h1, h2, hc, ht, imageRefusal, h3, h4, signed]

/-! ### Firebox, bellows, injection -/

/-- A connection whose algorithms are settled. -/
def spdmUp : State := { up with fbx := { up.fbx with spdm := { version := true, caps := true, algos := true } } }

theorem test_SpdmAnswersEachRequest :
    up.fbx.identityOk = true ∧ spdmReady up = false ∧ spdmReady spdmUp = true ∧ spdmUp.fbx.identityOk = true ∧
    ({ up with fbx := { up.fbx with identityOk := false } } : State).fbx.identityOk = false ∧ (0 : Nat) ≤ (certificateChain spdmUp).length ∧
    ((measurements up).map (·.index)) = [1, 2, 3] ∧
    after (exec .getVersion up) (fun t => t.fbx.spdm == { version := true }) = true ∧
    after (exec (.getMeasurements 0 0) up) (fun t => t.out == [.spdm .error]) = true := by decide +kernel

/-- A data frame for address 1. -/
def frame1 (type : Nat) : OutFrame :=
  { hdr := { (recv type).hdr with srcPart := 0, dstPart := 1, dstAddr := 1, srcAddr := 0 }, payload := .none }

/-- Port 0 up, with a frame waiting in its control queue or in its class 0. -/
def boundary (control : List OutFrame) (queue : List OutFrame) (held : Bool) : State :=
  { net with
    pwr := { net.pwr with dipActive := held, heldNow := held }
    rdg := { net.rdg with ports := [{ number := 0, state := .up, lanes := 0xFF }] }
    blw := { net.blw with ports := [{ number := 0, control := control, classes := { queue := queue } :: List.replicate 7 {} }] } }

/-- Two gates of 1,000 ns each. -/
def gates2 : List Gate := [{ mask := 1, ns := 1000 }, { mask := 2, ns := 1000 }]

/-- Port 0 with a running gate list, a pending one and a committed one. -/
def gated : State :=
  { up with blw := { up.blw with ports := [{ number := 0, ctl := 0x118, active := gates2, entryAt := 1000, cycleAt := 1000, committed := some gates2,
                                             pendingEntries := gates2.zipIdx.map fun p => (p.2, p.1), lastEntry := some 1 }] } }

theorem test_BellowsSendByClassAndGate :
    (let s := boundary [frame1 6] [] false
     (s.port 0).state = .up ∧ (s.bellow 0).control = [frame1 6] ∧ frameReady s (frame1 6) = true ∧ holdsFrame s (frame1 6) = false ∧
      after (exec (.bellowsFrameBoundary 0) s) (fun t => t.out.length == 1 && (t.bellow 0).control == []) = true) ∧
    (let s := boundary [frame1 8] [] false
     takesSeq (frame1 8) = true ∧ frameReady s (frame1 8) = true ∧ holdsFrame s (frame1 8) = false ∧
      after (exec (.bellowsFrameBoundary 0) s) (fun t => (t.peer 1).nextSeq == 1 && (t.peer 1).unacked.length == 1) = true) ∧
    (let s := boundary [] [frame1 0] true
     (s.port 0).state = .up ∧ (s.bellow 0).control = [] ∧ s.pwr.heldNow = true ∧
      (s.bellow 0).classes.all (fun c => c.queue.all fun f => !controlType f.hdr.type) = true) ∧
    ((gated.bellow 0).active[(gated.bellow 0).index]? = some { mask := 1, ns := 1000 } ∧ (gated.bellow 0).gated = true ∧
      (gated.bellow 0).entryAt + 1000 ≤ gated.localNs ∧ (gated.bellow 0).index + 1 < (gated.bellow 0).active.length ∧
      ({ gated with localNs := 1999 } : State).localNs < (gated.bellow 0).entryAt + 1000) ∧
    (gated.pwr.ready = true ∧ selPort gated ≠ 6 ∧ bit (1 : Word) 0 = true ∧ bit (2 : Word) 1 = true ∧
      gateListBad (pendingList (gated.bellow 0)) = false ∧ gateListBad (pendingList (up.bellow 0)) = true ∧
      after (exec (.gclCommit 1) gated) (fun t => (t.bellow 0).committed == some gates2) = true) ∧
    ((gated.bellow 0).committed = some gates2 ∧ effectMoment (gated.bellow 0) ≤ gated.localNs ∧
      ({ gated with localNs := 2999 } : State).localNs < effectMoment (gated.bellow 0) ∧
      after (exec (.gclTakeEffect 0) gated) (fun t => (t.bellow 0).committed == none && (t.bellow 0).active == gates2) = true) ∧
    (((up.bellow (selPort up)).classes[selClass up]?).isSome = true ∧
      after (exec (.shaperWrite 0x123) up) (fun t => (t.bellow 0).classes.head?.any fun y => fld y.shape 31 0 == 0x123) = true) ∧
    after (exec (.damperWrite 1 5) up) (fun t => (t.damper 0).rate == 5) = true := by decide +kernel

/-- The part with faults allowed. -/
def debugs : State := { up with fbx := { up.fbx with debug := true } }

def counted : TenantCounters := { tenant := 7, counts := [5, 0, 9, 0, 0, 0], refreshed := some 0 }

theorem test_InjectionHealthAndCoarseCounters :
    (up.pwr.ready = true ∧ up.fbx.debug = false ∧ debugs.fbx.debug = true ∧ injectKind 3 = 3 ∧ injectKind 5 = 5 ∧ injectKind 0 = 0 ∧
      debugs.pwr.dipActive = false ∧ after (exec (.injectPageCheckFail 3) debugs) (fun t => t.dgn.armed) = true ∧
      after (exec (.injectSupplyHold 5) debugs) (fun t => t.pwr.heldNow) = true) ∧
    after (exec .trngHealthFail up) (fun t => !t.fbx.trngOk) = true ∧
    (let s : State := { up with host := { up.host with tenants := [counted] } }
     lookupBy (·.tenant) 7 s.host.tenants = some counted ∧ intervalOver counted.refreshed (tenantInterval s) s.localNs = true ∧
      intervalOver counted.refreshed (tenantInterval s) 1 = false ∧
      after (exec (.tenantCounterRefresh 7) s) (fun t => t.host.tenants.any fun c => c.latched.head? == some 4) = true) ∧
    (intervalOver up.host.powerAt (tenantPowerWindow up) up.localNs = true ∧ intervalOver (some 5000000000) (tenantPowerWindow up) up.localNs = false ∧
      after (exec (.tenantPowerRefresh 503) up) (fun t => t.host.powerLatched == 500) = true) := by decide +kernel

/-! ### Well-formedness: an ill-formed term for each check -/

/-- A descriptor of a queue pair that is not there. -/
def badOrigin : Origin := .qp 8192 0

/-- A start that finds nothing wrong. -/
def boot0 : BootReport := { refclkNs := 2000000, trngOk := true, flashBad := [] }

theorem test_IllFormedIsRefused :
    [Instr.registerWrite 0x4000000 8 0, .registerWrite 0 3 0, .porstNRelease 0 { boot0 with flashBad := [6] } [], .porstNRelease 0 boot0 [3072],
      .coldRestart { boot0 with flashBad := [6] } [], .coldRestart boot0 [3072], .foothillTrainingDone [96], .ridgePortStateChange 6 0, .warmrstNRelease [.channel 96],
      .marginCheck (.lane 48) ⟨0, 0⟩ 0, .hostModuleLost 4, .sqTailWrite 8192 0].map Instr.wf = List.replicate 12 false := by decide

theorem test_IllFormedCommandsAreRefused :
    ([Instr.nop badOrigin, .nop (.ridge 1024 0), .sessionSnapshot { origin := o0 } 1048576, .indexCreate o0 [] 256, .mergeFreeOld 256, .moveRoundEnd ⟨1048576, []⟩,
      .imageLoadComplete 8, .workItemEnd 32 ⟨true, noTile⟩, .workTableWrite 3072 0 0, .workTableWrite 0 256 0, .refreshDue 2, .retireBank 3072,
      .patrolScrub 0 16384 0 [], .emberTest 0 [3072], .hostMemRead (2 ^ 40) [], .hostMemWrite 0 (List.replicate 257 0),
      .retransmitTimeout 65536, .peerLostTimeout 1024, .tenantCounterRefresh 4096, .bellowsFrameBoundary 7, .gateEntryBoundary 6,
      .damperWrite 3 0, .getCertificate 256 0 0, .challenge 256 0, .getMeasurements 256 0, .spdmUnsupportedRequest 256,
      .coldRestart { boot0 with found := { unpartnered := [6] } } [], .cairnDue { slot := 1048576 } [] true, .idle 0 ⟨0, [badOrigin]⟩,
      .copyrow 0 (⟨0, []⟩, [{ ember := 3072, row := 0, column := 0, symbols := 2 }]), .scanTurn 2 ⟨1, []⟩, .sessionRevive badOrigin [] ⟨0, [], []⟩,
      .patternCheck ⟨0, [{ ember := 0, row := 0, column := 64, symbols := 2 }]⟩, .sessionPark { origin := badOrigin }].all fun c => !c.wf) = true ∧
    errsWf [{ ember := 0, row := 16384, column := 0, symbols := 2 }] = false ∧
    FrameHeader.wf { (recv 0).hdr with length := 3 } = false ∧ FrameHeader.wf (recv 0).hdr = true := by decide +kernel

theorem test_WellFormedIsAccepted :
    (Instr.registerWrite 0x20010 8 0).wf = true ∧ (Instr.nop o0).wf = true ∧ (Instr.damperWrite 2 0).wf = true ∧
    (Instr.ridgePortStateChange 5 0).wf = true := by decide

end Sys2Proof.Tests
end

section
/-!
SUPPORT. Links and their windows under a supply hold (R44, R45): what the work that stops leaves of them, that a hold starts
no window, and that a link which is not due keeps its record while others start.
-/

namespace Sys2Proof.Machine

/-! ### Keyed tables -/

/-- An entry put in over one of its key leaves every view under which the two agree. -/
theorem upsert_map {α β : Type} (key : α → Nat) (g : α → β) (l : List α) (x y : α) (h : lookupBy key (key y) l = some x)
    (hg : g y = g x) : (upsert key y l).map g = l.map g := by
  induction l with
  | nil => simp [lookupBy] at h
  | cons z zs ih =>
    unfold lookupBy at h ih
    unfold upsert
    split
    · rename_i hz
      rw [List.find?_cons_of_pos (by simpa using hz)] at h
      obtain rfl := Option.some.inj h
      simp [hg]
    · rename_i hz
      rw [List.find?_cons_of_neg (by simpa using hz)] at h
      simp [ih h]

/-- A change that keeps every key is found where its entry was. -/
theorem lookupBy_map {α : Type} (key : α → Nat) (f : α → α) (hf : ∀ x, key (f x) = key x) (k : Nat) (l : List α) :
    lookupBy key k (l.map f) = (lookupBy key k l).map f := by
  simp only [lookupBy, List.find?_map, Function.comp_def, hf]

/-! ### Work that stops -/

@[simp] theorem flagHeld_pwr (s : State) (held : List HeldWork) : (flagHeld s held).pwr = s.pwr :=
  foldl_keeps (·.pwr) (fun s o => s.onDescriptor o _) (fun _ _ => rfl) _ s

@[simp] theorem stopWork_links (s : State) : (stopWork s).pwr.links = s.pwr.links := by simp [stopWork]

@[simp] theorem stopWork_heldNow (s : State) : (stopWork s).pwr.heldNow = true := rfl

@[simp] theorem beginHold_links (s : State) (i : Bool) (rs : List Rail) : (beginHold s i rs).pwr.links = s.pwr.links :=
  stopWork_links _

@[simp] theorem beginHold_heldNow (s : State) (i : Bool) (rs : List Rail) : (beginHold s i rs).pwr.heldNow = true := rfl

@[simp] theorem onRail_links (s : State) (r : Rail) (f : RailState → RailState) :
    (onRail s r f).pwr.links = s.pwr.links := rfl

@[simp] theorem advanceRotation_links (p : Power) (n m : Nat) : (advanceRotation p n m).links = p.links := by
  unfold advanceRotation; simp only []; split <;> rfl

@[simp] theorem advanceRotation_heldNow (p : Power) (n m : Nat) : (advanceRotation p n m).heldNow = p.heldNow := by
  unfold advanceRotation; simp only []; split <;> rfl

/-! ### Windows that begin -/

/-- No link begins to retrain during a hold (R45). -/
theorem startLink_held (p : Power) (n : Nat) (h : p.heldNow = true) : startLink p n = p := by
  simp [startLink, mayRetrainId, h]

theorem startLinks_held (p : Power) (ns : List Nat) (h : p.heldNow = true) : ns.foldl startLink p = p := by
  induction ns with
  | nil => rfl
  | cons n ns ih => rw [List.foldl_cons, startLink_held p n h, ih]

theorem startDue_held (s : State) (h : s.pwr.heldNow = true) : startDue s = s := by
  simp only [startDue, State.onPwr, startLinks_held s.pwr _ h]

/-- A link that is not due keeps its record while any link begins. -/
theorem startLink_lookup (p : Power) (n k : Nat) (x : Trained) (h : lookupBy (·.link) k p.links = some x)
    (hx : x.due = false) : lookupBy (·.link) k (startLink p n).links = some x := by
  unfold startLink
  split
  · rw [lookupBy_map _ _ (fun y => by split <;> rfl), h]
    simp [hx]
  · exact h

theorem startDue_lookup (s : State) (k : Nat) (x : Trained) (h : lookupBy (·.link) k s.pwr.links = some x)
    (hx : x.due = false) : lookupBy (·.link) k (startDue s).pwr.links = some x := by
  simp only [startDue, State.onPwr_pwr]
  generalize s.pwr.links.map (·.link) = ns
  generalize s.pwr = p at h
  induction ns generalizing p with
  | nil => exact h
  | cons n ns ih => exact ih _ (startLink_lookup p n k x h hx)

/-! ### The commands -/

theorem exec_retrainEnd (s : State) (l : Link) (c : Nat) : exec (.retrainEnd l c) s = execRetrainEnd l c s := rfl
theorem exec_marginCheck (s : State) (l : Link) (e : Eye) (c : Nat) :
    exec (.marginCheck l e c) s = execMarginCheck l e c s := rfl
theorem exec_dipEpisodeBegin (s : State) (r : Rail) (c : Crossing) :
    exec (.dipEpisodeBegin r c) s = execDipEpisodeBegin r c s := rfl

/-- During a hold no window ends (R45). -/
theorem execRetrainEnd_held (s : State) (l : Link) (c : Nat) (h : s.pwr.heldNow = true) :
    execRetrainEnd l c s = .next s := by
  unfold execRetrainEnd
  split
  · rfl
  · simp [h]

/-- The record of a link whose window has ended: its new trained point and temperature (R44). -/
def retrained (x : Trained) (c : Nat) : Trained :=
  { x with retraining := false, due := false, margin := 100, celsius := some c }

/-- Without a hold the window of a link that retrains ends, and stands ended when others have begun. -/
theorem execRetrainEnd_ends (s : State) (l : Link) (c : Nat) (x : Trained) (h : s.pwr.heldNow = false)
    (hl : lookupBy (·.link) (linkId l) s.pwr.links = some x) (hx : x.retraining = true) :
    ∃ t, execRetrainEnd l c s = .next t ∧ lookupBy (·.link) (linkId l) t.pwr.links = some (retrained x c) := by
  have hput : lookupBy (·.link) (linkId l) (upsert (·.link) (retrained x c) s.pwr.links) = some (retrained x c) :=
    upsert_get' _ _ _ _ (lookup_mem hl).2
  have hstands := startDue_lookup (s.onPwr fun p => { p with links := upsert (·.link) (retrained x c) p.links }) _ _ hput rfl
  unfold execRetrainEnd
  rw [hl]
  simp only [hx, h, Bool.not_true, Bool.or_self, Bool.false_eq_true, if_false]
  cases l <;> exact ⟨_, rfl, hstands⟩

/-- During a hold a crossing leaves the links as they are, and the hold stands (R45, R48). -/
theorem execDipEpisodeBegin_held (s : State) (r : Rail) (c : Crossing) (h : s.pwr.heldNow = true) :
    ∃ t, execDipEpisodeBegin r c s = .next t ∧ t.pwr.links = s.pwr.links ∧ t.pwr.heldNow = true := by
  unfold execDipEpisodeBegin
  by_cases hw : warningCounts r c = true
  · rw [if_neg (by simp [hw])]
    by_cases hd : s.pwr.dipActive = true
    · exact ⟨_, if_pos hd, by simp, by simp⟩
    · exact ⟨_, if_neg hd, by simp, by simp⟩
  · exact ⟨s, if_pos (by simp [hw]), rfl, h⟩

/-- During a hold a margin check records what it reads, and no link begins or ends its window (R45). -/
theorem execMarginCheck_held (s : State) (l : Link) (e : Eye) (c : Nat) (h : s.pwr.heldNow = true) :
    ∃ t, execMarginCheck l e c s = .next t ∧
      t.pwr.links.map (fun x => (x.link, x.retraining)) = s.pwr.links.map (fun x => (x.link, x.retraining)) := by
  unfold execMarginCheck
  split
  · exact ⟨s, rfl, rfl⟩
  · rename_i x hl
    split
    · exact ⟨s, rfl, rfl⟩
    · obtain ⟨-, hk⟩ := lookup_mem hl
      refine ⟨_, congrArg Host.Outcome.next (startDue_held _ ?_), ?_⟩
      · simpa only [State.onPwr_pwr, apply_ite Power.heldNow, advanceRotation_heldNow, ite_self] using h
      · simp only [State.onPwr_pwr, apply_ite Power.links, advanceRotation_links, ite_self]
        exact upsert_map _ _ _ x _ (by simpa only [hk] using hl) rfl

/-- Settles O16: a hold starts no window and ends none, and a window that it left open ends once it is over. -/
theorem holdKeepsLinksDiverted : Obligations.HoldKeepsLinksDiverted := by
  intro s l celsius width height
  simp only [exec_retrainEnd, exec_dipEpisodeBegin, exec_marginCheck]
  refine ⟨fun h => ⟨?_, fun c r => ?_, ?_⟩, fun h x hl hx => ?_⟩
  · exact execRetrainEnd_held s l celsius h
  · exact execDipEpisodeBegin_held s r c h
  · exact execMarginCheck_held s l _ celsius h
  · obtain ⟨t, ht, hy⟩ := execRetrainEnd_ends s l celsius x h hl hx
    exact ⟨t, _, ht, hy, rfl⟩

end Sys2Proof.Machine
end

section
/-!
SUPPORT. The register window (R6, R7, R38): what a write does and a read returns where they are served and where not, and
the fields of the registers that are stored bounded.
-/

namespace Sys2Proof.Machine

/-! ### Fields -/

/-- A field is below the power of two of its width. -/
theorem fld_lt {n : Nat} (w : BitVec n) (hi lo : Nat) : fld w hi lo < 2 ^ (hi + 1 - lo) :=
  Nat.mod_lt _ (Nat.two_pow_pos _)

/-- PWR_CAP_CTL reads back its limits bounded and its window as written (Table 2.7). -/
theorem capCtlValue_fields (v : Word) :
    fld (capCtlValue v) 10 0 = max 600 (min 1600 (fld v 10 0)) ∧ fld (capCtlValue v) 23 16 = fld v 23 16 ∧
      fld (capCtlValue v) 42 32 = max 400 (min 1150 (fld v 42 32)) := by
  have hwin := fld_lt v 23 16
  simp only [capCtlValue, word, put, clamp, List.foldl, Nat.shiftLeft_eq]
  generalize fld v 10 0 = a, fld v 23 16 = b, fld v 42 32 = c at *
  refine ⟨?_, ?_, ?_⟩ <;> rw [fld_ofNat 64 _ _ _ (by omega)] <;> omega

/-- DGN_MARGIN_CTL reads back its threshold bounded (Table 3.6). -/
theorem marginCtlValue_threshold (v : Word) : fld (marginCtlValue v) 15 8 = max 30 (min 90 (fld v 15 8)) := by
  simp only [marginCtlValue, word, put, clamp, List.foldl, Nat.shiftLeft_eq]
  generalize fld v 7 0 = a, fld v 15 8 = b, fld v 16 16 = c
  rw [fld_ofNat 64 _ _ _ (by omega)]
  omega

/-- RDG_POOL_CTL reads back its cache units bounded (Table 13.15). -/
theorem poolCtlValue_units (v : Word) : fld (poolCtlValue v) 31 24 = max 1 (min 64 (fld v 31 24)) := by
  simp only [poolCtlValue, word, put, clamp, List.foldl, Nat.shiftLeft_eq]
  generalize fld v 23 0 = a, fld v 31 24 = b
  rw [fld_ofNat 64 _ _ _ (by omega)]
  omega

/-! ### Writes -/

/-- An update of the power state leaves every other part of the state. -/
theorem onPwr_frame (s : State) (f : Power → Power) : { s.onPwr f with pwr := s.pwr } = s := rfl

/-- An update of the ridge leaves every other part of the state. -/
theorem onRdg_frame (s : State) (f : Ridge → Ridge) : { s.onRdg f with rdg := s.rdg } = s := rfl

theorem exec_registerWrite (s : State) (off width : Nat) (v : Word) :
    exec (.registerWrite off width v) s = .next (writeRegister s off width v) := rfl

/-- A write that is narrow, misaligned, outside the window or in a block not served changes nothing (R6, R38). -/
theorem writeRegister_ignored (s : State) (off width : Nat) (v : Word)
    (h : width ≠ 8 ∨ off % 8 ≠ 0 ∨ windowSize ≤ off ∨ served s off = false) : writeRegister s off width v = s := by
  refine if_neg fun hall => ?_
  simp only [Bool.and_eq_true, decide_eq_true_eq] at hall
  obtain ⟨⟨⟨hwidth, halign⟩, hin⟩, hserved⟩ := hall
  rcases h with h | h | h | h
  · exact h hwidth
  · exact h halign
  · omega
  · simp [h] at hserved

/-- A whole write to a register that is served sets its RW fields and clears its W1C bits (R7). -/
theorem writeRegister_served (s : State) (off : Nat) (v : Word) (halign : off % 8 = 0) (hin : off < windowSize)
    (hserved : served s off = true) : writeRegister s off 8 v = writeW1C (writeRW s off v) off v :=
  if_pos (by simp [halign, hin, hserved])

theorem served_of_ready {s : State} (off : Nat) (h : s.pwr.ready = true) : served s off = true := by simp [served, h]

theorem served_of_early (s : State) {off : Nat} (h : earlyBlock off = true) : served s off = true := by simp [served, h]

/-- A write to PWR_CAP_CTL sets it, at any time (Table 2.7). -/
theorem write_capCtl (s : State) (v : Word) :
    writeRegister s 0xD0000 8 v = s.onPwr fun p => { p with capCtl := capCtlValue v } := by
  rw [writeRegister_served s _ v (by decide) (by decide) (served_of_early s (by decide))]; rfl

/-- A write to DGN_MARGIN_CTL sets it, from ready on (Table 3.6). -/
theorem write_marginCtl (s : State) (v : Word) (h : s.pwr.ready = true) :
    writeRegister s 0xC0010 8 v = s.onPwr fun p => { p with marginCtl := marginCtlValue v } := by
  rw [writeRegister_served s _ v (by decide) (by decide) (served_of_ready _ h)]; rfl

/-- A write to RDG_POOL_CTL sets it, from ready on (Table 13.15). -/
theorem write_poolCtl (s : State) (v : Word) (h : s.pwr.ready = true) :
    writeRegister s 0x70020 8 v = s.onRdg fun r => { r with poolCtl := poolCtlValue v } := by
  rw [writeRegister_served s _ v (by decide) (by decide) (served_of_ready _ h)]; rfl

/-- A write to PWR_SUPPLY_STATUS clears dip_seen where its bit is 1, at any time (Table 3.11). -/
theorem write_supplyStatus (s : State) (v : Word) :
    writeRegister s 0xD0020 8 v = if bit v 1 then s.onPwr fun p => { p with dipSeen := false } else s := by
  rw [writeRegister_served s _ v (by decide) (by decide) (served_of_early s (by decide))]; rfl

/-! ### Reads -/

/-- What is not served reads zero (R38). -/
theorem readRegister_unserved (s : State) (off width : Nat) (h : served s off = false) : readRegister s off width = 0 :=
  if_pos (by simp [h])

/-- What is served reads its fields, with free values in the reserved bits (R7). -/
theorem readRegister_served (s : State) (off : Nat) (f : Fields) (halign : off % 8 = 0) (hserved : served s off = true)
    (hf : registerFields s off = some f) :
    readRegister s off 8 = BitVec.ofNat 64 f.value ||| (Config.rsv off s.freeCount &&& ~~~(BitVec.ofNat 64 f.mask)) := by
  simp [readRegister, halign, hserved, hf]

/-! ### Fetches before ready (R38) -/

theorem mayFetch_notReady (s : State) (q : Nat) (h : s.pwr.ready = false) : mayFetch s q = false := by simp [mayFetch, h]

theorem fetchable_notReady (s : State) (h : s.pwr.ready = false) : fetchable s = [] := by
  have hnone : (s.host.qps.filter fun p => mayFetch s p.id && p.reReads == 0) = [] :=
    List.filter_eq_nil_iff.mpr fun p _ => by simp only [mayFetch_notReady s p.id h, Bool.false_and, Bool.false_eq_true,
      not_false_eq_true]
  simp only [fetchable, hnone, List.map_nil, sortBy, List.foldl_nil, List.filter_nil, List.append_nil]

/-- No queue pair has the turn before ready. -/
theorem turnOf_notReady (s : State) (h : s.pwr.ready = false) : turnOf s = none := by
  simp only [turnOf, fetchable_notReady s h, List.contains_nil, Bool.and_false, Bool.false_eq_true, if_false, List.head?_nil]

theorem exec_descriptorFetch_notReady (s : State) (q : Nat) (d : BitVec 512) (h : s.pwr.ready = false) :
    exec (.descriptorFetch q d) s = .next s :=
  if_pos (by simp [turnOf_notReady s h])

theorem exec_seqReread_notReady (s : State) (q : Nat) (d : BitVec 512) (h : s.pwr.ready = false) :
    exec (.seqReread q d) s = .next s :=
  if_pos (by simp [mayFetch_notReady s q h])

/-- Settles O17: each clause by the rule of the window that it states. -/
theorem registerWritesObeyTheWindow : Obligations.RegisterWritesObeyTheWindow := by
  intro s v
  simp only [exec_registerWrite]
  refine ⟨fun off width h => ?_, fun hr => ⟨fun off width he => ?_, fun q d => ⟨?_, ?_⟩⟩, fun off f ha hs hf => ?_,
    ?_, fun hr => ?_, fun hr => ?_, ?_⟩
  · have hignored : width ≠ 8 ∨ off % 8 ≠ 0 ∨ windowSize ≤ off ∨ served s off = false := by
      simpa [served, windowSize] using h
    exact congrArg Host.Outcome.next (writeRegister_ignored s off width v hignored)
  · exact readRegister_unserved s off width (by simp [served, hr, he])
  · exact exec_descriptorFetch_notReady s q d hr
  · exact exec_seqReread_notReady s q d hr
  · exact readRegister_served s off f ha (hs.elim (served_of_ready off) (served_of_early s)) hf
  · obtain ⟨hwatts, hwindow, hamps⟩ := capCtlValue_fields v
    exact ⟨_, congrArg Host.Outcome.next (write_capCtl s v), hwatts, hwindow, hamps, onPwr_frame s _⟩
  · exact ⟨_, congrArg Host.Outcome.next (write_marginCtl s v hr), marginCtlValue_threshold v, onPwr_frame s _⟩
  · exact ⟨_, congrArg Host.Outcome.next (write_poolCtl s v hr), poolCtlValue_units v, onRdg_frame s _⟩
  · refine ⟨_, congrArg Host.Outcome.next (write_supplyStatus s v), ?_⟩
    cases bit v 1 <;> simp

end Sys2Proof.Machine
end

section
/-!
SUPPORT. Completions go out in order (R67, R78): no shared operation of the rings takes back an output, and an entry of an
ENABLED queue pair is the next output. What a descriptor that can start satisfies (R73).
-/

namespace Sys2Proof.Machine

/-! ### Outputs stay -/

/-- What each step of a fold puts out stands behind what was out. -/
theorem out_prefix_foldl {α : Type} (f : State → α → State) (h : ∀ s a, s.out <+: (f s a).out) (l : List α) (s : State) :
    s.out <+: (l.foldl f s).out := by
  induction l generalizing s with
  | nil => exact List.prefix_rfl
  | cons a l ih => exact (h s a).trans (ih (f s a))

theorem raiseIrq_out (s : State) (q : Nat) : (raiseIrq s q).out = s.out ++ [.msix (s.qp q).ctx.msix] := rfl

theorem out_prefix_signalEntry (s : State) (q : Nat) (now : Bool) : s.out <+: (signalEntry s q now).out := by
  unfold signalEntry
  simp only []
  split
  · exact List.prefix_rfl
  · split
    · exact raiseIrq_out s q ▸ List.prefix_append _ _
    · exact List.prefix_rfl

/-- The output that an entry of queue pair q is, at its slot of the ring and under the next cq_seq (R67). -/
def completionOutput (s : State) (q : Nat) (c : Completion) : Output :=
  .completion q (s.qp q).ctx.pasid ((s.qp q).ctx.cqBase + 32 * ((s.qp q).cqNext.toNat % 2 ^ (s.qp q).ctx.cqLog2))
    (encodeCompletion (s.qp q).cqNext s.host.version c)

theorem putCompletion_out (s : State) (q : Nat) (c : Completion) :
    s.out ++ [completionOutput s q c] <+: (putCompletion s q c).out :=
  out_prefix_signalEntry
    ((s.onQp q fun p => { p with cqNext := p.cqNext + 1 }).emit (completionOutput s q c)) q c.irqNow

theorem postEntry_enabled (s : State) (q : Nat) (c : Completion) (h : (s.qp q).state = .enabled) :
    postEntry s q c = putCompletion s q c := by
  simp only [postEntry, h]

theorem out_prefix_postEntry (s : State) (q : Nat) (c : Completion) : s.out <+: (postEntry s q c).out := by
  unfold postEntry
  split
  · exact (List.prefix_append _ _).trans (putCompletion_out s q c)
  · exact List.prefix_rfl
  · exact List.prefix_rfl
  · exact List.prefix_rfl

/-- The state in which a descriptor that ends has left the flight, and those that follow it know how it ended (R77). -/
def leaveFlight (s : State) (o : Origin) (cancelled : Bool) : State :=
  (dropDescriptor s o).onDesc fun l => l.map (learnEnd o cancelled)

@[simp] theorem leaveFlight_out (s : State) (o : Origin) (b : Bool) : (leaveFlight s o b).out = s.out := rfl
@[simp] theorem leaveFlight_qp (s : State) (o : Origin) (b : Bool) (q : Nat) : (leaveFlight s o b).qp q = s.qp q := rfl

theorem out_prefix_completeOne (s : State) (o : Origin) (cs : List Status) (r : Word) :
    s.out <+: (completeOne s o cs r).out := by
  unfold completeOne
  split
  · exact List.prefix_rfl
  · simp only []
    split
    · exact List.prefix_rfl
    · split
      · exact out_prefix_postEntry (leaveFlight s _ _) _ _
      · simp [dropDescriptor]

@[simp] theorem forwardDescriptor_out (s : State) (d : InFlight) (part : Nat) (p : List Byte) :
    (forwardDescriptor s d part p).out = s.out := by
  simp [forwardDescriptor]

theorem out_prefix_releaseFences (s : State) : s.out <+: (releaseFences s).out := by
  unfold releaseFences
  refine out_prefix_foldl _ (fun s d => ?_) _ _
  split
  · exact List.prefix_rfl
  · split
    · split
      · exact List.prefix_rfl
      · exact out_prefix_completeOne _ _ _ _
    · split
      · exact List.prefix_rfl
      · split
        · exact out_prefix_completeOne _ _ _ _
        · split
          · split
            · exact List.prefix_rfl
            · simp
          · exact List.prefix_rfl
        · exact List.prefix_rfl

theorem out_prefix_complete (s : State) (o : Origin) (cs : List Status) (r : Word) :
    (completeOne s o cs r).out <+: (complete s o cs r).out := out_prefix_releaseFences _

/-! ### The completion of a descriptor -/

/-- The entry that a descriptor of a queue pair completes with (Table 4.11). -/
def completionOf (d : InFlight) (n : Seq) (cs : List Status) (r : Word) : Completion :=
  { subSeq := n, tag := dTag d.raw, status := BitVec.ofNat 16 (chooseStatus (d.conds ++ cs)).code, opcode := dOpcode d.raw,
    kind := 0, conds := condBits (d.conds ++ cs), result := r, irqNow := dIrqNow d.raw }

/-- A descriptor of a queue pair that R104 does not discard leaves the flight and posts its entry. -/
theorem completeOne_qp (s : State) (q : Nat) (n : Seq) (d : InFlight) (cs : List Status) (r : Word)
    (hd : s.descriptor (.qp q n) = some d) (hkeep : d.discard = false) :
    completeOne s (.qp q n) cs r =
      postEntry (leaveFlight s (.qp q n) ((d.conds ++ cs).contains .cancelled)) q (completionOf d n cs r) := by
  simp only [completeOne, hd, hkeep, Bool.false_eq_true, if_false, leaveFlight, completionOf]

/-- On an ENABLED queue pair a descriptor that R104 does not discard puts out its completion next (R62, R78). -/
theorem complete_out (s : State) (q : Nat) (n : Seq) (d : InFlight) (cs : List Status) (r : Word)
    (hd : s.descriptor (.qp q n) = some d) (hkeep : d.discard = false) (hq : (s.qp q).state = .enabled) :
    s.out ++ [completionOutput s q (completionOf d n cs r)] <+: (complete s (.qp q n) cs r).out := by
  refine List.IsPrefix.trans ?_ (out_prefix_complete s _ cs r)
  rw [completeOne_qp s q n d cs r hd hkeep, postEntry_enabled _ _ _ (by simpa using hq)]
  exact putCompletion_out (leaveFlight s _ _) q _

/-! ### What can start -/

/-- What can start is the descriptor in flight, of the opcode asked for, and no fence holds it (R73). -/
theorem canStart_some {s : State} {o : Origin} {op : Nat} {d : InFlight} (h : canStart s o op = some d) :
    s.descriptor o = some d ∧ dOpcode d.raw = op ∧ fenceBlocked s d = false := by
  unfold canStart at h
  split at h
  · cases h
  · rename_i e he
    split at h
    · rename_i hall
      cases h
      simp only [Bool.and_eq_true, decide_eq_true_eq, Bool.not_eq_true'] at hall
      obtain ⟨⟨⟨⟨⟨⟨-, hop⟩, -⟩, hfence⟩, -⟩, -⟩, -⟩ := hall
      exact ⟨he, hop, hfence⟩
    · cases h

/-- A fence holds a descriptor while an earlier one of its queue pair is in flight (R73). -/
theorem fenceBlocked_of_fence {s : State} {d e : InFlight} (hf : dFence d.raw = true) (he : e ∈ s.before d.origin)
    (hq : sameQueue e.origin d.origin = true) : fenceBlocked s d = true :=
  List.any_eq_true.mpr ⟨e, he, by simp [hq, hf]⟩

/-- A descriptor that a fence holds cannot start (R73). -/
theorem canStart_fenceBlocked {s : State} {o : Origin} {d : InFlight} (op : Nat) (hd : s.descriptor o = some d)
    (hf : fenceBlocked s d = true) : canStart s o op = none := by
  simp [canStart, hd, hf]

/-! ### NOP -/

theorem exec_nop (s : State) (o : Origin) : exec (.nop o) s = execNop o s := rfl

theorem exec_nop_starts {s : State} {o : Origin} {d : InFlight} (h : canStart s o opNop = some d) :
    exec (.nop o) s = .next (complete s o [] 0) := by
  simp only [exec_nop, execNop, h]

theorem exec_nop_waits {s : State} {o : Origin} (h : canStart s o opNop = none) : exec (.nop o) s = .next s := by
  simp only [exec_nop, execNop, h]

/-- The entry of a NOP without conditions is OK with a zero result (R76). -/
theorem completionOf_nop {d : InFlight} (n : Seq) (hop : dOpcode d.raw = opNop) (hc : d.conds = []) :
    completionOf d n [] 0 = { subSeq := n, tag := dTag d.raw, status := 0, opcode := 0, kind := 0, conds := 0, result := 0,
                              irqNow := dIrqNow d.raw } := by
  simp only [completionOf, hop, hc]
  rfl

/-- Settles O24: a NOP that can start completes behind all that is out, and one that its fence holds cannot start. -/
theorem nopCompletesWithOk : Obligations.NopCompletesWithOk := by
  refine ⟨fun s q n d h hq hc hkeep => ?_, fun s q n d hd hf ⟨e, he, hsame⟩ => ?_⟩
  · obtain ⟨hd, hop, -⟩ := canStart_some h
    obtain ⟨rest, hout⟩ := complete_out s q n d [] 0 hd hkeep hq
    rw [completionOf_nop n hop hc, List.append_assoc] at hout
    exact ⟨_, _, rest, exec_nop_starts h, quiet_complete _ _ _ _, hout.symm⟩
  · exact exec_nop_waits (canStart_fenceBlocked opNop hd (fenceBlocked_of_fence hf he hsame))

end Sys2Proof.Machine
end

section
/-!
SUPPORT. The queue-pair context table's base (R388): when a write to HST_QP_TABLE_BASE is in effect, and how an ENABLE
without a table ends.
-/

namespace Sys2Proof.Machine

/-! ### The commands -/

theorem exec_qpTableBaseWrite (s : State) (v : Word) :
    exec (.qpTableBaseWrite v) s = .next (if s.pwr.ready then writeTableBase s v else s) := rfl
theorem exec_qpEnable (s : State) (q : Nat) (ctx : Option (BitVec 512)) :
    exec (.qpEnable q ctx) s = execQpEnable q ctx s := rfl

/-! ### Writes of the base -/

theorem allDisabled_iff (s : State) : allDisabled s = true ↔ ∀ q ∈ s.host.qps, q.state = .disabled := by
  simp [allDisabled]

/-- An update of the host port leaves every other part of the state. -/
theorem onHost_frame (s : State) (f : HostPort → HostPort) : { s.onHost f with host := s.host } = s := rfl

/-- While every queue pair is DISABLED a write sets the base, less its low 12 bits (R388). -/
theorem writeTableBase_allDisabled (s : State) (v : Word) (h : allDisabled s = true) :
    writeTableBase s v = s.onHost fun p => { p with tableBase := masked v 0xFFFFFFFFFFFFF000 } := if_pos h

/-- Otherwise the write is ignored (R388). -/
theorem writeTableBase_ignored (s : State) (v : Word) (h : allDisabled s = false) : writeTableBase s v = s :=
  if_neg (by simp [h])

/-! ### The end of a queue-pair command -/

@[simp] theorem cmdEnd_cmdResult (s : State) (q r : Nat) : (cmdEnd s q r).host.cmdResult = r := rfl
@[simp] theorem cmdEnd_qp (s : State) (q r k : Nat) : (cmdEnd s q r).qp k = s.qp k := rfl
@[simp] theorem cmdEnd_quiet (s : State) (q r : Nat) : (cmdEnd s q r).quiet = s.quiet := quiet_onHost s _

/-- From ready on, a command is taken while none is in progress (R38, R61). -/
theorem takesCommand_iff (s : State) : takesCommand s = true ↔ s.pwr.ready = true ∧ s.host.cmdBusy = false := by
  simp [takesCommand]

/-- An ENABLE of a DISABLED queue pair of an attached host ends with context invalid while base reads 0 (R388). -/
theorem execQpEnable_noTable (s : State) (q : Nat) (ctx : Option (BitVec 512)) (htake : takesCommand s = true)
    (hatt : s.host.attached = true) (hdis : (s.qp q).state = .disabled) (hbase : s.host.tableBase = 0) :
    execQpEnable q ctx s = .next (cmdEnd s q cmdContextInvalid) := by
  simp [execQpEnable, htake, hatt, hdis, hbase]

/-- Settles O19: a write by whether every queue pair is DISABLED, and the ENABLE that finds no table. -/
theorem qpTableBaseNeedsAllDisabled : Obligations.QpTableBaseNeedsAllDisabled := by
  refine ⟨fun s v hready hall => ?_, fun s v ⟨q, hq, hstate⟩ => ?_, fun s q ctx hready hbusy hatt hdis hbase => ?_⟩
  · have hwrite := writeTableBase_allDisabled s v ((allDisabled_iff s).mpr hall)
    exact ⟨_, by rw [exec_qpTableBaseWrite, if_pos hready, hwrite], rfl, onHost_frame s _⟩
  · have hsome : allDisabled s = false :=
      Bool.eq_false_iff.mpr fun hall => hstate ((allDisabled_iff s).mp hall q hq)
    rw [exec_qpTableBaseWrite, writeTableBase_ignored s v hsome, ite_self]
  · have htake := (takesCommand_iff s).mpr ⟨hready, hbusy⟩
    exact ⟨_, (exec_qpEnable s q ctx).trans (execQpEnable_noTable s q ctx htake hatt hdis hbase),
      cmdEnd_cmdResult s q _, by simpa using hdis, cmdEnd_quiet s q _⟩

end Sys2Proof.Machine
end

section
/-!
SUPPORT. The queue of commands and the state after reset (notes/assumptions/8.md, R33).
-/

namespace Sys2Proof.Machine

/-- With commands waiting, a step is the front one's effect on the state with the rest. -/
theorem step_cons {s : State} {c : Instr} {rest : List Instr} (h : s.pending = c :: rest) :
    step s = exec c { s with pending := rest } := by
  unfold step
  rw [h]

/-- With none waiting, a step is one nanosecond of the local counter. -/
theorem step_nil {s : State} (h : s.pending = []) : step s = .next { s with localNs := (s.localNs + 1) % 2 ^ 64 } := by
  unfold step
  rw [h]

/-- Settles O1. -/
theorem stepRunsFrontCommand : Obligations.StepRunsFrontCommand := fun _ _ _ h => step_cons h

/-- Settles O2. -/
theorem emptyQueueStepsTheCounter : Obligations.EmptyQueueStepsTheCounter := fun _ h => ⟨_, step_nil h, rfl, rfl⟩

/-- Settles O3: nothing is listed in any memory, and the tables stand at their sizes. -/
theorem resetIsWellShaped : Obligations.ResetIsWellShaped := ⟨rfl, rfl⟩

/-- Settles O5: the tables of queue pairs and sessions are empty after reset, and the registers hold their reset values. -/
theorem resetRegisterValues : Obligations.ResetRegisterValues :=
  ⟨by decide, by decide, by decide, rfl, rfl, fun _ => rfl, fun _ => rfl⟩

end Sys2Proof.Machine
end

section
/-!
SUPPORT. What each command runs.
-/

namespace Sys2Proof.Machine

theorem exec_powerOnReset (s : State) : exec .powerOnReset s = execPowerOnReset s := rfl
theorem exec_sequenceFault (r : Rail) (s : State) : exec (.sequenceFault r) s = execSequenceFault r s := rfl
theorem exec_warmResetRecoveryEnd (s : State) : exec .warmResetRecoveryEnd s = execWarmResetRecoveryEnd s := rfl
theorem exec_thermalThrottle (t : Reading) (s : State) :
    exec (.thermalThrottle t) s = execThermalThrottle t s := rfl
theorem exec_thermalThrottleRelease (c : Cooled) (s : State) :
    exec (.thermalThrottleRelease c) s = execThermalThrottleRelease c s := rfl
theorem exec_extendedRefreshChange (above : Bool) (s : State) :
    exec (.extendedRefreshChange above) s = execExtendedRefreshChange above s := rfl
theorem exec_throttleNAssert (s : State) : exec .throttleNAssert s = execThrottleNAssert s := rfl
theorem exec_throttleNRelease (s : State) : exec .throttleNRelease s = execThrottleNRelease s := rfl
theorem exec_powerCapEvaluation (windowWatts milliWatts coreAmps : Nat) (railAmps : List Nat) (s : State) :
    exec (.powerCapEvaluation windowWatts milliWatts coreAmps railAmps) s =
      execPowerCapEvaluation windowWatts milliWatts coreAmps railAmps s := rfl
theorem exec_supplyReset (c : SupplyCause) (s : State) : exec (.supplyReset c) s = execSupplyReset c s := rfl
theorem exec_hostLinkUp (modules half : BitVec 4) (rate repairs : Nat) (s : State) :
    exec (.hostLinkUp modules half rate repairs) s = execHostLinkUp modules half rate repairs s := rfl
theorem exec_hostLinkDown (s : State) : exec .hostLinkDown s = execHostLinkDown s := rfl
theorem exec_attach (val : Word) (s : State) : exec (.attach val) s = execAttach val s := rfl
theorem exec_qpFreeze (q : Nat) (s : State) : exec (.qpFreeze q) s = execQpFreeze q s := rfl
theorem exec_qpResume (q : Nat) (ctx : Option (BitVec 512)) (s : State) :
    exec (.qpResume q ctx) s = execQpResume q ctx s := rfl
theorem exec_qpSnapshot (q : Nat) (write : SnapshotWrite) (s : State) :
    exec (.qpSnapshot q write) s = execQpSnapshot q write s := rfl
theorem exec_qpDisable (q : Nat) (s : State) : exec (.qpDisable q) s = execQpDisable q s := rfl
theorem exec_qpDisableDone (q : Nat) (s : State) : exec (.qpDisableDone q) s = execQpDisableDone q s := rfl
theorem exec_sqTailWrite (q : Nat) (val : Word) (s : State) :
    exec (.sqTailWrite q val) s = execSqTailWrite q val s := rfl
theorem exec_cqHeadWrite (q : Nat) (val : Word) (s : State) :
    exec (.cqHeadWrite q val) s = execCqHeadWrite q val s := rfl
theorem exec_flueHeadWrite (q : Nat) (val : Word) (s : State) :
    exec (.flueHeadWrite q val) s = execFlueHeadWrite q val s := rfl
theorem exec_flightHeadWrite (q : Nat) (val : Word) (s : State) :
    exec (.flightHeadWrite q val) s = execFlightHeadWrite q val s := rfl
theorem exec_queueCancel (o : Origin) (s : State) : exec (.queueCancel o) s = execQueueCancel o s := rfl
theorem exec_sessionOpen (o : Origin) (param : List Byte) (slot : Nat) (s : State) :
    exec (.sessionOpen o param slot) s = execSessionOpen o param slot s := rfl
theorem exec_sessionAppend (w : Start) (param : List Byte) (s : State) :
    exec (.sessionAppend w param) s = execSessionAppend w param s := rfl
theorem exec_sessionGenerate (w : Start) (param : List Byte) (s : State) :
    exec (.sessionGenerate w param) s = execSessionGenerate w param s := rfl
theorem exec_sessionPark (w : Start) (s : State) : exec (.sessionPark w) s = execSessionPark w s := rfl
theorem exec_sessionRevive (o : Origin) (twin : List TwinCopy) (phase : Revival) (s : State) :
    exec (.sessionRevive o twin phase) s = execSessionRevive o twin phase s := rfl
theorem exec_sessionMove (w : Start) (answer : MoveAnswer) (s : State) :
    exec (.sessionMove w answer) s = execSessionMove w answer s := rfl
theorem exec_moveRoundEnd (r : RoundEnd) (s : State) : exec (.moveRoundEnd r) s = execMoveRoundEnd r s := rfl
theorem exec_moveHandover (slot : Nat) (s : State) : exec (.moveHandover slot) s = execMoveHandover slot s := rfl
theorem exec_sessionSnapshot (w : Start) (slot : Nat) (s : State) :
    exec (.sessionSnapshot w slot) s = execSessionSnapshot w slot s := rfl
theorem exec_sessionClose (o : Origin) (s : State) : exec (.sessionClose o) s = execSessionClose o s := rfl
theorem exec_deadlineExpire (o : Origin) (s : State) : exec (.deadlineExpire o) s = execDeadlineExpire o s := rfl
theorem exec_stubExpire (slot : Nat) (s : State) : exec (.stubExpire slot) s = execStubExpire slot s := rfl
theorem exec_migrationSwitch (slot page : Nat) (ok : Bool) (s : State) :
    exec (.migrationSwitch slot page ok) s = execMigrationSwitch slot page ok s := rfl
theorem exec_autoPark (s : State) : exec .autoPark s = execAutoPark s := rfl
theorem exec_demotion (s : State) : exec .demotion s = execDemotion s := rfl
theorem exec_promotion (s : State) : exec .promotion s = execPromotion s := rfl
theorem exec_foothillClear (verified : Bool) (s : State) :
    exec (.foothillClear verified) s = execFoothillClear verified s := rfl
theorem exec_activationFrame (f : ActFrame) (s : State) :
    exec (.activationFrame f) s = execActivationFrame f s := rfl
theorem exec_stepCommit (batch : Nat) (cols : List ColumnLogits) (s : State) :
    exec (.stepCommit batch cols) s = execStepCommit batch cols s := rfl
theorem exec_buddyAcknowledge (slot : Nat) (s : State) :
    exec (.buddyAcknowledge slot) s = execBuddyAcknowledge slot s := rfl
theorem exec_grammarMask (slot column : Nat) (s : State) :
    exec (.grammarMask slot column) s = execGrammarMask slot column s := rfl
theorem exec_tokenise (o : Origin) (segment : Nat) (trust : Nat) (text : List Byte) (s : State) :
    exec (.tokenise o segment trust text) s = execTokenise o segment trust text s := rfl
theorem exec_draftPass (batch : Nat) (drafts : List Draft) (s : State) :
    exec (.draftPass batch drafts) s = execDraftPass batch drafts s := rfl
theorem exec_draftRefill (slot : Nat) (s : State) : exec (.draftRefill slot) s = execDraftRefill slot s := rfl
theorem exec_prefillChunkEnd (slot : Nat) (s : State) :
    exec (.prefillChunkEnd slot) s = execPrefillChunkEnd slot s := rfl
theorem exec_workItemEnd (island : Nat) (e : ItemDone) (s : State) :
    exec (.workItemEnd island e) s = execWorkItemEnd island e s := rfl
theorem exec_splitInterval (m : SplitSample) (s : State) : exec (.splitInterval m) s = execSplitInterval m s := rfl
theorem exec_embedBatch (o : Origin) (param : List Byte) (outputs : List (Option TokenRows)) (s : State) :
    exec (.embedBatch o param outputs) s = execEmbedBatch o param outputs s := rfl
theorem exec_tuneStep (w : Start) (param : List Byte) (loss : BitVec 32) (sums : List (List (BitVec 32) × List (BitVec 32))) (s : State) :
    exec (.tuneStep w param loss sums) s = execTuneStep w param loss sums s := rfl
theorem exec_imageLoad (o : Origin) (image : List Byte) (tenants : List Byte) (group : List Nat) (s : State) :
    exec (.imageLoad o image tenants group) s = execImageLoad o image tenants group s := rfl
theorem exec_imageLoadComplete (slot : Nat) (s : State) :
    exec (.imageLoadComplete slot) s = execImageLoadComplete slot s := rfl
theorem exec_stageWaitTimeout (slot : Nat) (s : State) :
    exec (.stageWaitTimeout slot) s = execStageWaitTimeout slot s := rfl
theorem exec_imageUnload (o : Origin) (s : State) : exec (.imageUnload o) s = execImageUnload o s := rfl
theorem exec_variantLoad (o : Origin) (param : List Byte) (stagesFit : Bool) (s : State) :
    exec (.variantLoad o param stagesFit) s = execVariantLoad o param stagesFit s := rfl
theorem exec_variantRemove (o : Origin) (s : State) : exec (.variantRemove o) s = execVariantRemove o s := rfl
theorem exec_workTableWrite (ember entry : Nat) (val : BitVec 128) (s : State) :
    exec (.workTableWrite ember entry val) s = execWorkTableWrite ember entry val s := rfl
theorem exec_idle (summit : Nat) (cmd : Broadcast) (s : State) :
    exec (.idle summit cmd) s = execIdle summit cmd s := rfl
theorem exec_kvwrite (summit : Nat) (cmd : Broadcast) (acts : List Byte) (saturated : Nat) (errs : List ReadError) (s : State) :
    exec (.kvwrite summit cmd acts saturated errs) s = execKvwrite summit cmd acts saturated errs s := rfl
theorem exec_refreshDue (summit : Nat) (s : State) : exec (.refreshDue summit) s = execRefreshDue summit s := rfl
theorem exec_patrolScrub (ember row slackNs : Nat) (errs : List ReadError) (s : State) :
    exec (.patrolScrub ember row slackNs errs) s = execPatrolScrub ember row slackNs errs s := rfl
theorem exec_retireBank (ember : Nat) (s : State) : exec (.retireBank ember) s = execRetireBank ember s := rfl
theorem exec_bankRetireComplete (ember : Nat) (s : State) :
    exec (.bankRetireComplete ember) s = execBankRetireComplete ember s := rfl
theorem exec_directModeSet (val : Word) (s : State) : exec (.directModeSet val) s = execDirectModeSet val s := rfl
theorem exec_rowRepair (val : Word) (s : State) : exec (.rowRepair val) s = execRowRepair val s := rfl
theorem exec_dmcBadOperation (val : Word) (s : State) :
    exec (.dmcBadOperation val) s = execDmcBadOperation val s := rfl
theorem exec_searchQuery (o : Origin) (param : List Byte) (poisoned : List Nat) (s : State) :
    exec (.searchQuery o param poisoned) s = execSearchQuery o param poisoned s := rfl
theorem exec_scanTurn (summit : Nat) (span : ScanSpan) (s : State) :
    exec (.scanTurn summit span) s = execScanTurn summit span s := rfl
theorem exec_indexInsert (o : Origin) (param : List Byte) (s : State) :
    exec (.indexInsert o param) s = execIndexInsert o param s := rfl
theorem exec_indexDelete (o : Origin) (param : List Byte) (s : State) :
    exec (.indexDelete o param) s = execIndexDelete o param s := rfl
theorem exec_indexDrop (o : Origin) (s : State) : exec (.indexDrop o) s = execIndexDrop o s := rfl
theorem exec_indexCreate (o : Origin) (param : List Byte) (slot : Nat) (s : State) :
    exec (.indexCreate o param slot) s = execIndexCreate o param slot s := rfl
theorem exec_indexMerge (o : Origin) (s : State) : exec (.indexMerge o) s = execIndexMerge o s := rfl
theorem exec_mergeFreeOld (slot : Nat) (s : State) : exec (.mergeFreeOld slot) s = execMergeFreeOld slot s := rfl
theorem exec_hostMemRead (off : Nat) (errs : List ReadError) (s : State) :
    exec (.hostMemRead off errs) s = execHostMemRead off errs s := rfl
theorem exec_hostMemWrite (off : Nat) (data : List Byte) (s : State) :
    exec (.hostMemWrite off data) s = execHostMemWrite off data s := rfl
theorem exec_requestFrame (f : Received) (req : Request) (s : State) :
    exec (.requestFrame f req) s = execRequestFrame f req s := rfl
theorem exec_responseFrame (f : Received) (body : ResponseBody) (s : State) :
    exec (.responseFrame f body) s = execResponseFrame f body s := rfl
theorem exec_invalidate (f : Received) (region : Word) (line : Option Nat) (s : State) :
    exec (.invalidate f region line) s = execInvalidate f region line s := rfl
theorem exec_invalidateAcknowledge (f : Received) (region : Word) (line : Option Nat) (s : State) :
    exec (.invalidateAcknowledge f region line) s = execInvalidateAcknowledge f region line s := rfl
theorem exec_mapFrame (f : Received) (body : MapBody) (s : State) :
    exec (.mapFrame f body) s = execMapFrame f body s := rfl
theorem exec_acknowledge (f : Received) (s : State) : exec (.acknowledge f) s = execAcknowledge f s := rfl
theorem exec_keepalive (f : Received) (offer : Option PeerOffer) (s : State) :
    exec (.keepalive f offer) s = execKeepalive f offer s := rfl
theorem exec_pageData (f : Received) (kind : PageKind) (page : Nat) (data : List Byte) (s : State) :
    exec (.pageData f kind page data) s = execPageData f kind page data s := rfl
theorem exec_retransmitTimeout (addr : Nat) (s : State) :
    exec (.retransmitTimeout addr) s = execRetransmitTimeout addr s := rfl
theorem exec_keepaliveSend (s : State) : exec .keepaliveSend s = execKeepaliveSend s := rfl
theorem exec_peerSuspect (addr : Nat) (s : State) : exec (.peerSuspect addr) s = execPeerSuspect addr s := rfl
theorem exec_partDownDetect (part : Nat) (s : State) :
    exec (.partDownDetect part) s = execPartDownDetect part s := rfl
theorem exec_peerLostTimeout (part : Nat) (s : State) :
    exec (.peerLostTimeout part) s = execPeerLostTimeout part s := rfl
theorem exec_mapPropose (change : MapChange) (s : State) :
    exec (.mapPropose change) s = execMapPropose change s := rfl
theorem exec_mapCommit (changes : List (Nat × MapChange)) (s : State) :
    exec (.mapCommit changes) s = execMapCommit changes s := rfl
theorem exec_leaderElection (winner term : Nat) (s : State) :
    exec (.leaderElection winner term) s = execLeaderElection winner term s := rfl
theorem exec_mapWaitTimeout (o : Origin) (s : State) : exec (.mapWaitTimeout o) s = execMapWaitTimeout o s := rfl
theorem exec_ridgePortStateChange (port : Nat) (state : Nat) (s : State) :
    exec (.ridgePortStateChange port state) s = execRidgePortStateChange port state s := rfl
theorem exec_linkKeyExchange (addr : Nat) (offer : PeerOffer) (s : State) :
    exec (.linkKeyExchange addr offer) s = execLinkKeyExchange addr offer s := rfl
theorem exec_linkRekey (addr : Nat) (s : State) : exec (.linkRekey addr) s = execLinkRekey addr s := rfl
theorem exec_extentClaim (extent : Word) (s : State) :
    exec (.extentClaim extent) s = execExtentClaim extent s := rfl
theorem exec_extentRelease (extent : Word) (s : State) :
    exec (.extentRelease extent) s = execExtentRelease extent s := rfl
theorem exec_extentRevoke (o : Origin) (s : State) : exec (.extentRevoke o) s = execExtentRevoke o s := rfl
theorem exec_gracePeriodEnd (extent : Word) (s : State) :
    exec (.gracePeriodEnd extent) s = execGracePeriodEnd extent s := rfl
theorem exec_regionMap (o : Origin) (s : State) : exec (.regionMap o) s = execRegionMap o s := rfl
theorem exec_regionUnmap (o : Origin) (s : State) : exec (.regionUnmap o) s = execRegionUnmap o s := rfl
theorem exec_regionPublish (o : Origin) (s : State) : exec (.regionPublish o) s = execRegionPublish o s := rfl
theorem exec_regionPublishQuery (o : Origin) (s : State) :
    exec (.regionPublishQuery o) s = execRegionPublishQuery o s := rfl
theorem exec_twinPropose (val : Word) (s : State) : exec (.twinPropose val) s = execTwinPropose val s := rfl
theorem exec_twinOutOfService (s : State) : exec .twinOutOfService s = execTwinOutOfService s := rfl
theorem exec_twinInService (s : State) : exec .twinInService s = execTwinInService s := rfl
theorem exec_twinRestore (floor : Nat) (entries : List SlotEntry) (sessions : List Restored) (s : State) :
    exec (.twinRestore floor entries sessions) s = execTwinRestore floor entries sessions s := rfl
theorem exec_takeover (standby : Nat) (s : State) : exec (.takeover standby) s = execTakeover standby s := rfl
theorem exec_cairnWrite (w : Start) (held : List CairnObject) (writeOk : Bool) (s : State) :
    exec (.cairnWrite w held writeOk) s = execCairnWrite w held writeOk s := rfl
theorem exec_cairnArm (o : Origin) (s : State) : exec (.cairnArm o) s = execCairnArm o s := rfl
theorem exec_cairnDisarm (o : Origin) (s : State) : exec (.cairnDisarm o) s = execCairnDisarm o s := rfl
theorem exec_cairnRestore (o : Origin) (a b : CairnSlot) (stagesFit : Bool) (slot : Nat) (s : State) :
    exec (.cairnRestore o a b stagesFit slot) s = execCairnRestore o a b stagesFit slot s := rfl
theorem exec_cairnDue (w : Due) (held : List CairnObject) (writeOk : Bool) (s : State) :
    exec (.cairnDue w held writeOk) s = execCairnDue w held writeOk s := rfl
theorem exec_earlyWarningCheck (foothill ridge : Nat) (s : State) :
    exec (.earlyWarningCheck foothill ridge) s = execEarlyWarningCheck foothill ridge s := rfl
theorem exec_fwBlockWrite (o : Origin) (digest : BitVec 384) (data : List Byte) (flashOk : Bool) (s : State) :
    exec (.fwBlockWrite o digest data flashOk) s = execFwBlockWrite o digest data flashOk s := rfl
theorem exec_fwBlockVerify (o : Origin) (s : State) : exec (.fwBlockVerify o) s = execFwBlockVerify o s := rfl
theorem exec_fwBlockActivate (o : Origin) (s : State) : exec (.fwBlockActivate o) s = execFwBlockActivate o s := rfl
theorem exec_fwBlockAbort (o : Origin) (s : State) : exec (.fwBlockAbort o) s = execFwBlockAbort o s := rfl
theorem exec_firmwareSwitch (s : State) : exec .firmwareSwitch s = execFirmwareSwitch s := rfl
theorem exec_quiesceTimeout (s : State) : exec .quiesceTimeout s = execQuiesceTimeout s := rfl
theorem exec_quiesceRetry (s : State) : exec .quiesceRetry s = execQuiesceRetry s := rfl
theorem exec_imageConfirm (allCores allDies : Bool) (s : State) :
    exec (.imageConfirm allCores allDies) s = execImageConfirm allCores allDies s := rfl
theorem exec_confirmWindowExpire (s : State) : exec .confirmWindowExpire s = execConfirmWindowExpire s := rfl
theorem exec_fwReject (val : Word) (s : State) : exec (.fwReject val) s = execFwReject val s := rfl
theorem exec_recoveryDownload (val : Word) (s : State) :
    exec (.recoveryDownload val) s = execRecoveryDownload val s := rfl
theorem exec_recoveryDownloadDone (image : Option (List Byte)) (flashOk : Bool) (failedBanks : List Nat) (s : State) :
    exec (.recoveryDownloadDone image flashOk failedBanks) s =
      execRecoveryDownloadDone image flashOk failedBanks s := rfl
theorem exec_getDigests (s : State) : exec .getDigests s = execGetDigests s := rfl
theorem exec_getCertificate (slot offset length : Nat) (s : State) :
    exec (.getCertificate slot offset length) s = execGetCertificate slot offset length s := rfl
theorem exec_challenge (slot : Nat) (nonce : BitVec 256) (s : State) :
    exec (.challenge slot nonce) s = execChallenge slot nonce s := rfl
theorem exec_getMeasurements (index : Nat) (nonce : BitVec 256) (s : State) :
    exec (.getMeasurements index nonce) s = execGetMeasurements index nonce s := rfl
theorem exec_spdmUnsupportedRequest (code : Nat) (s : State) :
    exec (.spdmUnsupportedRequest code) s = execSpdmUnsupportedRequest code s := rfl
theorem exec_trngHealthFail (s : State) : exec .trngHealthFail s = execTrngHealthFail s := rfl
theorem exec_tenantCounterRefresh (tenant : Nat) (s : State) :
    exec (.tenantCounterRefresh tenant) s = execTenantCounterRefresh tenant s := rfl
theorem exec_tenantPowerRefresh (watts : Nat) (s : State) :
    exec (.tenantPowerRefresh watts) s = execTenantPowerRefresh watts s := rfl
theorem exec_bellowsFrameBoundary (port : Nat) (s : State) :
    exec (.bellowsFrameBoundary port) s = execBellowsFrameBoundary port s := rfl
theorem exec_gateEntryBoundary (port : Nat) (s : State) :
    exec (.gateEntryBoundary port) s = execGateEntryBoundary port s := rfl
theorem exec_gclCommit (val : Word) (s : State) : exec (.gclCommit val) s = execGclCommit val s := rfl
theorem exec_gclDiscard (val : Word) (s : State) : exec (.gclDiscard val) s = execGclDiscard val s := rfl
theorem exec_gclTakeEffect (port : Nat) (s : State) : exec (.gclTakeEffect port) s = execGclTakeEffect port s := rfl
theorem exec_shaperWrite (val : Word) (s : State) : exec (.shaperWrite val) s = execShaperWrite val s := rfl
theorem exec_damperWrite (reg : Nat) (val : Word) (s : State) :
    exec (.damperWrite reg val) s = execDamperWrite reg val s := rfl
theorem exec_injectSupplyHold (val : Word) (s : State) :
    exec (.injectSupplyHold val) s = execInjectSupplyHold val s := rfl
theorem exec_railRise (r : Rail) (s : State) : exec (.railRise r) s = execRailRise r s := rfl
theorem exec_hostModuleLost (m : Nat) (s : State) : exec (.hostModuleLost m) s = execHostModuleLost m s := rfl
theorem exec_epochApplyTimeout (o : Nat) (s : State) :
    exec (.epochApplyTimeout o) s = execEpochApplyTimeout o s := rfl

end Sys2Proof.Machine
end

section
/-!
SUPPORT. The shape of a state as one structure, and what the updates of the state, branches and folds do to it.
-/

namespace Sys2Proof.Machine

/-- A well-shaped state, part by part. -/
structure Shaped (s : State) : Prop where
  mem : Memory.wf s.hrt.mem = true
  regions : ∀ r ∈ s.rdg.regions, Memory.wf r.mem = true
  rails : s.pwr.rails.length = 7
  slots : s.fwu.slots.length = 2
  tclass : s.ses.tclass.length = 8
  kvclass : s.ses.kvclass.length = 8

theorem shaped_iff (s : State) : Shaped s ↔ WellShaped s := by
  simp only [WellShaped, memoriesCanonical, tablesWhole, Bool.and_eq_true, List.all_eq_true, beq_iff_eq]
  exact ⟨fun ⟨a, b, c, d, e, f⟩ => ⟨⟨a, b⟩, ⟨⟨c, d⟩, e⟩, f⟩, fun ⟨⟨a, b⟩, ⟨⟨c, d⟩, e⟩, f⟩ => ⟨a, b, c, d, e, f⟩⟩

/-- An answer that is a well-shaped next state. -/
inductive AnswersShaped : Answer → Prop
  | next {t : State} (h : Shaped t) : AnswersShaped (.next t)

section
variable {s : State}

/-! ### Updates of one part -/

theorem shaped_onPins (f : Pins → Pins) (h : Shaped s) : Shaped (s.onPins f) := ⟨h.1, h.2, h.3, h.4, h.5, h.6⟩
theorem shaped_onHost (f : HostPort → HostPort) (h : Shaped s) : Shaped (s.onHost f) := ⟨h.1, h.2, h.3, h.4, h.5, h.6⟩
theorem shaped_onDesc (f : List InFlight → List InFlight) (h : Shaped s) : Shaped (s.onDesc f) :=
  ⟨h.1, h.2, h.3, h.4, h.5, h.6⟩
theorem shaped_onTie (f : Tiers → Tiers) (h : Shaped s) : Shaped (s.onTie f) := ⟨h.1, h.2, h.3, h.4, h.5, h.6⟩
theorem shaped_onImg (f : Images → Images) (h : Shaped s) : Shaped (s.onImg f) := ⟨h.1, h.2, h.3, h.4, h.5, h.6⟩
theorem shaped_onStv (f : Stoves → Stoves) (h : Shaped s) : Shaped (s.onStv f) := ⟨h.1, h.2, h.3, h.4, h.5, h.6⟩
theorem shaped_onKnd (f : Kindling → Kindling) (h : Shaped s) : Shaped (s.onKnd f) := ⟨h.1, h.2, h.3, h.4, h.5, h.6⟩
theorem shaped_onSrch (f : Search → Search) (h : Shaped s) : Shaped (s.onSrch f) := ⟨h.1, h.2, h.3, h.4, h.5, h.6⟩
theorem shaped_onBlw (f : Bellows → Bellows) (h : Shaped s) : Shaped (s.onBlw f) := ⟨h.1, h.2, h.3, h.4, h.5, h.6⟩
theorem shaped_onFbx (f : Firebox → Firebox) (h : Shaped s) : Shaped (s.onFbx f) := ⟨h.1, h.2, h.3, h.4, h.5, h.6⟩
theorem shaped_onCrn (f : Cairns → Cairns) (h : Shaped s) : Shaped (s.onCrn f) := ⟨h.1, h.2, h.3, h.4, h.5, h.6⟩
theorem shaped_onDgn (f : Diag → Diag) (h : Shaped s) : Shaped (s.onDgn f) := ⟨h.1, h.2, h.3, h.4, h.5, h.6⟩
theorem shaped_emit (o : Output) (h : Shaped s) : Shaped (s.emit o) := ⟨h.1, h.2, h.3, h.4, h.5, h.6⟩
theorem shaped_bumpFree (h : Shaped s) : Shaped s.bumpFree := ⟨h.1, h.2, h.3, h.4, h.5, h.6⟩

theorem shaped_onPwr {f : Power → Power} (hf : (f s.pwr).rails.length = s.pwr.rails.length) (h : Shaped s) :
    Shaped (s.onPwr f) :=
  ⟨h.mem, h.regions, hf.trans h.rails, h.slots, h.tclass, h.kvclass⟩

theorem shaped_onFwu {f : Firmware → Firmware} (hf : (f s.fwu).slots.length = s.fwu.slots.length) (h : Shaped s) :
    Shaped (s.onFwu f) :=
  ⟨h.mem, h.regions, h.rails, hf.trans h.slots, h.tclass, h.kvclass⟩

theorem shaped_onSess {f : Sessions → Sessions} (ht : (f s.ses).tclass.length = s.ses.tclass.length)
    (hk : (f s.ses).kvclass.length = s.ses.kvclass.length) (h : Shaped s) : Shaped (s.onSess f) :=
  ⟨h.mem, h.regions, h.rails, h.slots, ht.trans h.tclass, hk.trans h.kvclass⟩

theorem shaped_onHrt {f : Hearth → Hearth} (hf : (f s.hrt).mem = s.hrt.mem) (h : Shaped s) : Shaped (s.onHrt f) :=
  ⟨(congrArg Memory.wf hf).trans h.mem, h.regions, h.rails, h.slots, h.tclass, h.kvclass⟩

theorem shaped_onRdg {f : Ridge → Ridge} (hf : (f s.rdg).regions = s.rdg.regions) (h : Shaped s) : Shaped (s.onRdg f) :=
  ⟨h.mem, hf ▸ h.regions, h.rails, h.slots, h.tclass, h.kvclass⟩

theorem shaped_writesMemory {f : Hearth → Hearth} (hf : Memory.wf s.hrt.mem = true → Memory.wf (f s.hrt).mem = true)
    (h : Shaped s) : Shaped (s.onHrt f) :=
  ⟨hf h.mem, h.regions, h.rails, h.slots, h.tclass, h.kvclass⟩

theorem shaped_changesRegions {f : Ridge → Ridge}
    (hf : (∀ r ∈ s.rdg.regions, Memory.wf r.mem = true) → ∀ r ∈ (f s.rdg).regions, Memory.wf r.mem = true)
    (h : Shaped s) : Shaped (s.onRdg f) :=
  ⟨h.mem, hf h.regions, h.rails, h.slots, h.tclass, h.kvclass⟩

/-! ### Branches and folds -/

theorem shaped_ite {c : Prop} [Decidable c] {a b : State} (ha : Shaped a) (hb : Shaped b) :
    Shaped (if c then a else b) := by split <;> assumption

theorem answersShaped_ite {c : Prop} [Decidable c] {a b : Answer} (ha : AnswersShaped a) (hb : AnswersShaped b) :
    AnswersShaped (if c then a else b) := by split <;> assumption

theorem shaped_foldl {α : Type} {f : State → α → State} {l : List α} (h : Shaped s)
    (hf : ∀ s a, Shaped s → Shaped (f s a)) : Shaped (l.foldl f s) := by
  induction l generalizing s with
  | nil => exact h
  | cons a l ih => exact ih (hf s a h)

theorem shaped_of_pair {α : Type} {p : State × α} {t : State} {a : α} (h : Shaped p.1) (hp : p = (t, a)) :
    Shaped t := by
  subst hp; exact h

/-- A fold that has ended without a value stays so. -/
theorem foldl_none {α β : Type} {f : Option α → β → Option α} (hnone : ∀ b, f none b = none) (l : List β) :
    l.foldl f none = none := by
  induction l with
  | nil => rfl
  | cons b l ih => rw [List.foldl_cons, hnone, ih]

/-- What holds at first and is kept by each step holds of the result of a fold that any step may end. -/
theorem foldl_option_inv {α β : Type} {P : α → Prop} {f : Option α → β → Option α} (hnone : ∀ b, f none b = none)
    (hf : ∀ a b c, P a → f (some a) b = some c → P c) (l : List β) (a : α) {c : α} (ha : P a)
    (hc : l.foldl f (some a) = some c) : P c := by
  induction l generalizing a with
  | nil => cases hc; exact ha
  | cons b l ih =>
    rw [List.foldl_cons] at hc
    cases hb : f (some a) b with
    | none => rw [hb, foldl_none hnone] at hc; cases hc
    | some d => exact ih d (hf a b d ha hb) (hb ▸ hc)

/-! ### Regions and recovery -/

theorem wf_upsert_region {r : Region} {l : List Region} (hr : Memory.wf r.mem = true)
    (h : ∀ x ∈ l, Memory.wf x.mem = true) : ∀ x ∈ upsert (·.slot) r l, Memory.wf x.mem = true := by
  induction l with
  | nil => simpa [upsert] using hr
  | cons y l ih =>
    obtain ⟨hy, hl⟩ := List.forall_mem_cons.mp h
    unfold upsert
    split
    · exact List.forall_mem_cons.mpr ⟨hr, hl⟩
    · exact List.forall_mem_cons.mpr ⟨hy, ih hl⟩

theorem region_wf {n : Nat} {r : Region} (h : Shaped s) (hr : s.region n = some r) :
    Memory.wf r.mem = true := h.regions r (lookup_mem hr).1

theorem regionOf_wf {h : Word} {r : Region} (hs : Shaped s) (hr : regionOf s h = some r) :
    Memory.wf r.mem = true := by
  unfold regionOf at hr
  split at hr
  · rename_i x hx
    split at hr <;> cases hr
    exact region_wf hs hx
  · cases hr

theorem wf_of_region {n : Nat} {r : Region} {m : List Host.Cell} (h : Shaped s) (hr : s.region n = some r)
    (hm : m = r.mem) : Memory.wf m = true := hm ▸ region_wf h hr

theorem wf_of_regionOf {h : Word} {r : Region} {m : List Host.Cell} (hs : Shaped s) (hr : regionOf s h = some r)
    (hm : m = r.mem) : Memory.wf m = true := hm ▸ regionOf_wf hs hr

/-- What bringing a session back answers, each with a state that stays well shaped (R120, R141). -/
def RecoveryShaped : Except (State × Status) (State × List Status) → Prop
  | .error r => Shaped r.1
  | .ok r => Shaped r.1

theorem RecoveryShaped.of_error {r : Except (State × Status) (State × List Status)} {t : State} {st : Status}
    (h : RecoveryShaped r) (hr : r = .error (t, st)) : Shaped t := by subst hr; exact h

theorem RecoveryShaped.of_ok {r : Except (State × Status) (State × List Status)} {t : State} {cs : List Status}
    (h : RecoveryShaped r) (hr : r = .ok (t, cs)) : Shaped t := by subst hr; exact h

end
end Sys2Proof.Machine
end

section
/-!
SUPPORT. That each step keeps the shape of the state, function by function in the order of the model: 
resets, register writes, frames and completions, and what a reset leaves.
-/

namespace Sys2Proof.Machine

theorem shaped_onQp {s : State} (q : Nat) (f : QueuePair → QueuePair) (h : Shaped s) : Shaped (State.onQp s q f) := by
  unfold State.onQp
  apply_rules [shaped_onHost]

theorem shaped_raiseIrq {s : State} (q : Nat) (h : Shaped s) : Shaped (raiseIrq s q) := by
  unfold raiseIrq
  apply_rules [shaped_onQp, shaped_emit]

theorem shaped_signalEntry {s : State} (q : Nat) (now : Bool) (h : Shaped s) : Shaped (signalEntry s q now) := by
  unfold signalEntry
  apply_rules [shaped_raiseIrq, shaped_onQp, shaped_ite]

theorem shaped_putCompletion {s : State} (q : Nat) (c : Completion) (h : Shaped s) : Shaped (putCompletion s q c) := by
  unfold putCompletion
  apply_rules [shaped_signalEntry, shaped_onQp, shaped_emit]

theorem shaped_postEntry {s : State} (q : Nat) (c : Completion) (h : Shaped s) : Shaped (postEntry s q c) := by
  unfold postEntry
  split <;> apply_rules [shaped_putCompletion, shaped_onQp]

theorem shaped_queueEvent {s : State} (q code : Nat) (subSeq : Seq) (result : Word) (h : Shaped s) :
    Shaped (queueEvent s q code subSeq result) := by
  unfold queueEvent
  apply_rules [shaped_postEntry]

theorem shaped_haltQp {s : State} (q cause : Nat) (h : Shaped s) : Shaped (haltQp s q cause) := by
  unfold haltQp
  apply_rules [shaped_onQp]

theorem shaped_dmaHalt {s : State} (q : Nat) (subSeq : Seq) (addr : Word) (ringOk : Bool) (h : Shaped s) :
    Shaped (dmaHalt s q subSeq addr ringOk) := by
  unfold dmaHalt
  apply_rules [shaped_haltQp, shaped_queueEvent, shaped_ite]

theorem shaped_countTenant {s : State} (tenant which n : Nat) (h : Shaped s) :
    Shaped (countTenant s tenant which n) := by
  unfold countTenant
  apply_rules [shaped_onHost]

theorem shaped_putFlight {s : State} (q : Nat) (r : FlightRecord) (h : Shaped s) : Shaped (putFlight s q r) := by
  unfold putFlight
  apply_rules [shaped_onQp, shaped_emit]

theorem shaped_writeFlight {s : State} (q : Nat) (r : FlightRecord) (h : Shaped s) : Shaped (writeFlight s q r) := by
  unfold writeFlight
  apply_rules [shaped_putFlight, shaped_onQp, shaped_ite]

theorem shaped_drainFlight (n : Nat) {s : State} (q : Nat) (h : Shaped s) : Shaped (drainFlight n s q) := by
  induction n generalizing s with
  | zero => exact h
  | succ n ih =>
    unfold drainFlight
    dsimp only
    split
    · split
      · exact ih (shaped_putFlight _ _ (shaped_onQp _ _ h))
      · exact h
    · exact h

theorem shaped_logEvent {s : State} (code tenant detail : Nat) (h : Shaped s) :
    Shaped (logEvent s code tenant detail) := by
  unfold logEvent
  apply_rules [shaped_onDgn]

theorem shaped_putSession {s : State} (x : Session) (h : Shaped s) : Shaped (State.putSession s x) := by
  unfold State.putSession
  apply_rules [shaped_onSess]

theorem shaped_onSession {s : State} (slot : Nat) (f : Session → Session) (h : Shaped s) :
    Shaped (State.onSession s slot f) := by
  unfold State.onSession
  split <;> apply_rules [shaped_putSession]

theorem shaped_recordFlight {s : State} (x : Session) (kind count : Nat) (payload : List Byte) (h : Shaped s) :
    Shaped (recordFlight s x kind count payload) := by
  unfold recordFlight
  split <;> apply_rules [shaped_writeFlight]

theorem shaped_sessionEvent {s : State} (x : Session) (code detail : Nat) (st : Status) (h : Shaped s) :
    Shaped (sessionEvent s x code detail st) := by
  unfold sessionEvent
  apply_rules [shaped_recordFlight, shaped_logEvent]

theorem shaped_isolation {s : State} (cause tenant : Nat) (h : Shaped s) : Shaped (isolation s cause tenant) := by
  unfold isolation
  apply_rules [shaped_logEvent, shaped_onFbx]

theorem shaped_onPeer {s : State} (addr : Nat) (f : Peer → Peer) (h : Shaped s) : Shaped (State.onPeer s addr f) := by
  unfold State.onPeer
  apply_rules [shaped_onRdg]

theorem shaped_onBellow {s : State} (n : Nat) (f : Bellow → Bellow) (h : Shaped s) :
    Shaped (State.onBellow s n f) := by
  unfold State.onBellow
  apply_rules [shaped_onBlw]

theorem shaped_onClass {s : State} (n c : Nat) (f : BlwClass → BlwClass) (h : Shaped s) :
    Shaped (State.onClass s n c f) := by
  unfold State.onClass
  apply_rules [shaped_onBellow]

theorem shaped_enqueueFrame {s : State} (port : Nat) (f : OutFrame) (h : Shaped s) :
    Shaped (enqueueFrame s port f) := by
  unfold enqueueFrame
  apply_rules [shaped_onBellow, shaped_ite]

theorem shaped_sendFrame {s : State} (part type cls : Nat) (payload : Payload) (tenant reqId : Nat) (object : Word)
    (deadlineUs : Nat) (status : Status) (twinTraffic : Bool) (h : Shaped s) :
    Shaped (sendFrame s part type cls payload tenant reqId object deadlineUs status twinTraffic) := by
  unfold sendFrame
  with_reducible repeat' first
    | assumption
    | intro _
    | apply shaped_enqueueFrame
    | apply shaped_bumpFree
    | apply shaped_foldl
    | split

theorem shaped_revalidate {s : State} (h : Shaped s) : Shaped (revalidate s) := by
  unfold revalidate
  split <;> apply_rules [shaped_sendFrame]

theorem shaped_sendRequest {s : State} (part cls : Nat) (r : Request) (tenant : Nat) (object : Word)
    (deadlineUs : Nat) (twinTraffic : Bool) (about : Option Nat) (origin : Option Origin) (h : Shaped s) :
    Shaped (sendRequest s part cls r tenant object deadlineUs twinTraffic about origin).1 := by
  unfold sendRequest
  apply_rules [shaped_sendFrame, shaped_onRdg]

theorem shaped_sendResponse {s : State} (part req : Nat) (status : Status) (body : ResponseBody) (object : Word)
    (cls : Nat) (h : Shaped s) : Shaped (sendResponse s part req status body object cls) := by
  unfold sendResponse
  apply_rules [shaped_sendFrame]

theorem shaped_propose {s : State} (c : MapChange) (h : Shaped s) : Shaped (propose s c) := by
  unfold propose
  apply_rules [shaped_sendFrame, shaped_onRdg, shaped_ite]

theorem shaped_withdraw {s : State} (c : MapChange) (h : Shaped s) : Shaped (withdraw s c) := by
  unfold withdraw
  apply_rules [shaped_onRdg]

theorem shaped_onDescriptor {s : State} (o : Origin) (f : InFlight → InFlight) (h : Shaped s) :
    Shaped (State.onDescriptor s o f) := by
  unfold State.onDescriptor
  apply_rules [shaped_onDesc]

/-- A change of regions that leaves every memory as it is. -/
theorem wf_map_regions {l : List Region} {f : Region → Region} (hf : ∀ r, (f r).mem = r.mem)
    (h : ∀ r ∈ l, Memory.wf r.mem = true) : ∀ r ∈ l.map f, Memory.wf r.mem = true := by
  simpa [hf] using h

theorem shaped_renameOrigin {s : State} (a b : Origin) (h : Shaped s) : Shaped (renameOrigin s a b) := by
  unfold renameOrigin
  apply_rules [shaped_changesRegions, shaped_onKnd, shaped_onSrch, shaped_onImg, shaped_onSess, shaped_onDesc]
  exact wf_map_regions fun _ => rfl

theorem shaped_dropDescriptor {s : State} (o : Origin) (h : Shaped s) : Shaped (dropDescriptor s o) := by
  unfold dropDescriptor
  apply_rules [shaped_onDesc]

theorem shaped_completeOne {s : State} (o : Origin) (conds : List Status) (result : Word) (h : Shaped s) :
    Shaped (completeOne s o conds result) := by
  unfold completeOne
  repeat' split
  all_goals apply_rules [shaped_sendResponse, shaped_postEntry, shaped_onDesc]

theorem shaped_forwardDescriptor {s : State} (d : InFlight) (part : Nat) (param : List Byte) (h : Shaped s) :
    Shaped (forwardDescriptor s d part param) := by
  unfold forwardDescriptor
  apply_rules [shaped_onDescriptor, shaped_sendRequest]

theorem shaped_releaseFences {s : State} (h : Shaped s) : Shaped (releaseFences s) := by
  unfold releaseFences
  with_reducible repeat' first
    | assumption
    | intro _
    | apply shaped_forwardDescriptor
    | apply shaped_completeOne
    | apply shaped_foldl
    | split

theorem shaped_complete {s : State} (o : Origin) (conds : List Status) (result : Word) (h : Shaped s) :
    Shaped (complete s o conds result) := by
  unfold complete
  apply_rules [shaped_releaseFences, shaped_completeOne]

theorem shaped_refuse {s : State} (o : Origin) (st : Status) (result : Word) (h : Shaped s) :
    Shaped (refuse s o st result) := by
  unfold refuse
  apply_rules [shaped_complete]

theorem shaped_flagHeld {s : State} (held : List HeldWork) (h : Shaped s) : Shaped (flagHeld s held) := by
  unfold flagHeld
  with_reducible repeat' first
    | assumption
    | intro _
    | apply shaped_onDescriptor
    | apply shaped_foldl

theorem shaped_stopWork {s : State} (h : Shaped s) : Shaped (stopWork s) := by
  unfold stopWork
  apply_rules [shaped_flagHeld, shaped_onPwr, shaped_onFwu, shaped_onHrt]

theorem shaped_beginAttempt {s : State} (h : Shaped s) : Shaped (beginAttempt s) := by
  unfold beginAttempt
  apply_rules [shaped_onFwu]

theorem shaped_attemptQuiesce {s : State} (h : Shaped s) : Shaped (attemptQuiesce s) := by
  unfold attemptQuiesce
  apply_rules [shaped_beginAttempt, shaped_ite]

theorem shaped_beginHold {s : State} (injected : Bool) (rails : List Rail) (h : Shaped s) :
    Shaped (beginHold s injected rails) := by
  unfold beginHold
  apply_rules [shaped_stopWork, shaped_onPwr]

theorem startLink_rails (p : Power) (n : Nat) : (startLink p n).rails = p.rails := by
  unfold startLink
  split <;> rfl

theorem foldl_startLink_rails (l : List Nat) (p : Power) : (l.foldl startLink p).rails = p.rails := by
  induction l generalizing p with
  | nil => rfl
  | cons n l ih => rw [List.foldl_cons, ih, startLink_rails]

theorem shaped_startDue {s : State} (h : Shaped s) : Shaped (startDue s) :=
  shaped_onPwr (congrArg List.length (foldl_startLink_rails _ _)) h

theorem shaped_resumeWork {s : State} (h : Shaped s) : Shaped (resumeWork s) := by
  unfold resumeWork
  apply_rules [shaped_startDue, shaped_attemptQuiesce, shaped_onTie, shaped_onPwr, shaped_onSess]

theorem shaped_endHold {s : State} (h : Shaped s) : Shaped (endHold s) := by
  unfold endHold
  with_reducible repeat' first
    | assumption
    | intro _
    | apply shaped_resumeWork
    | apply shaped_sessionEvent
    | apply shaped_logEvent
    | apply shaped_onPwr
    | apply shaped_foldl
    | apply shaped_ite
    | apply rfl

theorem shaped_writeShape {s : State} (v : Word) (h : Shaped s) : Shaped (writeShape s v) := by
  unfold writeShape
  apply_rules [shaped_onClass]

theorem shaped_writeGateEntry {s : State} (v : Word) (h : Shaped s) : Shaped (writeGateEntry s v) := by
  unfold writeGateEntry
  apply_rules [shaped_onBellow, shaped_ite]

theorem shaped_commitGates {s : State} (h : Shaped s) : Shaped (commitGates s) := by
  unfold commitGates
  apply_rules [shaped_onBellow, shaped_ite]

theorem shaped_discardGates {s : State} (h : Shaped s) : Shaped (discardGates s) := by
  unfold discardGates
  apply_rules [shaped_onBellow, shaped_ite]

theorem shaped_writePortCtl {s : State} (v : Word) (h : Shaped s) : Shaped (writePortCtl s v) := by
  unfold writePortCtl
  apply_rules [shaped_onBellow]

theorem shaped_onDamper {s : State} (n : Nat) (f : Damper → Damper) (h : Shaped s) :
    Shaped (State.onDamper s n f) := by
  unfold State.onDamper
  apply_rules [shaped_onBlw]

theorem shaped_meter {s : State} (point tenant cls bytes : Nat) (h : Shaped s) :
    Shaped (meter s point tenant cls bytes).2 := by
  unfold meter
  split <;> apply_rules [shaped_onDamper, shaped_countTenant, shaped_ite]

theorem shaped_writeDamper {s : State} (reg : Nat) (v : Word) (h : Shaped s) : Shaped (writeDamper s reg v) := by
  unfold writeDamper
  apply_rules [shaped_onDamper]

theorem flashOnly_slots_length (f : Firmware) : (flashOnly f).slots.length = f.slots.length := List.length_map _

/-- A power-on reset leaves no memory listed and every table at its size. -/
theorem shaped_powerOnState {s : State} (h : Shaped s) : Shaped (powerOnState s) :=
  ⟨rfl, fun _ hr => absurd hr List.not_mem_nil, rfl, (flashOnly_slots_length _).trans h.slots, rfl, rfl⟩

/-- A cold reset leaves no memory listed; the rails stand. -/
theorem shaped_coldState {s : State} (cause : Nat) (h : Shaped s) : Shaped (coldState s cause) :=
  ⟨rfl, fun _ hr => absurd hr List.not_mem_nil, h.rails, (flashOnly_slots_length _).trans h.slots, rfl, rfl⟩

theorem shaped_coldReset {s : State} (cause : Nat) (h : Shaped s) : Shaped (coldReset s cause) := by
  unfold coldReset
  apply_rules [shaped_coldState, shaped_logEvent]

theorem shaped_freeGranules {s : State} (tenant g : Nat) (h : Shaped s) : Shaped (freeGranules s tenant g) := by
  unfold freeGranules
  apply_rules [shaped_onTie, shaped_ite]

theorem shaped_freeRows {s : State} (i : Image) (h : Shaped s) : Shaped (freeRows s i) := by
  unfold freeRows
  apply_rules [shaped_onTie]

theorem shaped_discardLoad {s : State} (i : Image) (h : Shaped s) : Shaped (discardLoad s i) := by
  unfold discardLoad
  apply_rules [shaped_freeRows, shaped_freeGranules, shaped_onImg]

theorem shaped_discardWork {s : State} (h : Shaped s) : Shaped (discardWork s) := by
  unfold discardWork
  with_reducible repeat' first
    | assumption
    | intro _
    | apply shaped_discardLoad
    | apply shaped_freeGranules
    | apply shaped_onImg
    | apply shaped_foldl

theorem shaped_resetBlock {s : State} (block : Nat) (h : Shaped s) : Shaped (resetBlock s block) := by
  unfold resetBlock
  split
  case h_1 => exact ⟨h.mem, h.regions, h.rails, h.slots, rfl, rfl⟩
  all_goals
    apply_rules [shaped_onTie, shaped_onHrt, shaped_onStv, shaped_onKnd, shaped_onSrch, shaped_onRdg, shaped_onBlw,
      shaped_onFbx, shaped_onPwr, shaped_onCrn, shaped_onDgn]

theorem shaped_settingsFormatReset {s : State} (old new : Nat) (h : Shaped s) :
    Shaped (settingsFormatReset s old new) := by
  unfold settingsFormatReset
  with_reducible repeat' first
    | assumption
    | apply shaped_resetBlock
    | apply shaped_onFwu
    | apply shaped_foldl
    | apply rfl

theorem activateSlot_slots_length (f : Firmware) (n : Nat) : (activateSlot f n).slots.length = f.slots.length := by
  simp [activateSlot]

theorem shaped_fallbackImage {s : State} (h : Shaped s) : Shaped (fallbackImage s) := by
  unfold fallbackImage
  refine shaped_onFwu ?_ (shaped_ite (shaped_settingsFormatReset _ _ h) h)
  dsimp only
  rw [apply_ite Firmware.slots, apply_ite List.length, activateSlot_slots_length, ite_self]

theorem shaped_warmState {s : State} (cause : Nat) (h : Shaped s) : Shaped (warmState s cause) :=
  have hd := shaped_discardWork h
  ⟨hd.mem, hd.regions, hd.rails, hd.slots, hd.tclass, hd.kvclass⟩

theorem shaped_endGuests {s : State} (h : Shaped s) : Shaped (endGuests s) := by
  unfold endGuests
  with_reducible repeat' first
    | assumption
    | intro _
    | apply shaped_completeOne
    | apply shaped_foldl

theorem shaped_fallback {s : State} (h : Shaped s) : Shaped (fallback s) := by
  unfold fallback
  apply_rules [shaped_endGuests, shaped_warmState, shaped_fallbackImage, shaped_logEvent]

theorem shaped_warmReset {s : State} (cause : Nat) (h : Shaped s) : Shaped (warmReset s cause) := by
  unfold warmReset
  apply_rules [shaped_fallback, shaped_endGuests, shaped_warmState, shaped_logEvent, shaped_ite]

theorem shaped_writeTableBase {s : State} (v : Word) (h : Shaped s) : Shaped (writeTableBase s v) := by
  unfold writeTableBase
  apply_rules [shaped_onHost, shaped_ite]

theorem shaped_writeDieMode {s : State} (v : Word) (h : Shaped s) : Shaped (writeDieMode s v) := by
  unfold writeDieMode
  apply_rules [shaped_onHrt, shaped_ite]

theorem shaped_writeRqt {s : State} (entry : Bool) (v : Word) (h : Shaped s) : Shaped (writeRqt s entry v) := by
  unfold writeRqt
  apply_rules [shaped_onSess, shaped_ite]

theorem shaped_onSelFlight {s : State} (f : FlightRing → FlightRing) (h : Shaped s) : Shaped (onSelFlight s f) := by
  unfold onSelFlight
  apply_rules [shaped_onQp]

/-- A register write keeps the traffic classes and KV schemes at eight; no register reaches a memory. -/
theorem shaped_writeRW {s : State} (off : Nat) (v : Word) (h : Shaped s) : Shaped (writeRW s off v) := by
  unfold writeRW
  split
  · exact shaped_onSess (setAt_len _ _ _) rfl h
  split
  · exact shaped_onSess rfl (setAt_len _ _ _) h
  split
  case h_1 => exact shaped_onHost _ h
  case h_2 => exact shaped_writeTableBase _ h
  case h_3 | h_4 => exact shaped_onSess rfl rfl h
  case h_5 | h_6 => exact shaped_writeRqt _ _ h
  case h_7 | h_8 => exact shaped_onTie _ h
  case h_9 | h_10 | h_12 => exact shaped_onHrt rfl h
  case h_11 => exact shaped_writeDieMode _ h
  case h_13 => exact shaped_onStv _ h
  case h_14 => exact shaped_onKnd _ h
  case h_15 | h_16 => exact shaped_onSrch _ h
  case h_17 | h_18 | h_19 => exact shaped_onRdg rfl h
  case h_20 | h_25 => exact shaped_onBlw _ h
  case h_21 => exact shaped_writePortCtl _ h
  case h_22 => exact shaped_writeShape _ h
  case h_23 => exact shaped_ite h (shaped_onBellow _ _ h)
  case h_24 => exact shaped_writeGateEntry _ h
  case h_26 | h_27 | h_28 => exact shaped_writeDamper _ _ h
  case h_29 => exact shaped_onFbx _ h
  case h_30 | h_31 => exact shaped_onCrn _ h
  case h_32 | h_33 | h_34 => exact shaped_onFwu rfl h
  case h_35 | h_39 | h_40 => exact shaped_onDgn _ h
  case h_36 | h_41 => exact shaped_onPwr rfl h
  case h_37 | h_38 => exact shaped_onSelFlight _ h
  case h_42 => exact h

theorem shaped_writeW1C {s : State} (off : Nat) (v : Word) (h : Shaped s) : Shaped (writeW1C s off v) := by
  unfold writeW1C
  split <;> apply_rules [shaped_onHost, shaped_onTie, shaped_onStv, shaped_onFbx, shaped_onCrn, shaped_onPwr,
      shaped_onFwu, shaped_onSess, shaped_onHrt, shaped_ite]

theorem shaped_writeRegister {s : State} (off width : Nat) (v : Word) (h : Shaped s) :
    Shaped (writeRegister s off width v) := by
  unfold writeRegister
  apply_rules [shaped_writeW1C, shaped_writeRW, shaped_ite]

theorem shaped_applySettings {s : State} (h : Shaped s) : Shaped (applySettings s) := by
  unfold applySettings
  with_reducible repeat' first
    | assumption
    | intro _
    | apply shaped_writeRW
    | apply shaped_onFbx
    | apply shaped_onFwu
    | apply shaped_foldl
    | apply shaped_ite
    | apply rfl
    | split

end Sys2Proof.Machine
end

section
/-!
SUPPORT. That each step keeps the shape of the state, function by function in the order of the model: 
start-up, rails, supply, heat, links, the host port and its commands.
-/

namespace Sys2Proof.Machine

theorem shaped_romSelfTest {s : State} (trngOk : Bool) (h : Shaped s) : Shaped (romSelfTest s trngOk) := by
  unfold romSelfTest
  apply_rules [shaped_onFbx, shaped_ite]

theorem shaped_drawWrapKey {s : State} (h : Shaped s) : Shaped (drawWrapKey s) := by
  unfold drawWrapKey
  apply_rules [shaped_onFbx]

theorem shaped_takePending {s : State} (bad : Bool) (h : Shaped s) : Shaped (takePending s bad) := by
  unfold takePending
  repeat' split
  all_goals apply_rules [shaped_onFwu]

theorem shaped_takeConfig {s : State} (bad : Bool) (h : Shaped s) : Shaped (takeConfig s bad) := by
  unfold takeConfig
  split <;> apply_rules [shaped_onFbx, shaped_onPwr, shaped_onRdg]

theorem shaped_failSlots {s : State} (bad : List Nat) (h : Shaped s) : Shaped (failSlots s bad) :=
  shaped_onFwu (by simp) h

theorem shaped_bootSlot {s : State} (n : Nat) (recordBad : Bool) (h : Shaped s) : Shaped (bootSlot s n recordBad) :=
  shaped_onFwu (activateSlot_slots_length _ _) h

theorem shaped_of_chooseSlot {s t : State} {recordBad : Bool} (ht : chooseSlot s recordBad = some t) (h : Shaped s) :
    Shaped t := by
  unfold chooseSlot at ht
  dsimp only at ht
  split at ht
  · cases ht
    exact shaped_bootSlot _ _ h
  · split at ht
    · cases ht
      exact shaped_bootSlot _ _ (shaped_onFwu rfl h)
    · cases ht

theorem shaped_testBanks {s : State} (failed : List Nat) (h : Shaped s) : Shaped (testBanks s failed) := by
  unfold testBanks
  apply_rules [shaped_onHrt]

theorem shaped_setPorts {s : State} (h : Shaped s) : Shaped (setPorts s) := by
  unfold setPorts
  apply_rules [shaped_onRdg]

theorem shaped_loadFirmware {s : State} (flashBad failedBanks : List Nat) (h : Shaped s) :
    Shaped (loadFirmware s flashBad failedBanks) := by
  unfold loadFirmware
  split
  · exact shaped_onPwr rfl (shaped_failSlots _ h)
  · rename_i t ht
    have hboot := shaped_setPorts (shaped_testBanks failedBanks (shaped_of_chooseSlot ht (shaped_failSlots _ h)))
    exact shaped_ite (shaped_onPins _ (shaped_onPwr rfl hboot)) (shaped_onPwr rfl hboot)

theorem shaped_startUp {s : State} (b : BootReport) (failedBanks : List Nat) (h : Shaped s) :
    Shaped (startUp s b failedBanks) := by
  unfold startUp
  apply_rules [shaped_loadFirmware, shaped_takeConfig, shaped_takePending, shaped_drawWrapKey, shaped_romSelfTest,
      shaped_onPwr, shaped_onFwu, shaped_ite]

theorem shaped_setUnits {s : State} (h : Shaped s) : Shaped (setUnits s) := by
  unfold setUnits
  apply_rules [shaped_onTie, shaped_onKnd]

theorem shaped_finishStart {s : State} (h : Shaped s) : Shaped (finishStart s) := by
  unfold finishStart
  apply_rules [shaped_setUnits, shaped_applySettings, shaped_propose, shaped_onStv, shaped_onPwr, shaped_onRdg,
      shaped_ite]

theorem answersShaped_execRegisterWrite (off width : Nat) (val : Word) {s : State} (h : Shaped s) :
    AnswersShaped (execRegisterWrite off width val s) := by
  unfold execRegisterWrite
  apply_rules [AnswersShaped.next, shaped_writeRegister]

theorem answersShaped_execPowerOnReset {s : State} (h : Shaped s) : AnswersShaped (execPowerOnReset s) := by
  unfold execPowerOnReset
  apply_rules [AnswersShaped.next, shaped_powerOnState]

theorem shaped_onRail {s : State} (r : Rail) (f : RailState → RailState) (h : Shaped s) : Shaped (onRail s r f) :=
  shaped_onPwr (setAt_len _ _ _) h

theorem shaped_markGood {s : State} (h : Shaped s) : Shaped (markGood s) := by
  unfold markGood
  apply_rules [shaped_onPwr, shaped_ite]

theorem shaped_recordSequenceFault {s : State} (r : Rail) (h : Shaped s) : Shaped (recordSequenceFault s r) := by
  unfold recordSequenceFault
  apply_rules [shaped_onRail, shaped_onPwr]

theorem answersShaped_execSequenceFault (r : Rail) {s : State} (h : Shaped s) :
    AnswersShaped (execSequenceFault r s) := by
  unfold execSequenceFault
  apply_rules [AnswersShaped.next, shaped_recordSequenceFault, shaped_ite]

theorem answersShaped_execRailRise (r : Rail) {s : State} (h : Shaped s) : AnswersShaped (execRailRise r s) := by
  unfold execRailRise
  apply_rules [AnswersShaped.next, shaped_recordSequenceFault, shaped_markGood, shaped_onRail, shaped_onPwr,
      shaped_ite]

theorem answersShaped_execPorstNAssert (temps : List Reading) {s : State} (h : Shaped s) :
    AnswersShaped (execPorstNAssert temps s) := by
  unfold execPorstNAssert
  apply_rules [AnswersShaped.next, shaped_coldReset, shaped_onPins, shaped_onPwr, answersShaped_ite]

theorem answersShaped_execPorstNRelease (straps : BitVec 4) (boot : BootReport) (failedBanks : List Nat) {s : State}
    (h : Shaped s) : AnswersShaped (execPorstNRelease straps boot failedBanks s) := by
  unfold execPorstNRelease
  apply_rules [AnswersShaped.next, shaped_startUp, shaped_onPins, shaped_ite, answersShaped_ite]

theorem answersShaped_execColdRestart (boot : BootReport) (failedBanks : List Nat) {s : State} (h : Shaped s) :
    AnswersShaped (execColdRestart boot failedBanks s) := by
  unfold execColdRestart
  apply_rules [AnswersShaped.next, shaped_startUp, shaped_ite]

theorem answersShaped_execFoothillTrainingDone (failed : List Nat) {s : State} (h : Shaped s) :
    AnswersShaped (execFoothillTrainingDone failed s) := by
  unfold execFoothillTrainingDone
  apply_rules [AnswersShaped.next, shaped_onPwr, answersShaped_ite]

theorem answersShaped_execRidgeTrainingDone (port : Nat) (lanes : BitVec 8) (partnerPart : Bool) {s : State}
    (h : Shaped s) : AnswersShaped (execRidgeTrainingDone port lanes partnerPart s) := by
  unfold execRidgeTrainingDone
  apply_rules [AnswersShaped.next, shaped_onPwr, shaped_onRdg, answersShaped_ite]

theorem answersShaped_execStartupComplete {s : State} (h : Shaped s) : AnswersShaped (execStartupComplete s) := by
  unfold execStartupComplete
  apply_rules [AnswersShaped.next, shaped_finishStart, shaped_ite]

theorem answersShaped_execWarmrstNAssert {s : State} (h : Shaped s) : AnswersShaped (execWarmrstNAssert s) := by
  unfold execWarmrstNAssert
  apply_rules [AnswersShaped.next, shaped_warmReset, shaped_onPins, shaped_onPwr, answersShaped_ite]

theorem shaped_markDue {s : State} (l : Link) (h : Shaped s) : Shaped (markDue s l) := by
  unfold markDue
  apply_rules [shaped_onPwr]

theorem shaped_warmChecks {s : State} (fails : List Link) (h : Shaped s) : Shaped (warmChecks s fails) := by
  unfold warmChecks
  with_reducible repeat' first
    | assumption
    | apply shaped_markDue
    | apply shaped_startDue
    | apply shaped_onPwr
    | apply shaped_foldl
    | apply shaped_ite
    | apply rfl

theorem answersShaped_execWarmrstNRelease (marginFails : List Link) {s : State} (h : Shaped s) :
    AnswersShaped (execWarmrstNRelease marginFails s) := by
  unfold execWarmrstNRelease
  apply_rules [AnswersShaped.next, shaped_warmChecks, shaped_onPins, shaped_onPwr, answersShaped_ite]

theorem answersShaped_execWarmResetRecoveryEnd {s : State} (h : Shaped s) :
    AnswersShaped (execWarmResetRecoveryEnd s) := by
  unfold execWarmResetRecoveryEnd
  with_reducible repeat' first
    | assumption
    | apply AnswersShaped.next
    | apply shaped_attemptQuiesce
    | apply shaped_propose
    | apply shaped_revalidate
    | apply shaped_onPwr
    | apply rfl
    | split

theorem answersShaped_execWatchdogFire {s : State} (h : Shaped s) : AnswersShaped (execWatchdogFire s) := by
  unfold execWatchdogFire
  apply_rules [AnswersShaped.next, shaped_warmReset, shaped_fallback, shaped_coldReset, shaped_onPwr, shaped_onFwu,
      answersShaped_ite]

theorem answersShaped_execThermalTrip (t : Reading) {s : State} (h : Shaped s) :
    AnswersShaped (execThermalTrip t s) := by
  unfold execThermalTrip
  apply_rules [AnswersShaped.next, shaped_coldReset, shaped_onPins, shaped_onPwr, answersShaped_ite]

theorem shaped_shedStep {s : State} (h : Shaped s) : Shaped (shedStep s) := by
  unfold shedStep
  apply_rules [shaped_onPwr, shaped_ite]

theorem shaped_restoreStep {s : State} (h : Shaped s) : Shaped (restoreStep s) := by
  unfold restoreStep
  with_reducible repeat' first
    | assumption
    | apply shaped_onPwr
    | apply rfl
    | split

theorem shaped_shed {s : State} (h : Shaped s) : Shaped (shed s) := by
  unfold shed
  apply_rules [shaped_shedStep, shaped_onPwr, shaped_ite]

theorem answersShaped_execThermalThrottle (t : Reading) {s : State} (h : Shaped s) :
    AnswersShaped (execThermalThrottle t s) := by
  unfold execThermalThrottle
  apply_rules [AnswersShaped.next, shaped_shed, shaped_onPwr, answersShaped_ite]

theorem answersShaped_execThermalThrottleRelease (c : Cooled) {s : State} (h : Shaped s) :
    AnswersShaped (execThermalThrottleRelease c s) := by
  unfold execThermalThrottleRelease
  apply_rules [AnswersShaped.next, answersShaped_ite, shaped_onPwr]

theorem answersShaped_execExtendedRefreshChange (above : Bool) {s : State} (h : Shaped s) :
    AnswersShaped (execExtendedRefreshChange above s) := by
  unfold execExtendedRefreshChange
  apply_rules [AnswersShaped.next, shaped_onPwr]

theorem answersShaped_execThrottleNAssert {s : State} (h : Shaped s) : AnswersShaped (execThrottleNAssert s) := by
  unfold execThrottleNAssert
  apply_rules [AnswersShaped.next, shaped_onPins]

theorem answersShaped_execThrottleNRelease {s : State} (h : Shaped s) : AnswersShaped (execThrottleNRelease s) := by
  unfold execThrottleNRelease
  apply_rules [AnswersShaped.next, shaped_onPins]

theorem answersShaped_execPowerCapEvaluation (windowWatts milliWatts coreAmps : Nat) (railAmps : List Nat)
    {s : State} (h : Shaped s) :
    AnswersShaped (execPowerCapEvaluation windowWatts milliWatts coreAmps railAmps s) := by
  unfold execPowerCapEvaluation
  with_reducible repeat' first
    | assumption
    | apply AnswersShaped.next
    | apply shaped_shed
    | apply shaped_restoreStep
    | apply shaped_onPwr
    | apply rfl
    | apply answersShaped_ite
    | split

theorem answersShaped_execDipEpisodeBegin (r : Rail) (c : Crossing) {s : State} (h : Shaped s) :
    AnswersShaped (execDipEpisodeBegin r c s) := by
  unfold execDipEpisodeBegin
  apply_rules [AnswersShaped.next, shaped_onRail, shaped_beginHold, shaped_stopWork, shaped_onPins, shaped_onPwr,
      answersShaped_ite]

theorem answersShaped_execRailRecovered (r : RailReturn) {s : State} (h : Shaped s) :
    AnswersShaped (execRailRecovered r s) := by
  unfold execRailRecovered
  apply_rules [AnswersShaped.next, answersShaped_ite, shaped_markGood, shaped_resumeWork, shaped_onRail,
      shaped_onPins, shaped_onPwr, shaped_ite]

theorem answersShaped_execDipEpisodeEnd {s : State} (h : Shaped s) : AnswersShaped (execDipEpisodeEnd s) := by
  unfold execDipEpisodeEnd
  apply_rules [AnswersShaped.next, shaped_endHold, shaped_onPwr, shaped_ite, answersShaped_ite]

theorem answersShaped_execSupplyReset (c : SupplyCause) {s : State} (h : Shaped s) :
    AnswersShaped (execSupplyReset c s) := by
  unfold execSupplyReset
  repeat' split
  all_goals apply_rules [AnswersShaped.next, shaped_onRail, shaped_coldReset, shaped_powerOnState, shaped_onPins,
      shaped_onPwr]

theorem answersShaped_execMarginCheck (l : Link) (eye : Eye) (celsius : Nat) {s : State} (h : Shaped s) :
    AnswersShaped (execMarginCheck l eye celsius s) := by
  unfold execMarginCheck
  split
  · exact .next h
  split
  · exact .next h
  refine .next (shaped_startDue (shaped_onPwr ?_ h))
  dsimp only
  split
  · rfl
  · unfold advanceRotation
    dsimp only
    split <;> rfl

theorem answersShaped_execRetrainEnd (l : Link) (celsius : Nat) {s : State} (h : Shaped s) :
    AnswersShaped (execRetrainEnd l celsius s) := by
  unfold execRetrainEnd
  repeat' split
  all_goals apply_rules [AnswersShaped.next, shaped_startDue, shaped_logEvent, shaped_onPwr]

theorem shaped_onEmber {s : State} (e : Nat) (f : Ember → Ember) (h : Shaped s) : Shaped (State.onEmber s e f) := by
  unfold State.onEmber
  apply_rules [shaped_onHrt]

theorem shaped_putIndex {s : State} (x : Index) (h : Shaped s) : Shaped (State.putIndex s x) := by
  unfold State.putIndex
  apply_rules [shaped_onSrch]

theorem shaped_leaveBank {s : State} (e : Nat) (h : Shaped s) : Shaped (leaveBank s e) := by
  unfold leaveBank
  apply_rules [shaped_onSrch]

theorem shaped_freeIndex {s : State} (x : Index) (h : Shaped s) : Shaped (freeIndex s x) := by
  unfold freeIndex
  apply_rules [shaped_freeGranules, shaped_onSrch]

theorem shaped_getD_map {α : Type} {s : State} {f : α → State} (o : Option α) (hf : ∀ a, Shaped (f a)) (h : Shaped s) :
    Shaped ((o.map f).getD s) := by
  cases o with
  | none => exact h
  | some a => exact hf a

theorem shaped_settleWaits (n : Nat) {s : State} (h : Shaped s) : Shaped (settleWaits n s) := by
  induction n generalizing s with
  | zero => exact h
  | succ n ih =>
    unfold settleWaits
    split
    · exact h
    · exact ih (shaped_complete _ _ _ (shaped_ite (shaped_getD_map _ (fun x => shaped_freeIndex x (shaped_onSrch _ h))
        (shaped_onSrch _ h)) (shaped_onSrch _ h)))

theorem shaped_indexSettled {s : State} (h : Shaped s) : Shaped (indexSettled s) := by
  unfold indexSettled
  apply_rules [shaped_settleWaits]

theorem shaped_dropQuery {s : State} (o : Origin) (h : Shaped s) : Shaped (dropQuery s o) := by
  unfold dropQuery
  apply_rules [shaped_onSrch]

theorem shaped_sendRecord {s : State} (o : Origin) (cls : Nat) (r : FlueRecord) (h : Shaped s) :
    Shaped (sendRecord s o cls r) := by
  unfold sendRecord
  repeat' split
  all_goals apply_rules [shaped_sendResponse, shaped_onClass]

theorem shaped_finishEnded {s : State} (h : Shaped s) : Shaped (finishEnded s) := by
  refine shaped_foldl h fun s d h => ?_
  split
  · exact h
  split <;> apply_rules [shaped_complete, shaped_ite]

theorem shaped_deliver {s : State} (o : Origin) (addr : Nat) (data : List Byte) (h : Shaped s) :
    Shaped (deliver s o addr data) := by
  unfold deliver
  split <;> apply_rules [shaped_sendResponse, shaped_emit]

theorem shaped_kindle {s : State} (die : Option Nat) (w : KindlingWork) (h : Shaped s) : Shaped (kindle s die w) := by
  unfold kindle
  apply_rules [shaped_onKnd]

theorem shaped_unkindle {s : State} (w : KindlingWork) (h : Shaped s) : Shaped (unkindle s w) := by
  unfold unkindle
  apply_rules [shaped_onKnd]

theorem shaped_kindleMask {s : State} (x : Session) (column : Nat) (h : Shaped s) :
    Shaped (kindleMask s x column) := by
  unfold kindleMask
  apply_rules [shaped_kindle]

theorem shaped_kindleText {s : State} (d : InFlight) (h : Shaped s) : Shaped (kindleText s d) := by
  unfold kindleText
  with_reducible repeat' first
    | assumption
    | intro _
    | apply shaped_kindle
    | apply shaped_onKnd
    | apply shaped_foldl
    | apply shaped_ite

theorem shaped_dropColumns {s : State} (slot : Nat) (h : Shaped s) : Shaped (dropColumns s slot) := by
  unfold dropColumns
  apply_rules [shaped_onSess]

theorem shaped_closeGeneration {s : State} (x : Session) (g : Gen) (st : Status) (h : Shaped s) :
    Shaped (closeGeneration s x g st) := by
  unfold closeGeneration
  apply_rules [shaped_dropColumns, shaped_finishEnded, shaped_onDescriptor, shaped_putSession]

theorem shaped_emitRecord {s : State} (x : Session) (o : Origin) (wait : Bool) (r : FlueRecord) (h : Shaped s) :
    Shaped (emitRecord s x o wait r) := by
  unfold emitRecord
  split <;> apply_rules [shaped_sendRecord, shaped_onSession, shaped_ite]

theorem shaped_noteReplaced {s : State} (slot n step : Nat) (h : Shaped s) : Shaped (noteReplaced s slot n step) := by
  unfold noteReplaced
  with_reducible repeat' first
    | assumption
    | apply shaped_sessionEvent
    | apply shaped_putSession
    | apply shaped_onKnd
    | split
    | dsimp only

theorem shaped_endGeneration {s : State} (slot : Nat) (st : Status) (stop : Nat) (h : Shaped s) :
    Shaped (endGeneration s slot st stop) := by
  unfold endGeneration
  with_reducible repeat' first
    | assumption
    | apply shaped_noteReplaced
    | apply shaped_emitRecord
    | apply shaped_closeGeneration
    | split
    | dsimp only

theorem shaped_endPrefill {s : State} (slot : Nat) (st : Status) (h : Shaped s) : Shaped (endPrefill s slot st) := by
  unfold endPrefill
  repeat' split
  all_goals apply_rules [shaped_endGeneration, shaped_complete, shaped_putSession]

theorem shaped_endMove {s : State} (slot : Nat) (st : Status) (h : Shaped s) : Shaped (endMove s slot st) := by
  unfold endMove
  with_reducible repeat' first
    | assumption
    | intro _
    | apply shaped_complete
    | apply shaped_sendRequest
    | apply shaped_putSession
    | apply shaped_foldl
    | split

theorem shaped_undoPark {s : State} (x : Session) (h : Shaped s) : Shaped (undoPark s x) := by
  unfold undoPark
  apply_rules [shaped_putSession, shaped_onTie, shaped_ite]

theorem shaped_of_endRunning {s t : State} {x : Session} {o : Origin} {st : Status}
    (ht : endRunning s x o st = some t) (h : Shaped s) : Shaped t := by
  unfold endRunning at ht
  split at ht
  · cases ht
    exact shaped_endPrefill _ _ h
  · split at ht
    · cases ht
      exact shaped_endGeneration _ _ _ h
    · split at ht
      · cases ht
        exact shaped_endMove _ _ h
      · split at ht
        · cases ht
          exact shaped_complete _ _ _ (shaped_undoPark _ h)
        · cases ht

theorem shaped_of_endInFlight {s t : State} {d : InFlight} {st : Status} (ht : endInFlight s d st = some t)
    (h : Shaped s) : Shaped t := by
  unfold endInFlight at ht
  split at ht
  · cases ht
    exact shaped_indexSettled (shaped_complete _ _ _ h)
  · cases ht
    exact shaped_indexSettled (shaped_complete _ _ _ (shaped_dropQuery _ h))
  · obtain ⟨x, -, hx⟩ := Option.bind_eq_some_iff.mp ht
    exact shaped_of_endRunning hx h

theorem shaped_cancelDescriptor {s : State} (d : InFlight) (h : Shaped s) : Shaped (cancelDescriptor s d).2 := by
  unfold cancelDescriptor
  with_reducible repeat' first
    | assumption
    | apply shaped_complete
    | apply shaped_onDescriptor
    | apply shaped_sendRequest
    | refine shaped_of_endInFlight ‹_› ?_
    | split

theorem shaped_failDescriptor {s : State} (d : InFlight) (st : Status) (h : Shaped s) :
    Shaped (failDescriptor s d st) := by
  unfold failDescriptor
  with_reducible repeat' first
    | assumption
    | apply shaped_finishEnded
    | apply shaped_complete
    | apply shaped_onDescriptor
    | apply shaped_sendRequest
    | refine shaped_of_endInFlight ‹_› ?_
    | split

theorem shaped_markRunning {s : State} (o : Origin) (h : Shaped s) : Shaped (markRunning s o) := by
  unfold markRunning
  apply_rules [shaped_onDescriptor]

theorem shaped_onIsland {s : State} (n : Nat) (f : Island → Island) (h : Shaped s) : Shaped (onIsland s n f) := by
  unfold onIsland
  apply_rules [shaped_onStv]

theorem shaped_startItem {s : State} (n : Nat) (it : Item) (crestOk : Bool) (h : Shaped s) :
    Shaped (startItem s n it crestOk) := by
  unfold startItem
  split <;> apply_rules [shaped_isolation, shaped_onStv, shaped_ite]

theorem shaped_takeNext {s : State} (n : Nat) (crestOk : Bool) (h : Shaped s) : Shaped (takeNext s n crestOk) := by
  unfold takeNext
  repeat' split
  all_goals apply_rules [shaped_startItem, shaped_onIsland]

theorem shaped_queueItems {s : State} (n : Nat) (r : Role) (rank tenant : Nat) (h : Shaped s) :
    Shaped (queueItems s n r rank tenant) := by
  unfold queueItems
  with_reducible repeat' first
    | assumption
    | intro _
    | apply shaped_onStv
    | apply shaped_onSess
    | apply shaped_foldl
    | apply rfl

theorem shaped_queueItem {s : State} (r : Role) (rank tenant : Nat) (h : Shaped s) :
    Shaped (queueItem s r rank tenant) := by
  unfold queueItem
  apply_rules [shaped_queueItems]

theorem answersShaped_execHostLinkUp (modules half : BitVec 4) (rate repairs : Nat) {s : State} (h : Shaped s) :
    AnswersShaped (execHostLinkUp modules half rate repairs s) := by
  unfold execHostLinkUp
  apply_rules [AnswersShaped.next, shaped_onHost, answersShaped_ite]

theorem answersShaped_execHostLinkDown {s : State} (h : Shaped s) : AnswersShaped (execHostLinkDown s) := by
  unfold execHostLinkDown
  apply_rules [AnswersShaped.next, shaped_onHost]

theorem answersShaped_execHostModuleLost (m : Nat) {s : State} (h : Shaped s) :
    AnswersShaped (execHostModuleLost m s) := by
  unfold execHostModuleLost
  apply_rules [AnswersShaped.next, shaped_onHost, shaped_ite]

theorem answersShaped_execAttach (val : Word) {s : State} (h : Shaped s) : AnswersShaped (execAttach val s) := by
  unfold execAttach
  apply_rules [AnswersShaped.next, shaped_onHost, shaped_ite, answersShaped_ite]

theorem answersShaped_execQpTableBaseWrite (val : Word) {s : State} (h : Shaped s) :
    AnswersShaped (execQpTableBaseWrite val s) := by
  unfold execQpTableBaseWrite
  apply_rules [AnswersShaped.next, shaped_writeTableBase, shaped_ite]

theorem shaped_cmdEnd {s : State} (q result : Nat) (h : Shaped s) : Shaped (cmdEnd s q result) := by
  unfold cmdEnd
  apply_rules [shaped_onHost]

theorem answersShaped_execQpEnable (q : Nat) (ctx : Option (BitVec 512)) {s : State} (h : Shaped s) :
    AnswersShaped (execQpEnable q ctx s) := by
  unfold execQpEnable
  repeat' split
  all_goals apply_rules [AnswersShaped.next, shaped_onHost, shaped_ite, answersShaped_ite]

theorem answersShaped_execQpFreeze (q : Nat) {s : State} (h : Shaped s) : AnswersShaped (execQpFreeze q s) := by
  unfold execQpFreeze
  repeat' split
  all_goals apply_rules [AnswersShaped.next, shaped_cmdEnd, shaped_onQp]

theorem answersShaped_execQpSnapshot (q : Nat) (write : SnapshotWrite) {s : State} (h : Shaped s) :
    AnswersShaped (execQpSnapshot q write s) := by
  unfold execQpSnapshot
  repeat' split
  all_goals apply_rules [AnswersShaped.next, shaped_cmdEnd, shaped_dmaHalt, shaped_onQp, shaped_emit, shaped_ite,
      answersShaped_ite]

theorem shaped_doorbellBad {s : State} (q which : Nat) (v : Seq) (h : Shaped s) :
    Shaped (doorbellBad s q which v) := by
  unfold doorbellBad
  apply_rules [shaped_queueEvent]

theorem answersShaped_execSqTailWrite (q : Nat) (val : Word) {s : State} (h : Shaped s) :
    AnswersShaped (execSqTailWrite q val s) := by
  unfold execSqTailWrite
  apply_rules [AnswersShaped.next, shaped_doorbellBad, shaped_onQp, answersShaped_ite]

theorem answersShaped_execCqHeadWrite (q : Nat) (val : Word) {s : State} (h : Shaped s) :
    AnswersShaped (execCqHeadWrite q val s) := by
  unfold execCqHeadWrite
  apply_rules [AnswersShaped.next, shaped_doorbellBad, shaped_onQp, answersShaped_ite]

theorem answersShaped_execFlightHeadWrite (q : Nat) (val : Word) {s : State} (h : Shaped s) :
    AnswersShaped (execFlightHeadWrite q val s) := by
  unfold execFlightHeadWrite
  apply_rules [AnswersShaped.next, shaped_doorbellBad, shaped_onQp, shaped_drainFlight, shaped_ite,
      answersShaped_ite]

theorem shaped_takeTurn {s : State} (q : Nat) (h : Shaped s) : Shaped (takeTurn s q) := by
  unfold takeTurn
  apply_rules [shaped_onHost]

theorem shaped_rejectAtFetch {s : State} (o : Origin) (st : Status) (h : Shaped s) :
    Shaped (rejectAtFetch s o st) := by
  unfold rejectAtFetch
  split <;> apply_rules [shaped_complete, shaped_onDescriptor, shaped_ite]

theorem shaped_arrive {s : State} (o : Origin) (h : Shaped s) : Shaped (arrive s o) := by
  unfold arrive
  with_reducible repeat' first
    | assumption
    | apply shaped_queueItems
    | apply shaped_kindleText
    | apply shaped_complete
    | apply shaped_ite
    | split

theorem shaped_acceptDescriptor {s : State} (q : Nat) (d : BitVec 512) (h : Shaped s) :
    Shaped (acceptDescriptor s q d) := by
  unfold acceptDescriptor
  extract_lets p o u e v
  have hv : Shaped v := shaped_onDesc _ (shaped_onQp _ _ h)
  split
  · exact shaped_rejectAtFetch _ _ hv
  split
  rename_i refused w hmeter
  have hw : Shaped w := by
    split at hmeter
    · cases hmeter; exact hv
    · have hm := shaped_meter 0 p.ctx.tenant (descriptorClass v d) 64 hv
      rwa [hmeter] at hm
  refine shaped_ite (shaped_rejectAtFetch _ _ hw) ?_
  split
  · exact shaped_arrive _ hw
  · exact shaped_ite (shaped_arrive _ hw) (shaped_ite (shaped_rejectAtFetch _ _ hw) (shaped_ite (shaped_rejectAtFetch _ _ hw)
      (shaped_ite (shaped_rejectAtFetch _ _ hw) (shaped_ite hw (shaped_forwardDescriptor _ _ _ hw)))))

theorem answersShaped_execDescriptorFetch (q : Nat) (desc : BitVec 512) {s : State} (h : Shaped s) :
    AnswersShaped (execDescriptorFetch q desc s) := by
  unfold execDescriptorFetch
  apply_rules [AnswersShaped.next, shaped_acceptDescriptor, shaped_takeTurn, shaped_onQp, shaped_ite,
      answersShaped_ite]

theorem answersShaped_execSeqReread (q : Nat) (desc : BitVec 512) {s : State} (h : Shaped s) :
    AnswersShaped (execSeqReread q desc s) := by
  unfold execSeqReread
  apply_rules [AnswersShaped.next, shaped_acceptDescriptor, shaped_queueEvent, shaped_onQp, answersShaped_ite]

theorem answersShaped_execDmaError (q : Nat) (about : Option Seq) (addr : Word) (ringOk : Bool) {s : State}
    (h : Shaped s) : AnswersShaped (execDmaError q about addr ringOk s) := by
  unfold execDmaError
  with_reducible repeat' first
    | assumption
    | apply AnswersShaped.next
    | apply shaped_failDescriptor
    | apply shaped_dmaHalt
    | split
    | dsimp only

theorem answersShaped_execIrqCoalesceTimeout (q : Nat) {s : State} (h : Shaped s) :
    AnswersShaped (execIrqCoalesceTimeout q s) := by
  unfold execIrqCoalesceTimeout
  with_reducible repeat' first
    | assumption
    | apply AnswersShaped.next
    | apply shaped_raiseIrq
    | split
    | dsimp only

theorem answersShaped_execNop (o : Origin) {s : State} (h : Shaped s) : AnswersShaped (execNop o s) := by
  unfold execNop
  split <;> apply_rules [AnswersShaped.next, shaped_complete]

theorem shaped_flagBrownout {s : State} (o : Origin) (h : Shaped s) : Shaped (flagBrownout s o) := by
  unfold flagBrownout
  apply_rules [shaped_onDescriptor, shaped_ite]

theorem shaped_lateRunning {s : State} (x : Session) (o : Origin) (h : Shaped s) : Shaped (lateRunning s x o) := by
  unfold lateRunning
  apply_rules [shaped_endPrefill, shaped_endGeneration, shaped_ite]

theorem answersShaped_execDeadlineExpire (o : Origin) {s : State} (h : Shaped s) :
    AnswersShaped (execDeadlineExpire o s) := by
  have hb := shaped_flagBrownout o h
  unfold execDeadlineExpire
  repeat' first
    | assumption
    | apply AnswersShaped.next
    | apply shaped_complete
    | apply shaped_lateRunning
    | split
  cases hd : endInFlight (flagBrownout s o) ‹InFlight› .deadlineMissed with
  | none => exact h
  | some t => exact shaped_of_endInFlight hd hb

theorem shaped_actOnEpoch {s : State} (h : Shaped s) : Shaped (actOnEpoch s) := by
  unfold actOnEpoch
  split <;> apply_rules [shaped_onFwu, shaped_ite]

theorem shaped_noteActivation {s : State} (digest : BitVec 384) (epoch : Nat) (cold : Bool) (h : Shaped s) :
    Shaped (noteActivation s digest epoch cold) := by
  unfold noteActivation
  with_reducible repeat' first
    | assumption
    | intro _
    | apply shaped_complete
    | apply shaped_onFwu
    | apply shaped_foldl
    | apply shaped_ite
    | apply rfl
    | split

theorem shaped_switchImage {s : State} (h : Shaped s) : Shaped (switchImage s) := by
  unfold switchImage
  exact shaped_onFwu (activateSlot_slots_length _ _) (shaped_settingsFormatReset _ _ h)

end Sys2Proof.Machine
end

section
/-!
SUPPORT. That each step keeps the shape of the state, function by function in the order of the model: 
placement, recovery, the pool and the regions.
-/

namespace Sys2Proof.Machine

theorem shaped_takeFrame {s : State} (tenant n : Nat) (h : Shaped s) : Shaped (takeFrame s tenant n) := by
  unfold takeFrame
  apply_rules [shaped_onTie]

theorem shaped_freeFrame {s : State} (n : Nat) (h : Shaped s) : Shaped (freeFrame s n) := by
  unfold freeFrame
  apply_rules [shaped_onTie]

theorem shaped_writeFrame {s : State} (n : Nat) (bytes : List Byte) (h : Shaped s) : Shaped (writeFrame s n bytes) :=
  shaped_writesMemory (fun hm => memWriteAll_wf _ _ _ (memZero_wf _ _ _ hm)) h

theorem shaped_of_placeGroup {s t : State} {i : Image} {x : Session} {k g : Nat} {pages : List Nat}
    {got : List (Nat × Nat)} (ht : placeGroup s i x k g pages = some (t, got)) (h : Shaped s) : Shaped t := by
  unfold placeGroup at ht
  split at ht <;> cases ht
  exact shaped_foldl h fun s n h => shaped_takeFrame _ _ h

theorem shaped_of_placePages {s t : State} {i : Image} {x : Session} {pages : List Nat} {got : List (Nat × Nat)}
    (ht : placePages s i x pages = some (t, got)) (h : Shaped s) : Shaped t := by
  unfold placePages at ht
  refine foldl_option_inv (P := fun a => Shaped a.1) (fun _ => rfl) (fun a b c ha hb => ?_) _ _ h ht
  dsimp only at hb
  split at hb <;> cases hb
  exact shaped_of_placeGroup ‹_› ha

theorem shaped_askTwin {s : State} (cls : Nat) (r : Request) (tenant : Nat) (object : Word) (h : Shaped s) :
    Shaped (askTwin s cls r tenant object) := by
  unfold askTwin
  split <;> apply_rules [shaped_sendRequest, shaped_ite]

theorem shaped_sendSlotEntry {s : State} (slot : Nat) (h : Shaped s) : Shaped (sendSlotEntry s slot) := by
  unfold sendSlotEntry
  split <;> apply_rules [shaped_askTwin]

theorem shaped_sendBuddy {s : State} (x : Session) (page epoch wseq : Nat) (data : List Byte) (h : Shaped s) :
    Shaped (sendBuddy s x page epoch wseq data) := by
  unfold sendBuddy
  split <;> apply_rules [shaped_sendFrame]

theorem shaped_sendRecordCopy {s : State} (slot : Nat) (h : Shaped s) : Shaped (sendRecordCopy s slot) := by
  unfold sendRecordCopy
  split <;> apply_rules [shaped_sendBuddy, shaped_onSession, shaped_ite]

theorem shaped_poolAsk {s : State} (w : PoolWait) (h : Shaped s) : Shaped (poolAsk s w) := by
  unfold poolAsk
  apply_rules [shaped_sendRequest, shaped_onTie, shaped_ite]

theorem shaped_pumpPool {s : State} (h : Shaped s) : Shaped (pumpPool s) := by
  unfold pumpPool
  with_reducible repeat' first
    | assumption
    | apply shaped_poolAsk
    | apply shaped_onTie
    | apply shaped_foldl

theorem shaped_askLender {s : State} (x : Session) (e : Word) (r : Request) (h : Shaped s) :
    Shaped (askLender s x e r) := by
  unfold askLender
  split <;> apply_rules [shaped_poolAsk]

theorem shaped_writePool {s : State} (x : Session) (page : Nat) (e : Word) (first : Nat) (coded : List Byte)
    (h : Shaped s) : Shaped (writePool s x page e first coded) := by
  unfold writePool
  apply_rules [shaped_askLender]

theorem shaped_readPool {s : State} (x : Session) (p : Page) (h : Shaped s) : Shaped (readPool s x p) := by
  unfold readPool
  split <;> apply_rules [shaped_askLender]

theorem shaped_of_placeInPool {s t : State} {x : Session} {pages : List (Page × List Byte)}
    {planned : Option (List Nat)} {placed : List Page} (ht : placeInPool s x pages planned = some (t, placed))
    (h : Shaped s) : Shaped t := by
  unfold placeInPool at ht
  split at ht <;> cases ht
  exact shaped_foldl h fun s n h => shaped_writePool _ _ _ _ _ h

theorem shaped_of_placeInFoothill {s t : State} {pages : List (Page × List Byte)} {placed : List Page}
    (ht : placeInFoothill s pages = some (t, placed)) (h : Shaped s) : Shaped t := by
  unfold placeInFoothill at ht
  split at ht <;> cases ht
  exact h

theorem shaped_setPage {s : State} (slot : Nat) (p : Page) (h : Shaped s) : Shaped (setPage s slot p) := by
  unfold setPage
  apply_rules [shaped_onSession]

theorem shaped_startCopy {s : State} (x : Session) (p : Page) (t : PageTarget) (h : Shaped s) :
    Shaped (startCopy s x p t) := by
  unfold startCopy
  split <;> apply_rules [shaped_setPage, shaped_writePool]

theorem shaped_of_switchPage {s t : State} {x : Session} {p : Page} {g : PageTarget}
    (ht : switchPage s x p g = some t) (h : Shaped s) : Shaped t := by
  unfold switchPage at ht
  split at ht
  · cases ht
  split at ht <;> cases ht
  · exact shaped_freeGranules _ _ (shaped_setPage _ _ h)
  · exact shaped_setPage _ _ h
  · exact shaped_setPage _ _ h

theorem shaped_switchPage_getD {s t : State} (x : Session) (p : Page) (g : PageTarget) (ht : Shaped t) (h : Shaped s) :
    Shaped ((switchPage s x p g).getD t) := by
  cases hp : switchPage s x p g with
  | none => exact ht
  | some u => exact shaped_of_switchPage hp h

theorem shaped_demoteNow {s : State} (x : Session) (h : Shaped s) : Shaped (demoteNow s x) := by
  unfold demoteNow
  split
  · exact h
  · exact shaped_foldl h fun s a h =>
      shaped_switchPage_getD _ _ _ (shaped_startCopy _ _ _ h) (shaped_startCopy _ _ _ h)

theorem shaped_demoteFor {s : State} (g : Nat) (h : Shaped s) : Shaped (demoteFor s g) := by
  unfold demoteFor
  with_reducible repeat' first
    | assumption
    | intro _
    | apply shaped_demoteNow
    | apply shaped_foldl
    | apply shaped_ite

theorem shaped_stopPage {s : State} (slot : Nat) (p : Page) (h : Shaped s) : Shaped (stopPage s slot p) := by
  unfold stopPage
  split
  · exact shaped_ite (shaped_onTie _ (shaped_setPage _ _ h)) (shaped_switchPage_getD _ _ _ (shaped_setPage _ _ h) h)
  · exact h

theorem shaped_stopMigration {s : State} (slot : Nat) (h : Shaped s) : Shaped (stopMigration s slot) := by
  unfold stopMigration
  with_reducible repeat' first
    | assumption
    | intro _
    | apply shaped_stopPage
    | apply shaped_foldl
    | split

theorem shaped_beginOn {s : State} (x : Session) (h : Shaped s) : Shaped (beginOn s x).1 := by
  unfold beginOn
  apply_rules [shaped_stopMigration]

theorem shaped_of_placePool {s t : State} {x : Session} {pages : List (Page × List Byte)}
    {planned : Option (List Nat)} {placed : List Page} (ht : placePool s x pages planned = some (t, placed))
    (h : Shaped s) : Shaped t := by
  unfold placePool at ht
  split at ht
  · cases ht
  split at ht
  · cases ht
  · rename_i s' a hp
    obtain ⟨⟨u, b⟩, hb, heq⟩ := Option.map_eq_some_iff.mp ht
    cases heq
    exact shaped_of_placeInFoothill hb (shaped_of_placeInPool hp h)

theorem shaped_of_placeHome {s t : State} {pages : List (Page × List Byte)} {placed : List Page}
    (ht : placeHome s pages = some (t, placed)) (h : Shaped s) : Shaped t := by
  unfold placeHome at ht
  split at ht
  · cases ht
    exact shaped_of_placeInFoothill ‹_› h
  · exact shaped_of_placeInFoothill ht (shaped_demoteFor _ h)

theorem shaped_of_placeParked {s t : State} {x : Session} {target : Nat} {pages : List (Page × List Byte)}
    {placed : List Page} (ht : placeParked s x target pages = some (t, placed)) (h : Shaped s) : Shaped t := by
  unfold placeParked at ht
  dsimp only at ht
  split at ht
  · exact shaped_of_placeHome ht h
  · exact shaped_of_placePool ht h
  split at ht
  · exact shaped_of_placePool ht h
  · exact shaped_of_placeHome ht h
  split at ht
  · exact shaped_of_placeInFoothill ht h
  split at ht
  · cases ht
    exact shaped_of_placePool ‹_› h
  · exact shaped_of_placeHome ht h

theorem shaped_freeFrames {s : State} (pages : List Page) (h : Shaped s) : Shaped (freeFrames s pages) := by
  unfold freeFrames
  with_reducible repeat' first
    | assumption
    | intro _
    | apply shaped_freeFrame
    | apply shaped_foldl
    | split

theorem shaped_countCoded {s : State} (x : Session) (pages : List (Page × List Byte)) (h : Shaped s) :
    Shaped (countCoded s x pages) := by
  unfold countCoded
  apply_rules [shaped_onTie]

theorem shaped_sendCoded {s : State} (x : Session) (pages : List Page) (h : Shaped s) :
    Shaped (sendCoded s x pages) := by
  refine shaped_foldl h fun s p h => ?_
  split <;> apply_rules [shaped_sendBuddy, shaped_ite]

theorem shaped_of_placePark {s t : State} {x : Session} {target : Nat} {noNarrow : Bool} {placed : List Page} {g : Nat}
    (ht : placePark s x target noNarrow = some (t, placed, g)) (h : Shaped s) : Shaped t := by
  obtain ⟨⟨u, b⟩, hb, heq⟩ := Option.map_eq_some_iff.mp ht
  cases heq
  exact shaped_countCoded _ _ (shaped_of_placeParked hb h)

theorem shaped_commitPark {s : State} (slot : Nat) (placed : List Page) (h : Shaped s) :
    Shaped (commitPark s slot placed) := by
  unfold commitPark
  split <;> apply_rules [shaped_freeFrames, shaped_sendSlotEntry, shaped_onSession]

theorem shaped_of_parkSession {s t : State} {slot target : Nat} {noNarrow : Bool} {g : Nat}
    (ht : parkSession s slot target noNarrow = some (t, g)) (h : Shaped s) : Shaped t := by
  obtain ⟨x, -, hx⟩ := Option.bind_eq_some_iff.mp ht
  obtain ⟨⟨u, placed, k⟩, hp, heq⟩ := Option.map_eq_some_iff.mp hx
  cases heq
  have hu := shaped_of_placePark hp h
  exact shaped_commitPark _ _ (shaped_ite (shaped_sendCoded _ _ hu) hu)

theorem shaped_tellShares {s : State} (x : Session) (act : ShareAct) (h : Shaped s) : Shaped (tellShares s x act) := by
  unfold tellShares
  with_reducible repeat' first
    | assumption
    | intro _
    | apply shaped_sendRequest
    | apply shaped_foldl

theorem shaped_freeDeadOf {s : State} (x : Session) (h : Shaped s) : Shaped (freeDeadOf s x) := by
  unfold freeDeadOf
  apply_rules [shaped_freeFrames, shaped_onSession, shaped_ite]

theorem shaped_freeDead {s : State} (h : Shaped s) : Shaped (freeDead s) := by
  unfold freeDead
  with_reducible repeat' first
    | assumption
    | intro _
    | apply shaped_freeDeadOf
    | apply shaped_tellShares
    | apply shaped_foldl
    | apply shaped_ite

theorem shaped_of_autoPark {s t : State} {slot : Nat} (ht : autoPark s slot = some t) (h : Shaped s) : Shaped t := by
  obtain ⟨x, -, hx⟩ := Option.bind_eq_some_iff.mp ht
  obtain ⟨⟨u, g⟩, hp, rfl⟩ := Option.map_eq_some_iff.mp hx
  exact shaped_tellShares _ _ (shaped_of_parkSession hp h)

theorem shaped_autoParkUntil (enough : State → Bool) {s : State} (l : List Nat) (h : Shaped s) :
    Shaped (autoParkUntil enough s l) := by
  induction l generalizing s with
  | nil => exact h
  | cons c l ih =>
    unfold autoParkUntil
    split
    · exact h
    split
    · exact ih (shaped_of_autoPark ‹_› h)
    · exact ih h

theorem shaped_makeRoom {s : State} (enough : State → Bool) (h : Shaped s) : Shaped (makeRoom s enough) :=
  shaped_ite h (shaped_ite (shaped_freeDead h) (shaped_autoParkUntil _ _ (shaped_freeDead h)))

theorem shaped_awaitClears {s t : State} (hs : Shaped s) (ht : Shaped t) : Shaped (awaitClears s t) :=
  shaped_ite ht (shaped_makeRoom _ hs)

theorem answersShaped_afterClears {s : State} {a : Answer} (hs : Shaped s) (ha : AnswersShaped a) :
    AnswersShaped (afterClears s a) := by
  obtain ⟨ht⟩ := ha
  exact .next (shaped_awaitClears hs ht)

theorem shaped_allotPages {s : State} (slot : Nat) (pages : List Nat) (step : Bool) (h : Shaped s) :
    Shaped (allotPages s slot pages step).1 := by
  unfold allotPages
  split
  · exact h
  · rename_i x _
    have hroom := shaped_makeRoom
      (fun t => hearthFits t pages.length false && (placePages t (sessionImage s x) x pages).isSome) h
    dsimp only
    split
    · split
      · exact shaped_of_placePages ‹_› hroom
      · exact hroom
    · exact hroom

theorem shaped_addPages {s : State} (slot : Nat) (got : List (Nat × Nat)) (h : Shaped s) :
    Shaped (addPages s slot got) := by
  unfold addPages
  apply_rules [shaped_onSession]

theorem shaped_freeSessionPages {s : State} (x : Session) (h : Shaped s) : Shaped (freeSessionPages s x) := by
  unfold freeSessionPages
  apply_rules [shaped_freeFrames, shaped_freeGranules]

theorem shaped_putRegion {s : State} {r : Region} (hr : Memory.wf r.mem = true) (h : Shaped s) :
    Shaped (s.putRegion r) :=
  shaped_changesRegions (wf_upsert_region hr) h

theorem shaped_onRegion {s : State} (slot : Nat) {f : Region → Region} (hf : ∀ r, (f r).mem = r.mem) (h : Shaped s) :
    Shaped (s.onRegion slot f) := by
  unfold State.onRegion
  split
  · exact shaped_putRegion ((congrArg Memory.wf (hf _)).trans (region_wf h ‹_›)) h
  · exact h

theorem shaped_writeRegionBytes {s : State} (slot off : Nat) (data : List Byte) (h : Shaped s) :
    Shaped (writeRegionBytes s slot off data) := by
  unfold writeRegionBytes
  split
  · exact h
  rename_i r hr
  have hput := shaped_putRegion (r := { r with mem := memWriteAll r.mem off data })
    (memWriteAll_wf _ _ _ (region_wf h hr)) h
  split
  · exact shaped_writesMemory (memWriteAll_wf _ _ _) h
  · exact shaped_sendRequest _ _ _ _ _ _ _ _ _ hput
  · exact hput

theorem shaped_keepSealed {s : State} (slot page : Nat) (h : Shaped s) : Shaped (keepSealed s slot page) := by
  unfold keepSealed
  with_reducible repeat' first
    | assumption
    | apply shaped_putRegion
    | refine wf_of_region ?_ ‹_› (by rfl)
    | split

theorem shaped_digestPage {s : State} (slot page : Nat) (device : Bool) (h : Shaped s) :
    Shaped (digestPage s slot page device) := by
  unfold digestPage
  with_reducible repeat' first
    | assumption
    | apply shaped_putRegion
    | refine wf_of_region ?_ ‹_› (by rfl)
    | split

theorem shaped_hostWriteRegion {s : State} (slot off : Nat) (data : List Byte) (h : Shaped s) :
    Shaped (hostWriteRegion s slot off data) := by
  unfold hostWriteRegion
  apply_rules [shaped_keepSealed, shaped_writeRegionBytes, shaped_onRegion]

theorem shaped_beforeEmberWrite {s : State} (frames : List Nat) (h : Shaped s) :
    Shaped (beforeEmberWrite s frames) := by
  unfold beforeEmberWrite
  with_reducible repeat' first
    | assumption
    | intro _
    | apply shaped_keepSealed
    | apply shaped_foldl
    | split

theorem shaped_afterEmberWrite {s : State} (frames : List Nat) (h : Shaped s) : Shaped (afterEmberWrite s frames) := by
  unfold afterEmberWrite
  with_reducible repeat' first
    | assumption
    | intro _
    | apply shaped_digestPage
    | apply shaped_onRegion
    | apply shaped_foldl
    | split
    | dsimp only

theorem shaped_snoopRegion {s : State} (region : Word) (off bytes : Nat) (h : Shaped s) :
    Shaped (snoopRegion s region off bytes) :=
  shaped_foldl h fun _ _ h => shaped_ite (shaped_emit _ h) h

theorem shaped_dropLine {s : State} (region : Word) (line : Nat) (h : Shaped s) : Shaped (dropLine s region line) := by
  unfold dropLine
  apply_rules [shaped_snoopRegion, shaped_onRdg]

theorem shaped_dropSealed {s : State} (region : Word) (h : Shaped s) : Shaped (dropSealed s region) := by
  unfold dropSealed
  with_reducible repeat' first
    | assumption
    | intro _
    | apply shaped_snoopRegion
    | apply shaped_onRdg
    | apply shaped_foldl
    | apply rfl

theorem shaped_cacheLine {s : State} (l : CachedLine) (h : Shaped s) : Shaped (cacheLine s l) := by
  unfold cacheLine
  with_reducible repeat' first
    | assumption
    | apply shaped_dropLine
    | apply shaped_onRdg
    | apply shaped_ite
    | apply rfl
    | split

theorem shaped_poisonRead {s : State} (off : Nat) (h : Shaped s) : Shaped (poisonRead s off) := by
  unfold poisonRead
  apply_rules [shaped_emit]

theorem shaped_lineToHost {s : State} (off : Nat) (line : List Byte) (h : Shaped s) :
    Shaped (lineToHost s off line) := by
  unfold lineToHost
  apply_rules [shaped_emit]

theorem markSharer_mem (r : Region) (line part : Nat) : (markSharer r line part).mem = r.mem := by
  unfold markSharer
  split
  · rfl
  · split <;> rfl

theorem makeCoarse_mem (r : Region) : (makeCoarse r).mem = r.mem := by
  unfold makeCoarse
  split <;> rfl

theorem addMapper_mem (r : Region) (part view : Nat) : (addMapper r part view).mem = r.mem := by
  unfold addMapper
  dsimp only
  split
  · exact makeCoarse_mem _
  · rfl

theorem removeMapper_mem (r : Region) (part : Nat) : (removeMapper r part).mem = r.mem := by
  unfold removeMapper
  dsimp only
  split
  · split <;> rfl
  · rfl

theorem shaped_freeRegion {s : State} (slot : Nat) (h : Shaped s) : Shaped (freeRegion s slot) := by
  unfold freeRegion
  split
  · exact h
  rename_i r hr
  have hfreed : Shaped (r.pages.foldl (fun s p => match p with
      | .frame n => freeFrame s n
      | _ => s) s) := shaped_foldl h fun s p h => by
    split
    · exact shaped_freeFrame _ h
    · exact h
  have hgone := shaped_changesRegions (f := fun g => { g with regions := g.regions.filter fun x => x.slot != slot })
    (fun hr x hx => hr x (List.mem_filter.mp hx).1)
    (shaped_freeGranules r.tenant (128 * (r.pages.filter (· == .foothill)).length + r.spareGranules) hfreed)
  exact shaped_ite (shaped_propose _ hgone) hgone

theorem shaped_undoRegionMap {s : State} (o : Origin) (h : Shaped s) : Shaped (undoRegionMap s o) := by
  unfold undoRegionMap
  split <;> apply_rules [shaped_freeRegion, shaped_onRdg]

theorem shaped_cancelWork {s : State} (d : InFlight) (h : Shaped s) : Shaped (cancelWork s d).2 := by
  unfold cancelWork
  split
  · exact shaped_complete _ _ _ (shaped_undoRegionMap _ h)
  split
  · exact shaped_complete _ _ _ (shaped_changesRegions (wf_map_regions fun _ => rfl) h)
  · exact shaped_cancelDescriptor _ h

theorem shaped_endUnmappings {s : State} (slot : Nat) (h : Shaped s) : Shaped (endUnmappings s slot) := by
  unfold endUnmappings
  split
  · exact h
  · rename_i r hr
    have hput := shaped_putRegion
      (r := { r with unmapping := r.unmapping.filter fun u => r.ops.any fun op => op.waiting.contains u.1 })
      (wf_of_region h hr rfl) h
    have htold := shaped_foldl
      (l := r.unmapping.filter fun u => !r.ops.any fun op => op.waiting.contains u.1)
      (f := fun s (_, a) => match a with
        | .part p req => sendResponse s p req .ok (.done 0 []) (regionHandle s r)
        | .descriptor o => complete s o [] 0
        | .host _ => s) hput fun s u h => by
      dsimp only
      split
      · exact shaped_sendResponse _ _ _ _ _ _ h
      · exact shaped_complete _ _ _ h
      · exact h
    dsimp only
    split
    · exact shaped_ite (shaped_freeRegion _ htold) htold
    · exact htold

theorem shaped_finishRead {s : State} (slot : Nat) (a : Asker) (line : Nat) (sealedView poisoned : Bool)
    (h : Shaped s) : Shaped (finishRead s slot a line sealedView poisoned) := by
  unfold finishRead
  split
  · exact h
  · rename_i r hr
    have hmark : ∀ reader, Shaped (if sealedView then s else s.putRegion (markSharer r line reader)) := fun reader =>
      shaped_ite h (shaped_putRegion (wf_of_region h hr (markSharer_mem _ _ _)) h)
    dsimp only
    split
    · exact shaped_ite (shaped_poisonRead _ h)
        (shaped_lineToHost _ _ (shaped_ite (shaped_cacheLine _ (hmark _)) (hmark _)))
    · exact shaped_poisonRead _ h
    · exact shaped_sendResponse _ _ _ _ _ _ (hmark _)
    · exact shaped_sendResponse _ _ _ _ _ _ h
    · exact h

theorem shaped_finishWrite {s : State} (slot : Nat) (a : Asker) (line offset : Nat) (data : List Byte)
    (h : Shaped s) : Shaped (finishWrite s slot a line offset data) := by
  unfold finishWrite
  with_reducible repeat' first
    | assumption
    | apply shaped_hostWriteRegion
    | apply shaped_putRegion
    | apply shaped_sendResponse
    | apply shaped_emit
    | refine wf_of_region ?_ ‹_› (by rfl)
    | split

theorem shaped_finishSeal {s : State} (slot : Nat) (a : Asker) (h : Shaped s) : Shaped (finishSeal s slot a) := by
  unfold finishSeal
  with_reducible repeat' first
    | assumption
    | intro _
    | apply shaped_digestPage
    | apply shaped_onRegion
    | apply shaped_complete
    | apply shaped_foldl
    | split
    | dsimp only

theorem shaped_removeOp {s : State} (slot i : Nat) (h : Shaped s) : Shaped (removeOp s slot i) := by
  unfold removeOp
  apply_rules [shaped_onRegion]

theorem shaped_awaitOp {s : State} (slot i : Nat) (parts : List Nat) (h : Shaped s) :
    Shaped (awaitOp s slot i parts) := by
  unfold awaitOp
  apply_rules [shaped_onRegion]

theorem shaped_runOp {s : State} (slot i : Nat) (op : LineOp) (h : Shaped s) : Shaped (runOp s slot i op) := by
  unfold runOp
  with_reducible repeat' first
    | assumption
    | intro _
    | apply shaped_awaitOp
    | apply shaped_removeOp
    | apply shaped_finishSeal
    | apply shaped_finishWrite
    | apply shaped_finishRead
    | apply shaped_dropSealed
    | apply shaped_dropLine
    | apply shaped_complete
    | apply shaped_sendFrame
    | apply shaped_foldl
    | split

theorem shaped_pump (n : Nat) {s : State} (slot : Nat) (h : Shaped s) : Shaped (pump n s slot) := by
  induction n generalizing s with
  | zero => exact shaped_endUnmappings _ h
  | succ n ih =>
    unfold pump
    split
    · exact h
    split
    · exact shaped_endUnmappings _ h
    · exact ih (shaped_runOp _ _ _ h)

theorem shaped_pumpRegion {s : State} (slot : Nat) (h : Shaped s) : Shaped (pumpRegion s slot) := by
  unfold pumpRegion
  split
  · exact shaped_pump _ _ h
  · exact h

theorem shaped_pushOp {s : State} (slot : Nat) (a : Asker) (act : LineAction) (h : Shaped s) :
    Shaped (pushOp s slot a act) := by
  unfold pushOp
  apply_rules [shaped_pumpRegion, shaped_onRegion]

theorem shaped_acknowledgeLine {s : State} (slot part : Nat) (line : Option Nat) (h : Shaped s) :
    Shaped (acknowledgeLine s slot part line) := by
  unfold acknowledgeLine
  apply_rules [shaped_pumpRegion, shaped_onRegion]

theorem shaped_dropMapperPart {s : State} (part : Nat) (h : Shaped s) : Shaped (dropMapperPart s part) :=
  shaped_foldl h fun _ _ h => shaped_pumpRegion _ (shaped_onRegion _ (fun r => removeMapper_mem r part) h)

theorem shaped_onCell {s : State} (slot node : Nat) (f : IndexCell → IndexCell) (h : Shaped s) :
    Shaped (onCell s slot node f) := by
  unfold onCell
  split <;> apply_rules [shaped_putIndex]

theorem shaped_evictCells (n : Nat) {s : State} (keep : List (Nat × Nat)) (h : Shaped s) :
    Shaped (evictCells n s keep) := by
  induction n generalizing s with
  | zero => exact h
  | succ n ih =>
    unfold evictCells
    split
    · exact h
    split
    · exact h
    · exact ih (shaped_onCell _ _ _ h)

theorem shaped_probeCell {s : State} (slot node : Nat) (h : Shaped s) : Shaped (probeCell s slot node) := by
  unfold probeCell
  split
  · exact h
  · exact shaped_evictCells _ _ (shaped_onCell _ _ _ (shaped_onSrch _ h))

theorem shaped_markQueries {s : State} (slot k : Nat) (h : Shaped s) : Shaped (markQueries s slot k) := by
  unfold markQueries
  apply_rules [shaped_onSrch]

theorem shaped_of_insertRecord {s t : State} {slot : Nat} {r : Posting} {update : Bool}
    (ht : insertRecord s slot r = some (t, update)) (h : Shaped s) : Shaped t := by
  unfold insertRecord at ht
  split at ht
  · cases ht
  · have hs := shaped_ite (c := ‹Index›.hasKey r.key = true) (shaped_markQueries slot r.key h) h
    dsimp only at ht
    split at ht
    · cases ht
    · rw [Option.ite_none_right_eq_some] at ht
      obtain ⟨-, ht⟩ := ht
      cases ht
      exact shaped_putIndex _ hs

theorem shaped_poisonBlock {s : State} (x : Index) (cell block : Nat) (h : Shaped s) :
    Shaped (poisonBlock s x cell block) := by
  unfold poisonBlock
  apply_rules [shaped_logEvent, shaped_onSrch, shaped_ite]

theorem shaped_writeContents {s : State} (x : Session) (w : PageWrites) (pages : List Nat) (h : Shaped s) :
    Shaped (writeContents s x w pages) := by
  unfold writeContents
  refine shaped_foldl h fun s p h => ?_
  split
  · exact shaped_ite (shaped_writeFrame _ _ h) h
  · exact h

theorem shaped_writePages {s : State} (slot : Nat) (w : PageWrites) (h : Shaped s) : Shaped (writePages s slot w) := by
  unfold writePages
  split <;> apply_rules [shaped_writeContents, shaped_onSession]

end Sys2Proof.Machine
end

section
/-!
SUPPORT. That each step keeps the shape of the state, function by function in the order of the model: 
sessions, batches and the close of a step.
-/

namespace Sys2Proof.Machine

theorem shaped_beginReads {s : State} (slot n : Nat) (h : Shaped s) : Shaped (beginReads s slot n) := by
  unfold beginReads
  apply_rules [shaped_onSession]

theorem shaped_commitKv {s : State} (slot n : Nat) (dead : Nat) (h : Shaped s) : Shaped (commitKv s slot n dead) := by
  unfold commitKv
  split <;> apply_rules [shaped_writePages, shaped_onSession]

theorem shaped_sendPageCopies {s : State} (slot : Nat) (h : Shaped s) : Shaped (sendPageCopies s slot) := by
  unfold sendPageCopies
  with_reducible repeat' first
    | assumption
    | intro _
    | apply shaped_sendBuddy
    | apply shaped_foldl
    | split

theorem shaped_sendFresh {s : State} (slot : Nat) (all : Bool) (h : Shaped s) : Shaped (sendFresh s slot all) := by
  unfold sendFresh
  with_reducible repeat' first
    | assumption
    | intro _
    | apply shaped_sendRecordCopy
    | apply shaped_sendBuddy
    | apply shaped_foldl
    | split
    | dsimp only

theorem shaped_countCorrected {s : State} (e n : Nat) (h : Shaped s) : Shaped (countCorrected s e n) := by
  unfold countCorrected
  apply_rules [shaped_onHrt, shaped_ite]

theorem shaped_countUncorrectable {s : State} (e : Nat) (h : Shaped s) : Shaped (countUncorrectable s e) := by
  unfold countUncorrectable
  apply_rules [shaped_onHrt]

theorem shaped_pageFails {s : State} (x : Session) (p : Page) (h : Shaped s) : Shaped (pageFails s x p) := by
  unfold pageFails
  apply_rules [shaped_freeFrames, shaped_setPage]

theorem shaped_grateReads {s : State} (x : Session) (errs : List ReadError) (h : Shaped s) :
    Shaped (grateReads s x errs) := by
  unfold grateReads
  with_reducible repeat' first
    | assumption
    | intro _
    | apply shaped_pageFails
    | apply shaped_countUncorrectable
    | apply shaped_countCorrected
    | apply shaped_foldl
    | split

theorem shaped_mendPages {s : State} (slot : Nat) (twin : List TwinCopy) (h : Shaped s) :
    Shaped (mendPages s slot twin) := by
  unfold mendPages
  with_reducible repeat' first
    | assumption
    | intro _
    | apply shaped_setPage
    | apply shaped_writeFrame
    | apply shaped_sessionEvent
    | apply shaped_onTie
    | apply shaped_foldl
    | apply shaped_ite
    | refine shaped_of_placePages ‹_› ?_
    | split

theorem shaped_dropKv {s : State} (slot : Nat) (h : Shaped s) : Shaped (dropKv s slot) := by
  unfold dropKv
  split <;> apply_rules [shaped_freeSessionPages, shaped_onSession]

theorem shaped_of_rebuildOnce {s t : State} {slot : Nat} {why : Status} (ht : rebuildOnce s slot why = some t)
    (h : Shaped s) : Shaped t := by
  unfold rebuildOnce at ht
  split at ht
  · cases ht
  · obtain ⟨-, ht⟩ := Option.ite_none_left_eq_some.mp ht
    obtain ⟨⟨u, got⟩, hu, rfl⟩ := Option.map_eq_some_iff.mp ht
    have hplaced := shaped_of_placePages hu (shaped_onSession _ _ (shaped_dropKv _ h))
    dsimp only
    split <;> apply_rules [shaped_sessionEvent, shaped_sendFresh, shaped_tellShares, shaped_onDgn,
      shaped_sendSlotEntry, shaped_writePages, shaped_onSession]

theorem shaped_of_rebuildKv_ok {s t : State} {slot : Nat} {why : Status} (ht : rebuildKv s slot why = .ok t)
    (h : Shaped s) : Shaped t := by
  unfold rebuildKv at ht
  dsimp only at ht
  split at ht <;> cases ht
  exact shaped_of_rebuildOnce ‹_› (shaped_makeRoom _ h)

theorem shaped_of_rebuildKv_error {s t : State} {slot : Nat} {why : Status} (ht : rebuildKv s slot why = .error t)
    (h : Shaped s) : Shaped t := by
  unfold rebuildKv at ht
  dsimp only at ht
  split at ht <;> cases ht
  exact shaped_makeRoom _ h

theorem shaped_giveUpKv {s : State} (slot : Nat) (why : Status) (h : Shaped s) : Shaped (giveUpKv s slot why) := by
  unfold giveUpKv
  apply_rules [shaped_dropKv, shaped_onSession]

theorem recoveryShaped_recoverLoss {s : State} (x : Session) (why : Status) (micros : Nat) (deadline : Option Nat)
    (h : Shaped s) : RecoveryShaped (recoverLoss s x why micros deadline) := by
  unfold recoverLoss
  split
  · exact shaped_giveUpKv _ _ h
  · split
    · exact shaped_of_rebuildKv_error ‹_› h
    · split <;> exact shaped_of_rebuildKv_ok ‹_› h

theorem recoveryShaped_recover {s : State} (x : Session) (how : Recovery) (deadline : Option Nat) (h : Shaped s) :
    RecoveryShaped (recover s x how deadline) := by
  have hm := shaped_mendPages x.slot how.twin (shaped_grateReads x how.errs h)
  unfold recover
  dsimp only
  split
  · exact hm
  · exact recoveryShaped_recoverLoss _ _ _ _ hm

theorem shaped_onBatch {s : State} (id : Nat) (f : Batch → Batch) (h : Shaped s) : Shaped (State.onBatch s id f) := by
  unfold State.onBatch
  apply_rules [shaped_onSess]

theorem shaped_onImage {s : State} (slot : Nat) (f : Image → Image) (h : Shaped s) :
    Shaped (State.onImage s slot f) := by
  unfold State.onImage
  apply_rules [shaped_onImg]

theorem shaped_onVariant {s : State} (image n : Nat) (f : Variant → Variant) (h : Shaped s) :
    Shaped (onVariant s image n f) := by
  unfold onVariant
  apply_rules [shaped_onImage]

theorem shaped_of_makeResident {s t : State} {image n : Nat} (ht : makeResident s image n = some t) (h : Shaped s) :
    Shaped t := by
  unfold makeResident at ht
  split at ht
  · cases ht
    exact h
  · dsimp only at ht
    split at ht
    · cases ht
      exact shaped_onVariant _ _ _ h
    · split at ht
      · cases ht
        exact shaped_onVariant _ _ _ h
      · split at ht
        · cases ht
        · cases ht
          exact shaped_onVariant _ _ _ (shaped_onVariant _ _ _ h)

theorem shaped_takeColumns {s : State} (id slot n : Nat) (h : Shaped s) : Shaped (takeColumns s id slot n) := by
  unfold takeColumns
  apply_rules [shaped_onBatch, shaped_onSession]

theorem shaped_admitColumns {s : State} (id : Nat) (h : Shaped s) : Shaped (admitColumns s id) := by
  unfold admitColumns
  with_reducible repeat' first
    | assumption
    | intro _
    | apply shaped_takeColumns
    | apply shaped_foldl
    | apply shaped_ite
    | refine shaped_of_makeResident ‹_› ?_
    | split

theorem shaped_planSession {s : State} (slot free : Nat) (h : Shaped s) : Shaped (planSession s slot free).1 := by
  unfold planSession
  with_reducible repeat' first
    | assumption
    | apply shaped_queueItem
    | apply shaped_onSession
    | split
    | dsimp only

theorem shaped_planDrafts {s : State} (id : Nat) (h : Shaped s) : Shaped (planDrafts s id) := by
  unfold planDrafts
  split
  · exact h
  · refine List.foldlRecOn (motive := fun a : State × Nat => Shaped a.1) _ _ h fun a ha x _ => ?_
    exact shaped_onBatch _ _ (shaped_planSession _ _ ha)

theorem shaped_endSkips {s : State} (image : Nat) (h : Shaped s) : Shaped (endSkips s image) := by
  unfold endSkips
  apply_rules [shaped_onSess]

theorem shaped_dropEnded {s : State} (id : Nat) (h : Shaped s) : Shaped (dropEnded s id) := by
  unfold dropEnded
  with_reducible repeat' first
    | assumption
    | intro _
    | apply shaped_onBatch
    | apply shaped_onSession
    | apply shaped_putSession
    | apply shaped_foldl
    | apply shaped_ite
    | split

theorem shaped_sendActivation {s : State} (i : Image) (b : Batch) (h : Shaped s) : Shaped (sendActivation s i b) := by
  unfold sendActivation
  split <;> apply_rules [shaped_sendFrame]

theorem shaped_launchStep {s : State} (id : Nat) (h : Shaped s) : Shaped (launchStep s id) := by
  unfold launchStep
  with_reducible repeat' first
    | assumption
    | intro _
    | apply shaped_sendActivation
    | apply shaped_onBatch
    | apply shaped_beginReads
    | apply shaped_foldl
    | split

theorem shaped_goStep {s : State} (id : Nat) (h : Shaped s) : Shaped (goStep s id) := by
  unfold goStep
  with_reducible repeat' first
    | assumption
    | intro _
    | apply shaped_launchStep
    | apply shaped_onBatch
    | apply shaped_queueItems
    | apply shaped_kindleMask
    | apply shaped_foldl
    | split

theorem shaped_beginStep {s : State} (id : Nat) (left : List Session) (h : Shaped s) :
    Shaped (beginStep s id left) := by
  unfold beginStep
  apply_rules [shaped_goStep, shaped_onBatch, shaped_ite]

theorem shaped_resumeSteps {s : State} (h : Shaped s) : Shaped (resumeSteps s) := by
  unfold resumeSteps
  with_reducible repeat' first
    | assumption
    | apply shaped_goStep
    | apply shaped_foldl

theorem shaped_openBatches (n : Nat) {s : State} (image : Nat) (h : Shaped s) : Shaped (openBatches n s image) := by
  induction n generalizing s with
  | zero => exact h
  | succ n ih =>
    unfold openBatches
    dsimp only
    split
    · have hopen := fun (id : Nat) => shaped_admitColumns id (shaped_onSess
        (f := fun t => { t with batches := t.batches ++ [{ id := id, image := image }] }) rfl rfl h)
      split
      · split
        · exact h
        · exact ih (shaped_beginStep _ _ (shaped_planDrafts _ (hopen _)))
      · exact h
    · exact h

theorem shaped_closeEmpty {s : State} (h : Shaped s) : Shaped (closeEmpty s) := by
  unfold closeEmpty
  apply_rules [shaped_onSess]

theorem shaped_tokenBoundary {s : State} (id : Nat) (before : List Nat) (h : Shaped s) :
    Shaped (tokenBoundary s id before) := by
  unfold tokenBoundary
  with_reducible repeat' first
    | assumption
    | apply shaped_closeEmpty
    | apply shaped_beginStep
    | apply shaped_dropEnded
    | apply shaped_endSkips
    | apply shaped_planDrafts
    | apply shaped_admitColumns
    | apply shaped_onBatch
    | apply shaped_openBatches
    | split

theorem shaped_readmit {s : State} (h : Shaped s) : Shaped (readmit s) :=
  shaped_foldl h fun _ _ h => shaped_openBatches _ _ h

theorem shaped_onLent {s : State} (h : Word) (f : Lent → Lent) (hs : Shaped s) : Shaped (State.onLent s h f) := by
  unfold State.onLent
  apply_rules [shaped_onRdg]

theorem shaped_useLend {s : State} (tier index lends : Nat) (h : Shaped s) : Shaped (useLend s tier index lends) := by
  unfold useLend
  apply_rules [shaped_onRdg]

theorem shaped_clearLent {s : State} (h : Word) (hs : Shaped s) : Shaped (clearLent s h) := by
  unfold clearLent
  apply_rules [shaped_onLent, shaped_onTie]

theorem shaped_returnLent {s : State} (h : Word) (hs : Shaped s) : Shaped (returnLent s h) := by
  unfold returnLent
  with_reducible repeat' first
    | assumption
    | intro _
    | apply shaped_complete
    | apply shaped_onRdg
    | apply shaped_foldl
    | apply rfl
    | split

theorem shaped_extentCleared {s : State} (h : Word) (hs : Shaped s) : Shaped (extentCleared s h) := by
  unfold extentCleared
  split <;> apply_rules [shaped_returnLent, shaped_useLend, shaped_onLent, shaped_propose, shaped_ite]

theorem shaped_dropTargets {s : State} (h : Word) (hs : Shaped s) : Shaped (dropTargets s h) := by
  unfold dropTargets
  apply_rules [shaped_onTie, shaped_onSess]

theorem shaped_loseExtent {s : State} (e : Word) (why : Status) (h : Shaped s) : Shaped (loseExtent s e why) := by
  unfold loseExtent
  exact shaped_changesRegions (wf_map_regions fun _ => rfl) (shaped_onSess rfl rfl (shaped_dropTargets _ h))

theorem shaped_relocateRegions {s : State} (e : Word) (h : Shaped s) : Shaped (relocateRegions s e) := by
  refine shaped_foldl h fun s r h => shaped_ite h (shaped_ite (shaped_onRegion _ (fun _ => rfl) h) ?_)
  split
  · exact h
  · exact shaped_onRegion _ (fun _ => rfl) (shaped_foldl h fun _ _ h => shaped_sendFrame _ _ _ _ _ _ _ _ _ _ h)

theorem shaped_relocatePage (h : Word) {s : State} (x : Session) (p : Page) (hs : Shaped s) :
    Shaped (relocatePage h s x p) := by
  unfold relocatePage
  repeat' split
  all_goals apply_rules [shaped_startCopy]

theorem shaped_relocatePages {s : State} (h : Word) (hs : Shaped s) : Shaped (relocatePages s h) := by
  unfold relocatePages
  with_reducible repeat' first
    | assumption
    | intro _
    | apply shaped_relocatePage
    | apply shaped_foldl

theorem shaped_relocateAgain {s : State} (h : Shaped s) : Shaped (relocateAgain s) := by
  unfold relocateAgain
  with_reducible repeat' first
    | assumption
    | intro _
    | apply shaped_relocatePages
    | apply shaped_foldl

theorem shaped_claimExtent {s : State} (extent : Word) (h : Shaped s) : Shaped (claimExtent s extent) := by
  unfold claimExtent
  apply_rules [shaped_sendRequest, shaped_onRdg]

theorem shaped_finishLend {s : State} (o : Origin) (h : Shaped s) : Shaped (finishLend s o) := by
  unfold finishLend
  split <;> apply_rules [shaped_deliver, shaped_complete, shaped_onRdg, shaped_ite]

theorem shaped_lenderExtent {s : State} (h : Word) (state borrower : Nat) (hs : Shaped s) :
    Shaped (lenderExtent s h state borrower) := by
  unfold lenderExtent
  with_reducible repeat' first
    | assumption
    | intro _
    | apply shaped_finishLend
    | apply shaped_clearLent
    | apply shaped_onLent
    | apply shaped_onDescriptor
    | apply shaped_foldl
    | split

theorem shaped_borrowerExtent {s : State} (h : Word) (state borrower : Nat) (hs : Shaped s) :
    Shaped (borrowerExtent s h state borrower) := by
  unfold borrowerExtent
  repeat' split
  all_goals apply_rules [shaped_relocatePages, shaped_relocateRegions, shaped_loseExtent, shaped_dropTargets,
      shaped_onRdg]

theorem shaped_extentRemoved {s : State} (h : Word) (hs : Shaped s) : Shaped (extentRemoved s h) := by
  unfold extentRemoved
  apply_rules [shaped_loseExtent, shaped_returnLent, shaped_ite]

end Sys2Proof.Machine
end

section
/-!
SUPPORT. That each step keeps the shape of the state, function by function in the order of the model: 
images, work of the stoves, kindling, the index and the banks.
-/

namespace Sys2Proof.Machine

theorem shaped_useGrammar {s : State} (tenant slot : Nat) (bytes : List Byte) (h : Shaped s) :
    Shaped (useGrammar s tenant slot bytes) := by
  unfold useGrammar
  apply_rules [shaped_onKnd]

theorem shaped_dropGrammar {s : State} (slot : Nat) (h : Shaped s) : Shaped (dropGrammar s slot) := by
  unfold dropGrammar
  apply_rules [shaped_onKnd]

theorem shaped_drawKey {s : State} (h : Shaped s) : Shaped (drawKey s).1 := by
  unfold drawKey
  with_reducible repeat' first
    | assumption
    | apply shaped_onFbx

theorem shaped_installSession {s : State} (x : Session) (h : Shaped s) : Shaped (installSession s x) := by
  unfold installSession
  apply_rules [shaped_sendRecordCopy, shaped_sendSlotEntry, shaped_askTwin, shaped_putSession, shaped_onSess,
      shaped_ite]

theorem shaped_recordOpen {s : State} (x : Session) (h : Shaped s) : Shaped (recordOpen s x) := by
  unfold recordOpen
  apply_rules [shaped_recordFlight]

theorem answersShaped_execSessionOpen (o : Origin) (param : List Byte) (slot : Nat) {s : State} (h : Shaped s) :
    AnswersShaped (execSessionOpen o param slot s) := by
  unfold execSessionOpen
  with_reducible repeat' first
    | assumption
    | apply AnswersShaped.next
    | apply shaped_complete
    | apply shaped_recordOpen
    | apply shaped_installSession
    | apply shaped_useGrammar
    | apply shaped_drawKey
    | split

theorem shaped_commitAppend {s : State} (slot : Nat) (p : Prefill) (h : Shaped s) :
    Shaped (commitAppend s slot p) := by
  unfold commitAppend
  with_reducible repeat' first
    | assumption
    | intro _
    | apply shaped_sendPageCopies
    | apply shaped_commitKv
    | apply shaped_sendRecordCopy
    | apply shaped_recordFlight
    | apply shaped_putSession
    | apply shaped_countTenant
    | apply shaped_foldl
    | split

theorem shaped_afterPrefill {s : State} (slot : Nat) (p : Prefill) (h : Shaped s) :
    Shaped (afterPrefill s slot p) := by
  unfold afterPrefill
  repeat' split
  all_goals apply_rules [shaped_endGeneration, shaped_complete, shaped_openBatches]

theorem shaped_failPrefill {s : State} (slot : Nat) (p : Prefill) (st : Status) (h : Shaped s) :
    Shaped (failPrefill s slot p st) := by
  unfold failPrefill
  apply_rules [shaped_endPrefill, shaped_onSession]

theorem shaped_startPrefill {s : State} (slot : Nat) (p : Prefill) (h : Shaped s) :
    Shaped (startPrefill s slot p) := by
  unfold startPrefill
  with_reducible repeat' first
    | assumption
    | apply shaped_failPrefill
    | apply shaped_afterPrefill
    | apply shaped_addPages
    | apply shaped_allotPages
    | apply shaped_queueItems
    | apply shaped_onSession
    | refine shaped_of_pair ?_ ‹_›
    | split
    | dsimp only

theorem answersShaped_execPrefillChunkEnd (slot : Nat) {s : State} (h : Shaped s) :
    AnswersShaped (execPrefillChunkEnd slot s) := by
  unfold execPrefillChunkEnd
  with_reducible repeat' first
    | assumption
    | apply AnswersShaped.next
    | apply shaped_afterPrefill
    | apply shaped_commitAppend
    | apply shaped_sendFrame
    | apply shaped_onSession
    | apply answersShaped_afterClears
    | split

theorem shaped_textDone {s : State} (o : Origin) (h : Shaped s) : Shaped (textDone s o) := by
  unfold textDone
  apply_rules [shaped_onKnd]

theorem answersShaped_execTokenise (o : Origin) (segment trust : Nat) (text : List Byte) {s : State}
    (h : Shaped s) : AnswersShaped (execTokenise o segment trust text s) := by
  unfold execTokenise
  split <;> apply_rules [AnswersShaped.next, shaped_onKnd, answersShaped_ite]

theorem answersShaped_execSessionAppend (w : Start) (param : List Byte) {s : State} (h : Shaped s) :
    AnswersShaped (execSessionAppend w param s) := by
  unfold execSessionAppend
  refine answersShaped_afterClears h ?_
  with_reducible repeat' first
    | assumption
    | apply recoveryShaped_recover
    | apply AnswersShaped.next
    | apply shaped_refuse
    | apply shaped_startPrefill
    | apply shaped_complete
    | apply shaped_markRunning
    | apply shaped_beginOn
    | apply shaped_textDone
    | apply shaped_onSession
    | apply shaped_onDescriptor
    | apply shaped_onKnd
    | refine RecoveryShaped.of_error ?_ ‹_›
    | refine RecoveryShaped.of_ok ?_ ‹_›
    | refine shaped_of_pair ?_ ‹_›
    | split
    | dsimp only

theorem shaped_noteRepair {s : State} (x : Session) (r : PageRead) (h : Shaped s) : Shaped (noteRepair s x r) := by
  unfold noteRepair
  repeat' split
  all_goals apply_rules [shaped_sendBuddy, shaped_sessionEvent, shaped_onTie]

theorem shaped_countTagFailures {s : State} (x : Session) (fails : Bool) (h : Shaped s) :
    Shaped (countTagFailures s x fails) := by
  unfold countTagFailures
  apply_rules [shaped_onTie]

theorem shaped_faultStruck {s : State} (kind : Nat) (h : Shaped s) : Shaped (faultStruck s kind) := by
  unfold faultStruck
  apply_rules [shaped_onDgn]

theorem shaped_suspend {s : State} (slot : Nat) (page : Nat) (h : Shaped s) : Shaped (suspend s slot page) := by
  unfold suspend
  split <;> apply_rules [shaped_sendSlotEntry, shaped_askTwin, shaped_dropColumns, shaped_sessionEvent,
      shaped_putSession, shaped_onTie, shaped_onSess]

theorem shaped_landPages {s : State} (x : Session) (reads : List PageRead) (got : List (Nat × Nat)) (h : Shaped s) :
    Shaped (landPages s x reads got) := by
  unfold landPages
  with_reducible repeat' first
    | assumption
    | intro _
    | apply shaped_sendSlotEntry
    | apply shaped_writeFrame
    | apply shaped_freeGranules
    | apply shaped_onSession
    | apply shaped_foldl
    | split

/-- The state that bringing a session's pages in leaves (R120, R141). -/
def PagePhase.state : PagePhase → State
  | .resident s => s
  | .conflict s _ => s
  | .lost s _ => s
  | .full s => s

theorem shaped_bringIn {s : State} (slot : Nat) (twin : List TwinCopy) (keep : Nat) (h : Shaped s) :
    Shaped (bringIn s slot twin keep).state := by
  unfold bringIn
  split
  · exact h
  · rename_i x _
    have hread : ∀ reads : List PageRead, Shaped (reads.foldl (fun s r => noteRepair s x r)
        (x.pages.foldl (fun s p => readPool s x p) (countTagFailures
          (if pageFaultArmed s && !x.pages.isEmpty then faultStruck s 3 else s) x false))) := fun reads =>
      shaped_foldl (shaped_foldl (shaped_countTagFailures x false (shaped_ite (shaped_faultStruck 3 h) h))
        fun _ _ h => shaped_readPool _ _ h) fun _ _ h => shaped_noteRepair _ _ h
    dsimp only
    split
    · exact hread _
    · exact hread _
    · split
      · exact shaped_of_pair (shaped_allotPages _ _ _ (hread _)) ‹_›
      · exact shaped_landPages _ _ _ (shaped_of_pair (shaped_allotPages _ _ _ (hread _)) ‹_›)

theorem recoveryShaped_makeResidentSession {s : State} (slot : Nat) (how : Recovery) (keep : Nat)
    (deadline : Option Nat) (h : Shaped s) : RecoveryShaped (makeResidentSession s slot how keep deadline) := by
  unfold makeResidentSession
  split
  · exact h
  · rename_i x _
    have hphase := shaped_bringIn slot how.twin keep (shaped_tellShares x (.revive keep) h)
    dsimp only
    split
    all_goals rename_i hp; rw [hp] at hphase
    · exact shaped_suspend _ _ hphase
    · exact shaped_tellShares _ _ hphase
    · exact recoveryShaped_recoverLoss _ _ _ _ hphase
    · split
      · exact shaped_suspend _ _ hphase
      split
      · exact shaped_tellShares _ _ (shaped_tellShares _ _ h)
      split
      · exact recoveryShaped_recoverLoss _ _ _ _ hphase
      · exact hphase

theorem shaped_startGeneration {s : State} (x : Session) (g : Gen) (h : Shaped s) :
    Shaped (startGeneration s x g) := by
  unfold startGeneration
  apply_rules [shaped_startPrefill, shaped_endGeneration, shaped_putSession, shaped_openBatches, shaped_ite]

theorem answersShaped_execSessionGenerate (w : Start) (param : List Byte) {s : State} (h : Shaped s) :
    AnswersShaped (execSessionGenerate w param s) := by
  unfold execSessionGenerate
  refine answersShaped_afterClears h ?_
  split
  · exact .next h
  · exact .next (shaped_refuse _ _ _ h)
  · rename_i d x _
    have hb := shaped_beginOn x h
    generalize beginOn s x = b at hb
    obtain ⟨u, y⟩ := b
    dsimp only at hb ⊢
    have hready : RecoveryShaped
        (if y.state = .parked then makeResidentSession (markRunning u w.origin) y.slot w.how 0 d.deadline
          else recover (markRunning u w.origin) y w.how d.deadline) := by
      split
      · exact recoveryShaped_makeResidentSession _ _ _ _ (shaped_markRunning _ hb)
      · exact recoveryShaped_recover _ _ _ (shaped_markRunning _ hb)
    with_reducible repeat' first
      | assumption
      | apply AnswersShaped.next
      | apply shaped_refuse
      | apply shaped_endGeneration
      | apply shaped_startGeneration
      | apply shaped_onSession
      | apply shaped_onDescriptor
      | exact hready.of_error ‹_›
      | exact hready.of_ok ‹_›
      | split

theorem shaped_finishPark {s : State} (o : Origin) (x : Session) (placed : List Page) (bytes : Nat)
    (conds : List Status) (h : Shaped s) : Shaped (finishPark s o x placed bytes conds) := by
  unfold finishPark
  apply_rules [shaped_commitPark, shaped_sendCoded, shaped_complete, shaped_onDescriptor, shaped_onSession,
      shaped_ite]

theorem shaped_parkAll {s : State} (o : Origin) (x : Session) (d : InFlight) (how : Recovery) (conds : List Status)
    (h : Shaped s) : Shaped (parkAll s o x d how conds) := by
  unfold parkAll
  with_reducible repeat' first
    | assumption
    | apply shaped_finishPark
    | apply shaped_claimExtent
    | apply shaped_tellShares
    | apply shaped_refuse
    | apply shaped_ite
    | refine shaped_of_placePark ‹_› ?_
    | split

theorem answersShaped_execSessionPark (w : Start) {s : State} (h : Shaped s) :
    AnswersShaped (execSessionPark w s) := by
  unfold execSessionPark
  refine answersShaped_afterClears h ?_
  with_reducible repeat' first
    | assumption
    | apply recoveryShaped_recover
    | apply AnswersShaped.next
    | apply shaped_refuse
    | apply shaped_parkAll
    | apply shaped_complete
    | apply shaped_beginOn
    | refine RecoveryShaped.of_error ?_ ‹_›
    | refine RecoveryShaped.of_ok ?_ ‹_›
    | refine shaped_of_pair ?_ ‹_›
    | split

theorem shaped_afterRevive {s : State} (o : Origin) (slot micros : Nat) (conds : List Status) (h : Shaped s) :
    Shaped (afterRevive s o slot micros conds) := by
  unfold afterRevive
  split <;> apply_rules [shaped_startPrefill, shaped_complete, shaped_onDescriptor, shaped_ite]

theorem shaped_rewriteCopies {s : State} (slot : Nat) (keep : Nat) (h : Shaped s) :
    Shaped (rewriteCopies s slot keep) := by
  unfold rewriteCopies
  apply_rules [shaped_sendFresh, shaped_ite]

theorem recoveryShaped_resolveRebuild {s : State} (x : Session) (why : Status) (how : Recovery)
    (deadline : Option Nat) (h : Shaped s) : RecoveryShaped (resolveRebuild s x why how deadline) := by
  have hask := fun r => shaped_askTwin x.cls r x.tenant (sessionHandle s x) h
  unfold resolveRebuild
  dsimp only
  split
  · exact shaped_of_rebuildKv_error ‹_› (hask _)
  · split <;> exact shaped_of_rebuildKv_ok ‹_› (hask _)

theorem answersShaped_execSessionRevive (o : Origin) (twin : List TwinCopy) (phase : Revival) {s : State}
    (h : Shaped s) : AnswersShaped (execSessionRevive o twin phase s) := by
  unfold execSessionRevive
  with_reducible repeat' first
    | assumption
    | apply AnswersShaped.next
    | apply shaped_rewriteCopies
    | apply shaped_afterRevive
    | apply shaped_beginOn
    | apply shaped_refuse
    | apply answersShaped_afterClears
    | apply recoveryShaped_recover
    | apply recoveryShaped_resolveRebuild
    | apply recoveryShaped_makeResidentSession
    | refine RecoveryShaped.of_error ?_ ‹_›
    | refine RecoveryShaped.of_ok ?_ ‹_›
    | refine shaped_of_pair ?_ ‹_›
    | split
    | dsimp only

theorem shaped_sendPages {s : State} (x : Session) (dest req : Nat) (object : Word) (parked : Bool)
    (pages : List Page) (h : Shaped s) : Shaped (sendPages s x dest req object parked pages) := by
  unfold sendPages
  with_reducible repeat' first
    | assumption
    | intro _
    | apply shaped_sendFrame
    | apply shaped_foldl

theorem shaped_sendRound {s : State} (x : Session) (m : Move) (dirtyOnly : Bool) (h : Shaped s) :
    Shaped (sendRound s x m dirtyOnly) := by
  unfold sendRound
  with_reducible repeat' first
    | assumption
    | intro _
    | apply shaped_sendPages
    | apply shaped_sendRequest
    | apply shaped_foldl

theorem shaped_handOver {s : State} (slot : Nat) (x : Session) (m : Move) (h : Shaped s) :
    Shaped (handOver s slot x m) := by
  unfold handOver
  repeat' split
  all_goals apply_rules [shaped_sendRound, shaped_dropGrammar, shaped_freeSessionPages, shaped_tellShares,
      shaped_sendSlotEntry, shaped_dropColumns, shaped_complete, shaped_dropDescriptor, shaped_onDescriptor,
      shaped_sendFrame, shaped_sessionEvent, shaped_putSession, shaped_onRdg]

theorem shaped_startMove {s : State} (o : Origin) (d : InFlight) (x : Session) (h : Word) (group : List Nat)
    (conds : List Status) (hs : Shaped s) : Shaped (startMove s o d x h group conds) := by
  unfold startMove
  apply_rules [shaped_handOver, shaped_sendRound, shaped_markRunning, shaped_onDescriptor, shaped_putSession,
      shaped_onRdg, shaped_ite]

theorem answersShaped_execSessionMove (w : Start) (answer : MoveAnswer) {s : State} (h : Shaped s) :
    AnswersShaped (execSessionMove w answer s) := by
  unfold execSessionMove
  refine answersShaped_afterClears h ?_
  with_reducible repeat' first
    | assumption
    | apply recoveryShaped_recover
    | apply AnswersShaped.next
    | apply shaped_refuse
    | apply shaped_startMove
    | apply shaped_complete
    | apply shaped_beginOn
    | refine RecoveryShaped.of_error ?_ ‹_›
    | refine RecoveryShaped.of_ok ?_ ‹_›
    | refine shaped_of_pair ?_ ‹_›
    | split

theorem answersShaped_execMoveRoundEnd (r : RoundEnd) {s : State} (h : Shaped s) :
    AnswersShaped (execMoveRoundEnd r s) := by
  unfold execMoveRoundEnd
  with_reducible repeat' first
    | assumption
    | apply AnswersShaped.next
    | apply shaped_readmit
    | apply shaped_sendRound
    | apply shaped_putSession
    | split

theorem answersShaped_execMoveHandover (slot : Nat) {s : State} (h : Shaped s) :
    AnswersShaped (execMoveHandover slot s) := by
  unfold execMoveHandover
  repeat' split
  all_goals apply_rules [AnswersShaped.next, shaped_handOver, shaped_readmit, shaped_endMove, shaped_ite]

theorem shaped_copySession {s : State} (o : Origin) (x : Session) (d : InFlight) (slot : Nat) (how : Recovery)
    (conds : List Status) (h : Shaped s) : Shaped (copySession s o x d slot how conds) := by
  have htold := fun act => shaped_tellShares x act h
  have hundone := fun act (f : Nat → Request) k c => shaped_foldl (l := shareParts s x)
    (f := fun s p => (sendRequest s p x.cls (f p) k c).1) (htold act) fun _ _ h => shaped_sendRequest _ _ _ _ _ _ _ _ _ h
  have hkey := fun act => shaped_drawKey (htold act)
  unfold copySession
  dsimp only
  split
  · exact shaped_refuse _ _ _ (hundone _ _ _ _)
  split
  · exact shaped_refuse _ _ _ (hundone _ _ _ _)
  · have hplaced := shaped_of_placeParked ‹_› (hkey _)
    apply shaped_complete
    split <;> apply_rules [shaped_onKnd, shaped_ite, shaped_sendCoded, shaped_installSession]

theorem answersShaped_execSessionSnapshot (w : Start) (slot : Nat) {s : State} (h : Shaped s) :
    AnswersShaped (execSessionSnapshot w slot s) := by
  unfold execSessionSnapshot
  refine answersShaped_afterClears h ?_
  split
  · exact .next h
  · exact .next (shaped_refuse _ _ _ h)
  · rename_i d x _
    have hb := shaped_beginOn x h
    generalize beginOn s x = b at hb
    obtain ⟨u, y⟩ := b
    dsimp only at hb ⊢
    have hready := recoveryShaped_recover y w.how d.deadline hb
    with_reducible repeat' first
      | assumption
      | apply AnswersShaped.next
      | apply shaped_refuse
      | apply shaped_copySession
      | exact hready.of_error ‹_›
      | exact hready.of_ok ‹_›
      | split

theorem shaped_freeSlot {s : State} (slot : Nat) (gen : Nat) (h : Shaped s) : Shaped (freeSlot s slot gen) := by
  unfold freeSlot
  apply_rules [shaped_sendSlotEntry, shaped_onSess, shaped_ite]

theorem shaped_endOthers {s : State} (h : Word) (hs : Shaped s) : Shaped (endOthers s h) := by
  unfold endOthers
  with_reducible repeat' first
    | assumption
    | intro _
    | apply shaped_cancelDescriptor
    | apply shaped_foldl
    | split

theorem shaped_closeSession {s : State} (x : Session) (h : Shaped s) : Shaped (closeSession s x) := by
  unfold closeSession
  with_reducible repeat' first
    | assumption
    | apply shaped_endOthers
    | apply shaped_freeSlot
    | apply shaped_dropGrammar
    | apply shaped_freeSessionPages
    | apply shaped_tellShares
    | split

theorem answersShaped_execSessionClose (o : Origin) {s : State} (h : Shaped s) :
    AnswersShaped (execSessionClose o s) := by
  unfold execSessionClose
  with_reducible repeat' first
    | assumption
    | apply AnswersShaped.next
    | apply shaped_closeSession
    | apply shaped_refuse
    | apply shaped_complete
    | apply shaped_onDescriptor
    | split
    | dsimp only

theorem answersShaped_execStubExpire (slot : Nat) {s : State} (h : Shaped s) :
    AnswersShaped (execStubExpire slot s) := by
  unfold execStubExpire
  split <;> apply_rules [AnswersShaped.next, shaped_freeSlot, shaped_ite]

/-- What a step keeps, a fold of it keeps. -/
theorem foldl_keeps_wf {α : Type} {f : List Host.Cell → α → List Host.Cell}
    (hf : ∀ m a, Memory.wf m = true → Memory.wf (f m a) = true) (l : List α) {m : List Host.Cell}
    (h : Memory.wf m = true) : Memory.wf (l.foldl f m) = true :=
  List.foldlRecOn (motive := fun m => Memory.wf m = true) l f h fun m hm a _ => hf m a hm

theorem shaped_layRows {s : State} (i : Image) (rows : List (List Byte)) (want : Nat → Nat → Bool) (h : Shaped s) :
    Shaped (layRows s i rows want) := by
  refine shaped_writesMemory (foldl_keeps_wf (fun m a hm => ?_) _) h
  dsimp only
  split
  · split
    · exact memWriteAll_wf _ _ _ hm
    · exact hm
  · exact hm

theorem shaped_restoreRow {s : State} (e row : Nat) (h : Shaped s) : Shaped (restoreRow s e row) := by
  unfold restoreRow
  with_reducible repeat' first
    | assumption
    | intro _
    | apply shaped_layRows
    | apply shaped_foldl

theorem shaped_writeTables {s : State} (i : Image) (h : Shaped s) : Shaped (writeTables s i) := by
  unfold writeTables
  with_reducible repeat' first
    | assumption
    | intro _
    | apply shaped_onEmber
    | apply shaped_foldl
    | apply shaped_ite

theorem shaped_spreadBank {s : State} (e slot : Nat) (h : Shaped s) : Shaped (spreadBank s e slot) := by
  unfold spreadBank
  with_reducible repeat' first
    | assumption
    | apply shaped_layRows
    | apply shaped_onImage
    | apply shaped_makeRoom
    | split
    | dsimp only

theorem shaped_fillHalf {s : State} (summit half : Nat) (acts : List Byte) (scales : List (BitVec 32))
    (h : Shaped s) : Shaped (fillHalf s summit half acts scales) := by
  unfold fillHalf
  apply_rules [shaped_onHrt]

theorem shaped_repairRow {s : State} (e row : Nat) (h : Shaped s) : Shaped (repairRow s e row) := by
  unfold repairRow
  apply_rules [shaped_onEmber, shaped_onFwu]

theorem shaped_moveGroup {s : State} (slot k g : Nat) (pages : List Nat) (h : Shaped s) :
    Shaped (moveGroup s slot k g pages) := by
  unfold moveGroup
  split
  · exact h
  · rename_i x _
    have hroom := shaped_makeRoom (fun t => (placeGroup t (sessionImage s x) x k g pages).isSome) h
    dsimp only
    split
    · exact hroom
    · split
      · exact hroom
      · refine shaped_foldl (shaped_of_placeGroup ‹_› hroom) fun s p h => ?_
        split
        · exact shaped_setPage _ _ (shaped_freeFrame _ (shaped_writeFrame _ _ h))
        · exact h

theorem shaped_moveBankPages {s : State} (e : Nat) (h : Shaped s) : Shaped (moveBankPages s e) := by
  unfold moveBankPages
  with_reducible repeat' first
    | assumption
    | intro _
    | apply shaped_moveGroup
    | apply shaped_foldl

theorem shaped_vacateBank {s : State} (e : Nat) (h : Shaped s) : Shaped (vacateBank s e) := by
  unfold vacateBank
  with_reducible repeat' first
    | assumption
    | intro _
    | apply shaped_moveBankPages
    | apply shaped_spreadBank
    | apply shaped_foldl
    | apply shaped_ite

theorem shaped_beginRetire {s : State} (e : Nat) (h : Shaped s) : Shaped (beginRetire s e) := by
  unfold beginRetire
  apply_rules [shaped_vacateBank, shaped_leaveBank, shaped_onEmber, shaped_ite]

theorem shaped_repairOrRetire {s : State} (e row : Nat) (h : Shaped s) : Shaped (repairOrRetire s e row) := by
  unfold repairOrRetire
  apply_rules [shaped_beginRetire, shaped_repairRow, shaped_ite]

theorem shaped_weightFails {s : State} (e row col : Nat) (h : Shaped s) : Shaped (weightFails s e row col) := by
  unfold weightFails
  apply_rules [shaped_repairOrRetire, shaped_restoreRow, shaped_onEmber, shaped_ite]

theorem shaped_uncorrectableRead {s : State} (weights : Bool) (e row col : Nat) (h : Shaped s) :
    Shaped (uncorrectableRead s weights e row col) := by
  unfold uncorrectableRead
  with_reducible repeat' first
    | assumption
    | apply shaped_weightFails
    | apply shaped_beginRetire
    | apply shaped_restoreRow
    | apply shaped_pageFails
    | apply shaped_countUncorrectable
    | apply shaped_ite
    | split

theorem shaped_meetErrors {s : State} (e : Nat) (rows : List Nat) (weights : Bool) (errs : List ReadError)
    (h : Shaped s) : Shaped (meetErrors s e rows weights errs).1 := by
  unfold meetErrors
  repeat' split
  all_goals apply_rules [shaped_faultStruck]

theorem shaped_readRows {s : State} (e : Nat) (rows : List Nat) (weights : Bool) (errs : List ReadError)
    (h : Shaped s) : Shaped (readRows s e rows weights errs).1 := by
  unfold readRows
  with_reducible repeat' first
    | assumption
    | intro _
    | apply shaped_meetErrors
    | apply shaped_uncorrectableRead
    | apply shaped_countCorrected
    | apply shaped_foldl

theorem shaped_skipSlice {s : State} (e : Nat) (tenant : Nat) (why : SkipCause) (h : Shaped s) :
    Shaped (skipSlice s e tenant why) := by
  unfold skipSlice
  split <;> apply_rules [shaped_beginRetire, shaped_onEmber, shaped_isolation, shaped_onDgn, shaped_ite]

theorem shaped_failRequests {s : State} (reqs : List Origin) (h : Shaped s) : Shaped (failRequests s reqs) := by
  unfold failRequests
  with_reducible repeat' first
    | assumption
    | intro _
    | apply shaped_failDescriptor
    | apply shaped_foldl
    | split

theorem shaped_growBudget {s : State} (e cycles : Nat) (h : Shaped s) : Shaped (growBudget s e cycles) := by
  unfold growBudget
  apply_rules [shaped_onEmber]

theorem shaped_spendClear {s : State} (e n each slack : Nat) (h : Shaped s) :
    Shaped (spendClear s e n each slack).1 := by
  unfold spendClear
  with_reducible repeat' first
    | assumption
    | apply shaped_onEmber
    | split

theorem shaped_endRun {s : State} (l : List (Nat × BitVec 128)) (h : Shaped s) : Shaped (endRun s l) := by
  unfold endRun
  with_reducible repeat' first
    | assumption
    | intro _
    | apply shaped_onEmber
    | apply shaped_onHrt
    | apply shaped_foldl
    | apply rfl

theorem shaped_settleRun {s : State} (summit : Nat) (c : BitVec 64) (columnSplit : Bool) (h : Shaped s) :
    Shaped (settleRun s summit c columnSplit) := by
  unfold settleRun
  apply_rules [shaped_onHrt]

theorem shaped_checkSlices {s : State} (op : Nat) (reqs : List Origin) (l : List (Ember × BitVec 128))
    (h : Shaped s) : Shaped (checkSlices s op reqs l).1 := by
  refine List.foldlRecOn (motive := fun a : State × List (Nat × BitVec 128) => Shaped a.1) l _ h fun a ha x _ => ?_
  dsimp only
  split
  · exact shaped_failRequests _ (shaped_skipSlice _ _ _ ha)
  · exact ha

theorem shaped_runCommand {s : State} (summit op : Nat) (c : BitVec 64) (acts : List Byte) (scales : List (BitVec 32))
    (reqs : List Origin) (scaled : Bool) (used : BitVec 128 → List (Nat × Nat)) {body : State → Nat → BitVec 128 → State}
    (hbody : ∀ s e w, Shaped s → Shaped (body s e w)) (h : Shaped s) :
    Shaped (runCommand s summit op c acts scales reqs scaled used body) := by
  unfold runCommand
  split
  · exact h
  · have hrun : ∀ l : List (Nat × BitVec 128), Shaped (l.foldl (fun s (e, w) =>
        growBudget (body (s.onEmber e fun x => x.enter (eTenant w)) e w) e (bankCycles c w))
        (checkSlices (fillHalf s summit (cHalf c) acts scales) op reqs
          (addressed (fillHalf s summit (cHalf c) acts scales) summit c)).1) := fun l =>
      shaped_foldl (shaped_checkSlices op reqs _ (shaped_fillHalf summit (cHalf c) acts scales h))
        fun s a h => shaped_growBudget _ _ (hbody _ _ _ (shaped_onEmber _ _ h))
    exact shaped_settleRun _ _ _ (shaped_ite (shaped_onHrt rfl (hrun _)) (shaped_endRun _ (shaped_onHrt rfl (hrun _))))

theorem shaped_emberStore {s : State} (frames : List Nat) {f : List Host.Cell → List Host.Cell}
    (hf : ∀ m, Memory.wf m = true → Memory.wf (f m) = true) (h : Shaped s) : Shaped (emberStore s frames f) :=
  shaped_afterEmberWrite _ (shaped_writesMemory (hf _) (shaped_beforeEmberWrite _ h))

end Sys2Proof.Machine
end

section
/-!
SUPPORT. That each step keeps the shape of the state, function by function in the order of the model: 
sessions opened, moved and brought back; prefill, generation and masks.
-/

namespace Sys2Proof.Machine

theorem shaped_putImage {s : State} (i : Image) (h : Shaped s) : Shaped (putImage s i) := by
  unfold putImage
  apply_rules [shaped_onImg]

theorem shaped_freeImage {s : State} (slot : Nat) (h : Shaped s) : Shaped (freeImage s slot) := by
  unfold freeImage
  with_reducible repeat' first
    | assumption
    | intro _
    | apply shaped_putImage
    | apply shaped_freeSessionPages
    | apply shaped_freeRows
    | apply shaped_freeGranules
    | apply shaped_onSess
    | apply shaped_foldl
    | apply rfl

theorem shaped_becomeReady {s : State} (slot : Nat) (h : Shaped s) : Shaped (becomeReady s slot) := by
  unfold becomeReady
  with_reducible repeat' first
    | assumption
    | apply shaped_putImage
    | apply shaped_complete
    | split
    | dsimp only

theorem shaped_tellVariant {s : State} (i : Image) (n tenant : Nat) (records : List Byte) (h : Shaped s) :
    Shaped (tellVariant s i n tenant records) := by
  unfold tellVariant
  with_reducible repeat' first
    | assumption
    | intro _
    | apply shaped_sendRequest
    | apply shaped_foldl

theorem shaped_probeCells {s : State} (slot : Nat) (nodes : List Nat) (h : Shaped s) :
    Shaped (probeCells s slot nodes) := by
  unfold probeCells
  with_reducible repeat' first
    | assumption
    | intro _
    | apply shaped_probeCell
    | apply shaped_foldl

theorem shaped_startQuery {s : State} (d : InFlight) (x : Index) (param : List Byte) (h : Shaped s) :
    Shaped (startQuery s d x param).1 := by
  unfold startQuery
  apply_rules [shaped_probeCells]

theorem shaped_widenQuery {s : State} (q : Query) (h : Shaped s) : Shaped (widenQuery s q).1 := by
  unfold widenQuery
  split <;> apply_rules [shaped_probeCells, shaped_ite]

theorem shaped_sampleQuery {s : State} (q : Query) (h : Shaped s) : Shaped (sampleQuery s q) := by
  unfold sampleQuery
  apply_rules [shaped_onSrch, shaped_ite]

theorem shaped_endSample {s : State} (q : Query) (h : Shaped s) : Shaped (endSample s q) := by
  unfold endSample
  apply_rules [shaped_onSrch, shaped_ite]

theorem shaped_endQuery {s : State} (q : Query) (h : Shaped s) : Shaped (endQuery s q) := by
  unfold endQuery
  with_reducible repeat' first
    | assumption
    | apply shaped_endSample
    | apply shaped_sampleQuery
    | apply shaped_deliver
    | apply shaped_indexSettled
    | apply shaped_refuse
    | apply shaped_complete
    | apply shaped_countTenant
    | apply shaped_onSrch
    | split

theorem shaped_settleQuery {s : State} (q : Query) (h : Shaped s) : Shaped (settleQuery s q) := by
  unfold settleQuery
  with_reducible repeat' first
    | assumption
    | apply shaped_endQuery
    | apply shaped_widenQuery
    | apply shaped_onSrch
    | apply shaped_ite

theorem shaped_wholeQuery {s : State} (q : Query) (h : Shaped s) : Shaped (wholeQuery s q) := by
  unfold wholeQuery
  apply_rules [shaped_endQuery, shaped_widenQuery]

theorem shaped_runSamples {s : State} (h : Shaped s) : Shaped (runSamples s) := by
  unfold runSamples
  with_reducible repeat' first
    | assumption
    | intro _
    | apply shaped_endSample
    | apply shaped_onSrch
    | apply shaped_foldl

theorem answersShaped_execSearchQuery (o : Origin) (param : List Byte) (poisoned : List Nat) {s : State}
    (h : Shaped s) : AnswersShaped (execSearchQuery o param poisoned s) := by
  unfold execSearchQuery
  with_reducible repeat' first
    | assumption
    | intro _
    | apply AnswersShaped.next
    | apply shaped_runSamples
    | apply shaped_wholeQuery
    | apply shaped_settleQuery
    | apply shaped_startQuery
    | apply shaped_poisonBlock
    | apply shaped_markRunning
    | apply shaped_refuse
    | apply shaped_foldl
    | apply answersShaped_ite
    | split

theorem answersShaped_execScanTurn (summit : Nat) (span : ScanSpan) {s : State} (h : Shaped s) :
    AnswersShaped (execScanTurn summit span s) := by
  unfold execScanTurn
  refine answersShaped_ite (.next h) (.next (shaped_foldl (shaped_onSrch _ (shaped_foldl (shaped_onHrt rfl h)
    fun s p h => ?_)) fun _ _ h => shaped_settleQuery _ h))
  split
  · exact shaped_poisonBlock _ _ _ h
  · exact h

theorem shaped_of_switchMerge {s t : State} {x : Index} {m : Merged} (ht : switchMerge s x = some (t, m))
    (h : Shaped s) : Shaped t := by
  unfold switchMerge at ht
  dsimp only at ht
  split at ht <;> cases ht
  exact shaped_putIndex _ h

theorem shaped_autoMerge {s : State} (slot : Nat) (h : Shaped s) : Shaped (autoMerge s slot) := by
  unfold autoMerge
  split
  · exact h
  · rename_i x _
    split
    · cases hm : switchMerge s x with
      | none => exact h
      | some r => exact shaped_of_switchMerge hm h
    · exact h

theorem shaped_insertAll (slot : Nat) {s : State} (n u : Nat) (l : List Posting) (h : Shaped s) :
    Shaped (insertAll slot s n u l).1 := by
  induction l generalizing s n u with
  | nil => exact h
  | cons r l ih =>
    unfold insertAll
    split
    · exact h
    · exact ih _ _ (shaped_autoMerge _ (shaped_of_insertRecord ‹_› h))

theorem answersShaped_execIndexInsert (o : Origin) (param : List Byte) {s : State} (h : Shaped s) :
    AnswersShaped (execIndexInsert o param s) := by
  unfold execIndexInsert
  with_reducible repeat' first
    | assumption
    | apply AnswersShaped.next
    | apply shaped_refuse
    | apply shaped_complete
    | apply shaped_insertAll
    | split

theorem shaped_waitOn {s : State} (w : IndexWait) (h : Shaped s) : Shaped (waitOn s w) := by
  unfold waitOn
  apply_rules [shaped_onSrch]

theorem answersShaped_execIndexDelete (o : Origin) (param : List Byte) {s : State} (h : Shaped s) :
    AnswersShaped (execIndexDelete o param s) := by
  unfold execIndexDelete
  with_reducible repeat' first
    | assumption
    | intro _
    | apply AnswersShaped.next
    | apply shaped_waitOn
    | apply shaped_markQueries
    | apply shaped_markRunning
    | apply shaped_putIndex
    | apply shaped_refuse
    | apply shaped_complete
    | apply shaped_foldl
    | apply answersShaped_ite
    | split

theorem answersShaped_execIndexDrop (o : Origin) {s : State} (h : Shaped s) : AnswersShaped (execIndexDrop o s) := by
  unfold execIndexDrop
  with_reducible repeat' first
    | assumption
    | apply AnswersShaped.next
    | apply shaped_waitOn
    | apply shaped_markRunning
    | apply shaped_freeIndex
    | apply shaped_refuse
    | apply shaped_complete
    | split

theorem answersShaped_execIndexCreate (o : Origin) (param : List Byte) (slot : Nat) {s : State} (h : Shaped s) :
    AnswersShaped (execIndexCreate o param slot s) := by
  unfold execIndexCreate
  with_reducible repeat' first
    | assumption
    | apply AnswersShaped.next
    | apply shaped_putIndex
    | apply shaped_refuse
    | apply shaped_complete
    | apply shaped_onFbx
    | apply answersShaped_ite
    | split

theorem answersShaped_execIndexMerge (o : Origin) {s : State} (h : Shaped s) : AnswersShaped (execIndexMerge o s) := by
  unfold execIndexMerge
  with_reducible repeat' first
    | assumption
    | apply AnswersShaped.next
    | apply shaped_refuse
    | apply shaped_complete
    | refine shaped_of_switchMerge ‹_› ?_
    | split

theorem answersShaped_execMergeFreeOld (slot : Nat) {s : State} (h : Shaped s) :
    AnswersShaped (execMergeFreeOld slot s) := by
  unfold execMergeFreeOld
  split <;> apply_rules [AnswersShaped.next, shaped_putIndex, shaped_freeGranules, answersShaped_ite]

theorem answersShaped_execWorkItemEnd (island : Nat) (e : ItemDone) {s : State} (h : Shaped s) :
    AnswersShaped (execWorkItemEnd island e s) := by
  unfold execWorkItemEnd
  split <;> apply_rules [AnswersShaped.next, shaped_takeNext, shaped_onStv, shaped_ite, answersShaped_ite]

theorem answersShaped_execSplitInterval (m : SplitSample) {s : State} (h : Shaped s) :
    AnswersShaped (execSplitInterval m s) := by
  unfold execSplitInterval
  apply_rules [AnswersShaped.next, shaped_onStv, shaped_ite, answersShaped_ite]

theorem shaped_embedOne (i : Image) (index : Option Nat) (d : InFlight) (width : Nat) {r : EmbedRun} (doc : Document)
    (outputs : Option TokenRows) (h : Shaped r.state) :
    Shaped (embedOne i index d width r doc outputs).state := by
  have hk := shaped_onKnd (fun k => { k with
    inReplaced := sat 32 (k.inReplaced + (docTokens r.state i.vocab d.origin r.at'.seen doc).2) }) h
  unfold embedOne
  split
  · exact h
  dsimp only
  split
  · exact hk
  split
  · exact hk
  split
  · dsimp only
    apply shaped_onStv
    exact hk
  · split
    · exact hk
    · dsimp only
      apply shaped_onStv
      exact shaped_autoMerge _ (shaped_of_insertRecord ‹_› hk)

theorem shaped_embedRun {s : State} (d : InFlight) (i : Image) (index : Option Nat) (width : Nat)
    (docs : List Document) (outputs : List (Option TokenRows)) (e : Embedding) (h : Shaped s) :
    Shaped (embedRun s d i index width docs outputs e) := by
  have hrun : Shaped (((docs.drop e.seen).zip outputs).foldl (fun r (doc, o) => embedOne i index d width r doc o)
      ({ state := s, at' := e } : EmbedRun)).state :=
    List.foldlRecOn (motive := fun r : EmbedRun => Shaped r.state) _ _ h fun r hr a _ =>
      shaped_embedOne i index d width a.1 a.2 hr
  unfold embedRun
  dsimp only
  generalize ((docs.drop e.seen).zip outputs).foldl _ _ = r at hrun
  split <;> apply_rules [shaped_indexSettled, shaped_complete, shaped_onDescriptor, shaped_textDone, shaped_deliver,
      shaped_ite]

theorem answersShaped_execEmbedBatch (o : Origin) (param : List Byte) (outputs : List (Option TokenRows))
    {s : State} (h : Shaped s) : AnswersShaped (execEmbedBatch o param outputs s) := by
  unfold execEmbedBatch
  repeat' split
  all_goals apply_rules [AnswersShaped.next, shaped_embedRun, shaped_indexSettled, shaped_refuse, shaped_complete]

theorem shaped_placeImage {s : State} (o : Origin) (img : List Byte) (i : Image) (h : Shaped s) :
    Shaped (placeImage s o img i) := by
  unfold placeImage
  apply_rules [shaped_putImage, shaped_writeTables, shaped_layRows, shaped_markRunning]

theorem answersShaped_execImageLoad (o : Origin) (image : List Byte) (tenants : List Byte) (group : List Nat)
    {s : State} (h : Shaped s) : AnswersShaped (execImageLoad o image tenants group s) := by
  unfold execImageLoad
  with_reducible repeat' first
    | assumption
    | apply AnswersShaped.next
    | apply shaped_placeImage
    | apply shaped_becomeReady
    | apply shaped_makeRoom
    | apply shaped_refuse
    | apply shaped_sendRequest
    | apply answersShaped_ite
    | split

theorem answersShaped_execImageLoadComplete (slot : Nat) {s : State} (h : Shaped s) :
    AnswersShaped (execImageLoadComplete slot s) := by
  unfold execImageLoadComplete
  apply_rules [AnswersShaped.next, shaped_becomeReady, answersShaped_ite]

theorem answersShaped_execStageWaitTimeout (slot : Nat) {s : State} (h : Shaped s) :
    AnswersShaped (execStageWaitTimeout slot s) := by
  unfold execStageWaitTimeout
  with_reducible repeat' first
    | assumption
    | apply AnswersShaped.next
    | apply shaped_freeImage
    | apply shaped_refuse
    | apply answersShaped_ite
    | split

theorem answersShaped_execImageUnload (o : Origin) {s : State} (h : Shaped s) :
    AnswersShaped (execImageUnload o s) := by
  unfold execImageUnload
  with_reducible repeat' first
    | assumption
    | apply AnswersShaped.next
    | apply shaped_freeImage
    | apply shaped_onImage
    | apply shaped_markRunning
    | apply shaped_refuse
    | apply shaped_complete
    | apply shaped_sendRequest
    | split

theorem answersShaped_execVariantLoad (o : Origin) (param : List Byte) (stagesFit : Bool) {s : State}
    (h : Shaped s) : AnswersShaped (execVariantLoad o param stagesFit s) := by
  unfold execVariantLoad
  with_reducible repeat' first
    | assumption
    | apply AnswersShaped.next
    | apply shaped_tellVariant
    | apply shaped_onImage
    | apply shaped_refuse
    | apply shaped_complete
    | split

theorem answersShaped_execVariantRemove (o : Origin) {s : State} (h : Shaped s) :
    AnswersShaped (execVariantRemove o s) := by
  unfold execVariantRemove
  with_reducible repeat' first
    | assumption
    | apply AnswersShaped.next
    | apply shaped_tellVariant
    | apply shaped_onImage
    | apply shaped_refuse
    | apply shaped_complete
    | split
    | dsimp only

theorem shaped_commitTune {s : State} (slot : Nat) (i : Image) (v : Variant) (u : Tuning) (pages : List Nat)
    (h : Shaped s) : Shaped (commitTune s slot i v u pages) := by
  unfold commitTune
  apply_rules [shaped_tellVariant, shaped_onImage, shaped_writePages, shaped_sendRecordCopy, shaped_onSession]

theorem answersShaped_execTuneStep (w : Start) (param : List Byte) (loss : BitVec 32)
    (sums : List (List (BitVec 32) × List (BitVec 32))) {s : State} (h : Shaped s) :
    AnswersShaped (execTuneStep w param loss sums s) := by
  unfold execTuneStep
  refine answersShaped_afterClears h ?_
  split
  · exact .next h
  · exact .next (shaped_refuse _ _ _ h)
  · rename_i d x _
    dsimp only
    split
    · exact .next (shaped_refuse _ _ _ h)
    · have hb := shaped_beginOn x h
      generalize beginOn s x = b at hb
      obtain ⟨u, y⟩ := b
      dsimp only at hb ⊢
      have hready : RecoveryShaped
          (if y.state = .parked then makeResidentSession u y.slot w.how 0 d.deadline
            else recover u y w.how d.deadline) := by
        split
        · exact recoveryShaped_makeResidentSession _ _ _ _ hb
        · exact recoveryShaped_recover _ _ _ hb
      split
      · exact .next (shaped_refuse _ _ _ (hready.of_error ‹_›))
      · have hroom := fun enough => shaped_makeRoom enough (hready.of_ok ‹_›)
        split
        · exact .next (hready.of_ok ‹_›)
        · split
          · exact .next (shaped_refuse _ _ _ (hroom _))
          split
          · exact .next (shaped_refuse _ _ _ (hroom _))
          split
          · exact .next (shaped_refuse _ _ _ (hroom _))
          · exact .next (shaped_complete _ _ _ (shaped_commitTune _ _ _ _ _
              (shaped_addPages _ _ (shaped_of_placePages ‹_› (hroom _)))))

end Sys2Proof.Machine
end

section
/-!
SUPPORT. That each step keeps the shape of the state, function by function in the order of the model: 
tuning, images, the search and the map; requests of other parts.
-/

namespace Sys2Proof.Machine

theorem shaped_recordStep {s : State} (x : Session) (step n : Nat) (tokens : List Nat)
    (logits : List (List (BitVec 32))) (h : Shaped s) : Shaped (recordStep s x step n tokens logits) := by
  unfold recordStep
  with_reducible repeat' first
    | assumption
    | intro _
    | apply shaped_recordFlight
    | apply shaped_foldl

theorem shaped_recordCompares {s : State} (x : Session) (o : Origin) (cmp : List (List Byte)) (h : Shaped s) :
    Shaped (recordCompares s x o cmp) := by
  unfold recordCompares
  with_reducible repeat' first
    | assumption
    | intro _
    | apply shaped_writeFlight
    | apply shaped_foldl
    | split

theorem shaped_copyArmed {s : State} (slot : Nat) (h : Shaped s) : Shaped (copyArmed s slot) := by
  unfold copyArmed
  repeat' split
  all_goals apply_rules [shaped_sendRound, shaped_putSession]

theorem shaped_commitTokens {s : State} (slot n step dead : Nat) (x : Session) (tokens : List Nat)
    (logits : List (List (BitVec 32))) (h : Shaped s) : Shaped (commitTokens s slot n step dead x tokens logits) := by
  unfold commitTokens
  apply_rules [shaped_copyArmed, shaped_recordStep, shaped_sendPageCopies, shaped_commitKv, shaped_sendRecordCopy,
      shaped_countTenant, shaped_ite]

theorem shaped_commitRun {s : State} (slot : Nat) (x : Session) (g : Gen) (v : Vocab) (r : StepRun)
    (logits : List (List (BitVec 32))) (told : Nat) (h : Shaped s) :
    Shaped (commitRun s slot x g v r logits told) := by
  unfold commitRun
  with_reducible repeat' first
    | assumption
    | intro _
    | apply shaped_commitTokens
    | apply shaped_recordCompares
    | apply shaped_endGeneration
    | apply shaped_noteReplaced
    | apply shaped_emitRecord
    | apply shaped_closeGeneration
    | apply shaped_onDescriptor
    | apply shaped_onSession
    | apply shaped_putSession
    | apply shaped_onKnd
    | apply shaped_foldl
    | apply shaped_ite
    | split

theorem shaped_countMaskWait {s : State} (x : Session) (h : Shaped s) : Shaped (countMaskWait s x) := by
  unfold countMaskWait
  apply_rules [shaped_putSession, shaped_onDgn, shaped_ite]

theorem shaped_of_recoverStep_ok {s t : State} {x : Session} {g : Gen} {how : Recovery}
    (ht : recoverStep s x g how = .ok t) (h : Shaped s) : Shaped t := by
  unfold recoverStep at ht
  split at ht <;> cases ht
  exact shaped_onDescriptor _ _ ((recoveryShaped_recover _ _ _ h).of_ok ‹_›)

theorem shaped_of_recoverStep_error {s t : State} {x : Session} {g : Gen} {how : Recovery}
    (ht : recoverStep s x g how = .error t) (h : Shaped s) : Shaped t := by
  unfold recoverStep at ht
  split at ht <;> cases ht
  exact shaped_endGeneration _ _ _ ((recoveryShaped_recover _ _ _ h).of_error ‹_›)

theorem shaped_commitSession {s : State} (slot : Nat) (c : ColumnLogits) (h : Shaped s) :
    Shaped (commitSession s slot c) := by
  unfold commitSession
  split
  · exact h
  split
  · exact h
  dsimp only
  split
  · exact shaped_endGeneration _ _ _ h
  split
  · exact shaped_of_recoverStep_error ‹_› h
  · have hs := shaped_of_recoverStep_ok ‹_› h
    split
    · exact shaped_endGeneration _ _ _ (shaped_of_pair (shaped_allotPages _ _ _ hs) ‹_›)
    · have hadd := shaped_addPages slot ‹_› (shaped_of_pair (shaped_allotPages _ _ _ hs) ‹_›)
      split
      · exact hadd
      · exact shaped_commitRun _ _ _ _ _ _ _ hadd

theorem answersShaped_execStepCommit (batch : Nat) (cols : List ColumnLogits) {s : State} (h : Shaped s) :
    AnswersShaped (execStepCommit batch cols s) := by
  unfold execStepCommit
  with_reducible repeat' first
    | assumption
    | intro _
    | apply AnswersShaped.next
    | apply shaped_commitSession
    | apply shaped_countMaskWait
    | apply shaped_tokenBoundary
    | apply answersShaped_afterClears
    | apply shaped_foldl
    | split

theorem shaped_adoptPages {s : State} (i : Image) (slot : Nat) (r : ColumnRecord) (h : Shaped s) :
    Shaped (adoptPages s i slot r) := by
  unfold adoptPages
  with_reducible repeat' first
    | assumption
    | intro _
    | apply shaped_addPages
    | apply shaped_allotPages
    | apply shaped_writeFrame
    | apply shaped_onSession
    | apply shaped_onRdg
    | apply shaped_foldl
    | refine shaped_of_pair ?_ ‹_›
    | split
    | dsimp only

theorem shaped_withGuest {s : State} (i : Image) (r : ColumnRecord) (h : Shaped s) : Shaped (withGuest s i r).1 := by
  unfold withGuest
  split <;> apply_rules [shaped_adoptPages, shaped_putSession]

theorem shaped_rollbackKv {s : State} (slot length : Nat) (h : Shaped s) : Shaped (rollbackKv s slot length) := by
  unfold rollbackKv
  split <;> apply_rules [shaped_writePages, shaped_putSession]

theorem shaped_applyRecord {s : State} (i : Image) (r : ColumnRecord) (h : Shaped s) : Shaped (applyRecord s i r) := by
  unfold applyRecord
  with_reducible repeat' first
    | assumption
    | apply shaped_rollbackKv
    | apply shaped_withGuest
    | apply shaped_sendPageCopies
    | apply shaped_commitKv
    | apply shaped_freeSessionPages
    | apply shaped_addPages
    | apply shaped_allotPages
    | apply shaped_onSession
    | apply shaped_onSess
    | apply shaped_ite
    | apply rfl
    | refine shaped_of_pair ?_ ‹_›
    | split

theorem shaped_beginShare {s : State} (r : ColumnRecord) (h : Shaped s) : Shaped (beginShare s r) := by
  unfold beginShare
  split <;> apply_rules [shaped_beginReads, shaped_ite]

theorem shaped_notePassing {s : State} (i : Image) (f : ActFrame) (h : Shaped s) : Shaped (notePassing s i f) := by
  unfold notePassing
  apply_rules [shaped_onSess, shaped_ite]

theorem shaped_stepBack {s : State} (i : Image) (f : ActFrame) (h : Shaped s) : Shaped (stepBack s i f) := by
  unfold stepBack
  with_reducible repeat' first
    | assumption
    | apply shaped_onBatch
    | apply shaped_queueItems
    | split

theorem shaped_shareItems {s : State} (i : Image) (f : ActFrame) (cls : Nat) (h : Shaped s) :
    Shaped (shareItems s i f cls) := by
  unfold shareItems
  apply_rules [shaped_queueItems, shaped_ite]

theorem answersShaped_execActivationFrame (f : ActFrame) {s : State} (h : Shaped s) :
    AnswersShaped (execActivationFrame f s) := by
  unfold execActivationFrame
  with_reducible repeat' first
    | assumption
    | intro _
    | apply AnswersShaped.next
    | apply shaped_shareItems
    | apply shaped_stepBack
    | apply shaped_notePassing
    | apply shaped_beginShare
    | apply shaped_applyRecord
    | apply shaped_sendFrame
    | apply answersShaped_afterClears
    | apply shaped_foldl
    | split

theorem answersShaped_execGrammarMask (slot column : Nat) {s : State} (h : Shaped s) :
    AnswersShaped (execGrammarMask slot column s) := by
  unfold execGrammarMask
  repeat' split
  all_goals apply_rules [AnswersShaped.next, shaped_unkindle, shaped_putSession]

theorem shaped_endDrafting {s : State} (batch : Nat) (x : Session) (g : Gen) (h : Shaped s) :
    Shaped (endDrafting s batch x g) := by
  unfold endDrafting
  apply_rules [shaped_onBatch, shaped_putSession]

theorem shaped_draftOne {s : State} (batch : Nat) (d : Draft) (h : Shaped s) : Shaped (draftOne s batch d) := by
  unfold draftOne
  with_reducible repeat' first
    | assumption
    | apply shaped_endDrafting
    | apply shaped_countMaskWait
    | apply shaped_kindleMask
    | apply shaped_putSession
    | apply shaped_ite
    | split

theorem answersShaped_execDraftPass (batch : Nat) (drafts : List Draft) {s : State} (h : Shaped s) :
    AnswersShaped (execDraftPass batch drafts s) := by
  unfold execDraftPass
  with_reducible repeat' first
    | assumption
    | intro _
    | apply AnswersShaped.next
    | apply shaped_draftOne
    | apply shaped_launchStep
    | apply shaped_queueItems
    | apply shaped_foldl
    | apply answersShaped_ite

theorem answersShaped_execDraftRefill (slot : Nat) {s : State} (h : Shaped s) :
    AnswersShaped (execDraftRefill slot s) := by
  unfold execDraftRefill
  repeat' split
  all_goals apply_rules [AnswersShaped.next, shaped_putSession]

theorem shaped_releaseRecords {s : State} (slot : Nat) (h : Shaped s) : Shaped (releaseRecords s slot) := by
  unfold releaseRecords
  with_reducible repeat' first
    | assumption
    | intro _
    | apply shaped_sendRecord
    | apply shaped_putSession
    | apply shaped_foldl
    | split

theorem shaped_settleAcks {s : State} (slot : Nat) (h : Shaped s) : Shaped (settleAcks s slot) := by
  unfold settleAcks
  with_reducible repeat' first
    | assumption
    | apply shaped_releaseRecords
    | apply shaped_commitPark
    | apply shaped_finishEnded
    | apply shaped_complete
    | apply shaped_onSession
    | apply shaped_onCrn
    | split

theorem answersShaped_execBuddyAcknowledge (slot : Nat) {s : State} (h : Shaped s) :
    AnswersShaped (execBuddyAcknowledge slot s) := by
  unfold execBuddyAcknowledge
  split <;> apply_rules [AnswersShaped.next, shaped_settleAcks, shaped_putSession, answersShaped_ite]

theorem shaped_dropAsked {s : State} (id : Nat) (h : Shaped s) : Shaped (dropAsked s id) := by
  unfold dropAsked
  apply_rules [shaped_onRdg]

theorem shaped_dropMapping {s : State} (h : Word) (hs : Shaped s) : Shaped (dropMapping s h) := by
  unfold dropMapping
  apply_rules [shaped_onRdg]

theorem shaped_failAsked {s : State} (a : Asked) (st : Status) (h : Shaped s) : Shaped (failAsked s a st) := by
  unfold failAsked
  with_reducible repeat' first
    | assumption
    | apply shaped_dropMapping
    | apply shaped_dropAsked
    | apply shaped_loseExtent
    | apply shaped_onImage
    | apply shaped_poisonRead
    | apply shaped_pumpPool
    | apply shaped_complete
    | apply shaped_emit
    | apply shaped_onRdg
    | apply shaped_ite
    | apply rfl
    | split

theorem shaped_resendAsked {s : State} (a : Asked) (h : Shaped s) : Shaped (resendAsked s a) := by
  unfold resendAsked
  apply_rules [shaped_sendFrame, shaped_onRdg]

theorem shaped_resendWaiting {s : State} (h : Shaped s) : Shaped (resendWaiting s) := by
  unfold resendWaiting
  with_reducible repeat' first
    | assumption
    | intro _
    | apply shaped_resendAsked
    | apply shaped_forwardDescriptor
    | apply shaped_onDescriptor
    | apply shaped_foldl
    | split

theorem shaped_losePeer {s : State} (part : Nat) (h : Shaped s) : Shaped (losePeer s part) := by
  unfold losePeer
  with_reducible repeat' first
    | assumption
    | intro _
    | apply shaped_failAsked
    | apply shaped_readmit
    | apply shaped_dropMapperPart
    | apply shaped_endMove
    | apply shaped_finishEnded
    | apply shaped_complete
    | apply shaped_onDescriptor
    | apply shaped_foldl
    | apply shaped_ite

theorem shaped_selfDown {s : State} (h : Shaped s) : Shaped (selfDown s) := by
  unfold selfDown
  with_reducible repeat' first
    | assumption
    | intro _
    | apply shaped_clearLent
    | apply shaped_onLent
    | apply shaped_freeRegion
    | apply shaped_onRdg
    | apply shaped_foldl
    | apply rfl

theorem shaped_partDown {s : State} (part : Nat) (h : Shaped s) : Shaped (partDown s part) := by
  unfold partDown
  with_reducible repeat' first
    | assumption
    | intro _
    | apply shaped_selfDown
    | apply shaped_losePeer
    | apply shaped_lenderExtent
    | apply shaped_loseExtent
    | apply shaped_onRdg
    | apply shaped_foldl
    | apply shaped_ite
    | apply rfl

theorem shaped_regionCommitted {s : State} (h : Word) (hs : Shaped s) : Shaped (regionCommitted s h) := by
  unfold regionCommitted
  with_reducible repeat' first
    | assumption
    | apply shaped_putRegion
    | apply shaped_complete
    | refine wf_of_region ?_ ‹_› (by rfl)
    | split

theorem shaped_takeNumber {s : State} (n a : Nat) (h : Shaped s) : Shaped (takeNumber s n a) := by
  unfold takeNumber
  apply_rules [shaped_onCrn, shaped_onRdg, shaped_ite]

theorem shaped_awaitTwin {s : State} (h : Shaped s) : Shaped (awaitTwin s) := by
  unfold awaitTwin
  split <;> apply_rules [shaped_onSess, shaped_ite]

theorem shaped_sendRestore {s : State} (n : Nat) (h : Shaped s) : Shaped (sendRestore s n) := by
  unfold sendRestore
  with_reducible repeat' first
    | assumption
    | intro _
    | apply shaped_sendRequest
    | apply shaped_sendFrame
    | apply shaped_onFbx
    | apply shaped_foldl
    | apply shaped_ite

theorem shaped_changeEffect {s : State} (epoch : Nat) (c : MapChange) (h : Shaped s) :
    Shaped (changeEffect s epoch c) := by
  cases c with
  | part n a st =>
    unfold changeEffect
    have htaken := shaped_takeNumber n a h
    have htwin := shaped_ite (c := (takeNumber s n a).twin = some n)
      (shaped_sendRestore n (shaped_onRdg (f := fun r => { r with partnerDownAt := none }) rfl htaken)) htaken
    exact shaped_ite (shaped_partDown _ h) (shaped_ite (shaped_awaitTwin htwin) htwin)
  | twinOf p w =>
    unfold changeEffect
    dsimp only
    exact shaped_ite (shaped_onRdg (by rfl) h) h
  | keepers ks l q =>
    exact shaped_foldl h fun _ _ h => shaped_ite h (shaped_sendFrame _ _ _ _ _ _ _ _ _ _ h)
  | extent e st b => exact shaped_borrowerExtent _ _ _ (shaped_lenderExtent _ _ _ h)
  | extentGone e => exact shaped_extentRemoved _ h
  | region e shared => exact shaped_regionCommitted _ h
  | regionGone e =>
    unfold changeEffect
    dsimp only
    exact shaped_onRdg (by rfl) h
  | activation d e cold => exact shaped_noteActivation _ _ _ h

theorem shaped_applyCommit {s : State} (epoch : Nat) (changes : List MapChange) (h : Shaped s) :
    Shaped (applyCommit s epoch changes) := by
  unfold applyCommit
  refine shaped_resendWaiting (shaped_actOnEpoch (shaped_onFwu rfl (shaped_foldl (shaped_foldl (shaped_onRdg rfl h)
    fun _ _ h => shaped_changeEffect _ _ h) fun _ _ h => shaped_ite (shaped_loseExtent _ _ h) h)))

theorem shaped_applyMissed (n : Nat) {s : State} (h : Shaped s) : Shaped (applyMissed n s) := by
  induction n generalizing s with
  | zero => exact h
  | succ n ih =>
    unfold applyMissed
    split
    · exact ih (shaped_applyCommit _ _ h)
    · exact h

theorem shaped_takeCommit {s : State} (epoch : Nat) (changes : List MapChange) (h : Shaped s) :
    Shaped (takeCommit s epoch changes) := by
  unfold takeCommit
  apply_rules [shaped_ite, shaped_applyMissed, shaped_applyCommit, shaped_sendFrame, shaped_onRdg]

theorem shaped_fetchReplica {s : State} (part : Nat) (h : Shaped s) : Shaped (fetchReplica s part) := by
  unfold fetchReplica
  apply_rules [shaped_sendFrame, shaped_ite]

theorem shaped_takeWhole {s : State} (epoch : Nat) (changes : List MapChange) (h : Shaped s) :
    Shaped (takeWhole s epoch changes) := by
  unfold takeWhole
  exact shaped_ite (shaped_onRdg rfl h) (shaped_applyMissed _ (shaped_applyCommit _ _
    (shaped_foldl (shaped_onRdg rfl (shaped_onRdg rfl h)) fun _ _ h => shaped_ite h (shaped_extentRemoved _ h))))

theorem shaped_onPort {s : State} (n : Nat) (f : Port → Port) (h : Shaped s) : Shaped (State.onPort s n f) := by
  unfold State.onPort
  apply_rules [shaped_onRdg]

theorem shaped_sendAck {s : State} (addr : Nat) (h : Shaped s) : Shaped (sendAck s addr) := by
  unfold sendAck
  apply_rules [shaped_onPeer, shaped_emit]

theorem shaped_releaseAcked {s : State} (addr : Nat) (ack : Seq) (h : Shaped s) :
    Shaped (releaseAcked s addr ack) := by
  unfold releaseAcked
  apply_rules [shaped_onPeer]

theorem shaped_receive {s : State} (f : Received) (type : Nat) (sequenced : Bool) (h : Shaped s) :
    Shaped (receive s f type sequenced).2 := by
  have hfec := shaped_ite (c := f.fecOk = true) h (shaped_onPort f.port (fun p => { p with fecBad := bump 16 p.fecBad }) h)
  unfold receive
  dsimp only
  generalize (if f.fecOk then s else s.onPort f.port fun p => { p with fecBad := bump 16 p.fecBad }) = u at hfec
  have hstruck := shaped_ite (c := (sequenced && tagFaultArmed u f.port) = true) (shaped_faultStruck 4 hfec) hfec
  generalize (if sequenced && tagFaultArmed u f.port then faultStruck u 4 else u) = v at hstruck
  with_reducible repeat' first
    | assumption
    | apply shaped_sendAck
    | apply shaped_isolation
    | apply shaped_onPort
    | apply shaped_onPeer
    | apply shaped_releaseAcked
    | apply shaped_onRdg rfl
    | split

theorem shaped_useHandedGrammar {s : State} (r : Restored) (h : Shaped s) : Shaped (useHandedGrammar s r) := by
  unfold useHandedGrammar
  split <;> apply_rules [shaped_onKnd]

theorem shaped_of_placeHanded {s t : State} {x : Session} {i : Image} {r : Restored} {bare : List (Nat × List Byte)}
    {placed : List Page} (ht : placeHanded s x i r bare = some (t, placed)) (h : Shaped s) : Shaped t :=
  shaped_of_placeParked ht h

theorem shaped_installHanded {s : State} (r : Restored) (pages : List (Nat × List Byte)) (h : Shaped s) :
    Shaped (installHanded s r pages) := by
  unfold installHanded
  have hkey := shaped_useHandedGrammar r (shaped_drawKey h)
  have hdone := fun {t : State} (ht : Shaped t) x => shaped_sendFresh x.slot false (shaped_installSession x ht)
  dsimp only
  split
  · exact hdone hkey _
  split
  · exact hdone hkey _
  split
  · split
    · exact hdone (shaped_of_placeHanded ‹_› hkey) _
    · exact hdone hkey _
  · have hin := fun x => shaped_installSession x hkey
    split
    · exact shaped_onSession _ _ (shaped_of_pair (shaped_allotPages _ _ _ (hin _)) ‹_›)
    · refine shaped_sendFresh _ _ (shaped_onSession _ _ (shaped_foldl
        (shaped_of_pair (shaped_allotPages _ _ _ (hin _)) ‹_›) fun s p h => ?_))
      split
      · exact shaped_writeFrame _ _ h
      · exact h

theorem shaped_resumeHanded {s : State} (r : Restored) (h : Shaped s) : Shaped (resumeHanded s r) := by
  unfold resumeHanded
  split <;> apply_rules [shaped_onSession, shaped_openBatches, shaped_onDesc]

theorem shaped_answerExtent {s : State} (part req : Nat) (e : Word) {served : State → State × ResponseBody}
    (hserved : ∀ t, Shaped t → Shaped (served t).1) (h : Shaped s) : Shaped (answerExtent s part req e served) := by
  unfold answerExtent
  split
  · exact shaped_sendResponse _ _ _ _ _ _ (shaped_ite (shaped_onRdg rfl h) h)
  · exact shaped_sendResponse _ _ _ _ _ _ (hserved s h)

theorem shaped_storeLent {s : State} (h : Word) (granule : Nat) (data : List Byte) (hs : Shaped s) :
    Shaped (storeLent s h granule data) := by
  unfold storeLent
  apply_rules [shaped_onLent]

theorem shaped_takeClaim {s : State} (part req : Nat) (h : Word) (hs : Shaped s) :
    Shaped (takeClaim s part req h) := by
  unfold takeClaim
  split <;> apply_rules [shaped_onLent, shaped_propose, shaped_sendResponse, shaped_ite]

theorem shaped_takeDescriptor {s : State} (h : FrameHeader) (raw : BitVec 512) (operator : Bool) (hs : Shaped s) :
    Shaped (takeDescriptor s h raw operator) := by
  unfold takeDescriptor
  with_reducible repeat' first
    | assumption
    | apply shaped_arrive
    | apply shaped_meter
    | apply shaped_sendResponse
    | apply shaped_onDesc
    | apply shaped_ite
    | split

theorem shaped_takeMapper {s : State} (part req tenant : Nat) (k : Word) (view : Nat) (h : Shaped s) :
    Shaped (takeMapper s part req tenant k view) := by
  unfold takeMapper
  split
  · exact shaped_ite
      (shaped_sendResponse _ _ _ _ _ _ (shaped_putRegion (wf_of_regionOf h ‹_› (addMapper_mem _ _ _)) h))
      (shaped_sendResponse _ _ _ _ _ _ h)
  · exact shaped_sendResponse _ _ _ _ _ _ h

theorem shaped_takeUnload {s : State} (part req : Nat) (id : BitVec 128) (h : Shaped s) :
    Shaped (takeUnload s part req id) := by
  unfold takeUnload
  split <;> apply_rules [shaped_sendResponse, shaped_onImg, shaped_ite]

theorem shaped_takeVariant {s : State} (src : Nat) (id : BitVec 128) (n tenant : Nat) (records : List Byte)
    (h : Shaped s) : Shaped (takeVariant s src id n tenant records) := by
  unfold takeVariant
  split <;> apply_rules [shaped_onImage]

theorem shaped_takeShare {s : State} (src req : Nat) (k : Word) (act : ShareAct) (h : Shaped s) :
    Shaped (takeShare s src req k act) := by
  unfold takeShare
  dsimp only
  split
  · exact shaped_sendResponse _ _ _ _ _ _ h
  split
  · exact shaped_sendResponse _ _ _ _ _ _ h
  rename_i x _ _
  cases act with
  | park tier noNarrow =>
    dsimp only
    split
    · exact shaped_sendResponse _ _ _ _ _ _ h
    split
    · exact shaped_sendResponse _ _ _ _ _ _ (shaped_of_parkSession ‹_› h)
    · exact shaped_sendResponse _ _ _ _ _ _ h
  | revive keep =>
    dsimp only
    split
    · exact shaped_sendResponse _ _ _ _ _ _ h
    · have hphase := shaped_bringIn x.slot [] keep h
      generalize bringIn s x.slot [] keep = p at hphase
      cases p <;> exact shaped_sendResponse _ _ _ _ _ _ hphase
  | rebuild =>
    dsimp only
    split
    · exact shaped_sendResponse _ _ _ _ _ _ (shaped_of_rebuildKv_ok ‹_› h)
    · exact shaped_sendResponse _ _ _ _ _ _ (shaped_of_rebuildKv_error ‹_› h)
  | send dest object dirtyOnly =>
    exact shaped_sendResponse _ _ _ _ _ _ (shaped_putSession _ (shaped_sendPages _ _ _ _ _ _ h))
  | copy object tier =>
    dsimp only
    split
    · exact shaped_sendResponse _ _ _ _ _ _ (shaped_putSession _ (shaped_of_placeParked ‹_› (shaped_drawKey h)))
    · exact shaped_sendResponse _ _ _ _ _ _ h
  | freeDead => exact shaped_sendResponse _ _ _ _ _ _ (shaped_ite h (shaped_freeDeadOf _ h))
  | close => exact shaped_sendResponse _ _ _ _ _ _ (shaped_onSess rfl rfl (shaped_freeSessionPages _ h))

theorem shaped_actRequest {s : State} (f : FrameHeader) (r : Request) (h : Shaped s) : Shaped (actRequest s f r) := by
  cases r with
  | descriptor raw p operator => exact shaped_takeDescriptor _ _ _ h
  | endOf req =>
    unfold actRequest
    dsimp only
    split
    · exact shaped_readmit (shaped_cancelWork _ h)
    · exact h
  | claim e => exact shaped_takeClaim _ _ _ h
  | extentRead e g n =>
    exact shaped_answerExtent (served := fun s => (s, .data ((upFrom g n).flatMap (readLent s e)) none)) _ _ _
      (fun _ h => h) h
  | extentWrite e g d =>
    exact shaped_answerExtent (served := fun s => (storeLent s e g d, .done 0 [])) _ _ _
      (fun _ h => shaped_storeLent _ _ _ h) h
  | lineRead g line v =>
    unfold actRequest
    dsimp only
    split
    · exact shaped_pushOp _ _ _ h
    · exact shaped_sendResponse _ _ _ _ _ _ h
  | digestRead g page =>
    unfold actRequest
    dsimp only
    split <;> exact shaped_sendResponse _ _ _ _ _ _ h
  | lineWrite g line off d =>
    unfold actRequest
    dsimp only
    split
    · exact shaped_pushOp _ _ _ h
    · exact shaped_sendResponse _ _ _ _ _ _ h
  | mapper g view => exact shaped_takeMapper _ _ _ _ _ h
  | unmapper g =>
    unfold actRequest
    dsimp only
    split
    · exact shaped_pumpRegion _ (shaped_putRegion (wf_of_regionOf h ‹_› (removeMapper_mem _ _)) h)
    · exact shaped_sendResponse _ _ _ _ _ _ h
  | imageReport id stage => exact shaped_ite h (shaped_onImg _ h)
  | unloadAsk id => exact shaped_takeUnload _ _ _ h
  | variant id n tenant records => exact shaped_takeVariant _ _ _ _ _ h
  | slotEntry slot gen state durability =>
    unfold actRequest
    dsimp only
    exact shaped_ite (shaped_onRdg (by rfl) h) h
  | genFloor n => exact shaped_ite (shaped_onRdg (by rfl) h) h
  | share k act => exact shaped_takeShare _ _ _ _ h
  | dropMove k =>
    unfold actRequest
    dsimp only
    exact shaped_onRdg (by rfl) h
  | poisonCopy k page => exact shaped_ite (shaped_onRdg (by rfl) h) h
  | dropCopies k => exact shaped_ite (shaped_onRdg (by rfl) h) h

theorem shaped_routeRequest {s : State} (f : Received) (r : Request) (h : Shaped s) : Shaped (routeRequest s f r) := by
  unfold routeRequest
  with_reducible repeat' first
    | assumption
    | apply shaped_actRequest
    | apply shaped_sendResponse
    | apply shaped_enqueueFrame
    | apply shaped_onRdg
    | apply shaped_ite
    | apply rfl
    | split

theorem shaped_judgeRequest {s : State} (f : Received) (r : Request) (h : Shaped s) : Shaped (judgeRequest s f r) := by
  unfold judgeRequest
  apply_rules [shaped_routeRequest, shaped_sendFrame, shaped_onRdg, shaped_ite]

theorem shaped_actEarly {s : State} (h : Shaped s) : Shaped (actEarly s) := by
  unfold actEarly
  with_reducible repeat' first
    | assumption
    | intro _
    | apply shaped_routeRequest
    | apply shaped_onRdg
    | apply shaped_foldl
    | apply rfl

theorem shaped_unloadAnswered {s : State} (a : Asked) (h : Shaped s) : Shaped (unloadAnswered s a) := by
  unfold unloadAnswered
  split <;> apply_rules [shaped_freeImage, shaped_complete, shaped_ite]

theorem shaped_mapperAnswered {s : State} (a : Asked) (region : Word) (view units : Nat) (shared digest : Bool)
    (h : Shaped s) : Shaped (mapperAnswered s a region view units shared digest) := by
  unfold mapperAnswered
  repeat' split
  all_goals apply_rules [shaped_complete, shaped_sendRequest, shaped_onRdg, shaped_ite]

theorem shaped_settleAsked {s : State} (a : Asked) (epoch : Nat) (st : Status) (body : ResponseBody)
    (h : Shaped s) : Shaped (settleAsked s a epoch st body) := by
  unfold settleAsked
  repeat' split
  all_goals apply_rules [shaped_mapperAnswered, shaped_unloadAnswered, shaped_resendAsked, shaped_failAsked,
      shaped_dropMapping, shaped_lineToHost, shaped_cacheLine, shaped_pumpPool, shaped_complete, shaped_emit,
      shaped_onRdg, shaped_ite]

theorem shaped_answerDescriptor {s : State} (d : InFlight) (epoch : Nat) (st : Status) (result : Word)
    (conds : List Nat) (h : Shaped s) : Shaped (answerDescriptor s d epoch st result conds) := by
  unfold answerDescriptor
  apply_rules [shaped_resendWaiting, shaped_finishEnded, shaped_complete, shaped_onDescriptor, shaped_onRdg,
      shaped_ite]

theorem shaped_takeFlue {s : State} (d : InFlight) (cls q : Nat) (r : FlueRecord) (h : Shaped s) :
    Shaped (takeFlue s d cls q r) := by
  unfold takeFlue
  apply_rules [shaped_onDescriptor, shaped_onClass, shaped_ite]

theorem shaped_moveRefused {s : State} (req : Nat) (st : Status) (h : Shaped s) : Shaped (moveRefused s req st) := by
  unfold moveRefused
  split <;> apply_rules [shaped_readmit, shaped_endMove]

theorem shaped_takeResponse {s : State} (h : FrameHeader) (body : ResponseBody) (hs : Shaped s) :
    Shaped (takeResponse s h body) := by
  unfold takeResponse
  repeat' split
  all_goals apply_rules [shaped_moveRefused, shaped_takeFlue, shaped_answerDescriptor, shaped_settleAsked,
      shaped_writeFlight, shaped_emit]

end Sys2Proof.Machine
end

section
/-!
SUPPORT. That each step keeps the shape of the state, function by function in the order of the model: 
frames received, timers of the ridge, the twin, cairns, SPDM, bellows and injected faults.
-/

namespace Sys2Proof.Machine

theorem answersShaped_execRequestFrame (f : Received) (req : Request) {s : State} (h : Shaped s) :
    AnswersShaped (execRequestFrame f req s) := by
  unfold execRequestFrame
  refine answersShaped_afterClears h ?_
  have hr := shaped_receive f 0 true h
  generalize receive s f 0 true = r at hr
  obtain ⟨_ | _, t⟩ := r
  · exact .next hr
  · exact .next (shaped_judgeRequest _ _ hr)

theorem answersShaped_execResponseFrame (f : Received) (body : ResponseBody) {s : State} (h : Shaped s) :
    AnswersShaped (execResponseFrame f body s) := by
  unfold execResponseFrame
  have hr := shaped_receive f 1 true h
  generalize receive s f 1 true = r at hr
  obtain ⟨_ | _, t⟩ := r
  · exact .next hr
  · exact .next (shaped_takeResponse _ _ (shaped_ite (shaped_sendFrame _ _ _ _ _ _ _ _ _ _ hr) hr))

theorem answersShaped_execInvalidate (f : Received) (region : Word) (line : Option Nat) {s : State} (h : Shaped s) :
    AnswersShaped (execInvalidate f region line s) := by
  unfold execInvalidate
  have hr := shaped_receive f 3 true h
  generalize receive s f 3 true = r at hr
  obtain ⟨_ | _, t⟩ := r
  · exact .next hr
  · cases line with
    | none => exact .next (shaped_sendFrame _ _ _ _ _ _ _ _ _ _ (shaped_dropSealed _ hr))
    | some l => exact .next (shaped_sendFrame _ _ _ _ _ _ _ _ _ _ (shaped_dropLine _ _ hr))

theorem answersShaped_execInvalidateAcknowledge (f : Received) (region : Word) (line : Option Nat) {s : State}
    (h : Shaped s) : AnswersShaped (execInvalidateAcknowledge f region line s) := by
  unfold execInvalidateAcknowledge
  have hr := shaped_receive f 4 true h
  generalize receive s f 4 true = r at hr
  obtain ⟨_ | _, t⟩ := r
  · exact .next hr
  · dsimp only
    split
    · exact .next (shaped_acknowledgeLine _ _ _ hr)
    · exact .next hr

theorem shaped_answerFetch {s : State} (part epoch : Nat) (h : Shaped s) : Shaped (answerFetch s part epoch) := by
  unfold answerFetch
  with_reducible repeat' first
    | assumption
    | intro _
    | apply shaped_sendFrame
    | apply shaped_foldl
    | split

theorem shaped_proposalRejected {s : State} (c : MapChange) (h : Shaped s) : Shaped (proposalRejected s c) := by
  unfold proposalRejected
  split <;> apply_rules [shaped_onRdg, shaped_ite]

theorem answersShaped_execMapFrame (f : Received) (body : MapBody) {s : State} (h : Shaped s) :
    AnswersShaped (execMapFrame f body s) := by
  unfold execMapFrame
  have hr := shaped_receive f 5 true h
  generalize receive s f 5 true = r at hr
  obtain ⟨_ | _, t⟩ := r
  · exact .next hr
  · refine .next (shaped_actEarly ?_)
    cases body with
    | commit e cs => exact shaped_takeCommit _ _ hr
    | whole e cs => exact shaped_takeWhole _ _ hr
    | propose c => exact shaped_ite (shaped_onRdg rfl hr) hr
    | rejected c => exact shaped_proposalRejected _ hr
    | suspect p => apply shaped_onRdg rfl hr
    | fetch e => exact shaped_answerFetch _ _ hr

theorem answersShaped_execAcknowledge (f : Received) {s : State} (h : Shaped s) :
    AnswersShaped (execAcknowledge f s) := by
  unfold execAcknowledge
  apply_rules [AnswersShaped.next, shaped_receive]

theorem shaped_agreeKeys {s : State} (addr : Nat) (o : PeerOffer) (h : Shaped s) : Shaped (agreeKeys s addr o) := by
  unfold agreeKeys
  with_reducible repeat' first
    | assumption
    | intro _
    | apply shaped_fetchReplica
    | apply shaped_drawKey
    | apply shaped_sendFrame
    | apply shaped_onPeer
    | apply shaped_foldl
    | apply shaped_ite

theorem answersShaped_execKeepalive (f : Received) (offer : Option PeerOffer) {s : State} (h : Shaped s) :
    AnswersShaped (execKeepalive f offer s) := by
  unfold execKeepalive
  have hr := shaped_receive f 7 false h
  generalize receive s f 7 false = r at hr
  obtain ⟨_ | _, t⟩ := r <;> cases offer
  case true.some => exact .next (shaped_agreeKeys _ _ hr)
  all_goals exact .next hr

theorem shaped_takeBuddy {s : State} (h : FrameHeader) (handle : Word) (epoch wseq page : Nat) (data : List Byte)
    (hs : Shaped s) : Shaped (takeBuddy s h handle epoch wseq page data) := by
  unfold takeBuddy
  apply_rules [shaped_sendResponse, shaped_onRdg, shaped_ite]

theorem shaped_keepArriving {s : State} (handle : Word) (page : Nat) (parked : Bool) (data : List Byte)
    (h : Shaped s) : Shaped (keepArriving s handle page parked data) := by
  unfold keepArriving
  apply_rules [shaped_onRdg]

theorem shaped_takeMoving {s : State} (h : FrameHeader) (page : Nat) (parked : Bool) (data : List Byte)
    (hs : Shaped s) : Shaped (takeMoving s h page parked data) := by
  unfold takeMoving
  apply_rules [shaped_makeRoom, shaped_demoteFor, shaped_sendResponse, shaped_onRdg, shaped_ite]

theorem answersShaped_execPageData (f : Received) (kind : PageKind) (page : Nat) (data : List Byte) {s : State}
    (h : Shaped s) : AnswersShaped (execPageData f kind page data s) := by
  unfold execPageData
  refine answersShaped_afterClears h ?_
  have hr := shaped_receive f 8 true h
  generalize receive s f 8 true = r at hr
  obtain ⟨_ | _, t⟩ := r
  · exact .next hr
  · cases kind with
    | session parked => exact .next (shaped_takeMoving _ _ _ _ hr)
    | handed r =>
      have hu : Shaped (t.onRdg fun g => { g with arriving := g.arriving.filter fun a => a.handle != f.hdr.object }) :=
        shaped_onRdg rfl hr
      exact answersShaped_ite (.next (shaped_resumeHanded _ (shaped_installHanded _ _ hu))) (.next hu)
    | lent e => exact .next (shaped_ite (shaped_storeLent _ _ _ hr) hr)
    | buddy handle epoch wseq => exact .next (shaped_takeBuddy _ _ _ _ _ _ hr)
    | restored _ => exact .next (shaped_ite (shaped_keepArriving _ _ _ _ hr) hr)

theorem shaped_sendAgain {s : State} (addr : Nat) (h : Shaped s) : Shaped (sendAgain s addr) := by
  unfold sendAgain
  with_reducible repeat' first
    | assumption
    | intro _
    | apply shaped_onPort
    | apply shaped_enqueueFrame
    | apply shaped_onPeer
    | apply shaped_foldl

theorem answersShaped_execRetransmitTimeout (addr : Nat) {s : State} (h : Shaped s) :
    AnswersShaped (execRetransmitTimeout addr s) := by
  unfold execRetransmitTimeout
  split <;> apply_rules [AnswersShaped.next, shaped_sendAgain, shaped_ite]

theorem answersShaped_execKeepaliveSend {s : State} (h : Shaped s) : AnswersShaped (execKeepaliveSend s) := by
  unfold execKeepaliveSend
  with_reducible repeat' first
    | assumption
    | intro _
    | apply AnswersShaped.next
    | apply shaped_sendFrame
    | apply shaped_foldl
    | apply answersShaped_ite

theorem answersShaped_execPeerSuspect (addr : Nat) {s : State} (h : Shaped s) :
    AnswersShaped (execPeerSuspect addr s) := by
  unfold execPeerSuspect
  with_reducible repeat' first
    | assumption
    | apply AnswersShaped.next
    | apply shaped_sendFrame
    | apply shaped_onPeer
    | apply shaped_onRdg
    | split
    | dsimp only

theorem answersShaped_execPartDownDetect (part : Nat) {s : State} (h : Shaped s) :
    AnswersShaped (execPartDownDetect part s) := by
  unfold execPartDownDetect
  split <;> apply_rules [AnswersShaped.next, shaped_propose, shaped_ite, answersShaped_ite]

theorem answersShaped_execPeerLostTimeout (part : Nat) {s : State} (h : Shaped s) :
    AnswersShaped (execPeerLostTimeout part s) := by
  unfold execPeerLostTimeout
  split <;> apply_rules [AnswersShaped.next, shaped_losePeer, shaped_ite]

theorem answersShaped_execMapPropose (change : MapChange) {s : State} (h : Shaped s) :
    AnswersShaped (execMapPropose change s) := by
  unfold execMapPropose
  apply_rules [AnswersShaped.next, shaped_propose, answersShaped_ite]

theorem answersShaped_execMapCommit (changes : List (Nat × MapChange)) {s : State} (h : Shaped s) :
    AnswersShaped (execMapCommit changes s) := by
  unfold execMapCommit
  with_reducible repeat' first
    | assumption
    | intro _
    | apply AnswersShaped.next
    | apply shaped_proposalRejected
    | apply shaped_actEarly
    | apply shaped_applyCommit
    | apply shaped_sendFrame
    | apply shaped_onRdg
    | apply shaped_foldl
    | apply shaped_ite
    | apply rfl
    | apply answersShaped_ite

theorem answersShaped_execLeaderElection (winner term : Nat) {s : State} (h : Shaped s) :
    AnswersShaped (execLeaderElection winner term s) := by
  unfold execLeaderElection
  with_reducible repeat' first
    | assumption
    | intro _
    | apply AnswersShaped.next
    | apply shaped_sendFrame
    | apply shaped_onRdg
    | apply shaped_foldl
    | apply rfl
    | apply answersShaped_ite

theorem shaped_undoWait {s : State} (d : InFlight) (h : Shaped s) : Shaped (undoWait s d) := by
  unfold undoWait
  with_reducible repeat' first
    | assumption
    | intro _
    | apply shaped_onLent
    | apply shaped_undoRegionMap
    | apply shaped_withdraw
    | apply shaped_onRdg
    | apply shaped_foldl
    | apply shaped_ite
    | apply rfl
    | split

theorem answersShaped_execMapWaitTimeout (o : Origin) {s : State} (h : Shaped s) :
    AnswersShaped (execMapWaitTimeout o s) := by
  unfold execMapWaitTimeout
  repeat' split
  all_goals apply_rules [AnswersShaped.next, shaped_undoWait, shaped_complete]

theorem answersShaped_execEpochApplyTimeout (o : Nat) {s : State} (h : Shaped s) :
    AnswersShaped (execEpochApplyTimeout o s) := by
  unfold execEpochApplyTimeout
  split <;> apply_rules [AnswersShaped.next, shaped_sendResponse, shaped_onRdg]

theorem shaped_moveQueued {s : State} (h : Shaped s) : Shaped (moveQueued s) := by
  unfold moveQueued
  with_reducible repeat' first
    | assumption
    | intro _
    | apply shaped_enqueueFrame
    | apply shaped_onBellow
    | apply shaped_foldl

theorem answersShaped_execRidgePortStateChange (port state : Nat) {s : State} (h : Shaped s) :
    AnswersShaped (execRidgePortStateChange port state s) := by
  unfold execRidgePortStateChange
  with_reducible repeat' first
    | assumption
    | intro _
    | apply AnswersShaped.next
    | apply shaped_moveQueued
    | apply shaped_sendAgain
    | apply shaped_onPort
    | apply shaped_foldl
    | apply answersShaped_ite

theorem answersShaped_execLinkKeyExchange (addr : Nat) (offer : PeerOffer) {s : State} (h : Shaped s) :
    AnswersShaped (execLinkKeyExchange addr offer s) := by
  unfold execLinkKeyExchange
  apply_rules [AnswersShaped.next, shaped_agreeKeys]

theorem answersShaped_execLinkRekey (addr : Nat) {s : State} (h : Shaped s) :
    AnswersShaped (execLinkRekey addr s) := by
  unfold execLinkRekey
  apply_rules [AnswersShaped.next, shaped_drawKey, shaped_onPeer, answersShaped_ite]

theorem answersShaped_execTwinPropose (val : Word) {s : State} (h : Shaped s) :
    AnswersShaped (execTwinPropose val s) := by
  unfold execTwinPropose
  apply_rules [AnswersShaped.next, shaped_writeRegister, shaped_propose, shaped_onRdg, answersShaped_ite]

theorem shaped_agreeSecret {s : State} (h : Shaped s) : Shaped (agreeSecret s) := by
  unfold agreeSecret
  apply_rules [shaped_onFbx, shaped_onRdg, shaped_ite]

theorem answersShaped_execTwinInService {s : State} (h : Shaped s) : AnswersShaped (execTwinInService s) := by
  unfold execTwinInService
  with_reducible repeat' first
    | assumption
    | intro _
    | apply AnswersShaped.next
    | apply shaped_agreeSecret
    | apply shaped_sendFresh
    | apply shaped_sendSlotEntry
    | apply shaped_askTwin
    | apply shaped_onCrn
    | apply shaped_onRdg
    | apply shaped_foldl
    | apply rfl
    | apply answersShaped_ite

theorem shaped_loseRestoring {s : State} (h : Shaped s) : Shaped (loseRestoring s) := by
  unfold loseRestoring
  apply_rules [shaped_onSess]

theorem answersShaped_execTwinOutOfService {s : State} (h : Shaped s) : AnswersShaped (execTwinOutOfService s) := by
  unfold execTwinOutOfService
  with_reducible repeat' first
    | assumption
    | apply AnswersShaped.next
    | apply shaped_loseRestoring
    | apply shaped_settleAcks
    | apply shaped_onCrn
    | apply shaped_onSess
    | apply shaped_onRdg
    | apply shaped_foldl
    | apply rfl
    | apply answersShaped_ite

theorem shaped_listSlot {s : State} (e : SlotEntry) (h : Shaped s) : Shaped (listSlot s e) := by
  unfold listSlot
  repeat' split
  all_goals apply_rules [shaped_putSession]

theorem shaped_restoreOne {s : State} (r : Restored) (h : Shaped s) : Shaped (restoreOne s r) := by
  unfold restoreOne
  with_reducible repeat' first
    | assumption
    | apply shaped_installHanded
    | apply shaped_suspend
    | apply shaped_dropGrammar
    | apply shaped_freeSessionPages
    | apply shaped_sessionEvent
    | apply shaped_onCrn
    | apply shaped_onRdg
    | split
    | dsimp only

theorem answersShaped_execTwinRestore (floor : Nat) (entries : List SlotEntry) (sessions : List Restored)
    {s : State} (h : Shaped s) : AnswersShaped (execTwinRestore floor entries sessions s) := by
  unfold execTwinRestore
  with_reducible repeat' first
    | assumption
    | apply AnswersShaped.next
    | apply shaped_restoreOne
    | apply shaped_listSlot
    | apply answersShaped_afterClears
    | apply shaped_onSess
    | apply shaped_foldl
    | apply rfl
    | apply answersShaped_ite

theorem answersShaped_execTakeover (standby : Nat) {s : State} (h : Shaped s) :
    AnswersShaped (execTakeover standby s) := by
  unfold execTakeover
  split
  · exact answersShaped_ite (.next h) (.next (shaped_onCrn _ (shaped_foldl h fun _ _ => shaped_propose _)))
  · exact .next h

theorem shaped_haltArmer {s : State} (o : Origin) (addr : Nat) (h : Shaped s) : Shaped (haltArmer s o addr) := by
  unfold haltArmer
  split <;> apply_rules [shaped_dmaHalt]

/-- The state that the writing of a cairn leaves, where it wrote (R359). -/
def CairnEndShaped : CairnEnd → Prop
  | .tooLarge => True
  | .failed s => Shaped s
  | .sealed s _ => Shaped s

theorem cairnEndShaped_writeCairn {s : State} (x : Session) (c : Schedule) (held : List CairnObject) (writeOk : Bool)
    (h : Shaped s) : CairnEndShaped (writeCairn s x c held writeOk) := by
  unfold writeCairn
  dsimp only
  split
  · trivial
  split
  · exact shaped_haltArmer _ _ (shaped_onSession _ _ (shaped_deliver _ _ _ h))
  · exact shaped_onCrn _ (shaped_onSession _ _ (shaped_deliver _ _ _ (shaped_deliver _ _ _
      (shaped_foldl (shaped_deliver _ _ _ h) fun _ _ h => shaped_deliver _ _ _ h))))

/-- What kvForCairn answers, each with a state that stays well shaped. -/
def CairnKvShaped : Except (State × Status) (State × Session × List Status) → Prop
  | .error r => Shaped r.1
  | .ok r => Shaped r.1

theorem CairnKvShaped.of_error {r : Except (State × Status) (State × Session × List Status)} {t : State} {st : Status}
    (h : CairnKvShaped r) (hr : r = .error (t, st)) : Shaped t := by subst hr; exact h

theorem CairnKvShaped.of_ok {r : Except (State × Status) (State × Session × List Status)} {t : State} {y : Session}
    {cs : List Status} (h : CairnKvShaped r) (hr : r = .ok (t, y, cs)) : Shaped t := by subst hr; exact h

theorem cairnKvShaped_kvForCairn {s : State} (x : Session) (kv : Bool) (how : Recovery) (deadline : Option Nat)
    (h : Shaped s) : CairnKvShaped (kvForCairn s x kv how deadline) := by
  unfold kvForCairn
  split
  · exact h
  · have hready := recoveryShaped_recover (beginOn s x).2 how deadline (shaped_beginOn x h)
    dsimp only
    generalize recover (beginOn s x).1 (beginOn s x).2 how deadline = r at hready
    cases r <;> exact hready

theorem answersShaped_execCairnWrite (w : Start) (held : List CairnObject) (writeOk : Bool) {s : State}
    (h : Shaped s) : AnswersShaped (execCairnWrite w held writeOk s) := by
  unfold execCairnWrite
  refine answersShaped_afterClears h ?_
  split
  · exact .next h
  · exact .next (shaped_refuse _ _ _ h)
  · rename_i d x _
    have hkv := cairnKvShaped_kvForCairn x (cairnKv d.raw) w.how d.deadline h
    split
    · exact .next h
    split
    · exact .next (shaped_refuse _ _ _ h)
    split
    · exact .next (shaped_refuse _ _ _ (hkv.of_error ‹_›))
    · rename_i t y conds hok
      have hin := hkv.of_ok hok
      have hend := cairnEndShaped_writeCairn y (scheduleOf w.origin d.raw t.localNs) held writeOk hin
      split
      all_goals
        rename_i heq
        rw [heq] at hend
      · exact .next (shaped_refuse _ _ _ hin)
      · exact .next (shaped_refuse _ _ _ hend)
      · exact .next (shaped_complete _ _ _ hend)

theorem answersShaped_execCairnArm (o : Origin) {s : State} (h : Shaped s) : AnswersShaped (execCairnArm o s) := by
  unfold execCairnArm
  with_reducible repeat' first
    | assumption
    | apply AnswersShaped.next
    | apply shaped_refuse
    | apply shaped_complete
    | apply shaped_onSession
    | split

theorem answersShaped_execCairnDisarm (o : Origin) {s : State} (h : Shaped s) :
    AnswersShaped (execCairnDisarm o s) := by
  unfold execCairnDisarm
  with_reducible repeat' first
    | assumption
    | apply AnswersShaped.next
    | apply shaped_refuse
    | apply shaped_complete
    | apply shaped_onSession
    | split

theorem shaped_cairnFailed {s : State} (h : Shaped s) : Shaped (cairnFailed s) := by
  unfold cairnFailed
  apply_rules [shaped_onCrn]

theorem answersShaped_execCairnDue (w : Due) (held : List CairnObject) (writeOk : Bool) {s : State} (h : Shaped s) :
    AnswersShaped (execCairnDue w held writeOk s) := by
  unfold execCairnDue
  refine answersShaped_afterClears h ?_
  split
  · exact .next h
  split
  · exact .next h
  rename_i x _ _ c _
  have hkv := cairnKvShaped_kvForCairn x c.kv w.how none h
  split
  · exact .next h
  split
  · exact .next (shaped_cairnFailed (hkv.of_error ‹_›))
  · have hin := hkv.of_ok ‹_›
    have hend := cairnEndShaped_writeCairn ‹Session› c held writeOk hin
    split
    all_goals
      rename_i heq
      rw [heq] at hend
    · exact .next (shaped_cairnFailed (shaped_onSession _ _ hin))
    · exact .next (shaped_cairnFailed hend)
    · exact .next hend

theorem answersShaped_execEarlyWarningCheck (foothill ridge : Nat) {s : State} (h : Shaped s) :
    AnswersShaped (execEarlyWarningCheck foothill ridge s) := by
  unfold execEarlyWarningCheck
  apply_rules [AnswersShaped.next, shaped_onCrn, shaped_onSess, shaped_onHrt, answersShaped_ite]

theorem shaped_of_cairnKvIn_error {s t : State} {r : Restored} {key : Nat} {pages : List (Nat × List Byte)}
    (ht : cairnKvIn s r key pages = .error t) (h : Shaped s) : Shaped t := by
  unfold cairnKvIn at ht
  dsimp only at ht
  split at ht
  · cases ht
  split at ht
  · split at ht <;> cases ht
    exact shaped_makeRoom _ h
  · split at ht <;> cases ht
    exact shaped_makeRoom _ h

theorem shaped_of_cairnKvIn_ok {s t : State} {r : Restored} {key : Nat} {pages : List (Nat × List Byte)}
    {cs : List Status} (ht : cairnKvIn s r key pages = .ok (t, cs)) (h : Shaped s) : Shaped t := by
  have hin := fun {u : State} (hu : Shaped u) x => shaped_installSession x (shaped_useHandedGrammar r hu)
  unfold cairnKvIn at ht
  dsimp only at ht
  split at ht
  · cases ht
    exact hin h _
  split at ht
  · split at ht <;> cases ht
    exact shaped_of_rebuildOnce ‹_› (hin (shaped_makeRoom _ h) _)
  · split at ht <;> cases ht
    rename_i u got hgot
    have hplaced := shaped_of_placePages (Option.ite_none_right_eq_some.mp hgot).2 (hin (shaped_makeRoom _ h) _)
    refine shaped_sendFresh _ _ (shaped_onSession _ _ (shaped_foldl hplaced fun s p h => ?_))
    split
    · exact shaped_writeFrame _ _ h
    · exact h

theorem shaped_of_restoreCairn_error {s t : State} {d : InFlight} {c : CairnSlot} {slots : List (Nat × Nat)}
    {stagesFit : Bool} {slot : Nat} {cs : List Status}
    (ht : restoreCairn s d c slots stagesFit slot = .error (t, cs)) (h : Shaped s) : Shaped t := by
  unfold restoreCairn at ht
  dsimp only at ht
  split at ht
  · split at ht
    · cases ht
      exact h
    · split at ht <;> cases ht
      exact shaped_of_cairnKvIn_error ‹_› (shaped_drawKey h)
  · cases ht
    exact h

theorem shaped_of_restoreCairn_ok {s t : State} {d : InFlight} {c : CairnSlot} {slots : List (Nat × Nat)}
    {stagesFit : Bool} {slot : Nat} {cs : List Status} {k : Word}
    (ht : restoreCairn s d c slots stagesFit slot = .ok (t, cs, k)) (h : Shaped s) : Shaped t := by
  unfold restoreCairn at ht
  dsimp only at ht
  split at ht
  · split at ht
    · cases ht
    · split at ht <;> cases ht
      have hin := shaped_of_cairnKvIn_ok ‹_› (shaped_drawKey h)
      split
      · exact shaped_onImage _ _ hin
      · exact hin
  · cases ht

theorem answersShaped_execCairnRestore (o : Origin) (a b : CairnSlot) (stagesFit : Bool) (slot : Nat) {s : State}
    (h : Shaped s) : AnswersShaped (execCairnRestore o a b stagesFit slot s) := by
  unfold execCairnRestore
  refine answersShaped_afterClears h ?_
  split
  · exact .next h
  split
  · exact .next h
  split
  · exact .next (shaped_refuse _ _ _ h)
  split
  · exact .next (shaped_refuse _ _ _ h)
  dsimp only
  split
  · exact .next (shaped_complete _ _ _ (shaped_of_restoreCairn_error ‹_› h))
  · have ht := shaped_of_restoreCairn_ok ‹_› h
    exact .next (shaped_ite (shaped_complete _ _ _ ht) h)

theorem shaped_spdmAnswer {s : State} (r : SpdmReply) (h : Shaped s) : Shaped (spdmAnswer s r) := by
  unfold spdmAnswer
  apply_rules [shaped_emit]

theorem shaped_onSpdm {s : State} (f : Spdm → Spdm) (h : Shaped s) : Shaped (onSpdm s f) := by
  unfold onSpdm
  apply_rules [shaped_onFbx]

theorem answersShaped_execGetVersion {s : State} (h : Shaped s) : AnswersShaped (execGetVersion s) := by
  unfold execGetVersion
  apply_rules [AnswersShaped.next, shaped_onSpdm, shaped_spdmAnswer]

theorem answersShaped_execGetCapabilities {s : State} (h : Shaped s) : AnswersShaped (execGetCapabilities s) := by
  unfold execGetCapabilities
  apply_rules [AnswersShaped.next, shaped_onSpdm, shaped_spdmAnswer, answersShaped_ite]

theorem answersShaped_execNegotiateAlgorithms (ecdsaP384 sha384 : Bool) {s : State} (h : Shaped s) :
    AnswersShaped (execNegotiateAlgorithms ecdsaP384 sha384 s) := by
  unfold execNegotiateAlgorithms
  apply_rules [AnswersShaped.next, shaped_onSpdm, shaped_spdmAnswer, answersShaped_ite]

theorem answersShaped_execGetDigests {s : State} (h : Shaped s) : AnswersShaped (execGetDigests s) := by
  unfold execGetDigests
  apply_rules [AnswersShaped.next, shaped_spdmAnswer]

theorem answersShaped_execGetCertificate (slot offset length : Nat) {s : State} (h : Shaped s) :
    AnswersShaped (execGetCertificate slot offset length s) := by
  unfold execGetCertificate
  apply_rules [AnswersShaped.next, shaped_spdmAnswer]

theorem answersShaped_execChallenge (slot : Nat) (nonce : BitVec 256) {s : State} (h : Shaped s) :
    AnswersShaped (execChallenge slot nonce s) := by
  unfold execChallenge
  apply_rules [AnswersShaped.next, shaped_spdmAnswer]

theorem answersShaped_execGetMeasurements (index : Nat) (nonce : BitVec 256) {s : State} (h : Shaped s) :
    AnswersShaped (execGetMeasurements index nonce s) := by
  unfold execGetMeasurements
  apply_rules [AnswersShaped.next, shaped_spdmAnswer]

theorem answersShaped_execSpdmUnsupportedRequest (_code : Nat) {s : State} (h : Shaped s) :
    AnswersShaped (execSpdmUnsupportedRequest _code s) := by
  unfold execSpdmUnsupportedRequest
  apply_rules [AnswersShaped.next, shaped_spdmAnswer]

theorem answersShaped_execTrngHealthFail {s : State} (h : Shaped s) : AnswersShaped (execTrngHealthFail s) := by
  unfold execTrngHealthFail
  apply_rules [AnswersShaped.next, shaped_onFbx]

theorem answersShaped_execTenantCounterRefresh (tenant : Nat) {s : State} (h : Shaped s) :
    AnswersShaped (execTenantCounterRefresh tenant s) := by
  unfold execTenantCounterRefresh
  split <;> apply_rules [AnswersShaped.next, shaped_onHost, answersShaped_ite]

theorem answersShaped_execTenantPowerRefresh (watts : Nat) {s : State} (h : Shaped s) :
    AnswersShaped (execTenantPowerRefresh watts s) := by
  unfold execTenantPowerRefresh
  apply_rules [AnswersShaped.next, shaped_onHost, answersShaped_ite]

theorem shaped_startFrame {s : State} (port : Nat) (f : OutFrame) (h : Shaped s) : Shaped (startFrame s port f) := by
  unfold startFrame
  apply_rules [shaped_onPeer, shaped_emit]

theorem shaped_noteDefers {s : State} (n : Nat) (h : Shaped s) : Shaped (noteDefers s n) := by
  unfold noteDefers
  apply_rules [shaped_onBellow]

theorem shaped_ridgeBoundary {s : State} (n : Nat) (h : Shaped s) : Shaped (ridgeBoundary s n) := by
  unfold ridgeBoundary
  with_reducible repeat' first
    | assumption
    | apply shaped_noteDefers
    | apply shaped_startFrame
    | apply shaped_onClass
    | apply shaped_onBellow
    | split
    | dsimp only

theorem shaped_putFlue {s : State} (cls q : Nat) (r : FlueRecord) (h : Shaped s) : Shaped (putFlue s cls q r) := by
  unfold putFlue
  apply_rules [shaped_signalEntry, shaped_onQp, shaped_emit]

theorem shaped_flueBoundary {s : State} (h : Shaped s) : Shaped (flueBoundary s) := by
  unfold flueBoundary
  with_reducible repeat' first
    | assumption
    | apply shaped_putFlue
    | apply shaped_finishEnded
    | apply shaped_onClass
    | apply shaped_onBellow
    | split
    | dsimp only

theorem answersShaped_execBellowsFrameBoundary (port : Nat) {s : State} (h : Shaped s) :
    AnswersShaped (execBellowsFrameBoundary port s) := by
  unfold execBellowsFrameBoundary
  apply_rules [AnswersShaped.next, shaped_flueBoundary, shaped_ridgeBoundary, answersShaped_ite]

theorem answersShaped_execGateEntryBoundary (port : Nat) {s : State} (h : Shaped s) :
    AnswersShaped (execGateEntryBoundary port s) := by
  unfold execGateEntryBoundary
  with_reducible repeat' first
    | assumption
    | apply AnswersShaped.next
    | apply shaped_onBellow
    | split
    | dsimp only

theorem answersShaped_execGclCommit (val : Word) {s : State} (h : Shaped s) : AnswersShaped (execGclCommit val s) := by
  unfold execGclCommit
  apply_rules [AnswersShaped.next, shaped_commitGates, shaped_ite]

theorem answersShaped_execGclDiscard (val : Word) {s : State} (h : Shaped s) :
    AnswersShaped (execGclDiscard val s) := by
  unfold execGclDiscard
  apply_rules [AnswersShaped.next, shaped_discardGates, shaped_ite]

theorem answersShaped_execGclTakeEffect (port : Nat) {s : State} (h : Shaped s) :
    AnswersShaped (execGclTakeEffect port s) := by
  unfold execGclTakeEffect
  with_reducible repeat' first
    | assumption
    | apply AnswersShaped.next
    | apply shaped_onBellow
    | split
    | dsimp only

theorem answersShaped_execShaperWrite (val : Word) {s : State} (h : Shaped s) :
    AnswersShaped (execShaperWrite val s) := by
  unfold execShaperWrite
  apply_rules [AnswersShaped.next, shaped_writeShape, shaped_ite]

theorem answersShaped_execDamperWrite (reg : Nat) (val : Word) {s : State} (h : Shaped s) :
    AnswersShaped (execDamperWrite reg val s) := by
  unfold execDamperWrite
  apply_rules [AnswersShaped.next, shaped_writeDamper, shaped_ite]

theorem shaped_injectWrite {s : State} (val : Word) (kind : Nat) {f : State → State}
    (hf : ∀ t, Shaped t → Shaped (f t)) (h : Shaped s) : Shaped (injectWrite s val kind f) :=
  shaped_ite h (shaped_ite (shaped_onDgn _ h) (hf _ (shaped_onDgn _ h)))

theorem shaped_armFault {s : State} (h : Shaped s) : Shaped (armFault s) := shaped_onDgn _ h

theorem answersShaped_execInjectDisarm (val : Word) {s : State} (h : Shaped s) :
    AnswersShaped (execInjectDisarm val s) := .next (shaped_injectWrite val 0 (fun _ => shaped_onDgn _) h)

theorem answersShaped_execInjectCorrectedError (val : Word) {s : State} (h : Shaped s) :
    AnswersShaped (execInjectCorrectedError val s) := .next (shaped_injectWrite val 1 (fun _ => shaped_armFault) h)

theorem answersShaped_execInjectUncorrectableError (val : Word) {s : State} (h : Shaped s) :
    AnswersShaped (execInjectUncorrectableError val s) := .next (shaped_injectWrite val 2 (fun _ => shaped_armFault) h)

theorem answersShaped_execInjectPageCheckFail (val : Word) {s : State} (h : Shaped s) :
    AnswersShaped (execInjectPageCheckFail val s) := .next (shaped_injectWrite val 3 (fun _ => shaped_armFault) h)

theorem answersShaped_execInjectFrameTagFail (val : Word) {s : State} (h : Shaped s) :
    AnswersShaped (execInjectFrameTagFail val s) := .next (shaped_injectWrite val 4 (fun _ => shaped_armFault) h)

theorem answersShaped_execInjectSupplyHold (val : Word) {s : State} (h : Shaped s) :
    AnswersShaped (execInjectSupplyHold val s) :=
  .next (shaped_injectWrite val 5 (fun _ ht =>
    shaped_faultStruck 5 (shaped_ite ht (shaped_onPwr rfl (shaped_beginHold true [] ht)))) h)

end Sys2Proof.Machine
end

section
/-!
SUPPORT. That each step keeps the shape of the state, function by function in the order of the model: 
slices, direct commands, firmware, the pool and the regions, queue-pair commands and tiers.
-/

namespace Sys2Proof.Machine

theorem answersShaped_execWorkTableWrite (ember entry : Nat) (val : BitVec 128) {s : State} (h : Shaped s) :
    AnswersShaped (execWorkTableWrite ember entry val s) := by
  unfold execWorkTableWrite
  apply_rules [AnswersShaped.next, shaped_onEmber, answersShaped_ite]

theorem answersShaped_execIdle (summit : Nat) (cmd : Broadcast) {s : State} (h : Shaped s) :
    AnswersShaped (execIdle summit cmd s) := by
  unfold execIdle
  with_reducible repeat' first
    | assumption
    | intro _
    | apply AnswersShaped.next
    | apply shaped_runCommand

theorem shaped_matvecSlice (summit : Nat) (c : BitVec 64) (errs : List ReadError) {s : State} (e : Nat)
    (w : BitVec 128) (h : Shaped s) : Shaped (matvecSlice summit c errs s e w) := by
  unfold matvecSlice
  apply_rules [shaped_readRows, shaped_onHrt, shaped_ite]

theorem answersShaped_execMatvec (summit : Nat) (cmd : Broadcast) (acts : List Byte) (scales : List (BitVec 32))
    (errs : List ReadError) {s : State} (h : Shaped s) : AnswersShaped (execMatvec summit cmd acts scales errs s) := by
  unfold execMatvec
  apply_rules [AnswersShaped.next, shaped_matvecSlice, shaped_runCommand]

theorem shaped_scoreSlice (summit : Nat) (c : BitVec 64) (errs : List ReadError) {s : State} (e : Nat)
    (w : BitVec 128) (h : Shaped s) : Shaped (scoreSlice summit c errs s e w) := by
  unfold scoreSlice
  apply_rules [shaped_readRows, shaped_onEmber, shaped_ite]

theorem answersShaped_execScore (summit : Nat) (cmd : Broadcast) (acts : List Byte) (scales : List (BitVec 32))
    (errs : List ReadError) {s : State} (h : Shaped s) : AnswersShaped (execScore summit cmd acts scales errs s) := by
  unfold execScore
  apply_rules [AnswersShaped.next, shaped_scoreSlice, shaped_runCommand]

theorem shaped_bindotSlice (summit : Nat) (c : BitVec 64) (errs : List ReadError) {s : State} (e : Nat)
    (w : BitVec 128) (h : Shaped s) : Shaped (bindotSlice summit c errs s e w) := by
  unfold bindotSlice
  apply_rules [shaped_readRows, shaped_onEmber, shaped_ite]

theorem answersShaped_execBindot (summit : Nat) (cmd : Broadcast) (acts : List Byte) (errs : List ReadError)
    {s : State} (h : Shaped s) : AnswersShaped (execBindot summit cmd acts errs s) := by
  unfold execBindot
  apply_rules [AnswersShaped.next, shaped_bindotSlice, shaped_runCommand]

theorem shaped_kvwriteSlice (summit : Nat) (c : BitVec 64) (errs : List ReadError) {s : State} (e : Nat) (w : BitVec 128)
    (h : Shaped s) : Shaped (kvwriteSlice summit c errs s e w) := by
  unfold kvwriteSlice
  dsimp only
  generalize hr : readRows s e _ false _ = p
  have hp : Shaped p.1 := hr ▸ shaped_readRows _ _ _ _ h
  exact shaped_ite hp (shaped_emberStore _ (fun _ => memWriteAll_wf _ _ _) hp)

theorem answersShaped_execKvwrite (summit : Nat) (cmd : Broadcast) (acts : List Byte) (saturated : Nat)
    (errs : List ReadError) {s : State} (h : Shaped s) :
    AnswersShaped (execKvwrite summit cmd acts saturated errs s) := by
  have hrun := shaped_runCommand (body := kvwriteSlice summit cmd.word errs) summit 4 cmd.word acts [] cmd.reqs false
    (fun _ => []) (fun _ _ _ => shaped_kvwriteSlice summit cmd.word errs _ _) h
  exact .next (shaped_ite (shaped_onDgn _ hrun) hrun)

theorem shaped_summarySlice (errs : List ReadError) {s : State} (e : Nat) (w : BitVec 128) (h : Shaped s) :
    Shaped (summarySlice errs s e w) := by
  unfold summarySlice
  have hr := shaped_readRows e (sliceRows w) false errs h
  exact shaped_ite hr (shaped_emberStore _ (fun _ => memWriteAll_wf _ _ _) hr)

theorem answersShaped_execSummary (summit : Nat) (cmd : Broadcast) (errs : List ReadError) {s : State}
    (h : Shaped s) : AnswersShaped (execSummary summit cmd errs s) := by
  unfold execSummary
  apply_rules [AnswersShaped.next, shaped_summarySlice, shaped_runCommand]

theorem shaped_topkSlice (summit : Nat) (c : BitVec 64) {s : State} (e : Nat) (w : BitVec 128) (h : Shaped s) :
    Shaped (topkSlice summit c s e w) := by
  unfold topkSlice
  apply_rules [shaped_onEmber]

theorem answersShaped_execTopkLocal (summit : Nat) (cmd : Broadcast) {s : State} (h : Shaped s) :
    AnswersShaped (execTopkLocal summit cmd s) := by
  unfold execTopkLocal
  apply_rules [AnswersShaped.next, shaped_topkSlice, shaped_runCommand]

theorem shaped_zeroRows {s : State} (e : Nat) (rows : List Nat) (h : Shaped s) : Shaped (zeroRows s e rows) :=
  shaped_emberStore _ (fun _ hm => List.foldlRecOn (motive := fun m => Memory.wf m = true) rows _ hm
    fun _ hm _ _ => memZero_wf _ _ _ hm) h

theorem shaped_verifyRows {s : State} (e : Nat) (rows : List Nat) (h : Shaped s) : Shaped (verifyRows s e rows) := by
  unfold verifyRows
  apply_rules [shaped_onTie]

theorem shaped_clearSlice (summit slackNs : Nat) (errs : List ReadError) {s : State} (e : Nat) (w : BitVec 128)
    (h : Shaped s) : Shaped (clearSlice summit slackNs errs s e w) := by
  unfold clearSlice
  refine shaped_ite h ?_
  have hp := shaped_spendClear e (eRows w) (if bit (eParam w) 0 then 180 else 100) slackNs h
  generalize spendClear s e (eRows w) (if bit (eParam w) 0 then 180 else 100) slackNs = p at hp
  obtain ⟨t, n⟩ := p
  have hz := shaped_zeroRows e ((sliceRows w).take n) hp
  refine shaped_ite hz (shaped_verifyRows _ _ ?_)
  refine List.foldlRecOn (motive := fun a : State × List Nat => Shaped a.1) _ _ hz fun a ha r _ => ?_
  have hi := shaped_isolation 3 (eTenant w) ha
  dsimp only
  split
  · exact shaped_beginRetire _ hi
  · exact shaped_repairRow _ _ hi

theorem answersShaped_execClear (summit : Nat) (cmd : Broadcast) (slackNs : Nat) (errs : List ReadError) {s : State}
    (h : Shaped s) : AnswersShaped (execClear summit cmd slackNs errs s) := by
  unfold execClear
  apply_rules [AnswersShaped.next, shaped_clearSlice, shaped_runCommand]

theorem shaped_copySlice (errs : List ReadError) {s : State} (e : Nat) (w : BitVec 128) (h : Shaped s) :
    Shaped (copySlice errs s e w) := by
  unfold copySlice
  have hr := shaped_readRows e (sliceRows w) false errs h
  refine shaped_ite hr (shaped_emberStore _ (fun _ hm => ?_) hr)
  exact List.foldlRecOn (motive := fun m => Memory.wf m = true) _ _ hm
    fun _ hm _ _ => memWriteAll_wf _ _ _ (memZero_wf _ _ _ hm)

theorem answersShaped_execCopyrow (summit : Nat) (cmd : Broadcast × List ReadError) {s : State} (h : Shaped s) :
    AnswersShaped (execCopyrow summit cmd s) :=
  .next (shaped_runCommand _ _ _ _ _ _ _ _ (fun _ _ _ => shaped_copySlice _ _ _) h)

theorem answersShaped_execRefreshDue (summit : Nat) {s : State} (h : Shaped s) :
    AnswersShaped (execRefreshDue summit s) := by
  unfold execRefreshDue
  repeat' split
  all_goals apply_rules [AnswersShaped.next, shaped_onHrt, answersShaped_ite]

theorem answersShaped_execPatrolScrub (ember row slackNs : Nat) (errs : List ReadError) {s : State} (h : Shaped s) :
    AnswersShaped (execPatrolScrub ember row slackNs errs s) := by
  unfold execPatrolScrub
  apply_rules [AnswersShaped.next, shaped_spendClear, shaped_readRows, answersShaped_ite]

theorem answersShaped_execRetireBank (ember : Nat) {s : State} (h : Shaped s) :
    AnswersShaped (execRetireBank ember s) := by
  unfold execRetireBank
  apply_rules [AnswersShaped.next, shaped_beginRetire, answersShaped_ite]

theorem shaped_losePages {s : State} (e : Nat) (h : Shaped s) : Shaped (losePages s e) := by
  unfold losePages
  with_reducible repeat' first
    | assumption
    | intro _
    | apply shaped_freeFrames
    | apply shaped_setPage
    | apply shaped_foldl

theorem answersShaped_execBankRetireComplete (ember : Nat) {s : State} (h : Shaped s) :
    AnswersShaped (execBankRetireComplete ember s) := by
  unfold execBankRetireComplete
  with_reducible repeat' first
    | assumption
    | apply AnswersShaped.next
    | apply shaped_losePages
    | apply shaped_vacateBank
    | apply shaped_writeTables
    | apply shaped_onEmber
    | apply shaped_logEvent
    | apply shaped_foldl
    | apply answersShaped_ite

theorem answersShaped_execDirectModeSet (val : Word) {s : State} (h : Shaped s) :
    AnswersShaped (execDirectModeSet val s) := by
  unfold execDirectModeSet
  apply_rules [AnswersShaped.next, shaped_writeDieMode, answersShaped_ite]

theorem shaped_dmcEnd {s : State} (result row count bank : Nat) (h : Shaped s) :
    Shaped (dmcEnd s result row count bank) := by
  unfold dmcEnd
  apply_rules [shaped_onHrt]

theorem shaped_dmcRun {s : State} (val : Word) (op : Nat) {run : State → Nat → State × Option (Nat × Nat × Nat)}
    (hrun : ∀ s e, Shaped s → Shaped (run s e).1) (h : Shaped s) : Shaped (dmcRun s val op run) := by
  unfold dmcRun
  refine shaped_ite h (shaped_ite (shaped_dmcEnd _ _ _ _ h) ?_)
  generalize hf : (dmcBanks s).foldl _ (s, none) = p
  have hp : Shaped p.1 := by
    rw [← hf]
    refine List.foldlRecOn (motive := fun a : State × Option (Nat × Nat × Nat × Nat) => Shaped a.1) _ _ h
      fun a ha e _ => ?_
    have hr := hrun a.1 e ha
    generalize run a.1 e = q at hr
    dsimp only
    split <;> exact hr
  obtain ⟨t, fail⟩ := p
  cases fail <;> exact shaped_dmcEnd _ _ _ _ hp

theorem answersShaped_execPatternWrite (val : Word) {s : State} (h : Shaped s) :
    AnswersShaped (execPatternWrite val s) := by
  refine .next (shaped_dmcRun _ _ (fun s e hs => ?_) h)
  dsimp only
  refine shaped_writesMemory (fun hm => ?_) hs
  exact List.foldlRecOn (motive := fun m => Memory.wf m = true) _ _ hm
    fun _ hm _ _ => memWriteAll_wf _ _ _ (memZero_wf _ _ _ hm)

theorem answersShaped_execPatternCheck (c : DirectRead) {s : State} (h : Shaped s) :
    AnswersShaped (execPatternCheck c s) := by
  unfold execPatternCheck
  with_reducible repeat' first
    | assumption
    | intro _
    | apply AnswersShaped.next
    | apply shaped_dmcRun
    | apply shaped_onEmber
    | split
    | dsimp only

theorem answersShaped_execEmberTest (val : Word) (failing : List Nat) {s : State} (h : Shaped s) :
    AnswersShaped (execEmberTest val failing s) := by
  unfold execEmberTest
  with_reducible repeat' first
    | assumption
    | intro _
    | apply AnswersShaped.next
    | apply shaped_dmcRun
    | apply shaped_onEmber
    | split

theorem answersShaped_execUcodeLoad (val : Word) {s : State} (h : Shaped s) : AnswersShaped (execUcodeLoad val s) := by
  unfold execUcodeLoad
  with_reducible repeat' first
    | assumption
    | intro _
    | apply AnswersShaped.next
    | apply shaped_dmcRun
    | apply shaped_onEmber
    | split
    | dsimp only

theorem answersShaped_execRowRepair (val : Word) {s : State} (h : Shaped s) : AnswersShaped (execRowRepair val s) := by
  unfold execRowRepair
  with_reducible repeat' first
    | assumption
    | intro _
    | apply AnswersShaped.next
    | apply shaped_dmcRun
    | apply shaped_repairRow
    | split

theorem answersShaped_execMarginScan (val : Word) (fails : List (Nat × Nat)) {s : State} (h : Shaped s) :
    AnswersShaped (execMarginScan val fails s) := by
  unfold execMarginScan
  with_reducible repeat' first
    | assumption
    | intro _
    | apply AnswersShaped.next
    | apply shaped_dmcRun
    | split
    | dsimp only

theorem answersShaped_execDmcReturn (val : Word) {s : State} (h : Shaped s) : AnswersShaped (execDmcReturn val s) := by
  unfold execDmcReturn
  with_reducible repeat' first
    | assumption
    | intro _
    | apply AnswersShaped.next
    | apply shaped_dmcRun
    | apply shaped_onEmber
    | split
    | dsimp only

theorem answersShaped_execDmcBadOperation (val : Word) {s : State} (h : Shaped s) :
    AnswersShaped (execDmcBadOperation val s) := by
  unfold execDmcBadOperation
  apply_rules [AnswersShaped.next, shaped_dmcEnd, answersShaped_ite]

theorem discardDownload_slots_length (f : Firmware) (target : Nat) :
    (discardDownload f target).slots.length = f.slots.length := by
  unfold discardDownload setDownload
  split <;> rfl

theorem voidArea_slots_length (f : Firmware) (target : Nat) : (voidArea f target).slots.length = f.slots.length := by
  unfold voidArea
  split <;> simp

theorem openFor_slots_length (f : Firmware) (target id : Nat) : (openFor f target id).slots.length = f.slots.length := by
  unfold openFor
  split
  · split
    · rfl
    · exact (voidArea_slots_length _ _).trans (discardDownload_slots_length f target)
  · exact voidArea_slots_length _ _

theorem answersShaped_execFwBlockWrite (o : Origin) (digest : BitVec 384) (data : List Byte) (flashOk : Bool) {s : State}
    (h : Shaped s) : AnswersShaped (execFwBlockWrite o digest data flashOk s) := by
  unfold execFwBlockWrite
  split
  · exact .next h
  refine answersShaped_ite (.next (shaped_refuse _ _ _ h)) (answersShaped_ite (.next (shaped_refuse _ _ _ h))
    (answersShaped_ite (.next (shaped_refuse _ _ _ h)) ?_))
  rename_i d _
  have ho : Shaped (s.onFwu fun f => openFor f (fwTarget d.raw) (fwId d.raw)) :=
    shaped_onFwu (openFor_slots_length _ _ _) h
  refine answersShaped_ite (.next (shaped_refuse _ _ _ ho)) ?_
  dsimp only
  split
  · exact .next ho
  · exact .next (shaped_complete _ _ _ (shaped_onFwu (by rfl) ho))

theorem shaped_acceptImage {s : State} (img : List Byte) (h : Shaped s) : Shaped (acceptImage s img) :=
  shaped_onFwu (by simp) h

theorem answersShaped_execFwBlockVerify (o : Origin) {s : State} (h : Shaped s) :
    AnswersShaped (execFwBlockVerify o s) := by
  unfold execFwBlockVerify
  have hrefuse : ∀ st r, AnswersShaped (.next (refuse s o st r)) := fun _ _ => .next (shaped_refuse _ _ _ h)
  repeat' first
    | exact .next h
    | apply hrefuse
    | exact .next (shaped_complete _ _ _ (shaped_acceptImage _ h))
    | exact .next (shaped_complete _ _ _ (shaped_onFwu (by rfl) h))
    | exact .next (shaped_complete _ _ _ (shaped_onFbx _ (shaped_onFwu (by rfl) h)))
    | split
    | dsimp only

theorem answersShaped_execFwBlockActivate (o : Origin) {s : State} (h : Shaped s) :
    AnswersShaped (execFwBlockActivate o s) := by
  unfold execFwBlockActivate
  with_reducible repeat' first
    | assumption
    | apply AnswersShaped.next
    | apply shaped_actOnEpoch
    | apply shaped_markRunning
    | apply shaped_refuse
    | apply shaped_complete
    | apply shaped_onDescriptor
    | apply shaped_propose
    | apply shaped_onFwu
    | apply rfl
    | apply answersShaped_ite
    | split

theorem answersShaped_execFwBlockAbort (o : Origin) {s : State} (h : Shaped s) :
    AnswersShaped (execFwBlockAbort o s) := by
  unfold execFwBlockAbort
  split
  · exact .next h
  refine answersShaped_ite (.next (shaped_refuse _ _ _ h)) (answersShaped_ite (.next (shaped_refuse _ _ _ h))
    (.next (shaped_complete _ _ _ ?_)))
  generalize hd : s.onFwu _ = t
  have ht : Shaped t := by
    rw [← hd]
    refine shaped_onFwu ?_ h
    split
    · simp
    · exact discardDownload_slots_length _ _
  exact shaped_ite (shaped_onFwu (by simp) ht) ht

theorem shaped_switchEvent {s : State} (h : Shaped s) : Shaped (switchEvent s) := by
  unfold switchEvent
  with_reducible repeat' first
    | assumption
    | intro _
    | apply shaped_logEvent
    | apply shaped_writeFlight
    | apply shaped_foldl

theorem answersShaped_execFirmwareSwitch {s : State} (h : Shaped s) : AnswersShaped (execFirmwareSwitch s) := by
  unfold execFirmwareSwitch
  apply_rules [AnswersShaped.next, shaped_switchEvent, shaped_resumeSteps, shaped_switchImage, shaped_ite,
      answersShaped_ite]

theorem answersShaped_execQuiesceTimeout {s : State} (h : Shaped s) : AnswersShaped (execQuiesceTimeout s) := by
  unfold execQuiesceTimeout
  split <;> apply_rules [AnswersShaped.next, shaped_resumeSteps, shaped_logEvent, shaped_onFwu, answersShaped_ite]

theorem answersShaped_execQuiesceRetry {s : State} (h : Shaped s) : AnswersShaped (execQuiesceRetry s) := by
  unfold execQuiesceRetry
  split <;> apply_rules [AnswersShaped.next, shaped_beginAttempt, answersShaped_ite]

theorem answersShaped_execImageConfirm (allCores allDies : Bool) {s : State} (h : Shaped s) :
    AnswersShaped (execImageConfirm allCores allDies s) := by
  unfold execImageConfirm
  apply_rules [AnswersShaped.next, shaped_onFwu, answersShaped_ite]

theorem answersShaped_execConfirmWindowExpire {s : State} (h : Shaped s) :
    AnswersShaped (execConfirmWindowExpire s) := by
  unfold execConfirmWindowExpire
  split <;> apply_rules [AnswersShaped.next, shaped_fallback, shaped_ite]

theorem answersShaped_execFwReject (val : Word) {s : State} (h : Shaped s) : AnswersShaped (execFwReject val s) := by
  unfold execFwReject
  apply_rules [AnswersShaped.next, shaped_writeRW, shaped_fallback, shaped_ite]

theorem answersShaped_execRecoveryDownload (val : Word) {s : State} (h : Shaped s) :
    AnswersShaped (execRecoveryDownload val s) := by
  unfold execRecoveryDownload
  apply_rules [AnswersShaped.next, shaped_writeRW, shaped_onFwu, shaped_ite]

theorem answersShaped_execRecoveryDownloadDone (image : Option (List Byte)) (flashOk : Bool) (failedBanks : List Nat)
    {s : State} (h : Shaped s) : AnswersShaped (execRecoveryDownloadDone image flashOk failedBanks s) := by
  unfold execRecoveryDownloadDone
  refine answersShaped_ite (.next h) ?_
  have hr : Shaped (s.onFwu fun f => { f with rcvBusy := false, rcvResult := recoveryResult s image flashOk }) :=
    shaped_onFwu rfl h
  dsimp only
  split
  · refine .next (shaped_loadFirmware _ _ (shaped_onFwu ?_ hr))
    exact (activateSlot_slots_length _ _).trans (setAt_len _ _ _)
  · exact .next hr

theorem shaped_lendOne {s : State} (o : Origin) (tier index : Nat) (h : Shaped s) :
    Shaped (lendOne s o tier index) := by
  unfold lendOne
  apply_rules [shaped_propose, shaped_onRdg]

theorem answersShaped_execExtentLend (o : Origin) {s : State} (h : Shaped s) : AnswersShaped (execExtentLend o s) := by
  unfold execExtentLend
  with_reducible repeat' first
    | assumption
    | intro _
    | apply AnswersShaped.next
    | apply shaped_lendOne
    | apply shaped_markRunning
    | apply shaped_refuse
    | apply shaped_onDescriptor
    | apply shaped_foldl
    | apply answersShaped_ite
    | split

theorem answersShaped_execExtentClaim (extent : Word) {s : State} (h : Shaped s) :
    AnswersShaped (execExtentClaim extent s) := by
  unfold execExtentClaim
  apply_rules [AnswersShaped.next, shaped_sendRequest, shaped_onRdg, answersShaped_ite]

theorem answersShaped_execExtentRelease (extent : Word) {s : State} (h : Shaped s) :
    AnswersShaped (execExtentRelease extent s) := by
  unfold execExtentRelease
  split <;> apply_rules [AnswersShaped.next, shaped_propose, answersShaped_ite]

theorem answersShaped_execExtentRevoke (o : Origin) {s : State} (h : Shaped s) :
    AnswersShaped (execExtentRevoke o s) := by
  unfold execExtentRevoke
  with_reducible repeat' first
    | assumption
    | apply AnswersShaped.next
    | apply shaped_onLent
    | apply shaped_markRunning
    | apply shaped_refuse
    | apply shaped_onDescriptor
    | apply shaped_propose
    | split
    | dsimp only

theorem answersShaped_execGracePeriodEnd (extent : Word) {s : State} (h : Shaped s) :
    AnswersShaped (execGracePeriodEnd extent s) := by
  unfold execGracePeriodEnd
  repeat' split
  all_goals apply_rules [AnswersShaped.next, shaped_onLent, shaped_propose]

theorem shaped_readWindow {s : State} (off : Nat) (h : Shaped s) : Shaped (readWindow s off) := by
  unfold readWindow
  repeat' split
  all_goals apply_rules [shaped_sendRequest, shaped_emit]

theorem shaped_hostReadErrors {s : State} (r : Region) (off : Nat) (errs : List ReadError) (h : Shaped s) :
    Shaped (hostReadErrors s r off errs).1 := by
  unfold hostReadErrors
  refine List.foldlRecOn (motive := fun a : State × Bool => Shaped a.1) _ _ h fun a ha e _ => ?_
  obtain ⟨t, bad⟩ := a
  dsimp only at ha ⊢
  split
  · exact (shaped_countCorrected e.ember 1 ha : Shaped (countCorrected t e.ember 1))
  · exact (shaped_countUncorrectable e.ember ha : Shaped (countUncorrectable t e.ember))

theorem answersShaped_execHostMemRead (off : Nat) (errs : List ReadError) {s : State} (h : Shaped s) :
    AnswersShaped (execHostMemRead off errs s) := by
  unfold execHostMemRead
  with_reducible repeat' first
    | assumption
    | apply AnswersShaped.next
    | apply shaped_hostReadErrors
    | apply shaped_readWindow
    | apply shaped_pushOp
    | apply shaped_lineToHost
    | apply shaped_poisonRead
    | apply shaped_sendRequest
    | apply shaped_onDgn
    | refine shaped_of_pair ?_ ‹_›
    | split
    | dsimp only

theorem answersShaped_execHostMemWrite (off : Nat) (data : List Byte) {s : State} (h : Shaped s) :
    AnswersShaped (execHostMemWrite off data s) := by
  unfold execHostMemWrite
  repeat' split
  all_goals apply_rules [AnswersShaped.next, shaped_pushOp, shaped_sendRequest, shaped_onDgn, shaped_emit,
      shaped_ite]

theorem shaped_of_reserveRegion {s t : State} {d : BitVec 512} {tenant : Nat}
    {p : List RegionPlace × Nat × Nat × List Word} (ht : reserveRegion s d tenant = some (t, p)) (h : Shaped s) :
    Shaped t := by
  unfold reserveRegion at ht
  dsimp only at ht
  split at ht
  all_goals
    obtain ⟨-, he⟩ := Option.ite_none_right_eq_some.mp ht
    cases he
  · exact shaped_foldl h fun _ _ h => shaped_takeFrame _ _ h
  · exact h
  · exact h

theorem answersShaped_execRegionCreate (o : Origin) {s : State} (h : Shaped s) :
    AnswersShaped (execRegionCreate o s) := by
  unfold execRegionCreate
  refine answersShaped_afterClears h ?_
  split
  · exact .next h
  refine answersShaped_ite (.next h) (answersShaped_ite (.next (shaped_refuse _ _ _ h)) ?_)
  split
  · exact .next (shaped_refuse _ _ _ h)
  refine answersShaped_ite (.next (shaped_refuse _ _ _ h)) (answersShaped_ite (.next (shaped_refuse _ _ _ h)) ?_)
  split
  · exact .next (shaped_refuse _ _ _ h)
  · have hkey := shaped_drawKey (shaped_of_reserveRegion ‹_› h)
    refine .next (shaped_propose _ (shaped_onDescriptor _ _ (shaped_markRunning _ (shaped_onRdg (by rfl) ?_))))
    exact shaped_putRegion (by rw [addMapper_mem]; rfl) hkey

theorem answersShaped_execRegionMap (o : Origin) {s : State} (h : Shaped s) : AnswersShaped (execRegionMap o s) := by
  unfold execRegionMap
  have hrefuse : ∀ st r, AnswersShaped (.next (refuse s o st r)) := fun _ _ => .next (shaped_refuse _ _ _ h)
  split
  · exact .next h
  refine answersShaped_ite (.next h) (answersShaped_ite (hrefuse _ _) (answersShaped_ite (hrefuse _ _)
    (answersShaped_ite ?_ (answersShaped_ite (hrefuse _ _)
      (.next (shaped_markRunning _ (shaped_sendRequest _ _ _ _ _ _ _ _ _ h)))))))
  split
  · exact hrefuse _ _
  · refine answersShaped_ite (hrefuse _ _) (.next (shaped_complete _ _ _ (shaped_onRdg (by rfl) ?_)))
    exact shaped_putRegion (wf_of_regionOf h ‹_› (addMapper_mem _ _ _)) h

theorem answersShaped_execRegionUnmap (o : Origin) {s : State} (h : Shaped s) : AnswersShaped (execRegionUnmap o s) := by
  unfold execRegionUnmap
  have hrefuse : ∀ st r, AnswersShaped (.next (refuse s o st r)) := fun _ _ => .next (shaped_refuse _ _ _ h)
  split
  · exact .next h
  refine answersShaped_ite (.next h) (answersShaped_ite (hrefuse _ _) ?_)
  split
  · exact answersShaped_ite (hrefuse _ _) (hrefuse _ _)
  rename_i d _ _ m _
  have hgone : Shaped ((snoopRegion s (dHandle d.raw) 0 m.size).onRdg fun g =>
      { g with lines := g.lines.filter fun l => l.region != dHandle d.raw }) :=
    shaped_onRdg rfl (shaped_snoopRegion _ _ _ h)
  refine answersShaped_ite (.next (shaped_complete _ _ _ (shaped_dropMapping _ hgone))) ?_
  dsimp only
  split
  · refine .next (shaped_pumpRegion _ (shaped_putRegion (wf_of_regionOf hgone ‹_› (removeMapper_mem _ _)) ?_))
    exact shaped_markRunning _ (shaped_dropMapping _ hgone)
  · exact answersShaped_ite (.next (shaped_refuse _ _ _ hgone))
      (.next (shaped_markRunning _ (shaped_sendRequest _ _ _ _ _ _ _ _ _ hgone)))

theorem answersShaped_execRegionPublish (o : Origin) {s : State} (h : Shaped s) :
    AnswersShaped (execRegionPublish o s) := by
  unfold execRegionPublish
  repeat' split
  all_goals apply_rules [AnswersShaped.next, shaped_pushOp, shaped_markRunning, shaped_refuse, shaped_ite]

theorem answersShaped_execRegionPublishQuery (o : Origin) {s : State} (h : Shaped s) :
    AnswersShaped (execRegionPublishQuery o s) := by
  unfold execRegionPublishQuery
  with_reducible repeat' first
    | assumption
    | apply AnswersShaped.next
    | apply shaped_refuse
    | apply shaped_complete
    | split

theorem shaped_writeHeld {s : State} (q : Nat) (l : List Completion) (h : Shaped s) : Shaped (writeHeld s q l) := by
  unfold writeHeld
  with_reducible repeat' first
    | assumption
    | intro _
    | apply shaped_putCompletion
    | apply shaped_foldl

theorem shaped_writeAborted {s : State} (q : Nat) (h : Shaped s) : Shaped (writeAborted s q) := by
  unfold writeAborted
  with_reducible repeat' first
    | assumption
    | intro _
    | apply shaped_complete
    | apply shaped_onDescriptor
    | apply shaped_foldl
    | split

theorem answersShaped_execQpResume (q : Nat) (ctx : Option (BitVec 512)) {s : State} (h : Shaped s) :
    AnswersShaped (execQpResume q ctx s) := by
  unfold execQpResume
  with_reducible repeat' first
    | assumption
    | apply AnswersShaped.next
    | apply shaped_writeAborted
    | apply shaped_writeHeld
    | apply shaped_readmit
    | apply shaped_cmdEnd
    | apply shaped_finishEnded
    | apply shaped_haltQp
    | apply shaped_queueEvent
    | apply shaped_onQp
    | apply shaped_drainFlight
    | apply answersShaped_ite
    | split

theorem shaped_dropRecords {s : State} (q : Nat) (h : Shaped s) : Shaped (dropRecords s q) := by
  unfold dropRecords
  apply_rules [shaped_onBellow]

theorem shaped_orphan {s : State} (o : Origin) (h : Shaped s) : Shaped (orphan s o) := by
  unfold orphan
  cases o with
  | qp q seq => exact shaped_onHost _ (shaped_renameOrigin _ _ h)
  | ridge part req => exact h

theorem shaped_endForDisable {s : State} (d : InFlight) (h : Shaped s) : Shaped (endForDisable s d) := by
  unfold endForDisable
  with_reducible repeat' first
    | assumption
    | apply shaped_orphan
    | apply shaped_cancelWork
    | apply shaped_dropDescriptor
    | apply shaped_onDescriptor
    | split
    | dsimp only

theorem answersShaped_execQpDisable (q : Nat) {s : State} (h : Shaped s) : AnswersShaped (execQpDisable q s) := by
  unfold execQpDisable
  with_reducible repeat' first
    | assumption
    | apply AnswersShaped.next
    | apply shaped_endForDisable
    | apply shaped_dropRecords
    | apply shaped_readmit
    | apply shaped_cmdEnd
    | apply shaped_finishEnded
    | apply shaped_onQp
    | apply shaped_onHost
    | apply shaped_foldl
    | apply shaped_ite
    | apply answersShaped_ite

theorem answersShaped_execQpDisableDone (q : Nat) {s : State} (h : Shaped s) :
    AnswersShaped (execQpDisableDone q s) := by
  unfold execQpDisableDone
  apply_rules [AnswersShaped.next, shaped_onHost, shaped_onDesc, answersShaped_ite]

theorem answersShaped_execFlueHeadWrite (q : Nat) (val : Word) {s : State} (h : Shaped s) :
    AnswersShaped (execFlueHeadWrite q val s) := by
  unfold execFlueHeadWrite
  apply_rules [AnswersShaped.next, shaped_readmit, shaped_doorbellBad, shaped_onQp, answersShaped_ite]

theorem answersShaped_execQueueCancel (o : Origin) {s : State} (h : Shaped s) :
    AnswersShaped (execQueueCancel o s) := by
  unfold execQueueCancel
  with_reducible repeat' first
    | assumption
    | apply AnswersShaped.next
    | apply shaped_readmit
    | apply shaped_cancelWork
    | apply shaped_finishEnded
    | apply shaped_complete
    | apply shaped_releaseFences
    | apply shaped_onDescriptor
    | split
    | dsimp only

theorem answersShaped_execMigrationSwitch (slot page : Nat) (ok : Bool) {s : State} (h : Shaped s) :
    AnswersShaped (execMigrationSwitch slot page ok s) := by
  unfold execMigrationSwitch
  split
  · exact .next h
  split
  · exact .next h
  split
  · exact .next h
  rename_i p _ _ t _
  have hstay := shaped_setPage slot { p with target := none } h
  exact answersShaped_ite (.next h)
    (.next (shaped_relocateAgain (shaped_ite (shaped_switchPage_getD _ _ _ hstay h) hstay)))

theorem answersShaped_execAutoPark {s : State} (h : Shaped s) : AnswersShaped (execAutoPark s) := by
  unfold execAutoPark
  refine answersShaped_ite (.next h) (.next ?_)
  cases hp : (parkCandidates s).findSome? (autoPark s) with
  | none => exact h
  | some t =>
    obtain ⟨slot, -, ht⟩ := List.exists_of_findSome?_eq_some hp
    exact shaped_of_autoPark ht h

theorem answersShaped_execDemotion {s : State} (h : Shaped s) : AnswersShaped (execDemotion s) := by
  unfold execDemotion
  with_reducible repeat' first
    | assumption
    | intro _
    | apply AnswersShaped.next
    | apply shaped_relocateAgain
    | apply shaped_startCopy
    | apply shaped_foldl
    | apply answersShaped_ite
    | split

theorem answersShaped_execPromotion {s : State} (h : Shaped s) : AnswersShaped (execPromotion s) := by
  unfold execPromotion
  with_reducible repeat' first
    | assumption
    | intro _
    | apply AnswersShaped.next
    | apply shaped_startCopy
    | apply shaped_foldl
    | apply answersShaped_ite
    | split

theorem answersShaped_execFoothillClear (verified : Bool) {s : State} (h : Shaped s) :
    AnswersShaped (execFoothillClear verified s) := by
  unfold execFoothillClear
  repeat' split
  all_goals apply_rules [AnswersShaped.next, shaped_extentCleared, shaped_isolation, shaped_onTie, shaped_ite]

end Sys2Proof.Machine
end

section
/-!
SUPPORT. That every command keeps the shape of the state.
-/

namespace Sys2Proof.Machine

/-- Every command's answer is a next state that is well shaped. -/
theorem answersShaped_exec (i : Instr) {s : State} (h : Shaped s) : AnswersShaped (exec i s) := by
  cases i with
  | registerWrite off width val => exact answersShaped_execRegisterWrite off width val h
  | powerOnReset => exact answersShaped_execPowerOnReset h
  | sequenceFault r => exact answersShaped_execSequenceFault r h
  | porstNAssert temps => exact answersShaped_execPorstNAssert temps h
  | porstNRelease straps boot failedBanks => exact answersShaped_execPorstNRelease straps boot failedBanks h
  | foothillTrainingDone failed => exact answersShaped_execFoothillTrainingDone failed h
  | ridgeTrainingDone port lanes partnerPart => exact answersShaped_execRidgeTrainingDone port lanes partnerPart h
  | startupComplete => exact answersShaped_execStartupComplete h
  | coldRestart boot failedBanks => exact answersShaped_execColdRestart boot failedBanks h
  | warmrstNAssert => exact answersShaped_execWarmrstNAssert h
  | warmrstNRelease marginFails => exact answersShaped_execWarmrstNRelease marginFails h
  | warmResetRecoveryEnd => exact answersShaped_execWarmResetRecoveryEnd h
  | watchdogFire => exact answersShaped_execWatchdogFire h
  | thermalTrip t => exact answersShaped_execThermalTrip t h
  | thermalThrottle t => exact answersShaped_execThermalThrottle t h
  | thermalThrottleRelease c => exact answersShaped_execThermalThrottleRelease c h
  | extendedRefreshChange above => exact answersShaped_execExtendedRefreshChange above h
  | throttleNAssert => exact answersShaped_execThrottleNAssert h
  | throttleNRelease => exact answersShaped_execThrottleNRelease h
  | powerCapEvaluation windowWatts milliWatts coreAmps railAmps => exact answersShaped_execPowerCapEvaluation windowWatts milliWatts coreAmps railAmps h
  | dipEpisodeBegin r c => exact answersShaped_execDipEpisodeBegin r c h
  | railRecovered r => exact answersShaped_execRailRecovered r h
  | dipEpisodeEnd => exact answersShaped_execDipEpisodeEnd h
  | supplyReset c => exact answersShaped_execSupplyReset c h
  | marginCheck l eye celsius => exact answersShaped_execMarginCheck l eye celsius h
  | retrainEnd l celsius => exact answersShaped_execRetrainEnd l celsius h
  | hostLinkUp modules half rate repairs => exact answersShaped_execHostLinkUp modules half rate repairs h
  | hostLinkDown => exact answersShaped_execHostLinkDown h
  | attach val => exact answersShaped_execAttach val h
  | qpTableBaseWrite val => exact answersShaped_execQpTableBaseWrite val h
  | qpEnable q ctx => exact answersShaped_execQpEnable q ctx h
  | qpFreeze q => exact answersShaped_execQpFreeze q h
  | qpResume q ctx => exact answersShaped_execQpResume q ctx h
  | qpSnapshot q write => exact answersShaped_execQpSnapshot q write h
  | qpDisable q => exact answersShaped_execQpDisable q h
  | qpDisableDone q => exact answersShaped_execQpDisableDone q h
  | sqTailWrite q val => exact answersShaped_execSqTailWrite q val h
  | cqHeadWrite q val => exact answersShaped_execCqHeadWrite q val h
  | flueHeadWrite q val => exact answersShaped_execFlueHeadWrite q val h
  | flightHeadWrite q val => exact answersShaped_execFlightHeadWrite q val h
  | descriptorFetch q desc => exact answersShaped_execDescriptorFetch q desc h
  | seqReread q desc => exact answersShaped_execSeqReread q desc h
  | dmaError q about addr ringOk => exact answersShaped_execDmaError q about addr ringOk h
  | irqCoalesceTimeout q => exact answersShaped_execIrqCoalesceTimeout q h
  | nop o => exact answersShaped_execNop o h
  | queueCancel o => exact answersShaped_execQueueCancel o h
  | sessionOpen o param slot => exact answersShaped_execSessionOpen o param slot h
  | sessionAppend w param => exact answersShaped_execSessionAppend w param h
  | sessionGenerate w param => exact answersShaped_execSessionGenerate w param h
  | sessionPark w => exact answersShaped_execSessionPark w h
  | sessionRevive o twin phase => exact answersShaped_execSessionRevive o twin phase h
  | sessionMove w answer => exact answersShaped_execSessionMove w answer h
  | moveRoundEnd r => exact answersShaped_execMoveRoundEnd r h
  | moveHandover slot => exact answersShaped_execMoveHandover slot h
  | sessionSnapshot w slot => exact answersShaped_execSessionSnapshot w slot h
  | sessionClose o => exact answersShaped_execSessionClose o h
  | deadlineExpire o => exact answersShaped_execDeadlineExpire o h
  | stubExpire slot => exact answersShaped_execStubExpire slot h
  | migrationSwitch slot page ok => exact answersShaped_execMigrationSwitch slot page ok h
  | autoPark => exact answersShaped_execAutoPark h
  | demotion => exact answersShaped_execDemotion h
  | promotion => exact answersShaped_execPromotion h
  | foothillClear verified => exact answersShaped_execFoothillClear verified h
  | activationFrame f => exact answersShaped_execActivationFrame f h
  | stepCommit batch cols => exact answersShaped_execStepCommit batch cols h
  | buddyAcknowledge slot => exact answersShaped_execBuddyAcknowledge slot h
  | grammarMask slot column => exact answersShaped_execGrammarMask slot column h
  | tokenise o segment trust text => exact answersShaped_execTokenise o segment trust text h
  | draftPass batch drafts => exact answersShaped_execDraftPass batch drafts h
  | draftRefill slot => exact answersShaped_execDraftRefill slot h
  | prefillChunkEnd slot => exact answersShaped_execPrefillChunkEnd slot h
  | workItemEnd island e => exact answersShaped_execWorkItemEnd island e h
  | splitInterval m => exact answersShaped_execSplitInterval m h
  | embedBatch o param outputs => exact answersShaped_execEmbedBatch o param outputs h
  | tuneStep w param loss sums => exact answersShaped_execTuneStep w param loss sums h
  | imageLoad o image tenants group => exact answersShaped_execImageLoad o image tenants group h
  | imageLoadComplete slot => exact answersShaped_execImageLoadComplete slot h
  | stageWaitTimeout slot => exact answersShaped_execStageWaitTimeout slot h
  | imageUnload o => exact answersShaped_execImageUnload o h
  | variantLoad o param stagesFit => exact answersShaped_execVariantLoad o param stagesFit h
  | variantRemove o => exact answersShaped_execVariantRemove o h
  | workTableWrite ember entry val => exact answersShaped_execWorkTableWrite ember entry val h
  | idle summit cmd => exact answersShaped_execIdle summit cmd h
  | matvec summit cmd acts scales errs => exact answersShaped_execMatvec summit cmd acts scales errs h
  | score summit cmd acts scales errs => exact answersShaped_execScore summit cmd acts scales errs h
  | bindot summit cmd acts errs => exact answersShaped_execBindot summit cmd acts errs h
  | kvwrite summit cmd acts saturated errs => exact answersShaped_execKvwrite summit cmd acts saturated errs h
  | summary summit cmd errs => exact answersShaped_execSummary summit cmd errs h
  | topkLocal summit cmd => exact answersShaped_execTopkLocal summit cmd h
  | clear summit cmd slackNs errs => exact answersShaped_execClear summit cmd slackNs errs h
  | copyrow summit c => exact answersShaped_execCopyrow summit c h
  | refreshDue summit => exact answersShaped_execRefreshDue summit h
  | patrolScrub ember row slackNs errs => exact answersShaped_execPatrolScrub ember row slackNs errs h
  | retireBank ember => exact answersShaped_execRetireBank ember h
  | bankRetireComplete ember => exact answersShaped_execBankRetireComplete ember h
  | directModeSet val => exact answersShaped_execDirectModeSet val h
  | patternWrite val => exact answersShaped_execPatternWrite val h
  | patternCheck c => exact answersShaped_execPatternCheck c h
  | emberTest val failing => exact answersShaped_execEmberTest val failing h
  | ucodeLoad val => exact answersShaped_execUcodeLoad val h
  | rowRepair val => exact answersShaped_execRowRepair val h
  | marginScan val fails => exact answersShaped_execMarginScan val fails h
  | dmcReturn val => exact answersShaped_execDmcReturn val h
  | dmcBadOperation val => exact answersShaped_execDmcBadOperation val h
  | searchQuery o param poisoned => exact answersShaped_execSearchQuery o param poisoned h
  | scanTurn summit span => exact answersShaped_execScanTurn summit span h
  | indexInsert o param => exact answersShaped_execIndexInsert o param h
  | indexDelete o param => exact answersShaped_execIndexDelete o param h
  | indexDrop o => exact answersShaped_execIndexDrop o h
  | indexCreate o param slot => exact answersShaped_execIndexCreate o param slot h
  | indexMerge o => exact answersShaped_execIndexMerge o h
  | mergeFreeOld slot => exact answersShaped_execMergeFreeOld slot h
  | hostMemRead off errs => exact answersShaped_execHostMemRead off errs h
  | hostMemWrite off data => exact answersShaped_execHostMemWrite off data h
  | requestFrame f req => exact answersShaped_execRequestFrame f req h
  | responseFrame f body => exact answersShaped_execResponseFrame f body h
  | invalidate f region line => exact answersShaped_execInvalidate f region line h
  | invalidateAcknowledge f region line => exact answersShaped_execInvalidateAcknowledge f region line h
  | mapFrame f body => exact answersShaped_execMapFrame f body h
  | acknowledge f => exact answersShaped_execAcknowledge f h
  | keepalive f offer => exact answersShaped_execKeepalive f offer h
  | pageData f kind page data => exact answersShaped_execPageData f kind page data h
  | retransmitTimeout addr => exact answersShaped_execRetransmitTimeout addr h
  | keepaliveSend => exact answersShaped_execKeepaliveSend h
  | peerSuspect addr => exact answersShaped_execPeerSuspect addr h
  | partDownDetect part => exact answersShaped_execPartDownDetect part h
  | peerLostTimeout part => exact answersShaped_execPeerLostTimeout part h
  | mapPropose change => exact answersShaped_execMapPropose change h
  | mapCommit changes => exact answersShaped_execMapCommit changes h
  | leaderElection winner term => exact answersShaped_execLeaderElection winner term h
  | mapWaitTimeout o => exact answersShaped_execMapWaitTimeout o h
  | ridgePortStateChange port state => exact answersShaped_execRidgePortStateChange port state h
  | linkKeyExchange addr offer => exact answersShaped_execLinkKeyExchange addr offer h
  | linkRekey addr => exact answersShaped_execLinkRekey addr h
  | extentLend o => exact answersShaped_execExtentLend o h
  | extentClaim extent => exact answersShaped_execExtentClaim extent h
  | extentRelease extent => exact answersShaped_execExtentRelease extent h
  | extentRevoke o => exact answersShaped_execExtentRevoke o h
  | gracePeriodEnd extent => exact answersShaped_execGracePeriodEnd extent h
  | regionCreate o => exact answersShaped_execRegionCreate o h
  | regionMap o => exact answersShaped_execRegionMap o h
  | regionUnmap o => exact answersShaped_execRegionUnmap o h
  | regionPublish o => exact answersShaped_execRegionPublish o h
  | regionPublishQuery o => exact answersShaped_execRegionPublishQuery o h
  | twinPropose val => exact answersShaped_execTwinPropose val h
  | twinOutOfService => exact answersShaped_execTwinOutOfService h
  | twinInService => exact answersShaped_execTwinInService h
  | twinRestore floor entries sessions => exact answersShaped_execTwinRestore floor entries sessions h
  | takeover standby => exact answersShaped_execTakeover standby h
  | cairnWrite w held writeOk => exact answersShaped_execCairnWrite w held writeOk h
  | cairnArm o => exact answersShaped_execCairnArm o h
  | cairnDisarm o => exact answersShaped_execCairnDisarm o h
  | cairnRestore o a b stagesFit slot => exact answersShaped_execCairnRestore o a b stagesFit slot h
  | cairnDue w held writeOk => exact answersShaped_execCairnDue w held writeOk h
  | earlyWarningCheck foothill ridge => exact answersShaped_execEarlyWarningCheck foothill ridge h
  | fwBlockWrite o digest data flashOk => exact answersShaped_execFwBlockWrite o digest data flashOk h
  | fwBlockVerify o => exact answersShaped_execFwBlockVerify o h
  | fwBlockActivate o => exact answersShaped_execFwBlockActivate o h
  | fwBlockAbort o => exact answersShaped_execFwBlockAbort o h
  | firmwareSwitch => exact answersShaped_execFirmwareSwitch h
  | quiesceTimeout => exact answersShaped_execQuiesceTimeout h
  | quiesceRetry => exact answersShaped_execQuiesceRetry h
  | imageConfirm allCores allDies => exact answersShaped_execImageConfirm allCores allDies h
  | confirmWindowExpire => exact answersShaped_execConfirmWindowExpire h
  | fwReject val => exact answersShaped_execFwReject val h
  | recoveryDownload val => exact answersShaped_execRecoveryDownload val h
  | recoveryDownloadDone image flashOk failedBanks => exact answersShaped_execRecoveryDownloadDone image flashOk failedBanks h
  | getVersion => exact answersShaped_execGetVersion h
  | getCapabilities => exact answersShaped_execGetCapabilities h
  | negotiateAlgorithms ecdsaP384 sha384 => exact answersShaped_execNegotiateAlgorithms ecdsaP384 sha384 h
  | getDigests => exact answersShaped_execGetDigests h
  | getCertificate slot offset length => exact answersShaped_execGetCertificate slot offset length h
  | challenge slot nonce => exact answersShaped_execChallenge slot nonce h
  | getMeasurements index nonce => exact answersShaped_execGetMeasurements index nonce h
  | spdmUnsupportedRequest code => exact answersShaped_execSpdmUnsupportedRequest code h
  | trngHealthFail => exact answersShaped_execTrngHealthFail h
  | tenantCounterRefresh tenant => exact answersShaped_execTenantCounterRefresh tenant h
  | tenantPowerRefresh watts => exact answersShaped_execTenantPowerRefresh watts h
  | bellowsFrameBoundary port => exact answersShaped_execBellowsFrameBoundary port h
  | gateEntryBoundary port => exact answersShaped_execGateEntryBoundary port h
  | gclCommit val => exact answersShaped_execGclCommit val h
  | gclDiscard val => exact answersShaped_execGclDiscard val h
  | gclTakeEffect port => exact answersShaped_execGclTakeEffect port h
  | shaperWrite val => exact answersShaped_execShaperWrite val h
  | damperWrite reg val => exact answersShaped_execDamperWrite reg val h
  | injectDisarm val => exact answersShaped_execInjectDisarm val h
  | injectCorrectedError val => exact answersShaped_execInjectCorrectedError val h
  | injectUncorrectableError val => exact answersShaped_execInjectUncorrectableError val h
  | injectPageCheckFail val => exact answersShaped_execInjectPageCheckFail val h
  | injectFrameTagFail val => exact answersShaped_execInjectFrameTagFail val h
  | injectSupplyHold val => exact answersShaped_execInjectSupplyHold val h
  | railRise r => exact answersShaped_execRailRise r h
  | hostModuleLost m => exact answersShaped_execHostModuleLost m h
  | epochApplyTimeout o => exact answersShaped_execEpochApplyTimeout o h

/-- Settles O4: each command keeps the shape, by the lemma for the function that runs it. -/
theorem stepKeepsWellShaped : Obligations.StepKeepsWellShaped := by
  intro s t h hstep
  rw [← shaped_iff] at h ⊢
  have hs : AnswersShaped (step s) := by
    unfold step
    split
    · exact answersShaped_exec _ ⟨h.mem, h.regions, h.rails, h.slots, h.tclass, h.kvclass⟩
    · exact .next ⟨h.mem, h.regions, h.rails, h.slots, h.tclass, h.kvclass⟩
  rw [hstep] at hs
  cases hs
  assumption

end Sys2Proof.Machine
end

section
/-!
SUPPORT. Resets: what a power-on, a cold and a warm reset leave, and the commands that are one (R29, R40 to R42, R46,
R51, R64, Table 3.4).
-/

namespace Sys2Proof.Machine

/-! ### Power-on and cold reset -/

/-- An index that a reset loses is empty (Table 3.4). -/
theorem lostIndexes_empty {s : State} {x : Index} (h : x ∈ lostIndexes s) :
    x.live = false ∧ x.cells = [] ∧ x.scree = [] := by
  obtain ⟨y, -, rfl⟩ := List.mem_map.mp h
  exact ⟨rfl, rfl, rfl⟩

/-- A slot of boot flash that was receiving no download stands (R368). -/
theorem flashOnly_slot {f : Firmware} {n : Nat} {x : FwSlot} (h : f.slots[n]? = some x) (hx : x.state ≠ 1) :
    (flashOnly f).slots[n]? = some x := by
  simp [flashOnly, h, hx]

/-- Settles O6: the state that a power-on reset leaves is written out; VDD_AUX at its reset level leaves the same one. -/
theorem powerOnResetLosesAll : Obligations.PowerOnResetLosesAll := by
  refine fun s => ⟨⟨_, exec_powerOnReset s, rfl, rfl, rfl, rfl, rfl, rfl, rfl, rfl, rfl, rfl, rfl, rfl, rfl, rfl, rfl, rfl,
    fun x hx => lostIndexes_empty hx, rfl, rfl, rfl, rfl, rfl, rfl, rfl, rfl, rfl, rfl, rfl, rfl, rfl,
    fun n x h hx => flashOnly_slot h hx⟩, fun mv ns hmv hns => ?_⟩
  have hcounts : resetCounts .vddAux mv ns = true := by simp [resetCounts, railLevels, hmv, hns]
  simp [exec_supplyReset, execSupplyReset, hcounts, exec_powerOnReset, execPowerOnReset]

/-- A cold reset of a state that differs from the one before it in pins, and in what of power and boot flash a reset
does not read, leaves what `ColdResetOf` says. -/
theorem coldResetOf_coldReset {s u : State} (cause : Nat) (hns : u.localNs = s.localNs) (hses : u.ses = s.ses)
    (hboot : u.pwr.bootCount = s.pwr.bootCount) (hfwu : u.fwu.active = s.fwu.active ∧ u.fwu.config = s.fwu.config ∧
      u.fwu.repairs = s.fwu.repairs) (hpending : u.pending = s.pending) :
    ColdResetOf s (coldReset u cause) cause := by
  obtain ⟨hactive, hconfig, hrepairs⟩ := hfwu
  have hfloor : u.ses.floor = s.ses.floor := congrArg Sessions.floor hses
  have hcount : bump 16 u.pwr.bootCount = min 0xFFFF (s.pwr.bootCount + 1) := hboot ▸ Nat.min_comm _ _
  exact ⟨hns, rfl, rfl, rfl, rfl, rfl, rfl, rfl, hfloor, rfl, rfl, rfl, rfl, rfl, hcount, rfl, rfl, rfl, rfl,
    fun x hx => (lostIndexes_empty hx).1, hactive, hconfig, hrepairs, hpending⟩

/-- `ColdResetOf` says nothing of whether the thermal trip stands, nor of pins. -/
theorem coldResetOf_onPwr {s t : State} {cause : Nat} {tripped hot : Bool} (h : ColdResetOf s t cause) :
    ColdResetOf s (t.onPwr fun p => { p with tripped := tripped, tripHot := hot }) cause := h

/-- PORST_N falling while it stood high is a cold reset with cause 1 (R40). -/
theorem execPorstNAssert_resets {s : State} (temps : List Reading) (h : s.pins.porstN = true) :
    ∃ t, execPorstNAssert temps s = .next t ∧ ColdResetOf s t 1 ∧ t.pins.porstN = false ∧
      (s.pwr.tripped = true → (t.pins.thermTripN = true ↔
        (s.pins.thermTripN = true ∨ ∀ r ∈ temps, r.celsius < tripPoint r.sensor))) := by
  have hcold := coldResetOf_coldReset (s := s) (u := s.onPins fun p => { p with porstN := false }) 1 rfl rfl rfl
    ⟨rfl, rfl, rfl⟩ rfl
  have htripped : (coldReset (s.onPins fun p => { p with porstN := false }) 1).pwr.tripped = s.pwr.tripped := rfl
  simp only [execPorstNAssert, h, Bool.not_true, Bool.false_and, Bool.false_eq_true, if_false, htripped]
  cases hcool : s.pwr.tripped && temps.all fun t => t.celsius < tripPoint t.sensor with
  | true =>
    simp only [Bool.and_eq_true, List.all_eq_true, decide_eq_true_eq] at hcool
    exact ⟨_, rfl, coldResetOf_onPwr hcold, rfl, fun _ => ⟨fun _ => .inr hcool.2, fun _ => rfl⟩⟩
  | false =>
    refine ⟨_, rfl, coldResetOf_onPwr hcold, rfl, fun ht => ⟨.inl, fun hor => hor.elim id fun hall => ?_⟩⟩
    simp [ht] at hcool
    obtain ⟨r, hr, hhot⟩ := hcool
    exact absurd (hall r hr) (Nat.not_lt.mpr hhot)

/-- The third watchdog within 10 minutes of the other two is a cold reset (R374). -/
theorem execWatchdogFire_third {s : State} {a b : Nat} (hready : s.pwr.everReady = true)
    (hplain : s.fbx.policy = false ∨ s.fwu.confirmed = true) (hdogs : s.pwr.watchdogs = [a, b])
    (ha : s.localNs < a + 600000000000) (hb : s.localNs < b + 600000000000) :
    execWatchdogFire s = .next (coldReset ((s.onPwr fun p => { p with watchdogs := [] }).onFwu fun f =>
      { f with flashDogs := 0, romRecovery := !s.fbx.policy }) 6) := by
  have hp : (s.fbx.policy && !s.fwu.confirmed) = false := by rcases hplain with h | h <;> simp [h]
  simp [execWatchdogFire, hready, hp, hdogs, ms, ha, hb]

theorem execThermalTrip_trips {s : State} {r : Reading} (htrip : s.pwr.tripped = false)
    (hhot : tripPoint r.sensor ≤ r.celsius) :
    execThermalTrip r s = .next (coldReset ((s.onPwr fun p => { p with tripped := true, tripHot := true }).onPins
      fun p => { p with thermTripN := false }) 4) := by
  simp [execThermalTrip, htrip, hhot]

/-- A rail other than VDD_AUX at its reset level for 20 ns is down, and SUPPLY_ALERT_N low (R46, R51). -/
theorem execSupplyReset_rail {s : State} {r : Rail} {mv ns : Nat} (hr : r ≠ .vddAux) (hmv : mv < (railLevels r).2.2)
    (hns : 20 ≤ ns) :
    execSupplyReset (.resetLevel r mv ns) s = .next (coldReset (((onRail s r fun x =>
      { x with below := true, pgood := false, fell := x.up || x.fell, up := false }).onPwr
      fun p => { p with pgoodSince := none }).onPins fun p => { p with supplyAlertN := false }) 3) := by
  have hcounts : resetCounts r mv ns = true := by simp [resetCounts, hmv, hns]
  cases r with
  | vddAux => exact absurd rfl hr
  | _ => simp only [execSupplyReset, hcounts, Bool.not_true, Bool.false_eq_true, if_false]

theorem execSupplyReset_long {s : State} (hlate : episodeLong s = true) :
    execSupplyReset .longEpisode s = .next (coldReset
      (s.onPwr fun p => { p with lastDipUs := sat 16 (ceilDiv (s.localNs - p.dipStart) 1000) }) 2) := by
  simp only [execSupplyReset, hlate, if_true]

/-- Settles O7: each cause is a cold reset of the state with that cause's pins and counts. -/
theorem coldResetCauses : Obligations.ColdResetCauses := by
  refine ⟨fun s temps h => execPorstNAssert_resets temps h, fun s r htrip hhot => ?_, fun s r mv ns hr hmv hns => ?_,
    fun s hdip hinj hrec hlong => ?_, fun s a b hready hplain hdogs ha hb => ?_⟩
  · exact ⟨_, execThermalTrip_trips htrip hhot, coldResetOf_coldReset 4 rfl rfl rfl ⟨rfl, rfl, rfl⟩ rfl, rfl, rfl⟩
  · exact ⟨_, execSupplyReset_rail hr hmv hns, coldResetOf_coldReset 3 rfl rfl rfl ⟨rfl, rfl, rfl⟩ rfl, rfl⟩
  · have hlate : episodeLong s = true := by simp [episodeLong, hdip, hinj, hrec, us, hlong]
    exact ⟨_, execSupplyReset_long hlate, coldResetOf_coldReset 2 rfl rfl rfl ⟨rfl, rfl, rfl⟩ rfl⟩
  · exact ⟨_, execWatchdogFire_third hready hplain hdogs ha hb, coldResetOf_coldReset 6 rfl rfl rfl ⟨rfl, rfl, rfl⟩ rfl, rfl⟩

/-! ### Warm reset -/

@[simp] theorem discardWork_localNs (s : State) : (discardWork s).localNs = s.localNs :=
  discardWork_keeps (·.localNs) (fun _ _ => rfl) (fun _ _ => rfl) s
@[simp] theorem discardWork_srch (s : State) : (discardWork s).srch = s.srch :=
  discardWork_keeps (·.srch) (fun _ _ => rfl) (fun _ _ => rfl) s
@[simp] theorem discardWork_fbx (s : State) : (discardWork s).fbx = s.fbx :=
  discardWork_keeps (·.fbx) (fun _ _ => rfl) (fun _ _ => rfl) s

@[simp] theorem freeGranules_img (s : State) (tenant g : Nat) : (freeGranules s tenant g).img = s.img := by
  unfold freeGranules; split <;> rfl
@[simp] theorem freeGranules_frames (s : State) (tenant g : Nat) :
    (freeGranules s tenant g).tie.frames = s.tie.frames := by
  unfold freeGranules; split <;> rfl

/-- A map that gives every entry back leaves the list. -/
theorem map_of_forall_eq {α : Type} {f : α → α} {l : List α} (h : ∀ a ∈ l, f a = a) : l.map f = l := by
  rw [List.map_congr_left h, List.map_id']

/-- With no load or unload under way a warm reset leaves the images, and the frames, as they are (R41). -/
theorem discardWork_settled {s : State} (h : ∀ i ∈ s.img.slots, i.state ≠ .waiting ∧ i.state ≠ .unloading) :
    (discardWork s).img = s.img ∧ (discardWork s).tie.frames = s.tie.frames := by
  have hnone : (s.img.slots.filter fun i => i.state == .waiting) = [] :=
    List.filter_eq_nil_iff.mpr fun i hi => by simp [(h i hi).1]
  have hsame : s.onImg (fun m => { m with slots := m.slots.map fun i =>
      if i.state = .unloading then { i with state := .ready } else i }) = s := by
    have hslots : (s.img.slots.map fun i => if i.state = .unloading then { i with state := .ready } else i) = s.img.slots :=
      map_of_forall_eq fun i hi => if_neg (h i hi).2
    simp only [State.onImg, hslots]
  unfold discardWork
  simp only [hnone, List.foldl_nil, hsame]
  exact ⟨foldl_keeps (·.img) _ (fun _ _ => freeGranules_img _ _ _) _ _,
    foldl_keeps (·.tie.frames) _ (fun _ _ => freeGranules_frames _ _ _) _ _⟩

/-- The answer to another part's descriptor leaves the host port alone. -/
theorem completeOne_ridge_host (s : State) (p n : Nat) (cs : List Status) (r : Word) :
    (completeOne s (.ridge p n) cs r).host = s.host := by
  unfold completeOne
  split
  · rfl
  · dsimp only
    split
    · rfl
    · rw [sendResponse_host]; rfl

@[simp] theorem endGuests_host (s : State) : (endGuests s).host = s.host := by
  unfold endGuests
  refine List.foldlRecOn (motive := fun t : State => t.host = s.host) _ _ rfl fun t ht d hd => ?_
  cases ho : d.origin with
  | qp q n => simp [ho] at hd
  | ridge p n => rw [completeOne_ridge_host, ht]

/-- What a warm reset leaves of a session: its log and where its pages lie, and no work (R41). -/
theorem settleSession_keeps (x : Session) :
    ((settleSession x).slot, (settleSession x).gen, (settleSession x).log,
      (settleSession x).pages.map fun p => (p.index, p.place)) =
      (x.slot, x.gen, x.log, x.pages.map fun p => (p.index, p.place)) := by
  simp [settleSession]

theorem settleSession_idle (x : Session) : (settleSession x).gener = none ∧ (settleSession x).prefill = none ∧
    (settleSession x).move = none ∧ ∀ p ∈ (settleSession x).pages, p.target = none := by
  simp [settleSession]

/-- A queue pair that a reset stops for a cause (R64). -/
def haltedFor (cause : Nat) (q : QueuePair) : QueuePair :=
  if q.state = .disabled then q else { q with state := .halted, cause := cause, reReads := 0 }

theorem haltedFor_stops (c : Nat) (q : QueuePair) :
    (haltedFor c q).state = .disabled ∨ ((haltedFor c q).state = .halted ∧ (haltedFor c q).cause = c) := by
  unfold haltedFor
  split
  · exact .inl ‹_›
  · exact .inr ⟨rfl, rfl⟩

theorem haltedFor_keeps (c : Nat) (q : QueuePair) :
    ((haltedFor c q).id, (haltedFor c q).ctx, (haltedFor c q).sqNext, (haltedFor c q).cqNext, (haltedFor c q).flueNext,
      (haltedFor c q).held) = (q.id, q.ctx, q.sqNext, q.cqNext, q.flueNext, q.held) := by
  unfold haltedFor
  split <;> rfl

theorem warmState_localNs (s : State) (c : Nat) : (warmState s c).localNs = s.localNs :=
  show (discardWork s).localNs = _ from discardWork_localNs s
theorem warmState_indexes (s : State) (c : Nat) : (warmState s c).srch.indexes = s.srch.indexes :=
  show (discardWork s).srch.indexes = _ from by rw [discardWork_srch]
theorem warmState_fbx (s : State) (c : Nat) : (warmState s c).fbx = s.fbx :=
  show (discardWork s).fbx = _ from discardWork_fbx s
theorem warmState_map (s : State) (c : Nat) : (warmState s c).rdg.map = s.rdg.map :=
  show (discardWork s).rdg.map = _ from by rw [discardWork_rdg]
theorem warmState_attached (s : State) (c : Nat) : (warmState s c).host.attached = s.host.attached :=
  show (discardWork s).host.attached = _ from by rw [discardWork_host]
theorem warmState_qps (s : State) (c : Nat) : (warmState s c).host.qps = s.host.qps.map (haltedFor 3) :=
  show (discardWork s).host.qps.map (haltedFor 3) = _ from by rw [discardWork_host]
theorem warmState_bootCount (s : State) (c : Nat) :
    (warmState s c).pwr.bootCount = min 0xFFFF (s.pwr.bootCount + 1) :=
  show bump 16 (discardWork s).pwr.bootCount = _ from by rw [discardWork_pwr]; exact Nat.min_comm _ _

/-- The plain state of a warm reset is what `WarmResetOf` says (R41, R64). -/
theorem warmResetOf_warmState (s : State) (c : Nat) : WarmResetOf s (warmState s c) c := by
  refine ⟨warmState_localNs s c, warmState_hrt_mem s c, discardWork_settled, warmState_indexes s c, rfl,
    warmState_regions s c, by rw [warmState_map], by rw [warmState_map], by rw [warmState_fbx], ?_, fun x hx => ?_,
    fun q hq => ?_, warmState_attached s c, ?_, rfl, rfl, rfl, rfl, rfl, warmState_bootCount s c⟩
  · rw [warmState_table, List.map_map]
    exact List.map_congr_left fun x _ => settleSession_keeps x
  · rw [warmState_table] at hx
    obtain ⟨y, -, rfl⟩ := List.mem_map.mp hx
    exact settleSession_idle y
  · rw [warmState_qps] at hq
    obtain ⟨p, -, rfl⟩ := List.mem_map.mp hq
    exact haltedFor_stops 3 p
  · rw [warmState_qps, List.map_map]
    exact List.map_congr_left fun q _ => haltedFor_keeps 3 q

/-- `WarmResetOf` reads of the state before what neither the answers to other parts nor diagnostics change. -/
theorem warmResetOf_congr {s u t : State} {c : Nat} (hq : u.quiet = s.quiet) (hhost : u.host = s.host)
    (h : WarmResetOf u t c) : WarmResetOf s t c := by
  have hmap := congrArg (fun r : Ridge => (r.map.epoch, r.map.parts)) (quiet_rdg hq)
  have hepoch : u.rdg.map.epoch = s.rdg.map.epoch := congrArg Prod.fst hmap
  have hparts : u.rdg.map.parts = s.rdg.map.parts := congrArg Prod.snd hmap
  unfold WarmResetOf at h ⊢
  rwa [quiet_localNs hq, quiet_hrt hq, quiet_img hq, quiet_tie hq, quiet_srch hq, quiet_regions hq, hepoch, hparts,
    quiet_fbx hq, quiet_ses hq, hhost, quiet_pwr hq] at h

/-- With the running image confirmed, or under ROM recovery, a warm reset leaves what `WarmResetOf` says (R41). -/
theorem warmResetOf_warmReset {s : State} (c : Nat) (hplain : s.fbx.policy = false ∨ s.fwu.confirmed = true) :
    WarmResetOf s (warmReset s c) c ∧ (warmReset s c).pins = s.pins ∧ (warmReset s c).pwr.warmHeld = false := by
  have hp : (s.fbx.policy && !s.fwu.confirmed) = false := by rcases hplain with h | h <;> simp [h]
  have hw : warmReset s c = logEvent (warmState (endGuests s) c) 14 0 c := by simp [warmReset, hp]
  rw [hw]
  exact ⟨warmResetOf_congr (quiet_endGuests s) (endGuests_host s) (warmResetOf_warmState _ c),
    (warmState_pins _ c).trans (quiet_pins (quiet_endGuests s)), rfl⟩

/-- A watchdog that is not the third within 10 minutes is a warm reset (R40, R374). -/
theorem execWatchdogFire_first {s : State} (hready : s.pwr.everReady = true)
    (hplain : s.fbx.policy = false ∨ s.fwu.confirmed = true) (hdogs : s.pwr.watchdogs.length ≤ 1) :
    ∃ dogs, execWatchdogFire s = .next (warmReset ((s.onPwr fun p => { p with watchdogs := dogs }).onFwu fun f =>
      { f with flashDogs := dogs.length }) 6) := by
  have hp : (s.fbx.policy && !s.fwu.confirmed) = false := by rcases hplain with h | h <;> simp [h]
  have hfew := Nat.le_trans (List.length_filter_le (fun t => decide (s.localNs < t + ms 600000)) s.pwr.watchdogs) hdogs
  refine ⟨s.localNs :: s.pwr.watchdogs.filter fun t => s.localNs < t + ms 600000, ?_⟩
  simp only [execWatchdogFire, hready, hp, Bool.not_true, Bool.false_eq_true, if_false]
  rw [if_neg (by simp only [List.length_cons]; omega)]

/-- Settles O8: a warm reset of the state with the pin low, or with the watchdog's count. -/
theorem warmResetCauses : Obligations.WarmResetCauses := by
  refine ⟨fun s hready hpin hplain => ?_, fun s hready => ?_, fun s hready hplain hdogs => ?_⟩
  · obtain ⟨hof, hpins, -⟩ := warmResetOf_warmReset (s := s.onPins fun p => { p with warmrstN := false }) 5 hplain
    have hnext : execWarmrstNAssert s = .next ((warmReset (s.onPins fun p => { p with warmrstN := false }) 5).onPwr
        fun p => { p with warmHeld := true }) := by simp [execWarmrstNAssert, hready, hpin]
    exact ⟨_, hnext, hof, rfl, congrArg Pins.warmrstN hpins⟩
  · have hnext : execWarmrstNAssert s = .next (s.onPins fun p => { p with warmrstN := false }) := by
      simp [execWarmrstNAssert, hready]
    exact ⟨_, hnext, rfl, rfl, rfl, rfl, rfl⟩
  · obtain ⟨dogs, hnext⟩ := execWatchdogFire_first hready hplain hdogs
    obtain ⟨hof, -, hheld⟩ := warmResetOf_warmReset
      (s := (s.onPwr fun p => { p with watchdogs := dogs }).onFwu fun f => { f with flashDogs := dogs.length }) 6 hplain
    exact ⟨_, hnext, hof, hheld⟩

end Sys2Proof.Machine
end

section
/-!
SUPPORT. Rails at power-up, heat and the power cap (R22 to R29, Tables 2.6 to 2.10).
-/

namespace Sys2Proof.Machine

/-! ### Rails -/

theorem railOf_onRail_same {s : State} {r : Rail} {f : RailState → RailState} (h : s.pwr.rails.length = 7) :
    railOf (onRail s r f) r = f (railOf s r) := by
  have hlt : railBit r < s.pwr.rails.length := h ▸ railBit_lt r
  simp [railOf, onRail, setAt_same _ _ _ hlt]

theorem railOf_onRail_other {s : State} {r q : Rail} {f : RailState → RailState} (h : q ≠ r) :
    railOf (onRail s r f) q = railOf s q := by
  have hne : railBit r ≠ railBit q := fun hb => h (railBit_inj _ _ hb).symm
  simp [railOf, onRail, setAt_other _ _ _ _ hne]

/-- Marking when every rail has been good leaves the rails and the sequence fault. -/
theorem markGood_pwr (s : State) : (markGood s).pwr.rails = s.pwr.rails ∧ (markGood s).pwr.seqFault = s.pwr.seqFault := by
  unfold markGood
  split <;> exact ⟨rfl, rfl⟩

theorem execRailRise_outOfOrder {s : State} {r : Rail} (hmay : mayRise s r = false) (hup : (railOf s r).up = false) :
    execRailRise r s = .next (recordSequenceFault s r) := by
  simp [execRailRise, hmay, hup]

theorem execSequenceFault_outOfOrder {s : State} {r : Rail} (hmay : mayRise s r = false) (hup : (railOf s r).up = false) :
    execSequenceFault r s = .next (recordSequenceFault s r) := by
  simp [execSequenceFault, hmay, hup]

/-- A rail in order stands with its PGOOD after it has risen, and every other rail as it was (R22). -/
theorem execRailRise_inOrder {s : State} {r : Rail} (hrails : s.pwr.rails.length = 7) (hmay : mayRise s r = true) :
    ∃ t, execRailRise r s = .next t ∧ (railOf t r).up = true ∧ (railOf t r).pgood = true ∧
      (∀ q, q ≠ r → railOf t q = railOf s q) ∧ t.pwr.seqFault = s.pwr.seqFault := by
  unfold execRailRise
  cases hstands : (railOf s r).up && (railOf s r).pgood with
  | true =>
    obtain ⟨hup, hgood⟩ := Bool.and_eq_true_iff.mp hstands
    exact ⟨s, rfl, hup, hgood, fun _ _ => rfl, rfl⟩
  | false =>
    simp only [hmay, if_true, Bool.false_eq_true, if_false]
    obtain ⟨hmark, hfault⟩ := markGood_pwr (onRail s r fun x => { x with up := true, pgood := true })
    refine ⟨_, rfl, ?_, ?_, fun q hq => ?_, hfault⟩
    all_goals simp only [railOf, State.onPwr_pwr, hmark]
    · exact congrArg RailState.up (railOf_onRail_same hrails)
    · exact congrArg RailState.pgood (railOf_onRail_same hrails)
    · exact railOf_onRail_other hq

/-- Settles O11: a rail in order rises, one out of order is the fault, whichever of the two commands finds it. -/
theorem railsRiseInGroups : Obligations.RailsRiseInGroups := by
  refine ⟨fun s r hw hmay => execRailRise_inOrder ((shaped_iff s).mpr hw).rails hmay, fun s r hmay hup => ?_⟩
  rw [exec_sequenceFault, exec_railRise, execSequenceFault_outOfOrder hmay hup, execRailRise_outOfOrder hmay hup]
  exact ⟨⟨_, rfl, rfl, rfl, rfl, rfl⟩, rfl⟩

/-! ### Shedding -/

/-- What a step of shedding does: one stage goes one step deeper, a later one only once the one before it is at its bound
or has no island, and with every stage at its bound nothing changes (R26, Tables 2.6, 2.8). -/
structure ShedsInOrder (s t : State) : Prop where
  stv : t.stv = s.stv
  ses : t.ses = s.ses
  hrt : t.hrt = s.hrt
  pins : t.pins = s.pins
  throttled : t.pwr.throttled = s.pwr.throttled
  watts : t.pwr.powerWatts = s.pwr.powerWatts
  amps : t.pwr.coreAmps = s.pwr.coreAmps
  embed_le : s.pwr.shedEmbed ≤ t.pwr.shedEmbed
  prefill_le : s.pwr.shedPrefill ≤ t.pwr.shedPrefill
  decode_le : s.pwr.shedDecode ≤ t.pwr.shedDecode
  pacing_le : s.pwr.emberPacing ≤ t.pwr.emberPacing
  prefill : s.pwr.shedPrefill < t.pwr.shedPrefill → 5 ≤ t.pwr.shedEmbed ∨ roleCount s .embed = 0
  decode : s.pwr.shedDecode < t.pwr.shedDecode → 5 ≤ t.pwr.shedPrefill ∨ roleCount s .prefill = 0
  pacing : s.pwr.emberPacing < t.pwr.emberPacing → 5 ≤ t.pwr.shedDecode ∨ roleCount s .decode = 0

theorem shedsInOrder_shedStep (s : State) : ShedsInOrder s (shedStep s) ∧ anyShed (shedStep s).pwr = true := by
  unfold shedStep
  dsimp only
  split
  · refine ⟨by constructor <;> simp, by simp [anyShed]⟩
  rename_i hembed
  split
  · refine ⟨by constructor <;> simp_all; omega, by simp [anyShed]⟩
  rename_i hprefill
  split
  · refine ⟨by constructor <;> simp_all; omega, by simp [anyShed]⟩
  rename_i hdecode
  split
  · refine ⟨by constructor <;> simp_all; omega, by simp [anyShed]⟩
  · refine ⟨by constructor <;> simp, by simp [anyShed]; omega⟩

theorem ShedsInOrder.trans {s t u : State} (h : ShedsInOrder s t) (k : ShedsInOrder t u) : ShedsInOrder s u := by
  have hcount : ∀ r, roleCount t r = roleCount s r := fun r => by unfold roleCount; rw [h.stv]
  have hp := h.prefill; have kp := k.prefill
  have hd := h.decode; have kd := k.decode
  have he := h.pacing; have ke := k.pacing
  rw [hcount] at kp kd ke
  have := k.embed_le; have := k.prefill_le; have := k.decode_le
  exact ⟨k.stv.trans h.stv, k.ses.trans h.ses, k.hrt.trans h.hrt, k.pins.trans h.pins, k.throttled.trans h.throttled,
    k.watts.trans h.watts, k.amps.trans h.amps, Nat.le_trans h.embed_le k.embed_le, Nat.le_trans h.prefill_le k.prefill_le,
    Nat.le_trans h.decode_le k.decode_le, Nat.le_trans h.pacing_le k.pacing_le, by omega, by omega, by omega⟩

/-- Shedding goes two steps deeper, and the first that sheds at all sets cap_hit. -/
theorem shedsInOrder_shed (s : State) : ShedsInOrder s (shed s) ∧ anyShed (shed s).pwr = true ∧
    (anyShed s.pwr = false → (shed s).pwr.capHit = true) := by
  obtain ⟨h1, -⟩ := shedsInOrder_shedStep s
  obtain ⟨h2, hany⟩ := shedsInOrder_shedStep (shedStep s)
  have h := h1.trans h2
  unfold shed
  dsimp only
  split
  · rename_i hor
    exact ⟨h, hany, fun hno => by simp [hno, hany] at hor⟩
  · exact ⟨⟨h.stv, h.ses, h.hrt, h.pins, h.throttled, h.watts, h.amps, h.embed_le, h.prefill_le, h.decode_le, h.pacing_le,
      h.prefill, h.decode, h.pacing⟩, hany, fun _ => rfl⟩

/-! ### Heat -/

theorem execThermalThrottle_hot {s : State} {r : Reading} (h : throttlePoint r.sensor ≤ r.celsius) :
    execThermalThrottle r s = .next (shed (s.onPwr fun p =>
      { p with throttled := (p.throttled.filter fun x => !x.isOf r) ++ [⟨r.sensor, r.die, s.localNs⟩] })) :=
  if_pos h

/-- Settles O13. -/
theorem throttlingSetsTheStage : Obligations.ThrottlingSetsTheStage := by
  refine ⟨fun s => ⟨_, exec_throttleNAssert s, rfl, rfl, rfl, fun _ => rfl, rfl⟩,
    fun s => ⟨_, exec_throttleNRelease s, rfl, ?_, rfl, rfl⟩, fun s r hpin hhot => ?_, fun s r stoodNs hcool hlong => ?_,
    fun s b => ⟨_, exec_extendedRefreshChange b s, rfl, rfl⟩⟩
  · simp only [shedStage, State.onPins_pins, Bool.not_true, Bool.false_eq_true, if_false]
    repeat' split
    all_goals decide
  · obtain ⟨h, hany, -⟩ := shedsInOrder_shed (s.onPwr fun p =>
      { p with throttled := (p.throttled.filter fun x => !x.isOf r) ++ [⟨r.sensor, r.die, s.localNs⟩] })
    have hin : ⟨r.sensor, r.die, s.localNs⟩ ∈ (shed (s.onPwr fun p => { p with throttled :=
        (p.throttled.filter fun x => !x.isOf r) ++ [⟨r.sensor, r.die, s.localNs⟩] })).pwr.throttled := by
      rw [h.throttled]
      exact List.mem_append_right _ (List.mem_singleton_self _)
    refine ⟨_, (exec_thermalThrottle r s).trans (execThermalThrottle_hot hhot), hin, ?_, hany, h.ses, h.hrt⟩
    have hstands : (shed (s.onPwr fun p => { p with throttled :=
        (p.throttled.filter fun x => !x.isOf r) ++ [⟨r.sensor, r.die, s.localNs⟩] })).pins.throttleN = true := by
      rw [h.pins]; exact hpin
    simp [shedStage, hstands, List.ne_nil_of_mem hin]
  · refine ⟨_, (exec_thermalThrottleRelease ⟨r, stoodNs⟩ s).trans (if_pos (by simp [hcool, ms, hlong])), rfl, rfl, fun x => ?_⟩
    simp only [Throttling.isOf, State.onPwr_pwr, List.mem_filter, Bool.not_eq_true', Bool.and_eq_false_iff,
      decide_eq_false_iff_not, Nat.not_le, or_assoc]

/-! ### The power cap -/

/-- An evaluation over a limit, or while a sensor throttles, sheds and forgets how long the part has been quiet (R26). -/
theorem execPowerCapEvaluation_sheds {s : State} {w m a : Nat} {rails : List Nat}
    (h : (!capHolds s.pwr.capCtl w a rails 100 || !s.pwr.throttled.isEmpty) = true) :
    execPowerCapEvaluation w m a rails s = .next (shed ((s.onPwr fun p =>
      { p with powerWatts := sat 11 m, coreAmps := sat 11 a }).onPwr fun p => { p with quietSince := none })) :=
  if_pos h

/-- The conditions on which an evaluation restores one step: a full window within both limits by 5 % (R26). -/
def RestoresStep (s : State) (w a : Nat) (rails : List Nat) : Prop :=
  capHolds s.pwr.capCtl w a rails 95 = true ∧ s.pins.throttleN = true ∧ anyShed s.pwr = true ∧
  ∃ since, s.pwr.quietSince = some since ∧ since + capWindow s.pwr.capCtl ≤ s.localNs

theorem execPowerCapEvaluation_restores {s : State} {w m a : Nat} {rails : List Nat}
    (h : ¬(!capHolds s.pwr.capCtl w a rails 100 || !s.pwr.throttled.isEmpty) = true) (hr : RestoresStep s w a rails) :
    execPowerCapEvaluation w m a rails s = .next ((restoreStep (s.onPwr fun p =>
      { p with powerWatts := sat 11 m, coreAmps := sat 11 a })).onPwr fun p => { p with quietSince := some s.localNs }) := by
  obtain ⟨h95, hpin, hany, since, hquiet, hwindow⟩ := hr
  refine (if_neg h).trans ?_
  simp only [h95, Bool.not_true, Bool.false_eq_true, if_false, State.onPwr_pwr, hquiet]
  exact if_pos (by simp only [State.onPwr_pins, hpin, Bool.true_and, Bool.and_eq_true, decide_eq_true_eq]; exact ⟨hany, hwindow⟩)

/-- Any other evaluation that does not shed only remembers since when the part is quiet. -/
theorem execPowerCapEvaluation_waits {s : State} {w m a : Nat} {rails : List Nat}
    (h : ¬(!capHolds s.pwr.capCtl w a rails 100 || !s.pwr.throttled.isEmpty) = true) (hr : ¬RestoresStep s w a rails) :
    ∃ quiet, execPowerCapEvaluation w m a rails s = .next (s.onPwr fun p =>
      { p with powerWatts := sat 11 m, coreAmps := sat 11 a, quietSince := quiet }) := by
  cases h95 : capHolds s.pwr.capCtl w a rails 95 with
  | false => exact ⟨none, (if_neg h).trans (if_pos (by rw [h95]; rfl))⟩
  | true =>
    have hmargin : ¬(!capHolds s.pwr.capCtl w a rails 95) = true := by rw [h95]; decide
    cases hquiet : s.pwr.quietSince with
    | none => exact ⟨some s.localNs, (if_neg h).trans ((if_neg hmargin).trans (by simp only [State.onPwr_pwr, hquiet]; rfl))⟩
    | some since =>
      refine ⟨some since, (if_neg h).trans ((if_neg hmargin).trans ?_)⟩
      simp only [State.onPwr_pwr, hquiet]
      refine (if_neg fun hall => hr ?_).trans (by rw [← hquiet]; rfl)
      simp only [Bool.and_eq_true, decide_eq_true_eq] at hall
      exact ⟨h95, hall.1.1, hall.1.2, since, hquiet, hall.2⟩

theorem sat_eleven (n : Nat) : sat 11 n = min 2047 n := Nat.min_comm _ _

/-- Over cap_watts the limits do not hold (R25). -/
theorem capHolds_over {ctl : Word} {w a : Nat} {rails : List Nat} (h : fld ctl 10 0 < w) :
    capHolds ctl w a rails 100 = false := by
  have hover : ¬w * 100 ≤ fld ctl 10 0 * 100 := by omega
  simp [capHolds, hover]

/-- A restored step is one of the deepest stage that is shed at all (R26). -/
theorem restoreStep_deepest (s : State) :
    (0 < s.pwr.emberPacing → (restoreStep s).pwr.emberPacing = s.pwr.emberPacing - 1 ∧
      (restoreStep s).pwr.shedDecode = s.pwr.shedDecode) ∧
    (s.pwr.emberPacing = 0 → 0 < s.pwr.shedDecode → (restoreStep s).pwr.shedDecode = s.pwr.shedDecode - 1 ∧
      (restoreStep s).pwr.shedPrefill = s.pwr.shedPrefill) ∧
    (s.pwr.emberPacing = 0 → s.pwr.shedDecode = 0 → 0 < s.pwr.shedPrefill →
      (restoreStep s).pwr.shedPrefill = s.pwr.shedPrefill - 1 ∧ (restoreStep s).pwr.shedEmbed = s.pwr.shedEmbed) := by
  refine ⟨fun h => ?_, fun h1 h2 => ?_, fun h1 h2 h3 => ?_⟩
  · simp [restoreStep, h]
  · simp [restoreStep, h1, h2]
  · simp [restoreStep, h1, h2, h3]

theorem restoreStep_keeps (s : State) : (restoreStep s).stv = s.stv ∧ (restoreStep s).ses = s.ses ∧
    (restoreStep s).pwr.powerWatts = s.pwr.powerWatts ∧ (restoreStep s).pwr.coreAmps = s.pwr.coreAmps := by
  unfold restoreStep
  refine ⟨rfl, rfl, ?_, ?_⟩
  all_goals
    simp only [State.onPwr_pwr]
    repeat' split
  all_goals rfl

/-- Settles O14: an evaluation sheds, restores or waits, by the three lemmas above. -/
theorem powerCapShedsInOrder : Obligations.PowerCapShedsInOrder := by
  intro s w m a rails
  rw [exec_powerCapEvaluation, ← sat_eleven m, ← sat_eleven a]
  by_cases hshed : (!capHolds s.pwr.capCtl w a rails 100 || !s.pwr.throttled.isEmpty) = true
  · obtain ⟨h, hany, hhit⟩ := shedsInOrder_shed ((s.onPwr fun p =>
      { p with powerWatts := sat 11 m, coreAmps := sat 11 a }).onPwr fun p => { p with quietSince := none })
    refine ⟨_, execPowerCapEvaluation_sheds hshed, h.watts, h.amps, h.stv, h.ses, fun _ hno => ⟨hhit hno, hany⟩,
      fun _ => h.prefill, fun _ => h.decode, fun _ => h.pacing, fun _ h100 _ hcool => ?_⟩
    simp [h100, hcool] at hshed
  have hwithin : ¬fld s.pwr.capCtl 10 0 < w := fun hover => hshed (by simp [capHolds_over hover])
  by_cases hr : RestoresStep s w a rails
  · obtain ⟨hstv, hses, hwatts, hamps⟩ := restoreStep_keeps (s.onPwr fun p =>
      { p with powerWatts := sat 11 m, coreAmps := sat 11 a })
    exact ⟨_, execPowerCapEvaluation_restores hshed hr, hwatts, hamps, hstv, hses, fun h => absurd h hwithin,
      fun h => absurd h hwithin, fun h => absurd h hwithin, fun h => absurd h hwithin,
      fun _ _ _ _ _ _ _ => restoreStep_deepest (s.onPwr fun p => { p with powerWatts := sat 11 m, coreAmps := sat 11 a })⟩
  · obtain ⟨quiet, hnext⟩ := execPowerCapEvaluation_waits (m := m) hshed hr
    refine ⟨_, hnext, rfl, rfl, rfl, rfl, fun h => absurd h hwithin, fun h => absurd h hwithin, fun h => absurd h hwithin,
      fun h => absurd h hwithin, fun h95 _ hpin _ since hsince hwindow => ?_⟩
    have hnone : anyShed s.pwr = false := by
      cases hany : anyShed s.pwr with
      | false => rfl
      | true => exact absurd ⟨h95, hpin, hany, since, hsince, hwindow⟩ hr
    simp only [anyShed, bne_eq_false_iff_eq] at hnone
    refine ⟨fun h => ?_, fun _ h => ?_, fun _ _ h => ?_⟩ <;> omega

end Sys2Proof.Machine
end

section
/-!
SUPPORT. Start-up from PORST_N to ready (R35 to R39, Tables 3.1 to 3.3).
-/

namespace Sys2Proof.Machine

/-! ### The steps before training -/

/-- What no step between the rise of PORST_N and training changes. -/
def startView (s : State) : Bool × BitVec 4 × Bool × Bool × SelfTest :=
  (s.pins.porstN, s.pins.straps, s.pwr.heldInReset, s.pwr.ready, s.pwr.found)

theorem startView_takePending (s : State) (bad : Bool) : startView (takePending s bad) = startView s := by
  unfold takePending
  split <;> rfl

theorem startView_takeConfig (s : State) (bad : Bool) : startView (takeConfig s bad) = startView s := by
  unfold takeConfig
  split <;> rfl

theorem startView_romSelfTest (s : State) (ok : Bool) : startView (romSelfTest s ok) = startView s := by
  unfold romSelfTest
  split <;> rfl

theorem startView_loadFirmware (s : State) (bad failed : List Nat) : startView (loadFirmware s bad failed) = startView s := by
  have hchoose : ∀ u b v, chooseSlot u b = some v → startView v = startView u := by
    intro u b v hv
    unfold chooseSlot at hv
    dsimp only at hv
    repeat' split at hv
    all_goals cases hv
    all_goals rfl
  unfold loadFirmware
  split
  · rfl
  · have hv := hchoose _ _ _ ‹_›
    dsimp only
    split <;> exact hv

/-- What start-up leaves, whatever it meets: the pins and ready as they were, out of reset, the self-test's findings (R36). -/
theorem startView_startUp (s : State) (b : BootReport) (failed : List Nat) :
    startView (startUp s b failed) = (s.pins.porstN, s.pins.straps, false, s.pwr.ready, b.found) := by
  have hown : startView (drawWrapKey (romSelfTest (s.onPwr fun p => { p with heldInReset := false, found := b.found }) b.trngOk)) =
      (s.pins.porstN, s.pins.straps, false, s.pwr.ready, b.found) := startView_romSelfTest _ _
  unfold startUp
  dsimp only
  split
  · exact hown
  · have hconfig := (startView_takeConfig _ (b.flashBad.contains 2)).trans
      ((startView_takePending _ (b.flashBad.contains 5)).trans hown)
    split
    · exact hconfig
    · exact (startView_loadFirmware _ _ _).trans hconfig

/-- The state at step 3, when the policy and the configuration block are taken (Table 3.2). -/
def configured (s : State) (b : BootReport) : State :=
  takeConfig (takePending (drawWrapKey (romSelfTest (s.onPwr fun p => { p with heldInReset := false, found := b.found })
    b.trngOk)) (b.flashBad.contains 5)) (b.flashBad.contains 2)

theorem configured_romRecovery (s : State) (b : BootReport) : (configured s b).fwu.romRecovery = s.fwu.romRecovery := by
  unfold configured takeConfig takePending romSelfTest
  repeat' split
  all_goals rfl

theorem configured_slots (s : State) (b : BootReport) : (configured s b).fwu.slots = s.fwu.slots := by
  unfold configured takeConfig takePending romSelfTest
  repeat' split
  all_goals rfl

theorem configured_straps (s : State) (b : BootReport) : (configured s b).pins.straps = s.pins.straps := by
  unfold configured takeConfig takePending romSelfTest
  repeat' split
  all_goals rfl

theorem drawn_straps (s : State) (b : BootReport) :
    (drawWrapKey (romSelfTest (s.onPwr fun p => { p with heldInReset := false, found := b.found }) b.trngOk)).pins.straps =
      s.pins.straps := by
  unfold romSelfTest
  split <;> rfl

/-- The strap that asks for manufacturing test (Table 3.1). -/
theorem startUp_test {s : State} (b : BootReport) (failed : List Nat) (h : fld s.pins.straps 3 2 = 2) :
    (startUp s b failed).pwr.bootStage = 9 := by
  unfold startUp
  dsimp only
  rw [drawn_straps, if_pos h]
  rfl

/-- Without it the ROM recovers or loads firmware (Tables 3.1, 3.2). -/
theorem startUp_normal {s : State} (b : BootReport) (failed : List Nat) (h : fld s.pins.straps 3 2 ≠ 2) :
    startUp s b failed = if fld s.pins.straps 3 2 = 1 || s.fwu.romRecovery then
        ((configured s b).onFwu fun f => { f with romRecovery := false }).onPwr fun p => { p with bootStage := 7 }
      else loadFirmware (configured s b) b.flashBad failed := by
  unfold startUp
  dsimp only
  rw [drawn_straps, if_neg h, ← configured_straps s b, ← configured_romRecovery s b]
  rfl

theorem startUp_recovers {s : State} (b : BootReport) (failed : List Nat)
    (h : fld s.pins.straps 3 2 ≠ 2) (hr : fld s.pins.straps 3 2 = 1 ∨ s.fwu.romRecovery = true) :
    (startUp s b failed).pwr.bootStage = 7 ∧ (startUp s b failed).fwu.romRecovery = false := by
  rw [startUp_normal b failed h, if_pos (by simpa using hr)]
  exact ⟨rfl, rfl⟩

theorem failSlots_nil (s : State) : failSlots s [] = s := by
  have hslots : (s.fwu.slots.zipIdx.map fun (x, i) =>
      if ([] : List Nat).contains i && x.state ≠ 0 then { x with state := 0 } else x) = s.fwu.slots := by
    simp
  simp only [failSlots, State.onFwu, hslots]

/-- With slot 0 good some slot boots (R369). -/
theorem chooseSlot_isSome {s : State} (h : slotBoots s.fwu 0 = true) (bad : Bool) : (chooseSlot s bad).isSome = true := by
  unfold chooseSlot
  dsimp only
  split
  · rfl
  · rename_i hfirst
    have hne : firstChoice s.fwu bad ≠ 0 := fun h0 => hfirst (h0 ▸ h)
    rw [show 1 - firstChoice s.fwu bad = 0 by omega, if_pos h]
    rfl

/-- A part that boots goes on to training, or stops for a hearth die lost (Table 3.2, R39). -/
theorem loadFirmware_stage {s : State} (failed : List Nat) (h : slotBoots s.fwu 0 = true) :
    (dieFailed failed = false → (loadFirmware s [] failed).pwr.bootStage = 4) ∧
    (dieFailed failed = true → (loadFirmware s [] failed).pwr.bootStage = 8 ∧ (loadFirmware s [] failed).pins.faultN = false) := by
  obtain ⟨t, ht⟩ := Option.isSome_iff_exists.mp (chooseSlot_isSome h false)
  unfold loadFirmware
  rw [List.filter_nil, failSlots_nil, show ([] : List Nat).contains 4 = false from rfl, ht]
  exact ⟨fun hd => by simp [hd], fun hd => by simp [hd]⟩

/-- From the strap's rise with the gate open, in the normal order (R36). -/
theorem startUp_loads {s : State} {b : BootReport} (failed : List Nat) (h2 : fld s.pins.straps 3 2 ≠ 2)
    (h1 : fld s.pins.straps 3 2 ≠ 1) (hrom : s.fwu.romRecovery = false) (hflash : b.flashBad = [])
    (hslot : slotBoots s.fwu 0 = true) :
    (dieFailed failed = false → (startUp s b failed).pwr.bootStage = 4) ∧
    (dieFailed failed = true → (startUp s b failed).pwr.bootStage = 8 ∧ (startUp s b failed).pins.faultN = false) := by
  rw [startUp_normal b failed h2, if_neg (by simp [h1, hrom]), hflash]
  exact loadFirmware_stage failed (by unfold slotBoots; rw [configured_slots]; exact hslot)

/-! ### Training -/

theorem execRidgeTrainingDone_trains {s : State} {n : Nat} (lanes : BitVec 8) (partner : Bool) (hn : n < 6)
    (h : (s.port n).state = .training) :
    ∃ t, execRidgeTrainingDone n lanes partner s = .next t ∧ (t.port n).lanes = lanes ∧ (t.port n).partner = partner ∧
      (t.port n).state = (if ((List.range 8).filter fun i => lanes.toNat.testBit i).length < 4 then .heldDown else .up) ∧
      ∀ i < 8, lanes.toNat.testBit i = false → ∃ l ∈ t.pwr.links, l.link = 96 + 8 * n + i ∧ l.retired = true := by
  unfold execRidgeTrainingDone
  rw [if_pos (by simp [hn, h])]
  refine ⟨_, rfl, ?_, ?_, ?_, fun i hi hbit => ?_⟩
  · simp [State.port, upsert_get']
  · simp [State.port, upsert_get']
  · simp [State.port, upsert_get']
  · refine ⟨_, List.mem_append_right _ (List.mem_map_of_mem (List.mem_range.mpr hi)), rfl, ?_⟩
    simp [hbit]

/-! ### Ready -/

@[simp] theorem writeTableBase_pwr (s : State) (v : Word) : (writeTableBase s v).pwr = s.pwr := by
  unfold writeTableBase; split <;> rfl
@[simp] theorem writeRqt_pwr (s : State) (entry : Bool) (v : Word) : (writeRqt s entry v).pwr = s.pwr := by
  unfold writeRqt; repeat' split
  all_goals rfl
@[simp] theorem writeDieMode_pwr (s : State) (v : Word) : (writeDieMode s v).pwr = s.pwr := by
  unfold writeDieMode; dsimp only; repeat' split
  all_goals rfl
@[simp] theorem writeGateEntry_pwr (s : State) (v : Word) : (writeGateEntry s v).pwr = s.pwr := by
  unfold writeGateEntry; split <;> rfl
@[simp] theorem writePortCtl_pwr (s : State) (v : Word) : (writePortCtl s v).pwr = s.pwr := rfl
@[simp] theorem writeShape_pwr (s : State) (v : Word) : (writeShape s v).pwr = s.pwr := rfl
@[simp] theorem writeDamper_pwr (s : State) (reg : Nat) (v : Word) : (writeDamper s reg v).pwr = s.pwr := rfl
@[simp] theorem onSelFlight_pwr (s : State) (f : FlightRing → FlightRing) : (onSelFlight s f).pwr = s.pwr := rfl

theorem writeRW_found (s : State) (off : Nat) (v : Word) : (writeRW s off v).pwr.found = s.pwr.found := by
  unfold writeRW
  split
  · rfl
  split
  · rfl
  split
  all_goals simp [apply_ite State.pwr, State.onBellow]

theorem applySettings_found (s : State) : (applySettings s).pwr.found = s.pwr.found := by
  unfold applySettings
  split
  · rfl
  · refine (foldl_keeps (·.pwr.found) _ (fun s p => ?_) _ _).trans rfl
    dsimp only
    split
    · split
      · rfl
      · exact writeRW_found s _ _
    · rfl

/-- At step 9 ready reads 1 with the grates and units that passed and 32 islands (R37, Table 3.3). -/
theorem finishStart_ready (s : State) : (finishStart s).pwr.ready = true ∧ (finishStart s).pwr.bootStage = 6 ∧
    (finishStart s).pwr.everReady = true ∧ (finishStart s).knd.units = min 8 s.pwr.found.kindling ∧
    (finishStart s).tie.grates = min 16 s.pwr.found.grates ∧ (finishStart s).stv.islands.length = 32 := by
  have hfound : (if s.pwr.configDefault then s else applySettings s).pwr.found = s.pwr.found := by
    split
    · rfl
    · exact applySettings_found s
  unfold finishStart
  generalize (if s.pwr.configDefault then s else applySettings s) = u at hfound
  rw [← hfound]
  refine ⟨rfl, rfl, rfl, ?_, ?_, ?_⟩
  all_goals
    dsimp only
    split
  all_goals simp [setUnits, initialIslands]

/-- Settles O9: each command of start-up by the lemma about its step. -/
theorem startUpRunsInOrder : Obligations.StartUpRunsInOrder := by
  refine ⟨fun s straps b failed hpin hgate => ?_, fun s straps b failed hpin hgate => ?_, fun s b failed hpin hgate => ?_,
    fun s failed hstage => ?_, fun s n lanes partner hn h => execRidgeTrainingDone_trains lanes partner hn h,
    fun s hstage htrained => ?_⟩
  · have hnext : execPorstNRelease straps b failed s =
        .next (startUp (s.onPins fun p => { p with porstN := true, straps := straps }) b failed) := by
      unfold execPorstNRelease
      rw [if_neg (by simp [hpin])]
      exact congrArg _ (if_pos hgate)
    have hview := startView_startUp (s.onPins fun p => { p with porstN := true, straps := straps }) b failed
    simp only [startView, Prod.mk.injEq] at hview
    obtain ⟨hporst, hstraps, hheld, hready, hfound⟩ := hview
    exact ⟨_, hnext, hporst, hstraps, hheld, hready, hfound,
      startUp_test (s := s.onPins fun p => { p with porstN := true, straps := straps }) b failed,
      fun h1 => (startUp_recovers b failed (fun h2 => absurd (h1.symm.trans h2) (by decide)) (.inl h1)).1,
      fun h1 h2 hrom hflash hslot => startUp_loads failed h2 h1 hrom hflash hslot⟩
  · have hnext : execPorstNRelease straps b failed s =
        .next (s.onPins fun p => { p with porstN := true, straps := straps }) := by
      unfold execPorstNRelease
      rw [if_neg (by simp [hpin])]
      exact congrArg _ (if_neg fun hopen : gateOpenForStart s b.refclkNs = true => by simp [hgate] at hopen)
    exact ⟨_, hnext, rfl, rfl, rfl⟩
  · have hnext : execColdRestart b failed s = .next (startUp s b failed) := by
      simp [execColdRestart, hpin, hgate]
    have hview := startView_startUp s b failed
    simp only [startView, Prod.mk.injEq] at hview
    obtain ⟨-, hstraps, hheld, -, hfound⟩ := hview
    exact ⟨_, hnext, hheld, hfound, hstraps, startUp_test b failed,
      fun h1 => (startUp_recovers b failed (fun h2 => absurd (h1.symm.trans h2) (by decide)) (.inl h1)).1,
      fun h2 hrom => startUp_recovers b failed h2 (.inr hrom)⟩
  · refine ⟨_, if_pos hstage, rfl, rfl, fun n hn => List.mem_append_left _ ?_⟩
    exact List.mem_map_of_mem (f := fun n => ({ link := n, retired := failed.contains n } : Trained)) (List.mem_range.mpr hn)
  · have hnext : execStartupComplete s = .next (finishStart s) := by simp [execStartupComplete, hstage, htrained]
    obtain ⟨hready, hsix, hever, hunits, hgrates, hislands⟩ := finishStart_ready s
    exact ⟨_, hnext, hready, hsix, hever, hunits, hgrates, hislands⟩

end Sys2Proof.Machine
end

section
/-!
SUPPORT. Warm recovery, margin checks and retraining (R41, R43, R44, Table 3.7).
-/

namespace Sys2Proof.Machine

/-! ### Windows that begin -/

/-- What the links have by one property of an entry that starting a window keeps. -/
theorem startLink_mem {p : Power} {n : Nat} {x : Trained} (h : x ∈ p.links) (hx : x.due = false) :
    x ∈ (startLink p n).links := by
  unfold startLink
  split
  · exact List.mem_map.mpr ⟨x, h, by simp [hx]⟩
  · exact h

theorem startLinks_mem {p : Power} {x : Trained} (ns : List Nat) (h : x ∈ p.links) (hx : x.due = false) :
    x ∈ (ns.foldl startLink p).links := by
  induction ns generalizing p with
  | nil => exact h
  | cons n ns ih => exact ih (startLink_mem h hx)

/-- A link retrains, or waits for its window (R44). -/
def Pending (p : Power) (k : Nat) : Prop := ∃ y ∈ p.links, y.link = k ∧ (y.retraining = true ∨ y.due = true)

theorem pending_startLink {p : Power} {k : Nat} (n : Nat) (h : Pending p k) : Pending (startLink p n) k := by
  obtain ⟨y, hy, hk, hor⟩ := h
  unfold startLink
  split
  · refine ⟨_, List.mem_map_of_mem hy, ?_, ?_⟩
    · split <;> exact hk
    · split
      · exact .inl rfl
      · exact hor
  · exact ⟨y, hy, hk, hor⟩

theorem pending_startLinks {p : Power} {k : Nat} (ns : List Nat) (h : Pending p k) : Pending (ns.foldl startLink p) k := by
  induction ns generalizing p with
  | nil => exact h
  | cons n ns ih => exact ih (pending_startLink n h)

/-- Power but for its links. -/
def Power.unlinked (p : Power) : Power := { p with links := [] }

theorem unlinked_eq {p q : Power} (h : p.unlinked = q.unlinked) : p.warmHeld = q.warmHeld ∧ p.ready = q.ready ∧
    p.bootStage = q.bootStage ∧ p.marginFailures = q.marginFailures ∧ p.foothillRetrains = q.foothillRetrains ∧
    p.ridgeRetrains = q.ridgeRetrains := by
  simp only [Power.unlinked, Power.mk.injEq] at h
  simp [h]

theorem startLinks_unlinked (p : Power) (ns : List Nat) : (ns.foldl startLink p).unlinked = p.unlinked := by
  refine List.foldlRecOn (motive := fun q : Power => q.unlinked = p.unlinked) _ _ rfl fun q hq n _ => ?_
  rw [← hq]
  unfold startLink
  split <;> rfl

theorem startDue_unlinked (s : State) : (startDue s).pwr.unlinked = s.pwr.unlinked := startLinks_unlinked _ _

theorem markDue_unlinked (s : State) (l : Link) : (markDue s l).pwr.unlinked = s.pwr.unlinked := rfl

/-- With one link due, and no other window open that its own excludes, it is the one that begins (R44). -/
theorem startLinks_one {p : Power} {x : Trained} (hx : x ∈ p.links) (hdue : x.due = true) (hret : x.retired = false)
    (hall : ∀ y ∈ p.links, y.due = true → y.link = x.link) (hmay : mayRetrainId p x.link = true) (ns : List Nat)
    (hin : x.link ∈ ns) : { x with retraining := true, due := false } ∈ (ns.foldl startLink p).links := by
  induction ns with
  | nil => simp at hin
  | cons n ns ih =>
    by_cases hn : n = x.link
    · subst hn
      refine startLinks_mem ns ?_ rfl
      unfold startLink
      rw [if_pos hmay]
      exact List.mem_map.mpr ⟨x, hx, by simp [hdue, hret]⟩
    · have hsame : startLink p n = p := by
        unfold startLink
        split
        · rw [map_of_forall_eq]
          intro y hy
          refine if_neg fun hyes => hn ?_
          simp only [Bool.and_eq_true, decide_eq_true_eq] at hyes
          exact hyes.1.1.symm.trans (hall y hy hyes.1.2)
        · rfl
      rw [List.foldl_cons, hsame]
      exact ih ((List.mem_cons.mp hin).resolve_left fun h => hn h.symm)

/-! ### The end of a warm reset's hold -/

theorem pending_markDue {s : State} {k : Nat} (l : Link) (h : Pending s.pwr k) : Pending (markDue s l).pwr k := by
  obtain ⟨y, hy, hk, hor⟩ := h
  refine ⟨_, List.mem_map_of_mem hy, ?_, ?_⟩
  · split <;> exact hk
  · split
    · exact .inr rfl
    · exact hor

theorem pending_markDues {s : State} {k : Nat} (ls : List Link) (h : Pending s.pwr k) : Pending (ls.foldl markDue s).pwr k := by
  induction ls generalizing s with
  | nil => exact h
  | cons l ls ih => exact ih (pending_markDue l h)

/-- A trained link that fails its check, and is not retired, is marked unless it retrains already. -/
theorem markDue_marks {s : State} {l : Link} {x : Trained} (hx : x ∈ s.pwr.links) (hl : x.link = linkId l)
    (hret : x.retired = false) : Pending (markDue s l).pwr x.link := by
  refine ⟨_, List.mem_map_of_mem hx, by split <;> rfl, ?_⟩
  cases hre : x.retraining with
  | true => left; simp [hre]
  | false => right; simp [hl, hret]

theorem mem_markDue {s : State} {l : Link} {x : Trained} (hx : x ∈ s.pwr.links) :
    ∃ y ∈ (markDue s l).pwr.links, y.link = x.link ∧ y.retired = x.retired := by
  refine ⟨_, List.mem_map_of_mem hx, ?_, ?_⟩ <;> split <;> rfl

theorem markDues_marks {s : State} {ls : List Link} {l : Link} {x : Trained} (hin : l ∈ ls) (hx : x ∈ s.pwr.links)
    (hl : x.link = linkId l) (hret : x.retired = false) : Pending (ls.foldl markDue s).pwr x.link := by
  induction ls generalizing s x with
  | nil => simp at hin
  | cons m ls ih =>
    rcases List.mem_cons.mp hin with rfl | hin
    · exact pending_markDues ls (markDue_marks hx hl hret)
    · obtain ⟨y, hy, hyl, hyr⟩ := mem_markDue (l := m) hx
      exact hyl ▸ ih hin hy (hyl.trans hl) (hyr.trans hret)

/-- The state in which recovery's margin checks begin: none owed from before, the failures counted (R41). -/
def checksBegun (s : State) (fails : List Link) : State :=
  s.onPwr fun p => { p with warmDue := [], marginFailures := p.marginFailures + fails.length }

theorem warmChecks_eq (s : State) (fails : List Link) : warmChecks s fails =
    if bit s.pwr.marginCtl 16 then startDue (fails.foldl markDue (checksBegun s fails)) else checksBegun s fails := rfl

theorem markDues_keeps {β : Type} (g : State → β) (hg : ∀ s f, g (State.onPwr s f) = g s) (s : State) (ls : List Link) :
    g (ls.foldl markDue s) = g s :=
  foldl_keeps g markDue (fun s _ => hg s _) ls s

theorem markDues_unlinked (s : State) (ls : List Link) : (ls.foldl markDue s).pwr.unlinked = s.pwr.unlinked :=
  foldl_keeps (·.pwr.unlinked) markDue (fun s l => markDue_unlinked s l) ls s

theorem warmChecks_keeps {β : Type} (g : State → β) (hg : ∀ s f, g (State.onPwr s f) = g s) (s : State) (ls : List Link) :
    g (warmChecks s ls) = g s := by
  rw [warmChecks_eq]
  split
  · exact (hg _ _).trans ((markDues_keeps g hg _ _).trans (hg _ _))
  · exact hg _ _

theorem warmChecks_unlinked (s : State) (ls : List Link) : (warmChecks s ls).pwr.unlinked = (checksBegun s ls).pwr.unlinked := by
  rw [warmChecks_eq]
  split
  · exact (startDue_unlinked _).trans (markDues_unlinked _ _)
  · rfl

theorem warmChecks_pending {s : State} {ls : List Link} {l : Link} {x : Trained} (hin : l ∈ ls) (hx : x ∈ s.pwr.links)
    (hl : x.link = linkId l) (hret : x.retired = false) (hon : bit s.pwr.marginCtl 16 = true) :
    Pending (warmChecks s ls).pwr x.link := by
  rw [warmChecks_eq, if_pos hon]
  exact pending_startLinks _ (markDues_marks (s := checksBegun s ls) hin hx hl hret)

/-- One failing link, with nothing else under way and no hold, begins its window at once (R44, R45). -/
theorem warmChecks_one {s : State} {l : Link} {x : Trained} (hx : x ∈ s.pwr.links) (hl : x.link = linkId l)
    (hret : x.retired = false) (hon : bit s.pwr.marginCtl 16 = true) (hhold : s.pwr.heldNow = false)
    (hidle : ∀ b ∈ s.pwr.links, b.retraining = false ∧ b.due = false) :
    { x with retraining := true } ∈ (warmChecks s [l]).pwr.links := by
  obtain ⟨hre, hdue⟩ := hidle x hx
  have hmark : { x with due := true } ∈ (markDue (checksBegun s [l]) l).pwr.links :=
    List.mem_map.mpr ⟨x, hx, by simp [hl, hret, hre]⟩
  have hall : ∀ y ∈ (markDue (checksBegun s [l]) l).pwr.links, y.due = true → y.link = x.link := by
    intro y hy hyd
    obtain ⟨z, hz, rfl⟩ := List.mem_map.mp hy
    split at hyd
    · rename_i hmarked
      simp only [Bool.and_eq_true, decide_eq_true_eq] at hmarked
      simp [hmarked, hl]
    · exact absurd hyd (by simp [(hidle z hz).2])
  have hmay : mayRetrainId (markDue (checksBegun s [l]) l).pwr x.link = true := by
    have hnone : ∀ b ∈ (markDue (checksBegun s [l]) l).pwr.links, b.retraining = false := by
      intro b hb
      obtain ⟨z, hz, rfl⟩ := List.mem_map.mp hb
      split <;> exact (hidle z hz).1
    have hon' : bit (markDue (checksBegun s [l]) l).pwr.marginCtl 16 = true := hon
    have hhold' : (markDue (checksBegun s [l]) l).pwr.heldNow = false := hhold
    simp only [mayRetrainId, hon', hhold', Bool.not_false, Bool.and_true, Bool.true_and, Bool.not_eq_true',
      List.any_eq_false]
    intro b hb
    simp [hnone b hb]
  have hone := startLinks_one hmark rfl hret hall hmay
    ((markDue (checksBegun s [l]) l).pwr.links.map (·.link)) (List.mem_map_of_mem hmark)
  rw [warmChecks_eq, if_pos hon]
  have hsame : ({ x with retraining := true } : Trained) = { x with retraining := true, due := false } := by rw [← hdue]
  rw [hsame]
  exact hone

/-! ### The end of recovery -/

theorem quiet_revalidate (s : State) : (revalidate s).quiet = s.quiet := by
  unfold revalidate
  split <;> simp

theorem revalidate_host (s : State) : (revalidate s).host = s.host := by
  unfold revalidate
  split <;> simp

theorem attemptQuiesce_keeps {β : Type} (g : State → β) (hg : ∀ s f, g (State.onFwu s f) = g s) (s : State) :
    g (attemptQuiesce s) = g s := by
  unfold attemptQuiesce
  split
  · exact hg _ _
  · rfl

/-- What recovery's end leaves as it was once ready is set. -/
def recoveryView (s : State) : Power × Sessions × Hearth × HostPort := (s.pwr, s.ses, s.hrt, s.host)

theorem recoveryView_of_quiet {s t : State} (hq : t.quiet = s.quiet) (hh : t.host = s.host) :
    recoveryView t = recoveryView s := by
  rw [recoveryView, recoveryView, quiet_pwr hq, quiet_ses hq, quiet_hrt hq, hh]

/-- Recovery's end makes the part ready, asks for the map and proposes the part up (R41, R292). -/
theorem execWarmResetRecoveryEnd_ends {s : State} (hrec : s.pwr.recovering = true) (hheld : s.pwr.warmHeld = false)
    (hleft : checksLeft s.pwr = false) :
    ∃ t, execWarmResetRecoveryEnd s = .next t ∧
      recoveryView t = ({ s.pwr with ready := true, bootStage := 6, recovering := false }, s.ses, s.hrt, s.host) := by
  unfold execWarmResetRecoveryEnd
  rw [if_pos (by simp [hrec, hheld, hleft])]
  dsimp only
  generalize hr : (s.onPwr fun p => { p with ready := true, bootStage := 6, recovering := false }) = r
  have hview : recoveryView r = ({ s.pwr with ready := true, bootStage := 6, recovering := false }, s.ses, s.hrt, s.host) := by
    rw [← hr]; rfl
  have hask : recoveryView (attemptQuiesce (if r.rdg.configured then revalidate r else r)) = recoveryView r := by
    rw [attemptQuiesce_keeps recoveryView fun _ _ => rfl]
    split
    · exact recoveryView_of_quiet (quiet_revalidate r) (revalidate_host r)
    · rfl
  generalize attemptQuiesce (if r.rdg.configured then revalidate r else r) = v at hask
  refine ⟨_, rfl, Eq.trans ?_ (hask.trans hview)⟩
  split
  · split
    · exact recoveryView_of_quiet (quiet_propose _ _) (propose_host _ _)
    · rfl
  · rfl

/-- Settles O10. -/
theorem warmRecoveryEndsReady : Obligations.WarmRecoveryEndsReady := by
  refine ⟨fun s fails hheld => ?_, fun s hleft => ?_, fun s hrec hheld hleft => ?_⟩
  · generalize hu : ((s.onPins fun p => { p with warmrstN := true }).onPwr fun p => { p with warmHeld := false }) = u
    have hlinks : u.pwr.links = s.pwr.links := by rw [← hu]; rfl
    have hctl : u.pwr.marginCtl = s.pwr.marginCtl := by rw [← hu]; rfl
    have hhold : u.pwr.heldNow = s.pwr.heldNow := by rw [← hu]; rfl
    obtain ⟨hwarm, hready, hstage, hcount, -, -⟩ := unlinked_eq (warmChecks_unlinked u fails)
    have hnext : execWarmrstNRelease fails s = .next (warmChecks u fails) := by
      rw [← hu]; exact if_pos hheld
    refine ⟨_, hnext, ?_, ?_, ?_, ?_, ?_, ?_, ?_, fun l x hin hx hl hret hon => ?_, fun l x hone hx hl hret hon hh hidle => ?_⟩
    · rw [warmChecks_keeps (·.pins.warmrstN) fun _ _ => rfl, ← hu]; rfl
    · rw [hwarm, ← hu]; rfl
    · rw [hready, ← hu]; rfl
    · rw [hstage, ← hu]; rfl
    · rw [warmChecks_keeps (·.ses) fun _ _ => rfl, ← hu]; rfl
    · rw [warmChecks_keeps (·.hrt) fun _ _ => rfl, ← hu]; rfl
    · rw [hcount, ← hu]; rfl
    · exact warmChecks_pending hin (hlinks ▸ hx) hl hret (hctl ▸ hon)
    · rw [hone]
      exact warmChecks_one (hlinks ▸ hx) hl hret (hctl ▸ hon) (hhold.trans hh) (hlinks ▸ hidle)
  · simp [exec_warmResetRecoveryEnd, execWarmResetRecoveryEnd, hleft]
  · obtain ⟨t, hnext, hview⟩ := execWarmResetRecoveryEnd_ends hrec hheld hleft
    simp only [recoveryView, Prod.mk.injEq] at hview
    obtain ⟨hpwr, hses, hhrt, hhost⟩ := hview
    refine ⟨t, hnext, ?_, ?_, ?_, hses, hhrt, hhost⟩ <;> rw [hpwr]

/-! ### Margin checks -/

/-- The record of a link whose window has begun (R44). -/
def began (x : Trained) : Trained := { x with retraining := true, due := false }

theorem startLinks_lookup_idle {p : Power} {k : Nat} {x : Trained} (ns : List Nat)
    (h : lookupBy (·.link) k p.links = some x) (hx : x.due = false) :
    lookupBy (·.link) k (ns.foldl startLink p).links = some x := by
  induction ns generalizing p with
  | nil => exact h
  | cons n ns ih => exact ih (startLink_lookup p n k x h hx)

/-- Starting windows leaves the record of a link, or begins its window if it was due and none is held (R44, R45). -/
theorem startLinks_lookup {p : Power} {k : Nat} {x : Trained} (ns : List Nat)
    (h : lookupBy (·.link) k p.links = some x) :
    ∃ y, lookupBy (·.link) k (ns.foldl startLink p).links = some y ∧
      (y = x ∨ (y = began x ∧ x.due = true ∧ bit p.marginCtl 16 = true ∧ p.heldNow = false)) := by
  induction ns generalizing p with
  | nil => exact ⟨x, h, .inl rfl⟩
  | cons n ns ih =>
    rw [List.foldl_cons]
    by_cases hmay : mayRetrainId p n = true
    · have hlook : lookupBy (·.link) k (startLink p n).links =
          some (if x.link = n && x.due && !x.retired then began x else x) := by
        rw [startLink, if_pos hmay, lookupBy_map _ _ (fun y => by split <;> rfl), h]
        rfl
      split at hlook
      · rename_i hbegins
        simp only [mayRetrainId, Bool.and_eq_true, Bool.not_eq_true'] at hmay hbegins
        refine ⟨began x, ?_, .inr ⟨rfl, hbegins.1.2, hmay.1.1, hmay.1.2⟩⟩
        exact startLinks_lookup_idle ns hlook rfl
      · have hctl : (startLink p n).marginCtl = p.marginCtl ∧ (startLink p n).heldNow = p.heldNow := by
          rw [startLink, if_pos hmay]; exact ⟨rfl, rfl⟩
        obtain ⟨y, hy, hor⟩ := ih hlook
        rw [hctl.1, hctl.2] at hor
        exact ⟨y, hy, hor⟩
    · rw [startLink, if_neg hmay]
      exact ih h

/-- What a margin check records of a link: the smaller of width and height, when, and whether it is due (R43, R44). -/
def checked (s : State) (x : Trained) (e : Eye) (celsius : Nat) : Trained :=
  { x with margin := min e.width e.height, celsius := some (x.celsius.getD celsius), checkedAt := some s.localNs,
           due := x.due || ((checkFails s.pwr (min e.width e.height) || decide (x.celsius.getD celsius + 10 < celsius) ||
             decide (celsius + 10 < x.celsius.getD celsius)) && bit s.pwr.marginCtl 16) }

theorem checked_due (s : State) (x : Trained) (e : Eye) (celsius : Nat) : (checked s x e celsius).due = true ↔
    (x.due = true ∨ (bit s.pwr.marginCtl 16 = true ∧ (min e.width e.height < fld s.pwr.marginCtl 15 8 ∨
      x.celsius.getD celsius + 10 < celsius ∨ celsius + 10 < x.celsius.getD celsius))) := by
  simp only [checked, checkFails, Bool.or_eq_true, Bool.and_eq_true, decide_eq_true_eq, or_assoc, and_comm]

@[simp] theorem advanceRotation_marginCtl (p : Power) (n m : Nat) : (advanceRotation p n m).marginCtl = p.marginCtl := by
  unfold advanceRotation; dsimp only; split <;> rfl

@[simp] theorem advanceRotation_marginFailures (p : Power) (n m : Nat) :
    (advanceRotation p n m).marginFailures = p.marginFailures := by
  unfold advanceRotation; dsimp only; split <;> rfl

/-- A check in its turn, or one owed, records what it reads before the windows that are due begin (R43, R44). -/
theorem execMarginCheck_checks {s : State} {l : Link} {e : Eye} {celsius : Nat} {x : Trained}
    (hl : lookupBy (·.link) (linkId l) s.pwr.links = some x) (hret : x.retired = false) (hre : x.retraining = false)
    (hturn : owesCheck s x = true ∨ checkTurn s x = true) :
    ∃ u : State, execMarginCheck l e celsius s = .next (startDue u) ∧ u.hrt = s.hrt ∧ u.ses = s.ses ∧
      u.pwr.links = upsert (·.link) (checked s x e celsius) s.pwr.links ∧ u.pwr.marginCtl = s.pwr.marginCtl ∧
      u.pwr.heldNow = s.pwr.heldNow ∧ u.pwr.marginFailures =
        s.pwr.marginFailures + (if min e.width e.height < fld s.pwr.marginCtl 15 8 then 1 else 0) := by
  have hgo : ¬(x.retired || x.retraining || !(owesCheck s x || checkTurn s x)) = true := by
    rw [hret, hre, Bool.or_eq_true_iff.mpr hturn]; decide
  unfold execMarginCheck
  rw [hl]
  dsimp only
  rw [if_neg hgo]
  refine ⟨_, rfl, rfl, rfl, ?_, ?_, ?_, ?_⟩
  all_goals rw [State.onPwr_pwr]
  · split
    · rfl
    · exact advanceRotation_links _ _ _
  · split
    · rfl
    · exact advanceRotation_marginCtl _ _ _
  · split
    · rfl
    · exact advanceRotation_heldNow _ _ _
  · have hcount : (if checkFails s.pwr (min e.width e.height) then s.pwr.marginFailures + 1 else s.pwr.marginFailures) =
        s.pwr.marginFailures + (if min e.width e.height < fld s.pwr.marginCtl 15 8 then 1 else 0) := by
      simp only [checkFails, decide_eq_true_eq]
      split <;> rfl
    rw [← hcount]
    split
    · rfl
    · exact advanceRotation_marginFailures _ _ _

theorem execMarginCheck_skips {s : State} {l : Link} {e : Eye} {celsius : Nat} {x : Trained}
    (hl : lookupBy (·.link) (linkId l) s.pwr.links = some x) (howes : owesCheck s x = false) (hturn : checkTurn s x = false) :
    execMarginCheck l e celsius s = .next s := by
  unfold execMarginCheck
  rw [hl]
  exact if_pos (by simp [howes, hturn])

/-- The end of a window takes the new trained point and counts it (R44, Table 3.7). -/
theorem execRetrainEnd_counts {s : State} {l : Link} {c : Nat} {x : Trained} (h : s.pwr.heldNow = false)
    (hl : lookupBy (·.link) (linkId l) s.pwr.links = some x) (hx : x.retraining = true) :
    execRetrainEnd l c s = .next (match l with
      | .channel n => logEvent ((startDue (s.onPwr fun p => { p with links := upsert (·.link) (retrained x c) p.links })).onPwr
          fun p => { p with foothillRetrains := bump 16 p.foothillRetrains }) 12 0 n
      | .lane n => logEvent ((startDue (s.onPwr fun p => { p with links := upsert (·.link) (retrained x c) p.links })).onPwr
          fun p => { p with ridgeRetrains := bump 16 p.ridgeRetrains }) 12 0 (256 + n)) := by
  unfold execRetrainEnd
  rw [hl]
  simp only [hx, h, Bool.not_true, Bool.or_self, Bool.false_eq_true, if_false]
  cases l <;> rfl

/-- Settles O15. -/
theorem marginChecksRetrain : Obligations.MarginChecksRetrain := by
  refine ⟨fun s l width height celsius x hl hret hre => ⟨execMarginCheck_skips hl, fun hturn => ?_⟩,
    fun s l celsius x hl hx hhold => ?_⟩
  · obtain ⟨u, hnext, hhrt, hses, hlinks, hctl, hheld, hfails⟩ :=
      execMarginCheck_checks (e := ⟨width, height⟩) (celsius := celsius) hl hret hre hturn
    have hput : lookupBy (·.link) (linkId l) u.pwr.links = some (checked s x ⟨width, height⟩ celsius) := by
      rw [hlinks]
      exact upsert_get' _ _ _ _ (lookup_mem hl).2
    obtain ⟨y, hy, hor⟩ := startLinks_lookup (u.pwr.links.map (·.link)) hput
    have hcount : (startDue u).pwr.marginFailures = u.pwr.marginFailures := (unlinked_eq (startDue_unlinked u)).2.2.2.1
    refine ⟨startDue u, y, hnext, hhrt, hses, hy, ?_, ?_, hcount.trans hfails, ?_, fun hyre => ?_⟩
    · rcases hor with rfl | ⟨rfl, -⟩ <;> rfl
    · rcases hor with rfl | ⟨rfl, -⟩ <;> rfl
    · refine Iff.trans ?_ (checked_due s x ⟨width, height⟩ celsius)
      rcases hor with rfl | ⟨rfl, hdue, -⟩
      · simp [checked, hre]
      · simp [began, hdue]
    · rcases hor with rfl | ⟨-, -, hon, hno⟩
      · simp [checked, hre] at hyre
      · exact ⟨hctl ▸ hon, hheld ▸ hno⟩
  · have hput : lookupBy (·.link) (linkId l) (upsert (·.link) (retrained x celsius) s.pwr.links) = some (retrained x celsius) :=
      upsert_get' _ _ _ _ (lookup_mem hl).2
    have hstands := startDue_lookup (s.onPwr fun p => { p with links := upsert (·.link) (retrained x celsius) p.links })
      _ _ hput rfl
    obtain ⟨-, -, -, -, hfoot, hridge⟩ := unlinked_eq (startDue_unlinked
      (s.onPwr fun p => { p with links := upsert (·.link) (retrained x celsius) p.links }))
    refine ⟨_, (exec_retrainEnd s l celsius).trans (execRetrainEnd_counts hhold hl hx), ?_⟩
    cases l with
    | channel n =>
      refine ⟨⟨_, hstands, rfl, rfl, rfl⟩, fun _ _ => ⟨?_, hridge⟩, fun _ h => by cases h⟩
      exact (congrArg (bump 16) hfoot).trans (Nat.min_comm _ _)
    | lane n =>
      refine ⟨⟨_, hstands, rfl, rfl, rfl⟩, fun _ h => (by cases h), fun _ _ => ⟨?_, hfoot⟩⟩
      exact (congrArg (bump 16) hridge).trans (Nat.min_comm _ _)

end Sys2Proof.Machine
end

section
/-!
SUPPORT. A dip episode: the hold, the return of the rails and the end of the episode (R46 to R49).
-/

namespace Sys2Proof.Machine

/-! ### The hold -/

/-- Flagging held work changes descriptors only. -/
theorem flagHeld_keeps {β : Type} (g : State → β) (hg : ∀ s o f, g (State.onDescriptor s o f) = g s) (s : State)
    (held : List HeldWork) : g (flagHeld s held) = g s :=
  foldl_keeps g _ (fun s o => hg s o _) _ s

/-- A hold that begins lists all work in flight, and stops refreshes owed in a shared run (R48). -/
theorem beginHold_holds (s : State) (rails : List Rail) :
    (beginHold s false rails).pwr.dipActive = true ∧ (beginHold s false rails).pwr.heldNow = true ∧
    (beginHold s false rails).pwr.dipStart = s.localNs ∧ (beginHold s false rails).pwr.dipRails = rails ∧
    (beginHold s false rails).pins = s.pins ∧ (beginHold s false rails).ses = s.ses ∧
    (beginHold s false rails).hrt.owedShared = [] ∧ (beginHold s false rails).hrt.mem = s.hrt.mem ∧
    ∀ w ∈ workInFlight s, w ∈ (beginHold s false rails).pwr.held := by
  refine ⟨?_, rfl, ?_, ?_, ?_, ?_, rfl, ?_, fun w hw => ?_⟩
  all_goals simp only [beginHold, stopWork, State.onFwu_pwr, State.onFwu_pins, State.onFwu_ses, State.onFwu_hrt,
    State.onHrt_pwr, State.onHrt_pins, State.onHrt_ses, State.onHrt_hrt, State.onPwr_pwr, State.onPwr_pins,
    State.onPwr_ses, State.onPwr_hrt, flagHeld_pwr]
  · exact flagHeld_keeps (·.pins) (fun _ _ _ => rfl) _ _
  · exact flagHeld_keeps (·.ses) (fun _ _ _ => rfl) _ _
  · exact flagHeld_keeps (·.hrt.mem) (fun _ _ _ => rfl) _ _
  · exact List.mem_append_right _ (List.mem_filter.mpr ⟨hw, rfl⟩)

theorem step_mem_workInFlight {s : State} {b : Batch} (hb : b ∈ s.ses.batches) (hc : b.columns ≠ [])
    (hr : b.resting = false) : HeldWork.step b.id ∈ workInFlight s := by
  have hin : b ∈ s.ses.batches.filter fun b => !b.columns.isEmpty && !b.resting :=
    List.mem_filter.mpr ⟨hb, by simp [hc, hr]⟩
  simp only [workInFlight, List.append_assoc]
  exact List.mem_append_left _ (List.mem_map_of_mem (f := fun b : Batch => HeldWork.step b.id) hin)

theorem chunk_mem_workInFlight {s : State} {x : Session} (hx : x ∈ s.ses.table) (hp : x.prefill.isSome) :
    HeldWork.chunk x.slot ∈ workInFlight s := by
  simp only [workInFlight, List.append_assoc]
  exact List.mem_append_right _ (List.mem_append_left _ (List.mem_map_of_mem (f := fun x : Session => HeldWork.chunk x.slot)
    (List.mem_filter (p := fun x => x.prefill.isSome).mpr ⟨hx, hp⟩)))

/-! ### Work that goes on -/

theorem resumeWork_unlinked (s : State) :
    (resumeWork s).pwr.unlinked = ({ s.pwr with heldNow := false } : Power).unlinked := by
  unfold resumeWork
  rw [attemptQuiesce_keeps (·.pwr.unlinked) fun _ _ => rfl, startDue_unlinked]
  rfl

theorem resumeWork_pins (s : State) : (resumeWork s).pins = s.pins := by
  unfold resumeWork
  rw [attemptQuiesce_keeps (·.pins) fun _ _ => rfl]
  rfl

/-- Work that goes on after a hold finds every log as it was (R49). -/
theorem resumeWork_logs (s : State) : (resumeWork s).ses.table.map (fun x => (x.slot, x.log)) =
    s.ses.table.map (fun x => (x.slot, x.log)) := by
  unfold resumeWork
  rw [attemptQuiesce_keeps (·.ses) fun _ _ => rfl]
  change List.map _ (List.map _ _) = _
  rw [List.map_map]
  refine List.map_congr_left fun x _ => ?_
  dsimp only [Function.comp]
  split <;> rfl

/-! ### The return of a rail -/

theorem exists_railBit : ∀ j < 7, ∃ q ∈ allRails, railBit q = j := by decide

/-- The last rail back above its level leaves every rail recovered. -/
theorem railsRecovered_onRail {s : State} {r : Rail} (hrails : s.pwr.rails.length = 7)
    (hothers : ∀ q, q ≠ r → (railOf s q).below = false ∧ (railOf s q).pgood = true) :
    railsRecovered (onRail s r fun x =>
      { x with below := false, up := x.up || x.fell, pgood := x.up || x.fell, fell := false }) = true := by
  refine List.all_eq_true.mpr fun x hx => ?_
  obtain ⟨j, hj⟩ := List.mem_iff_getElem?.mp hx
  simp only [onRail, State.onPwr_pwr] at hj
  by_cases hr : railBit r = j
  · rw [← hr, setAt_same _ _ _ (hrails ▸ railBit_lt r)] at hj
    cases hj
    exact Bool.or_not_self _
  · rw [setAt_other _ _ _ _ hr] at hj
    obtain ⟨q, -, hq⟩ := exists_railBit j (by have := (List.getElem?_eq_some_iff.mp hj).1; omega)
    obtain ⟨hbelow, hgood⟩ := hothers q fun h => hr (h ▸ hq)
    have hxq : railOf s q = x := by simp [railOf, hq, hj]
    simp [← hxq, hbelow, hgood]

/-- The state of an episode once every rail has recovered: SUPPLY_ALERT_N high, and when the last came back (R48, R49). -/
structure RailsBack (s u : State) (ns : Nat) : Prop where
  alert : u.pins.supplyAlertN = true
  lastUp : u.pwr.dipLastUp = max s.pwr.dipLastUp (s.localNs - ns)
  recoveredAt : u.pwr.dipRecoveredAt = s.localNs
  active : u.pwr.dipActive = true
  held : u.pwr.heldNow = s.pwr.heldNow
  start : u.pwr.dipStart = s.pwr.dipStart
  injected : injectedEnd u.pwr = injectedEnd s.pwr
  localNs : u.localNs = s.localNs

/-- Whether work goes on once the rails are back: within 200 µs, and no injected hold runs on (R49). -/
def goesOn (u : State) : Bool :=
  u.pwr.heldNow && u.pwr.dipLastUp ≤ u.pwr.dipStart + us 200 && injectedEnd u.pwr ≤ u.localNs

theorem markGood_unsince (s : State) : ∃ since, markGood s = s.onPwr fun p => { p with pgoodSince := since } := by
  unfold markGood
  split
  · exact ⟨_, rfl⟩
  · exact ⟨_, rfl⟩

theorem execRailRecovered_back {s : State} {r : Rail} {mv ns : Nat} (hrails : s.pwr.rails.length = 7)
    (hdip : s.pwr.dipActive = true) (hinj : s.pwr.dipInjected = false) (hcounts : recoveryCounts r mv ns = true)
    (hothers : ∀ q, q ≠ r → (railOf s q).below = false ∧ (railOf s q).pgood = true) :
    ∃ u, RailsBack s u ns ∧ execRailRecovered ⟨r, mv, ns⟩ s = .next (if goesOn u then resumeWork u else u) := by
  have hback := railsRecovered_onRail hrails hothers
  generalize hv : (onRail s r fun x =>
    { x with below := false, up := x.up || x.fell, pgood := x.up || x.fell, fell := false }) = v at hback
  have hact : (v.pwr.dipActive && !v.pwr.dipInjected) = true := by rw [← hv]; simp [onRail, hdip, hinj]
  generalize hw : (v.onPwr fun p => { p with dipLastUp := max p.dipLastUp (v.localNs - ns) }) = w
  have hwback : railsRecovered w = true := by rw [← hw]; exact hback
  obtain ⟨since, hgood⟩ := markGood_unsince w
  have hact' : (((markGood w).onPins fun p => { p with supplyAlertN := true }).pwr.dipActive &&
      !((markGood w).onPins fun p => { p with supplyAlertN := true }).pwr.dipInjected) = true := by
    rw [hgood, ← hw]; exact hact
  refine ⟨((markGood w).onPins fun p => { p with supplyAlertN := true }).onPwr fun p =>
    { p with dipRecoveredAt := (markGood w).localNs }, ?_, ?_⟩
  · rw [hgood, ← hw, ← hv]
    exact ⟨rfl, rfl, rfl, hdip, rfl, rfl, rfl, rfl⟩
  · unfold execRailRecovered
    dsimp only
    rw [if_neg (by simp [hcounts]), hv, if_pos hact, hw, if_pos hwback, if_pos hact']
    rfl

theorem goesOn_eq {s u : State} {ns : Nat} (h : RailsBack s u ns) : goesOn u = true ↔ s.pwr.heldNow = true ∧
    max s.pwr.dipLastUp (s.localNs - ns) ≤ s.pwr.dipStart + 200000 ∧ injectedEnd s.pwr ≤ s.localNs := by
  simp only [goesOn, h.held, h.lastUp, h.start, h.injected, h.localNs, us, Bool.and_eq_true, decide_eq_true_eq, and_assoc]

/-- Whether or not work goes on, the rails are back; what goes on is held no more (R49). -/
theorem railsBack_goes {s u : State} {ns : Nat} (h : RailsBack s u ns) :
    (if goesOn u then resumeWork u else u).pins = u.pins ∧
    (if goesOn u then resumeWork u else u).pwr.dipLastUp = u.pwr.dipLastUp ∧
    (if goesOn u then resumeWork u else u).pwr.dipRecoveredAt = u.pwr.dipRecoveredAt ∧
    (if goesOn u then resumeWork u else u).pwr.dipActive = u.pwr.dipActive ∧
    ((if goesOn u then resumeWork u else u).pwr.heldNow = true ↔ s.pwr.heldNow = true ∧
      ¬(max s.pwr.dipLastUp (s.localNs - ns) ≤ s.pwr.dipStart + 200000 ∧ injectedEnd s.pwr ≤ s.localNs)) := by
  have hgo := goesOn_eq h
  cases hg : goesOn u with
  | true =>
    obtain ⟨hheld, htime⟩ := hgo.mp hg
    have hl := congrArg Power.dipLastUp (resumeWork_unlinked u)
    have hr := congrArg Power.dipRecoveredAt (resumeWork_unlinked u)
    have ha := congrArg Power.dipActive (resumeWork_unlinked u)
    have hh := congrArg Power.heldNow (resumeWork_unlinked u)
    refine ⟨resumeWork_pins u, hl, hr, ha, ⟨fun hyes => ?_, fun hno => absurd htime hno.2⟩⟩
    exact absurd (hyes.symm.trans hh : true = false) (by decide)
  | false =>
    refine ⟨rfl, rfl, rfl, rfl, ?_⟩
    simp only [hg, Bool.false_eq_true, if_false, false_iff] at hgo ⊢
    rw [h.held]
    exact ⟨fun hyes => ⟨hyes, fun htime => hgo ⟨hyes, htime⟩⟩, And.left⟩

/-! ### The end of the episode -/

/-- The length of an episode in µs, rounded up (notes/assumptions/122.md). -/
theorem ceilDiv_thousand (n : Nat) : 1000 * ceilDiv n 1000 < n + 1000 ∧ n ≤ 1000 * ceilDiv n 1000 := by
  unfold ceilDiv
  omega

/-- What the end of an episode counts, and what it leaves of the logs (R49). -/
theorem endHold_counts (s : State) :
    (endHold s).pwr.dipActive = false ∧ (endHold s).pwr.heldNow = false ∧ (endHold s).pwr.dipSeen = true ∧
    (endHold s).pwr.dipCount = min 0xFFFF (s.pwr.dipCount + 1) ∧ (endHold s).pwr.held = [] ∧
    (endHold s).pwr.lastDipUs = sat 16 (episodeUs s) ∧
    (endHold s).ses.table.map (fun x => (x.slot, x.log)) = s.ses.table.map (fun x => (x.slot, x.log)) ∧
    (s.pwr.heldNow = false → (endHold s).ses.table = s.ses.table) := by
  generalize hu : (if s.pwr.heldNow then resumeWork s else s) = u
  have hses : (endHold s).ses = u.ses := by
    rw [← hu]
    exact (foldl_keeps (·.ses) _ (fun s x => sessionEvent_ses s x _ _ _) _ _)
  have hpwr : ((heldSteppers s).foldl (fun t x => sessionEvent t x 5 (episodeUs s))
      (logEvent u 13 0 (railMask u.pwr.dipRails))).pwr = u.pwr :=
    foldl_keeps (·.pwr) _ (fun s x => sessionEvent_pwr s x _ _ _) _ _
  have hcount : u.pwr.dipCount = s.pwr.dipCount := by
    rw [← hu]
    split
    · have h := congrArg Power.dipCount (resumeWork_unlinked s)
      exact h
    · rfl
  refine ⟨rfl, rfl, rfl, ?_, rfl, rfl, ?_, fun hno => ?_⟩
  · have hend : (endHold s).pwr.dipCount = bump 16 u.pwr.dipCount := by
      rw [← hpwr, ← hu]
      rfl
    rw [hend, hcount]
    exact Nat.min_comm _ _
  · rw [hses, ← hu]
    split
    · exact resumeWork_logs s
    · rfl
  · rw [hses, ← hu, hno]
    rfl

/-- Settles O12. -/
theorem dipEpisodeHoldsAndResumes : Obligations.DipEpisodeHoldsAndResumes := by
  refine ⟨fun s r c => ⟨fun hno => ?_, fun hcounts hdip => ?_⟩, fun s r mv ns hw hdip hinj hcounts hothers => ?_,
    fun s last hdip hinj hover hlast hshort => ?_⟩
  · simp [exec_dipEpisodeBegin, execDipEpisodeBegin, hno]
  · generalize hu : (((onRail s r fun x => if c = .pgoodLow then { x with pgood := false } else { x with below := true }).onPwr
      fun p => { p with pgoodSince := none }).onPins fun p => { p with supplyAlertN := false }) = u
    have hnext : execDipEpisodeBegin r c s = .next (beginHold u false [r]) := by
      rw [← hu]
      unfold execDipEpisodeBegin
      rw [if_neg (by simp [hcounts])]
      exact if_neg (by simp [onRail, hdip])
    obtain ⟨hact, hheld, hstart, hrails, hpins, hses, howed, hmem, hwork⟩ := beginHold_holds u [r]
    have hus : u.ses = s.ses := by rw [← hu]; rfl
    refine ⟨_, hnext, hact, hheld, ?_, hrails, ?_, hses.trans hus, howed, ?_, fun b hb hc hr => ?_, fun x hx hp => ?_⟩
    · rw [hstart, ← hu]; rfl
    · rw [hpins, ← hu]; rfl
    · rw [hmem, ← hu]; rfl
    · exact hwork _ (step_mem_workInFlight (hus ▸ hb) hc hr)
    · exact hwork _ (chunk_mem_workInFlight (hus ▸ hx) hp)
  · obtain ⟨u, hu, hnext⟩ := execRailRecovered_back ((shaped_iff s).mpr hw).rails hdip hinj hcounts hothers
    obtain ⟨hpins, hlast, hrecovered, hact, hheld⟩ := railsBack_goes hu
    exact ⟨_, hnext, (congrArg Pins.supplyAlertN hpins).trans hu.alert, hlast.trans hu.lastUp,
      hrecovered.trans hu.recoveredAt, hact.trans hu.active, hheld⟩
  · generalize hu : (s.onPwr fun p => { p with dipLastUp := max p.dipLastUp (injectedEnd p) }) = u
    have hul : u.pwr.dipLastUp = last := by rw [← hu, hlast]; rfl
    have hus : u.pwr.dipStart = s.pwr.dipStart := by rw [← hu]; rfl
    have hnext : execDipEpisodeEnd s = .next (endHold u) := by
      unfold execDipEpisodeEnd
      rw [if_neg (by simp [hdip]), hu]
      refine congrArg _ (if_pos ?_)
      have hdone : (s.pwr.dipInjected || (railsRecovered s && decide (s.pwr.dipRecoveredAt + us 100 ≤ s.localNs))) = true := by
        rcases hover with hi | ⟨hr, ht⟩
        · rw [hi, Bool.true_or]
        · rw [hr, decide_eq_true (show s.pwr.dipRecoveredAt + us 100 ≤ s.localNs from ht), Bool.true_and, Bool.or_true]
      rw [hdone, hul]
      simp [hinj, us, hshort]
    obtain ⟨hact, hheld, hseen, hcount, hnone, hlen, hlogs, hsame⟩ := endHold_counts u
    have hfit : (endHold u).pwr.lastDipUs = ceilDiv (last - s.pwr.dipStart) 1000 := by
      rw [hlen, episodeUs, hul, hus]
      refine Nat.min_eq_left ?_
      have := ceilDiv_thousand (last - s.pwr.dipStart)
      omega
    refine ⟨_, hnext, hact, hheld, hseen, ?_, hnone, ?_, ?_, ?_, fun hno => ?_⟩
    · rw [hcount, ← hu]; rfl
    · rw [hfit]; exact (ceilDiv_thousand _).1
    · rw [hfit]; exact (ceilDiv_thousand _).2
    · rw [hlogs, ← hu]; rfl
    · rw [hsame (by rw [← hu]; exact hno), ← hu]; rfl

end Sys2Proof.Machine
end

section
/-!
SUPPORT. What the tables of the state return after a change: queue pairs, descriptors in flight, sessions. A part of the state
that an operation leaves alone returns what it returned.
-/

namespace Sys2Proof.Machine

/-! ### Queue pairs -/

theorem qp_of_host {s t : State} (h : t.host = s.host) (q : Nat) : t.qp q = s.qp q := by simp only [State.qp, h]
theorem qp_of_qps {s t : State} (h : t.host.qps = s.host.qps) (q : Nat) : t.qp q = s.qp q := by simp only [State.qp, h]

@[simp] theorem qp_onQp_same (s : State) (q : Nat) (f : QueuePair → QueuePair) :
    (s.onQp q f).qp q = { f (s.qp q) with id := q } :=
  congrArg (Option.getD · _) (upsert_get' QueuePair.id { f (s.qp q) with id := q } s.host.qps q rfl)

theorem qp_onQp_other (s : State) {q k : Nat} (f : QueuePair → QueuePair) (h : k ≠ q) : (s.onQp q f).qp k = s.qp k :=
  congrArg (Option.getD · _) (upsert_other QueuePair.id { f (s.qp q) with id := q } s.host.qps k (Ne.symm h))

@[simp] theorem qp_emit (s : State) (o : Output) (q : Nat) : (s.emit o).qp q = s.qp q := rfl
@[simp] theorem qp_onDesc (s : State) (f : List InFlight → List InFlight) (q : Nat) : (s.onDesc f).qp q = s.qp q := rfl
@[simp] theorem qp_onDescriptor (s : State) (o : Origin) (f : InFlight → InFlight) (q : Nat) :
    (s.onDescriptor o f).qp q = s.qp q := rfl
@[simp] theorem qp_dropDescriptor (s : State) (o : Origin) (q : Nat) : (dropDescriptor s o).qp q = s.qp q := rfl

/-- What an entry put on a ring leaves of its queue pair: all but cq_next and the pending signal. -/
def QueuePair.unsignalled (p : QueuePair) : QueuePair := { p with cqNext := 0, signal := 0, signalAt := none, id := 0 }

theorem signalEntry_cqNext (s : State) (q : Nat) (now : Bool) (k : Nat) :
    ((signalEntry s q now).qp k).cqNext = (s.qp k).cqNext := by
  rcases Decidable.em (k = q) with rfl | hk
  · simp only [signalEntry, raiseIrq]
    split
    · rfl
    · split <;> simp
  · simp only [signalEntry, raiseIrq]
    split
    · rfl
    · split <;> simp [qp_onQp_other _ _ hk]

theorem signalEntry_unsignalled (s : State) (q : Nat) (now : Bool) (k : Nat) :
    ((signalEntry s q now).qp k).unsignalled = (s.qp k).unsignalled := by
  rcases Decidable.em (k = q) with rfl | hk
  · simp only [signalEntry, raiseIrq]
    split
    · rfl
    · split <;> simp [QueuePair.unsignalled]
  · simp only [signalEntry, raiseIrq]
    split
    · rfl
    · split <;> simp [qp_onQp_other _ _ hk]

theorem putCompletion_cqNext (s : State) (q : Nat) (c : Completion) :
    ((putCompletion s q c).qp q).cqNext = (s.qp q).cqNext + 1 :=
  (signalEntry_cqNext _ _ _ _).trans (by simp)

theorem putCompletion_unsignalled (s : State) (q : Nat) (c : Completion) (k : Nat) :
    ((putCompletion s q c).qp k).unsignalled = (s.qp k).unsignalled := by
  refine (signalEntry_unsignalled _ _ _ _).trans ?_
  rcases Decidable.em (k = q) with rfl | hk
  · simp [QueuePair.unsignalled]
  · simp [qp_onQp_other _ _ hk]

/-- The fields of a queue pair that `unsignalled` keeps, for use. -/
theorem unsignalled_eq {p r : QueuePair} (h : p.unsignalled = r.unsignalled) : p.state = r.state ∧ p.cause = r.cause ∧
    p.ctx = r.ctx ∧ p.sqTail = r.sqTail ∧ p.sqNext = r.sqNext ∧ p.cqHead = r.cqHead ∧ p.flueHead = r.flueHead ∧
    p.flueNext = r.flueNext ∧ p.held = r.held ∧ p.reReads = r.reReads ∧ p.flight = r.flight := by
  cases p; cases r; simp_all [QueuePair.unsignalled]

@[simp] theorem desc_signalEntry (s : State) (q : Nat) (now : Bool) : (signalEntry s q now).desc = s.desc := by
  simp only [signalEntry]
  split
  · rfl
  · split <;> rfl

@[simp] theorem desc_putCompletion (s : State) (q : Nat) (c : Completion) : (putCompletion s q c).desc = s.desc :=
  desc_signalEntry _ _ _

@[simp] theorem desc_postEntry (s : State) (q : Nat) (c : Completion) : (postEntry s q c).desc = s.desc := by
  unfold postEntry
  split
  · exact desc_putCompletion s q c
  all_goals rfl

/-! ### Descriptors in flight -/

theorem descriptor_of_desc {s t : State} (h : t.desc = s.desc) (o : Origin) : t.descriptor o = s.descriptor o := by
  simp only [State.descriptor, h]

/-- No descriptor of that origin is in flight. -/
theorem descriptor_none_iff (s : State) (o : Origin) : s.descriptor o = none ↔ ∀ d ∈ s.desc, d.origin ≠ o := by
  simp [State.descriptor]

theorem descriptor_some {s : State} {o : Origin} {d : InFlight} (h : s.descriptor o = some d) : d ∈ s.desc ∧ d.origin = o :=
  ⟨List.mem_of_find?_eq_some h, by simpa using List.find?_some h⟩

@[simp] theorem descriptor_dropDescriptor_same (s : State) (o : Origin) : (dropDescriptor s o).descriptor o = none := by
  simp [descriptor_none_iff, dropDescriptor]

theorem descriptor_dropDescriptor_other (s : State) {o p : Origin} (h : p ≠ o) :
    (dropDescriptor s o).descriptor p = s.descriptor p := by
  simp only [State.descriptor, dropDescriptor, State.onDesc_desc, List.find?_filter]
  congr 1
  funext d
  by_cases hd : d.origin = p <;> simp [hd, h]

/-- A table of descriptors whose entries change without their origins finds the changed entry. -/
theorem descriptor_map (s : State) (o : Origin) (f : InFlight → InFlight) (hf : ∀ d, (f d).origin = d.origin) :
    (s.onDesc fun l => l.map f).descriptor o = (s.descriptor o).map f := by
  simp only [State.descriptor, State.onDesc_desc, List.find?_map, Function.comp_def, hf]

@[simp] theorem descriptor_onDescriptor_same (s : State) (o : Origin) (f : InFlight → InFlight) :
    (s.onDescriptor o f).descriptor o = (s.descriptor o).map fun d => { f d with origin := o } := by
  unfold State.onDescriptor
  rw [descriptor_map s o _ (fun d => by split <;> simp_all)]
  refine Option.map_congr fun d hd => ?_
  rw [if_pos (descriptor_some hd).2]

theorem descriptor_onDescriptor_other (s : State) {o p : Origin} (f : InFlight → InFlight) (h : p ≠ o) :
    (s.onDescriptor o f).descriptor p = s.descriptor p := by
  unfold State.onDescriptor
  rw [descriptor_map s p _ (fun d => by split <;> simp_all)]
  refine (Option.map_congr fun d hd => ?_).trans Option.map_id'
  rw [if_neg fun heq => h ((descriptor_some hd).2.symm.trans heq)]

theorem learnEnd_origin (o : Origin) (b : Bool) (d : InFlight) : (learnEnd o b d).origin = d.origin := by
  unfold learnEnd
  split
  · split <;> rfl
  · rfl

/-- A change of the flight that leaves every entry or takes it away, or changes it without its origin, and adds none. -/
def AddsNoDescriptor (s t : State) : Prop := ∀ d ∈ t.desc, ∃ e ∈ s.desc, e.origin = d.origin ∧ e.discard = d.discard

theorem AddsNoDescriptor.refl (s : State) : AddsNoDescriptor s s := fun d hd => ⟨d, hd, rfl, rfl⟩

theorem AddsNoDescriptor.trans {s t u : State} (h : AddsNoDescriptor s t) (k : AddsNoDescriptor t u) : AddsNoDescriptor s u := by
  intro d hd
  obtain ⟨e, he, ho, hdis⟩ := k d hd
  obtain ⟨e', he', ho', hdis'⟩ := h e he
  exact ⟨e', he', ho'.trans ho, hdis'.trans hdis⟩

theorem AddsNoDescriptor.of_desc {s t : State} (h : t.desc = s.desc) : AddsNoDescriptor s t := fun d hd => ⟨d, h ▸ hd, rfl, rfl⟩

theorem AddsNoDescriptor.foldl {α : Type} {f : State → α → State} (h : ∀ s a, AddsNoDescriptor s (f s a)) (l : List α) (s : State) :
    AddsNoDescriptor s (l.foldl f s) :=
  List.foldlRecOn l f (motive := AddsNoDescriptor s) (.refl s) fun t ht a _ => ht.trans (h t a)

/-- What was not in flight still is not. -/
theorem AddsNoDescriptor.none {s t : State} (h : AddsNoDescriptor s t) {o : Origin} (ho : s.descriptor o = none) :
    t.descriptor o = none := by
  rw [descriptor_none_iff] at ho ⊢
  intro d hd
  obtain ⟨e, he, heo, -⟩ := h d hd
  exact heo ▸ ho e he

theorem addsNoDescriptor_onDescriptor (s : State) (o : Origin) (f : InFlight → InFlight) (hf : ∀ d, (f d).discard = d.discard) :
    AddsNoDescriptor s (s.onDescriptor o f) := by
  intro d hd
  obtain ⟨e, he, rfl⟩ := List.mem_map.mp hd
  refine ⟨e, he, ?_⟩
  split <;> simp_all

theorem addsNoDescriptor_leaveFlight (s : State) (o : Origin) (b : Bool) : AddsNoDescriptor s (leaveFlight s o b) := by
  intro d hd
  obtain ⟨e, he, rfl⟩ := List.mem_map.mp hd
  refine ⟨e, (List.mem_filter.mp he).1, (learnEnd_origin o b e).symm, ?_⟩
  unfold learnEnd
  split
  · split <;> rfl
  · rfl

theorem descriptor_leaveFlight (s : State) (o : Origin) (b : Bool) : (leaveFlight s o b).descriptor o = none := by
  unfold leaveFlight
  rw [descriptor_map _ _ _ (learnEnd_origin o b), descriptor_dropDescriptor_same, Option.map_none]

@[simp] theorem desc_sendResponse (s : State) (part req : Nat) (st : Status) (b : ResponseBody) (obj : Word) (c : Nat) :
    (sendResponse s part req st b obj c).desc = s.desc := by simp

/-- A descriptor that completes: nothing when it is not in flight; else it leaves, and only its entry is posted. -/
theorem completeOne_cases (s : State) (o : Origin) (cs : List Status) (r : Word) :
    (s.descriptor o = none ∧ completeOne s o cs r = s) ∨
    ∃ b, (completeOne s o cs r).desc = (leaveFlight s o b).desc := by
  rcases hd : s.descriptor o with _ | d
  · exact .inl ⟨rfl, by simp only [completeOne, hd]⟩
  · refine .inr ⟨(d.conds ++ cs).contains .cancelled, ?_⟩
    simp only [completeOne, hd]
    split
    · rfl
    · cases o with
      | qp q n => exact desc_postEntry (leaveFlight s _ _) _ _
      | ridge p n => exact desc_sendResponse (leaveFlight s _ _) _ _ _ _ _ _

theorem descriptor_completeOne (s : State) (o : Origin) (cs : List Status) (r : Word) :
    (completeOne s o cs r).descriptor o = none := by
  rcases completeOne_cases s o cs r with ⟨hd, heq⟩ | ⟨b, hdesc⟩
  · rw [heq, hd]
  · rw [descriptor_of_desc hdesc, descriptor_leaveFlight]

theorem addsNoDescriptor_completeOne (s : State) (o : Origin) (cs : List Status) (r : Word) :
    AddsNoDescriptor s (completeOne s o cs r) := by
  rcases completeOne_cases s o cs r with ⟨-, heq⟩ | ⟨b, hdesc⟩
  · rw [heq]; exact .refl s
  · exact (addsNoDescriptor_leaveFlight s o b).trans (.of_desc hdesc)

theorem addsNoDescriptor_forwardDescriptor (s : State) (d : InFlight) (part : Nat) (param : List Byte) :
    AddsNoDescriptor s (forwardDescriptor s d part param) :=
  (AddsNoDescriptor.of_desc (sendRequest_desc ..)).trans (addsNoDescriptor_onDescriptor _ _ _ fun _ => rfl)

/-- One turn of the release of what a completion lets go: nothing, a completion, or a frame to the part asked for. -/
theorem addsNoDescriptor_releaseFences (s : State) : AddsNoDescriptor s (releaseFences s) := by
  unfold releaseFences
  refine AddsNoDescriptor.foldl (fun s d => ?_) _ _
  split
  · exact .refl s
  · split
    · split
      · exact .refl s
      · exact addsNoDescriptor_completeOne _ _ _ _
    · split
      · exact .refl s
      · split
        · exact addsNoDescriptor_completeOne _ _ _ _
        · split
          · split
            · exact .refl s
            · exact addsNoDescriptor_forwardDescriptor _ _ _ _
          · exact .refl s
        · exact .refl s

theorem addsNoDescriptor_complete (s : State) (o : Origin) (cs : List Status) (r : Word) :
    AddsNoDescriptor s (complete s o cs r) :=
  (addsNoDescriptor_completeOne s o cs r).trans (addsNoDescriptor_releaseFences _)

/-- A descriptor that has completed is no longer in flight. -/
@[simp] theorem descriptor_complete (s : State) (o : Origin) (cs : List Status) (r : Word) :
    (complete s o cs r).descriptor o = none :=
  (addsNoDescriptor_releaseFences _).none (descriptor_completeOne s o cs r)

@[simp] theorem descriptor_refuse (s : State) (o : Origin) (st : Status) (r : Word) : (refuse s o st r).descriptor o = none :=
  descriptor_complete s o [st] r

theorem addsNoDescriptor_finishEnded (s : State) : AddsNoDescriptor s (finishEnded s) := by
  unfold finishEnded
  refine AddsNoDescriptor.foldl (fun s d => ?_) _ _
  split
  · exact .refl s
  · split
    · split
      · exact addsNoDescriptor_complete _ _ _ _
      · exact .refl s
    · exact addsNoDescriptor_complete _ _ _ _
    · exact .refl s

/-! ### Sessions -/

theorem session_of_ses {s t : State} (h : t.ses = s.ses) (n : Nat) : t.session n = s.session n := by
  simp only [State.session, h]

@[simp] theorem session_putSession_same (s : State) (x : Session) : (s.putSession x).session x.slot = some x :=
  upsert_get Session.slot x _

theorem session_putSession_at (s : State) {x : Session} {n : Nat} (h : x.slot = n) : (s.putSession x).session n = some x :=
  upsert_get' Session.slot x _ n h

theorem session_putSession_other (s : State) {x : Session} {n : Nat} (h : n ≠ x.slot) :
    (s.putSession x).session n = s.session n :=
  upsert_other Session.slot x _ n (Ne.symm h)

theorem session_slot {s : State} {n : Nat} {x : Session} (h : s.session n = some x) : x.slot = n := (lookup_mem h).2

theorem session_onSession_same (s : State) {n : Nat} {x : Session} (f : Session → Session) (h : s.session n = some x) :
    (s.onSession n f).session n = some { f x with slot := n } := by
  simp only [State.onSession, h]
  exact session_putSession_at s rfl

theorem session_onSession_other (s : State) {n k : Nat} (f : Session → Session) (h : k ≠ n) :
    (s.onSession n f).session k = s.session k := by
  unfold State.onSession
  split
  · exact session_putSession_other s h
  · rfl

end Sys2Proof.Machine
end

section
/-!
SUPPORT. The host port: the link and the attachment (R52 to R54), the end of a DISABLE (R104), the doorbells (R69, R80).
-/

namespace Sys2Proof.Machine

/-! ### Link and attachment -/

/-- What the link going down does to a queue pair: unless DISABLED it halts with cause 4 (R63). -/
def haltedByLink (q : QueuePair) : QueuePair :=
  if q.state = .disabled then q else { q with state := .halted, cause := 4 }

theorem haltedByLink_stops (q : QueuePair) :
    (haltedByLink q).state = .disabled ∨ ((haltedByLink q).state = .halted ∧ (haltedByLink q).cause = 4) := by
  unfold haltedByLink
  split
  · exact .inl ‹_›
  · exact .inr ⟨rfl, rfl⟩

theorem haltedByLink_keeps (q : QueuePair) :
    ((haltedByLink q).id, (haltedByLink q).sqNext, (haltedByLink q).cqNext, (haltedByLink q).flueNext, (haltedByLink q).held) =
      (q.id, q.sqNext, q.cqNext, q.flueNext, q.held) := by
  unfold haltedByLink
  split <;> rfl

theorem execHostLinkDown_qps (s : State) : execHostLinkDown s = .next (s.onHost fun h =>
    { h with modulesUp := 0, halfWidth := 0, rate := 0, linkDrop := true, qps := h.qps.map haltedByLink }) := rfl

/-- An attach of a host that is not attached is by the version it asks for (R54). -/
theorem execAttach_first {s : State} {v : Word} (hready : s.pwr.ready = true) (hbit : bit v 8 = true)
    (hatt : s.host.attached = false) : execAttach v s =
      if fld v 3 0 = 1 then .next (s.onHost fun h => { h with
        attachReg := masked v 0x1F, attached := true, version := 1, compat := bit v 4, attachStatus := 0 })
      else .next (s.onHost fun h => { h with attachReg := masked v 0x1F, attachStatus := 0x0403 }) := by
  unfold execAttach
  rw [if_neg (by simp [hready])]
  simp only [hbit, Bool.not_true, Bool.false_eq_true, if_false]
  exact if_neg (by simp [hatt])

/-- Settles O18: each event of the link, and an attach by the version asked for. -/
theorem linkAndAttachment : Obligations.LinkAndAttachment := by
  refine ⟨fun s m h rate n hreset => ?_, fun s => ?_, fun s m hleft => ?_, fun s v hready hbit hatt => ?_⟩
  · exact ⟨_, (exec_hostLinkUp m h rate n s).trans (if_neg (by simp [hreset])), rfl, rfl, rfl, rfl, rfl⟩
  · refine ⟨_, (exec_hostLinkDown s).trans (execHostLinkDown_qps s), rfl, rfl, rfl, rfl, rfl, fun q hq => ?_, ?_⟩
    · obtain ⟨p, -, rfl⟩ := List.mem_map.mp hq
      exact haltedByLink_stops p
    · exact (List.map_map ..).trans (List.map_congr_left fun p _ => haltedByLink_keeps p)
  · exact ⟨_, (exec_hostModuleLost m s).trans (congrArg Host.Outcome.next (if_neg hleft)), rfl, rfl, rfl⟩
  · have hnext := (exec_attach v s).trans (execAttach_first hready hbit hatt)
    rcases Decidable.em (fld v 3 0 = 1) with h1 | h1
    · rw [if_pos h1] at hnext
      exact ⟨_, hnext, rfl, rfl, fun _ => ⟨rfl, rfl, rfl, rfl⟩, fun h => absurd h1 h⟩
    · rw [if_neg h1] at hnext
      exact ⟨_, hnext, rfl, rfl, fun h => absurd h h1, fun _ => ⟨hatt, rfl⟩⟩

/-! ### The end of a DISABLE -/

/-- The descriptor runs on another part. -/
def runsElsewhere (d : InFlight) : Bool := match d.phase with
  | .sent _ _ => true
  | _ => false

theorem runsElsewhere_iff (d : InFlight) : runsElsewhere d = true ↔ ∃ p id, d.phase = .sent p id := by
  unfold runsElsewhere
  split <;> simp_all

theorem execQpDisableDone_eq (q : Nat) (s : State) : execQpDisableDone q s =
    if s.host.cmdBusy && s.host.cmdQp = q &&
        (!(s.desc.any fun d => fromQueue q d && runsElsewhere d) || s.host.cmdAt + us 100 ≤ s.localNs) then
      .next ((s.onDesc fun l => l.filter fun d => !(fromQueue q d && d.discard && runsElsewhere d)).onHost fun h =>
        { h with cmdBusy := false })
    else .next s := rfl

/-- Settles O21: the end waits for the descriptors sent, at most 100 µs, and takes only those that the DISABLE ended. -/
theorem disableStaysBusyForOtherParts : Obligations.DisableStaysBusyForOtherParts := by
  intro s q hbusy hqp
  refine ⟨fun ⟨d, hd, hq, hsent⟩ hearly => ?_, fun hover => ?_⟩
  · have haway : (s.desc.any fun d => fromQueue q d && runsElsewhere d) = true :=
      List.any_eq_true.mpr ⟨d, hd, by simp [hq, (runsElsewhere_iff d).mpr hsent]⟩
    have hus : ¬ s.host.cmdAt + us 100 ≤ s.localNs := Nat.not_le.mpr hearly
    rw [exec_qpDisableDone, execQpDisableDone_eq, haway, decide_eq_false hus]
    simp
  · have hcond : (s.host.cmdBusy && s.host.cmdQp = q &&
        (!(s.desc.any fun d => fromQueue q d && runsElsewhere d) || s.host.cmdAt + us 100 ≤ s.localNs)) = true := by
      have hover' : (!(s.desc.any fun d => fromQueue q d && runsElsewhere d) || s.host.cmdAt + us 100 ≤ s.localNs) = true := by
        rcases hover with hnone | hlate
        · rw [Bool.or_eq_true]
          refine .inl (Bool.not_eq_true'  _ |>.mpr (List.any_eq_false.mpr fun d hd => ?_))
          intro h
          obtain ⟨hq, hsent⟩ := Bool.and_eq_true_iff.mp h
          obtain ⟨p, id, hp⟩ := (runsElsewhere_iff d).mp hsent
          exact hnone d hd hq p id hp
        · simp [us, hlate]
      rw [hover', hbusy, decide_eq_true hqp]
      rfl
    refine ⟨_, (exec_qpDisableDone q s).trans (if_pos hcond), rfl, rfl, rfl, fun d hd => (List.mem_filter.mp hd).1,
      fun d hd hkeep => List.mem_filter.mpr ⟨hd, ?_⟩⟩
    rcases hkeep with h | h <;> simp [h]

/-! ### Doorbells -/

theorem hasRings_of_enabled {s : State} {q : Nat} (hready : s.pwr.ready = true) (hq : (s.qp q).state = .enabled) :
    hasRings s q = true := by
  simp [hasRings, hready, hq]

/-- The entry that reports a refused doorbell (Table 4.13). -/
def doorbellEntry (s : State) (q which : Nat) (v : Seq) : Completion :=
  { subSeq := (s.qp q).sqNext, tag := 0, status := 0, opcode := 2, kind := 1, conds := 0,
    result := word [put 31 0 v.toNat, put 33 32 which], irqNow := false }

theorem doorbellBad_enabled {s : State} {q : Nat} (which : Nat) (v : Seq) (hq : (s.qp q).state = .enabled) :
    doorbellBad s q which v = putCompletion s q (doorbellEntry s q which v) := postEntry_enabled s q _ hq

/-- A refused doorbell of an ENABLED queue pair reports itself and moves no count. -/
theorem doorbellBad_reports {s : State} {q : Nat} (which : Nat) (v : Seq) (hq : (s.qp q).state = .enabled) :
    ReportsDoorbell s (doorbellBad s q which v) q which v := by
  rw [doorbellBad_enabled which v hq]
  obtain ⟨-, -, -, htail, -, hcq, hflue, -, -, -, hflight⟩ :=
    unsignalled_eq (putCompletion_unsignalled s q (doorbellEntry s q which v) q)
  obtain ⟨rest, hout⟩ := putCompletion_out s q (doorbellEntry s q which v)
  exact ⟨htail, hcq, hflue, congrArg FlightRing.head hflight, putCompletion_cqNext s q _, desc_putCompletion s q _,
    quiet_putCompletion s q _, _, rest, hout.symm.trans (List.append_assoc ..)⟩

/-- While no session waits for a column, none is taken up. -/
theorem readmit_none {s : State} (h : NoneWaitsForColumn s) : readmit s = s := by
  have hnone : s.ses.table.filter (wantsColumn s) = [] := List.filter_eq_nil_iff.mpr fun x hx => by
    unfold wantsColumn
    split
    · simp
    · rename_i g hg
      simp [Option.isSome_iff_ne_none.mp (h x hx g hg)]
  simp only [readmit, hnone, List.map_nil, dedup, List.foldl_nil]

theorem noneWaitsForColumn_of_ses {s t : State} (h : t.ses = s.ses) (hs : NoneWaitsForColumn s) : NoneWaitsForColumn t := by
  unfold NoneWaitsForColumn
  rw [h]
  exact hs

/-- What written records leave of a queue pair's flight ring. -/
theorem drainFlight_keeps (n : Nat) (s : State) (q : Nat) :
    (drainFlight n s q).desc = s.desc ∧ ((drainFlight n s q).qp q).flight.head = (s.qp q).flight.head ∧
    ((drainFlight n s q).qp q).state = (s.qp q).state ∧ ((drainFlight n s q).qp q).held = (s.qp q).held ∧
    s.out <+: (drainFlight n s q).out := by
  induction n generalizing s with
  | zero => exact ⟨rfl, rfl, rfl, rfl, List.prefix_rfl⟩
  | succ n ih =>
    unfold drainFlight
    simp only []
    split
    · split
      · obtain ⟨hdesc, hhead, hstate, hheld, hout⟩ := ih (putFlight _ q _)
        refine ⟨hdesc.trans rfl, hhead.trans ?_, hstate.trans ?_, hheld.trans ?_, List.IsPrefix.trans ?_ hout⟩
        · simp [putFlight]
        · simp [putFlight]
        · simp [putFlight]
        · exact List.prefix_append _ _
      · exact ⟨rfl, rfl, rfl, rfl, List.prefix_rfl⟩
    · exact ⟨rfl, rfl, rfl, rfl, List.prefix_rfl⟩

/-- Settles O22: each doorbell by whether its value is in range. -/
theorem doorbellsBoundTheirCounts : Obligations.DoorbellsBoundTheirCounts := by
  intro s q val hready hq
  have hrings := hasRings_of_enabled hready hq
  refine ⟨fun hne => ⟨fun hin => ?_, fun hover => ?_⟩, fun hne => ⟨fun hin => ?_, fun hover => ?_⟩,
    fun hne => ⟨fun hin => ?_, fun hover => ?_⟩, fun hne => ⟨fun hin => ?_, fun hover => ?_⟩⟩
  · have hnext : exec (.sqTailWrite q val) s = .next (s.onQp q fun p => { p with sqTail := BitVec.ofNat 32 (fld val 31 0) }) := by
      simp only [exec_sqTailWrite, execSqTailWrite, hrings, Bool.not_true, Bool.false_or, decide_eq_true_eq, hne, if_false, hin,
        if_true]
    exact ⟨_, hnext, by simp, by simp, rfl, rfl⟩
  · have hnext : exec (.sqTailWrite q val) s = .next (doorbellBad s q 0 (BitVec.ofNat 32 (fld val 31 0))) := by
      simp only [exec_sqTailWrite, execSqTailWrite, hrings, Bool.not_true, Bool.false_or, decide_eq_true_eq, hne, if_false,
        if_neg (Nat.not_le.mpr hover)]
    exact ⟨_, hnext, doorbellBad_reports _ _ hq⟩
  · have hnext : exec (.cqHeadWrite q val) s = .next (s.onQp q fun p => { p with cqHead := BitVec.ofNat 32 (fld val 31 0) }) := by
      simp only [exec_cqHeadWrite, execCqHeadWrite, hrings, Bool.not_true, Bool.false_or, decide_eq_true_eq, hne, if_false, hin,
        if_true]
    exact ⟨_, hnext, by simp, by simp, rfl, rfl⟩
  · have hnext : exec (.cqHeadWrite q val) s = .next (doorbellBad s q 1 (BitVec.ofNat 32 (fld val 31 0))) := by
      simp only [exec_cqHeadWrite, execCqHeadWrite, hrings, Bool.not_true, Bool.false_or, decide_eq_true_eq, hne, if_false,
        if_neg (Nat.not_le.mpr hover)]
    exact ⟨_, hnext, doorbellBad_reports _ _ hq⟩
  · have hnext : exec (.flueHeadWrite q val) s =
        .next (readmit (s.onQp q fun p => { p with flueHead := BitVec.ofNat 32 (fld val 31 0) })) := by
      simp only [exec_flueHeadWrite, execFlueHeadWrite, hrings, Bool.not_true, Bool.false_or, decide_eq_true_eq, hne, if_false,
        hin, if_true]
    refine ⟨hnext, fun hnone => ⟨_, hnext.trans (congrArg _ (readmit_none (noneWaitsForColumn_of_ses rfl hnone))), ?_⟩⟩
    exact ⟨by simp, by simp, rfl, rfl⟩
  · have hnext : exec (.flueHeadWrite q val) s = .next (doorbellBad s q 2 (BitVec.ofNat 32 (fld val 31 0))) := by
      simp only [exec_flueHeadWrite, execFlueHeadWrite, hrings, Bool.not_true, Bool.false_or, decide_eq_true_eq, hne, if_false,
        if_neg (Nat.not_le.mpr hover)]
    exact ⟨_, hnext, doorbellBad_reports _ _ hq⟩
  · have hnext : exec (.flightHeadWrite q val) s = .next (drainFlight 64
        (s.onQp q fun p => { p with flight := { p.flight with head := BitVec.ofNat 32 (fld val 31 0) } }) q) := by
      simp only [exec_flightHeadWrite, execFlightHeadWrite, hrings, Bool.not_true, Bool.false_or, decide_eq_true_eq, hne,
        if_false, hin, if_true]
    obtain ⟨hdesc, hhead, -⟩ := drainFlight_keeps 64
      (s.onQp q fun p => { p with flight := { p.flight with head := BitVec.ofNat 32 (fld val 31 0) } }) q
    exact ⟨_, hnext, hhead.trans (by simp), hdesc, quiet_drainFlight _ _ _⟩
  · have hnext : exec (.flightHeadWrite q val) s =
        .next (doorbellBad s q Config.flightDoorbell (BitVec.ofNat 32 (fld val 31 0))) := by
      simp only [exec_flightHeadWrite, execFlightHeadWrite, hrings, Bool.not_true, Bool.false_or, decide_eq_true_eq, hne,
        if_false, if_neg (Nat.not_le.mpr hover)]
    exact ⟨_, hnext, doorbellBad_reports _ _ hq⟩

end Sys2Proof.Machine
end

section
/-!
SUPPORT. The queue-pair commands (R59 to R64), QUEUE_CANCEL and deadlines (R77, R94): what the completions of other descriptors
leave of a queue pair.
-/

namespace Sys2Proof.Machine

/-! ### A queue pair that holds no entry back -/

/-- A queue pair that is ENABLED or DISABLED stands but for its signal and cq_next. -/
def QueueStands (k : Nat) (s t : State) : Prop :=
  ((s.qp k).state = .enabled ∨ (s.qp k).state = .disabled) → (t.qp k).unsignalled = (s.qp k).unsignalled

theorem QueueStands.refl (k : Nat) (s : State) : QueueStands k s s := fun _ => rfl

theorem QueueStands.of_host {k : Nat} {s t : State} (h : t.host = s.host) : QueueStands k s t := fun _ => by
  rw [qp_of_host h]

theorem QueueStands.trans {k : Nat} {s t u : State} (h : QueueStands k s t) (g : QueueStands k t u) : QueueStands k s u := by
  intro hs
  have ht := h hs
  have hstate := (unsignalled_eq ht).1
  exact (g (hstate ▸ hs)).trans ht

theorem QueueStands.foldl {α : Type} {k : Nat} {f : State → α → State} (h : ∀ s a, QueueStands k s (f s a)) (l : List α)
    (s : State) : QueueStands k s (l.foldl f s) :=
  List.foldlRecOn l f (motive := QueueStands k s) (.refl k s) fun t ht a _ => ht.trans (h t a)

/-- What that gives for use. -/
theorem QueueStands.fields {k : Nat} {s t : State} (h : QueueStands k s t)
    (hs : (s.qp k).state = .enabled ∨ (s.qp k).state = .disabled) :
    (t.qp k).state = (s.qp k).state ∧ (t.qp k).held = (s.qp k).held := by
  obtain ⟨hstate, -, -, -, -, -, -, -, hheld, -⟩ := unsignalled_eq (h hs)
  exact ⟨hstate, hheld⟩

theorem queueStands_putCompletion (k : Nat) (s : State) (q : Nat) (c : Completion) : QueueStands k s (putCompletion s q c) :=
  fun _ => putCompletion_unsignalled s q c k

theorem queueStands_postEntry (k : Nat) (s : State) (q : Nat) (c : Completion) : QueueStands k s (postEntry s q c) := by
  unfold postEntry
  split
  · exact queueStands_putCompletion k s q c
  case h_4 => exact .refl k s
  all_goals
    rename_i hq
    rcases Decidable.em (k = q) with rfl | hk
    · intro h; simp [hq] at h
    · intro _; rw [qp_onQp_other _ _ hk]

theorem queueStands_completeOne (k : Nat) (s : State) (o : Origin) (cs : List Status) (r : Word) :
    QueueStands k s (completeOne s o cs r) := by
  unfold completeOne
  split
  · exact .refl k s
  · simp only []
    split
    · exact .of_host rfl
    · cases o with
      | qp q n => exact queueStands_postEntry k (leaveFlight s (.qp q n) _) q _
      | ridge p n => exact .of_host (by simp; rfl)

theorem queueStands_forwardDescriptor (k : Nat) (s : State) (d : InFlight) (p : Nat) (b : List Byte) :
    QueueStands k s (forwardDescriptor s d p b) :=
  .of_host (by simp [forwardDescriptor])

theorem queueStands_releaseFences (k : Nat) (s : State) : QueueStands k s (releaseFences s) := by
  unfold releaseFences
  refine QueueStands.foldl (fun s d => ?_) _ _
  split
  · exact .refl k s
  · split
    · split
      · exact .refl k s
      · exact queueStands_completeOne k _ _ _ _
    · split
      · exact .refl k s
      · split
        · exact queueStands_completeOne k _ _ _ _
        · split
          · split
            · exact .refl k s
            · exact queueStands_forwardDescriptor k _ _ _ _
          · exact .refl k s
        · exact .refl k s

theorem queueStands_complete (k : Nat) (s : State) (o : Origin) (cs : List Status) (r : Word) :
    QueueStands k s (complete s o cs r) :=
  (queueStands_completeOne k s o cs r).trans (queueStands_releaseFences k _)

theorem out_prefix_complete_all (s : State) (o : Origin) (cs : List Status) (r : Word) : s.out <+: (complete s o cs r).out :=
  (out_prefix_completeOne s o cs r).trans (out_prefix_complete s o cs r)

/-! ### What the end of many descriptors keeps -/

/-- Each turn of `finishEnded` and `writeAborted` is nothing, a completion, or a change of one descriptor; so a relation that holds
of these holds of the whole. -/
theorem finishEnded_rel {R : State → State → Prop} (hrefl : ∀ s, R s s) (htrans : ∀ {s t u}, R s t → R t u → R s u)
    (hcomplete : ∀ s o r, R s (complete s o [] r)) (s : State) : R s (finishEnded s) := by
  unfold finishEnded
  refine List.foldlRecOn s.desc _ (motive := R s) (hrefl s) fun t ht d _ => htrans ht ?_
  split
  · exact hrefl t
  · split
    · split
      · exact hcomplete _ _ _
      · exact hrefl t
    · exact hcomplete _ _ _
    · exact hrefl t

@[simp] theorem quiet_finishEnded (s : State) : (finishEnded s).quiet = s.quiet :=
  finishEnded_rel (R := fun s t => t.quiet = s.quiet) (fun _ => rfl) (fun h g => g.trans h) (fun s o r => quiet_complete s o [] r) s

theorem queueStands_finishEnded (k : Nat) (s : State) : QueueStands k s (finishEnded s) :=
  finishEnded_rel (.refl k) (·.trans ·) (fun s o r => queueStands_complete k s o [] r) s

theorem out_prefix_finishEnded (s : State) : s.out <+: (finishEnded s).out :=
  finishEnded_rel (R := fun s t => s.out <+: t.out) (fun _ => List.prefix_rfl) (·.trans ·)
    (fun s o r => out_prefix_complete_all s o [] r) s

/-- What a step of RESUME keeps: the quiet part of the state, an ENABLED queue pair, and what is out. -/
def ResumeKeeps (q : Nat) (s t : State) : Prop := t.quiet = s.quiet ∧ QueueStands q s t ∧ s.out <+: t.out

theorem ResumeKeeps.trans {q : Nat} {s t u : State} (h : ResumeKeeps q s t) (g : ResumeKeeps q t u) : ResumeKeeps q s u :=
  ⟨g.1.trans h.1, h.2.1.trans g.2.1, h.2.2.trans g.2.2⟩

theorem ResumeKeeps.refl (q : Nat) (s : State) : ResumeKeeps q s s := ⟨rfl, .refl q s, List.prefix_rfl⟩

theorem ResumeKeeps.foldl {α : Type} {q : Nat} {f : State → α → State} (h : ∀ s a, ResumeKeeps q s (f s a)) (l : List α)
    (s : State) : ResumeKeeps q s (l.foldl f s) :=
  List.foldlRecOn l f (motive := ResumeKeeps q s) (.refl q s) fun t ht a _ => ht.trans (h t a)

theorem resumeKeeps_putCompletion (q : Nat) (s : State) (k : Nat) (c : Completion) : ResumeKeeps q s (putCompletion s k c) :=
  ⟨quiet_putCompletion s k c, queueStands_putCompletion q s k c, (List.prefix_append _ _).trans (putCompletion_out s k c)⟩

theorem resumeKeeps_queueEvent (q : Nat) (s : State) (k code : Nat) (n : Seq) (r : Word) :
    ResumeKeeps q s (queueEvent s k code n r) :=
  ⟨quiet_queueEvent s k code n r, queueStands_postEntry q s k _, out_prefix_postEntry s k _⟩

theorem resumeKeeps_complete (q : Nat) (s : State) (o : Origin) (cs : List Status) (r : Word) :
    ResumeKeeps q s (complete s o cs r) :=
  ⟨quiet_complete s o cs r, queueStands_complete q s o cs r, out_prefix_complete_all s o cs r⟩

theorem resumeKeeps_finishEnded (q : Nat) (s : State) : ResumeKeeps q s (finishEnded s) :=
  ⟨quiet_finishEnded s, queueStands_finishEnded q s, out_prefix_finishEnded s⟩

theorem resumeKeeps_writeHeld (q : Nat) (s : State) (k : Nat) (l : List Completion) : ResumeKeeps q s (writeHeld s k l) :=
  ResumeKeeps.foldl (fun s c => resumeKeeps_putCompletion q s k c) l s

theorem resumeKeeps_writeAborted (q : Nat) (s : State) (k : Nat) : ResumeKeeps q s (writeAborted s k) := by
  unfold writeAborted
  refine ResumeKeeps.foldl (fun s d => ?_) _ s
  split
  · split
    · exact ⟨rfl, .of_host rfl, List.prefix_rfl⟩
    · exact resumeKeeps_complete q s _ _ _
  · exact .refl q s

/-! ### RESUME -/

/-- A RESUME that its context allows: the queue pair is ENABLED before its held entries are written. -/
theorem execQpResume_runs {s : State} {q : Nat} {w : BitVec 512} (htake : takesCommand s = true) (hatt : s.host.attached = true)
    (hstate : (s.qp q).state = .frozen ∨ (s.qp q).state = .halted) (hvalid : (readContext w).valid = true)
    (htenant : (readContext w).tenant = (s.qp q).ctx.tenant) (hop : (readContext w).operator = (s.qp q).ctx.operator)
    (hnone : NoneWaitsForColumn s) :
    ∃ u, execQpResume q (some w) s = .next (cmdEnd u q 0) ∧ (u.qp q).state = .enabled ∧ (u.qp q).held = [] ∧
      u.quiet = s.quiet ∧ s.out <+: u.out := by
  have hnot : (decide ((s.qp q).state = .disabled) || decide ((s.qp q).state = .enabled)) = false := by
    rcases hstate with h | h <;> simp [h]
  have hsame : ((readContext w).tenant ≠ (s.qp q).ctx.tenant || (readContext w).operator ≠ (s.qp q).ctx.operator) = false := by
    simp [htenant, hop]
  unfold execQpResume
  rw [if_neg (by simp [htake]), if_neg (by simp [hatt])]
  simp only [hnot, hsame, hvalid, Bool.false_eq_true, if_false, Bool.not_true]
  generalize hr : s.onQp q _ = r
  have hrq : (r.qp q).state = .enabled ∧ (r.qp q).held = [] ∧ r.quiet = s.quiet ∧ r.out = s.out := by
    subst hr
    simp
  obtain ⟨hrstate, hrheld, hrquiet, hrout⟩ := hrq
  generalize hv : writeAborted _ q = v
  have hkeeps : ResumeKeeps q r v := by
    subst hv
    exact ((resumeKeeps_queueEvent q r q _ _ _).trans (resumeKeeps_writeHeld q _ q _)).trans (resumeKeeps_writeAborted q _ q)
  obtain ⟨hvquiet, hvqueue, hvout⟩ := hkeeps
  obtain ⟨hvstate, hvheld⟩ := hvqueue.fields (.inl hrstate)
  obtain ⟨hddesc, -, hdstate, hdheld, hdout⟩ := drainFlight_keeps 64 v q
  obtain ⟨hfquiet, hfqueue, hfout⟩ := resumeKeeps_finishEnded q (drainFlight 64 v q)
  have hdenabled : ((drainFlight 64 v q).qp q).state = .enabled := hdstate.trans (hvstate.trans hrstate)
  obtain ⟨hfstate, hfheld⟩ := hfqueue.fields (.inl hdenabled)
  have hquiet : (finishEnded (drainFlight 64 v q)).quiet = s.quiet :=
    hfquiet.trans ((quiet_drainFlight 64 v q).trans (hvquiet.trans hrquiet))
  refine ⟨_, rfl, ?_⟩
  rw [readmit_none (noneWaitsForColumn_of_ses (quiet_ses hquiet) hnone)]
  exact ⟨hfstate.trans hdenabled, hfheld.trans (hdheld.trans (hvheld.trans hrheld)), hquiet,
    hrout ▸ (hvout.trans hdout).trans hfout⟩

/-! ### DISABLE -/

theorem dropDescriptor_onDescriptor (s : State) (o : Origin) (f : InFlight → InFlight) :
    dropDescriptor (s.onDescriptor o f) o = dropDescriptor s o := by
  simp only [dropDescriptor, State.onDescriptor, State.onDesc, List.filter_map]
  congr 1
  refine (List.map_congr_left fun d hd => ?_).trans ((List.map_id _).trans (List.filter_congr fun d _ => ?_))
  · have hne : d.origin ≠ o := by
      have h := (List.mem_filter.mp hd).2
      intro heq
      simp [heq] at h
    exact if_neg hne
  · by_cases hd : d.origin = o <;> simp [hd]

/-- A DISABLE takes a descriptor that waits away (R104). -/
theorem endForDisable_waiting (s : State) {d : InFlight} (h : d.phase = .waiting) : endForDisable s d = dropDescriptor s d.origin := by
  simp only [endForDisable, h, dropDescriptor_onDescriptor]

theorem foldl_endForDisable {l : List InFlight} (h : ∀ d ∈ l, d.phase = .waiting) (s : State) :
    l.foldl endForDisable s = s.onDesc fun ds => ds.filter fun d => !(l.any fun e => e.origin == d.origin) := by
  induction l generalizing s with
  | nil => exact (congrArg (fun l => ({ s with desc := l } : State)) (List.filter_eq_self.mpr fun _ _ => rfl)).symm
  | cons e l ih =>
    rw [List.foldl_cons, endForDisable_waiting s (h e (List.mem_cons_self ..)), ih fun d hd => h d (List.mem_cons_of_mem _ hd)]
    simp only [dropDescriptor, State.onDesc, List.filter_filter, List.any_cons]
    congr 1
    refine List.filter_congr fun d _ => ?_
    rw [Bool.not_or, Bool.and_comm, bne, Bool.beq_comm]

/-- What is left in flight when the waiting descriptors of a queue pair have been taken is not in flight for it. -/
theorem inflightOf_ended (s t : State) (q : Nat)
    (h : AddsNoDescriptor (s.onDesc fun ds => ds.filter fun d => !((s.inflightOf q).any fun e => e.origin == d.origin)) t) :
    t.inflightOf q = [] := by
  refine List.filter_eq_nil_iff.mpr fun d hd hfrom => ?_
  obtain ⟨e, he, horigin, hdiscard⟩ := h d hd
  obtain ⟨hes, hgone⟩ := List.mem_filter.mp he
  have hefrom : (fromQueue q e && !e.discard) = true := by rwa [hdiscard, fromQueue, horigin]
  have hin : e ∈ s.inflightOf q := List.mem_filter.mpr ⟨hes, hefrom⟩
  have hany : ((s.inflightOf q).any fun x => x.origin == e.origin) = true := List.any_eq_true.mpr ⟨e, hin, by simp⟩
  simp [hany] at hgone

/-- A DISABLE of a stopped queue pair whose descriptors in flight all wait (R104). -/
theorem execQpDisable_runs {s : State} {q : Nat} (htake : takesCommand s = true) (hatt : s.host.attached = true)
    (hstate : (s.qp q).state = .frozen ∨ (s.qp q).state = .halted) (hwait : ∀ d ∈ s.inflightOf q, d.phase = .waiting)
    (hnone : NoneWaitsForColumn s) :
    ∃ u t : State, execQpDisable q s = .next t ∧ u.quiet = s.quiet ∧ (u.qp q).state = .disabled ∧ (u.qp q).held = [] ∧
      u.inflightOf q = [] ∧ t.quiet = u.quiet ∧ t.desc = u.desc ∧ t.host.qps = u.host.qps ∧ t.host.cmdResult = 0 := by
  have hnot : (decide ((s.qp q).state = .disabled) || decide ((s.qp q).state = .enabled)) = false := by
    rcases hstate with h | h <;> simp [h]
  unfold execQpDisable
  rw [if_neg (by simp [htake]), if_neg (by simp [hatt])]
  simp only [hnot, Bool.false_eq_true, if_false]
  rw [foldl_endForDisable hwait]
  generalize hr : State.onQp (dropRecords _ q) q _ = r
  have hrq : (r.qp q).state = .disabled ∧ (r.qp q).held = [] ∧ r.quiet = s.quiet ∧ r.desc =
      (s.onDesc fun ds => ds.filter fun d => !((s.inflightOf q).any fun e => e.origin == d.origin)).desc := by
    subst hr
    exact ⟨by simp, by simp, rfl, rfl⟩
  obtain ⟨hrstate, hrheld, hrquiet, hrdesc⟩ := hrq
  obtain ⟨hfstate, hfheld⟩ := (queueStands_finishEnded q r).fields (.inr hrstate)
  have hfquiet : (finishEnded r).quiet = s.quiet := (quiet_finishEnded r).trans hrquiet
  rw [readmit_none (noneWaitsForColumn_of_ses (quiet_ses hfquiet) hnone)]
  refine ⟨finishEnded r, _, rfl, hfquiet, hfstate.trans hrstate, hfheld.trans hrheld,
    inflightOf_ended s _ q ((AddsNoDescriptor.of_desc hrdesc).trans (addsNoDescriptor_finishEnded r)), ?_⟩
  split <;> exact ⟨rfl, rfl, rfl, rfl⟩

/-! ### The other commands -/

/-- A snapshot counts itself, then writes its record with the count last (R61, Table 4.4). -/
def snapshotTaken (s : State) (q : Nat) : State :=
  let u := s.onQp q fun p => { p with snapCount := p.snapCount + 1 }
  let record := encodeSnapshot (u.qp q) (inflightSeqs u q)
  (u.emit (.hostWrite (s.qp q).ctx.pasid ((s.qp q).ctx.snapBase + 4) (record.drop 4))).emit
    (.hostWrite (s.qp q).ctx.pasid (s.qp q).ctx.snapBase (record.take 4))

theorem execQpSnapshot_done {s : State} {q : Nat} (htake : takesCommand s = true) (hatt : s.host.attached = true)
    (hstate : (s.qp q).state ≠ .disabled) : execQpSnapshot q .done s = .next (cmdEnd (snapshotTaken s q) q 0) := by
  unfold execQpSnapshot
  rw [if_neg (by simp [htake]), if_neg (by simp [hatt])]
  exact if_neg hstate

theorem execQpSnapshot_failed {s : State} {q : Nat} {ring : Bool} (htake : takesCommand s = true)
    (hatt : s.host.attached = true) (hstate : (s.qp q).state ≠ .disabled) : execQpSnapshot q (.failed ring) s =
      .next (cmdEnd (dmaHalt s q (s.qp q).sqNext (BitVec.ofNat 64 (s.qp q).ctx.snapBase) ring) q 5) := by
  unfold execQpSnapshot
  rw [if_neg (by simp [htake]), if_neg (by simp [hatt])]
  exact if_neg hstate

/-- A failed access halts its queue pair with cause 2 and ends no descriptor (R63). -/
theorem dmaHalt_halts (s : State) (q : Nat) (n : Seq) (a : Word) (ok : Bool) :
    ((dmaHalt s q n a ok).qp q).state = .halted ∧ ((dmaHalt s q n a ok).qp q).cause = 2 ∧ (dmaHalt s q n a ok).desc = s.desc := by
  refine ⟨by simp [dmaHalt, haltQp], by simp [dmaHalt, haltQp], ?_⟩
  cases ok
  · rfl
  · exact desc_postEntry s q _

theorem execQpFreeze_runs {s : State} {q : Nat} (htake : takesCommand s = true) (hatt : s.host.attached = true)
    (hstate : (s.qp q).state ≠ .disabled) : execQpFreeze q s = .next (cmdEnd (s.onQp q fun p =>
      { p with state := .frozen, cause := if (s.qp q).state = .enabled then 0 else p.cause }) q 0) := by
  unfold execQpFreeze
  rw [if_neg (by simp [htake]), if_neg (by simp [hatt])]
  cases h : (s.qp q).state
  · exact absurd h hstate
  all_goals rfl

/-- An ENABLE that its context allows. -/
def enabledWith (s : State) (q : Nat) (c : QpContext) : State :=
  (s.onQp q fun p =>
    { p with state := .enabled, cause := 0, ctx := c, sqTail := c.sqInit, sqNext := c.sqInit, cqHead := c.cqInit,
             cqNext := c.cqInit, flueHead := c.flueInit, flueNext := c.flueInit, held := [], reReads := 0, signal := 0,
             signalAt := none, flueLock := none, flight := latchFlight p.flight true }).onHost fun h =>
    match lookupBy (·.tenant) c.tenant h.tenants with
    | some _ => h
    | none => { h with tenants := h.tenants ++ [{ tenant := c.tenant }] }

theorem execQpEnable_runs {s : State} {q : Nat} {w : BitVec 512} (htake : takesCommand s = true) (hatt : s.host.attached = true)
    (hstate : (s.qp q).state = .disabled) (hbase : s.host.tableBase ≠ 0) (hvalid : (readContext w).valid = true) :
    execQpEnable q (some w) s = .next (cmdEnd (enabledWith s q (readContext w)) q 0) := by
  unfold execQpEnable
  rw [if_neg (by simp [htake]), if_neg (by simp [hatt]), if_neg (by simp [hstate]), if_neg hbase]
  exact if_neg (by simp [hvalid])

theorem enabledWith_qps (s : State) (q : Nat) (c : QpContext) : (enabledWith s q c).host.qps = (s.onQp q fun p =>
    { p with state := .enabled, cause := 0, ctx := c, sqTail := c.sqInit, sqNext := c.sqInit, cqHead := c.cqInit,
             cqNext := c.cqInit, flueHead := c.flueInit, flueNext := c.flueInit, held := [], reReads := 0, signal := 0,
             signalAt := none, flueLock := none, flight := latchFlight p.flight true }).host.qps := by
  simp only [enabledWith, State.onHost_host]
  split <;> rfl

/-- From a state that does not allow it a command ends with result 1 and does nothing else (Table 4.3). -/
theorem qpCommand_badState {s : State} {q : Nat} (htake : takesCommand s = true) (hatt : s.host.attached = true) :
    ((s.qp q).state ≠ .disabled → ∀ ctx, execQpEnable q ctx s = .next (cmdEnd s q 1)) ∧
    ((s.qp q).state = .disabled → execQpFreeze q s = .next (cmdEnd s q 1)) ∧
    ((s.qp q).state = .disabled → ∀ write, execQpSnapshot q write s = .next (cmdEnd s q 1)) ∧
    ((s.qp q).state = .disabled ∨ (s.qp q).state = .enabled →
      (∀ ctx, execQpResume q ctx s = .next (cmdEnd s q 1)) ∧ execQpDisable q s = .next (cmdEnd s q 1)) := by
  refine ⟨fun h ctx => ?_, fun h => ?_, fun h write => ?_, fun h => ⟨fun ctx => ?_, ?_⟩⟩
  · unfold execQpEnable
    rw [if_neg (by simp [htake]), if_neg (by simp [hatt]), if_pos h]
    rfl
  · unfold execQpFreeze
    rw [if_neg (by simp [htake]), if_neg (by simp [hatt]), h]
    rfl
  · unfold execQpSnapshot
    rw [if_neg (by simp [htake]), if_neg (by simp [hatt])]
    exact if_pos h
  · unfold execQpResume
    rw [if_neg (by simp [htake]), if_neg (by simp [hatt])]
    exact if_pos (by simpa using h)
  · unfold execQpDisable
    rw [if_neg (by simp [htake]), if_neg (by simp [hatt])]
    exact if_pos (by simpa using h)

/-- Settles O20: each command from the states that allow it, and from the others. -/
theorem queuePairCommands : Obligations.QueuePairCommands := by
  intro s q hready hbusy hatt
  have htake := (takesCommand_iff s).mpr ⟨hready, hbusy⟩
  obtain ⟨hnoEnable, hnoFreeze, hnoSnapshot, hnoOthers⟩ := qpCommand_badState (q := q) htake hatt
  refine ⟨fun hd ctx write c hc => ?_, fun he ctx c hc => ?_, fun w hd hbase hvalid => ?_, fun hs => ?_,
    fun w hs hvalid htenant hop hnone => ?_, fun hs ring => ⟨?_, ?_⟩, fun hs hwait hnone => ?_⟩
  · obtain ⟨hnoResume, hnoDisable⟩ := hnoOthers (.inl hd)
    simp only [List.mem_cons, List.not_mem_nil, or_false] at hc
    rcases hc with rfl | rfl | rfl | rfl
    · exact (exec_qpFreeze q s).trans (hnoFreeze hd)
    · exact (exec_qpResume q ctx s).trans (hnoResume ctx)
    · exact (exec_qpSnapshot q write s).trans (hnoSnapshot hd write)
    · exact (exec_qpDisable q s).trans hnoDisable
  · obtain ⟨hnoResume, hnoDisable⟩ := hnoOthers (.inr he)
    simp only [List.mem_cons, List.not_mem_nil, or_false] at hc
    rcases hc with rfl | rfl | rfl
    · exact (exec_qpEnable s q ctx).trans (hnoEnable (by simp [he]) ctx)
    · exact (exec_qpResume q ctx s).trans (hnoResume ctx)
    · exact (exec_qpDisable q s).trans hnoDisable
  · have hnext := (exec_qpEnable s q (some w)).trans (execQpEnable_runs htake hatt hd hbase hvalid)
    have hqp := (qp_of_qps (enabledWith_qps s q (readContext w)) q).trans (qp_onQp_same s q _)
    refine ⟨_, hnext, ?_⟩
    rw [cmdEnd_qp, hqp]
    exact ⟨rfl, rfl, rfl, rfl, rfl, rfl, rfl, rfl, rfl, rfl⟩
  · refine ⟨_, (exec_qpFreeze q s).trans (execQpFreeze_runs htake hatt hs), by simp, rfl, rfl, fun hne => by simp [hne], rfl⟩
  · obtain ⟨u, hnext, hstate, hheld, hquiet, hout⟩ := execQpResume_runs htake hatt hs hvalid htenant hop hnone
    exact ⟨_, (exec_qpResume q (some w) s).trans hnext, hstate, hheld, rfl, hquiet, hout⟩
  · exact ⟨_, (exec_qpSnapshot q .done s).trans (execQpSnapshot_done htake hatt hs), by simp [snapshotTaken],
      by simp [snapshotTaken], rfl, rfl, rfl, _, List.append_assoc ..⟩
  · obtain ⟨hstate, hcause, hdesc⟩ := dmaHalt_halts s q (s.qp q).sqNext (BitVec.ofNat 64 (s.qp q).ctx.snapBase) ring
    exact ⟨_, (exec_qpSnapshot q (.failed ring) s).trans (execQpSnapshot_failed htake hatt hs), hstate, hcause, rfl, hdesc,
      quiet_dmaHalt s q _ _ ring⟩
  · obtain ⟨u, t, hnext, huquiet, hstate, hheld, hnoflight, htquiet, htdesc, htqps, hresult⟩ :=
      execQpDisable_runs htake hatt hs hwait hnone
    have hquiet := htquiet.trans huquiet
    have hqp := qp_of_qps htqps q
    exact ⟨t, (exec_qpDisable q s).trans hnext, hqp ▸ hstate, hqp ▸ hheld, hresult,
      (congrArg (List.filter fun d => fromQueue q d && !d.discard) htdesc).trans hnoflight, quiet_ses hquiet, quiet_hrt hquiet,
      quiet_tie hquiet⟩

/-! ### QUEUE_CANCEL and deadlines -/

/-- A cancelled descriptor that waits ends as CANCELLED (R77). -/
theorem cancelWork_waiting (s : State) {d : InFlight} (h : d.phase = .waiting) :
    cancelWork s d = (true, complete s d.origin [.cancelled] (waitingResult s d)) := by
  simp [cancelWork, cancelDescriptor, h]

/-- A QUEUE_CANCEL that finds no descriptor completes alone (R77). -/
theorem execQueueCancel_alone {s : State} {q : Nat} {n : Seq} {d : InFlight} (hstart : canStart s (.qp q n) opCancel = some d)
    (hnone : s.descriptor (.qp q (BitVec.ofNat 32 (fld d.raw 287 256))) = none) :
    execQueueCancel (.qp q n) s = .next (complete s (.qp q n) [] 0) := by
  simp only [execQueueCancel, hstart, hnone]

theorem execQueueCancel_ends {s : State} {q : Nat} {n : Seq} {d e : InFlight} (hstart : canStart s (.qp q n) opCancel = some d)
    (he : s.descriptor (.qp q (BitVec.ofNat 32 (fld d.raw 287 256))) = some e) (hwait : e.phase = .waiting)
    (hbefore : seqBefore (BitVec.ofNat 32 (fld d.raw 287 256)) n = true) :
    execQueueCancel (.qp q n) s = .next (readmit (finishEnded (releaseFences
      ((complete s e.origin [.cancelled] (waitingResult s e)).onDescriptor (.qp q n) fun d =>
        { d with phase := .follows e.origin 1 })))) := by
  simp only [execQueueCancel, hstart, he, hbefore, if_true, cancelWork_waiting s hwait]

/-- One turn of the release of what completions let go. -/
def releaseTurn (s : State) (d : InFlight) : State :=
  match s.descriptor d.origin with
  | none => s
  | some d =>
    match d.phase with
    | .follows t r => if (s.descriptor t).isSome then s else completeOne s d.origin [] r
    | _ =>
    if fenceBlocked s d then s
    else match d.phase with
      | .rejected st => completeOne s d.origin [st] 0
      | .waiting =>
        match routedPart d.raw, d.origin with
        | some p, .qp _ _ => if p = s.rdg.part || !s.partUp p then s else forwardDescriptor s d p []
        | _, _ => s
      | _ => s

theorem releaseFences_eq (s : State) : releaseFences s = s.desc.foldl releaseTurn s := rfl

/-- A turn completes the descriptor whose turn it is, sends it on while it waits, or does nothing. -/
theorem releaseTurn_cases (s : State) (d : InFlight) : releaseTurn s d = s ∨
    (∃ cs r, releaseTurn s d = completeOne s d.origin cs r) ∨
    ∃ e p, s.descriptor d.origin = some e ∧ e.phase = .waiting ∧ releaseTurn s d = forwardDescriptor s e p [] := by
  unfold releaseTurn
  split
  · exact .inl rfl
  · rename_i e he
    have horigin := (descriptor_some he).2
    split
    · split
      · exact .inl rfl
      · exact .inr (.inl ⟨_, _, by rw [horigin]⟩)
    · split
      · exact .inl rfl
      · split
        · exact .inr (.inl ⟨_, _, by rw [horigin]⟩)
        · rename_i hwait
          split
          · split
            · exact .inl rfl
            · exact .inr (.inr ⟨e, _, he, hwait, rfl⟩)
          · exact .inl rfl
        · exact .inl rfl

theorem descriptor_forwardDescriptor_other (s : State) (d : InFlight) (part : Nat) (param : List Byte) {o : Origin}
    (h : o ≠ d.origin) : (forwardDescriptor s d part param).descriptor o = s.descriptor o :=
  (descriptor_onDescriptor_other _ _ h).trans (descriptor_of_desc (sendRequest_desc ..) o)

/-- The descriptor of origin o, if it is in flight, follows one that is not. -/
def FollowsEnded (s : State) (o p : Origin) : Prop :=
  s.descriptor p = none ∧ ∀ d, s.descriptor o = some d → ∃ r, d.phase = .follows p r

theorem learnEnd_follows (o : Origin) (b : Bool) {d : InFlight} {p : Origin} {r : Word} (h : d.phase = .follows p r) :
    ∃ r, (learnEnd o b d).phase = .follows p r := by
  unfold learnEnd
  rw [h]
  simp only []
  split
  · exact ⟨_, rfl⟩
  · exact ⟨r, h⟩

theorem followsEnded_completeOne {s : State} {o p : Origin} (h : FollowsEnded s o p) (k : Origin) (cs : List Status) (r : Word) :
    FollowsEnded (completeOne s k cs r) o p := by
  obtain ⟨hp, ho⟩ := h
  refine ⟨(addsNoDescriptor_completeOne s k cs r).none hp, fun d hd => ?_⟩
  rcases completeOne_cases s k cs r with ⟨-, heq⟩ | ⟨b, hdesc⟩
  · exact ho d (heq ▸ hd)
  · rw [descriptor_of_desc hdesc] at hd
    rcases Decidable.em (o = k) with rfl | hk
    · rw [descriptor_leaveFlight] at hd
      cases hd
    · unfold leaveFlight at hd
      rw [descriptor_map _ _ _ (learnEnd_origin k b), descriptor_dropDescriptor_other _ hk] at hd
      obtain ⟨e, he, rfl⟩ := Option.map_eq_some_iff.mp hd
      obtain ⟨r, hr⟩ := ho e he
      exact learnEnd_follows k b hr

theorem followsEnded_releaseTurn {s : State} {o p : Origin} (h : FollowsEnded s o p) (e : InFlight) :
    FollowsEnded (releaseTurn s e) o p := by
  rcases releaseTurn_cases s e with heq | ⟨cs, r, heq⟩ | ⟨d, part, hd, hwait, heq⟩
  · rw [heq]; exact h
  · rw [heq]; exact followsEnded_completeOne h _ cs r
  · rw [heq]
    obtain ⟨hp, ho⟩ := h
    have hne : o ≠ d.origin := fun heq => by
      obtain ⟨r, hr⟩ := ho d (heq ▸ (descriptor_some hd).2 ▸ hd)
      rw [hwait] at hr
      cases hr
    refine ⟨(addsNoDescriptor_forwardDescriptor s d part []).none hp, fun x hx => ho x ?_⟩
    rwa [descriptor_forwardDescriptor_other s d part [] hne] at hx

/-- In its turn a descriptor that follows an ended one completes. -/
theorem releaseTurn_follows {s : State} {o p : Origin} (h : FollowsEnded s o p) {d : InFlight} (hd : d.origin = o) :
    (releaseTurn s d).descriptor o = none := by
  obtain ⟨hp, ho⟩ := h
  rcases he : s.descriptor o with _ | e
  · simp only [releaseTurn, hd, he]
  · obtain ⟨r, hr⟩ := ho e he
    have horigin := (descriptor_some he).2
    have hturn : releaseTurn s d = completeOne s o [] r := by
      simp only [releaseTurn, hd, he, hr, hp, horigin, Option.isSome_none, Bool.false_eq_true, if_false]
    rw [hturn, descriptor_completeOne]

/-- A descriptor that follows one that has ended completes when the fences are released. -/
theorem releaseFences_follows {s : State} {o p : Origin} (h : FollowsEnded s o p) : (releaseFences s).descriptor o = none := by
  rcases ho : s.descriptor o with _ | d
  · exact (addsNoDescriptor_releaseFences s).none ho
  · obtain ⟨hmem, horigin⟩ := descriptor_some ho
    obtain ⟨before, after, hsplit⟩ := List.append_of_mem hmem
    rw [releaseFences_eq, hsplit, List.foldl_append, List.foldl_cons]
    have hbefore : FollowsEnded (before.foldl releaseTurn s) o p :=
      List.foldlRecOn before releaseTurn (motive := (FollowsEnded · o p)) h fun t ht a _ => followsEnded_releaseTurn ht a
    exact List.foldlRecOn after releaseTurn (motive := fun t => t.descriptor o = none) (releaseTurn_follows hbefore horigin)
      fun t ht a _ => by
        rcases releaseTurn_cases t a with heq | ⟨cs, r, heq⟩ | ⟨d, part, -, -, heq⟩
        · rw [heq]; exact ht
        · rw [heq]; exact (addsNoDescriptor_completeOne t _ cs r).none ht
        · rw [heq]; exact (addsNoDescriptor_forwardDescriptor t d part []).none ht

/-- Settles O25: the cancel of what waits, the cancel of nothing, and the deadline of what waits. -/
theorem cancelAndDeadlineEndDescriptors : Obligations.CancelAndDeadlineEndDescriptors := by
  refine ⟨fun s q n d hstart hnone => ?_, fun s q n d e hstart he hwait hbefore hcolumn => ?_,
    fun s o d at' hd hwait hdeadline hlate => ?_⟩
  · exact ⟨_, (exec_queueCancel _ s).trans (execQueueCancel_alone hstart hnone), descriptor_complete .., quiet_complete ..⟩
  · have horigin := (descriptor_some he).2
    generalize hu : (complete s e.origin [.cancelled] (waitingResult s e)).onDescriptor (.qp q n)
      (fun d => { d with phase := .follows e.origin 1 }) = u
    have hne : e.origin ≠ .qp q n := by
      rw [horigin]
      intro h
      injection h with _ hseq
      simp [seqBefore, dist, hseq] at hbefore
    have hgone : u.descriptor e.origin = none := by
      rw [← hu, descriptor_onDescriptor_other _ _ hne, descriptor_complete]
    have hquiet : u.quiet = s.quiet := by
      rw [← hu, quiet_onDescriptor, quiet_complete]
    have hfollows : FollowsEnded u (.qp q n) e.origin := by
      refine ⟨hgone, fun x hx => ?_⟩
      rw [← hu, descriptor_onDescriptor_same] at hx
      obtain ⟨y, -, rfl⟩ := Option.map_eq_some_iff.mp hx
      exact ⟨_, rfl⟩
    have hend := (addsNoDescriptor_releaseFences u).trans (addsNoDescriptor_finishEnded _)
    have hquiet' : (finishEnded (releaseFences u)).quiet = s.quiet := by
      rw [quiet_finishEnded, quiet_releaseFences, hquiet]
    have hnext : exec (.queueCancel (.qp q n)) s = .next (finishEnded (releaseFences u)) := by
      rw [exec_queueCancel, execQueueCancel_ends hstart he hwait hbefore, hu,
        readmit_none (noneWaitsForColumn_of_ses (quiet_ses hquiet') hcolumn)]
    exact ⟨_, hnext, hend.none hgone, (addsNoDescriptor_finishEnded _).none (releaseFences_follows hfollows), hquiet'⟩
  · have hnext : exec (.deadlineExpire o) s =
        .next (complete (flagBrownout s o) o [.deadlineMissed] (waitingResult s d)) := by
      simp only [exec_deadlineExpire, execDeadlineExpire, hd, hdeadline, hwait, if_neg (Nat.not_lt.mpr hlate)]
    refine ⟨_, hnext, descriptor_complete .., (quiet_complete ..).trans ?_⟩
    unfold flagBrownout
    split <;> rfl

end Sys2Proof.Machine
end

section
/-!
SUPPORT. A fetched EMBED_BATCH queues work items at once, and a queued item is counted among the arrivals of `ses`: so a fetch
does not leave `ses` as it was.
-/

namespace Sys2Proof.Machine

/-- An EMBED_BATCH of one document, with sequence number 0 (Table 10.8). -/
def oneDocument : BitVec 512 := BitVec.ofNat 512 (put 7 0 opEmbed + put 11 8 1 + put 367 352 1)

/-- A part that is ready, with one ENABLED queue pair on which one submission waits. -/
def oneWaits : State :=
  { State.reset with
    pwr := { State.reset.pwr with ready := true, heldInReset := false, bootStage := 6 },
    host := { State.reset.host with
      attached := true, version := 1,
      qps := [{ id := 0, state := .enabled, sqTail := 1,
                ctx := { maxInflight := 16, sqLog2 := 6, cqLog2 := 6 } }] } }

/-- The count of arrivals in the state that a command leaves. -/
def arrivalsAfter : Answer → Option Nat
  | .next t => some t.ses.arrivals
  | _ => none

theorem oneWaits_turn : turnOf oneWaits = some 0 := by decide +kernel
theorem oneWaits_next : dSeq oneDocument = (oneWaits.qp 0).sqNext := by decide +kernel
theorem oneWaits_arrivals : arrivalsAfter (exec (.descriptorFetch 0 oneDocument) oneWaits) = some 1 := by decide +kernel

/-- Refutes O23: the fetch of an EMBED_BATCH counts its document among the arrivals, which stand in `ses`. -/
theorem not_fetchTakesEachSubmissionOnce : ¬ Obligations.FetchTakesEachSubmissionOnce := by
  intro h
  obtain ⟨t, hnext, -, -, hses⟩ := (h.1 oneWaits 0 oneDocument).2.1 oneWaits_turn oneWaits_next
  have hone := oneWaits_arrivals
  rw [hnext] at hone
  have hcount : t.ses.arrivals = 1 := Option.some.inj hone
  rw [hses] at hcount
  exact absurd hcount (by decide)

end Sys2Proof.Machine
end

section
/-!
SUPPORT. The firebox and the diagnostics: the SPDM responder (R326 to R328), fault injection (R384), the health of the TRNG (R333)
and the coarse counters of the tenants (R343, R344).
-/

namespace Sys2Proof.Machine

/-! ### SPDM -/

theorem spdmAnswer_identity {s : State} (r : SpdmReply) (h : s.fbx.identityOk = true) : spdmAnswer s r = s.emit (.spdm r) := by
  simp only [spdmAnswer, h, if_true]

theorem spdmAnswer_error (s : State) : spdmAnswer s .error = s.emit (.spdm .error) := by
  simp only [spdmAnswer, ite_self]

/-- Without identity, and out of turn, the answer is an error (R327). -/
theorem spdmAnswer_notReady {s : State} (r : SpdmReply) (b : Bool) (h : s.fbx.identityOk = false ∨ spdmReady s = false) :
    spdmAnswer s (if spdmReady s && b then r else .error) = s.emit (.spdm .error) := by
  rcases h with h | h
  · simp [spdmAnswer, h]
  · rw [h, Bool.false_and, if_neg Bool.false_ne_true, spdmAnswer_error]

/-- The three requests that open a connection, each in its turn (R326). -/
theorem spdm_opens {s : State} (hid : s.fbx.identityOk = true) :
    execGetVersion s = .next ((onSpdm s fun _ => { version := true }).emit (.spdm (.version [0x12, 0x13]))) ∧
    (s.fbx.spdm.version = true → execGetCapabilities s =
      .next ((onSpdm s fun p => { p with caps := true }).emit (.spdm (.capabilities true true true)))) ∧
    (s.fbx.spdm.version = true → s.fbx.spdm.caps = true → execNegotiateAlgorithms true true s =
      .next ((onSpdm s fun p => { p with algos := true }).emit (.spdm (.algorithms true true)))) := by
  refine ⟨congrArg Host.Outcome.next (spdmAnswer_identity _ hid), fun hv => ?_, fun hv hcaps => ?_⟩
  · exact (if_pos hv).trans (congrArg Host.Outcome.next (spdmAnswer_identity _ hid))
  · exact (if_pos (by simp [hv, hcaps])).trans (congrArg Host.Outcome.next (spdmAnswer_identity _ hid))

/-- A request that opens a connection changes the connection and what is out. -/
theorem onSpdm_emit_frame (s : State) (f : Spdm → Spdm) (o : Output) (l : List Output) (b : Firebox) (p : Spdm) :
    { (onSpdm s f).emit o with out := l, fbx := b } = { s with out := l, fbx := b } ∧
    { ((onSpdm s f).emit o).fbx with spdm := p } = { s.fbx with spdm := p } := ⟨rfl, rfl⟩

/-- Settles O58: the chain of a connection, and each request by whether it comes in turn. -/
theorem spdmAnswersEachRequest : Obligations.SpdmAnswersEachRequest := by
  refine ⟨fun s hid => ?_, fun s c slot off len index nonce hnot hc => ?_, fun s hid hready => ⟨?_, fun off len hoff => ?_,
    fun nonce => ?_, fun slot off len nonce hslot => ⟨?_, ?_⟩, fun nonce => ?_, fun nonce => ?_⟩, fun s code hid => ?_⟩
  · generalize ht : (onSpdm s fun _ => { version := true }).emit (.spdm (.version [0x12, 0x13])) = t
    generalize hu : (onSpdm t fun p => { p with caps := true }).emit (.spdm (.capabilities true true true)) = u
    have hversion : exec .getVersion s = .next t := ht ▸ (spdm_opens hid).1
    have htid : t.fbx.identityOk = true := ht ▸ hid
    have htv : t.fbx.spdm.version = true := ht ▸ rfl
    have hcaps : exec .getCapabilities t = .next u := hu ▸ (spdm_opens htid).2.1 htv
    have huid : u.fbx.identityOk = true := hu ▸ htid
    have huv : u.fbx.spdm.version = true := hu ▸ htv
    have huc : u.fbx.spdm.caps = true := hu ▸ rfl
    refine ⟨t, u, _, hversion, ht ▸ rfl, ht ▸ rfl, hcaps, hu ▸ rfl, (spdm_opens huid).2.2 huv huc, rfl, ?_, ?_, ?_⟩
    · simp [spdmReady, onSpdm, huv, huc]
    · rw [(onSpdm_emit_frame u _ _ _ _ s.fbx.spdm).1, ← hu, (onSpdm_emit_frame t _ _ _ _ s.fbx.spdm).1, ← ht,
        (onSpdm_emit_frame s _ _ _ _ s.fbx.spdm).1]
    · rw [(onSpdm_emit_frame u _ _ s.out s.fbx _).2, ← hu, (onSpdm_emit_frame t _ _ s.out s.fbx _).2, ← ht,
        (onSpdm_emit_frame s _ _ s.out s.fbx _).2]
  · simp only [List.mem_cons, List.not_mem_nil, or_false] at hc
    rcases hc with rfl | rfl | rfl | rfl
    · have h := spdmAnswer_notReady (.digests 1 [sha384 (certificateChain s)]) true hnot
      rw [Bool.and_true] at h
      exact (exec_getDigests s).trans (congrArg Host.Outcome.next h)
    · rw [exec_getCertificate, execGetCertificate]
      simp only [Bool.and_assoc]
      exact congrArg Host.Outcome.next (spdmAnswer_notReady _ _ hnot)
    · exact (exec_challenge slot nonce s).trans (congrArg Host.Outcome.next (spdmAnswer_notReady _ _ hnot))
    · exact (exec_getMeasurements index nonce s).trans (congrArg Host.Outcome.next (spdmAnswer_notReady _ _ hnot))
  · rw [exec_getDigests, execGetDigests, hready, if_pos rfl, spdmAnswer_identity _ hid]
  · rw [exec_getCertificate, execGetCertificate, if_pos (by simp [hready, hoff]), spdmAnswer_identity _ hid]
  · rw [exec_challenge, execChallenge, if_pos (by simp [hready]), spdmAnswer_identity _ hid]
  · rw [exec_getCertificate, execGetCertificate, if_neg (by simp [hslot]), spdmAnswer_error]
  · rw [exec_challenge, execChallenge, if_neg (by simp [hslot]), spdmAnswer_error]
  · rw [exec_getMeasurements, execGetMeasurements, if_pos (by simp [hready]), spdmAnswer_identity _ hid]
    simp
  · rw [exec_getMeasurements, execGetMeasurements, if_pos (by simp [hready, measurements]), spdmAnswer_identity _ hid]
    rfl
  · rw [exec_spdmUnsupportedRequest, execSpdmUnsupportedRequest, spdmAnswer_identity _ hid]

/-! ### Injection and counters -/

theorem injectWrite_refused {s : State} {val : Word} {kind : Nat} {f : State → State} (hready : s.pwr.ready = true)
    (hkind : injectKind val = kind) (hdebug : s.fbx.debug = false) :
    injectWrite s val kind f = s.onDgn fun d => { d with injRefused := true } := by
  simp [injectWrite, hready, hkind, hdebug]

theorem injectWrite_taken {s : State} {val : Word} {kind : Nat} {f : State → State} (hready : s.pwr.ready = true)
    (hkind : injectKind val = kind) (hdebug : s.fbx.debug = true) :
    injectWrite s val kind f = f (s.onDgn fun d => { d with injectReg := injectValue val, injRefused := false }) := by
  simp [injectWrite, hready, hkind, hdebug]

/-- The beginning of a hold, injected or not, keeps sessions and memory and holds work. -/
theorem beginHold_keeps (s : State) (injected : Bool) (rails : List Rail) :
    (beginHold s injected rails).pwr.heldNow = true ∧ (beginHold s injected rails).ses = s.ses ∧
      (beginHold s injected rails).hrt.mem = s.hrt.mem := by
  refine ⟨rfl, ?_, ?_⟩
  all_goals simp only [beginHold, stopWork, State.onFwu_ses, State.onFwu_hrt, State.onHrt_ses, State.onHrt_hrt, State.onPwr_ses,
    State.onPwr_hrt]
  · exact flagHeld_keeps (·.ses) (fun _ _ _ => rfl) _ _
  · exact flagHeld_keeps (·.hrt.mem) (fun _ _ _ => rfl) _ _

/-- An injected hold begins as a dip would, for the time asked for (R384). -/
theorem execInjectSupplyHold_holds {s : State} {val : Word} (hready : s.pwr.ready = true) (hkind : injectKind val = 5)
    (hdebug : s.fbx.debug = true) (hdip : s.pwr.dipActive = false) :
    ∃ t, execInjectSupplyHold val s = .next t ∧ t.pwr.heldNow = true ∧ t.pwr.injectedLen = injectedUs val ∧
      t.ses.table = s.ses.table ∧ t.hrt.mem = s.hrt.mem := by
  obtain ⟨hheld, hses, hmem⟩ := beginHold_keeps (s.onDgn fun d => { d with injectReg := injectValue val, injRefused := false }) true []
  refine ⟨_, congrArg Host.Outcome.next (injectWrite_taken hready hkind hdebug), ?_⟩
  simp only [State.onDgn_pwr, hdip, Bool.false_eq_true, if_false, faultStruck, logEvent_pwr, logEvent_ses, logEvent_hrt,
    State.onDgn_ses, State.onDgn_hrt, State.onPwr_pwr, State.onPwr_ses, State.onPwr_hrt, hheld, hses, hmem, and_self]

/-- The counters of a tenant as a refresh leaves them: the counts latched, rounded down (R343). -/
def refreshedCounters (s : State) (c : TenantCounters) : TenantCounters :=
  { c with latched := (tenantCounts s c).map powerFloor, updates := (c.updates + 1) % 2 ^ 64, refreshed := some s.localNs }

theorem execTenantCounterRefresh_latches {s : State} {tenant : Nat} {c : TenantCounters}
    (hc : lookupBy (fun c => c.tenant) tenant s.host.tenants = some c)
    (hover : intervalOver c.refreshed (tenantInterval s) s.localNs = true) :
    execTenantCounterRefresh tenant s =
      .next (s.onHost fun h => { h with tenants := upsert TenantCounters.tenant (refreshedCounters s c) h.tenants }) := by
  simp only [execTenantCounterRefresh, hc, hover, Bool.not_true, Bool.false_eq_true, if_false]
  rfl

/-- Settles O60: an injection by debug_enable and kind; the TRNG; each counter by its interval. -/
theorem injectionHealthAndCoarseCounters : Obligations.InjectionHealthAndCoarseCounters := by
  refine ⟨fun s val c hc hready hkind => ⟨fun hdebug => ?_, fun hdebug hlt => ?_, fun hdebug h5 hdip => ?_⟩, fun s => ?_,
    fun s tenant c hc => ⟨fun hover => ?_, fun hover => ?_⟩, fun s watts => ⟨fun hover => ?_, fun hover => ?_⟩⟩
  · have hrefused := fun kind f (h : injectKind val = kind) => injectWrite_refused (f := f) hready h hdebug
    simp only [List.mem_cons, List.not_mem_nil, or_false] at hc
    rcases hc with rfl | rfl | rfl | rfl | rfl | rfl <;> exact congrArg Host.Outcome.next (hrefused _ _ hkind)
  · have htaken := fun kind f (h : injectKind val = kind) => injectWrite_taken (f := f) hready h hdebug
    simp only [List.mem_cons, List.not_mem_nil, or_false] at hc
    rcases hc with rfl | rfl | rfl | rfl | rfl | rfl
    iterate 5 exact congrArg Host.Outcome.next (htaken _ _ hkind)
    simp at hlt
  · have heq : c.1 = .injectSupplyHold val := by
      simp only [List.mem_cons, List.not_mem_nil, or_false] at hc
      rcases hc with rfl | rfl | rfl | rfl | rfl | rfl
      iterate 5 simp at h5
      rfl
    rw [heq, exec_injectSupplyHold]
    exact execInjectSupplyHold_holds hready (hkind.trans h5) hdebug hdip
  · exact ⟨_, exec_trngHealthFail s, rfl, rfl, Nat.min_comm _ _⟩
  · simp only [exec_tenantCounterRefresh, execTenantCounterRefresh, hc, hover, Bool.not_false, if_true]
  · exact ⟨_, _, (exec_tenantCounterRefresh tenant s).trans (execTenantCounterRefresh_latches hc hover),
      upsert_get' TenantCounters.tenant _ _ _ (lookup_mem hc).2, rfl, rfl, rfl, rfl⟩
  · rw [exec_tenantPowerRefresh, execTenantPowerRefresh, if_neg (by simp [hover])]
  · rw [exec_tenantPowerRefresh, execTenantPowerRefresh, if_pos hover]

end Sys2Proof.Machine
end

section
/-!
SUPPORT. The bellows (R317 to R325): peers, ports and their queues after a change; frame boundaries, gates, shapers, dampers.
-/

namespace Sys2Proof.Machine

/-! ### Peers, ports and queues -/

theorem peer_of_rdg {s t : State} (h : t.rdg = s.rdg) (a : Nat) : t.peer a = s.peer a := by simp only [State.peer, h]
theorem peer_of_peers {s t : State} (h : t.rdg.peers = s.rdg.peers) (a : Nat) : t.peer a = s.peer a := by
  simp only [State.peer, h]

@[simp] theorem peer_onPeer_same (s : State) (a : Nat) (f : Peer → Peer) :
    (s.onPeer a f).peer a = { f (s.peer a) with address := a } :=
  congrArg (Option.getD · _) (upsert_get' Peer.address { f (s.peer a) with address := a } s.rdg.peers a rfl)

theorem bellow_of_blw {s t : State} (h : t.blw = s.blw) (n : Nat) : t.bellow n = s.bellow n := by simp only [State.bellow, h]

@[simp] theorem bellow_onBellow_same (s : State) (n : Nat) (f : Bellow → Bellow) :
    (s.onBellow n f).bellow n = { f (s.bellow n) with number := n } :=
  congrArg (Option.getD · _) (upsert_get' Bellow.number { f (s.bellow n) with number := n } s.blw.ports n rfl)

@[simp] theorem damper_onDamper_same (s : State) (n : Nat) (f : Damper → Damper) :
    (s.onDamper n f).damper n = { f (s.damper n) with number := n } :=
  congrArg (Option.getD · _) (upsert_get' Damper.number { f (s.damper n) with number := n } s.blw.dampers n rfl)

/-! ### Frame boundaries -/

theorem takeReady_head {ready : OutFrame → Bool} {f : OutFrame} (rest : List OutFrame) (h : ready f = true) :
    takeReady ready (f :: rest) = some (f, rest) := if_pos h

/-- The frame as it goes out: numbered in its turn, with the acknowledgement of the link (R286). -/
def startedFrame (s : State) (f : OutFrame) : OutFrame :=
  { f with hdr := { f.hdr with fseq := if takesSeq f then (s.peer f.hdr.dstAddr).nextSeq else f.hdr.fseq,
                               ack := (s.peer f.hdr.dstAddr).expected - 1 },
           sentAt := if takesSeq f then s.localNs else f.sentAt, retx := some (retxNs s) }

/-- The peer after the start of a frame to it. -/
def startedPeer (s : State) (f : OutFrame) (p : Peer) : Peer :=
  { p with framesSent := p.framesSent + 1, nextSeq := if takesSeq f then p.nextSeq + 1 else p.nextSeq,
           unacked := if takesSeq f then p.unacked ++ [startedFrame s f] else p.unacked }

theorem startFrame_peer (s : State) (n : Nat) (f : OutFrame) : (startFrame s n f).peer f.hdr.dstAddr =
    { startedPeer s f (s.peer f.hdr.dstAddr) with address := f.hdr.dstAddr } :=
  peer_onPeer_same s f.hdr.dstAddr (startedPeer s f)

/-- What the start of a frame does to the peer it goes to, and what it puts out. -/
theorem startFrame_sends (s : State) (n : Nat) (f : OutFrame) :
    (startFrame s n f).blw = s.blw ∧
    (startFrame s n f).out = s.out ++ [.frame n (encodeHeader (startedFrame s f).hdr)
      (frameNonce (s.peer f.hdr.dstAddr).framesSent s.rdg.address) (startedFrame s f)] ∧
    ((startFrame s n f).peer f.hdr.dstAddr).nextSeq =
      (if takesSeq f then (s.peer f.hdr.dstAddr).nextSeq + 1 else (s.peer f.hdr.dstAddr).nextSeq) ∧
    ((startFrame s n f).peer f.hdr.dstAddr).unacked =
      (if takesSeq f then (s.peer f.hdr.dstAddr).unacked ++ [startedFrame s f] else (s.peer f.hdr.dstAddr).unacked) ∧
    (startFrame s n f).ses = s.ses ∧ (startFrame s n f).hrt = s.hrt := by
  refine ⟨rfl, rfl, ?_, ?_, rfl, rfl⟩ <;> rw [startFrame_peer] <;> rfl

/-- A port's control queue goes first: its head starts when it is ready (R318). -/
theorem execBellowsFrameBoundary_control {s : State} {n : Nat} {f : OutFrame} {rest : List OutFrame} (hn : n < 6)
    (hup : (s.port n).state = .up) (hqueue : (s.bellow n).control = f :: rest) (hready : frameReady s f = true)
    (hfree : holdsFrame s f = false) :
    execBellowsFrameBoundary n s = .next (startFrame (s.onBellow n fun b => { b with control := rest }) n f) := by
  have htake := takeReady_head (ready := fun f => frameReady s f && !holdsFrame s f) rest (by rw [hready, hfree]; rfl)
  rw [execBellowsFrameBoundary, if_neg (by omega), if_pos (by simp [hn, hup])]
  simp only [ridgeBoundary, hqueue, htake]

/-- In a supply hold no class whose head is data may send (R48). -/
theorem classOrder_held {s : State} {b : Bellow} (hheld : s.pwr.heldNow = true)
    (hdata : ∀ c ∈ b.classes, ∀ f ∈ c.queue, controlType f.hdr.type = false) :
    classOrder.find? (classEligible s b) = none := by
  refine List.find?_eq_none.mpr fun cls _ => ?_
  unfold classEligible
  split
  · rename_i c hc
    have hwaits : classWaits s b cls c = false := by
      unfold classWaits
      split
      · rfl
      · rename_i f rest hqueue
        have hf := hdata c (List.mem_of_getElem? hc) f (hqueue ▸ List.mem_cons_self ..)
        simp [holdsFrame, hheld, hf]
    simp [hwaits]
  · simp

theorem execBellowsFrameBoundary_held {s : State} {n : Nat} (hn : n < 6) (hup : (s.port n).state = .up)
    (hcontrol : (s.bellow n).control = []) (hheld : s.pwr.heldNow = true)
    (hdata : ∀ c ∈ (s.bellow n).classes, ∀ f ∈ c.queue, controlType f.hdr.type = false) :
    execBellowsFrameBoundary n s = .next (noteDefers s n) := by
  rw [execBellowsFrameBoundary, if_neg (by omega), if_pos (by simp [hn, hup])]
  simp only [ridgeBoundary, hcontrol, takeReady]
  have hnone : classOrder.find? (classEligible (noteDefers s n) (s.bellow n)) = none := classOrder_held hheld hdata
  rw [hnone]

/-! ### Gates -/

theorem execGateEntryBoundary_at {s : State} {n : Nat} {g : Gate} (hg : (s.bellow n).active[(s.bellow n).index]? = some g)
    (hgated : (s.bellow n).gated = true) : execGateEntryBoundary n s =
      if (s.bellow n).entryAt + g.ns ≤ s.localNs then .next (s.onBellow n fun b => b.nextEntry (b.entryAt + g.ns)) else .next s := by
  simp only [execGateEntryBoundary, hg, hgated, Bool.true_and, decide_eq_true_eq]

theorem execGclTakeEffect_at {s : State} {n : Nat} {l : List Gate} (hl : (s.bellow n).committed = some l) :
    execGclTakeEffect n s = if effectMoment (s.bellow n) ≤ s.localNs then
      .next (s.onBellow n fun b => b.activate l (if b.gated then effectMoment b else s.localNs))
    else .next s := by
  simp only [execGclTakeEffect, hl]

/-- A commit of a pending list by whether the list may stand (Table 14.4). -/
theorem commitGates_bellow {s : State} (h : selPort s ≠ 6) :
    ((commitGates s).bellow (selPort s)).refused = gateListBad (pendingList (s.bellow (selPort s))) ∧
    ((commitGates s).bellow (selPort s)).committed = (if gateListBad (pendingList (s.bellow (selPort s)))
      then (s.bellow (selPort s)).committed else some (pendingList (s.bellow (selPort s)))) := by
  rw [commitGates, if_neg h, bellow_onBellow_same]
  cases hbad : gateListBad (pendingList (s.bellow (selPort s))) <;> simp [hbad]

theorem commitGates_quiet (s : State) : (commitGates s).quiet = s.quiet := by
  unfold commitGates
  split <;> rfl

/-! ### Shapers and dampers -/

theorem bellow_onClass (s : State) (n c : Nat) (f : BlwClass → BlwClass) : ((s.onClass n c f).bellow n).classes =
    setAt (s.bellow n).classes c (f (((s.bellow n).classes[c]?).getD {})) :=
  congrArg Bellow.classes (bellow_onBellow_same s n _)

/-- A shaper write sets the class's shape and fills its bucket (R321). -/
theorem writeShape_class {s : State} (val : Word) {c : BlwClass} (h : (s.bellow (selPort s)).classes[selClass s]? = some c) :
    ((writeShape s val).bellow (selPort s)).classes[selClass s]? = some
      { c with shape := BitVec.ofNat 64 (fld val 31 0), filled := s.localNs,
               bucket := BlwClass.burst { c with shape := BitVec.ofNat 64 (fld val 31 0) } } := by
  rw [writeShape, bellow_onClass, h]
  exact setAt_same _ _ _ (List.getElem?_eq_some_iff.mp h).1

theorem fld_shape (val : Word) : fld (BitVec.ofNat 64 (fld val 31 0)) 31 0 = fld val 31 0 := by
  have hlt := fld_lt val 31 0
  rw [fld_ofNat 64 _ _ _ (by omega)]
  omega

/-- Settles O59: a frame boundary by what its queues hold, the gates by their moments, and the writes of the registers. -/
theorem bellowsSendByClassAndGate : Obligations.BellowsSendByClassAndGate := by
  refine ⟨fun s n f rest hn hup hqueue hready hfree => ?_, fun s n hn hup hcontrol hheld hdata => ?_,
    fun s n g hg hgated => ⟨fun hearly => ?_, fun hover hmore => ?_⟩, fun s val hready hport => ⟨fun hbit => ?_, fun hbit => ?_⟩,
    fun s n l hl => ⟨fun hearly => ?_, fun hlate => ?_⟩, fun s val c hready hc => ?_, fun s reg val hready hreg => ?_⟩
  · obtain ⟨hblw, hout, hnext, hunacked, hses, hhrt⟩ := startFrame_sends (s.onBellow n fun b => { b with control := rest }) n f
    have hbellow := (bellow_of_blw hblw n).trans (bellow_onBellow_same s n _)
    refine ⟨_, startedFrame s f, (exec_bellowsFrameBoundary n s).trans (execBellowsFrameBoundary_control hn hup hqueue hready hfree),
      by rw [hbellow], by rw [hbellow], rfl, hout, fun hseq => ⟨?_, ?_, ?_⟩, hses, hhrt⟩
    · exact if_pos hseq
    · exact hnext.trans (if_pos hseq)
    · exact hunacked.trans (if_pos hseq)
  · exact ⟨_, (exec_bellowsFrameBoundary n s).trans (execBellowsFrameBoundary_held hn hup hcontrol hheld hdata), rfl, rfl⟩
  · exact (exec_gateEntryBoundary n s).trans ((execGateEntryBoundary_at hg hgated).trans (if_neg (Nat.not_le.mpr hearly)))
  · refine ⟨_, (exec_gateEntryBoundary n s).trans ((execGateEntryBoundary_at hg hgated).trans (if_pos hover)), ?_⟩
    rw [bellow_onBellow_same, Bellow.nextEntry, if_pos hmore]
    exact ⟨rfl, rfl, rfl, rfl⟩
  · obtain ⟨hrefused, hcommitted⟩ := commitGates_bellow hport
    exact ⟨_, (exec_gclCommit val s).trans (congrArg Host.Outcome.next (if_pos (by simp [hready, hbit]))), commitGates_quiet s,
      hrefused, hcommitted⟩
  · refine ⟨_, (exec_gclDiscard val s).trans (congrArg Host.Outcome.next
      ((if_pos (by simp [hready, hbit])).trans (if_neg hport))), rfl, ?_⟩
    rw [bellow_onBellow_same]
    exact ⟨rfl, rfl, rfl⟩
  · exact (exec_gclTakeEffect n s).trans ((execGclTakeEffect_at hl).trans (if_neg (Nat.not_le.mpr hearly)))
  · refine ⟨_, (exec_gclTakeEffect n s).trans ((execGclTakeEffect_at hl).trans (if_pos hlate)), ?_⟩
    rw [bellow_onBellow_same]
    exact ⟨rfl, rfl, rfl, rfl⟩
  · exact ⟨_, _, (exec_shaperWrite val s).trans (congrArg Host.Outcome.next (if_pos hready)), writeShape_class val hc, fld_shape val,
      rfl, rfl, rfl⟩
  · have hnext := (exec_damperWrite reg val s).trans (congrArg Host.Outcome.next (if_pos hready))
    refine ⟨_, hnext, rfl, ?_⟩
    rw [writeDamper, damper_onDamper_same]
    rcases hreg with rfl | rfl
    · exact ⟨fun _ => rfl, fun h => absurd h (by decide), rfl, rfl⟩
    · exact ⟨fun h => absurd h (by decide), fun _ => rfl, rfl, rfl⟩

end Sys2Proof.Machine
end

section
/-!
SUPPORT. Ports and link keys (R284, R335, R336).
-/

namespace Sys2Proof.Machine

/-! ### Ports -/

@[simp] theorem port_onPort_same (s : State) (n : Nat) (f : Port → Port) :
    (s.onPort n f).port n = { f (s.port n) with number := n } :=
  congrArg (Option.getD · _) (upsert_get' Port.number { f (s.port n) with number := n } s.rdg.ports n rfl)

theorem port_onPort_other (s : State) {n k : Nat} (f : Port → Port) (h : k ≠ n) : (s.onPort n f).port k = s.port k :=
  congrArg (Option.getD · _) (upsert_other Port.number { f (s.port n) with number := n } s.rdg.ports k (Ne.symm h))

theorem port_of_rdg {s t : State} (h : t.rdg = s.rdg) (n : Nat) : t.port n = s.port n := by simp only [State.port, h]
/-- What frames queued again leave: sessions, descriptors, the hearth, and the state and lanes of every port. -/
structure PortStands (n : Nat) (s t : State) : Prop where
  ses : t.ses = s.ses
  desc : t.desc = s.desc
  hrt : t.hrt = s.hrt
  state : (t.port n).state = (s.port n).state
  lanes : (t.port n).lanes = (s.port n).lanes

theorem PortStands.refl (n : Nat) (s : State) : PortStands n s s := ⟨rfl, rfl, rfl, rfl, rfl⟩

theorem PortStands.trans {n : Nat} {s t u : State} (h : PortStands n s t) (g : PortStands n t u) : PortStands n s u :=
  ⟨g.ses.trans h.ses, g.desc.trans h.desc, g.hrt.trans h.hrt, g.state.trans h.state, g.lanes.trans h.lanes⟩

theorem PortStands.foldl {α : Type} {n : Nat} {f : State → α → State} (h : ∀ s a, PortStands n s (f s a)) (l : List α) (s : State) :
    PortStands n s (l.foldl f s) :=
  List.foldlRecOn l f (motive := PortStands n s) (.refl n s) fun t ht a _ => ht.trans (h t a)

theorem portStands_enqueueFrame (n : Nat) (s : State) (p : Nat) (f : OutFrame) : PortStands n s (enqueueFrame s p f) :=
  ⟨by simp, by simp, by simp, by rw [port_of_rdg (enqueueFrame_rdg s p f)], by rw [port_of_rdg (enqueueFrame_rdg s p f)]⟩

theorem portStands_moveQueued (n : Nat) (s : State) : PortStands n s (moveQueued s) := by
  unfold moveQueued
  extract_lets ports all emptied
  have hemptied : PortStands n s emptied := by
    refine PortStands.foldl (fun t k => ?_) ports s
    exact ⟨rfl, rfl, rfl, rfl, rfl⟩
  exact hemptied.trans (PortStands.foldl (fun t f => portStands_enqueueFrame n t _ f) all emptied)

theorem portStands_resent (n : Nat) (s : State) (k : Nat) :
    PortStands n s (s.onPort k fun q => { q with resent := bump 16 q.resent }) := by
  rcases Decidable.em (n = k) with rfl | hk
  · exact ⟨rfl, rfl, rfl, by rw [port_onPort_same], by rw [port_onPort_same]⟩
  · exact ⟨rfl, rfl, rfl, by rw [port_onPort_other _ _ hk], by rw [port_onPort_other _ _ hk]⟩

theorem portStands_sendAgain (n : Nat) (s : State) (addr : Nat) : PortStands n s (sendAgain s addr) :=
  (PortStands.foldl (fun s _ => (portStands_enqueueFrame n s _ _).trans (portStands_resent n _ _)) (s.peer addr).unacked s).trans
    ⟨rfl, rfl, rfl, rfl, rfl⟩

/-- A change of a known port, and all that is then moved and sent again. -/
theorem execRidgePortStateChange_known {s : State} {n state : Nat} (h : s.rdg.ports.any (fun p => p.number == n) = true) :
    ∃ t, execRidgePortStateChange n state s = .next t ∧ PortStands n (s.onPort n fun p =>
      { p with state := portState state, lanes := if state = 2 then p.lanes else 0 }) t :=
  ⟨_, if_pos h, (portStands_moveQueued n _).trans (PortStands.foldl (fun s (p : Peer) => portStands_sendAgain n s p.address) _ _)⟩

/-! ### Keys -/

/-- What the frames of the map leave. -/
structure KeysStand (s t : State) : Prop where
  ses : t.ses = s.ses
  desc : t.desc = s.desc
  hrt : t.hrt = s.hrt
  fbx : t.fbx = s.fbx
  rdg : t.rdg = s.rdg

theorem KeysStand.refl (s : State) : KeysStand s s := ⟨rfl, rfl, rfl, rfl, rfl⟩
theorem KeysStand.trans {s t u : State} (h : KeysStand s t) (g : KeysStand t u) : KeysStand s u :=
  ⟨g.ses.trans h.ses, g.desc.trans h.desc, g.hrt.trans h.hrt, g.fbx.trans h.fbx, g.rdg.trans h.rdg⟩

theorem keysStand_sendFrame (s : State) (part type cls : Nat) (p : Payload) : KeysStand s (sendFrame s part type cls p) :=
  ⟨by simp, by simp, by simp, by simp, by simp⟩

theorem keysStand_fetchReplica (s : State) (part : Nat) : KeysStand s (fetchReplica s part) := by
  unfold fetchReplica
  split
  · exact keysStand_sendFrame ..
  · exact .refl s

/-- An offer that is refused leaves its peer without keys (R335). -/
theorem agreeKeys_refused {s : State} {addr : Nat} {o : PeerOffer} (hid : s.fbx.identityOk = true) (htrng : s.fbx.trngOk = true)
    (hconf : s.rdg.configured = true) (h : acceptsOffer s addr o = false) :
    agreeKeys s addr o = s.onPeer addr fun p => { p with refused := true, keyed := false } := by
  simp [agreeKeys, hid, htrng, hconf, h]

/-- The peer whose offer is accepted, under the next key drawn (R335). -/
def keyedPeer (s : State) (o : PeerOffer) (p : Peer) : Peer :=
  { p with keyed := true, refused := false, part := some o.part, keyDraw := s.fbx.draws, framesSent := 0, keyedAt := s.localNs,
           oldKeyUntil := if p.keyed then s.localNs + ms 1 else 0, lastHeard := s.localNs, suspect := false }

theorem agreeKeys_accepted {s : State} {addr : Nat} {o : PeerOffer} (hid : s.fbx.identityOk = true) (htrng : s.fbx.trngOk = true)
    (hconf : s.rdg.configured = true) (h : acceptsOffer s addr o = true) :
    KeysStand ((drawKey s).1.onPeer addr (keyedPeer s o)) (agreeKeys s addr o) := by
  unfold agreeKeys
  rw [if_neg (by simp [hid, htrng, hconf]), if_neg (by simp [h])]
  refine (keysStand_fetchReplica ((drawKey s).1.onPeer addr (keyedPeer s o)) o.part).trans ?_
  show KeysStand _ (ite _ _ _)
  split
  · exact List.foldlRecOn _ _ (motive := KeysStand (fetchReplica ((drawKey s).1.onPeer addr (keyedPeer s o)) o.part)) (.refl _)
      fun t ht p _ => ht.trans (keysStand_sendFrame ..)
  · exact .refl _

theorem execLinkRekey_keyed {s : State} {addr : Nat} (hkeyed : (s.peer addr).keyed = true) (htrng : s.fbx.trngOk = true) :
    execLinkRekey addr s = if (s.peer addr).framesSent < 2 ^ 48 ∧ s.localNs < (s.peer addr).keyedAt + 86400000000000 then .next s
      else .next ((drawKey s).1.onPeer addr fun p => { p with
        keyDraw := s.fbx.draws, framesSent := 0, keyedAt := s.localNs, oldKeyUntil := s.localNs + 1000000 }) := by
  have hage : (decide ((s.peer addr).framesSent < 2 ^ 48) && decide (s.localNs < (s.peer addr).keyedAt + ms 86400000)) =
      decide ((s.peer addr).framesSent < 2 ^ 48 ∧ s.localNs < (s.peer addr).keyedAt + 86400000000000) :=
    (Bool.decide_and ..).symm
  simp only [execLinkRekey, hkeyed, htrng, Bool.not_true, Bool.false_or, hage, decide_eq_true_eq]
  rfl

/-- Settles O50: the port takes its state, an offer by whether it is accepted, a renewal by the age of the key. -/
theorem portsAndLinkKeys : Obligations.PortsAndLinkKeys := by
  refine ⟨fun s n state hknown => ?_, fun s addr o hid htrng hconf => ?_, fun s addr hkeyed htrng => ⟨fun hfew hyoung => ?_, fun hold => ?_⟩⟩
  · obtain ⟨t, hnext, ⟨hses, hdesc, hhrt, hstate, hlanes⟩⟩ := execRidgePortStateChange_known (state := state) hknown
    rw [port_onPort_same] at hstate hlanes
    exact ⟨t, (exec_ridgePortStateChange n state s).trans hnext, hstate, fun hne => hlanes.trans (if_neg hne), hses, hdesc, hhrt⟩
  · rcases hoffer : acceptsOffer s addr o with _ | _
    · refine ⟨_, (exec_linkKeyExchange addr o s).trans (congrArg Host.Outcome.next (agreeKeys_refused hid htrng hconf hoffer)), rfl,
        rfl, rfl, fun h => absurd h (by simp), fun _ => ?_⟩
      rw [peer_onPeer_same]
      exact ⟨rfl, rfl, rfl⟩
    · obtain ⟨hses, hdesc, hhrt, hfbx, hrdg⟩ := agreeKeys_accepted hid htrng hconf hoffer
      refine ⟨_, exec_linkKeyExchange addr o s, hses, hdesc, hhrt, fun _ => ?_, fun h => absurd h (by simp)⟩
      rw [peer_of_rdg hrdg, peer_onPeer_same, hfbx]
      exact ⟨rfl, rfl, rfl, rfl, rfl⟩
  · rw [exec_linkRekey, execLinkRekey_keyed hkeyed htrng, if_pos ⟨hfew, hyoung⟩]
  · refine ⟨_, (exec_linkRekey addr s).trans ((execLinkRekey_keyed hkeyed htrng).trans (if_neg (by omega))), ?_⟩
    rw [peer_onPeer_same]
    exact ⟨hkeyed, rfl, rfl, rfl, rfl, rfl⟩

end Sys2Proof.Machine
end

section
/-!
SUPPORT. The switch of the firmware and what follows it (R371 to R374): settings that an image resets, the switch, the fallback, the
confirmation, a recovery download.
-/

namespace Sys2Proof.Machine

/-! ### Settings reset by a change of format -/

/-- What the reset of settings leaves: the firmware's slots and policy, sessions, memory, descriptors, the host port. -/
structure SettingsStand (s t : State) : Prop where
  fwu : { t.fwu with settingsReset := s.fwu.settingsReset } = s.fwu
  policy : t.fbx.policy = s.fbx.policy
  table : t.ses.table = s.ses.table
  batches : t.ses.batches = s.ses.batches
  mem : t.hrt.mem = s.hrt.mem
  desc : t.desc = s.desc
  localNs : t.localNs = s.localNs

theorem SettingsStand.refl (s : State) : SettingsStand s s := ⟨rfl, rfl, rfl, rfl, rfl, rfl, rfl⟩

theorem settingsStand_resetBlock {s t : State} (h : SettingsStand s t) (n : Nat) : SettingsStand s (resetBlock t n) := by
  obtain ⟨hfwu, hpolicy, htable, hbatches, hmem, hdesc, hns⟩ := h
  unfold resetBlock
  split <;> exact ⟨hfwu, hpolicy, htable, hbatches, hmem, hdesc, hns⟩

theorem settingsStand_formatReset (s : State) (old new : Nat) : SettingsStand s (settingsFormatReset s old new) := by
  have hblocks : SettingsStand s ((differingBlocks old new).foldl resetBlock s) :=
    List.foldlRecOn _ resetBlock (motive := SettingsStand s) (.refl s) fun t ht n _ => settingsStand_resetBlock ht n
  obtain ⟨hfwu, hpolicy, htable, hbatches, hmem, hdesc, hns⟩ := hblocks
  exact ⟨hfwu, hpolicy, htable, hbatches, hmem, hdesc, hns⟩

/-- The fields of the firmware that a reset of settings leaves. -/
theorem SettingsStand.firmware {s t : State} (h : SettingsStand s t) : t.fwu.active = s.fwu.active ∧ t.fwu.slots = s.fwu.slots := by
  have hfwu := h.fwu
  have hactive := congrArg Firmware.active hfwu
  have hslots := congrArg Firmware.slots hfwu
  exact ⟨hactive, hslots⟩

/-! ### The switch -/

/-- While no step rests none is taken up again (R371). -/
theorem resumeSteps_none {s : State} (h : ∀ b ∈ s.ses.batches, b.resting = false) : resumeSteps s = s := by
  have hnone : s.ses.batches.filter (·.resting) = [] := List.filter_eq_nil_iff.mpr fun b hb => by simp [h b hb]
  simp only [resumeSteps, hnone, List.map_nil, List.foldl_nil]

/-- What the switch itself does (R371, R372). -/
theorem switchImage_switches (s : State) : (switchImage s).fwu.active = inactive s.fwu ∧ (switchImage s).fwu.activation = none ∧
    (switchImage s).fwu.confirmed = !s.fbx.policy ∧ (switchImage s).ses.table = s.ses.table ∧
    (switchImage s).ses.batches = s.ses.batches ∧ (switchImage s).hrt.mem = s.hrt.mem ∧ (switchImage s).desc = s.desc := by
  have hstand := settingsStand_formatReset s (slotFormats s.fwu s.fwu.active) (slotFormats s.fwu (inactive s.fwu))
  obtain ⟨hactive, -⟩ := hstand.firmware
  exact ⟨congrArg (1 - ·) hactive, rfl, congrArg (!·) hstand.policy, hstand.table, hstand.batches, hstand.mem, hstand.desc⟩

/-- The record of the switch changes diagnostics and flight rings only. -/
theorem switchEvent_keeps (s : State) : (switchEvent s).quiet = s.quiet ∧ (switchEvent s).desc = s.desc := by
  unfold switchEvent
  exact ⟨foldl_keeps State.quiet _ (fun _ _ => quiet_writeFlight _ _ _) _ _,
    foldl_keeps State.desc _ (fun _ _ => writeFlight_desc _ _ _) _ _⟩

theorem execFirmwareSwitch_quiesced {s : State} (hready : s.pwr.ready = true) (hheld : s.pwr.heldNow = false)
    (hpending : switchPending s = true) (hretry : s.fwu.retryAt = none) (hlive : compatibleLive s = true) :
    execFirmwareSwitch s = if quiesced s = true then .next (resumeSteps (switchEvent (switchImage s))) else .next s := by
  cases hq : quiesced s <;> simp [execFirmwareSwitch, hready, hheld, hpending, hretry, hlive, hq]

/-! ### Attempts -/

theorem execQuiesceTimeout_at {s : State} {t0 : Nat} (h : s.fwu.attemptAt = some t0) : execQuiesceTimeout s =
    if s.pwr.heldNow || s.localNs < t0 + s.fwu.attemptWait.getD (quiesceNs s) then .next s
    else .next (resumeSteps (logEvent (s.onFwu fun f =>
      { f with attemptAt := none, retryAt := some (s.localNs + ms 10), quiesceTries := bump 16 f.quiesceTries })
      16 0 (s.fwu.quiesceTries + 1))) := by
  simp only [execQuiesceTimeout, h]

theorem execQuiesceRetry_at {s : State} {t0 : Nat} (h : s.fwu.retryAt = some t0) : execQuiesceRetry s =
    if s.localNs < t0 || s.pwr.heldNow || !switchPending s then .next s else .next (beginAttempt s) := by
  simp only [execQuiesceRetry, h]

/-! ### The fallback -/

theorem slotBoots_of_slots {f g : Firmware} (h : f.slots = g.slots) (n : Nat) : slotBoots f n = slotBoots g n := by
  simp only [slotBoots, h]

/-- The fallback confirms the other image, where that one boots (R373). -/
theorem fallbackImage_falls (s : State) : (fallbackImage s).fwu.confirmed = true ∧ (fallbackImage s).fwu.fallbackSeen = true ∧
    (slotBoots s.fwu (1 - s.fwu.active) = true → (fallbackImage s).fwu.active = 1 - s.fwu.active) ∧
    (fallbackImage s).hrt.mem = s.hrt.mem := by
  refine ⟨rfl, rfl, fun h => ?_, ?_⟩
  · have hslots := (settingsStand_formatReset s (slotFormats s.fwu s.fwu.active) (slotFormats s.fwu (1 - s.fwu.active))).firmware.2
    simp only [fallbackImage, h, if_true, State.onFwu_fwu, slotBoots_of_slots hslots]
    rfl
  · simp only [fallbackImage, State.onFwu_hrt]
    split
    · exact (settingsStand_formatReset s _ _).mem
    · rfl

theorem warmState_fwu (s : State) (c : Nat) : (warmState s c).fwu = { s.fwu with retryAt := none, attemptAt := none } :=
  show { (discardWork s).fwu with retryAt := none, attemptAt := none } = _ from by
    rw [discardWork_keeps State.fwu (fun _ _ => rfl) (fun _ _ => rfl) s]

/-- A fallback is a warm reset with cause 7 under the other image (R373). -/
theorem fallback_falls (s : State) : (fallback s).fwu.confirmed = true ∧ (fallback s).fwu.fallbackSeen = true ∧
    (fallback s).pwr.lastCause = 7 ∧ (fallback s).pwr.ready = false ∧
    (slotBoots s.fwu (1 - s.fwu.active) = true → (fallback s).fwu.active = 1 - s.fwu.active) ∧
    (fallback s).hrt.mem = s.hrt.mem := by
  obtain ⟨hconfirmed, hseen, hactive, hmem⟩ := fallbackImage_falls (endGuests s)
  have hfwu : (fallback s).fwu = { (fallbackImage (endGuests s)).fwu with retryAt := none, attemptAt := none } :=
    (logEvent_fwu _ 14 0 7).trans (warmState_fwu _ 7)
  rw [quiet_fwu (quiet_endGuests s)] at hactive
  refine ⟨hfwu ▸ hconfirmed, hfwu ▸ hseen, rfl, rfl, fun h => hfwu ▸ hactive h, ?_⟩
  have hwarm : (fallback s).hrt.mem = (fallbackImage (endGuests s)).hrt.mem :=
    (congrArg Hearth.mem (logEvent_hrt _ 14 0 7)).trans (warmState_hrt_mem _ 7)
  rw [hwarm, hmem, quiet_hrt (quiet_endGuests s)]

/-! ### Confirmation and rejection -/

theorem execImageConfirm_refused {s : State} {cores dies : Bool} (h : cores = false ∨ dies = false ∨ hostAsBefore s = false) :
    execImageConfirm cores dies s = .next s := by
  rcases h with h | h | h <;> simp [execImageConfirm, h]

theorem execImageConfirm_confirms {s : State} (hready : s.pwr.ready = true) (hpolicy : s.fbx.policy = true)
    (hnew : s.fwu.confirmed = false) (hhost : hostAsBefore s = true) (hconf : s.rdg.configured = false) :
    execImageConfirm true true s =
      .next (s.onFwu fun f => { f with confirmed := true, confirmAt := none, hostAtSwitch := none }) := by
  simp [execImageConfirm, hready, hpolicy, hnew, hhost, hconf]

theorem execConfirmWindowExpire_at {s : State} {t0 : Nat} (h : s.fwu.confirmAt = some t0) (hpolicy : s.fbx.policy = true)
    (hnew : s.fwu.confirmed = false) :
    execConfirmWindowExpire s = .next (if t0 ≤ s.localNs then fallback s else s) := by
  simp [execConfirmWindowExpire, h, hpolicy, hnew]

theorem writeRW_fwCtl (s : State) (val : Word) : writeRW s 0xB0028 val = s.onFwu fun t => { t with ctl := masked val 0xFF } := rfl
theorem writeRW_rcvCtl (s : State) (val : Word) :
    writeRW s 0xB0038 val = s.onFwu fun t => { t with rcvCtl := masked val 0x3FFFFFF } := rfl

/-! ### Recovery download -/

theorem execRecoveryDownload_eq (val : Word) (s : State) : execRecoveryDownload val s = .next (s.onFwu fun f =>
    { f with rcvCtl := masked val 0x3FFFFFF, rcvBusy := f.rcvBusy || (bit val 32 && s.pwr.bootStage == 7) }) := by
  unfold execRecoveryDownload
  rw [writeRW_rcvCtl]
  cases hbit : bit val 32 <;> cases hbusy : s.fwu.rcvBusy <;> rcases Decidable.em (s.pwr.bootStage = 7) with hstage | hstage <;>
    simp [State.onFwu, hbusy, hstage]

/-- The firmware under the image that a recovery download brought (R374). -/
def recoveredFirmware (f : Firmware) (img : List Byte) : Firmware :=
  { activateSlot { f with rcvBusy := false, rcvResult := 0,
                          slots := setAt f.slots (f.lastFailed.getD 0) { state := 2, image := some (imageKept img) } }
      (f.lastFailed.getD 0) with
    confirmed := true, confirmAt := none, lastFailed := none, coldSlot := none }

theorem execRecoveryDownloadDone_fails {s : State} {img : Option (List Byte)} {ok : Bool} {failed : List Nat}
    (hbusy : s.fwu.rcvBusy = true) (h : recoveryResult s img ok ≠ 0) : execRecoveryDownloadDone img ok failed s =
      .next (s.onFwu fun f => { f with rcvBusy := false, rcvResult := recoveryResult s img ok }) := by
  unfold execRecoveryDownloadDone
  rw [if_neg (by simp [hbusy])]
  obtain ⟨k, hk⟩ := Nat.exists_eq_succ_of_ne_zero h
  cases img with
  | none => rfl
  | some img => simp only [hk]

theorem execRecoveryDownloadDone_ends {s : State} {img : List Byte} {ok : Bool} {failed : List Nat}
    (hbusy : s.fwu.rcvBusy = true) (h : recoveryResult s (some img) ok = 0) :
    execRecoveryDownloadDone (some img) ok failed s =
      .next (loadFirmware (s.onFwu fun f => recoveredFirmware f (img.take (bfld (img.take 256) 95 64))) [] failed) := by
  unfold execRecoveryDownloadDone
  rw [if_neg (by simp [hbusy])]
  simp only [h]
  rfl

/-- The firmware that a load leaves, whatever the banks do: the slot chosen has booted, or none does. -/
theorem loadFirmware_fwu (s : State) (failed : List Nat) : (loadFirmware s [] failed).fwu =
    match chooseSlot (failSlots s []) false with
    | none => (failSlots s []).fwu
    | some u => u.fwu := by
  have hload : loadFirmware s [] failed = match chooseSlot (failSlots s []) false with
      | none => (failSlots s []).onPwr fun p => { p with bootStage := 7 }
      | some s =>
        if dieFailed failed then ((setPorts (testBanks s failed)).onPwr fun p => { p with bootStage := 8 }).onPins
          fun p => { p with faultN := false }
        else (setPorts (testBanks s failed)).onPwr fun p => { p with bootStage := 4 } := rfl
  rw [hload]
  cases chooseSlot (failSlots s []) false with
  | none => rfl
  | some u =>
    simp only []
    split <;> rfl

theorem loadFirmware_boots {s : State} {n : Nat} (failed : List Nat) (hfirst : firstChoice s.fwu false = n)
    (hboots : slotBoots s.fwu n = true) : (loadFirmware s [] failed).fwu = (bootSlot s n false).fwu := by
  rw [loadFirmware_fwu, failSlots_nil, chooseSlot, hfirst, if_pos hboots]

theorem loadFirmware_rcv (s : State) (failed : List Nat) : (loadFirmware s [] failed).fwu.rcvBusy = s.fwu.rcvBusy ∧
    (loadFirmware s [] failed).fwu.rcvResult = s.fwu.rcvResult := by
  rw [loadFirmware_fwu, failSlots_nil]
  simp only [chooseSlot]
  cases slotBoots s.fwu (firstChoice s.fwu false) <;> cases slotBoots s.fwu (1 - firstChoice s.fwu false) <;> exact ⟨rfl, rfl⟩

theorem slotBoots_recovered {f : Firmware} (img : List Byte) (h : f.lastFailed.getD 0 < f.slots.length) :
    slotBoots (recoveredFirmware f img) (f.lastFailed.getD 0) = true := by
  simp only [slotBoots, recoveredFirmware, activateSlot, List.getElem?_map, List.getElem?_zipIdx, setAt_same _ _ _ h]
  simp

/-- Settles O57: each event by its moment and its conditions. -/
theorem firmwareSwitchKeepsSessions : Obligations.FirmwareSwitchKeepsSessions := by
  refine ⟨fun s => ⟨fun hheld => ?_, fun hready hheld hpending hretry hlive => ?_⟩, fun s t0 h => ⟨fun hearly => ?_, fun hlate hheld hrest => ?_⟩,
    fun s t0 h => ⟨fun hearly => ?_, fun hlate hheld hpending => ?_⟩,
    fun s cores dies hready hpolicy hnew => ⟨fun h => ?_, fun hhost hconf => ?_⟩,
    fun s t0 h hpolicy hnew => ⟨fun hearly => ?_, fun hlate => ?_⟩, fun s val => ⟨fun ⟨hbit, hpolicy, hnew⟩ => ?_, fun h => ?_⟩,
    fun s val => ?_, fun s img ok failed hbusy => ?_⟩
  · exact (exec_firmwareSwitch s).trans (if_pos (by simp [hheld]))
  · have hswitch := (exec_firmwareSwitch s).trans (execFirmwareSwitch_quiesced hready hheld hpending hretry hlive)
    refine ⟨fun hq => hswitch.trans (if_neg (by simp [hq])), fun hq hrest => ?_⟩
    obtain ⟨hactive, hactivation, hconfirmed, htable, hbatches, hmem, hdesc⟩ := switchImage_switches s
    obtain ⟨hquiet, hevdesc⟩ := switchEvent_keeps (switchImage s)
    have hnone : ∀ b ∈ (switchEvent (switchImage s)).ses.batches, b.resting = false := by
      rw [quiet_ses hquiet, hbatches]
      exact hrest
    rw [if_pos hq, resumeSteps_none hnone] at hswitch
    refine ⟨_, hswitch, ?_⟩
    rw [quiet_fwu hquiet, quiet_ses hquiet, quiet_hrt hquiet, hevdesc]
    exact ⟨hactive, hactivation, hconfirmed, htable, hmem, hdesc⟩
  · exact (exec_quiesceTimeout s).trans ((execQuiesceTimeout_at h).trans (if_pos (by simp [hearly])))
  · have hnext := (execQuiesceTimeout_at h).trans (if_neg (by simp [hheld, hlate]))
    rw [resumeSteps_none (by simpa using hrest)] at hnext
    exact ⟨_, (exec_quiesceTimeout s).trans hnext, rfl, rfl, rfl, Nat.min_comm _ _, rfl⟩
  · exact (exec_quiesceRetry s).trans ((execQuiesceRetry_at h).trans (if_pos (by simp [hearly])))
  · exact ⟨_, (exec_quiesceRetry s).trans ((execQuiesceRetry_at h).trans (if_neg (by simp [hlate, hheld, hpending]))), rfl, rfl, rfl, rfl⟩
  · exact (exec_imageConfirm cores dies s).trans (execImageConfirm_refused h)
  · exact ⟨_, (exec_imageConfirm true true s).trans (execImageConfirm_confirms hready hpolicy hnew hhost hconf), rfl, rfl, rfl, rfl⟩
  · exact (exec_confirmWindowExpire s).trans ((execConfirmWindowExpire_at h hpolicy hnew).trans
      (congrArg Host.Outcome.next (if_neg (Nat.not_le.mpr hearly))))
  · exact ⟨_, (exec_confirmWindowExpire s).trans ((execConfirmWindowExpire_at h hpolicy hnew).trans
      (congrArg Host.Outcome.next (if_pos hlate))), fallback_falls s⟩
  · have hnext : execFwReject val s = .next (fallback (s.onFwu fun t => { t with ctl := masked val 0xFF })) := by
      simp [execFwReject, writeRW_fwCtl, hbit, hpolicy, hnew]
    obtain ⟨hconfirmed, hseen, hcause, -⟩ := fallback_falls (s.onFwu fun t => { t with ctl := masked val 0xFF })
    exact ⟨_, (exec_fwReject val s).trans hnext, hconfirmed, hseen, hcause⟩
  · have hnext : execFwReject val s = .next (s.onFwu fun t => { t with ctl := masked val 0xFF }) := by
      rcases h with h | h | h <;> simp [execFwReject, writeRW_fwCtl, h]
    exact ⟨_, (exec_fwReject val s).trans hnext, rfl, rfl, rfl⟩
  · exact ⟨_, (exec_recoveryDownload val s).trans (execRecoveryDownload_eq val s), rfl, rfl, rfl⟩
  · rcases Decidable.em (recoveryResult s img ok = 0) with hr | hr
    · cases img with
      | none => simp [recoveryResult] at hr
      | some img =>
        have hnext := execRecoveryDownloadDone_ends (failed := failed) hbusy hr
        obtain ⟨hrcv, hresult⟩ := loadFirmware_rcv
          (s.onFwu fun f => recoveredFirmware f (img.take (bfld (img.take 256) 95 64))) failed
        refine ⟨_, (exec_recoveryDownloadDone _ ok failed s).trans hnext, hrcv, hresult.trans hr.symm, fun h => absurd hr h,
          fun _ hslot => ?_⟩
        rw [loadFirmware_boots (n := s.fwu.lastFailed.getD 0) failed rfl (slotBoots_recovered _ hslot)]
        exact ⟨rfl, rfl⟩
    · exact ⟨_, (exec_recoveryDownloadDone img ok failed s).trans (execRecoveryDownloadDone_fails hbusy hr), rfl, rfl,
        fun _ => ⟨rfl, rfl⟩, fun h => absurd h hr⟩

end Sys2Proof.Machine
end

section
/-!
SUPPORT. FW_BLOCK (R366 to R370): the downloads, the inactive slot, and what an activation does at its epoch.
-/

namespace Sys2Proof.Machine

theorem quiet_epoch {s t : State} (h : s.quiet = t.quiet) : s.rdg.map.epoch = t.rdg.map.epoch := by
  have hepoch := congrArg (fun x => x.rdg.map.epoch) h
  exact hepoch

/-! ### Downloads -/

theorem openFor_active (f : Firmware) (target id : Nat) : (openFor f target id).active = f.active := by
  have hvoid : ∀ g : Firmware, (voidArea g target).active = g.active := fun g => by
    unfold voidArea
    split <;> rfl
  have hdiscard : (discardDownload f target).active = f.active := by
    unfold discardDownload
    split <;> rfl
  unfold openFor
  split
  · split
    · rfl
    · exact (hvoid _).trans hdiscard
  · exact hvoid _

/-- A download that is set where one is open is the one that is open. -/
theorem openDownload_setDownload {f : Firmware} {target : Nat} {x : Download} (d : Option Download)
    (h : openDownload f target = some x) : openDownload (setDownload f target d) target = d := by
  have hlt : target < f.downloads.length := by
    refine Nat.lt_of_not_le fun hge => ?_
    simp [openDownload, List.getElem?_eq_none hge] at h
  simp only [openDownload, setDownload, setAt_same _ _ _ hlt, Option.join_some]

/-- After an abort no download is open for the target. -/
theorem openDownload_discardDownload (f : Firmware) (target : Nat) : openDownload (discardDownload f target) target = none := by
  rcases h : openDownload f target with _ | x
  · simp only [discardDownload, h]
  · have hset := openDownload_setDownload none h
    simp only [discardDownload, h]
    exact hset

/-! ### FW_BLOCK operations -/

/-- A block that its digest does not match is refused (R367). -/
theorem execFwBlockWrite_badDigest {s : State} {o : Origin} {digest : BitVec 384} {data : List Byte} {ok : Bool} {d : InFlight}
    (hstart : startFirmware s o 0 = some d) (hform : fwMalformed d.raw = false) (hbusy : fwBusy s d.raw = false)
    (hbad : (data.take (fwLength d.raw)).length ≠ fwLength d.raw ∨ sha384 (data.take (fwLength d.raw)) ≠ digest) :
    execFwBlockWrite o digest data ok s = .next (refuse s o .signatureBad) := by
  have hcond : (decide ((data.take (fwLength d.raw)).length ≠ fwLength d.raw) ||
      decide (sha384 (data.take (fwLength d.raw)) ≠ digest)) = true := by simpa [Bool.or_eq_true] using hbad
  simp only [execFwBlockWrite, hstart, hform, hbusy, Bool.false_eq_true, if_false, hcond, if_true]

/-- A good block joins its download (R367). -/
theorem execFwBlockWrite_joins {s : State} {o : Origin} {digest : BitVec 384} {data : List Byte} {d : InFlight} {x : Download}
    (hstart : startFirmware s o 0 = some d) (hform : fwMalformed d.raw = false) (hbusy : fwBusy s d.raw = false)
    (hlength : (data.take (fwLength d.raw)).length = fwLength d.raw) (hdigest : sha384 (data.take (fwLength d.raw)) = digest)
    (hopen : openDownload (openFor s.fwu (fwTarget d.raw) (fwId d.raw)) (fwTarget d.raw) = some x) :
    execFwBlockWrite o digest data true s = .next (complete (s.onFwu fun f =>
      setDownload (openFor f (fwTarget d.raw) (fwId d.raw)) (fwTarget d.raw)
        (some (addBlock x (fwOffset d.raw) (data.take (fwLength d.raw))))) o []
      (BitVec.ofNat 64 (writtenBytes (addBlock x (fwOffset d.raw) (data.take (fwLength d.raw)))))) := by
  have hcond : (decide ((data.take (fwLength d.raw)).length ≠ fwLength d.raw) ||
      decide (sha384 (data.take (fwLength d.raw)) ≠ digest)) = false := by simp [hlength, hdigest]
  simp only [execFwBlockWrite, hstart, hform, hbusy, Bool.false_eq_true, if_false, hcond, Bool.not_true, State.onFwu_fwu, hopen]
  rfl

/-- The verification of an image that is there (R368). -/
theorem execFwBlockVerify_image {s : State} {o : Origin} {d : InFlight} {x : Download} {img : List Byte}
    (hstart : startFirmware s o 1 = some d) (hform : fwMalformed d.raw = false) (hkept : fwDiscarded s d.raw = false)
    (htarget : fwTarget d.raw = 0) (hopen : openDownload s.fwu 0 = some x) (hid : x.id = fwId d.raw)
    (himg : img = (downloadRun x).take (bfld ((downloadRun x).take 256) 95 64)) :
    execFwBlockVerify o s = match imageRefusal img with
      | some st => .next (refuse s o st)
      | none => .next (complete (acceptImage s img) o [] (BitVec.ofNat 64 (imageKept img).version)) := by
  simp only [execFwBlockVerify, hstart, hform, hkept, htarget, hopen, hid, Bool.false_eq_true, if_false, ne_eq, not_true, himg] <;>
    rfl

/-- An accepted image is verified in the inactive slot (R368). -/
theorem verifiedImage_acceptImage {s : State} (img : List Byte) (h : s.fwu.slots.length = 2) :
    verifiedImage (acceptImage s img).fwu = some (imageKept img) := by
  have hlt : inactive s.fwu < s.fwu.slots.length := by
    unfold inactive
    omega
  have hslot : (acceptImage s img).fwu.slots[inactive s.fwu]? = some { state := 2, image := some (imageKept img) } := by
    simp only [acceptImage, State.onFwu_fwu, List.getElem?_map, List.getElem?_zipIdx, List.getElem?_eq_getElem hlt]
    simp
  have hinactive : inactive (acceptImage s img).fwu = inactive s.fwu := rfl
  rw [verifiedImage, hinactive, hslot]
  rfl

theorem execFwBlockActivate_verified {s : State} {o : Origin} {d : InFlight} {i : FwImage} (hstart : startFirmware s o 2 = some d)
    (hform : fwMalformed d.raw = false) (hkept : fwDiscarded s d.raw = false) (himage : verifiedImage s.fwu = some i) :
    execFwBlockActivate o s =
      if !fwCold d.raw && !compatibleLive s then .next (refuse s o .versionRefused)
      else if fwDomain d.raw then
        .next (propose ((markRunning s o).onDescriptor o fun d => { d with waitsMap := some s.localNs })
          (.activation i.digest (fwEpoch d.raw) (fwCold d.raw)))
      else .next (actOnEpoch (complete (s.onFwu fun f =>
        { f with activation := some { epoch := fwEpoch d.raw, cold := fwCold d.raw } }) o [] 0)) := by
  simp only [execFwBlockActivate, hstart, hform, hkept, himage, Bool.false_eq_true, if_false]

/-- What an activation does to the firmware once its epoch has come (R370). -/
theorem actOnEpoch_due {s : State} {a : Activation} (ha : s.fwu.activation = some a) (hdue : a.epoch ≤ s.rdg.map.epoch) :
    (a.cold = true → actOnEpoch s = s.onFwu fun f => { f with activation := none, coldSlot := some (inactive f) }) ∧
    (a.cold = false → s.fwu.attemptAt = none → s.fwu.retryAt = none → compatibleLive s = true →
      actOnEpoch s = beginAttempt s) := by
  refine ⟨fun hcold => ?_, fun hcold hattempt hretry hlive => ?_⟩
  · simp only [actOnEpoch, ha, if_neg (Nat.not_lt.mpr hdue), hcold, if_true]
  · simp only [actOnEpoch, ha, if_neg (Nat.not_lt.mpr hdue), hcold, hattempt, hretry, hlive, Bool.false_eq_true, if_false, if_true,
      Option.isSome_none, Bool.or_false]

theorem actOnEpoch_waits {s : State} {a : Activation} (ha : s.fwu.activation = some a) (hearly : s.rdg.map.epoch < a.epoch) :
    actOnEpoch s = s := by
  simp only [actOnEpoch, ha, if_pos hearly]

theorem actOnEpoch_desc (s : State) : (actOnEpoch s).desc = s.desc := by
  unfold actOnEpoch beginAttempt
  repeat' split
  all_goals rfl

/-- The abort of a download (R369). -/
def abortedFirmware (f : Firmware) (t : Nat) : Firmware :=
  if (openDownload f t).isSome && t = 0 then
    { discardDownload f t with
      slots := f.slots.zipIdx.map fun (x, i) => if i = inactive f then {} else x }
  else discardDownload f t

/-- The withdrawal of an activation (R370). -/
def withdrawnFirmware (f : Firmware) : Firmware :=
  { f with activation := none, attemptAt := none, retryAt := none,
           slots := f.slots.zipIdx.map fun (x, i) => if i = inactive f then {} else x }

theorem abortedFirmware_keeps (f : Firmware) (t : Nat) : openDownload (abortedFirmware f t) t = none ∧
    (abortedFirmware f t).active = f.active := by
  have hopen := openDownload_discardDownload f t
  have hactive : (discardDownload f t).active = f.active := by
    unfold discardDownload
    split <;> rfl
  unfold abortedFirmware
  split
  · exact ⟨hopen, hactive⟩
  · exact ⟨hopen, hactive⟩

theorem execFwBlockAbort_aborts {s : State} {o : Origin} {d : InFlight} (hstart : startFirmware s o 3 = some d)
    (hform : fwMalformed d.raw = false) (hbusy : fwBusy s d.raw = false) :
    execFwBlockAbort o s = .next (complete (if fwTarget d.raw = 0 && (abortedFirmware s.fwu (fwTarget d.raw)).activation.isSome
      then s.onFwu fun f => withdrawnFirmware (abortedFirmware f (fwTarget d.raw))
      else s.onFwu fun f => abortedFirmware f (fwTarget d.raw)) o [] 0) := by
  simp only [execFwBlockAbort, hstart, hform, hbusy, Bool.false_eq_true, if_false]
  rfl

/-- Settles O56: each operation of FW_BLOCK by its checks. -/
theorem firmwareBlocksFillTheInactiveSlot : Obligations.FirmwareBlocksFillTheInactiveSlot := by
  refine ⟨fun s o digest data ok d x hstart hform hbusy => ⟨fun hbad => ?_, fun hlength hdigest hok hopen => ?_⟩,
    fun s o d x img hstart hform hkept htarget hopen hid himg hslots => ?_,
    fun s o d i hstart hform hkept himage => ⟨fun hwarm hlive => ?_, fun hcold hdomain => ?_, fun hcold hdomain => ?_,
      fun hwarm hdomain hlive hattempt hretry hdue => ?_⟩, fun s o d hstart hform hbusy => ?_⟩
  · exact ⟨_, (exec_fwBlockWrite o digest data ok s).trans (execFwBlockWrite_badDigest hstart hform hbusy hbad), quiet_refuse ..,
      descriptor_refuse ..⟩
  · subst hok
    refine ⟨_, (exec_fwBlockWrite o digest data true s).trans
      (execFwBlockWrite_joins hstart hform hbusy hlength hdigest hopen), descriptor_complete .., ?_⟩
    rw [complete_fwu, complete_ses, complete_hrt]
    exact ⟨openFor_active .., openDownload_setDownload _ hopen, rfl, rfl⟩
  · have hverify := (exec_fwBlockVerify o s).trans (execFwBlockVerify_image hstart hform hkept htarget hopen hid himg)
    refine ⟨fun st hst => ?_, fun hnone => ?_⟩
    · rw [hst] at hverify
      exact ⟨_, hverify, quiet_refuse .., descriptor_refuse ..⟩
    · rw [hnone] at hverify
      refine ⟨_, hverify, descriptor_complete .., ?_⟩
      rw [complete_fwu, complete_ses, complete_hrt]
      exact ⟨verifiedImage_acceptImage img hslots, rfl, rfl, rfl⟩
  · exact ⟨_, (exec_fwBlockActivate o s).trans ((execFwBlockActivate_verified hstart hform hkept himage).trans
      (if_pos (by simp [hwarm, hlive]))), quiet_refuse .., descriptor_refuse ..⟩
  · generalize hu : complete (s.onFwu fun f =>
      { f with activation := some { epoch := fwEpoch d.raw, cold := fwCold d.raw } }) o [] 0 = u
    have hnext : exec (.fwBlockActivate o) s = .next (actOnEpoch u) := by
      rw [exec_fwBlockActivate, execFwBlockActivate_verified hstart hform hkept himage, if_neg (by simp [hcold]),
        if_neg (by simp [hdomain]), hu]
    have hfwu : u.fwu = { s.fwu with activation := some { epoch := fwEpoch d.raw, cold := fwCold d.raw } } := by
      rw [← hu, complete_fwu]
      rfl
    have hepoch : u.rdg.map.epoch = s.rdg.map.epoch := by
      rw [← hu]
      exact (quiet_epoch (quiet_complete _ o [] 0)).trans rfl
    have hgone : (actOnEpoch u).descriptor o = none := by
      rw [descriptor_of_desc (actOnEpoch_desc u), ← hu, descriptor_complete]
    have hactivation : u.fwu.activation = some { epoch := fwEpoch d.raw, cold := fwCold d.raw } := by rw [hfwu]
    rcases Nat.lt_or_ge s.rdg.map.epoch (fwEpoch d.raw) with hearly | hdue
    · have hwaits := actOnEpoch_waits hactivation (hepoch ▸ hearly)
      refine ⟨_, hnext, hgone, ?_⟩
      rw [hwaits, hfwu, hcold]
      exact ⟨rfl, fun _ => rfl, fun h => absurd h (Nat.not_le.mpr hearly)⟩
    · have hacts := (actOnEpoch_due hactivation (hepoch ▸ hdue)).1 hcold
      refine ⟨_, hnext, hgone, ?_⟩
      rw [hacts, State.onFwu_fwu, hfwu]
      exact ⟨rfl, fun h => absurd h (Nat.not_lt.mpr hdue), fun _ => ⟨rfl, rfl⟩⟩
  · refine ⟨_, (exec_fwBlockActivate o s).trans ((execFwBlockActivate_verified hstart hform hkept himage).trans
      ((if_neg (by simp [hcold])).trans (if_pos hdomain))), by simp [markRunning], ?_⟩
    rw [propose_proposals, hcold]
    rfl
  · generalize hu : complete (s.onFwu fun f =>
      { f with activation := some { epoch := fwEpoch d.raw, cold := fwCold d.raw } }) o [] 0 = u
    have hnext : exec (.fwBlockActivate o) s = .next (actOnEpoch u) := by
      rw [exec_fwBlockActivate, execFwBlockActivate_verified hstart hform hkept himage, if_neg (by simp [hlive]),
        if_neg (by simp [hdomain]), hu]
    have hfwu : u.fwu = { s.fwu with activation := some { epoch := fwEpoch d.raw, cold := fwCold d.raw } } := by
      rw [← hu, complete_fwu]
      rfl
    have hquiet : u.quiet = (s.onFwu fun f =>
        { f with activation := some { epoch := fwEpoch d.raw, cold := fwCold d.raw } }).quiet := by
      rw [← hu, quiet_complete]
    have hlive' : compatibleLive u = true := by
      unfold compatibleLive
      rw [hfwu, quiet_fbx hquiet]
      exact hlive
    have hacts := (actOnEpoch_due (a := { epoch := fwEpoch d.raw, cold := fwCold d.raw }) (by rw [hfwu])
      (quiet_epoch hquiet ▸ hdue)).2 hwarm (by rw [hfwu]; exact hattempt) (by rw [hfwu]; exact hretry) hlive'
    rw [hacts] at hnext
    refine ⟨_, hnext, ?_, ?_⟩
    · show u.descriptor o = none
      rw [← hu, descriptor_complete]
    · have hns : u.localNs = s.localNs := (quiet_localNs hquiet).trans rfl
      simp only [beginAttempt, State.onFwu_fwu, hfwu, hns, hwarm, and_self]
  · obtain ⟨hopen, hactive⟩ := abortedFirmware_keeps s.fwu (fwTarget d.raw)
    refine ⟨_, (exec_fwBlockAbort o s).trans (execFwBlockAbort_aborts hstart hform hbusy), descriptor_complete .., ?_⟩
    rw [complete_fwu, complete_ses, complete_hrt]
    rcases h : (fwTarget d.raw = 0 && (abortedFirmware s.fwu (fwTarget d.raw)).activation.isSome : Bool) with _ | _
    · refine ⟨hopen, hactive, rfl, rfl, fun h0 => ?_⟩
      simpa [h0] using h
    · exact ⟨hopen, hactive, rfl, rfl, fun _ => rfl⟩

end Sys2Proof.Machine
end

section
/-!
SUPPORT. What arrives over the ridge (R286, R287): the answer to a frame that is not delivered, and the state in which one is.
-/

namespace Sys2Proof.Machine

/-- A command that takes no frame of foothill waits for no clear (R341). -/
theorem awaitClears_of_tie {s t : State} (h : t.tie = s.tie) : awaitClears s t = t := by
  have hnone : takenUncleared s t = [] := by
    rw [takenUncleared, h]
    refine List.filterMap_eq_nil_iff.mpr fun g hg => if_neg ?_
    simp [hg]
  simp only [awaitClears, hnone, List.isEmpty_nil, if_true]

theorem awaitClears_of_none {s t : State} (h : takenUncleared s t = []) : awaitClears s t = t := by
  simp only [awaitClears, h, List.isEmpty_nil, if_true]

@[simp] theorem quiet_sendAck (s : State) (a : Nat) : (sendAck s a).quiet = s.quiet := rfl
@[simp] theorem sendAck_desc (s : State) (a : Nat) : (sendAck s a).desc = s.desc := rfl
@[simp] theorem sendAck_ses (s : State) (a : Nat) : (sendAck s a).ses = s.ses := rfl
@[simp] theorem sendAck_tie (s : State) (a : Nat) : (sendAck s a).tie = s.tie := rfl
@[simp] theorem isolation_tie (s : State) (c t : Nat) : (isolation s c t).tie = s.tie := by simp [isolation]

theorem sendAck_expected (s : State) (a : Nat) : ((sendAck s a).peer a).expected = (s.peer a).expected := by
  have hpeer : (sendAck s a).peer a = _ := peer_onPeer_same s a fun p => { p with framesSent := p.framesSent + 1 }
  rw [hpeer]

/-- The state in which a frame has been heard: what it acknowledges is dropped, and its sender is not suspect (R286, R288). -/
def heard (s : State) (f : Received) : State :=
  (releaseAcked s f.hdr.srcAddr f.hdr.ack).onPeer f.hdr.srcAddr fun p => { p with lastHeard := s.localNs, suspect := false }

theorem heard_peer (s : State) (f : Received) : (heard s f).peer f.hdr.srcAddr =
    { s.peer f.hdr.srcAddr with
      unacked := (s.peer f.hdr.srcAddr).unacked.filter fun o => !decide (dist o.hdr.fseq f.hdr.ack < 2 ^ 31),
      lastHeard := s.localNs, suspect := false, address := f.hdr.srcAddr } := by
  unfold heard releaseAcked
  rw [peer_onPeer_same, peer_onPeer_same]

@[simp] theorem quiet_heard (s : State) (f : Received) : (heard s f).quiet = s.quiet := rfl

/-- What a frame of a known type and version comes to, whole or not (R286, R287, R345). -/
theorem receive_badCheck {s : State} {f : Received} {type : Nat} (htype : f.hdr.type = type) (hversion : f.hdr.version = 1)
    (hfec : f.fecOk = true) (hdip : serdesDip s = false) (hcrc : f.crcOk = false) :
    receive s f type true = (false, sendAck s f.hdr.srcAddr) := by
  simp [receive, htype, hversion, hfec, hdip, hcrc]

theorem receive_badTag {s : State} {f : Received} {type : Nat} (htype : f.hdr.type = type) (hversion : f.hdr.version = 1)
    (hfec : f.fecOk = true) (hdip : serdesDip s = false) (hcrc : f.crcOk = true) (htag : f.tagOk = false)
    (harmed : s.dgn.armed = false) :
    receive s f type true = (false, sendAck (isolation s 2 f.hdr.tenant) f.hdr.srcAddr) := by
  simp [receive, htype, hversion, hfec, hdip, hcrc, htag, tagFaultArmed, harmed]

theorem receive_whole {s : State} {f : Received} {type : Nat} (htype : f.hdr.type = type) (hversion : f.hdr.version = 1)
    (hfec : f.fecOk = true) (hcrc : f.crcOk = true) (htag : f.tagOk = true) :
    receive s f type false = (true, heard s f) ∧
    (s.dgn.armed = false → receive s f type true =
      if f.hdr.fseq ≠ (s.peer f.hdr.srcAddr).expected then (false, sendAck (heard s f) f.hdr.srcAddr)
      else (true, sendAck ((heard s f).onPeer f.hdr.srcAddr fun p => { p with expected := p.expected + 1 }) f.hdr.srcAddr)) := by
  have hexpected : ((heard s f).peer f.hdr.srcAddr).expected = (s.peer f.hdr.srcAddr).expected := by rw [heard_peer]
  refine ⟨?_, fun harmed => ?_⟩
  · simp [receive, htype, hversion, hfec, hcrc, htag, heard]
  · rw [← hexpected]
    simp [receive, htype, hversion, hfec, hcrc, htag, tagFaultArmed, harmed, heard]

/-- A sequenced frame that `receive` does not deliver has no other effect (R286). -/
theorem exec_undelivered {s t : State} {f : Received} {q : Request} {b : ResponseBody} {r : Word} {l : Option Nat} {m : MapBody}
    {k : PageKind} {page : Nat} {data : List Byte} {c : Instr × Nat} (hc : c ∈ sequencedFrames f q b r l m k page data)
    (h : receive s f c.2 true = (false, t)) (htie : t.tie = s.tie) : exec c.1 s = .next t := by
  have hclears : afterClears s (.next t) = .next t := congrArg Host.Outcome.next (awaitClears_of_tie htie)
  simp only [sequencedFrames, List.mem_cons, List.not_mem_nil, or_false] at hc
  rcases hc with rfl | rfl | rfl | rfl | rfl | rfl
  · simp only [exec_requestFrame, execRequestFrame, h, hclears]
  · simp only [exec_responseFrame, execResponseFrame, h]
  · simp only [exec_invalidate, execInvalidate, h]
  · simp only [exec_invalidateAcknowledge, execInvalidateAcknowledge, h]
  · simp only [exec_mapFrame, execMapFrame, h]
  · simp only [exec_pageData, execPageData, h, hclears]

/-- Settles O46: each frame by its check, its tag and its place in the sequence. -/
theorem framesAreDeliveredInOrder : Obligations.FramesAreDeliveredInOrder := by
  refine ⟨fun s f q b r l m k page data c hc htype hversion hfec hdip => ⟨fun hcrc => ?_, fun hcrc htag harmed => ?_,
    fun hcrc htag harmed hseq => ?_⟩, fun s f htype hversion hfec hcrc htag => ?_, fun s f htype hversion hfec hcrc htag => ?_⟩
  · exact exec_undelivered hc (receive_badCheck htype hversion hfec hdip hcrc) rfl
  · exact exec_undelivered hc (receive_badTag htype hversion hfec hdip hcrc htag harmed) (isolation_tie s 2 f.hdr.tenant)
  · have hreceive : receive s f c.2 true = (false, sendAck (heard s f) f.hdr.srcAddr) := by
      rw [(receive_whole htype hversion hfec hcrc htag).2 harmed, if_pos hseq]
    have hquiet : (sendAck (heard s f) f.hdr.srcAddr).quiet = s.quiet := (quiet_sendAck ..).trans (quiet_heard s f)
    have hdesc : (sendAck (heard s f) f.hdr.srcAddr).desc = s.desc := (sendAck_desc ..).trans rfl
    refine ⟨_, exec_undelivered hc hreceive (quiet_tie hquiet), hquiet, hdesc, ?_⟩
    rw [sendAck_expected, heard_peer]
  · have hreceive := (receive_whole (s := s) htype hversion hfec hcrc htag).1
    refine ⟨heard s f, (exec_acknowledge f s).trans (congrArg (fun p : Bool × State => Host.Outcome.next p.2) hreceive), quiet_heard s f, rfl, ?_⟩
    rw [heard_peer]
  · have hreceive := (receive_whole (s := s) htype hversion hfec hcrc htag).1
    have hnext : exec (.keepalive f none) s = .next (heard s f) := by
      simp only [exec_keepalive, execKeepalive, hreceive]
    refine ⟨_, hnext, quiet_heard s f, rfl, ?_⟩
    rw [heard_peer]
    exact ⟨rfl, rfl⟩

end Sys2Proof.Machine
end

section
/-!
SUPPORT. The Ikivan map (R291 to R293): what a commit of a twin does, proposals, elections and the waits for a commit.
-/

namespace Sys2Proof.Machine

/-! ### What the effects of a commit leave -/

/-- What a commit's effects leave: the hearth, the map but its proposals, the requests that came early. -/
structure CommitKeeps (s t : State) : Prop where
  hrt : t.hrt = s.hrt
  epoch : t.rdg.map.epoch = s.rdg.map.epoch
  parts : t.rdg.map.parts = s.rdg.map.parts
  early : t.rdg.early = s.rdg.early
  part : t.rdg.part = s.rdg.part

theorem CommitKeeps.refl (s : State) : CommitKeeps s s := ⟨rfl, rfl, rfl, rfl, rfl⟩

theorem CommitKeeps.trans {s t u : State} (h : CommitKeeps s t) (g : CommitKeeps t u) : CommitKeeps s u :=
  ⟨g.hrt.trans h.hrt, g.epoch.trans h.epoch, g.parts.trans h.parts, g.early.trans h.early, g.part.trans h.part⟩

theorem CommitKeeps.foldl {α : Type} {f : State → α → State} (h : ∀ s a, CommitKeeps s (f s a)) (l : List α) (s : State) :
    CommitKeeps s (l.foldl f s) :=
  List.foldlRecOn l f (motive := CommitKeeps s) (.refl s) fun t ht a _ => ht.trans (h t a)

theorem commitKeeps_sendFrame (s : State) (part type cls : Nat) (p : Payload) (tenant req : Nat) (obj : Word) (d : Nat)
    (st : Status) (tw : Bool) : CommitKeeps s (sendFrame s part type cls p tenant req obj d st tw) := by
  have hrdg := sendFrame_rdg s part type cls p tenant req obj d st tw
  exact ⟨sendFrame_hrt .., by rw [hrdg], by rw [hrdg], by rw [hrdg], by rw [hrdg]⟩

theorem commitKeeps_loseExtent (s : State) (h : Word) (why : Status) : CommitKeeps s (loseExtent s h why) := ⟨rfl, rfl, rfl, rfl, rfl⟩

theorem commitKeeps_resendAsked (s : State) (a : Asked) : CommitKeeps s (resendAsked s a) := by
  unfold resendAsked
  extract_lets u
  have hu : CommitKeeps s u := ⟨rfl, rfl, rfl, rfl, rfl⟩
  exact hu.trans (commitKeeps_sendFrame ..)

theorem commitKeeps_forwardDescriptor (s : State) (d : InFlight) (part : Nat) (b : List Byte) :
    CommitKeeps s (forwardDescriptor s d part b) := by
  unfold forwardDescriptor sendRequest
  extract_lets id asked
  have hu : CommitKeeps s (s.onRdg fun g => { g with
      nextReq := (g.nextReq + 1) % 2 ^ 64,
      asked := if awaited (.descriptor d.raw b d.operator) then g.asked ++ [asked] else g.asked }) := ⟨rfl, rfl, rfl, rfl, rfl⟩
  exact (hu.trans (commitKeeps_sendFrame ..)).trans ⟨rfl, rfl, rfl, rfl, rfl⟩

theorem commitKeeps_resendWaiting (s : State) : CommitKeeps s (resendWaiting s) := by
  unfold resendWaiting
  extract_lets reached u
  have hu : CommitKeeps s u := CommitKeeps.foldl (fun s a => commitKeeps_resendAsked s a) _ s
  refine hu.trans (CommitKeeps.foldl (fun s d => ?_) _ u)
  split
  · extract_lets v
    have hv : CommitKeeps s v := ⟨rfl, rfl, rfl, rfl, rfl⟩
    exact hv.trans (commitKeeps_forwardDescriptor ..)
  · exact .refl s

theorem commitKeeps_actOnEpoch (s : State) : CommitKeeps s (actOnEpoch s) := by
  unfold actOnEpoch beginAttempt
  repeat' split
  all_goals exact ⟨rfl, rfl, rfl, rfl, rfl⟩

/-- A change of a twin of another part, or of the keepers, has effects on frames only (R291, R315). -/
def remoteChange (s : State) : MapChange → Bool
  | .twinOf p _ => p != s.rdg.part
  | .keepers _ _ _ => true
  | _ => false

theorem commitKeeps_changeEffect {s : State} {c : MapChange} (e : Nat) (h : remoteChange s c = true) :
    CommitKeeps s (changeEffect s e c) := by
  cases c with
  | twinOf p w =>
    have hp : p ≠ s.rdg.part := by simpa [remoteChange] using h
    simp only [changeEffect, hp, decide_false, Bool.false_and, Bool.false_eq_true, if_false]
    exact .refl s
  | keepers ks l t =>
    refine CommitKeeps.foldl (fun s p => ?_) _ s
    split
    · exact .refl s
    · exact commitKeeps_sendFrame ..
  | _ => simp [remoteChange] at h

/-- The map replica as a commit leaves it, before its effects (R291). -/
def committedMap (m : MapReplica) (epoch : Nat) (changes : List MapChange) : MapReplica :=
  let n := changes.foldl (fun m c => changeMap m epoch c) m
  { n with epoch := epoch,
           proposals := n.proposals.filter fun p => !changes.contains p.2,
           missed := n.missed.filter fun x => epoch < x.1,
           history := (n.history ++ [(epoch, changes)]).drop (n.history.length + 1 - 1048576) }

theorem commitKeeps_changeEffects {cs : List MapChange} (e : Nat) {s : State} (h : ∀ c ∈ cs, remoteChange s c = true) :
    CommitKeeps s (cs.foldl (fun s c => changeEffect s e c) s) := by
  refine List.foldlRecOn cs _ (motive := CommitKeeps s) (.refl s) fun t ht c hc => ht.trans (commitKeeps_changeEffect e ?_)
  have hsame : remoteChange t c = remoteChange s c := by
    cases c <;> simp only [remoteChange, ht.part]
  exact hsame ▸ h c hc

/-- The effects of a commit of a remote twin or of keepers leave the hearth and the map that it makes. -/
theorem commitKeeps_applyCommit {s : State} {cs : List MapChange} (e : Nat) (h : ∀ c ∈ cs, remoteChange s c = true) :
    CommitKeeps (s.onRdg fun r => { r with map := committedMap r.map e cs }) (applyCommit s e cs) := by
  unfold applyCommit
  extract_lets before u released v w x
  have hv : CommitKeeps u v := commitKeeps_changeEffects e h
  have hw : CommitKeeps v w := CommitKeeps.foldl (fun s l => by
    split
    · exact commitKeeps_loseExtent ..
    · exact .refl s) released v
  have hx : CommitKeeps w x :=
    CommitKeeps.trans (t := w.onFwu fun f => { f with lastEpochNs := some w.localNs }) ⟨rfl, rfl, rfl, rfl, rfl⟩
      (commitKeeps_actOnEpoch _)
  exact ((hv.trans hw).trans hx).trans (commitKeeps_resendWaiting x)

theorem commitKeeps_actEarly {s : State} (h : s.rdg.early = []) : CommitKeeps s (actEarly s) := by
  have hnone : earlyReady s = [] := by rw [earlyReady, h, List.filter_nil]
  rw [actEarly, hnone, List.foldl_nil]
  refine ⟨rfl, rfl, rfl, ?_, rfl⟩
  simp [h]

/-- The parts of a map after a twin and further keepers are set. -/
theorem committedMap_twinOf (m : MapReplica) (e a w : Nat) {more : List MapChange}
    (hmore : ∀ c ∈ more, ∃ ks l t, c = .keepers ks l t) : (committedMap m e (.twinOf a w :: more)).parts =
      m.parts.map fun p => if p.number = a then { p with twin := some w } else p :=
  List.foldlRecOn more _ (motive := fun n : MapReplica => n.parts = m.parts.map fun p => if p.number = a then { p with twin := some w } else p)
    rfl fun n hn c hc => by
      obtain ⟨ks, l, t, rfl⟩ := hmore c hc
      exact hn

theorem keepersGrown_keepers (m : MapReplica) (cs : List MapChange) : ∀ c ∈ keepersGrown m cs, ∃ ks l t, c = .keepers ks l t := by
  unfold keepersGrown
  extract_lets n missing
  split
  · intro c hc; cases hc
  · intro c hc
    exact ⟨_, _, _, List.mem_singleton.mp hc⟩

/-- A part of a map whose twin is set keeps its state and address. -/
theorem lookupBy_twinOf {l : List MapPart} {a : Nat} {x : MapPart} (w : Nat) (h : lookupBy MapPart.number a l = some x) :
    lookupBy MapPart.number a (l.map fun p => if p.number = a then { p with twin := some w } else p) =
      some { x with twin := some w } := by
  rw [lookupBy_map MapPart.number _ (fun p => by split <;> rfl), h, Option.map_some, if_pos (lookup_mem h).2]

/-- A commit of a remote twin, with what keepers join, makes it the twin (R315). -/
theorem applyCommit_twinOf {s : State} {e a w : Nat} {x : MapPart} {more : List MapChange} (ha : a ≠ s.rdg.part)
    (hx : s.mapPart a = some x) (hmore : ∀ c ∈ more, ∃ ks l t, c = .keepers ks l t) :
    (applyCommit s e (.twinOf a w :: more)).rdg.map.epoch = e ∧
    (applyCommit s e (.twinOf a w :: more)).mapPart a = some { x with twin := some w } ∧
    (applyCommit s e (.twinOf a w :: more)).hrt = s.hrt ∧
    (applyCommit s e (.twinOf a w :: more)).rdg.early = s.rdg.early := by
  have hremote : ∀ c ∈ MapChange.twinOf a w :: more, remoteChange s c = true := by
    intro c hc
    rcases List.mem_cons.mp hc with rfl | hc
    · simpa [remoteChange] using ha
    · obtain ⟨ks, l, t, rfl⟩ := hmore c hc
      rfl
  obtain ⟨hhrt, hepoch, hparts, hearly, -⟩ := commitKeeps_applyCommit e hremote
  refine ⟨hepoch, ?_, hhrt, hearly⟩
  have hparts' : (applyCommit s e (.twinOf a w :: more)).rdg.map.parts = _ :=
    hparts.trans (committedMap_twinOf s.rdg.map e a w hmore)
  rw [State.mapPart, hparts']
  exact lookupBy_twinOf w hx

/-! ### Commits of the leader -/

/-- A commit of one invalid change of another part only rejects it (R292). -/
theorem execMapCommit_invalid {s : State} {p : Nat} {c : MapChange} (hleader : isLeader s = true) (hquorum : quorumUp s = true)
    (hnone : s.rdg.map.proposals = []) (hbad : changeValid s.rdg.map c = false) (hp : p ≠ s.rdg.part) :
    execMapCommit [(p, c)] s =
      .next (sendFrame (s.onRdg fun r => { r with map := { r.map with proposals := r.map.proposals.filter fun p => p.1 == r.part } })
        p 5 0 (.map (.rejected c))) := by
  have hsort : sortChanges s.rdg.map (s.rdg.map.proposals ++ [(p, c)]) = ([], [(p, c)]) := by
    simp [hnone, sortChanges, hbad]
  unfold execMapCommit
  rw [if_neg (by simp [hleader, hquorum]), hsort]
  simp only [List.isEmpty_nil, if_true, List.foldl_cons, List.foldl_nil, State.onRdg_rdg]
  exact congrArg Host.Outcome.next (if_neg hp)

/-- The commit of one valid change: the leader makes the next epoch and tells the parts (R291). -/
theorem execMapCommit_valid {s : State} {p : Nat} {c : MapChange} (hleader : isLeader s = true) (hquorum : quorumUp s = true)
    (hnone : s.rdg.map.proposals = []) (hgood : changeValid s.rdg.map c = true) :
    ∃ dests : List Nat, execMapCommit [(p, c)] s =
      .next (actEarly (dests.foldl (fun t k => sendFrame t k 5 0
          (.map (.commit (s.rdg.map.epoch + 1) (c :: keepersGrown s.rdg.map [c]))))
        (applyCommit (s.onRdg fun r =>
          { r with map := { r.map with proposals := r.map.proposals.filter fun p => p.1 == r.part } })
          (s.rdg.map.epoch + 1) (c :: keepersGrown s.rdg.map [c])))) := by
  have hsort : sortChanges s.rdg.map (s.rdg.map.proposals ++ [(p, c)]) = ([c], []) := by
    simp [hnone, sortChanges, hgood]
  unfold execMapCommit
  rw [if_neg (by simp [hleader, hquorum]), hsort]
  exact ⟨_, rfl⟩

/-! ### Elections and waits -/

theorem execLeaderElection_elects {s : State} {winner term : Nat} (hquorum : quorumUp s = true)
    (hkeeper : s.rdg.map.keepers.contains winner = true) (hterm : s.rdg.map.term < term)
    (hgone : keeperReached s s.rdg.map.leader = false) :
    ∃ t, execLeaderElection winner term s = .next t ∧ t.rdg.map.leader = winner ∧ t.rdg.map.term = term ∧
      t.rdg.map.epoch = s.rdg.map.epoch ∧ t.ses = s.ses ∧ t.desc = s.desc := by
  have hcond : (!s.rdg.map.keepers.contains winner || decide (term ≤ s.rdg.map.term) || !quorumUp s ||
      keeperReached s s.rdg.map.leader) = false := by
    simp only [hkeeper, hquorum, hgone, decide_eq_false (Nat.not_le.mpr hterm), Bool.not_true, Bool.or_self]
  unfold execLeaderElection
  rw [hcond, if_neg Bool.false_ne_true]
  extract_lets u
  split
  · exact ⟨u, rfl, rfl, rfl, rfl, rfl, rfl⟩
  · refine ⟨_, rfl, ?_⟩
    have hkeeps := List.foldlRecOn (u.rdg.map.proposals.filter fun p => p.1 == u.rdg.part)
      (fun s p => sendFrame s winner 5 0 (.map (.propose p.2))) (motive := fun t => t.rdg = u.rdg ∧ t.ses = u.ses ∧ t.desc = u.desc)
      ⟨rfl, rfl, rfl⟩ fun t ⟨hrdg, hses, hdesc⟩ p _ =>
        ⟨(sendFrame_rdg ..).trans hrdg, (sendFrame_ses ..).trans hses, (sendFrame_desc ..).trans hdesc⟩
    obtain ⟨hrdg, hses, hdesc⟩ := hkeeps
    rw [hrdg, hses, hdesc]
    exact ⟨rfl, rfl, rfl, rfl, rfl⟩

theorem execMapWaitTimeout_at {s : State} {o : Origin} {d : InFlight} {t0 : Nat} (hd : s.descriptor o = some d)
    (hwait : d.waitsMap = some t0) : execMapWaitTimeout o s =
      .next (if t0 + 1000000000 ≤ s.localNs then complete (undoWait s d) o [.peerLost] 0 else s) := by
  simp only [execMapWaitTimeout, hd, hwait]
  rfl

/-- Settles O49: proposals, commits, elections, and the end of the waits. -/
theorem mapChangesByCommit : Obligations.MapChangesByCommit := by
  refine ⟨fun s c hready => ?_, fun s cs h => ?_, fun s p c hleader hquorum hnone hbad hp => ?_,
    fun s p a w x hleader hquorum hnone hearly hx ha => ?_, fun s winner term => ⟨fun hno => ?_, fun hquorum hkeeper hterm hgone => ?_⟩,
    fun s o d t0 hd hwait => ⟨fun hearly => ?_, fun hlate => ?_⟩, fun s id e he => ?_⟩
  · refine ⟨_, (exec_mapPropose c s).trans (if_neg (by simp [hready])), quiet_propose s c, ?_⟩
    rw [propose_proposals]
  · rcases h with h | h <;> exact (exec_mapCommit cs s).trans (if_pos (by simp [h]))
  · refine ⟨_, (exec_mapCommit _ s).trans (execMapCommit_invalid hleader hquorum hnone hbad hp), quiet_sendFrame .., ?_⟩
    rw [sendFrame_rdg]
    rfl
  · have hgood : changeValid s.rdg.map (.twinOf a w) = true := by
      have hx' : lookupBy (fun p => p.number) a s.rdg.map.parts = some x := hx
      simp [changeValid, hx']
    obtain ⟨dests, hnext⟩ := execMapCommit_valid (p := p) hleader hquorum hnone hgood
    generalize hu : applyCommit _ _ _ = u at hnext
    obtain ⟨hepoch, hpart, hhrt, hue⟩ := applyCommit_twinOf (s := s.onRdg fun r =>
      { r with map := { r.map with proposals := r.map.proposals.filter fun p => p.1 == r.part } }) (e := s.rdg.map.epoch + 1)
      (w := w) ha hx (keepersGrown_keepers s.rdg.map [.twinOf a w])
    rw [hu] at hepoch hpart hhrt hue
    have hsent : CommitKeeps u (dests.foldl (fun t k => sendFrame t k 5 0
          (.map (.commit (s.rdg.map.epoch + 1) (.twinOf a w :: keepersGrown s.rdg.map [.twinOf a w])))) u) :=
      CommitKeeps.foldl (fun t k => commitKeeps_sendFrame ..) dests u
    have hall := hsent.trans (commitKeeps_actEarly (hsent.early.trans (hue.trans hearly)))
    refine ⟨_, { x with twin := some w }, (exec_mapCommit _ s).trans hnext, hall.epoch.trans hepoch, ?_, rfl, rfl, rfl, hall.hrt.trans hhrt⟩
    rw [State.mapPart, hall.parts]
    exact hpart
  · exact (exec_leaderElection winner term s).trans (if_pos (by simp [hno]))
  · rw [exec_leaderElection]
    exact execLeaderElection_elects hquorum hkeeper hterm hgone
  · exact (exec_mapWaitTimeout o s).trans ((execMapWaitTimeout_at hd hwait).trans
      (congrArg Host.Outcome.next (if_neg (Nat.not_le.mpr hearly))))
  · exact ⟨_, (exec_mapWaitTimeout o s).trans ((execMapWaitTimeout_at hd hwait).trans
      (congrArg Host.Outcome.next (if_pos hlate))), descriptor_complete ..⟩
  · have hnext : exec (.epochApplyTimeout id) s = .next (sendResponse (s.onRdg fun g => { g with early := g.early.filter (· != e) })
        e.frame.hdr.srcPart e.frame.hdr.reqId .staleEpoch (.done 0 []) e.frame.hdr.object) := by
      simp only [exec_epochApplyTimeout, execEpochApplyTimeout, he]
    refine ⟨_, hnext, ?_⟩
    rw [sendResponse_rdg, sendResponse_ses, sendResponse_desc, sendResponse_hrt]
    exact ⟨by simp, rfl, rfl, rfl, rfl⟩

end Sys2Proof.Machine
end

section
/-!
SUPPORT. What the admission of sessions to batches leaves (R174 to R176): the descriptors, the hearth, the tiers, the host port,
the ridge, and every session but for its reads and its place in a batch.
-/

namespace Sys2Proof.Machine

/-- A generation without its place in a batch and the drafts planned there. -/
def unplannedGen (g : Gen) : Gen :=
  { g with batch := none, stalled := false, drafts := [], planned := 0, refilled := false, store := false }

/-- A session without the reads of a step and what a batch plans for its generation. -/
def Session.unplanned (x : Session) : Session := { x with reads := [], gener := x.gener.map unplannedGen }

/-- What the work of the steps leaves: it touches sessions, batches, images, queues and outgoing frames only. -/
structure WorkStands (s t : State) : Prop where
  desc : t.desc = s.desc
  hrt : t.hrt = s.hrt
  tie : t.tie = s.tie
  host : t.host = s.host
  rdg : t.rdg = s.rdg
  crn : t.crn = s.crn
  fbx : t.fbx = s.fbx
  localNs : t.localNs = s.localNs
  sessions : ∀ n, (t.session n).map Session.unplanned = (s.session n).map Session.unplanned

theorem WorkStands.refl (s : State) : WorkStands s s := ⟨rfl, rfl, rfl, rfl, rfl, rfl, rfl, rfl, fun _ => rfl⟩

theorem WorkStands.trans {s t u : State} (h : WorkStands s t) (g : WorkStands t u) : WorkStands s u :=
  ⟨g.desc.trans h.desc, g.hrt.trans h.hrt, g.tie.trans h.tie, g.host.trans h.host, g.rdg.trans h.rdg, g.crn.trans h.crn,
    g.fbx.trans h.fbx, g.localNs.trans h.localNs, fun n => (g.sessions n).trans (h.sessions n)⟩

theorem WorkStands.foldl {α : Type} {f : State → α → State} (h : ∀ s a, WorkStands s (f s a)) (l : List α) (s : State) :
    WorkStands s (l.foldl f s) :=
  List.foldlRecOn l f (motive := WorkStands s) (.refl s) fun t ht a _ => ht.trans (h t a)

/-- A session that the work of the steps left. -/
theorem WorkStands.session_some {s t : State} (h : WorkStands s t) {n : Nat} {x : Session} (hx : s.session n = some x) :
    ∃ y, t.session n = some y ∧ y.unplanned = x.unplanned := by
  have hn := h.sessions n
  rw [hx, Option.map_some, Option.map_eq_some_iff] at hn
  exact hn

theorem WorkStands.session_none {s t : State} (h : WorkStands s t) {n : Nat} (hx : s.session n = none) : t.session n = none := by
  have hn := h.sessions n
  rw [hx, Option.map_none, Option.map_eq_none_iff] at hn
  exact hn

/-- A change of one session that its reads and its plan hide. -/
theorem workStands_onSession (s : State) (n : Nat) (f : Session → Session)
    (hf : ∀ x, s.session n = some x → (f x).unplanned = x.unplanned) : WorkStands s (s.onSession n f) := by
  refine ⟨by simp, by simp, by simp, by simp, by simp, by simp, by simp, by simp, fun k => ?_⟩
  rcases Decidable.em (k = n) with rfl | hk
  · rcases hx : s.session k with _ | x
    · rw [State.onSession, hx, hx]
    · rw [session_onSession_same s f hx]
      have hslot := session_slot hx
      have hkey : ({ f x with slot := k } : Session).unplanned = { (f x).unplanned with slot := k } := rfl
      rw [Option.map_some, Option.map_some, hkey, hf x hx, ← hslot]
      rfl
  · rw [session_onSession_other s f hk]

theorem workStands_onBatch (s : State) (id : Nat) (f : Batch → Batch) : WorkStands s (s.onBatch id f) :=
  ⟨rfl, rfl, rfl, rfl, rfl, rfl, rfl, rfl, fun _ => rfl⟩

theorem workStands_sendFrame (s : State) (part type cls : Nat) (p : Payload) (tenant req : Nat) (obj : Word) (d : Nat) (st : Status)
    (tw : Bool) : WorkStands s (sendFrame s part type cls p tenant req obj d st tw) := by
  refine ⟨by simp, by simp, by simp, by simp, by simp, by simp, by simp, by simp, fun n => ?_⟩
  rw [session_of_ses (sendFrame_ses ..)]

theorem workStands_queueItems (s : State) (n : Nat) (r : Role) (rank tenant : Nat) : WorkStands s (queueItems s n r rank tenant) := by
  unfold queueItems
  refine WorkStands.foldl (fun s _ => ?_) _ s
  exact ⟨rfl, rfl, rfl, rfl, rfl, rfl, rfl, rfl, fun _ => rfl⟩

theorem workStands_kindle (s : State) (die : Option Nat) (w : KindlingWork) : WorkStands s (kindle s die w) :=
  ⟨rfl, rfl, rfl, rfl, rfl, rfl, rfl, rfl, fun _ => rfl⟩

theorem workStands_beginReads (s : State) (slot n : Nat) : WorkStands s (beginReads s slot n) :=
  workStands_onSession s slot _ fun _ _ => rfl

theorem workStands_sendActivation (s : State) (i : Image) (b : Batch) : WorkStands s (sendActivation s i b) := by
  unfold sendActivation
  split
  · exact .refl s
  · exact workStands_sendFrame ..

theorem workStands_launchStep (s : State) (id : Nat) : WorkStands s (launchStep s id) := by
  unfold launchStep
  split
  · exact .refl s
  · rename_i b _
    split
    · extract_lets u
      have hreads : WorkStands s u := WorkStands.foldl (fun s c => workStands_beginReads s c.1 c.2) b.columns s
      exact (hreads.trans (workStands_onBatch _ _ _)).trans (workStands_sendActivation ..)
    · exact workStands_onBatch ..

theorem workStands_goStep (s : State) (id : Nat) : WorkStands s (goStep s id) := by
  unfold goStep
  split
  · exact .refl s
  · rename_i b _
    extract_lets tenant u v
    have hu : WorkStands s u := by
      show WorkStands s (ite _ _ _)
      split
      · exact .refl s
      · exact workStands_queueItems ..
    have hv : WorkStands u v := WorkStands.foldl (fun s c => by
      split
      · split
        · exact workStands_kindle ..
        · exact .refl s
      · exact .refl s) b.columns u
    exact ((hu.trans hv).trans (workStands_onBatch _ _ _)).trans (workStands_launchStep ..)

theorem workStands_beginStep (s : State) (id : Nat) (left : List Session) : WorkStands s (beginStep s id left) := by
  unfold beginStep
  extract_lets waits u
  have hu : WorkStands s u := workStands_onBatch ..
  split
  · exact hu
  · exact hu.trans (workStands_goStep ..)

theorem workStands_planSession (s : State) (slot free : Nat) : WorkStands s (planSession s slot free).1 := by
  unfold planSession
  split
  · exact .refl s
  · split
    · exact .refl s
    · rename_i x hx _ g hg
      extract_lets d set
      have hset : ∀ g', unplannedGen g' = unplannedGen g → WorkStands s (set g') := fun g' hg' =>
        workStands_onSession s slot _ fun y hy => by
          obtain rfl : x = y := Option.some.inj (hx.symm.trans hy)
          simp only [Session.unplanned, hg, Option.map_some, hg']
      split
      · exact hset _ rfl
      · split
        · split
          · split
            · exact hset _ rfl
            · exact WorkStands.trans (hset { g with store := true, planned := 0, drafts := [] } rfl) (workStands_queueItems ..)
          · exact hset _ rfl
        · split <;> exact hset _ rfl

/-- A fold over states paired with what is left free. -/
theorem WorkStands.foldl_fst {α β : Type} {f : State × β → α → State × β} (h : ∀ p a, WorkStands p.1 (f p a).1) (l : List α)
    (p : State × β) : WorkStands p.1 (l.foldl f p).1 :=
  List.foldlRecOn l f (motive := fun q : State × β => WorkStands p.1 q.1) (.refl p.1) fun q hq a _ => hq.trans (h q a)

theorem workStands_planDrafts (s : State) (id : Nat) : WorkStands s (planDrafts s id) := by
  unfold planDrafts
  split
  · exact .refl s
  · exact WorkStands.foldl_fst (fun p (x : Session) => (workStands_planSession p.1 x.slot p.2).trans (workStands_onBatch ..)) _ (s, _)

theorem workStands_onImage (s : State) (n : Nat) (f : Image → Image) : WorkStands s (s.onImage n f) :=
  ⟨rfl, rfl, rfl, rfl, rfl, rfl, rfl, rfl, fun _ => rfl⟩

theorem workStands_makeResident {s t : State} {image n : Nat} (h : makeResident s image n = some t) : WorkStands s t := by
  have hmark : ∀ (s : State) m f, WorkStands s (onVariant s image m f) := fun s m f => workStands_onImage ..
  unfold makeResident at h
  extract_lets i now res held at h
  have hnow : ∀ s, WorkStands s (now s) := fun s => hmark s n _
  split at h
  · cases h; exact .refl s
  · split at h
    · cases h; exact hnow s
    · split at h
      · cases h; exact hnow s
      · split at h
        · cases h
        · cases h; exact (hmark s _ _).trans (hnow _)

theorem workStands_takeColumns (s : State) (id slot n : Nat) : WorkStands s (takeColumns s id slot n) :=
  (workStands_onBatch s id _).trans (workStands_onSession _ slot _ fun x _ => by
    rcases hg : x.gener with _ | g <;> simp [Session.unplanned, hg, unplannedGen])

theorem workStands_admitColumns (s : State) (id : Nat) : WorkStands s (admitColumns s id) := by
  unfold admitColumns
  split
  · exact .refl s
  · refine WorkStands.foldl (fun s x => ?_) _ s
    split
    · extract_lets n
      split
      · split
        · rename_i hres
          exact (workStands_makeResident hres).trans (workStands_takeColumns ..)
        · exact .refl s
      · exact .refl s
    · exact .refl s

theorem workStands_openBatches (n : Nat) (s : State) (image : Nat) : WorkStands s (openBatches n s image) := by
  induction n generalizing s with
  | zero => exact .refl s
  | succ n ih =>
    unfold openBatches
    extract_lets mine full id u
    have hnew : WorkStands s (s.onSess fun t => { t with batches := t.batches ++ [{ id := id, image := image }] }) :=
      ⟨rfl, rfl, rfl, rfl, rfl, rfl, rfl, rfl, fun _ => rfl⟩
    have hu : WorkStands s u := hnew.trans (workStands_admitColumns ..)
    split
    · split
      · split
        · exact .refl s
        · exact ((hu.trans (workStands_planDrafts ..)).trans (workStands_beginStep ..)).trans (ih _)
      · exact .refl s
    · exact .refl s

theorem workStands_readmit (s : State) : WorkStands s (readmit s) :=
  WorkStands.foldl (fun s image => workStands_openBatches 128 s image) _ s

end Sys2Proof.Machine

end

section
/-!
SUPPORT. The timers of the ridge (R286, R288): what an end of what was sent to a part leaves of the other descriptors.
-/

namespace Sys2Proof.Machine

/-! ### Descriptors that have ended stay as they are until they complete -/

/-- No descriptor joins those in flight, and one that has ended is as it was or has completed. -/
structure EndsStand (s t : State) : Prop where
  came : ∀ o e, t.descriptor o = some e → ∃ d, s.descriptor o = some d ∧ ∀ r, d.phase = .ended r → e = d

theorem EndsStand.refl (s : State) : EndsStand s s := ⟨fun _ e he => ⟨e, he, fun _ _ => rfl⟩⟩

theorem EndsStand.trans {s t u : State} (h : EndsStand s t) (g : EndsStand t u) : EndsStand s u := by
  refine ⟨fun o e he => ?_⟩
  obtain ⟨d, hd, hsame⟩ := g.came o e he
  obtain ⟨c, hc, hends⟩ := h.came o d hd
  refine ⟨c, hc, fun r hr => ?_⟩
  have hdc : d = c := hends r hr
  exact (hsame r (hdc ▸ hr)).trans hdc

theorem EndsStand.of_desc {s t : State} (h : t.desc = s.desc) : EndsStand s t :=
  ⟨fun o e he => ⟨e, (descriptor_of_desc h o).symm.trans he, fun _ _ => rfl⟩⟩

theorem WorkStands.endsStand {s t : State} (h : WorkStands s t) : EndsStand s t := .of_desc h.desc

theorem EndsStand.foldl {α : Type} {f : State → α → State} (h : ∀ s a, EndsStand s (f s a)) (l : List α) (s : State) :
    EndsStand s (l.foldl f s) :=
  List.foldlRecOn l f (motive := EndsStand s) (.refl s) fun t ht a _ => ht.trans (h t a)

theorem EndsStand.none {s t : State} (h : EndsStand s t) {o : Origin} (ho : s.descriptor o = none) : t.descriptor o = none := by
  rcases he : t.descriptor o with _ | e
  · rfl
  · obtain ⟨d, hd, -⟩ := h.came o e he
    rw [ho] at hd
    cases hd

theorem learnEnd_ended (o : Origin) (b : Bool) {d : InFlight} {r : Word} (h : d.phase = .ended r) : learnEnd o b d = d := by
  rw [learnEnd, h]

theorem endsStand_leaveFlight (s : State) (o : Origin) (b : Bool) : EndsStand s (leaveFlight s o b) := by
  refine ⟨fun p e he => ?_⟩
  rcases Decidable.em (p = o) with rfl | hp
  · rw [descriptor_leaveFlight] at he
    cases he
  · have hmap : (leaveFlight s o b).descriptor p = ((dropDescriptor s o).descriptor p).map (learnEnd o b) :=
      descriptor_map (dropDescriptor s o) p (learnEnd o b) (learnEnd_origin o b)
    rw [hmap, descriptor_dropDescriptor_other s hp, Option.map_eq_some_iff] at he
    obtain ⟨d, hd, rfl⟩ := he
    exact ⟨d, hd, fun r hr => learnEnd_ended o b hr⟩

theorem endsStand_completeOne (s : State) (o : Origin) (cs : List Status) (r : Word) : EndsStand s (completeOne s o cs r) := by
  rcases completeOne_cases s o cs r with ⟨-, heq⟩ | ⟨b, hdesc⟩
  · rw [heq]; exact .refl s
  · exact (endsStand_leaveFlight s o b).trans (.of_desc hdesc)

theorem endsStand_forwardDescriptor {s : State} {d : InFlight} (part : Nat) (param : List Byte) (hd : s.descriptor d.origin = some d)
    (hwait : d.phase = .waiting) : EndsStand s (forwardDescriptor s d part param) := by
  refine ⟨fun o e he => ?_⟩
  rcases Decidable.em (o = d.origin) with rfl | ho
  · obtain ⟨c, hc, -⟩ := (addsNoDescriptor_forwardDescriptor s d part param) e (descriptor_some he).1
    refine ⟨d, hd, fun r hr => ?_⟩
    rw [hwait] at hr
    cases hr
  · exact ⟨e, (descriptor_forwardDescriptor_other s d part param ho).symm.trans he, fun _ _ => rfl⟩

theorem endsStand_releaseFences (s : State) : EndsStand s (releaseFences s) := by
  rw [releaseFences_eq]
  refine EndsStand.foldl (fun s d => ?_) _ s
  rcases releaseTurn_cases s d with heq | ⟨cs, r, heq⟩ | ⟨e, p, he, hwait, heq⟩
  · rw [heq]; exact .refl s
  · rw [heq]; exact endsStand_completeOne ..
  · rw [heq]; exact endsStand_forwardDescriptor p [] ((descriptor_some he).2.symm ▸ he) hwait

theorem endsStand_complete (s : State) (o : Origin) (cs : List Status) (r : Word) : EndsStand s (complete s o cs r) :=
  (endsStand_completeOne s o cs r).trans (endsStand_releaseFences _)

theorem endsStand_finishEnded (s : State) : EndsStand s (finishEnded s) := by
  unfold finishEnded
  refine EndsStand.foldl (fun s d => ?_) _ s
  split
  · exact .refl s
  · split
    · split
      · exact endsStand_complete ..
      · exact .refl s
    · exact endsStand_complete ..
    · exact .refl s

/-! ### Regions and the pool -/

theorem quiet_mappings {s t : State} (h : s.quiet = t.quiet) : s.rdg.mappings = t.rdg.mappings :=
  congrArg (·.mappings) (quiet_rdg h)

theorem quiet_part {s t : State} (h : s.quiet = t.quiet) : s.rdg.part = t.rdg.part := congrArg (·.part) (quiet_rdg h)

/-- What work on regions leaves: sessions and mappings; descriptors that have ended stand. -/
structure RegionWork (s t : State) : Prop where
  stands : EndsStand s t
  ses : t.ses = s.ses
  mappings : t.rdg.mappings = s.rdg.mappings
  part : t.rdg.part = s.rdg.part

theorem RegionWork.refl (s : State) : RegionWork s s := ⟨.refl s, rfl, rfl, rfl⟩

theorem RegionWork.trans {s t u : State} (h : RegionWork s t) (g : RegionWork t u) : RegionWork s u :=
  ⟨h.stands.trans g.stands, g.ses.trans h.ses, g.mappings.trans h.mappings, g.part.trans h.part⟩

theorem RegionWork.foldl {α : Type} {f : State → α → State} (h : ∀ s a, RegionWork s (f s a)) (l : List α) (s : State) :
    RegionWork s (l.foldl f s) :=
  List.foldlRecOn l f (motive := RegionWork s) (.refl s) fun t ht a _ => ht.trans (h t a)

theorem regionWork_complete (s : State) (o : Origin) (cs : List Status) (r : Word) : RegionWork s (complete s o cs r) := by
  have hquiet := quiet_complete s o cs r
  exact ⟨endsStand_complete .., quiet_ses hquiet, quiet_mappings hquiet, quiet_part hquiet⟩

theorem regionWork_sendFrame (s : State) (part type cls : Nat) (p : Payload) (tenant req : Nat) (obj : Word) (d : Nat) (st : Status)
    (tw : Bool) : RegionWork s (sendFrame s part type cls p tenant req obj d st tw) :=
  ⟨.of_desc (sendFrame_desc ..), sendFrame_ses .., by rw [sendFrame_rdg], by rw [sendFrame_rdg]⟩

theorem regionWork_sendRequest (s : State) (part cls : Nat) (r : Request) (tenant : Nat) (obj : Word) (d : Nat) (tw : Bool)
    (about : Option Nat) (o : Option Origin) : RegionWork s (sendRequest s part cls r tenant obj d tw about o).1 :=
  ⟨.of_desc (sendRequest_desc ..), sendRequest_ses .., by rw [sendRequest, sendFrame_rdg]; rfl, by rw [sendRequest, sendFrame_rdg]; rfl⟩

theorem regionWork_propose (s : State) (c : MapChange) : RegionWork s (propose s c) :=
  ⟨.of_desc (propose_desc ..), propose_ses .., by rw [propose_proposals], by rw [propose_proposals]⟩

theorem regionWork_sendResponse (s : State) (part req : Nat) (st : Status) (reply : ResponseBody) (obj : Word) (cls : Nat) :
    RegionWork s (sendResponse s part req st reply obj cls) := regionWork_sendFrame ..

theorem regionWork_putRegion (s : State) (r : Region) : RegionWork s (s.putRegion r) := ⟨.of_desc rfl, rfl, rfl, rfl⟩

theorem regionWork_onRegion (s : State) (slot : Nat) (f : Region → Region) : RegionWork s (s.onRegion slot f) := by
  unfold State.onRegion
  split <;> exact ⟨.of_desc rfl, rfl, rfl, rfl⟩

theorem regionWork_snoopRegion (s : State) (region : Word) (off bytes : Nat) : RegionWork s (snoopRegion s region off bytes) :=
  RegionWork.foldl (fun s m => by split <;> exact ⟨.of_desc rfl, rfl, rfl, rfl⟩) _ s

theorem regionWork_dropLine (s : State) (region : Word) (line : Nat) : RegionWork s (dropLine s region line) :=
  RegionWork.trans (t := s.onRdg fun g => { g with lines := g.lines.filter fun l => !(l.region == region && l.line == line) })
    (⟨.of_desc rfl, rfl, rfl, rfl⟩) (regionWork_snoopRegion ..)

theorem regionWork_dropSealed (s : State) (region : Word) : RegionWork s (dropSealed s region) :=
  RegionWork.foldl (fun s l => RegionWork.trans (t := s.onRdg fun g => { g with lines := g.lines.filter (· != l) }) (⟨.of_desc rfl, rfl, rfl, rfl⟩)
    (regionWork_snoopRegion ..)) _ s

theorem regionWork_cacheLine (s : State) (l : CachedLine) : RegionWork s (cacheLine s l) := by
  unfold cacheLine
  extract_lets same u
  have hu : RegionWork s u := ⟨.of_desc rfl, rfl, rfl, rfl⟩
  split
  · exact hu
  · split
    · exact hu.trans (regionWork_dropLine ..)
    · exact hu

theorem regionWork_digestPage (s : State) (slot page : Nat) (device : Bool) : RegionWork s (digestPage s slot page device) := by
  unfold digestPage
  split
  · exact .refl s
  · split <;> exact ⟨.of_desc rfl, rfl, rfl, rfl⟩

theorem regionWork_keepSealed (s : State) (slot page : Nat) : RegionWork s (keepSealed s slot page) := by
  unfold keepSealed
  split
  · exact .refl s
  · split <;> exact ⟨.of_desc rfl, rfl, rfl, rfl⟩

theorem regionWork_writeRegionBytes (s : State) (slot off : Nat) (data : List Byte) :
    RegionWork s (writeRegionBytes s slot off data) := by
  unfold writeRegionBytes
  split
  · exact .refl s
  · split
    · exact ⟨.of_desc rfl, rfl, rfl, rfl⟩
    · exact (regionWork_putRegion s _).trans (regionWork_sendRequest ..)
    · exact ⟨.of_desc rfl, rfl, rfl, rfl⟩

theorem regionWork_hostWriteRegion (s : State) (slot off : Nat) (data : List Byte) :
    RegionWork s (hostWriteRegion s slot off data) :=
  ((regionWork_keepSealed ..).trans (regionWork_writeRegionBytes ..)).trans (regionWork_onRegion ..)

theorem regionWork_freeRegion (s : State) (slot : Nat) : RegionWork s (freeRegion s slot) := by
  unfold freeRegion
  split
  · exact .refl s
  · rename_i r _
    extract_lets u v w
    have hu : RegionWork s u := RegionWork.foldl (fun s p => by split <;> exact ⟨.of_desc rfl, rfl, rfl, rfl⟩) r.pages s
    have hv : RegionWork u v := by
      show RegionWork u (ite _ _ _)
      split <;> exact ⟨.of_desc rfl, rfl, rfl, rfl⟩
    have hw : RegionWork u w := hv.trans (⟨.of_desc rfl, rfl, rfl, rfl⟩)
    split
    · exact (hu.trans hw).trans (regionWork_propose ..)
    · exact hu.trans hw

theorem regionWork_endUnmappings (s : State) (slot : Nat) : RegionWork s (endUnmappings s slot) := by
  unfold endUnmappings
  split
  · exact .refl s
  · rename_i r _
    extract_lets still done u v
    have hu : RegionWork s u := ⟨.of_desc rfl, rfl, rfl, rfl⟩
    have hv : RegionWork u v := RegionWork.foldl (fun s a => by
      obtain ⟨n, a⟩ := a
      cases a with
      | part p req => exact regionWork_sendResponse ..
      | descriptor o => exact regionWork_complete ..
      | host off => exact .refl s) done u
    split
    · split
      · exact (hu.trans hv).trans (regionWork_freeRegion ..)
      · exact hu.trans hv
    · exact hu.trans hv

theorem regionWork_lineToHost (s : State) (off : Nat) (line : List Byte) : RegionWork s (lineToHost s off line) := ⟨.of_desc rfl, rfl, rfl, rfl⟩

theorem regionWork_finishRead (s : State) (slot : Nat) (a : Asker) (line : Nat) (sealedView poisoned : Bool) :
    RegionWork s (finishRead s slot a line sealedView poisoned) := by
  unfold finishRead
  split
  · exact .refl s
  · rename_i r _
    extract_lets h reader
    have hmark : RegionWork s (if sealedView then s else s.putRegion (markSharer r line reader)) := by
      split <;> exact ⟨.of_desc rfl, rfl, rfl, rfl⟩
    split
    · split
      · exact ⟨.of_desc rfl, rfl, rfl, rfl⟩
      · rename_i l v _ _ _ _
        have hcache : ∀ t, RegionWork t
            (if r.shared then cacheLine t { region := h, line := line, data := l, version := v } else t) := fun t => by
          split
          · exact regionWork_cacheLine ..
          · exact .refl t
        exact (hmark.trans (hcache _)).trans (regionWork_lineToHost ..)
    · exact ⟨.of_desc rfl, rfl, rfl, rfl⟩
    · exact hmark.trans (regionWork_sendResponse ..)
    · exact regionWork_sendResponse ..
    · exact .refl s

theorem regionWork_finishWrite (s : State) (slot : Nat) (a : Asker) (line offset : Nat) (data : List Byte) :
    RegionWork s (finishWrite s slot a line offset data) := by
  unfold finishWrite
  split
  · exact .refl s
  · rename_i r _
    extract_lets u v
    have hu : RegionWork s u := ⟨.of_desc rfl, rfl, rfl, rfl⟩
    have hv : RegionWork u v := by
      show RegionWork u (ite _ _ _)
      split
      · exact .refl u
      · exact regionWork_hostWriteRegion ..
    split
    · exact (hu.trans hv).trans (⟨.of_desc rfl, rfl, rfl, rfl⟩)
    · exact (hu.trans hv).trans (regionWork_sendResponse ..)
    · exact hu.trans hv

theorem regionWork_finishSeal (s : State) (slot : Nat) (a : Asker) : RegionWork s (finishSeal s slot a) := by
  unfold finishSeal
  split
  · exact .refl s
  · rename_i r _
    extract_lets pages u v w
    have hu : RegionWork s u := RegionWork.foldl (fun s p => regionWork_digestPage ..) pages s
    have hw : RegionWork u w := regionWork_onRegion ..
    split
    · exact (hu.trans hw).trans (regionWork_complete ..)
    · exact hu.trans hw

theorem regionWork_runOp (s : State) (slot i : Nat) (op : LineOp) : RegionWork s (runOp s slot i op) := by
  unfold runOp
  split
  · exact .refl s
  · rename_i r _
    extract_lets h others tell
    have htell : ∀ s parts line, RegionWork s (tell s parts line) := fun s parts line =>
      RegionWork.foldl (fun s p => regionWork_sendFrame ..) parts s
    have hremove : RegionWork s (removeOp s slot i) := regionWork_onRegion ..
    split
    · exact hremove.trans (regionWork_finishRead ..)
    · split
      · exact hremove.trans (regionWork_finishWrite ..)
      · extract_lets marked u
        have hu : RegionWork s u := by
          show RegionWork s (ite _ _ _)
          split
          · exact regionWork_dropLine ..
          · exact .refl s
        exact (hu.trans (htell ..)).trans (regionWork_onRegion ..)
    · split
      · exact hremove.trans (regionWork_finishSeal ..)
      · split
        · exact hremove.trans (regionWork_complete ..)
        · exact hremove
        · have hu : RegionWork s (if ((r.mappers.filter fun m => m.view == 2).map (·.part)).contains s.rdg.part
              then dropSealed s h else s) := by
            split
            · exact regionWork_dropSealed ..
            · exact .refl s
          exact (hu.trans (htell ..)).trans (regionWork_onRegion ..)

theorem regionWork_pump (n : Nat) (s : State) (slot : Nat) : RegionWork s (pump n s slot) := by
  induction n generalizing s with
  | zero => exact regionWork_endUnmappings ..
  | succ n ih =>
    unfold pump
    split
    · exact .refl s
    · split
      · exact regionWork_endUnmappings ..
      · exact (regionWork_runOp ..).trans (ih _)

theorem regionWork_pumpRegion (s : State) (slot : Nat) : RegionWork s (pumpRegion s slot) := by
  unfold pumpRegion
  split
  · exact regionWork_pump ..
  · exact .refl s

theorem regionWork_dropMapperPart (s : State) (part : Nat) : RegionWork s (dropMapperPart s part) :=
  RegionWork.foldl (fun _ _ => (regionWork_onRegion ..).trans (regionWork_pumpRegion ..)) _ s

/-! ### The pool and requests without an answer -/

theorem endsStand_onRdg (s : State) (f : Ridge → Ridge) : EndsStand s (s.onRdg f) := .of_desc rfl

theorem endsStand_emit (s : State) (o : Output) : EndsStand s (s.emit o) := .of_desc rfl

theorem endsStand_pumpPool (s : State) : EndsStand s (pumpPool s) := by
  have hstart : EndsStand s (s.onTie fun t => { t with poolQueue := [] }) := .of_desc rfl
  refine hstart.trans (EndsStand.foldl (fun s w => ?_) _ _)
  unfold poolAsk
  split
  · exact .of_desc (sendRequest_desc ..)
  · exact .of_desc rfl

theorem endsStand_loseExtent (s : State) (h : Word) (st : Status) : EndsStand s (loseExtent s h st) := .of_desc rfl

theorem endsStand_dropMapping (s : State) (h : Word) : EndsStand s (dropMapping s h) := .of_desc rfl

theorem endsStand_onImage (s : State) (n : Nat) (f : Image → Image) : EndsStand s (s.onImage n f) := .of_desc rfl

theorem endsStand_failAsked (s : State) (a : Asked) (st : Status) : EndsStand s (failAsked s a st) := by
  unfold failAsked
  extract_lets u fail
  have hu : EndsStand s u := endsStand_onRdg ..
  have hfail : ∀ t, EndsStand t (fail t) := fun t => by
    show EndsStand t (match a.origin with | some o => _ | none => _)
    split
    · exact endsStand_complete ..
    · exact .refl t
  refine hu.trans ?_
  split
  · exact endsStand_onRdg ..
  · exact (endsStand_loseExtent ..).trans (endsStand_pumpPool _)
  · exact (endsStand_loseExtent ..).trans (endsStand_pumpPool _)
  · split
    · exact endsStand_emit ..
    · exact .refl u
  · split
    · exact endsStand_emit ..
    · exact .refl u
  · split
    · exact endsStand_emit ..
    · exact .refl u
  · exact hfail u
  · exact (endsStand_dropMapping ..).trans (hfail _)
  · split
    · exact (endsStand_onImage ..).trans (hfail _)
    · exact hfail u
  · exact hfail u

theorem endsStand_endMove (s : State) (slot : Nat) (st : Status) : EndsStand s (endMove s slot st) := by
  unfold endMove
  split
  · exact .refl s
  · split
    · exact .refl s
    · rename_i x _ _ m _
      extract_lets u v
      have hu : EndsStand s u := .of_desc (sendRequest_desc ..)
      have hv : EndsStand u v := EndsStand.foldl (fun s p => .of_desc (sendRequest_desc ..)) m.group.tail u
      exact (hu.trans hv).trans (EndsStand.trans (t := v.putSession { x with move := none }) (.of_desc rfl) (endsStand_complete ..))

end Sys2Proof.Machine

end

section
/-!
SUPPORT. Frames sent again, keepalives, silent addresses and the end of what was sent to a part (R74, R286, R288).
-/

namespace Sys2Proof.Machine

/-! ### Frames sent again -/

/-- What a frame sent again leaves: everything but the send queues and the ports. -/
structure ResendKeeps (s t : State) : Prop where
  localNs : t.localNs = s.localNs
  ses : t.ses = s.ses
  hrt : t.hrt = s.hrt
  desc : t.desc = s.desc
  peers : t.rdg.peers = s.rdg.peers
  linkCtl : t.rdg.linkCtl = s.rdg.linkCtl

theorem resendKeeps_resent (s : State) (n m : Nat) (o : OutFrame) (f : Port → Port) :
    ResendKeeps s ((enqueueFrame s n o).onPort m f) := by
  have hpeers : (enqueueFrame s n o).rdg.peers = s.rdg.peers := by rw [enqueueFrame_rdg]
  have hctl : (enqueueFrame s n o).rdg.linkCtl = s.rdg.linkCtl := by rw [enqueueFrame_rdg]
  exact ⟨enqueueFrame_localNs s n o, enqueueFrame_ses s n o, enqueueFrame_hrt s n o, enqueueFrame_desc s n o, hpeers, hctl⟩

theorem ResendKeeps.foldl {α : Type} {f : State → α → State} (h : ∀ s a, ResendKeeps s (f s a)) (l : List α) (s : State) :
    ResendKeeps s (l.foldl f s) :=
  List.foldlRecOn l f (motive := ResendKeeps s) ⟨rfl, rfl, rfl, rfl, rfl, rfl⟩ fun t ht a _ =>
    have h' := h t a
    ⟨h'.localNs.trans ht.localNs, h'.ses.trans ht.ses, h'.hrt.trans ht.hrt, h'.desc.trans ht.desc, h'.peers.trans ht.peers,
      h'.linkCtl.trans ht.linkCtl⟩

/-- Sending again marks every unacknowledged frame with the time and the timeout in force (R286). -/
theorem sendAgain_marks (s : State) (addr : Nat) : (sendAgain s addr).ses = s.ses ∧ (sendAgain s addr).hrt = s.hrt ∧
    (sendAgain s addr).desc = s.desc ∧ ((sendAgain s addr).peer addr).unacked =
      (s.peer addr).unacked.map fun o => { o with again := some s.localNs, retx := some (retxNs s) } := by
  unfold sendAgain
  extract_lets p t
  have ht : ResendKeeps s t := ResendKeeps.foldl (fun s o => resendKeeps_resent ..) p.unacked s
  refine ⟨ht.ses, ht.hrt, ht.desc, ?_⟩
  have hretx : retxNs t = retxNs s := by rw [retxNs, ht.linkCtl]; rfl
  rw [peer_onPeer_same, peer_of_peers ht.peers, ht.localNs, hretx]

theorem retransmitTimeout_acts {s : State} {addr : Nat} {o : OutFrame} (ho : oldestUnacked s addr = some o) :
    (s.localNs < o.again.getD o.sentAt + o.retx.getD (retxNs s) → exec (.retransmitTimeout addr) s = .next s) ∧
    (o.again.getD o.sentAt + o.retx.getD (retxNs s) ≤ s.localNs → exec (.retransmitTimeout addr) s = .next (sendAgain s addr)) := by
  rw [exec_retransmitTimeout]
  simp only [execRetransmitTimeout, ho]
  exact ⟨fun h => by rw [if_neg (by omega)], fun h => by rw [if_pos h]⟩

/-! ### Silent addresses and parts -/

theorem mem_dedup {l : List Nat} {n : Nat} : n ∈ dedup l ↔ n ∈ l := by
  have hfold : ∀ (l acc : List Nat), n ∈ l.foldl (fun acc x => if acc.contains x then acc else acc ++ [x]) acc ↔ n ∈ acc ∨ n ∈ l := by
    intro l
    induction l with
    | nil => simp
    | cons a l ih =>
      intro acc
      rw [List.foldl_cons, ih, List.mem_cons]
      split
      · rename_i hmem
        have ha : a ∈ acc := by simpa using hmem
        constructor
        · rintro (h | h)
          · exact .inl h
          · exact .inr (.inr h)
        · rintro (h | rfl | h)
          · exact .inl h
          · exact .inl ha
          · exact .inr h
      · simp only [List.mem_append, List.mem_singleton, or_assoc]
  exact (hfold l []).trans (by simp)

theorem peerSuspect_suspects {s : State} {addr : Nat} (hclear : (s.peer addr).suspect = false)
    (hdue : unackedFor s addr (peerTimeout s) = true) :
    ∃ t, exec (.peerSuspect addr) s = .next t ∧ (t.peer addr).suspect = true ∧ t.ses = s.ses ∧ t.desc = s.desc ∧
      (∀ p, partAt s addr = some p → isLeader s = true → p ∈ t.rdg.map.suspects) := by
  have hpart : partAt (s.onPeer addr fun p => { p with suspect := true }) addr = partAt s addr := by
    unfold partAt
    rw [peer_onPeer_same]
    rfl
  have hlead : isLeader (s.onPeer addr fun p => { p with suspect := true }) = isLeader s := rfl
  have hmark : ((s.onPeer addr fun p => { p with suspect := true }).peer addr).suspect = true := by rw [peer_onPeer_same]
  rw [exec_peerSuspect]
  simp only [execPeerSuspect, hclear, hdue, Bool.not_true, Bool.or_self, Bool.false_eq_true, if_false, hpart, hlead]
  rcases partAt s addr with _ | p
  · exact ⟨_, rfl, hmark, rfl, rfl, fun p hp => by cases hp⟩
  · rcases hleader : isLeader s with _ | _
    · refine ⟨_, rfl, ?_, by simp, by simp, fun _ _ h => by cases h⟩
      rw [peer_of_rdg (sendFrame_rdg ..)]
      exact hmark
    · refine ⟨_, rfl, hmark, rfl, rfl, fun q hq _ => ?_⟩
      cases hq
      exact mem_dedup.mpr (by simp)

/-- A proposal of the leader itself joins its list and sends nothing (R291). -/
theorem propose_leader {s : State} (c : MapChange) (h : s.rdg.map.leader = s.rdg.part) :
    propose s c = s.onRdg fun r => { r with map := { r.map with proposals := r.map.proposals ++ [(r.part, c)] } } := by
  unfold propose
  exact if_pos h

theorem partDownDetect_proposes {s : State} {part : Nat} {p : MapPart} (hp : s.mapPart part = some p)
    (hdue : (s.peer p.address).lastHeard + peerTimeout s ≤ s.localNs) (hleader : isLeader s = true) (hquorum : quorumUp s = true)
    (hstate : p.state ≠ 2) (hother : part ≠ s.rdg.part) :
    ∃ t, exec (.partDownDetect part) s = .next t ∧ (s.rdg.part, .part part p.address 2) ∈ t.rdg.map.proposals ∧
      t.rdg.map.parts = s.rdg.map.parts ∧ t.ses = s.ses ∧ t.desc = s.desc := by
  have hself : s.rdg.map.leader = s.rdg.part := by
    rw [isLeader, Bool.and_eq_true] at hleader
    exact beq_iff_eq.mp hleader.1
  have hcond : ¬(!isLeader s || !quorumUp s || decide (p.state = 2) || decide (part = s.rdg.part) ||
      decide (s.localNs < (s.peer p.address).lastHeard + peerTimeout s)) = true := by
    simp [hleader, hquorum, hstate, hother, hdue]
  rw [exec_partDownDetect]
  simp only [execPartDownDetect, hp, hcond, Bool.false_eq_true, if_false]
  rw [propose_leader (.part part p.address 2) hself]
  generalize hu : (s.onRdg fun r => _) = u
  have hlead : u.rdg.map.leader = u.rdg.part := hu ▸ hself
  refine ⟨_, rfl, ?_⟩
  split
  · rw [propose_leader _ hlead, ← hu]
    exact ⟨by simp, rfl, rfl, rfl⟩
  · rw [← hu]
    exact ⟨by simp, rfl, rfl, rfl⟩

/-! ### A part that is lost -/

/-- The descriptor of an origin, if it is still in flight, has ended with the loss of a part. -/
def LossShown (o : Origin) (s : State) : Prop := ∀ e, s.descriptor o = some e → (∃ r, e.phase = .ended r) ∧ .peerLost ∈ e.conds

theorem LossShown.endsStand {o : Origin} {s t : State} (h : LossShown o s) (g : EndsStand s t) : LossShown o t := by
  intro e he
  obtain ⟨d, hd, hsame⟩ := g.came o e he
  obtain ⟨⟨r, hr⟩, hlost⟩ := h d hd
  have hed : e = d := hsame r hr
  exact hed ▸ ⟨⟨r, hr⟩, hlost⟩

/-- What a lost part does to one of the descriptors that were sent to it. -/
def loseSent (s : State) (d : InFlight) : State :=
  if dOpcode d.raw = opGenerate then
    finishEnded (s.onDescriptor d.origin fun d => { d with phase := .ended 0, conds := d.conds ++ [.peerLost] })
  else complete s d.origin [.peerLost] 0

theorem loseSent_none (s : State) {d : InFlight} (h : dOpcode d.raw ≠ opGenerate) : (loseSent s d).descriptor d.origin = none := by
  rw [loseSent, if_neg h, descriptor_complete]

theorem loseSent_shows (s : State) (d : InFlight) : LossShown d.origin (loseSent s d) := by
  by_cases h : dOpcode d.raw = opGenerate
  · rw [loseSent, if_pos h]
    refine LossShown.endsStand (fun e he => ?_) (endsStand_finishEnded _)
    rw [descriptor_onDescriptor_same] at he
    obtain ⟨c, -, rfl⟩ := Option.map_eq_some_iff.mp he
    exact ⟨⟨0, rfl⟩, by simp⟩
  · intro e he
    rw [loseSent_none s h] at he
    cases he

theorem loseSent_keepsNone {s : State} {o : Origin} (d : InFlight) (h : s.descriptor o = none) : (loseSent s d).descriptor o = none := by
  unfold loseSent
  split
  · refine (endsStand_finishEnded _).none (AddsNoDescriptor.none (s := s) ?_ h)
    exact addsNoDescriptor_onDescriptor s d.origin _ fun _ => rfl
  · exact (endsStand_complete ..).none h

theorem lossShown_loseSent {s : State} {o : Origin} (d : InFlight) (h : LossShown o s) : LossShown o (loseSent s d) := by
  rcases Decidable.em (o = d.origin) with rfl | ho
  · exact loseSent_shows s d
  · unfold loseSent
    split
    · refine LossShown.endsStand (fun e he => h e ?_) (endsStand_finishEnded _)
      rwa [descriptor_onDescriptor_other s _ ho] at he
    · exact h.endsStand (endsStand_complete ..)

/-- The descriptors sent to a part. -/
def sentTo (s : State) (part : Nat) : List InFlight :=
  s.desc.filter fun d => match d.phase with
    | .sent p _ => p == part
    | _ => false

theorem endsStand_losePeer (s : State) (part : Nat) : EndsStand ((sentTo s part).foldl loseSent s) (losePeer s part) := by
  show EndsStand ((sentTo s part).foldl loseSent s) (dropMapperPart (readmit _) part)
  refine EndsStand.trans ?_ ((workStands_readmit _).endsStand.trans (regionWork_dropMapperPart _ part).stands)
  exact (EndsStand.foldl (fun s a => endsStand_failAsked s a .peerLost) _ _).trans
    (EndsStand.foldl (fun s (x : Session) => endsStand_endMove s x.slot .peerLost) _ _)

/-- What holds after the turn of one item, and what every later turn keeps, holds after the fold. -/
theorem foldl_after {α : Type} {f : State → α → State} {P : State → Prop} {l : List α} {a : α} (ha : a ∈ l)
    (hturn : ∀ s, P (f s a)) (hkeep : ∀ s b, P s → P (f s b)) (s : State) : P (l.foldl f s) := by
  obtain ⟨before, after, rfl⟩ := List.append_of_mem ha
  rw [List.foldl_append, List.foldl_cons]
  exact List.foldlRecOn after f (motive := P) (hturn _) fun t ht b _ => hkeep t b ht

theorem losePeer_ends {s : State} {part : Nat} {d : InFlight} (hd : d ∈ s.desc) (hsent : ∃ id, d.phase = .sent part id) :
    (dOpcode d.raw ≠ opGenerate → (losePeer s part).descriptor d.origin = none) ∧ LossShown d.origin (losePeer s part) := by
  have hmem : d ∈ sentTo s part := by
    obtain ⟨id, hid⟩ := hsent
    exact List.mem_filter.mpr ⟨hd, by rw [hid]; exact beq_self_eq_true part⟩
  have hrest := endsStand_losePeer s part
  refine ⟨fun hop => hrest.none ?_, LossShown.endsStand ?_ hrest⟩
  · exact foldl_after (P := fun s => s.descriptor d.origin = none) hmem (fun s => loseSent_none s hop)
      (fun s b h => loseSent_keepsNone b h) s
  · exact foldl_after hmem (fun s => loseSent_shows s d) (fun s b h => lossShown_loseSent b h) s

/-- Settles O48: each timer by the guard of its own command; a lost part ends what was sent to it, and nothing after that turn
brings a descriptor back. -/
theorem ridgeTimersActWhenDue : Obligations.RidgeTimersActWhenDue := by
  unfold Obligations.RidgeTimersActWhenDue
  refine ⟨fun s addr o ho => ?_, fun s hready hconf => ?_, fun s addr hclear => ?_, fun s part p hp => ?_, fun s part a ha => ?_⟩
  · obtain ⟨hearly, hdue⟩ := retransmitTimeout_acts ho
    exact ⟨hearly, fun h => ⟨_, hdue h, sendAgain_marks s addr⟩⟩
  · refine ⟨_, ?_, quiet_foldl _ (fun s k => quiet_sendFrame ..) _ s, foldl_keeps State.desc _ (fun s k => sendFrame_desc ..) _ s, rfl⟩
    rw [exec_keepaliveSend, execKeepaliveSend, hready, hconf]
    rfl
  · refine ⟨fun hearly => ?_, peerSuspect_suspects hclear⟩
    rw [exec_peerSuspect, execPeerSuspect, hearly]
    simp
  · refine ⟨fun hearly => ?_, partDownDetect_proposes hp⟩
    rw [exec_partDownDetect]
    simp only [execPartDownDetect, hp]
    exact if_pos (by simp [hearly])
  · rw [exec_peerLostTimeout]
    simp only [execPeerLostTimeout, ha]
    refine ⟨fun h => by rw [h]; rfl, fun h => ⟨losePeer s part, by rw [h]; rfl, fun d hd hsent _ => losePeer_ends hd hsent⟩⟩

end Sys2Proof.Machine

end

section
/-!
SUPPORT. The table of regions: one rule for each access, and what the work on a region leaves (R304 to R312).
-/

namespace Sys2Proof.Machine

/-! ### The table of regions -/

theorem region_of_regions {s t : State} (h : t.rdg.regions = s.rdg.regions) (n : Nat) : t.region n = s.region n := by
  simp only [State.region, h]

theorem region_slot {s : State} {n : Nat} {r : Region} (h : s.region n = some r) : r.slot = n := (lookup_mem h).2

@[simp] theorem region_putRegion_same (s : State) (r : Region) : (s.putRegion r).region r.slot = some r :=
  upsert_get Region.slot r s.rdg.regions

theorem region_putRegion_at (s : State) {r : Region} {n : Nat} (h : r.slot = n) : (s.putRegion r).region n = some r := by
  rw [← h, region_putRegion_same]

theorem onRegion_eq {s : State} {n : Nat} {r : Region} (h : s.region n = some r) (f : Region → Region) :
    s.onRegion n f = s.putRegion { f r with slot := n } := by
  rw [State.onRegion, h]

theorem regionOf_some {s : State} {h : Word} {r : Region} (hr : regionOf s h = some r) :
    s.region r.slot = some r ∧ r.slot = oSlot h ∧ r.creating = none ∧ regionHandle s r = h := by
  unfold regionOf at hr
  split at hr
  · rename_i x hx
    split at hr
    · rename_i hcond
      cases hr
      rw [Bool.and_eq_true, Option.isNone_iff_eq_none, decide_eq_true_iff] at hcond
      have hslot := region_slot hx
      exact ⟨hslot ▸ hx, hslot, hcond⟩
    · cases hr
  · cases hr

/-! ### What work on the table of regions leaves -/

/-- Only the table of regions differs. -/
def RegionsOnly (s t : State) : Prop := ∃ rs, t = s.onRdg fun g => { g with regions := rs }

theorem RegionsOnly.refl (s : State) : RegionsOnly s s := ⟨s.rdg.regions, rfl⟩

theorem RegionsOnly.trans {s t u : State} (h : RegionsOnly s t) (g : RegionsOnly t u) : RegionsOnly s u := by
  obtain ⟨rs, rfl⟩ := h
  obtain ⟨rs', rfl⟩ := g
  exact ⟨rs', rfl⟩

theorem RegionsOnly.foldl {α : Type} {f : State → α → State} (h : ∀ s a, RegionsOnly s (f s a)) (l : List α) (s : State) :
    RegionsOnly s (l.foldl f s) :=
  List.foldlRecOn l f (motive := RegionsOnly s) (.refl s) fun t ht a _ => ht.trans (h t a)

theorem regionsOnly_putRegion (s : State) (r : Region) : RegionsOnly s (s.putRegion r) := ⟨_, rfl⟩

theorem regionsOnly_onRegion (s : State) (n : Nat) (f : Region → Region) : RegionsOnly s (s.onRegion n f) := by
  unfold State.onRegion
  split
  · exact regionsOnly_putRegion ..
  · exact .refl s

theorem regionsOnly_keepSealed (s : State) (slot page : Nat) : RegionsOnly s (keepSealed s slot page) := by
  unfold keepSealed
  split
  · exact .refl s
  · split
    · exact .refl s
    · exact regionsOnly_putRegion ..

theorem regionsOnly_digestPage (s : State) (slot page : Nat) (device : Bool) : RegionsOnly s (digestPage s slot page device) := by
  unfold digestPage
  split
  · exact .refl s
  · split
    · exact .refl s
    · exact regionsOnly_putRegion ..

/-- What a write to a region leaves: sessions, tiers, descriptors and outputs. -/
structure RegionWrite (s t : State) : Prop where
  ses : t.ses = s.ses
  tie : t.tie = s.tie
  desc : t.desc = s.desc
  out : t.out = s.out

theorem RegionWrite.trans {s t u : State} (h : RegionWrite s t) (g : RegionWrite t u) : RegionWrite s u :=
  ⟨g.ses.trans h.ses, g.tie.trans h.tie, g.desc.trans h.desc, g.out.trans h.out⟩

theorem RegionsOnly.regionWrite {s t : State} (h : RegionsOnly s t) : RegionWrite s t := by
  obtain ⟨rs, rfl⟩ := h
  exact ⟨rfl, rfl, rfl, rfl⟩

theorem regionWrite_writeRegionBytes (s : State) (slot off : Nat) (data : List Byte) :
    RegionWrite s (writeRegionBytes s slot off data) := by
  unfold writeRegionBytes
  split
  · exact ⟨rfl, rfl, rfl, rfl⟩
  · split
    · exact ⟨rfl, rfl, rfl, rfl⟩
    · exact ⟨by simp [State.putRegion], by simp [State.putRegion], by simp [State.putRegion], by simp [sendRequest, State.putRegion]⟩
    · exact ⟨rfl, rfl, rfl, rfl⟩

theorem regionWrite_hostWriteRegion (s : State) (slot off : Nat) (data : List Byte) :
    RegionWrite s (hostWriteRegion s slot off data) :=
  ((regionsOnly_keepSealed ..).regionWrite.trans (regionWrite_writeRegionBytes ..)).trans (regionsOnly_onRegion ..).regionWrite

/-! ### The parts of a region that its accesses look at -/

/-- Two regions with the same operations, directory, mappers and unmappings, and the same place in the table. -/
structure SameAccess (r y : Region) : Prop where
  slot : y.slot = r.slot
  ops : y.ops = r.ops
  directory : y.directory = r.directory
  mappers : y.mappers = r.mappers
  unmapping : y.unmapping = r.unmapping

theorem SameAccess.refl (r : Region) : SameAccess r r := ⟨rfl, rfl, rfl, rfl, rfl⟩

theorem SameAccess.trans {r x y : Region} (h : SameAccess r x) (g : SameAccess x y) : SameAccess r y :=
  ⟨g.slot.trans h.slot, g.ops.trans h.ops, g.directory.trans h.directory, g.mappers.trans h.mappers, g.unmapping.trans h.unmapping⟩

theorem keepSealed_region {s : State} {slot : Nat} {r : Region} (page : Nat) (h : s.region slot = some r) :
    ∃ y, (keepSealed s slot page).region slot = some y ∧ SameAccess r y := by
  have hslot := region_slot h
  simp only [keepSealed, h]
  split
  · exact ⟨r, h, .refl r⟩
  · exact ⟨_, region_putRegion_at _ hslot, rfl, rfl, rfl, rfl, rfl⟩

theorem writeRegionBytes_region {s : State} {slot : Nat} {r : Region} (off : Nat) (data : List Byte) (h : s.region slot = some r) :
    ∃ y, (writeRegionBytes s slot off data).region slot = some y ∧ SameAccess r y := by
  have hslot := region_slot h
  simp only [writeRegionBytes, h]
  split
  · exact ⟨r, h, .refl r⟩
  · refine ⟨_, (region_of_regions ?_ slot).trans (region_putRegion_at s (r := { r with mem := memWriteAll r.mem off data }) hslot),
      rfl, rfl, rfl, rfl, rfl⟩
    simp [sendRequest]
  · exact ⟨_, region_putRegion_at _ hslot, rfl, rfl, rfl, rfl, rfl⟩

theorem hostWriteRegion_region {s : State} {slot : Nat} {r : Region} (off : Nat) (data : List Byte) (h : s.region slot = some r) :
    ∃ y, (hostWriteRegion s slot off data).region slot = some y ∧ SameAccess r y := by
  obtain ⟨x, hx, hrx⟩ := keepSealed_region (off / 65536) h
  obtain ⟨y, hy, hxy⟩ := writeRegionBytes_region off data hx
  unfold hostWriteRegion
  extract_lets page
  rw [onRegion_eq hy]
  exact ⟨_, region_putRegion_at _ rfl, (hrx.trans hxy).trans ⟨(region_slot hy).symm, rfl, rfl, rfl, rfl⟩⟩

/-! ### The queue of a region's operations -/

/-- A region on which nothing waits and which is mapped stays as it is. -/
theorem pump_idle (n : Nat) {s : State} {slot : Nat} {r : Region} (h : s.region slot = some r) (hops : r.ops = [])
    (hmappers : r.mappers ≠ []) (hunmapping : r.unmapping = []) : pump n s slot = s.putRegion r := by
  have hslot := region_slot h
  have hsame : { r with unmapping := ([] : List (Nat × Asker)) } = r := by rw [← hunmapping]
  have hput : (s.putRegion r).region slot = some r := region_putRegion_at s hslot
  have hend : endUnmappings s slot = s.putRegion r := by
    simp only [endUnmappings, h, hunmapping, List.filter_nil, List.foldl_nil, hsame, hput]
    rw [if_neg (by simp [hmappers])]
  cases n with
  | zero => exact hend
  | succ n => simp only [pump, h, hops, nextOp, hend]

theorem pump_turn {n : Nat} {s : State} {slot i : Nat} {r : Region} {op : LineOp} (h : s.region slot = some r)
    (hnext : nextOp [] r.ops = some (i, op)) : pump (n + 1) s slot = pump n (runOp s slot i op) slot := by
  simp only [pump, h, hnext]

theorem nextOp_single {op : LineOp} (h : op.waiting = []) : nextOp [] [op] = some (0, op) := by
  simp [nextOp, h]

theorem pumpRegion_single {s : State} {slot : Nat} {r : Region} {op : LineOp} (h : s.region slot = some r) (hops : r.ops = [op])
    (hwaiting : op.waiting = []) : pumpRegion s slot = pump 2 (runOp s slot 0 op) slot := by
  have hnext : nextOp [] r.ops = some (0, op) := hops ▸ nextOp_single hwaiting
  simp only [pumpRegion, h, hops, List.length_singleton]
  exact pump_turn h hnext

/-- The only operation of a region, taken out. -/
theorem removeOp_single {s : State} {slot : Nat} {r : Region} {op : LineOp} (h : s.region slot = some r) (hops : r.ops = [op]) :
    removeOp s slot 0 = s.putRegion { r with ops := [] } := by
  have hslot := region_slot h
  subst hslot
  rw [removeOp, onRegion_eq h, hops]
  rfl

/-- What the end of a host's write leaves: the line is shared by no one, and the host is told. -/
theorem finishWrite_host {s : State} {slot : Nat} {r : Region} (off line offset : Nat) (data : List Byte)
    (h : s.region slot = some r) :
    ∃ y, (finishWrite s slot (.host off) line offset data).region slot = some y ∧
      SameAccess { r with directory := r.directory.filter fun d => d.1 != line } y ∧
      (finishWrite s slot (.host off) line offset data).out = s.out ++ [.writeDone off] ∧
      (finishWrite s slot (.host off) line offset data).ses = s.ses ∧
      (finishWrite s slot (.host off) line offset data).desc = s.desc := by
  have hslot := region_slot h
  have hput : (s.putRegion { r with directory := r.directory.filter fun d => d.1 != line }).region slot =
      some { r with directory := r.directory.filter fun d => d.1 != line } := region_putRegion_at _ hslot
  simp only [finishWrite, h]
  generalize hu : s.putRegion { r with directory := r.directory.filter fun d => d.1 != line } = u at hput
  have hkeeps : RegionWrite s u := hu ▸ (regionsOnly_putRegion ..).regionWrite
  split
  · exact ⟨_, hput, .refl _, congrArg (· ++ [_]) hkeeps.out, hkeeps.ses, hkeeps.desc⟩
  · obtain ⟨y, hy, hsame⟩ := hostWriteRegion_region (256 * line + offset) data hput
    have hwrite := hkeeps.trans (regionWrite_hostWriteRegion u slot (256 * line + offset) data)
    exact ⟨y, hy, hsame, congrArg (· ++ [_]) hwrite.out, hwrite.ses, hwrite.desc⟩

end Sys2Proof.Machine

end

section
/-!
SUPPORT. The records of a request that wait on the bellows, and the end of a descriptor once none does (R74).
-/

namespace Sys2Proof.Machine

theorem setAt_eq_set {α : Type} (l : List α) (i : Nat) (x : α) : setAt l i x = l.set i x := by
  induction l generalizing i with
  | nil => rfl
  | cons y l ih => cases i <;> simp [setAt, ih]

theorem bellow_onBellow_other (s : State) {n k : Nat} (f : Bellow → Bellow) (h : k ≠ n) : (s.onBellow n f).bellow k = s.bellow k :=
  congrArg (Option.getD · _) (upsert_other Bellow.number { f (s.bellow n) with number := n } s.blw.ports k (Ne.symm h))

/-- A frame that carries a record of a request. -/
def carriesRecord (q : Nat) (seq : Seq) (f : OutFrame) : Bool :=
  match f.payload with
  | .record k r => k == q && r.genSeq == seq
  | _ => false

/-- A sum is zero where every summand is. -/
theorem sum_eq_zero_iff {l : List Nat} : l.sum = 0 ↔ ∀ n ∈ l, n = 0 := by
  induction l with
  | nil => simp
  | cons n l ih => simp [ih]

theorem recordsOf_zero_iff (s : State) (q : Nat) (seq : Seq) :
    recordsOf s q seq = 0 ↔ ∀ c ∈ (s.bellow 6).classes, ∀ f ∈ c.queue, carriesRecord q seq f = false := by
  have heq : recordsOf s q seq = ((s.bellow 6).classes.map fun c => (c.queue.filter (carriesRecord q seq)).length).sum := rfl
  rw [heq, sum_eq_zero_iff]
  simp [List.filter_eq_nil_iff]

theorem recordsOf_of_blw {s t : State} (h : t.blw = s.blw) (q : Nat) (seq : Seq) : recordsOf t q seq = recordsOf s q seq := by
  simp only [recordsOf, bellow_of_blw h]

theorem recordsOf_enqueueFrame {s : State} {q : Nat} {seq : Seq} (port : Nat) {f : OutFrame} (hf : carriesRecord q seq f = false)
    (h : recordsOf s q seq = 0) : recordsOf (enqueueFrame s port f) q seq = 0 := by
  rw [recordsOf_zero_iff] at h ⊢
  rcases Decidable.em (6 = port) with rfl | hport
  · unfold enqueueFrame
    split
    · rw [bellow_onBellow_same]
      exact h
    · rw [State.onClass, bellow_onBellow_same]
      intro c hc g hg
      simp only [setAt_eq_set] at hc
      rcases List.mem_or_eq_of_mem_set hc with hc | rfl
      · exact h c hc g hg
      · rcases List.mem_append.mp hg with hg | hg
        · rcases hold : (s.bellow 6).classes[f.hdr.cls]? with _ | c
          · simp [hold] at hg
          · rw [hold] at hg
            exact h c (List.mem_of_getElem? hold) g hg
        · rw [List.mem_singleton.mp hg]
          exact hf
  · have hsame : (enqueueFrame s port f).bellow 6 = s.bellow 6 := by
      unfold enqueueFrame
      split <;> exact bellow_onBellow_other s _ hport
    rw [hsame]
    exact h

theorem recordsOf_sendFrame {s : State} {q : Nat} {seq : Seq} (part type cls : Nat) {p : Payload} (tenant req : Nat) (obj : Word)
    (d : Nat) (st : Status) (tw : Bool) (hp : ∀ f : OutFrame, f.payload = p → carriesRecord q seq f = false)
    (h : recordsOf s q seq = 0) : recordsOf (sendFrame s part type cls p tenant req obj d st tw) q seq = 0 := by
  unfold sendFrame
  split
  · exact h
  · exact List.foldlRecOn _ _ (motive := fun t => recordsOf t q seq = 0) h fun t ht x _ => recordsOf_enqueueFrame _ (hp _ rfl) ht

theorem signalEntry_blw (s : State) (q : Nat) (now : Bool) : (signalEntry s q now).blw = s.blw := by
  unfold signalEntry
  simp only []
  split
  · rfl
  · split <;> rfl

theorem postEntry_blw (s : State) (q : Nat) (c : Completion) : (postEntry s q c).blw = s.blw := by
  unfold postEntry
  split
  · exact signalEntry_blw ..
  all_goals rfl

theorem recordsOf_completeOne {s : State} {q : Nat} {seq : Seq} (o : Origin) (cs : List Status) (r : Word)
    (h : recordsOf s q seq = 0) : recordsOf (completeOne s o cs r) q seq = 0 := by
  unfold completeOne
  split
  · exact h
  · extract_lets all u
    have hu : recordsOf u q seq = 0 := h
    split
    · exact hu
    · cases o with
      | qp k n => exact (recordsOf_of_blw (postEntry_blw ..) q seq).trans hu
      | ridge part req => exact recordsOf_sendFrame _ _ _ _ _ _ _ _ _ (fun f hf => by rw [carriesRecord, hf]) hu

theorem recordsOf_forwardDescriptor {s : State} {q : Nat} {seq : Seq} (d : InFlight) (part : Nat) (param : List Byte)
    (h : recordsOf s q seq = 0) : recordsOf (forwardDescriptor s d part param) q seq = 0 := by
  unfold forwardDescriptor sendRequest
  exact recordsOf_sendFrame _ _ _ _ _ _ _ _ _ (fun f hf => by rw [carriesRecord, hf]) (s := s.onRdg _) h

theorem recordsOf_complete {s : State} {q : Nat} {seq : Seq} (o : Origin) (cs : List Status) (r : Word)
    (h : recordsOf s q seq = 0) : recordsOf (complete s o cs r) q seq = 0 := by
  unfold complete
  rw [releaseFences_eq]
  refine List.foldlRecOn _ _ (motive := fun t => recordsOf t q seq = 0) (recordsOf_completeOne o cs r h) fun t ht d _ => ?_
  rcases releaseTurn_cases t d with heq | ⟨cs, r, heq⟩ | ⟨e, p, -, -, heq⟩
  · rw [heq]; exact ht
  · rw [heq]; exact recordsOf_completeOne _ cs r ht
  · rw [heq]; exact recordsOf_forwardDescriptor e p [] ht

/-! ### The end of descriptors whose records are out -/

/-- One turn of the end of descriptors that have ended. -/
def endTurn (s : State) (d : InFlight) : State :=
  if waitsRecords s d.origin then s
  else match d.phase, d.origin with
  | .ended r, .qp q seq => if recordsOf s q seq = 0 then complete s d.origin [] r else s
  | .ended r, .ridge _ _ => complete s d.origin [] r
  | _, _ => s

theorem finishEnded_eq (s : State) : finishEnded s = s.desc.foldl endTurn s := rfl

theorem waitsRecords_of_ses {s t : State} (h : t.ses = s.ses) (o : Origin) : waitsRecords t o = waitsRecords s o := by
  simp only [waitsRecords, h]

theorem endTurn_cases (s : State) (d : InFlight) : endTurn s d = s ∨ ∃ r, endTurn s d = complete s d.origin [] r := by
  unfold endTurn
  split
  · exact .inl rfl
  · split
    · split
      · exact .inr ⟨_, rfl⟩
      · exact .inl rfl
    · exact .inr ⟨_, rfl⟩
    · exact .inl rfl

/-- A request of a queue pair that has ended, with every record out, completes (R74). -/
theorem finishEnded_completes {s : State} {d : InFlight} {q : Nat} {seq : Seq} {r : Word} (hd : d ∈ s.desc)
    (horigin : d.origin = .qp q seq) (hended : d.phase = .ended r) (hheld : waitsRecords s d.origin = false)
    (hout : recordsOf s q seq = 0) : (finishEnded s).descriptor d.origin = none := by
  obtain ⟨before, after, hsplit⟩ := List.append_of_mem hd
  rw [finishEnded_eq, hsplit, List.foldl_append, List.foldl_cons]
  have hbefore : (before.foldl endTurn s).ses = s.ses ∧ recordsOf (before.foldl endTurn s) q seq = 0 :=
    List.foldlRecOn before endTurn (motive := fun t : State => t.ses = s.ses ∧ recordsOf t q seq = 0) ⟨rfl, hout⟩ fun t ht e _ => by
      obtain ⟨hses, hrec⟩ := ht
      rcases endTurn_cases t e with heq | ⟨r, heq⟩
      · rw [heq]; exact ⟨hses, hrec⟩
      · rw [heq]; exact ⟨(quiet_ses (quiet_complete t e.origin [] r)).trans hses, recordsOf_complete e.origin [] r hrec⟩
  generalize before.foldl endTurn s = u at hbefore
  obtain ⟨hses, hrec⟩ := hbefore
  have hturn : endTurn u d = complete u d.origin [] r := by
    rw [endTurn, waitsRecords_of_ses hses, hheld, hended]
    simp only [Bool.false_eq_true, if_false, horigin, hrec, if_true]
  rw [hturn]
  refine List.foldlRecOn after endTurn (motive := fun t : State => t.descriptor d.origin = none) (descriptor_complete ..)
    fun t ht e _ => ?_
  rcases endTurn_cases t e with heq | ⟨r, heq⟩
  · rw [heq]; exact ht
  · rw [heq]; exact (addsNoDescriptor_complete t e.origin [] r).none ht

end Sys2Proof.Machine

end

section
/-!
SUPPORT. What the frames do that the ridge delivers (R291, R292, R295, R296, R309, R312, R346).
-/

namespace Sys2Proof.Machine

/-! ### A frame that arrives in its turn -/

/-- The state in which a sequenced frame has been taken and acknowledged (R286). -/
def takenFrame (s : State) (f : Received) : State :=
  sendAck ((heard s f).onPeer f.hdr.srcAddr fun p => { p with expected := p.expected + 1 }) f.hdr.srcAddr

theorem receive_arrives {s : State} {f : Received} {type : Nat} (h : Arrives s f type) : receive s f type true = (true, takenFrame s f) := by
  obtain ⟨htype, hversion, hfec, hcrc, htag, harmed, hseq⟩ := h
  rw [(receive_whole htype hversion hfec hcrc htag).2 harmed, if_neg (not_not_intro hseq)]
  rfl

theorem takenFrame_expected (s : State) (f : Received) :
    ((takenFrame s f).peer f.hdr.srcAddr).expected = (s.peer f.hdr.srcAddr).expected + 1 := by
  rw [takenFrame, sendAck_expected, peer_onPeer_same, heard_peer]

/-- Only the peers differ. -/
def PeersOnly (s t : State) : Prop := ∃ ps, t = s.onRdg fun r => { r with peers := ps }

theorem PeersOnly.trans {s t u : State} (h : PeersOnly s t) (g : PeersOnly t u) : PeersOnly s u := by
  obtain ⟨ps, rfl⟩ := h
  obtain ⟨ps', rfl⟩ := g
  exact ⟨ps', rfl⟩

theorem peersOnly_onPeer (s : State) (a : Nat) (f : Peer → Peer) : PeersOnly s (s.onPeer a f) := ⟨_, rfl⟩

theorem sendAck_eq (s : State) (a : Nat) : ∃ t o, PeersOnly s t ∧ sendAck s a = t.emit o := ⟨_, _, peersOnly_onPeer s a _, rfl⟩

theorem peersOnly_heard (s : State) (f : Received) : PeersOnly s (heard s f) := (peersOnly_onPeer ..).trans (peersOnly_onPeer ..)

/-- Only the peers and the outputs differ once a frame is taken. -/
theorem takenFrame_eq (s : State) (f : Received) :
    ∃ ps o, takenFrame s f = (s.onRdg fun r => { r with peers := ps }).emit o := by
  obtain ⟨t, o, ht, heq⟩ := sendAck_eq ((heard s f).onPeer f.hdr.srcAddr fun p => { p with expected := p.expected + 1 }) f.hdr.srcAddr
  obtain ⟨ps, rfl⟩ := ((peersOnly_heard s f).trans (peersOnly_onPeer ..)).trans ht
  exact ⟨ps, o, heq⟩

@[simp] theorem quiet_takenFrame (s : State) (f : Received) : (takenFrame s f).quiet = s.quiet := by
  obtain ⟨ps, o, h⟩ := takenFrame_eq s f
  rw [h]; rfl
@[simp] theorem takenFrame_desc (s : State) (f : Received) : (takenFrame s f).desc = s.desc := by
  obtain ⟨ps, o, h⟩ := takenFrame_eq s f
  rw [h]; rfl
@[simp] theorem takenFrame_blw (s : State) (f : Received) : (takenFrame s f).blw = s.blw := by
  obtain ⟨ps, o, h⟩ := takenFrame_eq s f
  rw [h]; rfl
@[simp] theorem takenFrame_ses (s : State) (f : Received) : (takenFrame s f).ses = s.ses := quiet_ses (quiet_takenFrame s f)
@[simp] theorem takenFrame_hrt (s : State) (f : Received) : (takenFrame s f).hrt = s.hrt := quiet_hrt (quiet_takenFrame s f)
@[simp] theorem takenFrame_tie (s : State) (f : Received) : (takenFrame s f).tie = s.tie := quiet_tie (quiet_takenFrame s f)
/-- Of the ridge only the peers differ. -/
theorem takenFrame_rdg (s : State) (f : Received) : (takenFrame s f).rdg = { s.rdg with peers := (takenFrame s f).rdg.peers } := by
  obtain ⟨ps, o, h⟩ := takenFrame_eq s f
  rw [h]; rfl
@[simp] theorem takenFrame_lent (s : State) (f : Received) : (takenFrame s f).rdg.lent = s.rdg.lent := by rw [takenFrame_rdg]
@[simp] theorem takenFrame_map (s : State) (f : Received) : (takenFrame s f).rdg.map = s.rdg.map := by rw [takenFrame_rdg]
@[simp] theorem takenFrame_part (s : State) (f : Received) : (takenFrame s f).rdg.part = s.rdg.part := by rw [takenFrame_rdg]
@[simp] theorem takenFrame_asked (s : State) (f : Received) : (takenFrame s f).rdg.asked = s.rdg.asked := by rw [takenFrame_rdg]

/-! ### Requests for lent extents -/

theorem lentOf_onLent {s : State} {e : Word} {l : Lent} (f : Lent → Lent) (hf : ∀ l, (f l).handle = l.handle)
    (h : s.lentOf e = some l) : (s.onLent e f).lentOf e = some (f l) := by
  have hkey : ∀ l : Lent, (if l.handle = e then f l else l).handle = l.handle := fun l => by split <;> simp [hf]
  have hfind : (s.onLent e f).lentOf e = (s.lentOf e).map fun l => if l.handle = e then f l else l := by
    simp only [State.lentOf, State.onLent, State.onRdg_rdg, List.find?_map, Function.comp_def, hkey]
  have hl : l.handle = e := by simpa using List.find?_some h
  rw [hfind, h, Option.map_some, if_pos hl]

theorem extentAccess_none {s : State} {e : Word} {part : Nat} (h : extentAccess s e part = none) : ∃ l, s.lentOf e = some l := by
  unfold extentAccess at h
  split at h
  · cases h
  · exact ⟨_, ‹_›⟩

/-- A granule that is stored in a lent extent reads back, and every other one stands. -/
theorem readLent_storeLent {s : State} {e : Word} {l : Lent} (g : Nat) {data : List Byte} (hl : s.lentOf e = some l)
    (hlen : data.length = 512) : readLent (storeLent s e g data) e g = data ∧
      ∀ n, n ≠ g → readLent (storeLent s e g data) e n = readLent s e n := by
  have hne : data ≠ [] := fun h => by simp [h] at hlen
  have hchunks : (chunks 512 (data.length / 512 + 1) data).zipIdx = [(data, 0)] := by
    simp [hlen, chunks, hne, List.take_of_length_le, List.drop_of_length_le]
  have hlent : (storeLent s e g data).lentOf e = some { l with data := upsert (·.1) (g, data) l.data } := by
    unfold storeLent
    refine (lentOf_onLent _ ?_ hl).trans ?_
    · exact fun _ => rfl
    simp only [hchunks, List.foldl_cons, List.foldl_nil, Nat.add_zero]
  refine ⟨?_, fun n hn => ?_⟩
  · simp only [readLent, hlent, upsert_get' Prod.fst (g, data) l.data g rfl, Option.map_some, Option.getD_some]
  · simp only [readLent, hlent, hl, upsert_other Prod.fst (g, data) l.data n (Ne.symm hn)]

theorem readLent_of_lent {s t : State} (h : t.rdg.lent = s.rdg.lent) (e : Word) (g : Nat) : readLent t e g = readLent s e g := by
  simp only [readLent, State.lentOf, h]

/-- A write of a lent extent, as it is served (R299, R300). -/
theorem execRequestFrame_extentWrite {s : State} {f : Received} {e : Word} {g : Nat} {data : List Byte} (h : Arrives s f 0)
    (hepoch : f.hdr.epoch ≤ s.rdg.map.epoch) (hdst : f.hdr.dstPart = s.rdg.part) :
    execRequestFrame f (.extentWrite e g data) s = .next (awaitClears s (answerExtent (takenFrame s f) f.hdr.srcPart f.hdr.reqId e
      fun s => (storeLent s e g data, .done 0 []))) := by
  have hjudge : judgeRequest (takenFrame s f) f (.extentWrite e g data) = answerExtent (takenFrame s f) f.hdr.srcPart f.hdr.reqId e
      fun s => (storeLent s e g data, .done 0 []) := by
    unfold judgeRequest
    rw [takenFrame_map, if_neg (Nat.not_lt.mpr hepoch), routeRequest]
    exact if_pos (hdst.trans (takenFrame_part s f).symm)
  simp only [execRequestFrame, receive_arrives h, hjudge, afterClears]

theorem requestFrame_extentWrite {s : State} {f : Received} {e : Word} {g : Nat} {data : List Byte} (h : Arrives s f 0)
    (hepoch : f.hdr.epoch ≤ s.rdg.map.epoch) (hdst : f.hdr.dstPart = s.rdg.part) (hlen : data.length = 512) :
    ∃ t, exec (.requestFrame f (.extentWrite e g data)) s = .next t ∧ t.ses = s.ses ∧ t.desc = s.desc ∧
      (t.peer f.hdr.srcAddr).expected = (s.peer f.hdr.srcAddr).expected + 1 ∧
      (extentAccess s e f.hdr.srcPart = none → readLent t e g = data ∧ ∀ n, n ≠ g → readLent t e n = readLent s e n) ∧
      (∀ st, extentAccess s e f.hdr.srcPart = some st → t.rdg.lent = s.rdg.lent ∧
        t.rdg.revokedRefusals = if st = .revoked then min 0xFFFF (s.rdg.revokedRefusals + 1) else s.rdg.revokedRefusals) := by
  have hnext := execRequestFrame_extentWrite (e := e) (g := g) (data := data) h hepoch hdst
  have haccess : extentAccess (takenFrame s f) e f.hdr.srcPart = extentAccess s e f.hdr.srcPart := by
    obtain ⟨ps, o, hu⟩ := takenFrame_eq s f
    rw [hu]
    rfl
  have hread := readLent_of_lent (takenFrame_lent s f) e
  have hrefused : (takenFrame s f).rdg.revokedRefusals = s.rdg.revokedRefusals := by rw [takenFrame_rdg]
  have hseq := takenFrame_expected s f
  have htie := takenFrame_tie s f
  have hses := takenFrame_ses s f
  have hdesc := takenFrame_desc s f
  have hlent := takenFrame_lent s f
  generalize takenFrame s f = u at *
  rcases hwho : extentAccess s e f.hdr.srcPart with _ | st
  · obtain ⟨l, hl⟩ := extentAccess_none (haccess.trans hwho)
    obtain ⟨hsame, hother⟩ := readLent_storeLent g hl hlen
    simp only [answerExtent, haccess, hwho] at hnext
    have hstored : (storeLent u e g data).tie = u.tie := rfl
    rw [awaitClears_of_tie ((sendResponse_tie ..).trans (hstored.trans htie))] at hnext
    have hsent := readLent_of_lent (s := storeLent u e g data) (t := sendResponse (storeLent u e g data) f.hdr.srcPart f.hdr.reqId .ok
      (.done 0 []) e) (by rw [sendResponse_rdg]) e
    refine ⟨_, hnext, (sendResponse_ses ..).trans hses, (sendResponse_desc ..).trans hdesc, ?_, fun _ => ⟨(hsent g).trans hsame,
      fun n hn => ((hsent n).trans (hother n hn)).trans (hread n)⟩, fun st hst => by cases hst⟩
    rw [peer_of_rdg (sendResponse_rdg ..)]
    exact hseq
  · simp only [answerExtent, haccess, hwho] at hnext
    generalize hv : (if st = .revoked then u.onRdg fun r => { r with revokedRefusals := bump 16 r.revokedRefusals } else u) = v
      at hnext
    have hv' : v.ses = s.ses ∧ v.desc = s.desc ∧ v.tie = s.tie ∧ (v.peer f.hdr.srcAddr).expected = (u.peer f.hdr.srcAddr).expected ∧
        v.rdg.lent = s.rdg.lent ∧ v.rdg.revokedRefusals =
          if st = .revoked then min 0xFFFF (s.rdg.revokedRefusals + 1) else s.rdg.revokedRefusals := by
      rw [← hv]
      split
      · exact ⟨hses, hdesc, htie, rfl, hlent, hrefused ▸ Nat.min_comm _ _⟩
      · exact ⟨hses, hdesc, htie, rfl, hlent, hrefused⟩
    obtain ⟨hvses, hvdesc, hvtie, hvseq, hvlent, hvrefused⟩ := hv'
    rw [awaitClears_of_tie ((sendResponse_tie ..).trans hvtie)] at hnext
    refine ⟨_, hnext, (sendResponse_ses ..).trans hvses, (sendResponse_desc ..).trans hvdesc, ?_, (nomatch ·), fun st' hst => ?_⟩
    · rw [peer_of_rdg (sendResponse_rdg ..)]
      exact hvseq.trans hseq
    · cases hst
      rw [sendResponse_rdg]
      exact ⟨hvlent, hvrefused⟩

/-! ### Responses -/

theorem responseFrame_done {s : State} {f : Received} {d : InFlight} {q : Nat} {seq : Seq} {result : Word} (h : Arrives s f 1)
    (hepoch : f.hdr.epoch ≤ s.rdg.map.epoch) (hok : statusOfCode f.hdr.status.toNat = .ok)
    (hasked : ∀ a ∈ s.rdg.asked, a.id ≠ f.hdr.reqId) (hsent : sentDescriptor s f.hdr.reqId = some d) (horigin : d.origin = .qp q seq)
    (hheld : waitsRecords s d.origin = false) (hout : recordsOf s q seq = 0) :
    ∃ t, exec (.responseFrame f (.done result [])) s = .next t ∧ t.descriptor d.origin = none ∧ t.ses = s.ses ∧ t.hrt = s.hrt := by
  have hnone : (takenFrame s f).rdg.asked.find? (fun a => a.id == f.hdr.reqId) = none := by
    rw [takenFrame_asked]
    exact List.find?_eq_none.mpr fun a ha => by simpa using hasked a ha
  have hmem : d ∈ s.desc := List.mem_of_find?_eq_some hsent
  have hsent' : sentDescriptor (takenFrame s f) f.hdr.reqId = some d := by
    rw [sentDescriptor, takenFrame_desc]
    exact hsent
  generalize hu : ((takenFrame s f).onDescriptor d.origin fun d => { d with phase := .ended result, conds := d.conds ++ [] }) = u
  have hnext : exec (.responseFrame f (.done result [])) s = .next (finishEnded u) := by
    have hclear : ¬(takenFrame s f).rdg.map.epoch < f.hdr.epoch := by
      rw [takenFrame_map]
      exact Nat.not_lt.mpr hepoch
    simp only [exec_responseFrame, execResponseFrame, receive_arrives h, hclear, if_false, takeResponse, hnone, hsent']
    rw [answerDescriptor, if_neg (by simp [hok]), ← hu]
    simp [hok, condsOfBits]
  have hended : { d with phase := .ended result, conds := d.conds ++ [], origin := d.origin } ∈ u.desc :=
    hu ▸ List.mem_map.mpr ⟨d, (takenFrame_desc s f).symm ▸ hmem, if_pos rfl⟩
  have hses : u.ses = s.ses := hu ▸ takenFrame_ses s f
  have hhrt : u.hrt = s.hrt := hu ▸ takenFrame_hrt s f
  have hblw : u.blw = s.blw := hu ▸ takenFrame_blw s f
  have hquiet := quiet_finishEnded u
  refine ⟨_, hnext, finishEnded_completes (d := { d with phase := .ended result, conds := d.conds ++ [], origin := d.origin }) hended horigin rfl ((waitsRecords_of_ses hses _).trans hheld)
    ((recordsOf_of_blw hblw q seq).trans hout), (quiet_ses hquiet).trans hses, (quiet_hrt hquiet).trans hhrt⟩

end Sys2Proof.Machine

end

section
/-!
SUPPORT. Invalidations, map frames and pages that arrive (R291, R292, R309, R312, R346).
-/

namespace Sys2Proof.Machine

/-! ### Invalidations -/

/-- What a snoop of the host leaves: everything but what is out. -/
structure SnoopKeeps (s t : State) : Prop where
  ses : t.ses = s.ses
  hrt : t.hrt = s.hrt
  desc : t.desc = s.desc
  rdg : t.rdg = s.rdg

theorem snoopKeeps_snoopRegion (s : State) (region : Word) (off bytes : Nat) : SnoopKeeps s (snoopRegion s region off bytes) :=
  List.foldlRecOn _ _ (motive := SnoopKeeps s) ⟨rfl, rfl, rfl, rfl⟩ fun t ht m _ => by
    split
    · exact ⟨ht.ses, ht.hrt, ht.desc, ht.rdg⟩
    · exact ht

/-- What an invalidation leaves, with the lines that it keeps. -/
structure LinesDrop (s t : State) : Prop where
  ses : t.ses = s.ses
  hrt : t.hrt = s.hrt
  desc : t.desc = s.desc
  regions : t.rdg.regions = s.rdg.regions
  lines : ∀ c ∈ t.rdg.lines, c ∈ s.rdg.lines

theorem LinesDrop.trans {s t u : State} (h : LinesDrop s t) (g : LinesDrop t u) : LinesDrop s u :=
  ⟨g.ses.trans h.ses, g.hrt.trans h.hrt, g.desc.trans h.desc, g.regions.trans h.regions, fun c hc => h.lines c (g.lines c hc)⟩

/-- Lines are taken away by a test, and the host is snooped. -/
theorem linesDrop_filter (s : State) (keep : CachedLine → Bool) (region : Word) (off bytes : Nat) :
    LinesDrop s (snoopRegion (s.onRdg fun g => { g with lines := g.lines.filter keep }) region off bytes) ∧
    ∀ c ∈ (snoopRegion (s.onRdg fun g => { g with lines := g.lines.filter keep }) region off bytes).rdg.lines, keep c = true := by
  obtain ⟨hses, hhrt, hdesc, hrdg⟩ := snoopKeeps_snoopRegion (s.onRdg fun g => { g with lines := g.lines.filter keep }) region off bytes
  have hlines : (snoopRegion (s.onRdg fun g => { g with lines := g.lines.filter keep }) region off bytes).rdg.lines =
      s.rdg.lines.filter keep := by rw [hrdg]; rfl
  have hregions : (snoopRegion (s.onRdg fun g => { g with lines := g.lines.filter keep }) region off bytes).rdg.regions =
      s.rdg.regions := by rw [hrdg]; rfl
  refine ⟨⟨hses, hhrt, hdesc, hregions, fun c hc => ?_⟩, fun c hc => ?_⟩
  · rw [hlines] at hc
    exact (List.mem_filter.mp hc).1
  · rw [hlines] at hc
    exact (List.mem_filter.mp hc).2

theorem dropLine_drops (s : State) (region : Word) (line : Nat) : LinesDrop s (dropLine s region line) ∧
    ∀ c ∈ (dropLine s region line).rdg.lines, ¬(c.region = region ∧ c.line = line) := by
  obtain ⟨hdrop, hgone⟩ := linesDrop_filter s (fun l => !(l.region == region && l.line == line)) region (256 * line) 256
  refine ⟨hdrop, fun c hc hboth => ?_⟩
  have hkeep := hgone c hc
  simp [hboth.1, hboth.2] at hkeep

theorem dropSealed_drops (s : State) (region : Word) : LinesDrop s (dropSealed s region) ∧
    ∀ c ∈ (dropSealed s region).rdg.lines, ¬(c.region = region ∧ c.version.isSome) := by
  let dropOne : State → CachedLine → State := fun s l =>
    snoopRegion (s.onRdg fun g => { g with lines := g.lines.filter (· != l) }) region (256 * l.line) 256
  have heq : dropSealed s region = (s.rdg.lines.filter fun l => l.region == region && l.version.isSome).foldl dropOne s := rfl
  have hone : ∀ s l, LinesDrop s (dropOne s l) ∧ ∀ c ∈ (dropOne s l).rdg.lines, c ≠ l := fun s l => by
    obtain ⟨hdrop, hgone⟩ := linesDrop_filter s (· != l) region (256 * l.line) 256
    exact ⟨hdrop, fun c hc => by simpa using hgone c hc⟩
  rw [heq]
  have hdrop : LinesDrop s ((s.rdg.lines.filter fun l => l.region == region && l.version.isSome).foldl dropOne s) :=
    List.foldlRecOn _ dropOne (motive := LinesDrop s) ⟨rfl, rfl, rfl, rfl, fun c hc => hc⟩ fun t ht l _ => ht.trans (hone t l).1
  refine ⟨hdrop, fun c hc hboth => ?_⟩
  have hmem : c ∈ s.rdg.lines.filter fun l => l.region == region && l.version.isSome :=
    List.mem_filter.mpr ⟨hdrop.lines c hc, by simp [hboth.1, hboth.2]⟩
  exact foldl_after (P := fun t => c ∉ t.rdg.lines) hmem (fun t hin => (hone t c).2 c hin rfl)
    (fun t l hout hin => hout ((hone t l).1.lines c hin)) s hc

theorem invalidate_drops {s : State} {f : Received} {region : Word} {line : Option Nat} (h : Arrives s f 3) :
    ∃ t, exec (.invalidate f region line) s = .next t ∧ t.ses = s.ses ∧ t.hrt = s.hrt ∧ t.desc = s.desc ∧
      t.rdg.regions = s.rdg.regions ∧
      ∀ c ∈ t.rdg.lines, c ∈ s.rdg.lines ∧ ¬(c.region = region ∧ (line = some c.line ∨ (line = none ∧ c.version.isSome))) := by
  have hlines : (takenFrame s f).rdg.lines = s.rdg.lines := by rw [takenFrame_rdg]
  have hregions : (takenFrame s f).rdg.regions = s.rdg.regions := by rw [takenFrame_rdg]
  have hses := takenFrame_ses s f
  have hhrt := takenFrame_hrt s f
  have hdesc := takenFrame_desc s f
  simp only [exec_invalidate, execInvalidate, receive_arrives h]
  generalize takenFrame s f = u at *
  refine ⟨_, rfl, ?_⟩
  rw [sendFrame_ses, sendFrame_hrt, sendFrame_desc, sendFrame_rdg]
  rcases line with _ | l
  · obtain ⟨hdrop, hgone⟩ := dropSealed_drops u region
    refine ⟨hdrop.ses.trans hses, hdrop.hrt.trans hhrt, hdrop.desc.trans hdesc, hdrop.regions.trans hregions, fun c hc =>
      ⟨hlines ▸ hdrop.lines c hc, ?_⟩⟩
    rintro ⟨hregion, hline | ⟨-, hsome⟩⟩
    · cases hline
    · exact hgone c hc ⟨hregion, hsome⟩
  · obtain ⟨hdrop, hgone⟩ := dropLine_drops u region l
    refine ⟨hdrop.ses.trans hses, hdrop.hrt.trans hhrt, hdrop.desc.trans hdesc, hdrop.regions.trans hregions, fun c hc =>
      ⟨hlines ▸ hdrop.lines c hc, ?_⟩⟩
    rintro ⟨hregion, hline | ⟨hnone, -⟩⟩
    · cases hline
      exact hgone c hc ⟨hregion, rfl⟩
    · cases hnone

/-! ### The last acknowledgement of a write -/

theorem regionOf_of_ridge {s t : State} (hregions : t.rdg.regions = s.rdg.regions) (hpart : t.rdg.part = s.rdg.part) (h : Word) :
    regionOf t h = regionOf s h := by
  simp only [regionOf, region_of_regions hregions, regionHandle, hpart] <;>
    rfl

theorem acknowledge_write {s : State} {f : Received} {region : Word} {r : Region} {line off o : Nat} {data : List Byte}
    (h : Arrives s f 4) (hr : regionOf s region = some r) (hmappers : r.mappers ≠ []) (hunmapping : r.unmapping = [])
    (hops : r.ops = [{ asker := .host o, action := .write line off data, begun := true, waiting := [f.hdr.srcPart] }]) :
    ∃ t y, exec (.invalidateAcknowledge f region (some line)) s = .next t ∧ t.region r.slot = some y ∧ y.ops = [] ∧
      (∀ e ∈ y.directory, e.1 ≠ line) ∧ Output.writeDone o ∈ t.out ∧ t.ses = s.ses ∧ t.desc = s.desc := by
  have hregions : (takenFrame s f).rdg.regions = s.rdg.regions := by rw [takenFrame_rdg]
  have hfound : regionOf (takenFrame s f) region = some r := (regionOf_of_ridge hregions (takenFrame_part s f) region).trans hr
  have hregion : (takenFrame s f).region r.slot = some r := (regionOf_some hfound).1
  have hses := takenFrame_ses s f
  have hdesc := takenFrame_desc s f
  have hnext : exec (.invalidateAcknowledge f region (some line)) s =
      .next (acknowledgeLine (takenFrame s f) r.slot f.hdr.srcPart (some line)) := by
    simp only [exec_invalidateAcknowledge, execInvalidateAcknowledge, receive_arrives h, hfound]
  generalize takenFrame s f = u at *
  let op : LineOp := { asker := .host o, action := .write line off data, begun := true, waiting := [] }
  have hput : acknowledgeLine u r.slot f.hdr.srcPart (some line) = pumpRegion (u.putRegion { r with ops := [op] }) r.slot := by
    unfold acknowledgeLine
    extract_lets named
    have hnamed : named { asker := .host o, action := .write line off data, begun := true, waiting := [f.hdr.srcPart] } = true :=
      beq_self_eq_true line
    rw [onRegion_eq hregion, hops]
    simp [op, hnamed]
  have hstart : (u.putRegion { r with ops := [op] }).region r.slot = some { r with ops := [op] } := region_putRegion_same ..
  rw [hput, pumpRegion_single hstart rfl rfl] at hnext
  have hrun : runOp (u.putRegion { r with ops := [op] }) r.slot 0 op =
      finishWrite ((u.putRegion { r with ops := [op] }).putRegion { r with ops := [] }) r.slot (.host o) line off data := by
    simp only [runOp, hstart, op, if_true]
    rw [removeOp_single hstart rfl]
  rw [hrun] at hnext
  generalize hv : (u.putRegion { r with ops := [op] }).putRegion { r with ops := [] } = v at hnext
  have hvregion : v.region r.slot = some { r with ops := [] } := hv ▸ region_putRegion_same ..
  obtain ⟨y, hy, hsame, hout, hvses, hvdesc⟩ := finishWrite_host o line off data hvregion
  have hidle := pump_idle 2 hy hsame.ops (hsame.mappers ▸ hmappers) (hsame.unmapping.trans hunmapping)
  rw [hidle] at hnext
  have hyslot : y.slot = r.slot := hsame.slot
  have hkeeps : RegionWrite u v := hv ▸ ((regionsOnly_putRegion ..).trans (regionsOnly_putRegion ..)).regionWrite
  refine ⟨_, y, hnext, region_putRegion_at _ hyslot, hsame.ops, fun e he => ?_, ?_, (hvses.trans hkeeps.ses).trans hses,
    (hvdesc.trans hkeeps.desc).trans hdesc⟩
  · rw [hsame.directory] at he
    simpa using (List.mem_filter.mp he).2
  · exact List.mem_append_right _ (List.mem_singleton_self _) |> (hout ▸ ·)

end Sys2Proof.Machine

end

section
/-!
SUPPORT. Map frames and pages that arrive (R291, R292, R346).
-/

namespace Sys2Proof.Machine

/-! ### Map frames -/

/-- With no request that came early, the map's news starts none. -/
theorem actEarly_none {s : State} (h : s.rdg.early = []) : actEarly s = s := by
  have hready : earlyReady s = [] := by rw [earlyReady, h, List.filter_nil]
  have hsame : { s.rdg with early := s.rdg.early.filter fun e => !([] : List Early).contains e } = s.rdg := by rw [h, List.filter_nil, ← h]
  rw [actEarly, hready, List.foldl_nil]
  show { s with rdg := { s.rdg with early := s.rdg.early.filter fun e => !([] : List Early).contains e } } = s
  rw [hsame]

theorem takenFrame_early (s : State) (f : Received) : (takenFrame s f).rdg.early = s.rdg.early := by rw [takenFrame_rdg]

theorem isLeader_of_ridge {s t : State} (hmap : t.rdg.map = s.rdg.map) (hpart : t.rdg.part = s.rdg.part) : isLeader t = isLeader s := by
  simp only [isLeader, hmap, hpart]

theorem mapFrame_propose {s : State} {f : Received} {c : MapChange} (h : Arrives s f 5) (hearly : s.rdg.early = [])
    (hleader : isLeader s = true) : ∃ t, exec (.mapFrame f (.propose c)) s = .next t ∧
      t.rdg.map.proposals = s.rdg.map.proposals ++ [(f.hdr.srcPart, c)] ∧ t.rdg.map.epoch = s.rdg.map.epoch ∧ t.quiet = s.quiet := by
  have hlead : isLeader (takenFrame s f) = true := (isLeader_of_ridge (takenFrame_map s f) (takenFrame_part s f)).trans hleader
  have hmap := takenFrame_map s f
  have hquiet := quiet_takenFrame s f
  have hnone := (takenFrame_early s f).trans hearly
  simp only [exec_mapFrame, execMapFrame, receive_arrives h, hlead, if_true]
  generalize takenFrame s f = u at *
  let v := u.onRdg fun r => { r with map := { r.map with proposals := r.map.proposals ++ [(f.hdr.srcPart, c)] } }
  have hv : actEarly v = v := actEarly_none hnone
  refine ⟨v, congrArg Host.Outcome.next hv, ?_, ?_, hquiet⟩
  · rw [← hmap]
    rfl
  · rw [← hmap]
    rfl

theorem upsert_mem {α : Type} (key : α → Nat) (x : α) (l : List α) : x ∈ upsert key x l :=
  (lookup_mem (upsert_get key x l)).1

theorem mapFrame_laterCommit {s : State} {f : Received} {e : Nat} {cs : List MapChange} (h : Arrives s f 5)
    (hearly : s.rdg.early = []) (hlater : s.rdg.map.epoch + 1 < e) : ∃ t, exec (.mapFrame f (.commit e cs)) s = .next t ∧
      t.rdg.map.epoch = s.rdg.map.epoch ∧ t.rdg.map.parts = s.rdg.map.parts ∧ (e, cs) ∈ t.rdg.map.missed ∧ t.ses = s.ses ∧
      t.hrt = s.hrt := by
  have hmap := takenFrame_map s f
  have hses := takenFrame_ses s f
  have hhrt := takenFrame_hrt s f
  have hnone := (takenFrame_early s f).trans hearly
  simp only [exec_mapFrame, execMapFrame, receive_arrives h]
  generalize takenFrame s f = u at *
  let v := u.onRdg fun r => { r with map := { r.map with missed := upsert (·.1) (e, cs) r.map.missed } }
  have htake : takeCommit u e cs = sendFrame v v.rdg.map.leader 5 0 (.map (.fetch (u.rdg.map.epoch + 1))) := by
    unfold takeCommit
    rw [hmap]
    exact (if_neg (by omega)).trans (if_pos hlater)
  have hearly' : (takeCommit u e cs).rdg.early = [] := by
    rw [htake, sendFrame_rdg]
    exact hnone
  refine ⟨_, rfl, ?_⟩
  rw [actEarly_none hearly', htake, sendFrame_rdg, sendFrame_ses, sendFrame_hrt, ← hmap]
  exact ⟨rfl, rfl, upsert_mem _ _ _, hses, hhrt⟩

theorem mapFrame_twinOf {s : State} {f : Received} {p w : Nat} {x : MapPart} (h : Arrives s f 5) (hearly : s.rdg.early = [])
    (hmissed : s.rdg.map.missed = []) (hp : p ≠ s.rdg.part) (hx : s.mapPart p = some x) :
    ∃ t y, exec (.mapFrame f (.commit (s.rdg.map.epoch + 1) [.twinOf p w])) s = .next t ∧
      t.rdg.map.epoch = s.rdg.map.epoch + 1 ∧ t.mapPart p = some y ∧ y.twin = some w ∧ y.state = x.state ∧ t.hrt = s.hrt := by
  have hmap := takenFrame_map s f
  have hhrt := takenFrame_hrt s f
  have hpart := takenFrame_part s f
  have hnone := (takenFrame_early s f).trans hearly
  simp only [exec_mapFrame, execMapFrame, receive_arrives h]
  generalize takenFrame s f = u at *
  have hfound : u.mapPart p = some x := by rw [State.mapPart, hmap]; exact hx
  have htake : takeCommit u (s.rdg.map.epoch + 1) [.twinOf p w] = applyCommit u (s.rdg.map.epoch + 1) [.twinOf p w] := by
    unfold takeCommit
    rw [hmap, hmissed]
    exact if_pos rfl
  obtain ⟨hepoch, hpart', hhrt', hearly'⟩ := applyCommit_twinOf (e := s.rdg.map.epoch + 1) (w := w) (more := []) (hpart ▸ hp) hfound
    fun c hc => by cases hc
  rw [htake, actEarly_none (hearly'.trans hnone)]
  exact ⟨_, _, rfl, hepoch, hpart', rfl, rfl, hhrt'.trans hhrt⟩

/-! ### Pages -/

theorem takeMoving_fits {s : State} {h : FrameHeader} {page : Nat} {parked : Bool} {data : List Byte}
    (hhearth : parked = false → hearthFits (keepArriving s h.object page parked data) 0 false = true)
    (hfoothill : parked = true → foothillFits (keepArriving s h.object page parked data) 0 = true) :
    takeMoving s h page parked data = keepArriving s h.object page parked data := by
  cases parked with
  | true => simp only [takeMoving, hfoothill rfl, if_true]
  | false => simp only [takeMoving, makeRoom, hhearth rfl, Bool.false_eq_true, if_false, if_true]

theorem pageData_session {s : State} {f : Received} {page : Nat} {parked : Bool} {data : List Byte} (h : Arrives s f 8)
    (hhearth : parked = false → hearthFits (keepArriving s f.hdr.object page parked data) 0 false = true)
    (hfoothill : parked = true → foothillFits (keepArriving s f.hdr.object page parked data) 0 = true) :
    ∃ t, exec (.pageData f (.session parked) page data) s = .next t ∧
      (∃ a ∈ t.rdg.arriving, a.handle = f.hdr.object ∧ a.page = page ∧ a.data = data ∧ a.parked = parked) ∧
      t.ses = s.ses ∧ t.hrt = s.hrt := by
  have hfit : hearthFits (keepArriving (takenFrame s f) f.hdr.object page parked data) 0 false =
      hearthFits (keepArriving s f.hdr.object page parked data) 0 false := by
    obtain ⟨ps, o, hu⟩ := takenFrame_eq s f
    rw [hu]
    rfl
  have hroom : foothillFits (keepArriving (takenFrame s f) f.hdr.object page parked data) 0 =
      foothillFits (keepArriving s f.hdr.object page parked data) 0 := by
    obtain ⟨ps, o, hu⟩ := takenFrame_eq s f
    rw [hu]
    rfl
  have hses := takenFrame_ses s f
  have hhrt := takenFrame_hrt s f
  have htie := takenFrame_tie s f
  simp only [exec_pageData, execPageData, receive_arrives h]
  rw [takeMoving_fits (fun hp => hfit.trans (hhearth hp)) (fun hp => hroom.trans (hfoothill hp))]
  generalize takenFrame s f = u at *
  have hkept : (keepArriving u f.hdr.object page parked data).tie = u.tie := rfl
  refine ⟨_, congrArg Host.Outcome.next (awaitClears_of_tie (hkept.trans htie)), ?_, hses, hhrt⟩
  exact ⟨_, List.mem_append_right _ (List.mem_singleton_self _), rfl, rfl, rfl, rfl⟩

theorem pageData_buddy {s : State} {f : Received} {k : Word} {epoch wseq page : Nat} {data : List Byte} (h : Arrives s f 8) :
    ∃ t, exec (.pageData f (.buddy k epoch wseq) page data) s = .next t ∧ t.ses = s.ses ∧ t.hrt = s.hrt ∧
      (s.twin = some f.hdr.srcPart → ∃ c ∈ t.rdg.copies, c.handle = k ∧ c.page = page ∧ c.data = data ∧
        c.epoch = epoch ∧ c.wseq = wseq) ∧
      (s.twin ≠ some f.hdr.srcPart → t.rdg.copies = s.rdg.copies) := by
  have htwin : (takenFrame s f).twin = s.twin := by
    simp only [State.twin, State.mapPart, takenFrame_map, takenFrame_part]
  have hcopies : (takenFrame s f).rdg.copies = s.rdg.copies := by rw [takenFrame_rdg]
  have hses := takenFrame_ses s f
  have hhrt := takenFrame_hrt s f
  have htie := takenFrame_tie s f
  simp only [exec_pageData, execPageData, receive_arrives h, takeBuddy, htwin]
  generalize takenFrame s f = u at *
  by_cases hfrom : s.twin = some f.hdr.srcPart
  · rw [if_neg (not_not_intro hfrom)]
    generalize hv : (u.onRdg fun r => { r with copies := _ }) = v
    have hvtie : v.tie = s.tie := hv ▸ htie
    have hvses : v.ses = s.ses := hv ▸ hses
    have hvhrt : v.hrt = s.hrt := hv ▸ hhrt
    refine ⟨_, congrArg Host.Outcome.next (awaitClears_of_tie ((sendResponse_tie ..).trans hvtie)), (sendResponse_ses ..).trans hvses,
      (sendResponse_hrt ..).trans hvhrt, fun _ => ?_, fun hno => absurd hfrom hno⟩
    rw [sendResponse_rdg, ← hv]
    exact ⟨_, List.mem_append_right _ (List.mem_singleton_self _), rfl, rfl, rfl, rfl, rfl⟩
  · rw [if_pos hfrom]
    exact ⟨_, congrArg Host.Outcome.next (awaitClears_of_tie htie), hses, hhrt, fun hyes => absurd hyes hfrom, fun _ => hcopies⟩

/-- Settles O47: each type of frame, once it is taken, by the rules of what it carries. -/
theorem deliveredFramesAct : Obligations.DeliveredFramesAct := by
  unfold Obligations.DeliveredFramesAct
  refine ⟨fun s f e g data h hepoch hdst hlen => requestFrame_extentWrite h hepoch hdst hlen,
    fun s f d q seq result h hepoch hok hasked hsent horigin hheld hout =>
      responseFrame_done h hepoch hok hasked hsent horigin hheld hout,
    fun s f region line h => invalidate_drops h,
    fun s f region r line off o data h hr hmappers hunmapping hops => acknowledge_write h hr hmappers hunmapping hops,
    fun s f c h hearly hleader => mapFrame_propose h hearly hleader,
    fun s f e cs h hearly hlater => mapFrame_laterCommit h hearly hlater,
    fun s f p w x h hearly hmissed hp hx => mapFrame_twinOf h hearly hmissed hp hx,
    fun s f page parked data h hhearth hfoothill => pageData_session h hhearth hfoothill,
    fun s f k epoch wseq page data h => pageData_buddy h⟩

end Sys2Proof.Machine

end

section
/-!
SUPPORT. Extents (R297 to R301): the lends, claims, releases, revocations and grace periods of the pool.
-/

namespace Sys2Proof.Machine

/-! ### A lend -/

/-- The state in which a lend waits for the commit of its extents. -/
def lendWaits (s : State) (o : Origin) : State := (markRunning s o).onDescriptor o fun d => { d with waitsMap := some s.localNs }

theorem execExtentLend_starts {s : State} {o : Origin} {d : InFlight} (hstart : canStart s o opLend = some d)
    (hcount : lendCount d.raw ≠ 0) (hparam : dParam d.raw ≠ 0) : execExtentLend o s =
      if !extentRoom s (lendTier d.raw) (lendCount d.raw) ||
          decide ((freeExtents s (lendTier d.raw) (lendCount d.raw)).length < lendCount d.raw) || standsBy s
      then .next (refuse s o .tierFull)
      else .next ((freeExtents s (lendTier d.raw) (lendCount d.raw)).foldl (fun s i => lendOne s o (lendTier d.raw) i)
        (lendWaits s o)) := by
  rw [execExtentLend, hstart]
  exact if_neg (by simp [hcount, hparam])

theorem descriptor_lendWaits {s : State} {o : Origin} {d : InFlight} (h : s.descriptor o = some d) :
    (lendWaits s o).descriptor o = some { d with phase := .running, waitsMap := some s.localNs, origin := o } := by
  rw [lendWaits, descriptor_onDescriptor_same, markRunning, descriptor_onDescriptor_same, h]
  rfl

/-- What a lend of one extent leaves, and the extent that it offers. -/
structure LendsOne (tier index : Nat) (s t : State) : Prop where
  ses : t.ses = s.ses
  hrt : t.hrt = s.hrt
  desc : t.desc = s.desc
  part : t.rdg.part = s.rdg.part
  lent : t.rdg.lent.map (·.handle) = s.rdg.lent.map (·.handle) ++ [mkExtent s.rdg.part tier index (nextLend s tier index)]
  counts : ∀ i, i ≠ index → nextLend t tier i = nextLend s tier i

theorem nextLend_useLend {s : State} {tier index i n : Nat} (h : i ≠ index) :
    nextLend (useLend s tier index n) tier i = nextLend s tier i := by
  have hkey : (32768 * tier + index, n).1 ≠ 32768 * tier + i := by show 32768 * tier + index ≠ _; omega
  show (if _ then _ else _) = (if _ then _ else _)
  rw [show (useLend s tier index n).rdg.lendCounts = upsert (·.1) (32768 * tier + index, n) s.rdg.lendCounts from rfl,
    upsert_other Prod.fst _ _ _ hkey]

theorem lendOne_lends (s : State) (o : Origin) (tier index : Nat) : LendsOne tier index s (lendOne s o tier index) := by
  unfold lendOne
  extract_lets n h l
  refine ⟨propose_ses .., propose_hrt .., propose_desc .., by rw [propose_proposals]; rfl, ?_, fun i hi => ?_⟩
  · rw [propose_proposals]
    exact List.map_append
  · have hcounts : nextLend (propose ((useLend s tier index n).onRdg fun r => { r with lent := r.lent ++ [l] }) (.extent h 0 0)) tier i =
        nextLend (useLend s tier index n) tier i := by
      simp only [nextLend, propose_proposals]
      rfl
    exact hcounts.trans (nextLend_useLend hi)

/-- Lends of several extents offer each under its next count (R297). -/
theorem lends_offer (o : Origin) (tier : Nat) (l : List Nat) (hl : l.Nodup) (s : State) :
    (l.foldl (fun s i => lendOne s o tier i) s).ses = s.ses ∧ (l.foldl (fun s i => lendOne s o tier i) s).hrt = s.hrt ∧
    (l.foldl (fun s i => lendOne s o tier i) s).desc = s.desc ∧
    (l.foldl (fun s i => lendOne s o tier i) s).rdg.lent.map (·.handle) =
      s.rdg.lent.map (·.handle) ++ l.map fun i => mkExtent s.rdg.part tier i (nextLend s tier i) := by
  induction l generalizing s with
  | nil => simp
  | cons i l ih =>
    obtain ⟨hnot, hrest⟩ := List.nodup_cons.mp hl
    obtain ⟨hses, hhrt, hdesc, hpart, hlent, hcounts⟩ := lendOne_lends s o tier i
    obtain ⟨hses', hhrt', hdesc', hlent'⟩ := ih hrest (lendOne s o tier i)
    rw [List.foldl_cons]
    refine ⟨hses'.trans hses, hhrt'.trans hhrt, hdesc'.trans hdesc, ?_⟩
    have hsame : (l.map fun j => mkExtent (lendOne s o tier i).rdg.part tier j (nextLend (lendOne s o tier i) tier j)) =
        l.map fun j => mkExtent s.rdg.part tier j (nextLend s tier j) :=
      List.map_congr_left fun j hj => by rw [hpart, hcounts j (ne_of_mem_of_not_mem hj hnot)]
    rw [hlent', hlent, hsame, List.append_assoc]
    rfl

theorem freeExtents_nodup (s : State) (tier n : Nat) : (freeExtents s tier n).Nodup :=
  ((List.nodup_range.filter _).sublist (List.take_sublist _ _))

theorem extentLend_lends {s : State} {o : Origin} {d : InFlight} (hstart : canStart s o opLend = some d)
    (hcount : lendCount d.raw ≠ 0) (hparam : dParam d.raw ≠ 0) (hroom : extentRoom s (lendTier d.raw) (lendCount d.raw) = true)
    (hfree : lendCount d.raw ≤ (freeExtents s (lendTier d.raw) (lendCount d.raw)).length) (hstands : standsBy s = false) :
    ∃ t e, exec (.extentLend o) s = .next t ∧
      t.rdg.lent.map (·.handle) = s.rdg.lent.map (·.handle) ++ (freeExtents s (lendTier d.raw) (lendCount d.raw)).map
        (fun i => mkExtent s.rdg.part (lendTier d.raw) i (nextLend s (lendTier d.raw) i)) ∧
      t.descriptor o = some e ∧ e.phase = .running ∧ e.waitsMap = some s.localNs ∧ t.ses = s.ses ∧ t.hrt = s.hrt := by
  obtain ⟨hses, hhrt, hdesc, hlent⟩ := lends_offer o (lendTier d.raw) _ (freeExtents_nodup s (lendTier d.raw) (lendCount d.raw))
    (lendWaits s o)
  have hnext := execExtentLend_starts hstart hcount hparam
  rw [if_neg (by simp [hroom, hstands, Nat.not_lt.mpr hfree])] at hnext
  exact ⟨_, _, hnext, hlent, (descriptor_of_desc hdesc o).trans (descriptor_lendWaits (canStart_some hstart).1), rfl, rfl, hses, hhrt⟩

/-! ### Claims, releases, revocations and grace periods -/

theorem extentClaim_asks {s : State} {h : Word} (hready : s.pwr.ready = true) (hquorum : quorumUp s = true)
    (hpart : hPart h ≠ s.rdg.part) (hup : s.partUp (hPart h) = true) (hnone : s.borrowedOf h = none)
    (hstate : extentState s.rdg.map h = some 0) :
    ∃ t, exec (.extentClaim h) s = .next t ∧ t.rdg.borrowed = s.rdg.borrowed ++ [{ handle := h, lender := hPart h }] ∧
      t.ses = s.ses ∧ t.desc = s.desc ∧ t.hrt = s.hrt := by
  refine ⟨_, (exec_extentClaim h s).trans (if_neg (by simp [hready, hquorum, hpart, hup, hnone, hstate])), ?_⟩
  refine ⟨?_, sendRequest_ses .., sendRequest_desc .., sendRequest_hrt ..⟩
  rw [sendRequest, sendFrame_rdg]
  rfl

theorem extentRevoke_revokes {s : State} {o : Origin} {d : InFlight} {l : Lent} (hstart : canStart s o opRevoke = some d)
    (hl : s.lentOf (dHandle d.raw) = some l) (hlender : l.lender = none) :
    ∃ t y, exec (.extentRevoke o) s = .next t ∧ t.lentOf (dHandle d.raw) = some y ∧ y.revokers = l.revokers ++ [o] ∧
      t.ses = s.ses ∧ t.hrt = s.hrt ∧
      (l.revokers = [] → l.state ≤ 1 →
        t.rdg.map.proposals = s.rdg.map.proposals ++ [(s.rdg.part, .extent (dHandle d.raw) 2 0)]) ∧
      (l.revokers ≠ [] → t.rdg.map.proposals = s.rdg.map.proposals) := by
  generalize hu : (markRunning s o).onLent (dHandle d.raw) (fun l => { l with revokers := l.revokers ++ [o] }) = u
  have hlent : u.lentOf (dHandle d.raw) = some { l with revokers := l.revokers ++ [o] } := by
    rw [← hu]
    exact lentOf_onLent (s := markRunning s o) (fun l => { l with revokers := l.revokers ++ [o] }) (fun _ => rfl) hl
  have hmap : u.rdg.map = s.rdg.map := hu ▸ rfl
  have hpart : u.rdg.part = s.rdg.part := hu ▸ rfl
  have hses : u.ses = s.ses := hu ▸ rfl
  have hhrt : u.hrt = s.hrt := hu ▸ rfl
  have hnext : exec (.extentRevoke o) s = if l.revokers.isEmpty && decide (l.state ≤ 1) then
      .next (propose (u.onDescriptor o fun d => { d with waitsMap := some u.localNs }) (.extent (dHandle d.raw) 2 0))
      else .next u := by
    rw [exec_extentRevoke, execExtentRevoke, hstart]
    simp only [hl, hlender, ← hu]
    exact if_neg (by simp)
  by_cases hfirst : (l.revokers.isEmpty && decide (l.state ≤ 1)) = true
  · rw [if_pos hfirst] at hnext
    refine ⟨_, { l with revokers := l.revokers ++ [o] }, hnext, ?_, rfl, (propose_ses ..).trans hses, (propose_hrt ..).trans hhrt, fun _ _ => ?_, fun hne => ?_⟩
    · rw [State.lentOf, propose_proposals]
      exact hlent
    · rw [propose_proposals]
      exact hmap ▸ hpart ▸ rfl
    · simp [hne] at hfirst
  · rw [if_neg hfirst] at hnext
    exact ⟨_, _, hnext, hlent, rfl, hses, hhrt, fun hnil hle => absurd (by simp [hnil, hle]) hfirst, fun _ => by rw [hmap]⟩

theorem gracePeriodEnd_ends {s : State} {h : Word} {l : Lent} {t0 : Nat} (hl : s.lentOf h = some l) (hat : l.graceAt = some t0)
    (hdue : t0 + graceOf s l ≤ s.localNs) (hstate : l.state = 2) (hopen : l.graceEnd = none) :
    ∃ t y, exec (.gracePeriodEnd h) s = .next t ∧ t.lentOf h = some y ∧ y.graceEnd = some s.localNs ∧
      t.rdg.map.proposals = s.rdg.map.proposals ++ [(s.rdg.part, .extent h 3 0)] ∧ t.ses = s.ses ∧ t.desc = s.desc := by
  have hnext : exec (.gracePeriodEnd h) s =
      .next (propose (s.onLent h fun l => { l with graceEnd := some s.localNs }) (.extent h 3 0)) := by
    rw [exec_gracePeriodEnd, execGracePeriodEnd, hl]
    simp only [hat]
    exact if_neg (by simp [hstate, hopen, hdue])
  have hlent : (s.onLent h fun l => { l with graceEnd := some s.localNs }).lentOf h = some { l with graceEnd := some s.localNs } :=
    lentOf_onLent _ (fun _ => rfl) hl
  refine ⟨_, { l with graceEnd := some s.localNs }, hnext, ?_, rfl, ?_, propose_ses .., propose_desc ..⟩
  · rw [State.lentOf, propose_proposals]
    exact hlent
  · rw [propose_proposals]
    rfl

/-- Settles O51: a lend by induction over the extents it offers, the other commands by their guards. -/
theorem extentsFollowTheMap : Obligations.ExtentsFollowTheMap := by
  unfold Obligations.ExtentsFollowTheMap
  refine ⟨fun s o d tier n hstart htier hn hcount hparam => ?_, fun s h hready hquorum hpart hup hnone hstate =>
      extentClaim_asks hready hquorum hpart hup hnone hstate, fun s h b hb => ⟨fun hfull => ?_, fun hgranted hempty hspare hquorum hnew => ?_⟩,
    fun s o d l hstart hl hlender => extentRevoke_revokes hstart hl hlender, fun s h l t0 hl hat => ⟨fun hearly => ?_, fun hdue hstate hopen =>
      gracePeriodEnd_ends hl hat hdue hstate hopen⟩⟩
  · subst htier hn
    refine ⟨fun hroom => ?_, extentLend_lends hstart hcount hparam⟩
    have hnext := execExtentLend_starts hstart hcount hparam
    rw [if_pos (by simp [hroom])] at hnext
    exact ⟨_, hnext, quiet_refuse .., descriptor_refuse ..⟩
  · rw [exec_extentRelease, execExtentRelease, hb]
    exact if_neg (by simp [hfull])
  · refine ⟨_, ?_, quiet_propose .., by rw [propose_proposals]⟩
    rw [exec_extentRelease, execExtentRelease, hb]
    have hahead : (b.closing || decide (borrowAhead s < (emptyExtents s).length)) = true := by simpa using hspare
    refine if_pos ?_
    rw [hgranted, hempty, hahead, hquorum, hnew]
    rfl
  · rw [exec_gracePeriodEnd, execGracePeriodEnd, hl]
    simp only [hat]
    exact if_pos (by simp [hearly])

end Sys2Proof.Machine

end

section
/-!
SUPPORT. Regions (R304 to R307, R311): creation, mappings, unmappings and seals.
-/

namespace Sys2Proof.Machine

/-! ### Mappers -/

theorem makeCoarse_keeps (r : Region) : (makeCoarse r).slot = r.slot ∧ (makeCoarse r).creating = r.creating ∧
    (makeCoarse r).tenant = r.tenant ∧ (makeCoarse r).size = r.size ∧ (makeCoarse r).pages = r.pages ∧
    (makeCoarse r).version = r.version ∧ (makeCoarse r).mappers = r.mappers := by
  unfold makeCoarse
  split <;> exact ⟨rfl, rfl, rfl, rfl, rfl, rfl, rfl⟩

/-- A mapper that joins a region: the region is otherwise as it was, and its view is the one given (R306). -/
theorem addMapper_adds (r : Region) (part view : Nat) : (addMapper r part view).slot = r.slot ∧
    (addMapper r part view).creating = r.creating ∧ (addMapper r part view).tenant = r.tenant ∧
    (addMapper r part view).size = r.size ∧ (addMapper r part view).pages = r.pages ∧
    (addMapper r part view).version = r.version ∧ viewOf (addMapper r part view) part = some view := by
  let kept : Region := { r with mappers := r.mappers.filter fun m => m.part != part }
  obtain ⟨hslot, hcreating, htenant, hsize, hpages, hversion, hmappers⟩ := makeCoarse_keeps kept
  have hnone : kept.mappers.find? (fun m => m.part == part) = none := List.find?_eq_none.mpr fun m hm => by
    simpa using (List.mem_filter.mp hm).2
  unfold addMapper
  extract_lets y
  have hy : y.slot = r.slot ∧ y.creating = r.creating ∧ y.tenant = r.tenant ∧ y.size = r.size ∧ y.pages = r.pages ∧
      y.version = r.version ∧ y.mappers = kept.mappers := by
    show (ite _ _ _ : Region).slot = _ ∧ (ite _ _ _ : Region).creating = _ ∧ (ite _ _ _ : Region).tenant = _ ∧
      (ite _ _ _ : Region).size = _ ∧ (ite _ _ _ : Region).pages = _ ∧ (ite _ _ _ : Region).version = _ ∧
      (ite _ _ _ : Region).mappers = _
    split
    · exact ⟨hslot, hcreating, htenant, hsize, hpages, hversion, hmappers⟩
    · exact ⟨rfl, rfl, rfl, rfl, rfl, rfl, rfl⟩
  obtain ⟨hyslot, hycreating, hytenant, hysize, hypages, hyversion, hymappers⟩ := hy
  refine ⟨hyslot, hycreating, hytenant, hysize, hypages, hyversion, ?_⟩
  simp [viewOf, hymappers, List.find?_append, hnone]

/-! ### Creation -/

/-- What the reservation of a region's pages leaves. -/
structure ReserveKeeps (s t : State) : Prop where
  ses : t.ses = s.ses
  desc : t.desc = s.desc
  localNs : t.localNs = s.localNs
  rdg : t.rdg = s.rdg

theorem reserveRegion_keeps {s t : State} {d : BitVec 512} {tenant spare gran : Nat} {pages : List RegionPlace} {ext : List Word}
    (h : reserveRegion s d tenant = some (t, pages, spare, gran, ext)) : ReserveKeeps s t := by
  have hself : ReserveKeeps s s := ⟨rfl, rfl, rfl, rfl⟩
  unfold reserveRegion at h
  extract_lets n extra dir fs es at h
  split at h
  · split at h
    · simp only [Option.some.injEq, Prod.mk.injEq] at h
      obtain ⟨rfl, -⟩ := h
      exact List.foldlRecOn fs _ (motive := ReserveKeeps s) hself fun t ht f _ => ⟨ht.ses, ht.desc, ht.localNs, ht.rdg⟩
    · cases h
  · split at h
    · simp only [Option.some.injEq, Prod.mk.injEq] at h
      obtain ⟨rfl, -⟩ := h
      exact hself
    · cases h
  · split at h
    · simp only [Option.some.injEq, Prod.mk.injEq] at h
      obtain ⟨rfl, -⟩ := h
      exact hself
    · cases h

/-- The generation under which a creation takes a slot. -/
def createdGen (s : State) (slot : Nat) : Nat := ((lookupBy (·.1) slot s.rdg.regionGens).map (·.2)).getD 0 + 1

/-- The region that a creation puts into a slot of a state (R304). -/
def createdRegion (s : State) (d : InFlight) (o : Origin) (slot : Nat) (pages : List RegionPlace) (spare gran : Nat)
    (ext : List Word) : Region :=
  addMapper { slot := slot, gen := createdGen s slot, tenant := d.tenant,
              shared := mapShared d.raw, digests := mapDigest d.raw, size := 0x4000000 * mapSize d.raw, creating := some o,
              pages := pages, spare := spare, spareGranules := gran, extents := ext, keyDraw := s.fbx.draws }
    s.rdg.part (mapView d.raw)

/-- The mapping that a creation makes. -/
def createdMapping (s : State) (d : InFlight) (r : Region) : Mapping :=
  { unit := mapUnit d.raw, handle := regionHandle s r, size := r.size, view := mapView d.raw, shared := r.shared,
    digest := r.digests }

/-- The state of a creation before its proposal. -/
def createdState (s : State) (d : InFlight) (o : Origin) (slot : Nat) (r : Region) : State :=
  (markRunning (((drawKey s).1.putRegion r).onRdg fun g =>
    { g with mappings := g.mappings ++ [createdMapping s d r], regionGens := upsert (·.1) (slot, createdGen s slot) g.regionGens }) o).onDescriptor o
      fun d => { d with waitsMap := some s.localNs }

/-- What a creation leaves before its proposal, and the region, the mapping and the wait that it makes. -/
theorem createdState_made (s : State) (d : InFlight) (o : Origin) {slot : Nat} {r : Region} (hslot : r.slot = slot)
    (hd : s.descriptor o = some d) : (createdState s d o slot r).ses = s.ses ∧ (createdState s d o slot r).tie = s.tie ∧
    (createdState s d o slot r).rdg.part = s.rdg.part ∧ (createdState s d o slot r).region slot = some r ∧
    createdMapping s d r ∈ (createdState s d o slot r).rdg.mappings ∧
    (createdState s d o slot r).descriptor o = some { d with phase := .running, waitsMap := some s.localNs, origin := o } := by
  unfold createdState
  generalize hv : ((drawKey s).1.putRegion r).onRdg (fun g => { g with
    mappings := g.mappings ++ [createdMapping s d r], regionGens := upsert (·.1) (slot, createdGen s slot) g.regionGens }) = v
  have hregion : v.region slot = some r := hv ▸ region_putRegion_at (drawKey s).1 hslot
  have hdesc : v.descriptor o = some d := hv ▸ hd
  have hmap : createdMapping s d r ∈ v.rdg.mappings := hv ▸ List.mem_append_right _ (List.mem_singleton_self _)
  have hses : v.ses = s.ses := hv ▸ rfl
  have htie : v.tie = s.tie := hv ▸ rfl
  have hpart : v.rdg.part = s.rdg.part := hv ▸ rfl
  refine ⟨hses, htie, hpart, hregion, hmap, ?_⟩
  rw [descriptor_onDescriptor_same, markRunning, descriptor_onDescriptor_same, hdesc]
  rfl

theorem execRegionCreate_starts {s s1 : State} {o : Origin} {d : InFlight} {slot spare gran : Nat} {pages : List RegionPlace}
    {ext : List Word} (hstart : canStart s o opRegionMap = some d) (hcreate : mapCreate d.raw = true)
    (hform : createMalformed s d.raw = false) (hslot : freeRegionSlot s = some slot) (hstands : standsBy s = false)
    (htrng : s.fbx.trngOk = true) (hreserve : reserveRegion s d.raw d.tenant = some (s1, pages, spare, gran, ext)) :
    execRegionCreate o s = .next (awaitClears s (propose (createdState s1 d o slot (createdRegion s1 d o slot pages spare gran ext))
      (.region (regionHandle s1 (createdRegion s1 d o slot pages spare gran ext)) (createdRegion s1 d o slot pages spare gran ext).shared))) := by
  rw [execRegionCreate, hstart]
  simp only [hcreate, hform, hslot, hstands, htrng, hreserve, Bool.not_true, Bool.false_eq_true, if_false]
  exact congrArg Host.Outcome.next rfl

theorem regionCreate_creates {s s1 : State} {o : Origin} {d : InFlight} {slot spare gran : Nat} {pages : List RegionPlace}
    {ext : List Word} (hstart : canStart s o opRegionMap = some d) (hcreate : mapCreate d.raw = true)
    (hform : createMalformed s d.raw = false) (hslot : freeRegionSlot s = some slot) (hstands : standsBy s = false)
    (htrng : s.fbx.trngOk = true) (hreserve : reserveRegion s d.raw d.tenant = some (s1, pages, spare, gran, ext))
    (htaken : takenUncleared s s1 = []) :
    ∃ t r m e, exec (.regionCreate o) s = .next t ∧ t.region slot = some r ∧ r.creating = some o ∧
      r.tenant = d.tenant ∧ r.size = 0x4000000 * mapSize d.raw ∧ r.pages = pages ∧ r.version = 0 ∧
      m ∈ t.rdg.mappings ∧ m.unit = mapUnit d.raw ∧ m.handle = regionHandle t r ∧ t.descriptor o = some e ∧
      e.waitsMap = some s.localNs ∧ t.ses = s.ses := by
  obtain ⟨hses, hdesc, hns, hrdg⟩ := reserveRegion_keeps hreserve
  have hnext := execRegionCreate_starts hstart hcreate hform hslot hstands htrng hreserve
  generalize hr : createdRegion s1 d o slot pages spare gran ext = r at hnext
  obtain ⟨hrslot, hcreating, htenant, hsize, hpages, hversion, -⟩ : r.slot = slot ∧ r.creating = some o ∧ r.tenant = d.tenant ∧
      r.size = 0x4000000 * mapSize d.raw ∧ r.pages = pages ∧ r.version = 0 ∧ True := by
    obtain ⟨h1, h2, h3, h4, h5, h6, -⟩ := addMapper_adds
      { slot := slot, gen := createdGen s1 slot, tenant := d.tenant, shared := mapShared d.raw, digests := mapDigest d.raw,
        size := 0x4000000 * mapSize d.raw, creating := some o, pages := pages, spare := spare, spareGranules := gran, extents := ext,
        keyDraw := s1.fbx.draws } s1.rdg.part (mapView d.raw)
    exact hr ▸ ⟨h1, h2, h3, h4, h5, h6, trivial⟩
  obtain ⟨huses, hutie, hupart, huregion, humap, hudesc⟩ := createdState_made s1 d o hrslot
    ((descriptor_of_desc hdesc o).trans (canStart_some hstart).1)
  generalize createdState s1 d o slot r = u at *
  have hclears : takenUncleared s (propose u (.region (regionHandle s1 r) r.shared)) = [] := by
    rw [takenUncleared, propose_tie, hutie]
    exact htaken
  rw [awaitClears_of_none hclears] at hnext
  refine ⟨_, r, createdMapping s1 d r, _, hnext, (region_of_regions (propose_regions ..) slot).trans huregion, hcreating, htenant, hsize,
    hpages, hversion, ?_, rfl, ?_, (descriptor_of_desc (propose_desc ..) o).trans hudesc, congrArg some hns,
    ((propose_ses ..).trans huses).trans hses⟩
  · rw [propose_proposals]
    exact humap
  · simp only [createdMapping, regionHandle, propose_proposals, hupart]

/-! ### Mappings at home -/

theorem regionMap_maps {s : State} {o : Origin} {d : InFlight} {r : Region} (hstart : canStart s o opRegionMap = some d)
    (hcreate : mapCreate d.raw = false) (hunmap : mapUnmap d.raw = false) (hform : mapMalformed s d.raw = false)
    (htenant : hTenant (dHandle d.raw) = d.tenant) (hpart : hPart (dHandle d.raw) = s.rdg.part)
    (hr : regionOf s (dHandle d.raw) = some r) (hplace : badPlace s (mapUnit d.raw) (ceilDiv r.size unitBytes) = false)
    (hview : r.shared = true ∨ mapView d.raw ≠ 2) :
    ∃ t y m, exec (.regionMap o) s = .next t ∧ t.descriptor o = none ∧ t.region r.slot = some y ∧
      viewOf y s.rdg.part = some (mapView d.raw) ∧ m ∈ t.rdg.mappings ∧ m.unit = mapUnit d.raw ∧
      m.handle = dHandle d.raw ∧ m.size = r.size ∧ t.ses = s.ses ∧ t.hrt = s.hrt := by
  let m : Mapping := { unit := mapUnit d.raw, handle := dHandle d.raw, size := r.size, view := mapView d.raw, shared := r.shared,
                       digest := r.digests }
  have hknown : s.partKnown s.rdg.part = true := by simp [State.partKnown]
  have hfits : ¬(badPlace s (mapUnit d.raw) (ceilDiv r.size unitBytes) || (!r.shared && mapView d.raw == 2)) = true := by
    rcases hview with h | h <;> simp [hplace, h]
  generalize hu : ((s.putRegion (addMapper r s.rdg.part (mapView d.raw))).onRdg fun g => { g with mappings := g.mappings ++ [m] }) = u
  have hnext : exec (.regionMap o) s = .next (complete u o [] 0) := by
    rw [exec_regionMap, execRegionMap, hstart, ← hu]
    simp only [hcreate, hunmap, hform, htenant, hknown, hpart, hr, hfits, ne_eq, not_true, decide_false, Bool.not_true, Bool.or_self,
      Bool.false_eq_true, if_false, if_true]
    exact congrArg Host.Outcome.next rfl
  obtain ⟨hslot, -, -, -, -, -, hviewOf⟩ := addMapper_adds r s.rdg.part (mapView d.raw)
  have hregion : u.region r.slot = some (addMapper r s.rdg.part (mapView d.raw)) := hu ▸ region_putRegion_at s hslot
  have hmap : m ∈ u.rdg.mappings := hu ▸ List.mem_append_right _ (List.mem_singleton_self _)
  have hses : u.ses = s.ses := hu ▸ rfl
  have hhrt : u.hrt = s.hrt := hu ▸ rfl
  have hquiet := quiet_complete u o [] 0
  exact ⟨_, _, m, hnext, descriptor_complete .., (region_of_regions (quiet_regions hquiet) _).trans hregion, hviewOf,
    quiet_mappings hquiet ▸ hmap, rfl, rfl, rfl, (quiet_ses hquiet).trans hses, (quiet_hrt hquiet).trans hhrt⟩

end Sys2Proof.Machine

end

section
/-!
SUPPORT. Unmappings and the seals of a region (R305, R311).
-/

namespace Sys2Proof.Machine

/-! ### Unmappings -/

theorem regionUnmap_unmaps {s : State} {o : Origin} {d : InFlight} {m : Mapping} (hstart : canStart s o opRegionMap = some d)
    (hcreate : mapCreate d.raw = false) (hunmap : mapUnmap d.raw = true) (htenant : hTenant (dHandle d.raw) = d.tenant)
    (hknown : s.partKnown (hPart (dHandle d.raw)) = true)
    (hm : s.rdg.mappings.find? (fun m => m.handle == dHandle d.raw) = some m)
    (hhome : m.dead = true ∨ (regionOf s (dHandle d.raw)).isSome = true) :
    ∃ t, exec (.regionUnmap o) s = .next t ∧ (∀ n ∈ t.rdg.mappings, n.handle ≠ dHandle d.raw) ∧ t.ses = s.ses ∧
      (m.dead = true → t.descriptor o = none ∧ ∀ l ∈ t.rdg.lines, l.region ≠ dHandle d.raw) := by
  generalize hu : ((snoopRegion s (dHandle d.raw) 0 m.size).onRdg fun g =>
    { g with lines := g.lines.filter fun l => l.region != dHandle d.raw }) = u
  have hsnoop := snoopKeeps_snoopRegion s (dHandle d.raw) 0 m.size
  have hses : u.ses = s.ses := hu ▸ hsnoop.ses
  have hrdg : u.rdg = { s.rdg with lines := s.rdg.lines.filter fun l => l.region != dHandle d.raw } := by
    rw [← hu, State.onRdg_rdg, hsnoop.rdg]
  have hmappings : ∀ n ∈ (dropMapping u (dHandle d.raw)).rdg.mappings, n.handle ≠ dHandle d.raw := fun n hn => by
    simpa using (List.mem_filter.mp hn).2
  have hlines : ∀ l ∈ (dropMapping u (dHandle d.raw)).rdg.lines, l.region ≠ dHandle d.raw := fun l hl => by
    simpa using (List.mem_filter.mp hl).2
  have hfound : regionOf u (dHandle d.raw) = regionOf s (dHandle d.raw) :=
    regionOf_of_ridge (by rw [hrdg]) (by rw [hrdg]) _
  have hnext : exec (.regionUnmap o) s = if m.dead then .next (complete (dropMapping u (dHandle d.raw)) o [] 0)
      else match regionOf u (dHandle d.raw) with
        | some r => .next (pumpRegion ((markRunning (dropMapping u (dHandle d.raw)) o).putRegion { (removeMapper r u.rdg.part) with
            unmapping := r.unmapping ++ [(u.rdg.part, .descriptor o)] }) r.slot)
        | none => execRegionUnmap o s := by
    rw [exec_regionUnmap]
    by_cases hdead : m.dead = true
    · rw [if_pos hdead, execRegionUnmap, hstart]
      simp only [hunmap, hcreate, htenant, hknown, hm, hdead, Bool.not_true, Bool.or_self, Bool.false_eq_true, if_false, if_true, ne_eq,
        not_true, decide_false, hu]
    · rw [if_neg hdead]
      obtain ⟨r, hr⟩ := Option.isSome_iff_exists.mp (hhome.resolve_left hdead)
      rw [hfound, hr, execRegionUnmap, hstart]
      simp only [hunmap, hcreate, htenant, hknown, hm, hdead, Bool.not_true, Bool.or_self, Bool.false_eq_true, if_false, ne_eq,
        not_true, decide_false, hu, hfound, hr]
      exact congrArg Host.Outcome.next rfl
  by_cases hdead : m.dead = true
  · rw [if_pos hdead] at hnext
    have hquiet := quiet_complete (dropMapping u (dHandle d.raw)) o [] 0
    have hkept : (complete (dropMapping u (dHandle d.raw)) o [] 0).rdg.lines = (dropMapping u (dHandle d.raw)).rdg.lines :=
      congrArg (·.lines) (quiet_rdg hquiet)
    exact ⟨_, hnext, fun n hn => hmappings n (quiet_mappings hquiet ▸ hn), (quiet_ses hquiet).trans hses, fun _ =>
      ⟨descriptor_complete .., fun l hl => hlines l (hkept ▸ hl)⟩⟩
  · obtain ⟨r, hr⟩ := Option.isSome_iff_exists.mp (hhome.resolve_left hdead)
    rw [if_neg hdead, hfound, hr] at hnext
    simp only [] at hnext
    generalize hv : (markRunning (dropMapping u (dHandle d.raw)) o).putRegion _ = v at hnext
    have hvmap : v.rdg.mappings = (dropMapping u (dHandle d.raw)).rdg.mappings := hv ▸ rfl
    have hvses : v.ses = u.ses := hv ▸ rfl
    have hwork := regionWork_pumpRegion v r.slot
    exact ⟨_, hnext, fun n hn => hmappings n (hvmap ▸ hwork.mappings ▸ hn), (hwork.ses.trans hvses).trans hses,
      fun h => absurd h hdead⟩

/-! ### Seals -/

/-- The parts of a region that a digest leaves. -/
structure SealKeeps (r y : Region) : Prop where
  access : SameAccess r y
  version : y.version = r.version
  sealedPages : y.sealedPages = r.sealedPages

theorem digestPage_region {s : State} {slot : Nat} {r : Region} (page : Nat) (device : Bool) (h : s.region slot = some r) :
    ∃ y, (digestPage s slot page device).region slot = some y ∧ SealKeeps r y := by
  have hslot := region_slot h
  simp only [digestPage, h]
  split
  · exact ⟨r, h, .refl r, rfl, rfl⟩
  · exact ⟨_, region_putRegion_at _ hslot, ⟨rfl, rfl, rfl, rfl, rfl⟩, rfl, rfl⟩

theorem digestPages_region (pages : List Nat) {s : State} {slot : Nat} {r : Region} (h : s.region slot = some r) :
    ∃ y, (pages.foldl (fun s p => digestPage s slot p false) s).region slot = some y ∧ SealKeeps r y :=
  List.foldlRecOn pages _ (motive := fun t : State => ∃ y, t.region slot = some y ∧ SealKeeps r y) ⟨r, h, .refl r, rfl, rfl⟩
    fun t ht p _ => by
      obtain ⟨x, hx, hrx⟩ := ht
      obtain ⟨y, hy, hxy⟩ := digestPage_region p false hx
      exact ⟨y, hy, hrx.access.trans hxy.access, hxy.version.trans hrx.version, hxy.sealedPages.trans hrx.sealedPages⟩

/-- The end of a seal: the next version, with no page kept aside, and its descriptor completed (R311). -/
theorem finishSeal_seals {s : State} {slot : Nat} {r : Region} (o : Origin) (h : s.region slot = some r) :
    ∃ y, (finishSeal s slot (.descriptor o)).region slot = some y ∧ SameAccess r y ∧ y.version = (r.version + 1) % 2 ^ 32 ∧
      y.sealedPages = [] ∧ (finishSeal s slot (.descriptor o)).descriptor o = none ∧
      (finishSeal s slot (.descriptor o)).ses = s.ses ∧ (finishSeal s slot (.descriptor o)).hrt = s.hrt := by
  simp only [finishSeal, h]
  obtain ⟨x, hx, hrx⟩ := digestPages_region (pagesToDigest r) h
  have honly := RegionsOnly.foldl (fun s p => regionsOnly_digestPage s slot p false) (pagesToDigest r) s
  generalize (pagesToDigest r).foldl (fun s p => digestPage s slot p false) s = u at hx honly
  rw [onRegion_eq hx]
  generalize hv : u.putRegion { x with version := (r.version + 1) % 2 ^ 32, sealedPages := [], changed := [], slot := slot } = v
  have hvregion : v.region slot = some { x with version := (r.version + 1) % 2 ^ 32, sealedPages := [], changed := [], slot := slot } :=
    hv ▸ region_putRegion_at u rfl
  have hvonly : RegionsOnly s v := honly.trans (hv ▸ regionsOnly_putRegion ..)
  obtain ⟨rs, hvrs⟩ := hvonly
  have hses : v.ses = s.ses := hvrs ▸ rfl
  have hhrt : v.hrt = s.hrt := hvrs ▸ rfl
  have hquiet := quiet_complete v o [] (word [put 31 0 ((r.version + 1) % 2 ^ 32), put 63 32 (pagesToDigest r).length])
  exact ⟨_, (region_of_regions (quiet_regions hquiet) slot).trans hvregion,
    hrx.access.trans ⟨(region_slot hx).symm, rfl, rfl, rfl, rfl⟩, rfl, rfl, descriptor_complete .., (quiet_ses hquiet).trans hses,
    (quiet_hrt hquiet).trans hhrt⟩

/-- The only operation of a region on which no part has to act, as it begins. -/
theorem awaitOp_single {s : State} {slot : Nat} {r : Region} {op : LineOp} (h : s.region slot = some r) (hops : r.ops = [op]) :
    awaitOp s slot 0 [] = s.putRegion { r with ops := [{ op with begun := true, waiting := [] }] } := by
  have hslot := region_slot h
  subst hslot
  rw [awaitOp, onRegion_eq h, hops]
  rfl

theorem regionPublish_publishes {s : State} {o : Origin} {d : InFlight} {r : Region} (hstart : canStart s o opPublish = some d)
    (hquery : publishQuery d.raw = false) (hr : publishRegion s d = some r) (hops : r.ops = []) (hlost : r.lostPages = [])
    (hmappers : r.mappers ≠ []) (hunmapping : r.unmapping = []) (hviews : ∀ m ∈ r.mappers, m.view ≠ 2) :
    ∃ t y, exec (.regionPublish o) s = .next t ∧ t.descriptor o = none ∧ t.region r.slot = some y ∧ y.ops = [] ∧
      t.ses = s.ses ∧ t.hrt = s.hrt ∧
      (r.version = publishExpected d.raw → y.version = (r.version + 1) % 2 ^ 32 ∧ y.sealedPages = []) ∧
      (r.version ≠ publishExpected d.raw → y.version = r.version ∧ y.sealedPages = r.sealedPages) := by
  have hregion : s.region r.slot = some r := by
    unfold publishRegion at hr
    split at hr
    · rename_i x hx
      split at hr
      · cases hr
        exact (regionOf_some hx).1
      · cases hr
    · cases hr
  let op : LineOp := { asker := .descriptor o, action := .sealing (publishExpected d.raw) }
  generalize hu : (markRunning s o).putRegion { r with ops := [op] } = u
  have huregion : u.region r.slot = some { r with ops := [op] } := hu ▸ region_putRegion_at (markRunning s o) rfl
  have huses : u.ses = s.ses := hu ▸ rfl
  have huhrt : u.hrt = s.hrt := hu ▸ rfl
  have hpush : pushOp (markRunning s o) r.slot (.descriptor o) (.sealing (publishExpected d.raw)) = pumpRegion u r.slot := by
    have hmarked : (markRunning s o).region r.slot = some r := hregion
    rw [pushOp, onRegion_eq hmarked, hops, ← hu]
    rfl
  have hnext : exec (.regionPublish o) s = .next (pump 2 (runOp u r.slot 0 op) r.slot) := by
    rw [← pumpRegion_single huregion rfl rfl, ← hpush, exec_regionPublish, execRegionPublish, hstart]
    simp only [hquery, Bool.false_eq_true, if_false, hr]
  by_cases hversion : r.version = publishExpected d.raw
  · have hviewers : (r.mappers.filter fun m => m.view == 2).map (·.part) = [] := by
      rw [List.filter_eq_nil_iff.mpr fun m hm => by simpa using hviews m hm, List.map_nil]
    have hrefusal : sealRefusal { r with ops := [op] } (publishExpected d.raw) = none := by simp [sealRefusal, hlost, hversion]
    have hrun : runOp u r.slot 0 op = u.putRegion { r with ops := [{ op with begun := true, waiting := [] }] } := by
      refine Eq.trans ?_ (awaitOp_single (r := { r with ops := [op] }) huregion rfl)
      simp only [runOp, huregion, op, Bool.false_eq_true, if_false, hrefusal, hviewers, List.contains_nil, List.filter_nil, List.foldl_nil]
    generalize hv : u.putRegion { r with ops := [{ op with begun := true, waiting := [] }] } = v at hrun
    have hvregion : v.region r.slot = some { r with ops := [{ op with begun := true, waiting := [] }] } :=
      hv ▸ region_putRegion_at u rfl
    have hturn : pump 2 v r.slot = pump 1 (runOp v r.slot 0 { op with begun := true, waiting := [] }) r.slot :=
      pump_turn hvregion (nextOp_single rfl)
    have hseal : runOp v r.slot 0 { op with begun := true, waiting := [] } =
        finishSeal (v.putRegion { r with ops := [] }) r.slot (.descriptor o) := by
      simp only [runOp, hvregion, op, if_true]
      rw [removeOp_single hvregion rfl]
    rw [hrun, hturn, hseal] at hnext
    generalize hw : v.putRegion { r with ops := [] } = w at hnext
    have hwregion : w.region r.slot = some { r with ops := [] } := hw ▸ region_putRegion_at v rfl
    obtain ⟨y, hy, hsame, hnew, hpages, hdone, hwses, hwhrt⟩ := finishSeal_seals o hwregion
    rw [pump_idle 1 hy hsame.ops (hsame.mappers ▸ hmappers) (hsame.unmapping.trans hunmapping)] at hnext
    have hwses' : w.ses = u.ses := hw ▸ hv ▸ rfl
    have hwhrt' : w.hrt = u.hrt := hw ▸ hv ▸ rfl
    exact ⟨_, y, hnext, hdone, region_putRegion_at _ hsame.slot, hsame.ops, (hwses.trans hwses').trans huses,
      (hwhrt.trans hwhrt').trans huhrt, fun _ => ⟨hnew, hpages⟩, fun h => absurd hversion h⟩
  · have hrefusal : sealRefusal { r with ops := [op] } (publishExpected d.raw) = some .publishConflict := by
      simp [sealRefusal, hlost, hversion]
    have hrun : runOp u r.slot 0 op = complete (u.putRegion { r with ops := [] }) o [.publishConflict] (BitVec.ofNat 64 r.version) := by
      simp only [runOp, huregion, op, Bool.false_eq_true, if_false, hrefusal, if_true]
      rw [removeOp_single huregion rfl]
    rw [hrun] at hnext
    generalize hv : u.putRegion { r with ops := [] } = v at hnext
    have hquiet := quiet_complete v o [.publishConflict] (BitVec.ofNat 64 r.version)
    have hdone := descriptor_complete v o [.publishConflict] (BitVec.ofNat 64 r.version)
    have hvregion : (complete v o [.publishConflict] (BitVec.ofNat 64 r.version)).region r.slot = some { r with ops := [] } :=
      (region_of_regions (quiet_regions hquiet) r.slot).trans (hv ▸ region_putRegion_at u rfl)
    have hvses : v.ses = u.ses := hv ▸ rfl
    have hvhrt : v.hrt = u.hrt := hv ▸ rfl
    rw [pump_idle 2 hvregion rfl hmappers hunmapping] at hnext
    exact ⟨_, _, hnext, hdone, region_putRegion_at _ rfl, rfl, ((quiet_ses hquiet).trans hvses).trans huses,
      ((quiet_hrt hquiet).trans hvhrt).trans huhrt, fun h => absurd h hversion, fun _ => ⟨rfl, rfl⟩⟩

/-- Settles O52: each command of a region by the rules of its table and of its queue of operations. -/
theorem regionsAreMappedAndSealed : Obligations.RegionsAreMappedAndSealed := by
  unfold Obligations.RegionsAreMappedAndSealed
  refine ⟨fun s s1 o d slot spare gran pages ext hstart hcreate hform hslot hstands htrng hreserve htaken =>
      regionCreate_creates hstart hcreate hform hslot hstands htrng hreserve htaken,
    fun s o d r hstart hcreate hunmap hform htenant hpart hr hplace hview =>
      regionMap_maps hstart hcreate hunmap hform htenant hpart hr hplace hview,
    fun s o d m hstart hcreate hunmap htenant hknown hm hhome => regionUnmap_unmaps hstart hcreate hunmap htenant hknown hm hhome,
    fun s o d r hstart hquery hr hops hlost hmappers hunmapping hviews =>
      regionPublish_publishes hstart hquery hr hops hlost hmappers hunmapping hviews,
    fun s o d r hstart hquery hr => ?_⟩
  have hnext : exec (.regionPublishQuery o) s =
      .next (complete s o (if r.lostPages.isEmpty then [] else [.poisoned]) (BitVec.ofNat 64 r.version)) := by
    rw [exec_regionPublishQuery, execRegionPublishQuery, hstart]
    simp only [hquery, hr, Bool.not_true, Bool.false_eq_true, if_false]
  exact ⟨_, hnext, quiet_complete .., descriptor_complete ..⟩

end Sys2Proof.Machine

end

section
/-!
SUPPORT. Bytes of a canonical memory read and written in runs.
-/

namespace Sys2Proof.Machine

theorem memReadAll_eq_map (m : List Host.Cell) (a n : Nat) : memReadAll m a n = (List.range n).map fun i => memRead m (a + i) := by
  induction n generalizing a with
  | zero => rfl
  | succ n ih =>
    rw [memReadAll, ih, List.range_succ_eq_map, List.map_cons, List.map_map]
    simp [Function.comp_def, Nat.add_assoc, Nat.add_comm 1]

@[simp] theorem memReadAll_length (m : List Host.Cell) (a n : Nat) : (memReadAll m a n).length = n := by simp [memReadAll_eq_map]

/-- Bytes that are written read back. -/
theorem memReadAll_memWriteAll {m : List Host.Cell} (a : Nat) (bs : List Byte) (h : Memory.wf m = true) :
    memReadAll (memWriteAll m a bs) a bs.length = bs := by
  rw [memReadAll_eq_map]
  refine List.ext_getElem (by simp) fun i hi hi' => ?_
  rw [List.getElem_map, List.getElem_range, memRead_memWriteAll bs m a (a + i) h, if_pos (by omega)]
  simp [hi']

end Sys2Proof.Machine

end

section
/-!
SUPPORT. Host reads and writes of the CXL.mem range (R56, R303, R309, R314).
-/

namespace Sys2Proof.Machine

/-! ### Reads -/

/-- What the errors of a read leave: everything but the hearth's counts. -/
structure ErrorsKeep (s t : State) : Prop where
  ses : t.ses = s.ses
  rdg : t.rdg = s.rdg
  mem : t.hrt.mem = s.hrt.mem

theorem errorsKeep_countCorrected (s : State) (e n : Nat) : ErrorsKeep s (countCorrected s e n) := by
  unfold countCorrected
  split <;> exact ⟨rfl, rfl, rfl⟩

theorem errorsKeep_countUncorrectable (s : State) (e : Nat) : ErrorsKeep s (countUncorrectable s e) := ⟨rfl, rfl, rfl⟩

theorem hostReadErrors_keep (s : State) (r : Region) (off : Nat) (errs : List ReadError) :
    ErrorsKeep s (hostReadErrors s r off errs).1 := by
  unfold hostReadErrors
  refine List.foldlRecOn _ _ (motive := fun p : State × Bool => ErrorsKeep s p.1) ⟨rfl, rfl, rfl⟩ fun p hp e _ => ?_
  obtain ⟨t, bad⟩ := p
  have hstep : ∀ u, ErrorsKeep t u → ErrorsKeep s u := fun u hu => ⟨hu.ses.trans hp.ses, hu.rdg.trans hp.rdg, hu.mem.trans hp.mem⟩
  dsimp only
  split
  · exact hstep (countCorrected t e.ember 1) (errorsKeep_countCorrected ..)
  · exact hstep (countUncorrectable t e.ember) (errorsKeep_countUncorrectable ..)

theorem readRegion_of {s t : State} {r y : Region} (hmem : t.hrt.mem = s.hrt.mem) (hpages : y.pages = r.pages) (hown : y.mem = r.mem)
    (off n : Nat) : readRegion t y off n = readRegion s r off n := by
  simp only [readRegion, hmem, hpages, hown]

theorem markSharer_access (r : Region) (line part : Nat) : (markSharer r line part).slot = r.slot ∧
    (markSharer r line part).ops = r.ops ∧ (markSharer r line part).mappers = r.mappers ∧
    (markSharer r line part).unmapping = r.unmapping := by
  unfold markSharer
  split
  · exact ⟨rfl, rfl, rfl, rfl⟩
  · split <;> exact ⟨rfl, rfl, rfl, rfl⟩

theorem cacheLine_keeps (s : State) (l : CachedLine) : (cacheLine s l).ses = s.ses ∧ (cacheLine s l).hrt = s.hrt ∧
    (cacheLine s l).rdg.regions = s.rdg.regions := by
  unfold cacheLine
  extract_lets same u
  split
  · exact ⟨rfl, rfl, rfl⟩
  · split
    · obtain ⟨hdrop, -⟩ := dropLine_drops u _ _
      exact ⟨hdrop.ses, hdrop.hrt, hdrop.regions⟩
    · exact ⟨rfl, rfl, rfl⟩

/-- What the end of a host's read tells the host, and what it leaves (R303, R309). -/
theorem finishRead_host {s : State} {slot : Nat} {r : Region} (off line : Nat) (bad : Bool) (h : s.region slot = some r)
    (hlost : r.lostPages.contains (line / 256) = false) :
    ∃ y, (finishRead s slot (.host off) line false bad).region slot = some y ∧ y.ops = r.ops ∧ y.mappers = r.mappers ∧
      y.unmapping = r.unmapping ∧ (finishRead s slot (.host off) line false bad).ses = s.ses ∧
      (finishRead s slot (.host off) line false bad).hrt = s.hrt ∧
      (bad = false → Output.readData (off / 64 * 64) (slice (readRegion s r (256 * line) 256) (off % 256 / 64 * 64) 64) false ∈
        (finishRead s slot (.host off) line false bad).out) ∧
      (bad = true → Output.readData (off / 64 * 64) (List.replicate 64 0xFF) true ∈
        (finishRead s slot (.host off) line false bad).out) := by
  have hslot := region_slot h
  have hread : readLine s r line false = some (readRegion s r (256 * line) 256, none) := by
    simp only [readLine, hlost, Bool.false_eq_true, if_false]
  simp only [finishRead, h, hread, Bool.false_eq_true, if_false]
  cases bad with
  | true =>
    rw [if_pos rfl]
    exact ⟨r, h, rfl, rfl, rfl, rfl, rfl, (nomatch ·), fun _ => List.mem_append_right _ (List.mem_singleton_self _)⟩
  | false =>
    rw [if_neg (by simp)]
    obtain ⟨hmslot, hops, hmappers, hunmapping⟩ := markSharer_access r line s.rdg.part
    generalize hu : s.putRegion (markSharer r line s.rdg.part) = u
    have huregion : u.region slot = some (markSharer r line s.rdg.part) := hu ▸ region_putRegion_at s (hmslot.trans hslot)
    have huses : u.ses = s.ses := hu ▸ rfl
    have huhrt : u.hrt = s.hrt := hu ▸ rfl
    generalize hl : ({ region := regionHandle s r, line := line, data := readRegion s r (256 * line) 256, version := none } : CachedLine) = l
    have hcache : ∀ v, v = (if r.shared = true then cacheLine u l else u) → v.region slot = u.region slot ∧ v.ses = u.ses ∧ v.hrt = u.hrt := by
      intro v hv
      rw [hv]
      split
      · obtain ⟨hses, hhrt, hregions⟩ := cacheLine_keeps u l
        exact ⟨region_of_regions hregions slot, hses, hhrt⟩
      · exact ⟨rfl, rfl, rfl⟩
    obtain ⟨hregion, hses, hhrt⟩ := hcache _ rfl
    refine ⟨_, hregion.trans huregion, hops, hmappers, hunmapping, hses.trans huses, hhrt.trans huhrt, fun _ => ?_, (nomatch ·)⟩
    exact List.mem_append_right _ (List.mem_singleton_self _)

/-- An operation that comes to a region on which nothing waits runs at once (R309). -/
theorem pushOp_alone {s : State} {slot : Nat} {r : Region} (a : Asker) (act : LineAction) (h : s.region slot = some r)
    (hops : r.ops = []) : pushOp s slot a act = pump 2 (runOp (s.putRegion { r with ops := [{ asker := a, action := act }] }) slot 0
      { asker := a, action := act }) slot := by
  have hslot := region_slot h
  subst hslot
  have hput : (s.putRegion { r with ops := [{ asker := a, action := act }] }).region r.slot =
      some { r with ops := [{ asker := a, action := act }] } := region_putRegion_at s rfl
  rw [← pumpRegion_single hput rfl rfl, pushOp, onRegion_eq h, hops]
  rfl

/-- An access below the digest window, or of a host that is not attached, is one of the mappings (R314). -/
theorem window_closed {s : State} {off : Nat} (h : off < digestBase ∨ s.host.attached = false) :
    (decide (digestBase ≤ off) && s.host.attached) = false := by
  rcases h with h | h
  · simp [Nat.not_le.mpr h]
  · simp [h]

theorem hostMemRead_home {s : State} {off : Nat} {errs : List ReadError} {m : Mapping} {o : Nat} {r : Region}
    (hready : s.pwr.ready = true) (hrange : off < digestBase ∨ s.host.attached = false) (hm : mappingAt s off = some (m, o))
    (hlive : m.dead = false) (hview : m.view ≠ 2) (hnone : cached s m.handle (o / 256) false = none)
    (hr : regionOf s m.handle = some r) (hops : r.ops = []) (hmappers : r.mappers ≠ []) (hunmapping : r.unmapping = [])
    (hlost : r.lostPages.contains (o / 256 / 256) = false) :
    ∃ t, exec (.hostMemRead off errs) s = .next t ∧ t.ses = s.ses ∧ t.hrt.mem = s.hrt.mem ∧
      t.hrt = (hostReadErrors s r o errs).1.hrt ∧
      ((hostReadErrors s r o errs).2 = false →
        Output.readData (off / 64 * 64) (slice (readRegion s r (256 * (o / 256)) 256) (off % 256 / 64 * 64) 64) false ∈ t.out) ∧
      ((hostReadErrors s r o errs).2 = true → Output.readData (off / 64 * 64) (List.replicate 64 0xFF) true ∈ t.out) := by
  have hsealed : (m.view == 2) = false := by simpa using hview
  have hwindow := window_closed hrange
  have hkeep := hostReadErrors_keep s r o errs
  have hnext : exec (.hostMemRead off errs) s = .next (pushOp (hostReadErrors s r o errs).1 r.slot (.host off)
      (.read (o / 256) false (hostReadErrors s r o errs).2)) := by
    rw [exec_hostMemRead, execHostMemRead]
    simp only [hready, hwindow, hm, hlive, hsealed, hnone, hr, Bool.not_true, Bool.false_eq_true, if_false]
  generalize (hostReadErrors s r o errs).2 = bad at *
  generalize (hostReadErrors s r o errs).1 = u at *
  have huregion : u.region r.slot = some r := (region_of_regions (by rw [hkeep.rdg]) _).trans (regionOf_some hr).1
  rw [pushOp_alone (.host off) (.read (o / 256) false bad) huregion hops] at hnext
  generalize hv : u.putRegion { r with ops := [{ asker := .host off, action := .read (o / 256) false bad }] } = v at hnext
  have hvregion : v.region r.slot = some { r with ops := [{ asker := .host off, action := .read (o / 256) false bad }] } :=
    hv ▸ region_putRegion_at u rfl
  have hrun : runOp v r.slot 0 { asker := .host off, action := .read (o / 256) false bad } =
      finishRead (v.putRegion { r with ops := [] }) r.slot (.host off) (o / 256) false bad := by
    simp only [runOp, hvregion]
    rw [removeOp_single hvregion rfl]
  rw [hrun] at hnext
  generalize hw : v.putRegion { r with ops := [] } = w at hnext
  have hwregion : w.region r.slot = some { r with ops := [] } := hw ▸ region_putRegion_at v rfl
  have hwses : w.ses = u.ses := hw ▸ hv ▸ rfl
  have hwhrt : w.hrt = u.hrt := hw ▸ hv ▸ rfl
  obtain ⟨y, hy, hyops, hymappers, hyunmapping, hses, hhrt, hgood, hbad⟩ := finishRead_host off (o / 256) bad hwregion hlost
  rw [pump_idle 2 hy hyops (hymappers ▸ hmappers) (hyunmapping.trans hunmapping)] at hnext
  have hread : readRegion w { r with ops := [] } (256 * (o / 256)) 256 = readRegion s r (256 * (o / 256)) 256 :=
    readRegion_of ((congrArg Hearth.mem hwhrt).trans hkeep.mem) rfl rfl _ _
  refine ⟨_, hnext, (hses.trans hwses).trans hkeep.ses, ?_, hhrt.trans hwhrt, fun h => hread ▸ hgood h, fun h => hbad h⟩
  exact (congrArg Hearth.mem (hhrt.trans hwhrt)).trans hkeep.mem

/-! ### Writes -/

/-- The bytes that a state and a region hold at an offset. -/
def Holds (s : State) (r : Region) (off : Nat) (data : List Byte) : Prop := readRegion s r off data.length = data

theorem Holds.of {s t : State} {r y : Region} {off : Nat} {data : List Byte} (h : Holds s r off data)
    (hmem : t.hrt.mem = s.hrt.mem) (hpages : y.pages = r.pages) (hown : y.mem = r.mem) : Holds t y off data :=
  (readRegion_of hmem hpages hown off data.length).trans h

theorem writeRegionBytes_holds {s : State} {slot : Nat} {r : Region} (off : Nat) (data : List Byte) (h : s.region slot = some r)
    (hs : Memory.wf s.hrt.mem = true) (hown : Memory.wf r.mem = true) :
    ∃ y, (writeRegionBytes s slot off data).region slot = some y ∧ SameAccess r y ∧
      Holds (writeRegionBytes s slot off data) y off data := by
  have hslot := region_slot h
  simp only [writeRegionBytes, h, Holds]
  split
  · rename_i f hf
    refine ⟨r, h, .refl r, ?_⟩
    simp only [readRegion, hf]
    exact memReadAll_memWriteAll _ data hs
  · rename_i e page hpage
    refine ⟨_, (region_of_regions ?_ slot).trans (region_putRegion_at s (r := { r with mem := memWriteAll r.mem off data }) hslot),
      ⟨rfl, rfl, rfl, rfl, rfl⟩, ?_⟩
    · simp [sendRequest]
    · simp only [readRegion, hpage]
      exact memReadAll_memWriteAll off data hown
  · rename_i hframe hpool
    refine ⟨_, region_putRegion_at _ hslot, ⟨rfl, rfl, rfl, rfl, rfl⟩, ?_⟩
    unfold readRegion
    split
    · exact absurd ‹_› (hframe _)
    · exact memReadAll_memWriteAll off data hown

theorem keepSealed_bytes {s : State} {slot : Nat} {r : Region} (page : Nat) (h : s.region slot = some r) :
    ∃ y, (keepSealed s slot page).region slot = some y ∧ SameAccess r y ∧ y.pages = r.pages ∧ y.mem = r.mem ∧
      (keepSealed s slot page).hrt = s.hrt := by
  have hslot := region_slot h
  simp only [keepSealed, h]
  split
  · exact ⟨r, h, .refl r, rfl, rfl, rfl⟩
  · exact ⟨_, region_putRegion_at _ hslot, ⟨rfl, rfl, rfl, rfl, rfl⟩, rfl, rfl, rfl⟩

/-- Bytes written to a region by the host read back (R303). -/
theorem hostWriteRegion_holds {s : State} {slot : Nat} {r : Region} (off : Nat) (data : List Byte) (h : s.region slot = some r)
    (hs : Memory.wf s.hrt.mem = true) (hown : Memory.wf r.mem = true) :
    ∃ y, (hostWriteRegion s slot off data).region slot = some y ∧ SameAccess r y ∧
      Holds (hostWriteRegion s slot off data) y off data := by
  obtain ⟨x, hx, hrx, -, hxmem, hxhrt⟩ := keepSealed_bytes (off / 65536) h
  obtain ⟨y, hy, hxy, hholds⟩ := writeRegionBytes_holds off data hx (hxhrt ▸ hs) (hxmem ▸ hown)
  unfold hostWriteRegion
  extract_lets page
  rw [onRegion_eq hy]
  exact ⟨_, region_putRegion_at _ rfl, (hrx.trans hxy).trans ⟨(region_slot hy).symm, rfl, rfl, rfl, rfl⟩, hholds.of rfl rfl rfl⟩

theorem finishWrite_holds {s : State} {slot : Nat} {r : Region} (off line offset : Nat) (data : List Byte)
    (h : s.region slot = some r) (hlost : r.lostPages.contains (line / 256) = false) (hs : Memory.wf s.hrt.mem = true)
    (hown : Memory.wf r.mem = true) :
    ∃ y, (finishWrite s slot (.host off) line offset data).region slot = some y ∧
      Holds (finishWrite s slot (.host off) line offset data) y (256 * line + offset) data := by
  have hslot := region_slot h
  have hput : (s.putRegion { r with directory := r.directory.filter fun d => d.1 != line }).region slot =
      some { r with directory := r.directory.filter fun d => d.1 != line } := region_putRegion_at _ hslot
  obtain ⟨y, hy, -, hholds⟩ := hostWriteRegion_holds (256 * line + offset) data hput hs hown
  simp only [finishWrite, h, hlost, Bool.false_eq_true, if_false]
  exact ⟨y, hy, hholds.of rfl rfl rfl⟩

theorem memories_canonical {s : State} (h : memoriesCanonical s = true) :
    Memory.wf s.hrt.mem = true ∧ ∀ n r, s.region n = some r → Memory.wf r.mem = true := by
  unfold memoriesCanonical at h
  obtain ⟨hmem, hregions⟩ := Bool.and_eq_true_iff.mp h
  exact ⟨hmem, fun n r hr => List.all_eq_true.mp hregions r (lookup_mem hr).1⟩

theorem hostMemWrite_home {s : State} {off : Nat} {data : List Byte} {m : Mapping} {o : Nat} {r : Region}
    (hready : s.pwr.ready = true) (hline : off % 64 + data.length ≤ 64) (hrange : off < digestBase ∨ s.host.attached = false)
    (hm : mappingAt s off = some (m, o)) (hview : m.view = 0) (hlive : m.dead = false) (hr : regionOf s m.handle = some r)
    (hops : r.ops = []) (hmappers : r.mappers ≠ []) (hunmapping : r.unmapping = []) (hshared : sharersOf r (o / 256) = [])
    (hlost : r.lostPages.contains (o / 256 / 256) = false) (hcanonical : memoriesCanonical s = true) :
    ∃ t y, exec (.hostMemWrite off data) s = .next t ∧ t.region r.slot = some y ∧
      readRegion t y o data.length = data ∧ Output.writeDone off ∈ t.out ∧ t.ses = s.ses ∧ t.desc = s.desc := by
  have hwindow := window_closed hrange
  have hregion := (regionOf_some hr).1
  obtain ⟨hmem, hown⟩ := memories_canonical hcanonical
  let op : LineOp := { asker := .host off, action := .write (o / 256) (o % 256) data }
  have hnext : exec (.hostMemWrite off data) s = .next (pushOp s r.slot (.host off) (.write (o / 256) (o % 256) data)) := by
    rw [exec_hostMemWrite, execHostMemWrite]
    rw [if_neg (by simp [hready, hline])]
    simp only [hwindow, hm, hview, hlive, hr, Bool.false_eq_true, if_false, ne_eq, not_true]
  rw [pushOp_alone (.host off) (.write (o / 256) (o % 256) data) hregion hops] at hnext
  generalize hv : s.putRegion { r with ops := [{ asker := .host off, action := .write (o / 256) (o % 256) data }] } = v at hnext
  have hvregion : v.region r.slot = some { r with ops := [op] } := hv ▸ region_putRegion_at s rfl
  have hshared' : sharersOf { r with ops := [op] } (o / 256) = [] := hshared
  have hbegin : runOp v r.slot 0 op = v.putRegion { r with ops := [{ op with begun := true, waiting := [] }] } := by
    refine Eq.trans ?_ (awaitOp_single (r := { r with ops := [op] }) hvregion rfl)
    simp only [runOp, hvregion, op, Bool.false_eq_true, if_false]
    rw [hshared']
    rfl
  rw [show ({ asker := .host off, action := .write (o / 256) (o % 256) data } : LineOp) = op from rfl, hbegin] at hnext
  generalize hw : v.putRegion { r with ops := [{ op with begun := true, waiting := [] }] } = w at hnext
  have hwregion : w.region r.slot = some { r with ops := [{ op with begun := true, waiting := [] }] } := hw ▸ region_putRegion_at v rfl
  have hturn : pump 2 w r.slot = pump 1 (runOp w r.slot 0 { op with begun := true, waiting := [] }) r.slot :=
    pump_turn hwregion (nextOp_single rfl)
  have hrun : runOp w r.slot 0 { op with begun := true, waiting := [] } =
      finishWrite (w.putRegion { r with ops := [] }) r.slot (.host off) (o / 256) (o % 256) data := by
    simp only [runOp, hwregion, op, if_true]
    rw [removeOp_single hwregion rfl]
  rw [hturn, hrun] at hnext
  generalize hx : w.putRegion { r with ops := [] } = x at hnext
  have hxregion : x.region r.slot = some { r with ops := [] } := hx ▸ region_putRegion_at w rfl
  have hxhrt : x.hrt = s.hrt := hx ▸ hw ▸ hv ▸ rfl
  have hxses : x.ses = s.ses := hx ▸ hw ▸ hv ▸ rfl
  have hxdesc : x.desc = s.desc := hx ▸ hw ▸ hv ▸ rfl
  obtain ⟨y, hy, hsame, hout, hses, hdesc⟩ := finishWrite_host off (o / 256) (o % 256) data hxregion
  obtain ⟨z, hz, hholds⟩ := finishWrite_holds off (o / 256) (o % 256) data hxregion hlost (hxhrt ▸ hmem) (hown r.slot r hregion)
  obtain rfl : y = z := Option.some.inj (hy.symm.trans hz)
  rw [pump_idle 1 hy hsame.ops (hsame.mappers ▸ hmappers) (hsame.unmapping.trans hunmapping)] at hnext
  have hoff : 256 * (o / 256) + o % 256 = o := Nat.div_add_mod o 256
  rw [hoff] at hholds
  exact ⟨_, y, hnext, region_putRegion_at _ hsame.slot, hholds.of rfl rfl rfl, hout ▸ List.mem_append_right _ (List.mem_singleton_self _),
    hses.trans hxses, hdesc.trans hxdesc⟩

/-- Settles O53: each access by what lies at its address; at home by the only operation of its region. -/
theorem hostReadsAndWritesRegions : Obligations.HostReadsAndWritesRegions := by
  unfold Obligations.HostReadsAndWritesRegions
  refine ⟨fun s off errs hready hrange => ⟨fun hm => ?_, fun m o hm hdead => ?_, fun m o l hm hlive hl => ?_,
      fun m o r hm hlive hview hnone hr hops hmappers hunmapping hlost =>
        hostMemRead_home hready hrange hm hlive hview hnone hr hops hmappers hunmapping hlost⟩,
    fun s off errs hready hatt hwin hnone => ?_, fun s off data hready hline => ⟨fun hatt hwin => ?_, fun hrange hm => ?_,
      fun m o hrange hm hview => ?_, fun m o r hrange hm hview hlive hr hops hmappers hunmapping hshared hlost hcanonical =>
        hostMemWrite_home hready hline hrange hm hview hlive hr hops hmappers hunmapping hshared hlost hcanonical⟩⟩
  · refine ⟨poisonRead (s.onDgn fun d => { d with cxlUnmapped := bump 16 d.cxlUnmapped }) off, ?_, rfl, rfl, rfl, Nat.min_comm _ _⟩
    rw [exec_hostMemRead, execHostMemRead]
    simp only [hready, window_closed hrange, hm, Bool.not_true, Bool.false_eq_true, if_false]
  · rw [exec_hostMemRead, execHostMemRead]
    simp only [hready, window_closed hrange, hm, hdead, Bool.not_true, Bool.false_eq_true, if_false, if_true]
  · rw [exec_hostMemRead, execHostMemRead]
    simp only [hready, window_closed hrange, hm, hlive, hl, Bool.not_true, Bool.false_eq_true, if_false]
  · rw [exec_hostMemRead, execHostMemRead]
    simp only [hready, hatt, hwin, decide_true, Bool.and_self, Bool.not_true, Bool.false_eq_true, if_false, if_true, readWindow, hnone]
  · rw [exec_hostMemWrite, execHostMemWrite, if_neg (by simp [hready, hline])]
    exact if_pos (by simp [hatt, hwin])
  · rw [exec_hostMemWrite, execHostMemWrite, if_neg (by simp [hready, hline])]
    simp only [window_closed hrange, hm, Bool.false_eq_true, if_false]
  · rw [exec_hostMemWrite, execHostMemWrite, if_neg (by simp [hready, hline])]
    simp only [window_closed hrange, hm, Bool.false_eq_true, if_false]
    exact if_pos hview

end Sys2Proof.Machine

end

section
/-!
SUPPORT. What the copies for the twin leave (R346, R348): of a session only its count of acknowledgements changes.
-/

namespace Sys2Proof.Machine

/-- A session without its count of outstanding acknowledgements. -/
def Session.unacked (x : Session) : Session := { x with acks := 0 }

/-- What sending to the twin leaves: of the sessions all but their counts of acknowledgements. -/
structure CopyKeeps (s t : State) : Prop where
  hrt : t.hrt = s.hrt
  tie : t.tie = s.tie
  fbx : t.fbx = s.fbx
  crn : t.crn = s.crn
  desc : t.desc = s.desc
  twinState : t.rdg.twinState = s.rdg.twinState
  floor : t.ses.floor = s.ses.floor
  gate : t.ses.gate = s.ses.gate
  sessions : ∀ n, (t.session n).map Session.unacked = (s.session n).map Session.unacked

theorem CopyKeeps.refl (s : State) : CopyKeeps s s := ⟨rfl, rfl, rfl, rfl, rfl, rfl, rfl, rfl, fun _ => rfl⟩

theorem CopyKeeps.trans {s t u : State} (h : CopyKeeps s t) (g : CopyKeeps t u) : CopyKeeps s u :=
  ⟨g.hrt.trans h.hrt, g.tie.trans h.tie, g.fbx.trans h.fbx, g.crn.trans h.crn, g.desc.trans h.desc, g.twinState.trans h.twinState,
    g.floor.trans h.floor, g.gate.trans h.gate, fun n => (g.sessions n).trans (h.sessions n)⟩

theorem CopyKeeps.foldl {α : Type} {f : State → α → State} (h : ∀ s a, CopyKeeps s (f s a)) (l : List α) (s : State) :
    CopyKeeps s (l.foldl f s) :=
  List.foldlRecOn l f (motive := CopyKeeps s) (.refl s) fun t ht a _ => ht.trans (h t a)

/-- Only frames go out. -/
theorem CopyKeeps.of_ses {s t : State} (hses : t.ses = s.ses) (hhrt : t.hrt = s.hrt) (htie : t.tie = s.tie) (hfbx : t.fbx = s.fbx)
    (hcrn : t.crn = s.crn) (hdesc : t.desc = s.desc) (htwin : t.rdg.twinState = s.rdg.twinState) : CopyKeeps s t :=
  ⟨hhrt, htie, hfbx, hcrn, hdesc, htwin, by rw [hses], by rw [hses], fun n => by rw [session_of_ses hses]⟩

theorem copyKeeps_sendFrame (s : State) (part type cls : Nat) (p : Payload) (tenant req : Nat) (obj : Word) (d : Nat) (st : Status)
    (tw : Bool) : CopyKeeps s (sendFrame s part type cls p tenant req obj d st tw) :=
  .of_ses (sendFrame_ses ..) (sendFrame_hrt ..) (sendFrame_tie ..) (sendFrame_fbx ..) (sendFrame_crn ..) (sendFrame_desc ..)
    (by rw [sendFrame_rdg])

theorem copyKeeps_sendRequest (s : State) (part cls : Nat) (r : Request) (tenant : Nat) (obj : Word) (d : Nat) (tw : Bool)
    (about : Option Nat) (o : Option Origin) : CopyKeeps s (sendRequest s part cls r tenant obj d tw about o).1 :=
  .of_ses (sendRequest_ses ..) (sendRequest_hrt ..) (sendRequest_tie ..) (sendRequest_fbx ..) (sendRequest_crn ..)
    (sendRequest_desc ..) (by rw [sendRequest, sendFrame_rdg]; rfl)

theorem copyKeeps_askTwin (s : State) (cls : Nat) (r : Request) (tenant : Nat) (object : Word) :
    CopyKeeps s (askTwin s cls r tenant object) := by
  unfold askTwin
  split
  · split
    · exact copyKeeps_sendRequest ..
    · exact .refl s
  · exact .refl s

theorem copyKeeps_sendSlotEntry (s : State) (slot : Nat) : CopyKeeps s (sendSlotEntry s slot) := by
  unfold sendSlotEntry
  split
  · exact .refl s
  · exact copyKeeps_askTwin ..

theorem copyKeeps_sendBuddy (s : State) (x : Session) (page epoch wseq : Nat) (data : List Byte) :
    CopyKeeps s (sendBuddy s x page epoch wseq data) := by
  unfold sendBuddy
  split
  · exact copyKeeps_sendFrame ..
  · exact .refl s

/-- A change of the count of acknowledgements of one session. -/
theorem copyKeeps_acks (s : State) (slot : Nat) (f : Nat → Nat) : CopyKeeps s (s.onSession slot fun x => { x with acks := f x.acks }) := by
  refine ⟨by simp, by simp, by simp, by simp, by simp, by simp, ?_, ?_, fun n => ?_⟩
  · unfold State.onSession; split <;> rfl
  · unfold State.onSession; split <;> rfl
  · rcases Decidable.em (n = slot) with rfl | hn
    · rcases hx : s.session n with _ | x
      · rw [State.onSession, hx, hx]
      · rw [session_onSession_same s _ hx, ← session_slot hx]
        rfl
    · rw [session_onSession_other s _ hn]

theorem copyKeeps_sendRecordCopy (s : State) (slot : Nat) : CopyKeeps s (sendRecordCopy s slot) := by
  unfold sendRecordCopy
  split
  · exact .refl s
  · split
    · exact .refl s
    · exact (copyKeeps_sendBuddy ..).trans (copyKeeps_acks _ _ (· + 1))

theorem copyKeeps_sendFresh (s : State) (slot : Nat) (all : Bool) : CopyKeeps s (sendFresh s slot all) := by
  unfold sendFresh
  extract_lets u
  have hu : CopyKeeps s u := copyKeeps_sendRecordCopy ..
  split
  · exact hu
  · split
    · refine hu.trans (CopyKeeps.foldl (fun s p => ?_) _ u)
      split
      · exact copyKeeps_sendBuddy ..
      · exact .refl s
    · exact hu

/-- What a session keeps while copies of it are sent. -/
theorem CopyKeeps.session_some {s t : State} (h : CopyKeeps s t) {n : Nat} {x : Session} (hx : s.session n = some x) :
    ∃ a, t.session n = some { x with acks := a } := by
  have hmap := h.sessions n
  rw [hx, Option.map_some, Option.map_eq_some_iff] at hmap
  obtain ⟨y, hy, hsame⟩ := hmap
  refine ⟨y.acks, hy.trans (congrArg some ?_)⟩
  have heq : { y.unacked with acks := y.acks } = ({ x.unacked with acks := y.acks } : Session) := by rw [hsame]
  exact heq

theorem CopyKeeps.session_none {s t : State} (h : CopyKeeps s t) {n : Nat} (hx : s.session n = none) : t.session n = none := by
  have hmap := h.sessions n
  rwa [hx, Option.map_none, Option.map_eq_none_iff] at hmap

end Sys2Proof.Machine

end

section
/-!
SUPPORT. The twin pair (R315, R316, R337, R349 to R353).
-/

namespace Sys2Proof.Machine

/-! ### Pairing and service -/

theorem write_twinCtl {s : State} (v : Word) (h : s.pwr.ready = true) :
    writeRegister s 0x70028 8 v = s.onRdg fun r => { r with twinCtl := masked v 0xBFF } := by
  rw [writeRegister_served s _ v (by decide) (by decide) (served_of_ready _ h)]; rfl

theorem twinPropose_proposes {s : State} {val : Word} (hready : s.pwr.ready = true) (hbit : bit val 10 = true) :
    ∃ t, exec (.twinPropose val) s = .next t ∧ t.ses = s.ses ∧ t.desc = s.desc ∧ t.hrt = s.hrt ∧
      t.rdg.twinState = (if s.rdg.twinState = 2 then 2 else 1) ∧
      t.rdg.map.proposals = s.rdg.map.proposals ++ [(s.rdg.part, .twinOf s.rdg.part (fld val 9 0))] := by
  let u := (s.onRdg fun r => { r with twinCtl := masked val 0xBFF }).onRdg fun r => { r with twinState := if r.twinState = 2 then 2 else 1 }
  have hnext : exec (.twinPropose val) s = .next (propose u (.twinOf s.rdg.part (fld val 9 0))) := by
    rw [exec_twinPropose, execTwinPropose, write_twinCtl val hready, if_neg (by simp [hready])]
    exact if_pos hbit
  refine ⟨_, hnext, propose_ses .., propose_desc .., propose_hrt .., ?_, ?_⟩
  · rw [propose_proposals]; rfl
  · rw [propose_proposals]; rfl

/-- The secret of the pair is agreed, and is not an old one (R337). -/
theorem agreeSecret_agrees (s : State) : (agreeSecret s).fbx.pairSecret.isSome = true ∧ (agreeSecret s).fbx.oldSecret = false ∧
    (agreeSecret s).ses = s.ses ∧ (agreeSecret s).hrt = s.hrt := by
  unfold agreeSecret
  split
  · rename_i h
    rw [Bool.and_eq_true, Bool.not_eq_true'] at h
    exact ⟨h.1, h.2, rfl, rfl⟩
  · refine ⟨rfl, rfl, ?_, ?_⟩
    · dsimp only [drawKey, State.onFbx]
      split <;> rfl
    · dsimp only [drawKey, State.onFbx]
      split <;> rfl

theorem twinInService_serves {s : State} (hready : s.pwr.ready = true) (hstate : s.rdg.twinState ≠ 2) (hreach : twinReachable s = true)
    (hrestore : restoringAny s = false) (htrng : s.fbx.trngOk = true) :
    ∃ t, exec .twinInService s = .next t ∧ t.rdg.twinState = 2 ∧ t.fbx.pairSecret.isSome = true ∧
      t.fbx.oldSecret = false ∧ t.hrt = s.hrt ∧
      ∀ n x, s.session n = some x → ∃ y, t.session n = some y ∧ y.log = x.log ∧ y.state = x.state := by
  obtain ⟨hsecret, hold, hses, hhrt⟩ := agreeSecret_agrees s
  have hexec : exec .twinInService s = _ := (exec_twinInService s).trans (if_neg (by simp [hready, hstate, hreach, hrestore, htrng]))
  refine ⟨_, hexec, ?_⟩
  generalize hu : ((agreeSecret s).onRdg fun r => { r with twinState := 2 }) = u
  have husecret : u.fbx.pairSecret.isSome = true := hu ▸ hsecret
  have huold : u.fbx.oldSecret = false := hu ▸ hold
  have huses : u.ses = s.ses := hu ▸ hses
  have huhrt : u.hrt = s.hrt := hu ▸ hhrt
  have hutwin : u.rdg.twinState = 2 := hu ▸ rfl
  generalize hv : (u.onRdg fun r => { r with copies := r.copies.filter (copyMatches u) }) = v
  have huv : CopyKeeps u v := hv ▸ .of_ses rfl rfl rfl rfl rfl rfl rfl
  generalize hw : askTwin v 0 (.genFloor v.ses.floor) 0 (mkHandle v.rdg.part 0 0 0) = w
  have hvw : CopyKeeps v w := hw ▸ copyKeeps_askTwin ..
  generalize hx : (w.ses.table.map (·.slot)).foldl sendSlotEntry w = x
  have hwx : CopyKeeps w x := hx ▸ CopyKeeps.foldl (fun s n => copyKeeps_sendSlotEntry s n) _ w
  have hfresh := CopyKeeps.foldl (fun s n => copyKeeps_sendFresh s n false) (copyOrder x)
    (x.onCrn fun c => { c with resync := !(copyOrder x).isEmpty })
  have hux := (huv.trans hvw).trans hwx
  refine ⟨(hfresh.twinState.trans hux.twinState).trans hutwin, ?_, ?_, (hfresh.hrt.trans hux.hrt).trans huhrt, fun n y hy => ?_⟩
  · rw [hfresh.fbx]; exact hux.fbx ▸ husecret
  · rw [hfresh.fbx]; exact hux.fbx ▸ huold
  · obtain ⟨a, ha⟩ := hux.session_some ((session_of_ses huses n).trans hy)
    obtain ⟨b, hb⟩ := hfresh.session_some ha
    exact ⟨_, hb, rfl, rfl⟩

/-! ### Out of service -/

/-- What settling its acknowledgements makes of a session (R350): a PARK that waited takes effect. -/
structure Settled (x y : Session) : Prop where
  log : y.log = x.log
  acks : y.acks = 0
  parkWaits : y.parkWaits = none
  stays : x.parkWaits = none → y.state = x.state
  parks : x.parkWaits.isSome = true → y.state = .parked

theorem Settled.trans {x y z : Session} (h : Settled x y) (g : Settled y z) : Settled x z :=
  ⟨g.log.trans h.log, g.acks, g.parkWaits, fun hx => (g.stays h.parkWaits).trans (h.stays hx),
    fun hx => (g.stays h.parkWaits).trans (h.parks hx)⟩

/-- What settling the acknowledgements of one session leaves: the hearth, and every other session. -/
structure SettleKeeps (slot : Nat) (s t : State) : Prop where
  hrt : t.hrt = s.hrt
  twinState : t.rdg.twinState = s.rdg.twinState
  others : ∀ n, n ≠ slot → t.session n = s.session n

theorem SettleKeeps.trans {slot : Nat} {s t u : State} (h : SettleKeeps slot s t) (g : SettleKeeps slot t u) : SettleKeeps slot s u :=
  ⟨g.hrt.trans h.hrt, g.twinState.trans h.twinState, fun n hn => (g.others n hn).trans (h.others n hn)⟩

theorem settleKeeps_onSession (s : State) (slot : Nat) (f : Session → Session) : SettleKeeps slot s (s.onSession slot f) :=
  ⟨State.onSession_hrt .., by rw [State.onSession_rdg], fun _ hn => session_onSession_other s f hn⟩

theorem quiet_sendRecord (s : State) (o : Origin) (cls : Nat) (r : FlueRecord) : (sendRecord s o cls r).quiet = s.quiet := by
  unfold sendRecord
  split
  · rfl
  · split
    · rfl
    · split
      · rfl
      · exact quiet_sendResponse ..

theorem quiet_session {s t : State} (h : t.quiet = s.quiet) (n : Nat) : t.session n = s.session n := session_of_ses (quiet_ses h) n

/-- The records that a session held are let go. -/
theorem releaseRecords_quiet (s : State) (slot : Nat) :
    (releaseRecords s slot).quiet = (s.onSession slot fun x => { x with heldRecords := [] }).quiet := by
  unfold releaseRecords State.onSession
  split
  · rename_i h; rw [h]
  · rename_i x h
    rw [h]
    have hslot := session_slot h
    subst hslot
    exact quiet_foldl _ (fun s r => quiet_sendRecord ..) _ _

theorem askTwin_ses (s : State) (cls : Nat) (r : Request) (tenant : Nat) (object : Word) :
    (askTwin s cls r tenant object).ses = s.ses := by
  unfold askTwin
  split
  · split
    · exact sendRequest_ses ..
    · rfl
  · rfl

theorem sendSlotEntry_ses (s : State) (slot : Nat) : (sendSlotEntry s slot).ses = s.ses := by
  unfold sendSlotEntry
  split
  · rfl
  · exact askTwin_ses ..

theorem freeFrames_keeps (s : State) (pages : List Page) : (freeFrames s pages).ses = s.ses ∧ (freeFrames s pages).hrt = s.hrt ∧
    (freeFrames s pages).rdg = s.rdg :=
  List.foldlRecOn pages _ (motive := fun t : State => t.ses = s.ses ∧ t.hrt = s.hrt ∧ t.rdg = s.rdg) ⟨rfl, rfl, rfl⟩ fun t ht p _ => by
    split
    · exact ht
    · exact ht

/-- The session that a PARK leaves (R92). -/
def parkedSession (now : Nat) (placed : List Page) (x : Session) : Session :=
  { x with pages := placed, parkPlaced := [], state := .parked, parkedAt := now }

/-- The waiting PARK of a session takes effect (R92). -/
theorem commitPark_session {s : State} {slot : Nat} {x : Session} (placed : List Page) (h : s.session slot = some x) :
    (commitPark s slot placed).session slot = some { parkedSession s.localNs placed x with slot := slot } := by
  simp only [commitPark, h]
  have hx : (freeFrames s x.pages).session slot = some x := (session_of_ses (freeFrames_keeps s x.pages).1 slot).trans h
  rw [session_of_ses (sendSlotEntry_ses ..)]
  exact session_onSession_same _ (parkedSession s.localNs placed) hx

theorem settleKeeps_commitPark (s : State) (slot : Nat) (placed : List Page) : SettleKeeps slot s (commitPark s slot placed) := by
  unfold commitPark
  split
  · exact ⟨rfl, rfl, fun _ _ => rfl⟩
  · rename_i x h
    obtain ⟨hses, hhrt, hrdg⟩ := freeFrames_keeps s x.pages
    refine ⟨?_, ?_, fun n hn => ?_⟩
    · rw [(copyKeeps_sendSlotEntry ..).hrt, State.onSession_hrt, hhrt]
    · rw [(copyKeeps_sendSlotEntry ..).twinState, State.onSession_rdg, hrdg]
    · rw [session_of_ses (sendSlotEntry_ses ..), session_onSession_other _ _ hn, session_of_ses hses]

theorem SettleKeeps.of_quiet {s t : State} (slot : Nat) (h : t.quiet = s.quiet) : SettleKeeps slot s t :=
  ⟨quiet_hrt h, congrArg (·.twinState) (quiet_rdg h), fun n _ => quiet_session h n⟩

theorem settleKeeps_releaseRecords (s : State) (slot : Nat) : SettleKeeps slot s (releaseRecords s slot) :=
  (settleKeeps_onSession s slot _).trans (.of_quiet slot (releaseRecords_quiet s slot))

theorem settleKeeps_settleAcks (s : State) (slot : Nat) : SettleKeeps slot s (settleAcks s slot) := by
  unfold settleAcks
  extract_lets a b c d
  have hb : SettleKeeps slot s b := (settleKeeps_onSession s slot _).trans (t := a) ⟨rfl, rfl, fun _ _ => rfl⟩
  have hc : SettleKeeps slot b c := settleKeeps_releaseRecords b slot
  have hd : SettleKeeps slot c d := by
    show SettleKeeps slot c (match (c.session slot).bind (·.parkWaits) with | some (o, r) => _ | none => c)
    split
    · exact ((settleKeeps_commitPark ..).trans (settleKeeps_onSession ..)).trans (.of_quiet slot (quiet_complete ..))
    · exact ⟨rfl, rfl, fun _ _ => rfl⟩
  exact ((hb.trans hc).trans hd).trans (.of_quiet slot (quiet_finishEnded d))

/-- Settling the acknowledgements of a session (R350). -/
theorem settleAcks_settles {s : State} {slot : Nat} {x : Session} (h : s.session slot = some x) :
    ∃ y, (settleAcks s slot).session slot = some y ∧ Settled x y := by
  unfold settleAcks
  extract_lets a b c d
  have hb : b.session slot = some { x with acks := 0, copied := true, slot := slot } := session_onSession_same s _ h
  have hc : c.session slot = some { x with acks := 0, copied := true, slot := slot, heldRecords := [] } :=
    (quiet_session (releaseRecords_quiet b slot) slot).trans (session_onSession_same b _ hb)
  rw [quiet_session (quiet_finishEnded d) slot]
  rcases hwaits : x.parkWaits with _ | ⟨o, r⟩
  · have heq : d = c := by
      show (match (c.session slot).bind (·.parkWaits) with | some (o, r) => _ | none => c) = c
      rw [hc, Option.bind_some, hwaits]
    rw [heq]
    exact ⟨_, hc, rfl, rfl, hwaits, fun _ => rfl, fun hsome => by rw [hwaits] at hsome; cases hsome⟩
  · have heq : d = complete ((commitPark c slot (((c.session slot).map (·.parkPlaced)).getD [])).onSession slot fun x =>
        { x with parkWaits := none }) o [] (BitVec.ofNat 64 r) := by
      show (match (c.session slot).bind (·.parkWaits) with | some (o, r) => _ | none => c) = _
      rw [hc, Option.bind_some, hwaits]
    have hpark := commitPark_session (((c.session slot).map (·.parkPlaced)).getD []) hc
    have hleft := session_onSession_same _ (fun x => { x with parkWaits := none }) hpark
    rw [heq, quiet_session (quiet_complete ..) slot]
    exact ⟨_, hleft, rfl, rfl, rfl, fun hnone => (nomatch hwaits.symm.trans hnone), fun _ => rfl⟩

/-- Settling the acknowledgements of several slots settles each session among them. -/
theorem settleAll_settles (l : List Nat) {s : State} {n : Nat} {x : Session} (hn : n ∈ l) (h : s.session n = some x) :
    ∃ y, (l.foldl settleAcks s).session n = some y ∧ Settled x y := by
  induction l generalizing s x with
  | nil => cases hn
  | cons k l ih =>
    rw [List.foldl_cons]
    rcases Decidable.em (n = k) with rfl | hk
    · obtain ⟨y, hy, hsettled⟩ := settleAcks_settles h
      by_cases hagain : n ∈ l
      · obtain ⟨z, hz, hlater⟩ := ih hagain hy
        exact ⟨z, hz, hsettled.trans hlater⟩
      · refine ⟨y, ?_, hsettled⟩
        exact List.foldlRecOn l settleAcks (motive := fun t : State => t.session n = some y) hy fun t ht m hm =>
          ((settleKeeps_settleAcks t m).others n fun heq => hagain (heq ▸ hm)).trans ht
    · have hin : n ∈ l := (List.mem_cons.mp hn).resolve_left hk
      exact ih hin (((settleKeeps_settleAcks s k).others n hk).trans h)

/-- A session that a table maps. -/
theorem session_mapTable (s : State) (f : Session → Session) (hf : ∀ x, (f x).slot = x.slot) (g : Sessions → Sessions)
    (hg : (g s.ses).table = s.ses.table.map f) (n : Nat) : (s.onSess g).session n = (s.session n).map f := by
  rw [State.session, State.onSess_ses, hg]
  exact lookupBy_map Session.slot f hf n s.ses.table

theorem twinOutOfService_settles {s : State} (hreach : twinReachable s = false) (hstate : s.rdg.twinState = 2) :
    ∃ t, exec .twinOutOfService s = .next t ∧ t.rdg.twinState = 3 ∧ t.crn.resync = false ∧ t.hrt = s.hrt ∧
      ∀ n x, s.session n = some x → ∃ y, t.session n = some y ∧ y.log = x.log ∧ y.copied = false ∧
        y.acks = 0 ∧ y.parkWaits = none ∧ (x.parkWaits = none → y.state = (if x.state = .restoring then .lost else x.state)) ∧
        (x.parkWaits.isSome = true → y.state = .parked) := by
  have hexec : exec .twinOutOfService s = _ := (exec_twinOutOfService s).trans (if_neg (by simp [hreach, hstate]))
  refine ⟨_, hexec, ?_⟩
  generalize hu : loseRestoring (s.onRdg fun r => { r with twinState := 3 }) = u
  have husession : ∀ n, u.session n = (s.session n).map fun x => if x.state = .restoring then { x with state := .lost } else x :=
    fun n => hu ▸ session_mapTable (s.onRdg fun r => { r with twinState := 3 }) _ (fun x => by split <;> rfl) _ rfl n
  have huhrt : u.hrt = s.hrt := hu ▸ rfl
  have hutwin : u.rdg.twinState = 3 := hu ▸ rfl
  generalize hv : (u.ses.table.map (·.slot)).foldl settleAcks u = v
  have hvkeep : v.hrt = u.hrt ∧ v.rdg.twinState = u.rdg.twinState :=
    hv ▸ List.foldlRecOn _ settleAcks (motive := fun t : State => t.hrt = u.hrt ∧ t.rdg.twinState = u.rdg.twinState) ⟨rfl, rfl⟩
      fun t ht n _ => have h := settleKeeps_settleAcks t n; ⟨h.hrt.trans ht.1, h.twinState.trans ht.2⟩
  refine ⟨hvkeep.2.trans hutwin, rfl, hvkeep.1.trans huhrt, fun n x hx => ?_⟩
  have hux := (husession n).trans (congrArg (Option.map _) hx)
  rw [Option.map_some] at hux
  have hslot : n ∈ u.ses.table.map (·.slot) := List.mem_map.mpr ⟨_, (lookup_mem hux).1, (lookup_mem hux).2⟩
  obtain ⟨y, hy, hsettled⟩ := settleAll_settles _ hslot hux
  rw [hv] at hy
  have hleft : (v.onSess fun t => { t with table := t.table.map fun x => { x with copied := false } }).session n =
      some { y with copied := false } := by
    rw [session_mapTable v (fun x => { x with copied := false }) (fun _ => rfl) _ rfl n, hy]
    rfl
  have hsame : ∀ z : Session, z = (if x.state = .restoring then { x with state := .lost } else x) →
      z.log = x.log ∧ z.parkWaits = x.parkWaits ∧ z.state = if x.state = .restoring then .lost else x.state := fun z hz => by
    rw [hz]
    split <;> exact ⟨rfl, rfl, rfl⟩
  obtain ⟨hlog, hwaits, hstate'⟩ := hsame _ rfl
  exact ⟨_, hleft, hsettled.log.trans hlog, rfl, hsettled.acks, hsettled.parkWaits,
    fun hnone => (hsettled.stays (hwaits.trans hnone)).trans hstate', fun hsome => hsettled.parks ((congrArg Option.isSome hwaits).trans hsome)⟩

/-! ### Restoration -/

/-- The state in which a restoration lists and restores (R351). -/
def restoreState (s : State) (floor : Nat) : State := s.onSess fun t => { t with floor := max t.floor floor, gate := false }

theorem execTwinRestore_starts {s : State} {floor : Nat} {entries : List SlotEntry} {sessions : List Restored}
    (hready : s.pwr.ready = true) (hstate : s.rdg.twinState ≠ 2) (hup : s.twin.any s.partUp = true) :
    execTwinRestore floor entries sessions s =
      .next (awaitClears s (sessions.foldl restoreOne (entries.foldl listSlot (restoreState s floor)))) := by
  unfold execTwinRestore
  rw [if_neg (by simp [hready, hstate, hup])]
  rfl

theorem twinRestore_lists {s : State} {floor : Nat} {e : SlotEntry} (hready : s.pwr.ready = true) (hstate : s.rdg.twinState ≠ 2)
    (hup : s.twin.any s.partUp = true) (hnone : s.session e.slot = none) :
    ∃ t, exec (.twinRestore floor [e] []) s = .next t ∧ t.ses.floor = max s.ses.floor floor ∧ t.ses.gate = false ∧
      t.hrt = s.hrt ∧ (e.durability = 0 → t.session e.slot = none) ∧
      (e.durability ≠ 0 → ∃ y, t.session e.slot = some y ∧ y.state = .restoring ∧ y.gen = e.gen) := by
  have hnext := (exec_twinRestore floor [e] [] s).trans (execTwinRestore_starts hready hstate hup)
  have hfree : (restoreState s floor).session e.slot = none := hnone
  simp only [List.foldl_cons, List.foldl_nil, listSlot, hfree] at hnext
  by_cases hdurable : e.durability = 0
  · rw [if_pos hdurable, awaitClears_of_tie (s := s) (t := restoreState s floor) rfl] at hnext
    exact ⟨_, hnext, rfl, rfl, rfl, fun _ => hnone, fun hno => absurd hdurable hno⟩
  · rw [if_neg hdurable, awaitClears_of_tie (s := s) (t := (restoreState s floor).putSession _) rfl] at hnext
    exact ⟨_, hnext, rfl, rfl, rfl, fun hyes => absurd hyes hdurable, fun _ => ⟨_, session_putSession_at _ rfl, rfl, rfl⟩⟩

/-- What taking a session into its slot leaves, and the session that it puts there (R351). -/
theorem installSession_session (s : State) (x : Session) : (∃ a, (installSession s x).session x.slot = some { x with acks := a }) ∧
    (installSession s x).hrt = s.hrt ∧ (installSession s x).tie = s.tie := by
  unfold installSession
  extract_lets u v
  have hu : u.session x.slot = some x := session_putSession_at s rfl
  have hv : ∃ w, CopyKeeps w v ∧ w.session x.slot = some x ∧ w.hrt = s.hrt ∧ w.tie = s.tie := by
    show ∃ w, CopyKeeps w (ite _ _ _) ∧ _
    split
    · exact ⟨u.onSess fun t => { t with floor := x.gen + 1 }, copyKeeps_askTwin .., hu, rfl, rfl⟩
    · exact ⟨u, .refl u, hu, rfl, rfl⟩
  obtain ⟨w, hwv, hw, hhrt, htie⟩ := hv
  have hall := hwv.trans ((copyKeeps_sendSlotEntry v x.slot).trans (copyKeeps_sendRecordCopy _ x.slot))
  exact ⟨hall.session_some hw, hall.hrt.trans hhrt, hall.tie.trans htie⟩

/-- A session that comes without pages is taken as it was recorded (R351). -/
theorem installHanded_bare (s : State) {r : Restored} (pages : List (Nat × List Byte)) (h : r.hasPages = false) :
    (∃ y, (installHanded s r pages).session r.slot = some y ∧ y.log = r.log ∧ y.gen = r.gen ∧ y.tenant = r.tenant ∧
      y.state = if r.parked then .parked else .resident) ∧
    (installHanded s r pages).hrt = s.hrt ∧ (installHanded s r pages).tie = s.tie := by
  have hnone : cameAlong r pages = [] := by rw [cameAlong, h]; rfl
  have hgrammar : (useHandedGrammar (drawKey s).1 r).hrt = s.hrt ∧ (useHandedGrammar (drawKey s).1 r).tie = s.tie := by
    unfold useHandedGrammar
    split <;> exact ⟨rfl, rfl⟩
  have heq : ∃ u missing, u = useHandedGrammar (drawKey s).1 r ∧ installHanded s r pages =
      sendFresh (installSession u (handedSession u r (drawKey s).2 missing)) r.slot := by
    unfold installHanded
    simp only [hnone, List.isEmpty_nil, if_true]
    split
    · exact ⟨_, _, rfl, rfl⟩
    · exact ⟨_, _, rfl, rfl⟩
  obtain ⟨u, missing, rfl, heq⟩ := heq
  obtain ⟨⟨a, ha⟩, hhrt, htie⟩ := installSession_session (useHandedGrammar (drawKey s).1 r)
    (handedSession (useHandedGrammar (drawKey s).1 r) r (drawKey s).2 missing)
  have hfresh := copyKeeps_sendFresh (installSession (useHandedGrammar (drawKey s).1 r)
    (handedSession (useHandedGrammar (drawKey s).1 r) r (drawKey s).2 missing)) r.slot false
  obtain ⟨b, hb⟩ := hfresh.session_some ha
  rw [heq]
  exact ⟨⟨_, hb, rfl, rfl, rfl, rfl⟩, (hfresh.hrt.trans hhrt).trans hgrammar.1, (hfresh.tie.trans htie).trans hgrammar.2⟩

/-- The pages of a session that arrived before its record (R351). -/
def arrivedFor (s : State) (r : Restored) : List (Nat × List Byte) :=
  (s.rdg.arriving.filter fun a => a.handle == mkHandle s.rdg.part r.tenant r.slot r.gen).map fun a => (a.page, a.data)

theorem twinRestore_restores {s : State} {floor : Nat} {r : Restored} {x : Session} (hready : s.pwr.ready = true)
    (hstate : s.rdg.twinState ≠ 2) (hup : s.twin.any s.partUp = true) (hx : s.session r.slot = some x) (hlost : x.state = .restoring)
    (hgen : x.gen = r.gen) (htrng : s.fbx.trngOk = true) (hpages : r.hasPages = false) :
    ∃ t y, exec (.twinRestore floor [] [r]) s = .next t ∧ t.session r.slot = some y ∧ y.log = r.log ∧ y.gen = r.gen ∧
      y.tenant = r.tenant ∧ y.state = (if r.parked then .parked else .resident) ∧ t.crn.takeoverSeen = true ∧ t.hrt = s.hrt := by
  have hnext := (exec_twinRestore floor [] [r] s).trans (execTwinRestore_starts hready hstate hup)
  have hfound : (restoreState s floor).session r.slot = some x := hx
  have hdraw : (restoreState s floor).fbx.trngOk = true := htrng
  generalize hu : ((restoreState s floor).onRdg fun g =>
    { g with arriving := g.arriving.filter fun a => a.handle != mkHandle (restoreState s floor).rdg.part r.tenant r.slot r.gen }) = u
  have huhrt : u.hrt = s.hrt := hu ▸ rfl
  have hutie : u.tie = s.tie := hu ▸ rfl
  obtain ⟨⟨y, hy, hlog, hygen, htenant, hystate⟩, hhrt, htie⟩ := installHanded_bare u
    (arrivedFor (restoreState s floor) r) hpages
  have hone : restoreOne (restoreState s floor) r = sessionEvent (((installHanded u r (arrivedFor (restoreState s floor) r)).onCrn fun c =>
      { c with takeoverSeen := true })) y 7 y.log.length := by
    have hcond : (decide (x.gen = r.gen) && (restoreState s floor).fbx.trngOk && (decide (x.state = .restoring) ||
        ((decide (x.epoch < r.epoch) || decide (x.epoch = r.epoch) && decide (x.wseq < r.wseq)) && !isActive x &&
          decide (x.tenant = r.tenant)))) = true := by simp [hgen, hdraw, hlost]
    unfold restoreOne
    simp only [hfound]
    rw [if_pos hcond, if_pos hlost, hu]
    have hseen : ((installHanded u r (arrivedFor (restoreState s floor) r)).onCrn fun c =>
        { c with takeoverSeen := true }).session r.slot = some y := hy
    rw [arrivedFor] at hseen ⊢
    rw [hseen]
  simp only [List.foldl_cons, List.foldl_nil, hone] at hnext
  generalize installHanded u r _ = v at hnext hy hhrt htie
  rw [awaitClears_of_tie (by rw [sessionEvent_tie]; exact htie.trans hutie)] at hnext
  refine ⟨_, y, hnext, ?_, hlog, hygen, htenant, hystate, ?_, ?_⟩
  · rw [session_of_ses (sessionEvent_ses ..)]
    exact hy
  · rw [sessionEvent_crn]
    rfl
  · rw [sessionEvent_hrt]
    exact hhrt.trans huhrt

/-! ### Takeover -/

theorem proposes_all (cs : List MapChange) (s : State) : (cs.foldl propose s).ses = s.ses ∧ (cs.foldl propose s).desc = s.desc ∧
    (cs.foldl propose s).rdg.part = s.rdg.part ∧
    (cs.foldl propose s).rdg.map.proposals = s.rdg.map.proposals ++ cs.map fun c => (s.rdg.part, c) := by
  induction cs generalizing s with
  | nil => simp
  | cons c cs ih =>
    obtain ⟨hses, hdesc, hpart, hproposals⟩ := ih (propose s c)
    rw [List.foldl_cons]
    refine ⟨hses.trans (propose_ses ..), hdesc.trans (propose_desc ..), hpart.trans (by rw [propose_proposals]), ?_⟩
    rw [hproposals, propose_proposals, List.map_cons, List.append_assoc]
    rfl

/-- Settles O54: each step of the pair by what it leaves of the sessions. -/
theorem twinPairKeepsLogs : Obligations.TwinPairKeepsLogs := by
  unfold Obligations.TwinPairKeepsLogs
  refine ⟨fun s val hready hbit => twinPropose_proposes hready hbit,
    fun s hready hstate hreach hrestore htrng => twinInService_serves hready hstate hreach hrestore htrng,
    fun s => ⟨fun hreach => (exec_twinOutOfService s).trans (if_pos (by simp [hreach])), twinOutOfService_settles⟩,
    fun s floor e hready hstate hup hnone => twinRestore_lists hready hstate hup hnone,
    fun s floor r x hready hstate hup hx hlost hgen htrng hpages =>
      twinRestore_restores hready hstate hup hx hlost hgen htrng hpages,
    fun s p standby t0 e q hready htwin hdown he hestate hself hother hq hqstate => ⟨fun hearly => ?_, fun hdue hnew => ?_⟩⟩
  · rw [exec_takeover, execTakeover, htwin, hdown, he]
    exact if_pos (by simp [hearly])
  · obtain ⟨hses, hdesc, -, hproposals⟩ := proposes_all (takeoverChanges p standby s.rdg.part e.address) s
    have hcond : ¬(!s.pwr.ready || decide (e.state ≠ 1) || decide (standby = s.rdg.part) || decide (standby = p) ||
        !((s.mapPart p).any fun x => x.state == 2) || decide (s.localNs < t0 + rejoinWait s) ||
        s.rdg.map.proposals.contains (s.rdg.part, .part p e.address 1)) = true := by
      rw [hnew, hq]
      simp [hready, hestate, hself, hother, hqstate, hdue]
    have hnext : exec (.takeover standby) s = .next (((takeoverChanges p standby s.rdg.part e.address).foldl propose s).onCrn fun c =>
        { c with takeovers := sat 8 (c.takeovers + 1) }) := by
      rw [exec_takeover, execTakeover, htwin, hdown, he]
      simp only []
      rw [if_neg hcond]
    generalize (takeoverChanges p standby s.rdg.part e.address).foldl propose s = v at *
    exact ⟨_, hnext, hses, hdesc, hproposals⟩

end Sys2Proof.Machine

end

section
/-!
SUPPORT. Sessions apart from their KV: what moving and rebuilding KV leaves of every session, and the session that a
descriptor starts on.
-/

namespace Sys2Proof.Machine

/-! ### The session of a descriptor -/

theorem findSession_ok {s : State} {d : InFlight} {x : Session} (h : findSession s d = .ok x) :
    s.session x.slot = some x ∧ x.slot = hSlot (dHandle d.raw) := by
  unfold findSession at h
  extract_lets w at h
  split at h
  · cases h
  · split at h
    · cases h
    · split at h
      · cases h
      · split at h
        · cases h
        · rename_i y hy
          have hslot := session_slot hy
          have hfound : y = x → s.session x.slot = some x ∧ x.slot = hSlot (dHandle d.raw) := fun heq =>
            heq ▸ ⟨hslot ▸ hy, hslot⟩
          split at h
          · cases h
          · split at h
            · cases h
            · cases h
            · split at h
              · cases h
              · exact hfound (Except.ok.inj h)
            · split at h <;> cases h
            · split at h
              · cases h
              · exact hfound (Except.ok.inj h)

theorem sessionGate_ok {s : State} {d : InFlight} {lenient : Bool} {x : Session} (h : sessionGate s d lenient = .ok x) :
    findSession s d = .ok x := by
  unfold sessionGate at h
  split at h
  · cases h
  · split at h
    · cases h; assumption
    · split at h
      · cases h
      · split at h
        · cases h
        · cases h; assumption

/-- The session on which a descriptor starts stands in its slot (R87). -/
theorem startSession_ok {s : State} {o : Origin} {op : Nat} {lenient : Bool} {d : InFlight} {x : Session}
    (h : startSession s o op lenient = some (d, .ok x)) :
    canStart s o op = some d ∧ s.session x.slot = some x ∧ x.state ≠ .restoring ∧ x.slot = hSlot (dHandle d.raw) ∧
      s.ses.gate = false := by
  unfold startSession at h
  split at h
  · cases h
  · rename_i e he
    split at h
    · cases h
    · rename_i hgate
      split at h
      · rename_i y hy
        split at h
        · cases h
        · rename_i hstate
          cases h
          obtain ⟨hx, hslot⟩ := findSession_ok (sessionGate_ok hy)
          exact ⟨he, hx, hstate, hslot, by simpa using hgate⟩
      · cases h

/-! ### What work on KV leaves of the sessions -/

/-- A session without what stores, rebuilds and copies its KV. -/
def Session.core (x : Session) : Session :=
  { x with pages := [], layers := [], summaries := [], parkPlaced := [], acks := 0, kvLost := none, conflict := false, wseq := 0,
           epoch := 0, lastCommit := 0 }

/-- Every session but for its KV stands. -/
structure CoreKeeps (s t : State) : Prop where
  sessions : ∀ n, (t.session n).map Session.core = (s.session n).map Session.core

theorem CoreKeeps.refl (s : State) : CoreKeeps s s := ⟨fun _ => rfl⟩

theorem CoreKeeps.trans {s t u : State} (h : CoreKeeps s t) (g : CoreKeeps t u) : CoreKeeps s u :=
  ⟨fun n => (g.sessions n).trans (h.sessions n)⟩

theorem CoreKeeps.of_ses {s t : State} (h : t.ses = s.ses) : CoreKeeps s t := ⟨fun n => by rw [session_of_ses h]⟩

theorem CoreKeeps.foldl {α : Type} {f : State → α → State} (h : ∀ s a, CoreKeeps s (f s a)) (l : List α) (s : State) :
    CoreKeeps s (l.foldl f s) :=
  List.foldlRecOn l f (motive := CoreKeeps s) (.refl s) fun t ht a _ => ht.trans (h t a)

theorem CoreKeeps.session_some {s t : State} (h : CoreKeeps s t) {n : Nat} {x : Session} (hx : s.session n = some x) :
    ∃ y, t.session n = some y ∧ y.core = x.core := by
  have hn := h.sessions n
  rw [hx, Option.map_some, Option.map_eq_some_iff] at hn
  exact hn

theorem CopyKeeps.core {s t : State} (h : CopyKeeps s t) : CoreKeeps s t := by
  refine ⟨fun n => ?_⟩
  have hn := congrArg (Option.map Session.core) (h.sessions n)
  rw [Option.map_map, Option.map_map] at hn
  exact hn

/-- A change of one session's KV. -/
theorem coreKeeps_onSession (s : State) (slot : Nat) {f : Session → Session} (hf : ∀ x, (f x).core = x.core) :
    CoreKeeps s (s.onSession slot f) := by
  refine ⟨fun n => ?_⟩
  rcases Decidable.em (n = slot) with rfl | hn
  · rcases hx : s.session n with _ | x
    · rw [State.onSession, hx, hx]
    · rw [session_onSession_same s f hx]
      have hslot := session_slot hx
      refine congrArg some ?_
      have hkey : ({ f x with slot := n } : Session).core = { (f x).core with slot := n } := rfl
      rw [hkey, hf, ← hslot]
      rfl
  · rw [session_onSession_other s f hn]

theorem takeFrames_ses (l : List Nat) (tenant : Nat) (s : State) : (l.foldl (fun s n => takeFrame s tenant n) s).ses = s.ses :=
  List.foldlRecOn l _ (motive := fun t : State => t.ses = s.ses) rfl fun _ ht _ _ => ht

theorem placeGroup_ses {s t : State} {i : Image} {x : Session} {k g : Nat} {pages : List Nat} {got : List (Nat × Nat)}
    (h : placeGroup s i x k g pages = some (t, got)) : t.ses = s.ses := by
  unfold placeGroup at h
  split at h
  · cases h
  · extract_lets ns at h
    cases h
    exact takeFrames_ses ..

/-- Pages that are placed take frames only. -/
theorem placePages_ses {s t : State} {i : Image} {x : Session} {pages : List Nat} {got : List (Nat × Nat)}
    (h : placePages s i x pages = some (t, got)) : t.ses = s.ses := by
  unfold placePages at h
  refine foldl_option_inv (P := fun p : State × List (Nat × Nat) => p.1.ses = s.ses) (fun _ => rfl) (fun p b q hp hq => ?_) _ (s, []) rfl h
  obtain ⟨u, done⟩ := p
  obtain ⟨k, g, ps⟩ := b
  dsimp only at hq
  split at hq
  · cases hq
  · rename_i hplace
    cases hq
    exact (placeGroup_ses hplace).trans hp

theorem freeFrames_ses (s : State) (pages : List Page) : (freeFrames s pages).ses = s.ses := (freeFrames_keeps s pages).1

theorem freeGranules_ses (s : State) (tenant g : Nat) : (freeGranules s tenant g).ses = s.ses := by
  unfold freeGranules
  split <;> rfl

theorem freeSessionPages_ses (s : State) (x : Session) : (freeSessionPages s x).ses = s.ses :=
  (freeGranules_ses ..).trans (freeFrames_ses ..)

theorem coreKeeps_dropKv (s : State) (slot : Nat) : CoreKeeps s (dropKv s slot) := by
  unfold dropKv
  split
  · exact .refl s
  · exact (CoreKeeps.of_ses (freeSessionPages_ses ..)).trans (coreKeeps_onSession _ _ fun _ => rfl)

theorem coreKeeps_addPages (s : State) (slot : Nat) (got : List (Nat × Nat)) : CoreKeeps s (addPages s slot got) :=
  coreKeeps_onSession _ _ fun _ => rfl

theorem writeContents_ses (s : State) (x : Session) (w : PageWrites) (pages : List Nat) : (writeContents s x w pages).ses = s.ses :=
  foldl_keeps State.ses _ (fun s p => by
    split
    · split <;> rfl
    · rfl) x.pages s

theorem coreKeeps_writePages (s : State) (slot : Nat) (w : PageWrites) : CoreKeeps s (writePages s slot w) := by
  unfold writePages
  split
  · exact .refl s
  · exact (CoreKeeps.of_ses ((writeContents_ses ..).trans (writeContents_ses ..))).trans (coreKeeps_onSession _ _ fun _ => rfl)

theorem coreKeeps_tellShares (s : State) (x : Session) (act : ShareAct) : CoreKeeps s (tellShares s x act) :=
  CoreKeeps.foldl (fun _ _ => .of_ses (sendRequest_ses ..)) _ s

theorem coreKeeps_sessionEvent (s : State) (x : Session) (code detail : Nat) (st : Status) :
    CoreKeeps s (sessionEvent s x code detail st) := .of_ses (sessionEvent_ses ..)

/-- A session that is rebuilt is RESIDENT, and otherwise as it was but for its KV (R130). -/
theorem rebuildOnce_session {s t : State} {slot : Nat} {why : Status} {x : Session} (h : rebuildOnce s slot why = some t)
    (hx : s.session slot = some x) : ∃ y, t.session slot = some y ∧ y.core = { x.core with state := .resident } := by
  obtain ⟨y, hy, hcore⟩ := (coreKeeps_dropKv s slot).session_some hx
  unfold rebuildOnce at h
  split at h
  · cases h
  rename_i y' hy'
  obtain rfl : y = y' := Option.some.inj (hy.symm.trans hy')
  extract_lets d i w layers u blocks want at h
  have hlayers : CoreKeeps d u := coreKeeps_onSession _ _ fun _ => rfl
  obtain ⟨z, hz, hzcore⟩ := hlayers.session_some hy
  split at h
  · cases h
  · obtain ⟨⟨v, got⟩, hplace, hlast⟩ := Option.map_eq_some_iff.mp h
    dsimp only at hlast
    have hv : v.session slot = some z := (session_of_ses (placePages_ses hplace) slot).trans hz
    obtain ⟨w, hw, hwcore⟩ := (coreKeeps_addPages v slot got).session_some hv
    generalize hb : (addPages v slot got).onSession slot _ = b at hlast
    have hbs : ∃ e, b.session slot = some e ∧ e.core = { x.core with state := .resident } := by
      refine ⟨_, hb ▸ session_onSession_same _ _ hw, ?_⟩
      have hall : w.core = x.core := hwcore.trans (hzcore.trans hcore)
      have hslot := session_slot hw
      subst hslot
      exact congrArg (fun x : Session => { x with state := .resident }) hall
    obtain ⟨e, he, hecore⟩ := hbs
    generalize hc : (sendSlotEntry _ slot).onDgn _ = c at hlast
    have hbc : CoreKeeps b c := by
      rw [← hc]
      exact ((coreKeeps_writePages ..).trans (copyKeeps_sendSlotEntry ..).core).trans (.of_ses rfl)
    obtain ⟨f, hf, hfcore⟩ := hbc.session_some he
    rw [hf] at hlast
    dsimp only at hlast
    have hend : CoreKeeps c t := hlast ▸ ((coreKeeps_tellShares c f .rebuild).trans (copyKeeps_sendFresh ..).core).trans
      (coreKeeps_sessionEvent ..)
    obtain ⟨g, hg, hgcore⟩ := hend.session_some hf
    exact ⟨g, hg, hgcore.trans (hfcore.trans hecore)⟩

end Sys2Proof.Machine

end

section
/-!
SUPPORT. Cairns (R356 to R362): the write of one slot, schedules, restorations and triggers.
-/

namespace Sys2Proof.Machine

/-! ### The write of a slot -/

theorem quiet_deliver (s : State) (o : Origin) (addr : Nat) (data : List Byte) : (deliver s o addr data).quiet = s.quiet := by
  cases o with
  | qp q n => exact quiet_emit ..
  | ridge part req => exact quiet_sendResponse ..

theorem quiet_haltArmer (s : State) (o : Origin) (addr : Nat) : (haltArmer s o addr).quiet = s.quiet := by
  cases o with
  | qp q n => exact quiet_dmaHalt ..
  | ridge part req => rfl

/-- The session that a cairn's write leaves: unsealed, or sealed under its next number (R357). -/
def unsealedSlot (x : Session) (a : Nat) : Session := { x with cairnSlots := x.cairnSlots.filter fun p => p.1 != a }

def sealedSlot (x : Session) (a now : Nat) : Session :=
  { x with cairnSeq := x.cairnSeq + 1, cairnSlots := (x.cairnSlots.filter fun p => p.1 != a) ++ [(a, x.cairnSeq + 1)],
           schedule := x.schedule.map fun k => { k with lastNs := now, steps := 0, due := false } }

theorem sealedAt_unsealed (x : Session) (a : Nat) : sealedAt (unsealedSlot x a) a = 0 := by
  have hnone : lookupBy Prod.fst a (x.cairnSlots.filter fun p => p.1 != a) = none :=
    List.find?_eq_none.mpr fun p hp => by simpa using (List.mem_filter.mp hp).2
  simp only [sealedAt, unsealedSlot, hnone, Option.map_none, Option.getD_none]

theorem sealedAt_sealed (x : Session) (a now : Nat) : sealedAt (sealedSlot x a now) a = x.cairnSeq + 1 := by
  have hnone : lookupBy Prod.fst a (x.cairnSlots.filter fun p => p.1 != a) = none :=
    List.find?_eq_none.mpr fun p hp => by simpa using (List.mem_filter.mp hp).2
  have hfound : lookupBy Prod.fst a ((x.cairnSlots.filter fun p => p.1 != a) ++ [(a, x.cairnSeq + 1)]) = some (a, x.cairnSeq + 1) := by
    rw [lookupBy] at hnone ⊢
    rw [List.find?_append, hnone]
    simp
  simp only [sealedAt, sealedSlot, hfound, Option.map_some, Option.getD_some]

/-- What the write of a cairn leaves of all but its session. -/
structure CairnKeeps (s t : State) : Prop where
  hrt : t.hrt = s.hrt
  tie : t.tie = s.tie

/-- The write of a cairn that fits: its slot is unsealed first, and sealed once everything is written (R357). -/
theorem writeCairn_fits {s : State} {x : Session} (c : Schedule) (held : List CairnObject) (hx : s.session x.slot = some x)
    (hfit : cairnSize (layShards 8192 (cutShards (cairnObjects s x c.kv held))) ≤ 1048576 * c.slotMib) :
    (∃ t, writeCairn s x c held false = .failed t ∧ CairnKeeps s t ∧ t.session x.slot = some (unsealedSlot x (targetSlot x c)) ∧
      t.crn.written = s.crn.written) ∧
    (∃ t, writeCairn s x c held true = .sealed t (x.cairnSeq + 1) ∧ CairnKeeps s t ∧
      t.session x.slot = some (sealedSlot x (targetSlot x c) s.localNs) ∧ t.crn.written = min 0xFFFF (s.crn.written + 1)) := by
  have hroom : ¬1048576 * c.slotMib < cairnSize (layShards 8192 (cutShards (cairnObjects s x c.kv held))) := Nat.not_lt.mpr hfit
  have hfirst := quiet_deliver s c.armer (targetSlot x c) (List.replicate 64 0)
  generalize hu : deliver s c.armer (targetSlot x c) (List.replicate 64 0) = u at hfirst
  have hux : u.session x.slot = some x := (quiet_session hfirst x.slot).trans hx
  constructor
  · have hsession := session_onSession_same u (fun y => { y with cairnSlots := x.cairnSlots.filter fun p => p.1 != targetSlot x c }) hux
    generalize hv : (u.onSession x.slot fun y => { y with cairnSlots := x.cairnSlots.filter fun p => p.1 != targetSlot x c }) = v at hsession
    have hquiet := quiet_haltArmer v c.armer (targetSlot x c)
    have hvcrn : v.crn = u.crn := by rw [← hv, State.onSession_crn]
    have hvhrt : v.hrt = u.hrt := by rw [← hv, State.onSession_hrt]
    have hvtie : v.tie = u.tie := by rw [← hv, State.onSession_tie]
    refine ⟨haltArmer v c.armer (targetSlot x c), ?_, ⟨?_, ?_⟩, ?_, ?_⟩
    · unfold writeCairn
      simp only [hroom, if_false, hu, Bool.not_false, if_true, hv]
    · rw [quiet_hrt hquiet, hvhrt, quiet_hrt hfirst]
    · rw [quiet_tie hquiet, hvtie, quiet_tie hfirst]
    · rw [quiet_session hquiet]
      exact hsession
    · rw [quiet_crn hquiet, hvcrn, quiet_crn hfirst]
  · have hshards : ((layShards 8192 (cutShards (cairnObjects s x c.kv held))).foldl (fun s p =>
        deliver s c.armer (targetSlot x c + p.1) p.2.data) u).quiet = s.quiet :=
      (quiet_foldl _ (fun s p => quiet_deliver ..) _ u).trans hfirst
    generalize hb : (layShards 8192 (cutShards (cairnObjects s x c.kv held))).foldl (fun s p =>
        deliver s c.armer (targetSlot x c + p.1) p.2.data) u = b at hshards
    have hmanifest : ∀ m m', (deliver (deliver b c.armer (targetSlot x c + 4096) m) c.armer (targetSlot x c) m').quiet = s.quiet :=
      fun m m' => (quiet_deliver ..).trans ((quiet_deliver ..).trans hshards)
    generalize he : deliver (deliver b c.armer (targetSlot x c + 4096)
      (manifestOf b x c.seed (layShards 8192 (cutShards (cairnObjects s x c.kv held))))) c.armer (targetSlot x c)
      (sealOf (manifestOf b x c.seed (layShards 8192 (cutShards (cairnObjects s x c.kv held)))) (x.cairnSeq + 1)) = e
    have hquiet : e.quiet = s.quiet := he ▸ hmanifest _ _
    have hex : e.session x.slot = some x := (quiet_session hquiet x.slot).trans hx
    have hsession := session_onSession_same e (fun y => { y with
      cairnSeq := x.cairnSeq + 1,
      cairnSlots := (x.cairnSlots.filter fun p => p.1 != targetSlot x c) ++ [(targetSlot x c, x.cairnSeq + 1)],
      schedule := y.schedule.map fun k => { k with lastNs := e.localNs, steps := 0, due := false } }) hex
    generalize hv : (e.onSession x.slot fun y => { y with
      cairnSeq := x.cairnSeq + 1,
      cairnSlots := (x.cairnSlots.filter fun p => p.1 != targetSlot x c) ++ [(targetSlot x c, x.cairnSeq + 1)],
      schedule := y.schedule.map fun k => { k with lastNs := e.localNs, steps := 0, due := false } }) = v at hsession
    have hvcrn : v.crn = e.crn := by rw [← hv, State.onSession_crn]
    have hvhrt : v.hrt = e.hrt := by rw [← hv, State.onSession_hrt]
    have hvtie : v.tie = e.tie := by rw [← hv, State.onSession_tie]
    refine ⟨v.onCrn fun k => { k with written := bump 16 k.written }, ?_, ⟨hvhrt.trans (quiet_hrt hquiet), hvtie.trans (quiet_tie hquiet)⟩,
      ?_, ?_⟩
    · unfold writeCairn
      simp only [hroom, if_false, hu, Bool.not_true, Bool.false_eq_true, hb, he, hv]
    · rw [← quiet_localNs hquiet]
      exact hsession
    · show bump 16 v.crn.written = _
      rw [hvcrn, quiet_crn hquiet]
      exact Nat.min_comm _ _

/-- Without its KV a cairn needs no recovery. -/
theorem kvForCairn_bare (s : State) (x : Session) (how : Recovery) (deadline : Option Nat) :
    kvForCairn s x false how deadline = .ok (s, x, []) := rfl

/-- A cairn that is asked for: its session is written as it is (R356). -/
theorem execCairnWrite_starts {s : State} {o : Origin} {held : List CairnObject} {writeOk : Bool} {how : Recovery} {d : InFlight}
    {x : Session} (hstart : startSession s o opCairn false = some (d, .ok x)) (hrestore : cairnIsRestore d.raw = false)
    (harm : cairnIsArm d.raw = false) (hdisarm : cairnIsDisarm d.raw = false) (hslots : cairnBadSlots d.raw = false)
    (hkv : cairnKv d.raw = false) : execCairnWrite ⟨o, how⟩ held writeOk s = afterClears s
      (match writeCairn s x (scheduleOf o d.raw s.localNs) held writeOk with
        | .tooLarge => .next (refuse s o .doesNotFit)
        | .failed s => .next (refuse s o .hardwareFault)
        | .sealed s seq => .next (complete s o [] (BitVec.ofNat 64 seq))) := by
  unfold execCairnWrite
  simp only [hstart, hrestore, harm, hdisarm, hslots, hkv, kvForCairn_bare, Bool.or_self, Bool.false_eq_true, if_false] <;>
    rfl

theorem cairnWrite_writes {s : State} {o : Origin} {held : List CairnObject} {writeOk : Bool} {how : Recovery} {d : InFlight}
    {x : Session} {a size : Nat} (hstart : startSession s o opCairn false = some (d, .ok x)) (hrestore : cairnIsRestore d.raw = false)
    (harm : cairnIsArm d.raw = false) (hdisarm : cairnIsDisarm d.raw = false) (hslots : cairnBadSlots d.raw = false)
    (hkv : cairnKv d.raw = false) (hsize : size = cairnSize (layShards 8192 (cutShards (cairnObjects s x false held))))
    (ha : a = targetSlot x (scheduleOf o d.raw s.localNs)) :
    ∃ t y, exec (.cairnWrite ⟨o, how⟩ held writeOk) s = .next t ∧ t.descriptor o = none ∧ t.session x.slot = some y ∧
      y.log = x.log ∧ t.hrt = s.hrt ∧
      (1048576 * cairnMib d.raw < size → y = x) ∧
      (size ≤ 1048576 * cairnMib d.raw → writeOk = true → y.cairnSeq = x.cairnSeq + 1 ∧
        sealedAt y a = x.cairnSeq + 1 ∧ t.crn.written = min 0xFFFF (s.crn.written + 1)) ∧
      (size ≤ 1048576 * cairnMib d.raw → writeOk = false → y.cairnSeq = x.cairnSeq ∧ sealedAt y a = 0 ∧
        t.crn.written = s.crn.written) := by
  obtain ⟨-, hx, -⟩ := startSession_ok hstart
  subst ha
  have hexec := (exec_cairnWrite ⟨o, how⟩ held writeOk s).trans (execCairnWrite_starts hstart hrestore harm hdisarm hslots hkv)
  have hnokv : (scheduleOf o d.raw s.localNs).kv = false := hkv
  have hsize' : size = cairnSize (layShards 8192 (cutShards (cairnObjects s x (scheduleOf o d.raw s.localNs).kv held))) := by
    rw [hnokv]; exact hsize
  by_cases hfit : size ≤ 1048576 * cairnMib d.raw
  · have hno : ¬1048576 * cairnMib d.raw < size := Nat.not_lt.mpr hfit
    obtain ⟨⟨t, hfailed, hkeep, hsession, hwritten⟩, ⟨v, hsealed, hvkeep, hvsession, hvwritten⟩⟩ :=
      writeCairn_fits (scheduleOf o d.raw s.localNs) held hx (hsize' ▸ hfit)
    cases writeOk with
    | false =>
      rw [hfailed] at hexec
      have hquiet := quiet_refuse t o .hardwareFault 0
      refine ⟨_, _, hexec.trans (congrArg Host.Outcome.next (awaitClears_of_tie ((quiet_tie hquiet).trans hkeep.tie))),
        descriptor_refuse .., (quiet_session hquiet x.slot).trans hsession, rfl, (quiet_hrt hquiet).trans hkeep.hrt,
        fun h => absurd h hno, fun _ h => (nomatch h), fun _ _ => ⟨rfl, sealedAt_unsealed .., ?_⟩⟩
      rw [quiet_crn hquiet, hwritten]
    | true =>
      rw [hsealed] at hexec
      have hquiet := quiet_complete v o [] (BitVec.ofNat 64 (x.cairnSeq + 1))
      refine ⟨_, _, hexec.trans (congrArg Host.Outcome.next (awaitClears_of_tie ((quiet_tie hquiet).trans hvkeep.tie))),
        descriptor_complete .., (quiet_session hquiet x.slot).trans hvsession, rfl, (quiet_hrt hquiet).trans hvkeep.hrt,
        fun h => absurd h hno, fun _ _ => ⟨rfl, sealedAt_sealed .., ?_⟩, fun _ h => (nomatch h)⟩
      rw [quiet_crn hquiet, hvwritten]
  · have hlarge : writeCairn s x (scheduleOf o d.raw s.localNs) held writeOk = .tooLarge := by
      unfold writeCairn
      exact if_pos (hsize' ▸ Nat.not_le.mp hfit)
    rw [hlarge] at hexec
    have hquiet := quiet_refuse s o .doesNotFit 0
    exact ⟨_, x, hexec.trans (congrArg Host.Outcome.next (awaitClears_of_tie (quiet_tie hquiet))), descriptor_refuse ..,
      (quiet_session hquiet x.slot).trans hx, rfl, quiet_hrt hquiet, fun _ => rfl, fun h => absurd h hfit, fun h => absurd h hfit⟩

/-! ### Schedules -/

/-- A change of the session of a descriptor, with the completion that reports it. -/
theorem complete_onSession {s : State} {x : Session} (o : Origin) (f : Session → Session) (cs : List Status) (r : Word)
    (hx : s.session x.slot = some x) (hf : (f x).slot = x.slot) :
    (complete (s.onSession x.slot f) o cs r).descriptor o = none ∧ (complete (s.onSession x.slot f) o cs r).hrt = s.hrt ∧
      (complete (s.onSession x.slot f) o cs r).session x.slot = some (f x) := by
  have hquiet := quiet_complete (s.onSession x.slot f) o cs r
  refine ⟨descriptor_complete .., (quiet_hrt hquiet).trans (State.onSession_hrt ..), (quiet_session hquiet x.slot).trans ?_⟩
  rw [session_onSession_same s f hx, ← hf]

theorem cairnDue_serves {s : State} {slot : Nat} {held : List CairnObject} {how : Recovery} {x : Session} {c : Schedule}
    (hx : s.session slot = some x) (hc : x.schedule = some c) (hdue : cairnIsDue s c = true) (hready : s.pwr.ready = true)
    (hheld : s.pwr.heldNow = false) (harmer : armerServes s c.armer = true) (hmove : x.move = none)
    (hstate : x.state = .resident ∨ x.state = .parked) (hkv : c.kv = false)
    (hfit : cairnSize (layShards 8192 (cutShards (cairnObjects s x false held))) ≤ 1048576 * c.slotMib) :
    ∃ t y k, exec (.cairnDue ⟨slot, how⟩ held true) s = .next t ∧ t.session slot = some y ∧ y.log = x.log ∧
      y.cairnSeq = x.cairnSeq + 1 ∧ y.schedule = some k ∧ k.lastNs = s.localNs ∧ k.steps = 0 ∧ k.due = false ∧
      t.hrt = s.hrt := by
  have hslot := session_slot hx
  subst hslot
  obtain ⟨-, ⟨t, hsealed, hkeep, hsession, -⟩⟩ := writeCairn_fits c held hx (hkv ▸ hfit)
  have hrest : (decide (x.state = .resident) || decide (x.state = .parked)) = true := by
    rcases hstate with h | h <;> simp [h]
  have hnext : exec (.cairnDue ⟨x.slot, how⟩ held true) s = afterClears s (.next t) := by
    rw [exec_cairnDue, execCairnDue]
    simp only [hx, hc, hready, hheld, hdue, harmer, hmove, hrest, hkv, kvForCairn_bare, hsealed, Option.isSome_none, Bool.not_true,
      Bool.or_self, Bool.false_eq_true, if_false]
  refine ⟨t, _, { c with lastNs := s.localNs, steps := 0, due := false }, hnext.trans (congrArg Host.Outcome.next
    (awaitClears_of_tie hkeep.tie)), hsession, rfl, rfl, ?_, rfl, rfl, rfl, hkeep.hrt⟩
  rw [sealedSlot, hc]
  rfl

/-! ### Restorations -/

theorem writeFrames_ses (got : List (Nat × Nat)) (pages : List (Nat × List Byte)) (s : State) :
    (pages.foldl (fun s p => match lookupBy (·.1) p.1 got, asPlain p.2 with
      | some (_, f), some c => writeFrame s f c
      | _, _ => s) s).ses = s.ses :=
  List.foldlRecOn pages _ (motive := fun t : State => t.ses = s.ses) rfl fun t ht p _ => by
    split
    · exact ht
    · exact ht

/-- The session that a restoration takes in, with its KV or rebuilt (R361). -/
theorem cairnKvIn_session {s t : State} {r : Restored} {key : Nat} {pages : List (Nat × List Byte)} {conds : List Status}
    (h : cairnKvIn s r key pages = .ok (t, conds)) (hparked : r.parked = false) :
    ∃ y, t.session r.slot = some y ∧ y.state = .resident ∧ y.tenant = r.tenant ∧ y.log = r.log := by
  have hcore : ∀ y : Session, y.core = (handedSession s r key []).core → y.state = .resident ∧ y.tenant = r.tenant ∧ y.log = r.log := by
    intro y hy
    have hstate : y.core.state = .resident := by rw [hy]; exact if_neg (by simp [hparked])
    have htenant : y.core.tenant = r.tenant := by rw [hy]; rfl
    have hlog : y.core.log = r.log := by rw [hy]; rfl
    exact ⟨hstate, htenant, hlog⟩
  unfold cairnKvIn at h
  extract_lets x place v i want fits w at h
  have hplace : ∀ u, ∃ y, (place u).session r.slot = some y ∧ y.core = x.core := fun u => by
    obtain ⟨⟨a, ha⟩, -⟩ := installSession_session (useHandedGrammar u r) x
    exact ⟨_, ha, rfl⟩
  split at h
  · cases h
    obtain ⟨y, hy, hsame⟩ := hplace s
    exact ⟨y, hy, hcore y hsame⟩
  · split at h
    · split at h
      · rename_i t' hbuilt
        cases h
        obtain ⟨y, hy, hsame⟩ := hplace v
        obtain ⟨z, hz, hzsame⟩ := rebuildOnce_session hbuilt hy
        have hx : { x.core with state := .resident } = x.core := by
          have hstate : x.core.state = .resident := if_neg (by simp [hparked])
          rw [← hstate]
        exact ⟨z, hz, hcore z (hzsame.trans ((congrArg (fun y : Session => { y with state := .resident }) hsame).trans hx))⟩
      · cases h
    · split at h
      · cases h
      · rename_i u got hgot
        cases h
        have hplaced : ∃ w, placePages (place w) i x want = some (u, got) := by
          split at hgot
          · exact ⟨_, hgot⟩
          · cases hgot
        obtain ⟨w, hw⟩ := hplaced
        obtain ⟨y, hy, hsame⟩ := hplace w
        have hkeep : CoreKeeps (place w) u := .of_ses (placePages_ses hw)
        obtain ⟨z, hz, hzsame⟩ := ((hkeep.trans (.of_ses (writeFrames_ses got pages u))).trans
          ((coreKeeps_onSession _ r.slot (f := fun x => { x with pages := got.map fun g => handedPage i r (.hearth g.2) g.1 })
            fun _ => rfl).trans (copyKeeps_sendFresh _ r.slot true).core)).session_some hy
        exact ⟨z, hz, hcore z (hzsame.trans hsame)⟩

theorem restoreCairn_session {s u : State} {d : InFlight} {c : CairnSlot} {slots : List (Nat × Nat)} {fit : Bool} {slot : Nat}
    {conds : List Status} {h : Word} (hok : restoreCairn s d c slots fit slot = .ok (u, conds, h)) :
    ∃ y, u.session slot = some y ∧ y.state = .resident ∧ y.tenant = d.tenant ∧
      y.log = c.record.log.take (manifestField c 319 256) := by
  unfold restoreCairn at hok
  extract_lets image at hok
  split at hok
  · split at hok
    · cases hok
    · dsimp only at hok
      split at hok
      · cases hok
      · rename_i v hv _ _ _ t conds' hin
        cases hok
        obtain ⟨y, hy, hstate, htenant, hlog⟩ := cairnKvIn_session hin rfl
        refine ⟨y, ?_, hstate, htenant, hlog⟩
        split
        · exact hy
        · exact hy
  · cases hok

/-! ### Triggers -/

theorem ms_thousand : ms 1000 = 1000000000 := rfl

/-- The state in which an early-warning check has taken its counts (R362). -/
def checkedState (s : State) : State :=
  (s.onCrn fun k => { k with lastCheck := some s.localNs }).onHrt fun h => { h with correctedMark := h.corrected }

theorem earlyWarningCheck_checks {s : State} {foothill ridge : Nat} {beyond : Bool} (hready : s.pwr.ready = true)
    (hdue : ∀ t0, s.crn.lastCheck = some t0 → t0 + 1000000000 ≤ s.localNs)
    (hbeyond : beyond = (overThreshold (s.hrt.corrected - s.hrt.correctedMark) (fld s.crn.triggerCtl 15 0) ||
      overThreshold foothill (fld s.crn.triggerCtl 31 16) || overThreshold ridge (1000 * fld s.crn.triggerCtl 47 32))) :
    ∃ t, exec (.earlyWarningCheck foothill ridge) s = .next t ∧ t.hrt.correctedMark = s.hrt.corrected ∧
      t.hrt.mem = s.hrt.mem ∧ (beyond = false → t.ses = s.ses ∧ t.crn = { s.crn with lastCheck := some s.localNs }) ∧
      (beyond = true → s.crn.lastTrigger = none → t.crn.triggers = min 0xFF (s.crn.triggers + 1) ∧
        t.crn.triggerSeen = true ∧ ∀ y ∈ t.ses.table, ∀ c, y.schedule = some c → c.due = true) := by
  have hopen : (s.crn.lastCheck.any fun t => decide (s.localNs < t + ms 1000)) = false := by
    rcases hlast : s.crn.lastCheck with _ | t0
    · rfl
    · rw [Option.any_some, ms_thousand]
      exact decide_eq_false (Nat.not_lt.mpr (hdue t0 hlast))
  have hexec : exec (.earlyWarningCheck foothill ridge) s = if !beyond ||
      s.crn.lastTrigger.any (fun t => decide (s.localNs < t + ms (1000 * max 1 (fld s.crn.triggerCtl 55 48)))) then .next (checkedState s)
      else .next (((checkedState s).onCrn fun k =>
        { k with triggers := bump 8 k.triggers, triggerSeen := true, lastTrigger := some s.localNs }).onSess fun t =>
        { t with table := t.table.map fun x => { x with schedule := x.schedule.map fun c => { c with due := true } } }) := by
    rw [exec_earlyWarningCheck, execEarlyWarningCheck, if_neg (by simp [hready, hopen])]
    subst hbeyond
    rfl
  cases beyond with
  | false => exact ⟨_, hexec, rfl, rfl, fun _ => ⟨rfl, rfl⟩, fun h => (nomatch h)⟩
  | true =>
    by_cases hlast : s.crn.lastTrigger = none
    · rw [hlast] at hexec
      refine ⟨_, hexec, rfl, rfl, fun h => (nomatch h), fun _ _ => ⟨Nat.min_comm _ _, rfl, fun y hy c hc => ?_⟩⟩
      obtain ⟨x, -, rfl⟩ := List.mem_map.mp hy
      obtain ⟨k, -, rfl⟩ := Option.map_eq_some_iff.mp hc
      rfl
    · by_cases hheld : (s.crn.lastTrigger.any fun t => decide (s.localNs < t + ms (1000 * max 1 (fld s.crn.triggerCtl 55 48)))) = true
      · rw [if_pos (by rw [hheld]; rfl)] at hexec
        exact ⟨_, hexec, rfl, rfl, fun h => (nomatch h), fun _ hnone => absurd hnone hlast⟩
      · rw [if_neg (by rw [Bool.not_eq_true] at hheld; rw [hheld]; decide)] at hexec
        exact ⟨_, hexec, rfl, rfl, fun h => (nomatch h), fun _ hnone => absurd hnone hlast⟩

/-- Settles O55: a cairn by what its write leaves of its session, a restoration by the session that it takes in. -/
theorem cairnsSealOneSlot : Obligations.CairnsSealOneSlot := by
  unfold Obligations.CairnsSealOneSlot
  refine ⟨fun s o held writeOk how d x a size hstart hrestore harm hdisarm hslots hkv hsize ha =>
      cairnWrite_writes hstart hrestore harm hdisarm hslots hkv hsize ha,
    fun s o d x hstart hrestore harm hdisarm hslots => ?_, fun s o d x hstart hrestore hdisarm => ?_,
    fun s slot held writeOk how x c hx hc => ⟨fun hnot => ?_, fun hdue hready hheld harmer hmove hstate hkv hok hfit => ?_⟩,
    fun s o a b fit slot d hstart hgate hrestore hhandle => ⟨fun hnone => ?_, fun c u conds h hc hfree hok htaken => ?_⟩,
    fun s foothill ridge beyond hready => ⟨?_, earlyWarningCheck_checks hready⟩⟩
  · obtain ⟨-, hx, -⟩ := startSession_ok hstart
    have hnext : exec (.cairnArm o) s = .next (complete (s.onSession x.slot fun x =>
        { x with schedule := some (scheduleOf o d.raw s.localNs) }) o [] 0) := by
      rw [exec_cairnArm, execCairnArm]
      simp only [hstart, hrestore, harm, hdisarm, hslots, Bool.not_true, Bool.or_self, Bool.false_eq_true, if_false]
    exact ⟨_, hnext, complete_onSession o _ [] 0 hx rfl⟩
  · obtain ⟨-, hx, -⟩ := startSession_ok hstart
    have hnext : exec (.cairnDisarm o) s = .next (complete (s.onSession x.slot fun x => { x with schedule := none }) o [] 0) := by
      rw [exec_cairnDisarm, execCairnDisarm]
      simp only [hstart, hrestore, hdisarm, Bool.not_true, Bool.or_self, Bool.false_eq_true, if_false]
    exact ⟨_, hnext, complete_onSession o _ [] 0 hx rfl⟩
  · rw [exec_cairnDue, execCairnDue]
    simp only [hx, hc, hnot, Bool.not_false, Bool.or_true, Bool.true_or, if_true]
    exact congrArg Host.Outcome.next (awaitClears_of_tie rfl)
  · subst hok
    exact cairnDue_serves hx hc hdue hready hheld harmer hmove hstate hkv hfit
  · have hnext : exec (.cairnRestore o a b fit slot) s = afterClears s (.next (refuse s o .stateLost)) := by
      rw [exec_cairnRestore, execCairnRestore]
      simp only [hstart, hgate, hrestore, hhandle, hnone, Bool.not_true, Bool.or_self, Bool.false_eq_true, if_false, ne_eq, not_true]
    have hquiet := quiet_refuse s o .stateLost 0
    exact ⟨_, hnext.trans (congrArg Host.Outcome.next (awaitClears_of_tie (quiet_tie hquiet))), hquiet, descriptor_refuse ..⟩
  · have hnext : exec (.cairnRestore o a b fit slot) s = afterClears s (.next (complete u o conds h)) := by
      rw [exec_cairnRestore, execCairnRestore]
      simp only [hstart, hgate, hrestore, hhandle, hc, hok, hfree, Bool.not_true, Bool.or_self, Bool.false_eq_true, if_false, if_true,
        ne_eq, not_true]
    have hquiet := quiet_complete u o conds h
    have hclears : takenUncleared s (complete u o conds h) = [] := by
      rw [takenUncleared, quiet_tie hquiet]
      exact htaken
    obtain ⟨y, hy, hstate, htenant, hlog⟩ := restoreCairn_session hok
    exact ⟨_, y, hnext.trans (congrArg Host.Outcome.next (awaitClears_of_none hclears)), descriptor_complete ..,
      (quiet_session hquiet slot).trans hy, hstate, htenant, hlog⟩
  · rintro ⟨t0, hlast, hearly⟩
    rw [exec_earlyWarningCheck, execEarlyWarningCheck]
    have hrecent : decide (s.localNs < t0 + ms 1000) = true := by
      rw [ms_thousand]
      exact decide_eq_true hearly
    refine if_pos ?_
    rw [hlast, Option.any_some, hrecent, Bool.or_true]

end Sys2Proof.Machine

end

section
/-!
SUPPORT. The opening of a session (R84, R85, R95).
-/

namespace Sys2Proof.Machine

theorem sendBuddy_ses (s : State) (x : Session) (page epoch wseq : Nat) (data : List Byte) :
    (sendBuddy s x page epoch wseq data).ses = s.ses := by
  unfold sendBuddy
  split
  · exact sendFrame_ses ..
  · rfl

/-- A record's copy is counted in its own session only (R346). -/
theorem sendRecordCopy_others (s : State) {slot n : Nat} (hn : n ≠ slot) :
    (sendRecordCopy s slot).session n = s.session n := by
  unfold sendRecordCopy
  split
  · rfl
  · split
    · rfl
    · exact (session_onSession_other _ _ hn).trans (session_of_ses (sendBuddy_ses ..) n)

theorem sendRecordCopy_floor (s : State) (slot : Nat) : (sendRecordCopy s slot).ses.floor = s.ses.floor :=
  (copyKeeps_sendRecordCopy s slot).floor

/-- The floor passes every generation that a session takes; the other slots stand. -/
theorem installSession_slots (s : State) (x : Session) : x.gen < (installSession s x).ses.floor ∧
    ∀ n, n ≠ x.slot → (installSession s x).session n = s.session n := by
  unfold installSession
  extract_lets u v
  have hv : x.gen < v.ses.floor ∧ ∀ n, n ≠ x.slot → v.session n = s.session n := by
    show x.gen < (ite _ _ _ : State).ses.floor ∧ ∀ n, n ≠ x.slot → (ite _ _ _ : State).session n = _
    split
    · rw [askTwin_ses]
      exact ⟨Nat.lt_succ_self _, fun n hn => (session_of_ses (askTwin_ses ..) n).trans (session_putSession_other s hn)⟩
    · exact ⟨Nat.lt_of_not_le ‹_›, fun n hn => session_putSession_other s hn⟩
  refine ⟨?_, fun n hn => ?_⟩
  · rw [sendRecordCopy_floor, sendSlotEntry_ses]
    exact hv.1
  · rw [sendRecordCopy_others _ hn, session_of_ses (sendSlotEntry_ses ..)]
    exact hv.2 n hn

theorem recordOpen_quiet (s : State) (x : Session) : (recordOpen s x).quiet = s.quiet := quiet_recordFlight ..

theorem nextGen_of_ses {s t : State} (h : t.ses = s.ses) (slot : Nat) : nextGen t slot = nextGen s slot := by
  unfold nextGen
  rw [session_of_ses h, h]

/-- The session that a SESSION_OPEN makes, and the state, after what it draws and the grammar it takes, in which it makes it. -/
theorem execSessionOpen_installs {s : State} {o : Origin} {param : List Byte} {slot : Nat} {d : InFlight}
    (hstart : canStart s o opOpen = some d) (hgate : s.ses.gate = false) (hnone : openRefusals s d param = [])
    (hfree : slotFree s slot = true) :
    ∃ u x r, execSessionOpen o param slot s = .next (complete (recordOpen (installSession u x) x) o [] r) ∧
      (u.ses = s.ses ∧ u.hrt = s.hrt ∧ u.tie = s.tie) ∧ x.slot = slot ∧ x.state = .resident ∧
      x.tenant = d.tenant ∧ x.gen = nextGen s slot ∧ x.image = openImage d.raw ∧ x.variant = openVariant d.raw ∧
      x.durability = openDurability d.raw ∧ x.cls = openClass d.raw ∧ x.log = [] ∧ x.pages = [] ∧ x.gener = none := by
  unfold execSessionOpen
  simp only [hstart, hgate, hnone, hfree, Bool.not_true, Bool.false_eq_true, if_false]
  generalize hg : (ite (openSeed d.raw = 0) _ _ : State × BitVec 64) = g
  have hsame : g.1.ses = s.ses ∧ g.1.hrt = s.hrt ∧ g.1.tie = s.tie := by
    rw [← hg]
    split <;> exact ⟨rfl, rfl, rfl⟩
  refine ⟨_, _, _, rfl, ?_, rfl, rfl, rfl, nextGen_of_ses hsame.1 slot, rfl, rfl, rfl, rfl, rfl, rfl, rfl⟩
  split
  · exact hsame
  · exact hsame

/-- Settles O26: the slot is put anew, and what follows sends copies and completes. -/
theorem sessionOpenTakesASlot : Obligations.SessionOpenTakesASlot := by
  unfold Obligations.SessionOpenTakesASlot
  intro s o param slot d hstart hgate hnone hfree
  obtain ⟨u, x, r, hnext, ⟨hses, hhrt, htie⟩, rfl, hstate, htenant, hgen, himage, hvariant, hdurability, hcls, hlog, hpages, hgener⟩ :=
    execSessionOpen_installs hstart hgate hnone hfree
  obtain ⟨⟨a, ha⟩, hihrt, hitie⟩ := installSession_session u x
  obtain ⟨hfloor, hothers⟩ := installSession_slots u x
  have hquiet : (complete (recordOpen (installSession u x) x) o [] r).quiet = (installSession u x).quiet :=
    (quiet_complete ..).trans (recordOpen_quiet ..)
  refine ⟨_, _, (exec_sessionOpen ..).trans hnext, (quiet_session hquiet _).trans ha, hstate, htenant, hgen, himage, hvariant,
    hdurability, hcls, hlog, hpages, hgener, ?_, descriptor_complete .., (quiet_hrt hquiet).trans (hihrt.trans hhrt),
    (quiet_tie hquiet).trans (hitie.trans htie), fun n hn => ?_⟩
  · rw [quiet_ses hquiet, ← hgen]
    exact hfloor
  · rw [quiet_session hquiet, hothers n hn, session_of_ses hses]

end Sys2Proof.Machine

end

section
/-!
SUPPORT. A descriptor that starts on a session with nothing to mend, and the start of a generation (R98, R99, R114, R122).
-/

namespace Sys2Proof.Machine

/-! ### A clean start -/

/-- A session of which no page is being copied has no migration to stop. -/
theorem stopMigration_of_still {s : State} {n : Nat} {x : Session} (hx : s.session n = some x) (h : ∀ p ∈ x.pages, p.target = none) :
    stopMigration s n = s := by
  have hnone : (x.pages.filter fun p => p.target.isSome) = [] := List.filter_eq_nil_iff.mpr fun p hp => by simp [h p hp]
  rw [stopMigration, hx]
  simp only [hnone, List.foldl_nil]

theorem beginOn_of_still {s : State} {x : Session} (hx : s.session x.slot = some x) (h : ∀ p ∈ x.pages, p.target = none) :
    beginOn s x = (s, x) := by
  rw [beginOn, stopMigration_of_still hx h, hx]
  rfl

theorem mendPages_nil (s : State) (n : Nat) : mendPages s n [] = s := by
  have hnone : ∀ x p, standIn x [] p = none := fun x p => by
    unfold standIn
    split <;> rfl
  unfold mendPages
  split
  · rfl
  · rename_i x _
    have hfound : (if twinServes s && x.state = .resident then x.pages.filterMap (standIn x []) else []) = [] := by
      split
      · exact List.filterMap_eq_nil_iff.mpr fun p _ => hnone x p
      · rfl
    simp only [hfound, List.isEmpty_nil, if_true]

/-- A session with nothing to mend and nothing lost needs no recovery. -/
theorem recover_clean {s : State} {x : Session} {how : Recovery} {deadline : Option Nat} (hx : s.session x.slot = some x)
    (h : StartsClean x how) : recover s x how deadline = .ok (s, []) := by
  obtain ⟨-, herrs, htwin, hloss⟩ := h
  have hread : grateReads s x [] = s := rfl
  rw [recover, herrs, htwin, hread, mendPages_nil, hx]
  simp only [Option.getD_some, hloss]

/-! ### The start of a generation -/

theorem startGeneration_opens {s : State} {x : Session} {g : Gen} (hpending : x.pending = []) (hreplay : g.replay = none)
    (hroom : x.log.length < x.context) :
    startGeneration s x g = openBatches 128 (s.putSession { (enterGrammar x g.grammar) with gener := some g }) (iSlot x.image) := by
  unfold startGeneration
  simp [hpending, hreplay, Nat.not_le.mpr hroom]

theorem newGen_replay {x : Session} (h : x.replaying = false) (o : Origin) (b : BitVec 512) (param : List Byte) :
    (newGen x o b param).replay = none ∧ (newGen x o b param).origin = o ∧ (newGen x o b param).maxTokens = genMaxTokens b ∧
      (newGen x o b param).temp = genTemp b ∧ (newGen x o b param).committed = 0 := by
  simp [newGen, h]

/-- Settles O28: the descriptor runs, and the batches that open touch neither it nor the hearth. -/
theorem generateStartsUncommitted : Obligations.GenerateStartsUncommitted := by
  unfold Obligations.GenerateStartsUncommitted
  intro s o param how d x hstart hclean hflue hreplaying htemp htopP hstate hpending hroom
  obtain ⟨hcan, hx, -, -, -⟩ := startSession_ok hstart
  have hbegin := beginOn_of_still hx hclean.1
  obtain ⟨hreplay, horigin, hmax, hgtemp, hcommitted⟩ := newGen_replay hreplaying o d.raw param
  generalize hg : newGen x o d.raw param = g at *
  have hrunning : (markRunning s o).session x.slot = some x := hx
  have hrecover := recover_clean (deadline := d.deadline) hrunning hclean
  generalize hu : (markRunning s o).onDescriptor o (fun d => { d with conds := d.conds ++ [] }) = u
  have hnext : exec (.sessionGenerate ⟨o, how⟩ param) s = afterClears s (.next (startGeneration u x g)) := by
    rw [exec_sessionGenerate, execSessionGenerate]
    simp only [hstart, hbegin, hflue, hreplaying, htemp, htopP, hstate, hg, hrecover, hrunning, hu, Bool.not_false, Bool.or_self,
      Bool.and_false, Bool.false_and, Bool.false_eq_true, reduceCtorEq, if_false]
  have hrow : u.hrt = s.hrt ∧ u.tie = s.tie := hu ▸ ⟨rfl, rfl⟩
  have hdesc : u.descriptor o = some { d with phase := .running, conds := d.conds ++ [], origin := o } := by
    rw [← hu, descriptor_onDescriptor_same, markRunning, descriptor_onDescriptor_same, (canStart_some hcan).1]
    rfl
  rw [startGeneration_opens hpending hreplay hroom] at hnext
  generalize hv : u.putSession { (enterGrammar x g.grammar) with gener := some g } = v at hnext
  have hentered : (enterGrammar x g.grammar).slot = x.slot ∧ (enterGrammar x g.grammar).log = x.log := by
    unfold enterGrammar
    split <;> exact ⟨rfl, rfl⟩
  have hvsession : v.session x.slot = some { (enterGrammar x g.grammar) with gener := some g } :=
    hv ▸ session_putSession_at u hentered.1
  have hvdesc : v.descriptor o = u.descriptor o := hv ▸ rfl
  have hvrow : v.hrt = u.hrt ∧ v.tie = u.tie := hv ▸ ⟨rfl, rfl⟩
  have hopen := workStands_openBatches 128 v (iSlot x.image)
  generalize openBatches 128 v (iSlot x.image) = t at hnext hopen
  obtain ⟨y, hy, hyx⟩ := hopen.session_some hvsession
  obtain ⟨g', hg', hplan⟩ := Option.map_eq_some_iff.mp (congrArg Session.gener hyx)
  have htie : t.tie = s.tie := hopen.tie.trans (hvrow.2.trans hrow.2)
  have hlog := congrArg Session.log hyx
  refine ⟨t, y, g', _, hnext.trans (congrArg Host.Outcome.next (awaitClears_of_tie htie)), hy, hg',
    (congrArg Gen.origin hplan).trans horigin, (congrArg Gen.maxTokens hplan).trans hmax, (congrArg Gen.temp hplan).trans hgtemp,
    (congrArg Gen.committed hplan).trans hcommitted, hlog.trans hentered.2,
    (descriptor_of_desc hopen.desc o).trans (hvdesc.trans hdesc), rfl, hopen.hrt.trans (hvrow.1.trans hrow.1)⟩

end Sys2Proof.Machine

end

section
/-!
SUPPORT. What the commit of a prefill leaves (R96, R97, R234).
-/

namespace Sys2Proof.Machine

theorem writeContents_tie (s : State) (x : Session) (w : PageWrites) (pages : List Nat) : (writeContents s x w pages).tie = s.tie :=
  foldl_keeps State.tie _ (fun s p => by
    split
    · split <;> rfl
    · rfl) x.pages s

theorem writePages_tie (s : State) (slot : Nat) (w : PageWrites) : (writePages s slot w).tie = s.tie := by
  unfold writePages
  split
  · rfl
  · rw [State.onSession_tie, writeContents_tie, writeContents_tie]

theorem coreKeeps_commitKv (s : State) (slot n dead : Nat) : CoreKeeps s (commitKv s slot n dead) := by
  unfold commitKv
  split
  · exact .refl s
  · extract_lets i h p w layers fresh touched filled before u sums
    have hu : CoreKeeps s u := coreKeeps_onSession _ _ fun _ => rfl
    exact hu.trans (coreKeeps_writePages ..)

theorem commitKv_tie (s : State) (slot n dead : Nat) : (commitKv s slot n dead).tie = s.tie := by
  unfold commitKv
  split
  · rfl
  · rw [writePages_tie, State.onSession_tie]

theorem copyKeeps_sendPageCopies (s : State) (slot : Nat) : CopyKeeps s (sendPageCopies s slot) := by
  unfold sendPageCopies
  split
  · exact .refl s
  · split
    · exact .refl s
    · refine CopyKeeps.foldl (fun s p => ?_) _ s
      split
      · exact copyKeeps_sendBuddy ..
      · exact .refl s

/-- The commit of a prefill puts its tokens behind the log, and nothing waits after it. -/
theorem commitAppend_commits {s : State} {slot : Nat} {x : Session} (hx : s.session slot = some x) (p : Prefill) :
    (commitAppend s slot p).tie = s.tie ∧ ∃ y, (commitAppend s slot p).session slot = some y ∧
      y.core = { x.core with prefill := none, pending := [], log := x.log ++ p.tokens } := by
  have hslot := session_slot hx
  unfold commitAppend
  rw [hx]
  simp only []
  generalize hu : s.putSession _ = u
  have hux : u.session slot = some { x with prefill := none, pending := [], log := x.log ++ p.tokens } :=
    hu ▸ session_putSession_at s hslot
  have hutie : u.tie = s.tie := hu ▸ rfl
  generalize hv : sendRecordCopy _ slot = v
  have huv : CoreKeeps u v := hv ▸ (((coreKeeps_commitKv u slot x.log.length 0).trans (copyKeeps_sendPageCopies ..).core).trans
    (.of_ses (quiet_ses (quiet_countTenant ..)))).trans (copyKeeps_sendRecordCopy ..).core
  have hvtie : v.tie = u.tie := by
    rw [← hv, (copyKeeps_sendRecordCopy ..).tie, countTenant_tie, (copyKeeps_sendPageCopies ..).tie, commitKv_tie]
  have hflight : ∀ l : List (Nat × Nat × List Nat), (l.foldl (fun s (pos, tr, ids) =>
      recordFlight s x 1 ids.length (inputPayload pos tr ids)) v).quiet = v.quiet := fun l =>
    quiet_foldl _ (fun s _ => quiet_recordFlight ..) l v
  obtain ⟨y, hy, hcore⟩ := huv.session_some hux
  exact ⟨(quiet_tie (hflight _)).trans (hvtie.trans hutie), y, (quiet_session (hflight _) slot).trans hy, hcore⟩

/-! ### The forms of an APPEND -/

/-- A deferred APPEND, or one on a PARKED session, waits with its tokens on the session (R96). -/
theorem sessionAppend_waits {s : State} {o : Origin} {param : List Byte} {how : Recovery} {d : InFlight} {x : Session}
    {segs : List Segment} {own : List (Nat × Nat)} {bad : Nat} (hstart : startSession s o opAppend false = some (d, .ok x))
    (hstill : ∀ p ∈ x.pages, p.target = none) (hcompat : s.host.compat = false) (hsegments : appendSegments d.raw ≠ 0)
    (hlength : param.length = appendLen d.raw) (hread : readSegments (appendSegments d.raw) param = some segs)
    (htokens : appendTokens s (sessionImage s x).vocab o segs = some (own, bad))
    (hfit : tokensThatFit (sessionImage s x) x own.length = own.length) (hwait : x.state = .parked ∨ appendDefer d.raw = true) :
    ∃ t y, exec (.sessionAppend ⟨o, how⟩ param) s = .next t ∧ t.session x.slot = some y ∧ y.pending = x.pending ++ own ∧
      y.log = x.log ∧ t.descriptor o = none ∧ t.hrt = s.hrt := by
  obtain ⟨-, hx, -, -, -⟩ := startSession_ok hstart
  have hbegin := beginOn_of_still hx hstill
  generalize hu : (textDone s o).onKnd (fun k => { k with inReplaced := sat 32 (k.inReplaced + bad) }) = u
  have husession : u.session x.slot = some x := hu ▸ hx
  have hurow : u.hrt = s.hrt ∧ u.tie = s.tie := hu ▸ ⟨rfl, rfl⟩
  generalize hv : u.onSession x.slot (fun x => { x with pending := x.pending ++ own }) = v
  have hvrow : v.hrt = u.hrt ∧ v.tie = u.tie := hv ▸ ⟨State.onSession_hrt .., State.onSession_tie ..⟩
  have hvsession := hv ▸ session_onSession_same u (fun x => { x with pending := x.pending ++ own }) husession
  have hnext : exec (.sessionAppend ⟨o, how⟩ param) s =
      afterClears s (.next (complete v o [] (halves (x.pending.length + own.length) x.log.length))) := by
    rw [exec_sessionAppend, execSessionAppend]
    simp only [hstart, hbegin, hcompat, hsegments, hlength, hread, htokens, hfit, hu, hv, Bool.false_and, Bool.false_eq_true, ne_eq,
      not_true, decide_false, Bool.or_self, Nat.lt_irrefl, List.take_length, if_false]
    rw [if_pos (by simpa using hwait)]
  have hquiet := quiet_complete v o [] (halves (x.pending.length + own.length) x.log.length)
  refine ⟨_, _, hnext.trans (congrArg Host.Outcome.next (awaitClears_of_tie ?_)), (quiet_session hquiet _).trans hvsession, rfl, rfl,
    descriptor_complete .., (quiet_hrt hquiet).trans (hvrow.1.trans hurow.1)⟩
  exact (quiet_tie hquiet).trans (hvrow.2.trans hurow.2)

/-- The end of a chunk before the last counts it (R234). -/
theorem prefillChunkEnd_counts {s : State} {slot : Nat} {x : Session} {p : Prefill} (hx : s.session slot = some x)
    (hp : x.prefill = some p) (hheld : s.pwr.heldNow = false) (hleft : 1 < p.left) :
    ∃ t y, exec (.prefillChunkEnd slot) s = .next t ∧ t.session slot = some y ∧ y.log = x.log ∧
      y.prefill = some { p with left := p.left - 1 } := by
  have hnext : ∃ u : State, exec (.prefillChunkEnd slot) s =
      afterClears s (.next (u.onSession slot fun x => { x with prefill := some { p with left := p.left - 1 } })) ∧ u.ses = s.ses ∧
      u.tie = s.tie := by
    rw [exec_prefillChunkEnd, execPrefillChunkEnd]
    have hzero : p.left ≠ 0 := by omega
    simp only [hx, hp, hheld, hzero, decide_false, Bool.or_self, Bool.false_eq_true, if_false, hleft, if_true]
    refine ⟨_, rfl, ?_⟩
    split
    · split
      · exact ⟨sendFrame_ses .., sendFrame_tie ..⟩
      · exact ⟨rfl, rfl⟩
    · exact ⟨rfl, rfl⟩
  obtain ⟨u, hnext, hses, htie⟩ := hnext
  refine ⟨_, _, hnext.trans (congrArg Host.Outcome.next (awaitClears_of_tie ((State.onSession_tie ..).trans htie))),
    session_onSession_same _ _ ((session_of_ses hses slot).trans hx), rfl, rfl⟩

/-- The end of the last chunk commits the tokens and completes the APPEND. -/
theorem prefillChunkEnd_commits {s : State} {slot : Nat} {x : Session} {p : Prefill} (hx : s.session slot = some x)
    (hp : x.prefill = some p) (hheld : s.pwr.heldNow = false) (hleft : p.left = 1) (htwin : waitsForTwin s x = false)
    (hafter : p.after = 0) :
    ∃ t y, exec (.prefillChunkEnd slot) s = .next t ∧ t.session slot = some y ∧ y.log = x.log ++ p.tokens ∧
      y.prefill = none ∧ y.pending = [] ∧ t.descriptor p.origin = none := by
  obtain ⟨htie, y, hy, hcore⟩ := commitAppend_commits hx p
  have hnext : ∃ r, exec (.prefillChunkEnd slot) s = afterClears s (.next
      (complete (commitAppend s slot p) p.origin (if p.truncated then [.okTruncated] else []) r)) := by
    rw [exec_prefillChunkEnd, execPrefillChunkEnd]
    simp only [hx, hp, hheld, hleft, htwin, afterPrefill, hafter, Nat.one_ne_zero, decide_false, Bool.or_self, Bool.false_eq_true,
      if_false, Nat.lt_irrefl]
    exact ⟨_, rfl⟩
  obtain ⟨r, hnext⟩ := hnext
  have hquiet := quiet_complete (commitAppend s slot p) p.origin (if p.truncated then [.okTruncated] else []) r
  exact ⟨_, y, hnext.trans (congrArg Host.Outcome.next (awaitClears_of_tie ((quiet_tie hquiet).trans htie))),
    (quiet_session hquiet slot).trans hy, congrArg Session.log hcore, congrArg Session.prefill hcore,
    congrArg Session.pending hcore, descriptor_complete ..⟩

/-- Settles O27: tokens wait on their session until the last chunk of their prefill commits them. -/
theorem appendCommitsWithItsPrefill : Obligations.AppendCommitsWithItsPrefill := by
  unfold Obligations.AppendCommitsWithItsPrefill
  exact ⟨fun s o param how d x segs own bad hstart hstill hcompat hsegments hlength hread htokens hfit hwait =>
      sessionAppend_waits hstart hstill hcompat hsegments hlength hread htokens hfit hwait,
    fun s slot x p hx hp hheld hleft => prefillChunkEnd_counts hx hp hheld hleft,
    fun s slot x p hx hp hheld hleft htwin hafter => prefillChunkEnd_commits hx hp hheld hleft htwin hafter⟩

end Sys2Proof.Machine

end

section
/-!
SUPPORT. What placing, parking and bringing in pages leave of the sessions, and the frames that they take (R92, R120, R121).
-/

namespace Sys2Proof.Machine

/-! ### Frames taken -/

/-- No frame is taken from one state to another. -/
structure TakesNone (s t : State) : Prop where
  frames : ∀ g ∈ t.tie.frames, g.clearing = false → g ∈ s.tie.frames

theorem TakesNone.trans {s t u : State} (h : TakesNone s t) (k : TakesNone t u) : TakesNone s u :=
  ⟨fun g hg hc => h.frames g (k.frames g hg hc) hc⟩

theorem TakesNone.of_tie {s t : State} (h : t.tie = s.tie) : TakesNone s t := ⟨fun _ hg _ => h ▸ hg⟩

theorem TakesNone.of_quiet {s t : State} (h : t.quiet = s.quiet) : TakesNone s t := .of_tie (quiet_tie h)

theorem TakesNone.of_frames {s t : State} (h : t.tie.frames = s.tie.frames) : TakesNone s t := ⟨fun _ hg _ => h ▸ hg⟩

theorem takesNone_freeFrames (s : State) (pages : List Page) : TakesNone s (freeFrames s pages) := by
  refine List.foldlRecOn pages _ (motive := fun t : State => TakesNone s t) (.of_tie rfl) fun t ht p _ => ?_
  split
  · rename_i n _
    refine ht.trans ⟨fun g hg hc => ?_⟩
    obtain ⟨f, hf, rfl⟩ := List.mem_map.mp hg
    split at hc
    · cases hc
    · rename_i hne
      rwa [if_neg hne]
  · exact ht

/-- Where nothing uncleared has been taken, and nothing is taken after that, nothing waits for a clear. -/
theorem TakesNone.takenUncleared {s u t : State} (h : TakesNone u t) (hnone : takenUncleared s u = []) : takenUncleared s t = [] := by
  unfold Machine.takenUncleared at *
  rw [List.filterMap_eq_nil_iff] at *
  intro g hg
  by_cases hc : g.clearing = true
  · simp [hc]
  · exact hnone g (h.frames g hg (by simpa using hc))

/-- A command that takes nothing uncleared beyond what it has placed waits for no clear. -/
theorem TakesNone.afterClears {s u t : State} (h : TakesNone u t) (hnone : Machine.takenUncleared s u = []) :
    afterClears s (.next t) = .next t :=
  congrArg Host.Outcome.next (awaitClears_of_none (h.takenUncleared hnone))

/-! ### Pages that are placed -/

theorem coreKeeps_setPage (s : State) (slot : Nat) (p : Page) : CoreKeeps s (setPage s slot p) :=
  coreKeeps_onSession _ _ fun _ => rfl

theorem poolAsk_ses (s : State) (w : PoolWait) : (poolAsk s w).ses = s.ses := by
  unfold poolAsk
  split
  · exact sendRequest_ses ..
  · rfl

theorem askLender_ses (s : State) (x : Session) (e : Word) (r : Request) : (askLender s x e r).ses = s.ses := by
  unfold askLender
  split
  · exact poolAsk_ses ..
  · rfl

theorem writePool_ses (s : State) (x : Session) (page : Nat) (e : Word) (first : Nat) (coded : List Byte) :
    (writePool s x page e first coded).ses = s.ses := askLender_ses ..

theorem coreKeeps_startCopy (s : State) (x : Session) (p : Page) (t : PageTarget) : CoreKeeps s (startCopy s x p t) := by
  unfold startCopy
  extract_lets u
  have hu : u.ses = s.ses := by
    show (match t, startCopy.storedOf p with
      | .pool e f, some c => writePool s x p.index e f c
      | _, _ => s : State).ses = s.ses
    split
    · exact writePool_ses ..
    · rfl
  exact (CoreKeeps.of_ses hu).trans (coreKeeps_setPage ..)

theorem coreKeeps_switchPage {s t : State} {x : Session} {p : Page} {target : PageTarget} (h : switchPage s x p target = some t) :
    CoreKeeps s t := by
  unfold switchPage at h
  split at h
  · cases h
  · split at h
    · cases h
      exact (coreKeeps_setPage ..).trans (.of_ses (freeGranules_ses ..))
    · cases h
      exact coreKeeps_setPage ..
    · cases h
      exact coreKeeps_setPage ..
    · cases h

theorem coreKeeps_demoteNow (s : State) (x : Session) : CoreKeeps s (demoteNow s x) := by
  unfold demoteNow
  split
  · exact .refl s
  · refine CoreKeeps.foldl (fun s r => ?_) _ s
    obtain ⟨p, e, f⟩ := r
    dsimp only
    refine (coreKeeps_startCopy s x p (.pool e f)).trans ?_
    rcases hs : switchPage (startCopy s x p (.pool e f)) x p (.pool e f) with _ | t
    · exact .refl _
    · exact coreKeeps_switchPage hs

theorem coreKeeps_demoteFor (s : State) (g : Nat) : CoreKeeps s (demoteFor s g) :=
  CoreKeeps.foldl (fun s x => by
    split
    · exact .refl s
    · exact coreKeeps_demoteNow s x) _ s

/-- Pages in store: none in a frame of the hearth. -/
def OffHearth (placed : List Page) : Prop := ∀ p ∈ placed, ∀ f, p.place ≠ .hearth f

theorem placeInFoothill_places {s t : State} {pages : List (Page × List Byte)} {placed : List Page}
    (h : placeInFoothill s pages = some (t, placed)) : CoreKeeps s t ∧ OffHearth placed := by
  unfold placeInFoothill at h
  split at h
  · cases h
    refine ⟨.refl s, fun p hp f => ?_⟩
    obtain ⟨q, -, rfl⟩ := List.mem_map.mp hp
    exact fun heq => (nomatch heq)
  · cases h

theorem placeInPool_places {s t : State} {x : Session} {pages : List (Page × List Byte)} {planned : Option (List Nat)}
    {placed : List Page} (h : placeInPool s x pages planned = some (t, placed)) : CoreKeeps s t ∧ OffHearth placed := by
  unfold placeInPool at h
  split at h
  · cases h
  · rename_i places _
    extract_lets all at h
    cases h
    refine ⟨CoreKeeps.foldl (fun s r => .of_ses (writePool_ses ..)) all s, fun p hp f => ?_⟩
    obtain ⟨q, -, rfl⟩ := List.mem_map.mp hp
    exact fun heq => (nomatch heq)

theorem placeHome_places {s t : State} {pages : List (Page × List Byte)} {placed : List Page}
    (h : placeHome s pages = some (t, placed)) : CoreKeeps s t ∧ OffHearth placed := by
  unfold placeHome at h
  split at h
  · rename_i r hr
    cases h
    exact placeInFoothill_places hr
  · obtain ⟨hkeep, hoff⟩ := placeInFoothill_places h
    exact ⟨(coreKeeps_demoteFor ..).trans hkeep, hoff⟩

theorem placePool_places {s t : State} {x : Session} {pages : List (Page × List Byte)} {planned : Option (List Nat)}
    {placed : List Page} (h : placePool s x pages planned = some (t, placed)) : CoreKeeps s t ∧ OffHearth placed := by
  unfold placePool at h
  split at h
  · cases h
  · split at h
    · cases h
    · rename_i u a hpool
      obtain ⟨⟨v, b⟩, hrecords, hlast⟩ := Option.map_eq_some_iff.mp h
      cases hlast
      obtain ⟨hkeep, hoff⟩ := placeInPool_places hpool
      obtain ⟨hkeep', hoff'⟩ := placeInFoothill_places hrecords
      exact ⟨hkeep.trans hkeep', fun p hp => (List.mem_append.mp hp).elim (hoff p) (hoff' p)⟩

/-- Pages that are placed leave the hearth, and the sessions stand but for their KV (R92). -/
theorem placeParked_places {s t : State} {x : Session} {target : Nat} {pages : List (Page × List Byte)} {placed : List Page}
    (h : placeParked s x target pages = some (t, placed)) : CoreKeeps s t ∧ OffHearth placed := by
  unfold placeParked at h
  extract_lets g at h
  split at h
  · exact placeHome_places h
  · exact placePool_places h
  · split at h
    · exact placePool_places h
    · exact placeHome_places h
    · split at h
      · exact placeInFoothill_places h
      · split at h
        · rename_i hr
          cases h
          exact placePool_places hr
        · exact placeHome_places h

theorem placePark_places {s t : State} {x : Session} {target g : Nat} {noNarrow : Bool} {placed : List Page}
    (h : placePark s x target noNarrow = some (t, placed, g)) : CoreKeeps s t ∧ OffHearth placed := by
  obtain ⟨⟨u, l⟩, hplace, hlast⟩ := Option.map_eq_some_iff.mp h
  cases hlast
  obtain ⟨hkeep, hoff⟩ := placeParked_places hplace
  exact ⟨hkeep.trans (.of_ses rfl), hoff⟩

theorem copyKeeps_sendCoded (s : State) (x : Session) (pages : List Page) : CopyKeeps s (sendCoded s x pages) := by
  refine CopyKeeps.foldl (fun s p => ?_) pages s
  split
  · split
    · exact copyKeeps_sendBuddy ..
    · exact .refl s
  · exact .refl s

theorem sendCoded_ses (s : State) (x : Session) (pages : List Page) : (sendCoded s x pages).ses = s.ses :=
  foldl_keeps State.ses _ (fun s p => by
    split
    · split
      · exact sendBuddy_ses ..
      · rfl
    · rfl) pages s

/-! ### Sessions that are parked and brought in -/

/-- A session without its KV and without where it rests. -/
def Session.text (x : Session) : Session := { x.core with state := .free, parkedAt := 0 }

/-- Every session but for its KV and where it rests stands. -/
structure TextKeeps (s t : State) : Prop where
  sessions : ∀ n, (t.session n).map Session.text = (s.session n).map Session.text

theorem TextKeeps.refl (s : State) : TextKeeps s s := ⟨fun _ => rfl⟩

theorem TextKeeps.trans {s t u : State} (h : TextKeeps s t) (g : TextKeeps t u) : TextKeeps s u :=
  ⟨fun n => (g.sessions n).trans (h.sessions n)⟩

theorem TextKeeps.of_ses {s t : State} (h : t.ses = s.ses) : TextKeeps s t := ⟨fun n => by rw [session_of_ses h]⟩

theorem CoreKeeps.text {s t : State} (h : CoreKeeps s t) : TextKeeps s t := by
  refine ⟨fun n => ?_⟩
  have hn := congrArg (Option.map fun x : Session => { x with state := Resting.free, parkedAt := 0 }) (h.sessions n)
  rw [Option.map_map, Option.map_map] at hn
  exact hn

theorem TextKeeps.foldl {α : Type} {f : State → α → State} (h : ∀ s a, TextKeeps s (f s a)) (l : List α) (s : State) :
    TextKeeps s (l.foldl f s) :=
  List.foldlRecOn l f (motive := TextKeeps s) (.refl s) fun t ht a _ => ht.trans (h t a)

theorem TextKeeps.session_some {s t : State} (h : TextKeeps s t) {n : Nat} {x : Session} (hx : s.session n = some x) :
    ∃ y, t.session n = some y ∧ y.text = x.text := by
  have hn := h.sessions n
  rw [hx, Option.map_some, Option.map_eq_some_iff] at hn
  exact hn

theorem textKeeps_onSession (s : State) (slot : Nat) {f : Session → Session} (hf : ∀ x, (f x).text = x.text) :
    TextKeeps s (s.onSession slot f) := by
  refine ⟨fun n => ?_⟩
  rcases Decidable.em (n = slot) with rfl | hn
  · rcases hx : s.session n with _ | x
    · rw [State.onSession, hx, hx]
    · rw [session_onSession_same s f hx]
      have hslot := session_slot hx
      have hkey : ({ f x with slot := n } : Session).text = { (f x).text with slot := n } := rfl
      rw [Option.map_some, Option.map_some, hkey, hf, ← hslot]
      rfl
  · rw [session_onSession_other s f hn]

theorem textKeeps_commitPark (s : State) (slot : Nat) (placed : List Page) : TextKeeps s (commitPark s slot placed) := by
  unfold commitPark
  split
  · exact .refl s
  · rename_i x _
    refine TextKeeps.trans ?_ (.of_ses (sendSlotEntry_ses ..))
    exact (TextKeeps.of_ses (freeFrames_ses s x.pages)).trans (textKeeps_onSession _ _ fun _ => rfl)

theorem textKeeps_autoPark {s t : State} {slot : Nat} (h : autoPark s slot = some t) : TextKeeps s t := by
  obtain ⟨x, -, h⟩ := Option.bind_eq_some_iff.mp h
  obtain ⟨⟨u, g⟩, hpark, rfl⟩ := Option.map_eq_some_iff.mp h
  obtain ⟨y, -, hpark⟩ := Option.bind_eq_some_iff.mp hpark
  obtain ⟨⟨v, placed, g'⟩, hplace, hlast⟩ := Option.map_eq_some_iff.mp hpark
  cases hlast
  refine TextKeeps.trans ?_ (coreKeeps_tellShares ..).text
  refine (placePark_places hplace).1.text.trans (TextKeeps.trans ?_ (textKeeps_commitPark ..))
  split
  · exact .of_ses (sendCoded_ses ..)
  · exact .refl v

theorem textKeeps_autoParkUntil (enough : State → Bool) (l : List Nat) (s : State) : TextKeeps s (autoParkUntil enough s l) := by
  induction l generalizing s with
  | nil => exact .refl s
  | cons c l ih =>
    unfold autoParkUntil
    split
    · exact .refl s
    · split
      · rename_i t ht
        exact (textKeeps_autoPark ht).trans (ih t)
      · exact ih s

theorem textKeeps_freeDead (s : State) : TextKeeps s (freeDead s) :=
  TextKeeps.foldl (fun s x => by
    split
    · exact .refl s
    · refine TextKeeps.trans ?_ (coreKeeps_tellShares ..).text
      unfold freeDeadOf
      extract_lets i dead
      split
      · exact .refl s
      · exact (TextKeeps.of_ses (freeFrames_ses ..)).trans (textKeeps_onSession _ _ fun _ => rfl)) _ s

/-- Room in the hearth is made by parking: no session changes but for its KV and where it rests (R122). -/
theorem textKeeps_makeRoom (s : State) (enough : State → Bool) : TextKeeps s (makeRoom s enough) := by
  unfold makeRoom
  split
  · exact .refl s
  · extract_lets u
    have hu : TextKeeps s u := textKeeps_freeDead s
    split
    · exact hu
    · exact hu.trans (textKeeps_autoParkUntil ..)

theorem textKeeps_allotPages (s : State) (slot : Nat) (pages : List Nat) (step : Bool) : TextKeeps s (allotPages s slot pages step).1 := by
  unfold allotPages
  split
  · exact .refl s
  · extract_lets i fits u
    have hu : TextKeeps s u := textKeeps_makeRoom ..
    split
    · split
      · rename_i hplace
        exact hu.trans (.of_ses (placePages_ses hplace))
      · exact hu
    · exact hu

end Sys2Proof.Machine

end

section
/-!
SUPPORT. Sessions parked, brought in, copied and closed (R84, R89, R92, R100, R120).
-/

namespace Sys2Proof.Machine

theorem log_of_core {x y : Session} (h : y.core = x.core) : y.log = x.log := by
  have hkey := congrArg Session.log h
  exact hkey

theorem state_of_core {x y : Session} (h : y.core = x.core) : y.state = x.state := by
  have hkey := congrArg Session.state h
  exact hkey

theorem pending_of_core {x y : Session} (h : y.core = x.core) : y.pending = x.pending := by
  have hkey := congrArg Session.pending h
  exact hkey

theorem log_of_text {x y : Session} (h : y.text = x.text) : y.log = x.log := by
  have hkey := congrArg Session.log h
  exact hkey

theorem pending_of_text {x y : Session} (h : y.text = x.text) : y.pending = x.pending := by
  have hkey := congrArg Session.pending h
  exact hkey

/-! ### Parking -/

theorem takesNone_commitPark (s : State) (slot : Nat) (placed : List Page) : TakesNone s (commitPark s slot placed) := by
  unfold commitPark
  split
  · exact .of_tie rfl
  · rename_i x _
    refine TakesNone.trans ?_ (.of_tie (copyKeeps_sendSlotEntry ..).tie)
    exact (takesNone_freeFrames s x.pages).trans (.of_tie (State.onSession_tie ..))

theorem finishPark_parks {s : State} {o : Origin} {x y : Session} (hy : s.session x.slot = some y) (placed : List Page) (bytes : Nat)
    (conds : List Status) (hlocal : x.durability < 2 ∨ twinServes s = false) :
    ∃ t, finishPark s o x placed bytes conds = t ∧ TakesNone s t ∧ t.descriptor o = none ∧
      ∃ z, t.session x.slot = some z ∧ z.log = y.log ∧ z.state = .parked ∧ z.pages = placed := by
  have hcond : ¬(2 ≤ x.durability && twinServes s) = true := by
    rcases hlocal with h | h
    · simp [Nat.not_le.mpr h]
    · simp [h]
  have hquiet := quiet_complete (commitPark s x.slot placed) o conds (BitVec.ofNat 64 bytes)
  exact ⟨_, if_neg hcond, (takesNone_commitPark ..).trans (.of_quiet hquiet), descriptor_complete ..,
    _, (quiet_session hquiet _).trans (commitPark_session placed hy), rfl, rfl, rfl⟩

theorem finishPark_waits {s : State} {o : Origin} {x y : Session} (hy : s.session x.slot = some y) (placed : List Page) (bytes : Nat)
    (conds : List Status) (hdurable : 2 ≤ x.durability) (htwin : twinServes s = true) :
    ∃ t, finishPark s o x placed bytes conds = t ∧ TakesNone s t ∧
      ∃ z, t.session x.slot = some z ∧ z.log = y.log ∧ z.state = y.state ∧ z.parkPlaced = placed ∧ z.parkWaits = some (o, bytes) := by
  have hcond : (2 ≤ x.durability && twinServes s) = true := by simp [hdurable, htwin]
  have hsent : ((markRunning ((sendCoded s x placed).onDescriptor o fun d => { d with conds := d.conds ++ conds }) o)).session x.slot =
      some y := (session_of_ses (sendCoded_ses s x placed) _).trans hy
  refine ⟨_, if_pos hcond, .of_tie ((State.onSession_tie ..).trans (copyKeeps_sendCoded s x placed).tie),
    _, session_onSession_same _ _ hsent, rfl, rfl, rfl, rfl⟩

/-- A PARK with nothing in its way hands what it placed to its last step (R92). -/
theorem execSessionPark_places {s s' : State} {o : Origin} {how : Recovery} {d : InFlight} {x : Session} {placed : List Page} {g : Nat}
    (hstart : startSession s o opPark false = some (d, .ok x)) (hclean : StartsClean x how) (hcompat : s.host.compat = false)
    (hwhere : parkWhere d.raw ≠ 3) (hstate : x.state = .resident) (hshares : how.shares.contains .full = false)
    (hplace : placePark (tellShares s x (.park (parkWhere d.raw) (parkNoNarrow d.raw))) x (parkWhere d.raw) (parkNoNarrow d.raw) =
      some (s', placed, g)) :
    exec (.sessionPark ⟨o, how⟩) s =
      afterClears s (.next (finishPark s' o x placed (512 * g + shareCount how.shares) [])) := by
  obtain ⟨-, hx, -, -, -⟩ := startSession_ok hstart
  rw [exec_sessionPark, execSessionPark]
  simp only [hstart, hcompat, hwhere, beginOn_of_still hx hclean.1, hstate, recover_clean hx hclean, hx, Option.getD_some, decide_false,
    Bool.or_self, Bool.false_eq_true, reduceCtorEq, if_false]
  unfold parkAll
  simp only [hshares, hplace, Bool.false_eq_true, if_false]

theorem sessionPark_parks {s s' : State} {o : Origin} {how : Recovery} {d : InFlight} {x : Session} {placed : List Page} {g : Nat}
    (hstart : startSession s o opPark false = some (d, .ok x)) (hclean : StartsClean x how) (hcompat : s.host.compat = false)
    (hwhere : parkWhere d.raw ≠ 3) (hstate : x.state = .resident) (hshares : how.shares.contains .full = false)
    (hplace : placePark (tellShares s x (.park (parkWhere d.raw) (parkNoNarrow d.raw))) x (parkWhere d.raw) (parkNoNarrow d.raw) =
      some (s', placed, g)) (htaken : takenUncleared s s' = []) :
    ∃ t y, exec (.sessionPark ⟨o, how⟩) s = .next t ∧ t.session x.slot = some y ∧ y.log = x.log ∧
      ((x.durability < 2 ∨ twinServes s' = false) → y.state = .parked ∧ y.pages = placed ∧ t.descriptor o = none ∧
        ∀ p ∈ y.pages, ∀ f, p.place ≠ .hearth f) ∧
      (2 ≤ x.durability → twinServes s' = true → y.state = .resident ∧ y.parkPlaced = placed ∧
        ∃ bytes, y.parkWaits = some (o, bytes)) := by
  have hexec := execSessionPark_places hstart hclean hcompat hwhere hstate hshares hplace
  obtain ⟨-, hx, -, -, -⟩ := startSession_ok hstart
  obtain ⟨hkeep, hoff⟩ := placePark_places hplace
  obtain ⟨y, hy, hcore⟩ := ((coreKeeps_tellShares ..).trans hkeep).session_some hx
  have hlog : y.log = x.log := log_of_core hcore
  by_cases hlocal : x.durability < 2 ∨ twinServes s' = false
  · obtain ⟨t, heq, htakes, hdesc, z, hz, hzlog, hzstate, hzpages⟩ :=
      finishPark_parks (o := o) hy placed (512 * g + shareCount how.shares) [] hlocal
    rw [heq, htakes.afterClears htaken] at hexec
    refine ⟨t, z, hexec, hz, hzlog.trans hlog, fun _ => ⟨hzstate, hzpages, hdesc, hzpages ▸ hoff⟩, fun hdurable htwin => ?_⟩
    rcases hlocal with h | h
    · exact absurd hdurable (Nat.not_le.mpr h)
    · exact absurd (htwin.symm.trans h) (by decide)
  · have hdurable : 2 ≤ x.durability := Nat.not_lt.mp fun h => hlocal (.inl h)
    have htwin : twinServes s' = true := (Bool.eq_false_or_eq_true _).resolve_right fun h => hlocal (.inr h)
    obtain ⟨t, heq, htakes, z, hz, hzlog, hzstate, hzplaced, hzwaits⟩ :=
      finishPark_waits (o := o) hy placed (512 * g + shareCount how.shares) [] hdurable htwin
    rw [heq, htakes.afterClears htaken] at hexec
    exact ⟨t, z, hexec, hz, hzlog.trans hlog, fun h => absurd h hlocal, fun _ _ =>
      ⟨hzstate.trans ((state_of_core hcore).trans hstate), hzplaced, _, hzwaits⟩⟩

/-! ### Bringing in -/

theorem noteRepair_ses (s : State) (x : Session) (r : PageRead) : (noteRepair s x r).ses = s.ses := by
  have hagain : ∀ u : State, (if r.fromTwin then u
      else sendBuddy u x r.page.index r.page.epoch r.page.wseq (codedOf u (sessionImage u x) false r.page)).ses = u.ses := fun u => by
    split
    · rfl
    · exact sendBuddy_ses ..
  unfold noteRepair
  extract_lets again
  split
  · exact (hagain _).trans (sessionEvent_ses ..)
  · exact (hagain _).trans (sessionEvent_ses ..)
  · rfl

theorem readPool_ses (s : State) (x : Session) (p : Page) : (readPool s x p).ses = s.ses := by
  unfold readPool
  split
  · exact askLender_ses ..
  · rfl

/-- Pages that land are RESIDENT, each in a frame of the hearth (R120). -/
theorem landPages_lands {s : State} {x z : Session} (hz : s.session x.slot = some z) (reads : List PageRead) (got : List (Nat × Nat)) :
    ∃ y, (landPages s x reads got).session x.slot = some y ∧ y.state = .resident ∧ y.log = z.log ∧ y.pending = z.pending ∧
      ∀ p ∈ y.pages, ∃ f, p.place = .hearth f := by
  unfold landPages
  extract_lets frameOf u v
  have hu : u.ses = s.ses := foldl_keeps State.ses _ (fun s r => by split <;> rfl) reads s
  have hv : v.session x.slot = some z := (session_of_ses ((freeGranules_ses ..).trans hu) _).trans hz
  refine ⟨_, (session_of_ses (sendSlotEntry_ses ..) _).trans (session_onSession_same _ _ hv), rfl, rfl, rfl, fun p hp => ?_⟩
  obtain ⟨r, -, hr⟩ := List.mem_filterMap.mp hp
  obtain ⟨f, -, rfl⟩ := Option.map_eq_some_iff.mp hr
  exact ⟨f, rfl⟩

theorem textKeeps_of_allot {s t : State} {slot : Nat} {pages : List Nat} {step : Bool} {got : Option (List (Nat × Nat))}
    (h : allotPages s slot pages step = (t, got)) : TextKeeps s t := by
  have hkeep := textKeeps_allotPages s slot pages step
  rw [h] at hkeep
  exact hkeep

theorem bringIn_resident {s t : State} {slot : Nat} {twin : List TwinCopy} {keep : Nat} {x : Session} (hx : s.session slot = some x)
    (h : bringIn s slot twin keep = .resident t) :
    ∃ y, t.session slot = some y ∧ y.state = .resident ∧ y.log = x.log ∧ y.pending = x.pending ∧
      ∀ p ∈ y.pages, ∃ f, p.place = .hearth f := by
  have hslot := session_slot hx
  unfold bringIn at h
  rw [hx] at h
  dsimp only at h
  generalize hu : List.foldl (fun s r => noteRepair s x r) _ _ = u at h
  have huses : u.ses = s.ses := by
    rw [← hu, foldl_keeps State.ses _ (fun s r => noteRepair_ses s x r), foldl_keeps State.ses _ (fun s p => readPool_ses s x p)]
    show (ite _ _ _ : State).ses = s.ses
    split <;> rfl
  split at h
  · cases h
  · cases h
  · split at h
    · cases h
    · rename_i v got hallot
      cases h
      have hkeep : TextKeeps u v := textKeeps_of_allot hallot
      obtain ⟨z, hz, htext⟩ := hkeep.session_some ((session_of_ses huses slot).trans hx)
      obtain ⟨y, hy, hstate, hlog, hpending, hpages⟩ := landPages_lands (x := x) (hslot.symm ▸ hz) _ got
      exact ⟨y, hslot ▸ hy, hstate, hlog.trans (log_of_text htext), hpending.trans (pending_of_text htext), hpages⟩

theorem sessionRevive_revives {s s' : State} {o : Origin} {twin : List TwinCopy} {micros : Nat} {errs : List ReadError} {d : InFlight}
    {x : Session} (hstart : startSession s o opRevive true = some (d, .ok x)) (hstill : ∀ p ∈ x.pages, p.target = none)
    (hcompat : s.host.compat = false) (hkv : x.kvLost = none) (hstate : x.state = .parked) (hpending : x.pending = [])
    (hbring : bringIn (tellShares s x (.revive 0)) x.slot twin 0 = .resident s') (htaken : takenUncleared s s' = []) :
    ∃ t y, exec (.sessionRevive o twin ⟨micros, [], errs⟩) s = .next t ∧ t.session x.slot = some y ∧ y.state = .resident ∧
      y.log = x.log ∧ t.descriptor o = none ∧ ∀ p ∈ y.pages, ∃ f, p.place = .hearth f := by
  obtain ⟨-, hx, -, -, -⟩ := startSession_ok hstart
  obtain ⟨z, hz, hcore⟩ := (coreKeeps_tellShares s x (.revive 0)).session_some hx
  obtain ⟨y, hy, hystate, hlog, hypending, hpages⟩ := bringIn_resident hz hbring
  have hnone : y.pending = [] := hypending.trans ((pending_of_core hcore).trans hpending)
  have hloss : shareLoss [] = none := rfl
  have hnext : exec (.sessionRevive o twin ⟨micros, [], errs⟩) s = afterClears s
      (.next (complete s' o [] (halves micros y.log.length))) := by
    rw [exec_sessionRevive, execSessionRevive]
    simp only [hstart, hcompat, beginOn_of_still hx hstill, hkv, hstate, makeResidentSession, hx, hbring, List.contains_nil, hloss,
      Bool.false_eq_true, reduceCtorEq, if_false, if_true, rewriteCopies, Nat.zero_ne_one, afterRevive, hy, hnone, List.isEmpty_nil]
  have hquiet := quiet_complete s' o [] (halves micros y.log.length)
  rw [(TakesNone.of_quiet hquiet).afterClears htaken] at hnext
  exact ⟨_, y, hnext, (quiet_session hquiet _).trans hy, hystate, hlog.trans (log_of_core hcore), descriptor_complete .., hpages⟩

/-! ### Copying -/

theorem snapshotOf_fields (s : State) (x : Session) (slot key : Nat) (placed : List Page) :
    (snapshotOf s x slot key placed).slot = slot ∧ (snapshotOf s x slot key placed).state = .parked ∧
      (snapshotOf s x slot key placed).log = x.log ∧ (snapshotOf s x slot key placed).gener = none ∧
      (snapshotOf s x slot key placed).pages = placed := ⟨rfl, rfl, rfl, rfl, rfl⟩

/-- A copy whose pages are placed is put into its slot and told to its descriptor (R100). -/
theorem copySession_copies {s s' told : State} {o : Origin} {x : Session} {d : InFlight} {slot : Nat} {how : Recovery}
    {placed : List Page} (hx : s.session x.slot = some x) (hne : x.slot ≠ slot) (hshares : how.shares.contains .full = false)
    (htold : told = tellShares s x (.copy (mkHandle s.rdg.part x.tenant slot (nextGen s slot)) (parkWhere d.raw)))
    (hplace : placeParked (drawKey told).1 { x with slot := slot, pageKey := (drawKey told).2 } (parkWhere d.raw)
      (snapshotPages s x) = some (s', placed)) :
    ∃ t y z, copySession s o x d slot how [] = t ∧ t.session slot = some y ∧ y.state = .parked ∧
      y.log = x.log ∧ y.gener = none ∧ y.pages = placed ∧ t.descriptor o = none ∧ t.session x.slot = some z ∧ z.core = x.core ∧
      t.tie = s'.tie := by
  subst htold
  have hdrawn : CoreKeeps s (drawKey (tellShares s x
      (.copy (mkHandle s.rdg.part x.tenant slot (nextGen s slot)) (parkWhere d.raw)))).1 :=
    (coreKeeps_tellShares ..).trans (.of_ses rfl)
  obtain ⟨z, hz, hcore⟩ := (hdrawn.trans (placeParked_places hplace).1).session_some hx
  unfold copySession
  simp only [hshares, hplace, Bool.false_eq_true, if_false]
  generalize hy : snapshotOf s' x slot _ placed = y
  obtain ⟨hyslot, hystate, hylog, hygener, hypages⟩ : y.slot = slot ∧ y.state = .parked ∧ y.log = x.log ∧ y.gener = none ∧
    y.pages = placed := hy ▸ snapshotOf_fields ..
  obtain ⟨⟨a, ha⟩, -, hitie⟩ := installSession_session s' y
  have hothers := (installSession_slots s' y).2 x.slot (hyslot ▸ hne)
  rw [hyslot] at ha
  generalize hv : (ite ((2 ≤ y.durability && twinServes (installSession s' y)) = true) _ _ : State) = v
  have hvkeep : v.ses = (installSession s' y).ses ∧ v.tie = (installSession s' y).tie := by
    rw [← hv]
    split
    · exact ⟨sendCoded_ses .., (copyKeeps_sendCoded ..).tie⟩
    · exact ⟨rfl, rfl⟩
  have hlast : ∀ w : State, w.ses = v.ses → w.tie = v.tie → ∃ t y' z, complete w o [] (sessionHandle w y) = t ∧
      t.session slot = some y' ∧ y'.state = .parked ∧ y'.log = x.log ∧ y'.gener = none ∧ y'.pages = placed ∧ t.descriptor o = none ∧
      t.session x.slot = some z ∧ z.core = x.core ∧ t.tie = s'.tie := fun w hwses hwtie => by
    have hsame : ∀ n, w.session n = (installSession s' y).session n := session_of_ses (hwses.trans hvkeep.1)
    have hquiet := quiet_complete w o [] (sessionHandle w y)
    exact ⟨_, _, z, rfl, (quiet_session hquiet slot).trans ((hsame slot).trans ha), hystate, hylog, hygener, hypages,
      descriptor_complete .., (quiet_session hquiet x.slot).trans ((hsame x.slot).trans (hothers.trans hz)), hcore,
      (quiet_tie hquiet).trans (hwtie.trans (hvkeep.2.trans hitie))⟩
  cases x.grammar with
  | none => exact hlast v rfl rfl
  | some g => exact hlast (v.onKnd _) rfl rfl

theorem slotFree_state {s : State} {n : Nat} {x : Session} (h : slotFree s n = true) (hx : s.session n = some x) :
    x.state = .free ∨ x.state = .lost := by
  unfold slotFree at h
  rw [hx] at h
  simp only [Bool.and_eq_true, Bool.or_eq_true, beq_iff_eq] at h
  exact h.2.imp id And.left

theorem sessionSnapshot_copies {s s' told : State} {o : Origin} {slot : Nat} {how : Recovery} {d : InFlight} {x : Session}
    {placed : List Page} (hstart : startSession s o opSnapshot false = some (d, .ok x)) (hclean : StartsClean x how)
    (hcompat : s.host.compat = false) (hwhere : parkWhere d.raw ≠ 3) (hroom : slotsTaken s < slotLimit s)
    (htrng : s.fbx.trngOk = true) (hfree : slotFree s slot = true) (hstate : x.state = .resident ∨ x.state = .parked)
    (hshares : how.shares.contains .full = false)
    (htold : told = tellShares s x (.copy (mkHandle s.rdg.part x.tenant slot (nextGen s slot)) (parkWhere d.raw)))
    (hplace : placeParked (drawKey told).1 { x with slot := slot, pageKey := (drawKey told).2 } (parkWhere d.raw)
      (snapshotPages s x) = some (s', placed)) (htaken : takenUncleared s s' = []) :
    ∃ t y z, exec (.sessionSnapshot ⟨o, how⟩ slot) s = .next t ∧ t.session slot = some y ∧ y.state = .parked ∧
      y.log = x.log ∧ y.gener = none ∧ y.pages = placed ∧ t.descriptor o = none ∧
      t.session x.slot = some z ∧ z.state = x.state ∧ z.log = x.log ∧ z.gener = x.gener := by
  obtain ⟨-, hx, -, -, -⟩ := startSession_ok hstart
  have hne : x.slot ≠ slot := by
    rintro rfl
    rcases slotFree_state hfree hx with h | h <;> rcases hstate with h' | h' <;> rw [h] at h' <;> cases h'
  obtain ⟨t, y, z, hcopy, hy, hystate, hylog, hygener, hypages, hdesc, hz, hcore, htie⟩ :=
    copySession_copies (o := o) hx hne hshares htold hplace
  have hnext : exec (.sessionSnapshot ⟨o, how⟩ slot) s = afterClears s (.next t) := by
    rw [exec_sessionSnapshot, execSessionSnapshot]
    simp only [hstart, hcompat, hwhere, Nat.not_le.mpr hroom, htrng, hfree, beginOn_of_still hx hclean.1, recover_clean hx hclean,
      hx, Option.getD_some, hcopy, decide_false, Bool.or_self, Bool.not_true, Bool.false_eq_true, if_false]
  rw [(TakesNone.of_tie htie).afterClears htaken] at hnext
  have hgener := congrArg Session.gener hcore
  exact ⟨t, y, z, hnext, hy, hystate, hylog, hygener, hypages, hdesc, hz, state_of_core hcore, log_of_core hcore, hgener⟩

/-! ### Freeing a slot -/

/-- A slot that is freed stands under its next generation, and empty (R89). -/
theorem freeSlot_frees (s : State) (slot gen : Nat) : (freeSlot s slot gen).hrt = s.hrt ∧
    ∃ y, (freeSlot s slot gen).session slot = some y ∧ y.state = .free ∧ y.gen = gen + 1 ∧ y.log = [] ∧ y.pages = [] ∧
      y.gener = none ∧ y.prefill = none := by
  unfold freeSlot
  extract_lets held u v
  have hu : ∃ y, u.session slot = some y ∧ y.state = .free ∧ y.gen = gen + 1 ∧ y.log = [] ∧ y.pages = [] ∧ y.gener = none ∧
      y.prefill = none := ⟨_, session_putSession_at s rfl, rfl, rfl, rfl, rfl, rfl, rfl⟩
  have hv : v.hrt = s.hrt ∧ v.session slot = u.session slot := by
    show (ite _ _ _ : State).hrt = _ ∧ (ite _ _ _ : State).session slot = _
    split <;> exact ⟨rfl, rfl⟩
  obtain ⟨y, hy, hfields⟩ := hu
  exact ⟨(copyKeeps_sendSlotEntry ..).hrt.trans hv.1, y, (session_of_ses (sendSlotEntry_ses ..) slot).trans (hv.2.trans hy), hfields⟩

theorem closeSession_frees (s : State) (x : Session) :
    ∃ y, (closeSession s x).session x.slot = some y ∧ y.state = .free ∧ y.gen = x.gen + 1 ∧ y.log = [] ∧ y.pages = [] ∧
      y.gener = none ∧ y.prefill = none :=
  (freeSlot_frees ..).2

theorem sessionClose_closes {s : State} {o : Origin} {d : InFlight} {x : Session}
    (hstart : startSession s o opClose true = some (d, .ok x)) (hfirst : closing s d = none) :
    ∃ t y, exec (.sessionClose o) s = .next t ∧ t.session x.slot = some y ∧ y.state = .free ∧ y.gen = x.gen + 1 ∧
      y.log = [] ∧ y.pages = [] ∧ y.gener = none ∧ y.prefill = none ∧
      (stillEnding (closeSession s x) (dHandle d.raw) = none → t.descriptor o = none) := by
  obtain ⟨hcan, -, -, -, -⟩ := startSession_ok hstart
  obtain ⟨y, hy, hfields⟩ := closeSession_frees s x
  obtain ⟨hstate, hgen, hlog, hpages, hgener, hprefill⟩ := hfields
  have hexec := exec_sessionClose o s
  rw [execSessionClose] at hexec
  simp only [hcan, hfirst, hstart] at hexec
  rcases hend : stillEnding (closeSession s x) (dHandle d.raw) with _ | e
  · rw [hend] at hexec
    exact ⟨_, y, hexec, (quiet_session (quiet_complete ..) _).trans hy, hstate, hgen, hlog, hpages, hgener, hprefill,
      fun _ => descriptor_complete ..⟩
  · rw [hend] at hexec
    exact ⟨_, y, hexec, hy, hstate, hgen, hlog, hpages, hgener, hprefill, fun h => (nomatch h)⟩

theorem sessionClose_joins {s : State} {o first : Origin} {d : InFlight} {x : Session}
    (hstart : startSession s o opClose true = some (d, .ok x)) (hfirst : closing s d = some first) :
    exec (.sessionClose o) s = .next (s.onDescriptor o fun d => { d with phase := .follows first 0 }) := by
  obtain ⟨hcan, -, -, -, -⟩ := startSession_ok hstart
  rw [exec_sessionClose, execSessionClose]
  simp only [hcan, hfirst]

/-- Settles O29: each of the commands by the session that it leaves. -/
theorem sessionsMoveBetweenRestingStates : Obligations.SessionsMoveBetweenRestingStates := by
  unfold Obligations.SessionsMoveBetweenRestingStates
  refine ⟨fun s s' o how d x placed g hstart hclean hcompat hwhere hstate hshares hplace htaken =>
      sessionPark_parks hstart hclean hcompat hwhere hstate hshares hplace htaken,
    fun s s' o twin micros errs d x hstart hstill hcompat hkv hstate hpending hbring htaken =>
      sessionRevive_revives hstart hstill hcompat hkv hstate hpending hbring htaken,
    fun s s' told o slot how d x placed hstart hclean hcompat hwhere hroom htrng hfree hstate hshares htold hplace htaken =>
      sessionSnapshot_copies hstart hclean hcompat hwhere hroom htrng hfree hstate hshares htold hplace htaken,
    fun s o d x hstart => ⟨sessionClose_closes hstart, fun first => sessionClose_joins hstart⟩,
    fun s slot x hx hmoved hexpired => ?_⟩
  obtain ⟨hhrt, y, hy, hstate, hgen, -⟩ := freeSlot_frees s slot x.gen
  refine ⟨_, y, ?_, hy, hstate, hgen, hhrt⟩
  rw [exec_stubExpire, execStubExpire, hx]
  simp [hmoved, hexpired]

end Sys2Proof.Machine

end

section
/-!
SUPPORT. The background work of the tiers: copies of pages, demotion, promotion and the clear of foothill (R121, R126, R128, R341).
-/

namespace Sys2Proof.Machine

/-! ### Page copies -/

theorem relocateAgain_still {s : State} (h : NoneClosing s) : relocateAgain s = s := by
  have hnone : (s.rdg.borrowed.filter (·.closing)) = [] := List.filter_eq_nil_iff.mpr fun b hb => by simp [h b hb]
  rw [relocateAgain, hnone]
  rfl

/-- The page that takes the place of another of its number. -/
theorem setPage_session {s : State} {n : Nat} {x : Session} (hx : s.session n = some x) (p : Page) :
    ∃ y, (setPage s n p).session n = some y ∧ y.pages = x.pages.map (fun q => if q.index = p.index then p else q) ∧ y.log = x.log :=
  ⟨_, session_onSession_same s _ hx, rfl, rfl⟩

/-- A page that is switched lies where it was copied to, with the bytes that it had. -/
theorem switchPage_switches {s t : State} {x : Session} {p : Page} {target : PageTarget} (h : switchPage s x p target = some t) :
    ∃ q : Page, q.index = p.index ∧ q.target = none ∧ storedBytes q = storedBytes p ∧ t.ses = (setPage s x.slot q).ses ∧
      t.hrt = s.hrt ∧ t.rdg = s.rdg := by
  have hset : ∀ q, (setPage s x.slot q).hrt = s.hrt ∧ (setPage s x.slot q).rdg = s.rdg := fun q =>
    ⟨State.onSession_hrt .., State.onSession_rdg ..⟩
  have hfree : ∀ (u : State) tenant g, (freeGranules u tenant g).hrt = u.hrt ∧ (freeGranules u tenant g).rdg = u.rdg := fun u tenant g => by
    unfold freeGranules
    split <;> exact ⟨rfl, rfl⟩
  unfold switchPage at h
  split at h
  · cases h
  · split at h
    · rename_i g c e f hplace _
      cases h
      refine ⟨{ p with place := .pool e f g c, target := none }, rfl, rfl, ?_, freeGranules_ses .., (hfree ..).1.trans (hset _).1,
        (hfree ..).2.trans (hset _).2⟩
      simp only [storedBytes, hplace]
    · rename_i e' f' g c e f hplace _
      cases h
      refine ⟨{ p with place := .pool e f g c, target := none }, rfl, rfl, ?_, rfl, hset _⟩
      simp only [storedBytes, hplace]
    · rename_i e' f' g c hplace _
      cases h
      refine ⟨{ p with place := .foothill g c, target := none }, rfl, rfl, ?_, rfl, hset _⟩
      simp only [storedBytes, hplace]
    · cases h

theorem migrationSwitch_switches {s : State} {slot page : Nat} {ok : Bool} {x : Session} {p : Page} {target : PageTarget}
    (hx : s.session slot = some x) (hfound : x.pages.find? (fun q => q.index == page) = some p) (htarget : p.target = some target)
    (hheld : s.pwr.heldNow = false) (hwaits : copyWaits s target = false) (hclosing : NoneClosing s) :
    ∃ t y q, exec (.migrationSwitch slot page ok) s = .next t ∧ t.session slot = some y ∧ q ∈ y.pages ∧
      q.index = page ∧ q.target = none ∧ storedBytes q = storedBytes p ∧ (ok = false → q.place = p.place) ∧
      y.log = x.log ∧ t.hrt = s.hrt := by
  have hslot := session_slot hx
  have hindex : p.index = page := by simpa using List.find?_some hfound
  have hmem := List.mem_of_find?_eq_some hfound
  generalize hr : (if ok then (switchPage s x p target).getD (setPage s slot { p with target := none })
    else setPage s slot { p with target := none }) = r
  have hset : ∃ q : Page, q.index = p.index ∧ q.target = none ∧ storedBytes q = storedBytes p ∧ (ok = false → q.place = p.place) ∧
      r.ses = (setPage s slot q).ses ∧ r.hrt = s.hrt ∧ r.rdg = s.rdg := by
    have hstay : ∀ u, u = setPage s slot { p with target := none } → ∃ q : Page, q.index = p.index ∧ q.target = none ∧
        storedBytes q = storedBytes p ∧ (ok = false → q.place = p.place) ∧
        u.ses = (setPage s slot q).ses ∧ u.hrt = s.hrt ∧ u.rdg = s.rdg := fun u hu =>
      ⟨{ p with target := none }, rfl, rfl, rfl, fun _ => rfl, hu ▸ rfl, hu ▸ State.onSession_hrt .., hu ▸ State.onSession_rdg ..⟩
    rw [← hr]
    split
    · rename_i hok
      rcases hs : switchPage s x p target with _ | u
      · exact hstay _ rfl
      · obtain ⟨q, hq, hqtarget, hbytes, hses, hhrt, hrdg⟩ := switchPage_switches hs
        exact ⟨q, hq, hqtarget, hbytes, fun h => absurd (hok.symm.trans h) (by decide), hslot ▸ hses, hhrt, hrdg⟩
    · exact hstay _ rfl
  obtain ⟨q, hq, hqtarget, hbytes, hplace, hses, hhrt, hrdg⟩ := hset
  obtain ⟨y, hy, hpages, hlog⟩ := setPage_session hx q
  have hstill : NoneClosing r := fun b hb => hclosing b (hrdg ▸ hb)
  have hnext : exec (.migrationSwitch slot page ok) s = .next r := by
    rw [exec_migrationSwitch, execMigrationSwitch]
    simp only [hx, hfound, htarget, hheld, hwaits, Bool.or_self, Bool.false_eq_true, if_false, hr, relocateAgain_still hstill]
  refine ⟨r, y, q, hnext, (session_of_ses hses slot).trans hy, ?_, hq.trans hindex, hqtarget, hbytes, hplace, hlog, hhrt⟩
  rw [hpages]
  exact List.mem_map.mpr ⟨p, hmem, if_pos hq.symm⟩

/-! ### Parking of its own accord -/

theorem autoPark_parks {s t : State} {slot : Nat} (h : autoPark s slot = some t) : ∃ y, t.session slot = some y ∧ y.state = .parked := by
  obtain ⟨x, hx, h⟩ := Option.bind_eq_some_iff.mp h
  obtain ⟨⟨u, g⟩, hpark, rfl⟩ := Option.map_eq_some_iff.mp h
  obtain ⟨x', hx', hpark⟩ := Option.bind_eq_some_iff.mp hpark
  obtain ⟨⟨v, placed, g'⟩, hplace, hlast⟩ := Option.map_eq_some_iff.mp hpark
  cases hlast
  obtain ⟨y, hy, -⟩ := (placePark_places hplace).1.session_some hx'
  generalize hw : (ite ((2 ≤ x'.durability && twinServes v) = true) _ _ : State) = w
  have hwses : w.ses = v.ses := by
    rw [← hw]
    split
    · exact sendCoded_ses ..
    · rfl
  have hparked := commitPark_session placed ((session_of_ses hwses slot).trans hy)
  obtain ⟨z, hz, hcore⟩ := (coreKeeps_tellShares _ x (.park 0 false)).session_some hparked
  exact ⟨z, hz, (state_of_core hcore).trans rfl⟩

/-! ### Demotion and promotion -/

theorem writePool_hrt (s : State) (x : Session) (page : Nat) (e : Word) (first : Nat) (coded : List Byte) :
    (writePool s x page e first coded).hrt = s.hrt := by
  unfold writePool askLender
  split
  · unfold poolAsk
    split
    · exact sendRequest_hrt ..
    · rfl
  · rfl

/-- The start of a copy gives its page a target and leaves the hearth (R121). -/
theorem startCopy_targets {s : State} {x y : Session} (hy : s.session x.slot = some y) (p : Page) (t : PageTarget) :
    (startCopy s x p t).hrt = s.hrt ∧ ∃ z, (startCopy s x p t).session x.slot = some z ∧ z.log = y.log ∧
      z.pages = y.pages.map fun q => if q.index = p.index then { p with target := some t } else q := by
  unfold startCopy
  extract_lets u
  have hu : u.ses = s.ses ∧ u.hrt = s.hrt := by
    show (match t, startCopy.storedOf p with
      | .pool e f, some c => writePool s x p.index e f c
      | _, _ => s : State).ses = s.ses ∧ (match t, startCopy.storedOf p with
      | .pool e f, some c => writePool s x p.index e f c
      | _, _ => s : State).hrt = s.hrt
    split
    · exact ⟨writePool_ses .., writePool_hrt ..⟩
    · exact ⟨rfl, rfl⟩
  obtain ⟨z, hz, hpages, hlog⟩ := setPage_session ((session_of_ses hu.1 _).trans hy) { p with target := some t }
  exact ⟨(State.onSession_hrt ..).trans hu.2, z, hz, hlog, hpages⟩

/-- Copies started one after another give every page of their numbers one of their targets; the other pages stand. -/
theorem startCopies_target {β : Type} (pageOf : β → Page) (targetOf : β → PageTarget) (x : Session) (l : List β) {s : State} {y : Session}
    (hy : s.session x.slot = some y) :
    (l.foldl (fun s b => startCopy s x (pageOf b) (targetOf b)) s).hrt = s.hrt ∧
      ∃ z, (l.foldl (fun s b => startCopy s x (pageOf b) (targetOf b)) s).session x.slot = some z ∧ z.log = y.log ∧
        ∀ q ∈ z.pages, (∃ b ∈ l, q.target = some (targetOf b)) ∨ q ∈ y.pages ∧ ∀ b ∈ l, (pageOf b).index ≠ q.index := by
  induction l generalizing s y with
  | nil => exact ⟨rfl, y, hy, rfl, fun q hq => .inr ⟨hq, fun b hb => (nomatch hb)⟩⟩
  | cons b l ih =>
    rw [List.foldl_cons]
    obtain ⟨hhrt, w, hw, hwlog, hwpages⟩ := startCopy_targets hy (pageOf b) (targetOf b)
    obtain ⟨hhrt', z, hz, hzlog, hzpages⟩ := ih hw
    refine ⟨hhrt'.trans hhrt, z, hz, hzlog.trans hwlog, fun q hq => ?_⟩
    rcases hzpages q hq with ⟨c, hc, htarget⟩ | ⟨hqw, hothers⟩
    · exact .inl ⟨c, List.mem_cons_of_mem _ hc, htarget⟩
    · rw [hwpages] at hqw
      obtain ⟨r, hr, hrq⟩ := List.mem_map.mp hqw
      by_cases hindex : r.index = (pageOf b).index
      · rw [if_pos hindex] at hrq
        exact .inl ⟨b, List.mem_cons_self .., hrq ▸ rfl⟩
      · rw [if_neg hindex] at hrq
        subst hrq
        exact .inr ⟨hr, fun c hc => (List.mem_cons.mp hc).elim (fun h => h ▸ Ne.symm hindex) (hothers c)⟩

/-- A fold that adds one entry in each step that does not end it. -/
theorem foldl_option_length {α β γ : Type} {f : Option (List β × γ) → α → Option (List β × γ)} (hnone : ∀ a, f none a = none)
    (hstep : ∀ l c a r, f (some (l, c)) a = some r → r.1.length = l.length + 1) (as : List α) (l : List β) (c : γ) {r : List β × γ}
    (h : as.foldl f (some (l, c)) = some r) : r.1.length = l.length + as.length := by
  induction as generalizing l c with
  | nil => cases h; rfl
  | cons a as ih =>
    rw [List.foldl_cons] at h
    rcases hb : f (some (l, c)) a with _ | ⟨l', c'⟩
    · rw [hb, foldl_none hnone] at h
      cases h
    · rw [hb] at h
      have hl : l'.length = l.length + 1 := hstep l c a _ hb
      rw [ih l' c' h, hl, List.length_cons, Nat.add_assoc, Nat.add_comm 1]

/-- Every range asked for gets its place. -/
theorem poolPlaces_length {s : State} {extents : List Word} {sizes : List Nat} {places : List (Word × Nat)}
    (h : poolPlaces s extents sizes = some places) : places.length = sizes.length := by
  obtain ⟨r, hr, rfl⟩ := Option.map_eq_some_iff.mp h
  refine (foldl_option_length (fun _ => rfl) (fun done used n r hstep => ?_) sizes [] _ hr).trans (Nat.zero_add _)
  dsimp only at hstep
  split at hstep
  · cases hstep
  · cases hstep
    exact List.length_append

theorem demotion_targets {s : State} {x : Session} {xs : List Session} {places : List (Word × Nat)} (hready : s.pwr.ready = true)
    (hheld : s.pwr.heldNow = false) (hclosing : NoneClosing s) (hfull : fld s.tie.placeCtl 23 16 < foothillPct s 0)
    (hfirst : demotable s = x :: xs) (hx : s.session x.slot = some x) (hplaces : demotionPlaces s x = some places) :
    ∃ t y, exec .demotion s = .next t ∧ t.session x.slot = some y ∧ y.log = x.log ∧ t.hrt = s.hrt ∧
      ∀ q ∈ y.pages, demotes q = true → ∃ e f, q.target = some (.pool e f) := by
  obtain ⟨hhrt, y, hy, hlog, hpages⟩ := startCopies_target (β := Page × Word × Nat) Prod.fst (fun b => .pool b.2.1 b.2.2) x
    ((x.pages.filter demotes).zip places) hx
  have hlength : places.length = (x.pages.filter demotes).length :=
    (poolPlaces_length hplaces).trans (List.length_map ..)
  refine ⟨_, y, ?_, hy, hlog, hhrt, fun q hq hdemotes => ?_⟩
  · rw [exec_demotion, execDemotion]
    simp only [hready, hheld, relocateAgain_still hclosing, Nat.not_le.mpr hfull, hfirst, List.findSome?_cons, hplaces, Option.map_some,
      Bool.not_true, Bool.or_self, Bool.false_eq_true, if_false]
  · rcases hpages q hq with ⟨b, -, htarget⟩ | ⟨hqx, hothers⟩
    · exact ⟨_, _, htarget⟩
    · have hin : q ∈ x.pages.filter demotes := List.mem_filter.mpr ⟨hqx, hdemotes⟩
      rw [← List.map_fst_zip (Nat.le_of_eq hlength.symm)] at hin
      obtain ⟨b, hb, heq⟩ := List.mem_map.mp hin
      exact absurd (congrArg Page.index heq) (hothers b hb)

theorem promotion_targets {s : State} {x : Session} {xs : List Session} (hready : s.pwr.ready = true) (hheld : s.pwr.heldNow = false)
    (hfirst : promotable s = x :: xs) (hx : s.session x.slot = some x) (hlow : foothillPct s 0 < fld s.tie.placeCtl 31 24)
    (hroom : foothillPct s (homeward s + ((x.pages.filter promotes).map pageGranules).sum) ≤ fld s.tie.placeCtl 31 24) :
    ∃ t y, exec .promotion s = .next t ∧ t.session x.slot = some y ∧ y.log = x.log ∧ t.hrt = s.hrt ∧
      ∀ q ∈ y.pages, promotes q = true → q.target = some .home := by
  obtain ⟨hhrt, y, hy, hlog, hpages⟩ := startCopies_target id (fun _ => .home) x (x.pages.filter promotes) hx
  refine ⟨_, y, ?_, hy, hlog, hhrt, fun q hq hpromotes => ?_⟩
  · rw [exec_promotion, execPromotion]
    simp only [hready, hheld, hfirst, Nat.not_le.mpr hlow, Nat.not_lt.mpr hroom, Bool.not_true, decide_false, Bool.or_self,
      Bool.false_eq_true, if_false, id]
  · rcases hpages q hq with ⟨b, -, htarget⟩ | ⟨hqx, hothers⟩
    · exact htarget
    · exact absurd rfl (hothers q (List.mem_filter.mpr ⟨hqx, hpromotes⟩))

/-! ### Clearing -/

theorem foothillClear_clears {s : State} {verified : Bool} {u : Uncleared} {rest : List Uncleared} (hready : s.pwr.ready = true)
    (hheld : s.pwr.heldNow = false) (hfirst : s.tie.uncleared = u :: rest) (hextent : u.extent = none) :
    ∃ t, exec (.foothillClear verified) s = .next t ∧ t.ses = s.ses ∧ t.hrt = s.hrt ∧
      (verified = true → t.tie.uncleared = rest ∧ t.tie.retiredGranules = s.tie.retiredGranules ∧ t.fbx = s.fbx) ∧
      (verified = false → t.fbx.isoSeen = true ∧ t.fbx.isoCause = 3 ∧ t.fbx.isoTenant = u.tenant ∧
        t.fbx.verifyFails = min 0xFFFF (s.fbx.verifyFails + 1) ∧
        (u.failed = true → t.tie.uncleared = rest ∧ t.tie.retiredGranules = s.tie.retiredGranules + 1) ∧
        (u.failed = false → t.tie.uncleared = { u with granules := 1, failed := true } :: rest)) := by
  have hexec := exec_foothillClear verified s
  rw [execFoothillClear] at hexec
  simp only [hready, hheld, hfirst, hextent, Option.isSome_none, Bool.not_true, Bool.or_self, Bool.false_eq_true, if_false] at hexec
  cases verified with
  | true => exact ⟨_, hexec, rfl, rfl, fun _ => ⟨rfl, rfl, rfl⟩, fun h => (nomatch h)⟩
  | false =>
    have hcount : bump 16 s.fbx.verifyFails = min 0xFFFF (s.fbx.verifyFails + 1) := Nat.min_comm _ _
    cases hfailed : u.failed with
    | true =>
      rw [if_neg Bool.false_ne_true, if_pos hfailed] at hexec
      exact ⟨_, hexec, rfl, rfl, fun h => (nomatch h), fun _ => ⟨rfl, rfl, rfl, hcount, fun _ => ⟨rfl, rfl⟩, fun h => (nomatch h)⟩⟩
    | false =>
      rw [if_neg Bool.false_ne_true, if_neg (by rw [hfailed]; decide)] at hexec
      exact ⟨_, hexec, rfl, rfl, fun h => (nomatch h), fun _ => ⟨rfl, rfl, rfl, hcount, fun h => (nomatch h), fun _ =>
        congrArg (fun e => ({ u with extent := e, granules := 1, failed := true } : Uncleared) :: rest) hextent.symm⟩⟩

/-- Settles O31: each kind of background work by the pages that it gives a place. -/
theorem tiersMigrateAndClear : Obligations.TiersMigrateAndClear := by
  unfold Obligations.TiersMigrateAndClear
  refine ⟨fun s slot page ok x p target hx hfound htarget hheld hwaits hclosing =>
      migrationSwitch_switches hx hfound htarget hheld hwaits hclosing,
    fun s s' c cs hready hheld hauto hfull hfirst hpark => ?_,
    fun s x xs places hready hheld hclosing hfull hfirst hx hplaces => demotion_targets hready hheld hclosing hfull hfirst hx hplaces,
    fun s x xs hready hheld hfirst hx hlow hroom => promotion_targets hready hheld hfirst hx hlow hroom,
    fun s verified u rest hready hheld hfirst hextent => foothillClear_clears hready hheld hfirst hextent⟩
  obtain ⟨y, hy, hstate⟩ := autoPark_parks hpark
  refine ⟨s', y, ?_, hy, hstate⟩
  rw [exec_autoPark, execAutoPark]
  simp only [hready, hheld, hauto, Nat.not_le.mpr hfull, hfirst, List.findSome?_cons, hpark, Bool.not_true, decide_false, Bool.or_self,
    Bool.false_eq_true, if_false, Option.getD_some]

end Sys2Proof.Machine

end

section
/-!
SUPPORT. A session that moves to another part (R100, R106 to R111).
-/

namespace Sys2Proof.Machine

/-- What the sending of a session leaves: the time, the registers of moving, and the frames taken. -/
structure MoveWork (s t : State) : Prop where
  localNs : t.localNs = s.localNs
  moveCtl : t.ses.moveCtl = s.ses.moveCtl
  img : t.img = s.img
  takes : TakesNone s t

theorem MoveWork.refl (s : State) : MoveWork s s := ⟨rfl, rfl, rfl, .of_tie rfl⟩

theorem MoveWork.trans {s t u : State} (h : MoveWork s t) (k : MoveWork t u) : MoveWork s u :=
  ⟨k.localNs.trans h.localNs, k.moveCtl.trans h.moveCtl, k.img.trans h.img, h.takes.trans k.takes⟩

theorem MoveWork.foldl {α : Type} {f : State → α → State} (h : ∀ s a, MoveWork s (f s a)) (l : List α) (s : State) :
    MoveWork s (l.foldl f s) :=
  List.foldlRecOn l f (motive := MoveWork s) (.refl s) fun t ht a _ => ht.trans (h t a)

theorem MoveWork.of_ses {s t : State} (hses : t.ses = s.ses) (hlocalNs : t.localNs = s.localNs) (himg : t.img = s.img)
    (htie : t.tie = s.tie) : MoveWork s t :=
  ⟨hlocalNs, congrArg (·.moveCtl) hses, himg, .of_tie htie⟩

theorem moveWork_sendFrame (s : State) (part type cls : Nat) (p : Payload) (tenant req : Nat) (obj : Word) (d : Nat) (st : Status)
    (tw : Bool) : MoveWork s (sendFrame s part type cls p tenant req obj d st tw) :=
  .of_ses (sendFrame_ses ..) (sendFrame_localNs ..) (sendFrame_img ..) (sendFrame_tie ..)

theorem moveWork_sendRequest (s : State) (part cls : Nat) (r : Request) (tenant : Nat) (obj : Word) (d : Nat) (tw : Bool)
    (a : Option Nat) (o : Option Origin) : MoveWork s (sendRequest s part cls r tenant obj d tw a o).1 :=
  .of_ses (sendRequest_ses ..) (sendRequest_localNs ..) (sendRequest_img ..) (sendRequest_tie ..)

theorem moveWork_tellShares (s : State) (x : Session) (act : ShareAct) : MoveWork s (tellShares s x act) :=
  MoveWork.foldl (fun _ _ => moveWork_sendRequest ..) _ s

/-- A round sends frames and requests only. -/
theorem sendRound_keeps (s : State) (x : Session) (m : Move) (dirtyOnly : Bool) : (sendRound s x m dirtyOnly).ses = s.ses ∧
    (sendRound s x m dirtyOnly).tie = s.tie ∧ (sendRound s x m dirtyOnly).localNs = s.localNs ∧
    (sendRound s x m dirtyOnly).img = s.img := by
  have hpages : ∀ l, (sendPages s x m.dest m.req (sessionHandle s x) m.parked l).ses = s.ses ∧
      (sendPages s x m.dest m.req (sessionHandle s x) m.parked l).tie = s.tie ∧
      (sendPages s x m.dest m.req (sessionHandle s x) m.parked l).localNs = s.localNs ∧
      (sendPages s x m.dest m.req (sessionHandle s x) m.parked l).img = s.img := fun l =>
    ⟨foldl_keeps State.ses _ (fun _ _ => sendFrame_ses ..) _ s, foldl_keeps State.tie _ (fun _ _ => sendFrame_tie ..) _ s,
      foldl_keeps State.localNs _ (fun _ _ => sendFrame_localNs ..) _ s, foldl_keeps State.img _ (fun _ _ => sendFrame_img ..) _ s⟩
  unfold sendRound
  extract_lets mine u
  obtain ⟨hses, htie, hlocal, himg⟩ := hpages mine
  exact ⟨(foldl_keeps State.ses _ (fun _ _ => sendRequest_ses ..) _ u).trans hses,
    (foldl_keeps State.tie _ (fun _ _ => sendRequest_tie ..) _ u).trans htie,
    (foldl_keeps State.localNs _ (fun _ _ => sendRequest_localNs ..) _ u).trans hlocal,
    (foldl_keeps State.img _ (fun _ _ => sendRequest_img ..) _ u).trans himg⟩

theorem moveWork_sendRound (s : State) (x : Session) (m : Move) (dirtyOnly : Bool) : MoveWork s (sendRound s x m dirtyOnly) :=
  have ⟨hses, htie, hlocal, himg⟩ := sendRound_keeps s x m dirtyOnly
  .of_ses hses hlocal himg htie

theorem moveWork_freeSessionPages (s : State) (x : Session) : MoveWork s (freeSessionPages s x) := by
  have hfree : ∀ (u : State) tenant g, MoveWork u (freeGranules u tenant g) := fun u tenant g => by
    unfold freeGranules
    split
    · exact .refl u
    · exact ⟨rfl, rfl, rfl, .of_frames rfl⟩
  have hlocal : (freeFrames s x.pages).localNs = s.localNs :=
    foldl_keeps State.localNs _ (fun s p => by split <;> rfl) x.pages s
  have himg : (freeFrames s x.pages).img = s.img := foldl_keeps State.img _ (fun s p => by split <;> rfl) x.pages s
  exact MoveWork.trans ⟨hlocal, congrArg (·.moveCtl) (freeFrames_ses ..), himg, takesNone_freeFrames ..⟩ (hfree ..)

/-- What stands in the slot of a session that went to another part (R109). -/
def stubOf (s : State) (slot : Nat) (x : Session) (m : Move) : Session :=
  { slot := slot, gen := x.gen, state := .moved, tenant := x.tenant, cls := x.cls,
    movedTo := m.handle, expires := s.localNs + ms (fld s.ses.moveCtl 31 16) }

theorem handOver_stub (s : State) (slot : Nat) (x : Session) (m : Move) : ∃ u, MoveWork s u ∧
    handOver s slot x m = complete (sendSlotEntry (u.putSession (stubOf u slot x m)) slot) m.origin [] m.handle := by
  unfold handOver
  extract_lets sent id running goes record handed bumped gone told dropped noted stub
  have hsent : MoveWork s sent := moveWork_sendRound ..
  clear_value sent
  have hhanded : MoveWork sent handed := moveWork_sendFrame ..
  clear_value handed
  have hgone : MoveWork handed gone := by
    dsimp only [gone]
    split
    · split
      · exact ⟨rfl, rfl, rfl, .of_tie rfl⟩
      · exact ⟨rfl, rfl, rfl, .of_tie rfl⟩
    · exact .refl handed
  clear_value gone
  have htold : MoveWork gone told := moveWork_tellShares ..
  clear_value told
  have hdropped : MoveWork told dropped := (moveWork_freeSessionPages told x).trans ⟨rfl, rfl, rfl, .of_tie rfl⟩
  have hnoted : MoveWork dropped noted :=
    .of_ses (sessionEvent_ses ..) (sessionEvent_localNs ..) (sessionEvent_img ..) (sessionEvent_tie ..)
  exact ⟨noted, ((((hsent.trans hhanded).trans hgone).trans htold).trans hdropped).trans hnoted, rfl⟩

/-- A session that is handed over leaves a stub with the new handle (R109). -/
theorem handOver_leaves (s : State) (slot : Nat) (x : Session) (m : Move) : ∃ t y, handOver s slot x m = t ∧
    t.session slot = some y ∧ y.state = .moved ∧ y.movedTo = m.handle ∧ y.gen = x.gen ∧ y.pages = [] ∧ y.gener = none ∧
    t.descriptor m.origin = none ∧ y.expires = s.localNs + ms (fld s.ses.moveCtl 31 16) ∧ TakesNone s t := by
  obtain ⟨u, hwork, heq⟩ := handOver_stub s slot x m
  have hquiet := quiet_complete (sendSlotEntry (u.putSession (stubOf u slot x m)) slot) m.origin [] m.handle
  have hy : (sendSlotEntry (u.putSession (stubOf u slot x m)) slot).session slot = some (stubOf u slot x m) :=
    (session_of_ses (sendSlotEntry_ses ..) slot).trans (session_putSession_at u rfl)
  refine ⟨_, _, heq, (quiet_session hquiet slot).trans hy, rfl, rfl, rfl, rfl, rfl, descriptor_complete .., ?_, ?_⟩
  · simp only [stubOf, hwork.localNs, hwork.moveCtl]
  · refine hwork.takes.trans ?_
    exact .of_tie ((quiet_tie hquiet).trans (copyKeeps_sendSlotEntry ..).tie)

/-- What a state takes of itself is nothing: its own frames stand. -/
theorem takenUncleared_self (s : State) : takenUncleared s s = [] := by
  unfold takenUncleared
  rw [List.filterMap_eq_nil_iff]
  intro g hg
  simp [hg]

/-! ### The start of a move -/

theorem sessionMove_home {s : State} {o : Origin} {a : MoveAnswer} {how : Recovery} {d : InFlight} {x : Session}
    (hstart : startSession s o opMove false = some (d, .ok x)) (hcompat : s.host.compat = false)
    (hhome : moveDest d.raw = s.rdg.part) :
    ∃ t, exec (.sessionMove ⟨o, how⟩ a) s = .next t ∧ t.quiet = s.quiet ∧ t.descriptor o = none := by
  have hquiet := quiet_complete s o [] (dHandle d.raw)
  refine ⟨_, ?_, hquiet, descriptor_complete ..⟩
  rw [exec_sessionMove, execSessionMove]
  simp only [hstart, hcompat, hhome, Bool.false_eq_true, if_false, if_true]
  exact congrArg Host.Outcome.next (awaitClears_of_tie (quiet_tie hquiet))

/-- The move that starts (R106). -/
def newMove (s : State) (o : Origin) (d : InFlight) (x : Session) (h : Word) (group : List Nat) : Move :=
  { origin := o, dest := moveDest d.raw, handle := h, group := group, req := s.rdg.nextReq,
    parked := moveParked d.raw || x.state == .parked }

/-- A move that starts sends every page; an idle session of one part is handed over at once, another begins its rounds. -/
theorem startMove_starts (s : State) (o : Origin) (d : InFlight) (x : Session) (h : Word) (group : List Nat) :
    ∃ u, MoveWork s u ∧ startMove s o d x h group [] =
      if x.gener.isNone && (shareParts u (cleanPages x)).isEmpty then
        handOver (u.putSession (cleanPages x)) x.slot (cleanPages x) (newMove s o d x h group)
      else u.putSession { (cleanPages x) with
        move := some { (newMove s o d x h group) with sent := (cleanPages x).pages.map (·.index) } } := by
  unfold startMove
  extract_lets m v w u y
  have hv : MoveWork s v := ⟨rfl, rfl, rfl, .of_tie rfl⟩
  have hw : MoveWork v w := ⟨rfl, rfl, rfl, .of_tie rfl⟩
  exact ⟨u, (hv.trans hw).trans (moveWork_sendRound ..), rfl⟩

theorem shareParts_of_img {s t : State} (h : t.img = s.img) (x : Session) : shareParts t (cleanPages x) = shareParts s x :=
  congrArg (fun i => shareParts ({ s with img := i } : State) x) h

theorem cleanPages_clean (x : Session) : ∀ p ∈ (cleanPages x).pages, p.dirty = false := fun p hp => by
  obtain ⟨q, -, rfl⟩ := List.mem_map.mp hp
  rfl

theorem sessionMove_ready {s : State} {o : Origin} {h : Word} {group : List Nat} {how : Recovery} {d : InFlight} {x : Session}
    (hstart : startSession s o opMove false = some (d, .ok x)) (hclean : StartsClean x how) (hcompat : s.host.compat = false)
    (haway : moveDest d.raw ≠ s.rdg.part) (hup : s.partUp (moveDest d.raw) = true) :
    ∃ t y, exec (.sessionMove ⟨o, how⟩ (.ready h group)) s = .next t ∧ t.session x.slot = some y ∧
      (x.gener = none → shareParts s x = [] →
        y.state = .moved ∧ y.movedTo = h ∧ y.gen = x.gen ∧ y.pages = [] ∧ t.descriptor o = none ∧
        y.expires = s.localNs + 1000000 * fld s.ses.moveCtl 31 16) ∧
      ((x.gener ≠ none ∨ shareParts s x ≠ []) → y.log = x.log ∧ y.gener = x.gener ∧ (∀ p ∈ y.pages, p.dirty = false) ∧
        ∃ m, y.move = some m ∧ m.origin = o ∧ m.handle = h ∧ m.group = group ∧ m.round = 1 ∧ m.armed = false) := by
  obtain ⟨-, hx, -, -, -⟩ := startSession_ok hstart
  have hexec : exec (.sessionMove ⟨o, how⟩ (.ready h group)) s = afterClears s (.next (startMove s o d x h group [])) := by
    rw [exec_sessionMove, execSessionMove]
    simp only [hstart, hcompat, haway, hup, moveRefusal, beginOn_of_still hx hclean.1, recover_clean hx hclean, hx, Option.getD_some,
      Bool.not_true, Bool.false_eq_true, if_false]
  obtain ⟨u, hwork, heq⟩ := startMove_starts s o d x h group
  rw [shareParts_of_img hwork.img] at heq
  by_cases hidle : x.gener = none ∧ shareParts s x = []
  · rw [if_pos (by simp [hidle])] at heq
    obtain ⟨t, y, hover, hy, hstate, hto, hgen, hpages, -, hdesc, hexpires, htakes⟩ :=
      handOver_leaves (u.putSession (cleanPages x)) x.slot (cleanPages x) (newMove s o d x h group)
    have htaken : TakesNone s t := (hwork.takes.trans (u := u.putSession (cleanPages x)) (.of_tie rfl)).trans htakes
    rw [heq, hover, htaken.afterClears (takenUncleared_self s)] at hexec
    refine ⟨t, y, hexec, hy, fun _ _ => ⟨hstate, hto, hgen, hpages, hdesc, ?_⟩, fun hbusy => ?_⟩
    · have hsum : u.localNs + 1000000 * fld u.ses.moveCtl 31 16 = s.localNs + 1000000 * fld s.ses.moveCtl 31 16 := by
        rw [hwork.localNs, hwork.moveCtl]
      rw [hexpires, ms, Nat.mul_comm]
      exact hsum
    · exact absurd hidle fun hi => hbusy.elim (fun hg => hg hi.1) (fun hs => hs hi.2)
  · have hcond : ¬(x.gener.isNone && (shareParts s x).isEmpty) = true := by
      rwa [Bool.and_eq_true, Option.isNone_iff_eq_none, List.isEmpty_iff]
    rw [if_neg hcond] at heq
    generalize hm : ({ (newMove s o d x h group) with sent := (cleanPages x).pages.map (·.index) } : Move) = m at heq
    have hmove : m.origin = o ∧ m.handle = h ∧ m.group = group ∧ m.round = 1 ∧ m.armed = false := hm ▸ ⟨rfl, rfl, rfl, rfl, rfl⟩
    have htaken : TakesNone s (u.putSession { (cleanPages x) with move := some m }) := hwork.takes.trans (.of_tie rfl)
    rw [heq, htaken.afterClears (takenUncleared_self s)] at hexec
    exact ⟨_, _, hexec, session_putSession_at u rfl, fun hg hs => absurd ⟨hg, hs⟩ hidle,
      fun _ => ⟨rfl, rfl, cleanPages_clean x, m, rfl, hmove⟩⟩

/-! ### Rounds and the handover -/

/-- A move that goes on in another round (R108). -/
def nextRound (s : State) (x : Session) (m : Move) : Move :=
  { m with round := m.round + 1, skip := false, sent := (x.pages.filter (·.dirty)).map (·.index),
           sitsOut := m.sitsOut || maxRounds s ≤ m.round }

theorem nextRound_fields (s : State) (x : Session) (m : Move) : (nextRound s x m).round = m.round + 1 ∧
    (nextRound s x m).armed = m.armed ∧ (maxRounds s ≤ m.round → (nextRound s x m).sitsOut = true) :=
  ⟨rfl, rfl, fun h => by simp [nextRound, h]⟩

theorem moveRoundEnd_ends {s : State} {slot : Nat} {dirty : List Nat} {x : Session} {m : Move} (hx : s.session slot = some x)
    (hmove : x.move = some m) (hheld : s.pwr.heldNow = false) (harmed : m.armed = false) :
    ∃ t y n, exec (.moveRoundEnd ⟨slot, dirty⟩) s = .next t ∧ t.session slot = some y ∧ y.move = some n ∧ y.log = x.log ∧
      (n.armed = true ↔ ∀ k ∈ dirtyPages x :: dirty, k ≤ handoverPages s) ∧
      ((∃ k ∈ dirtyPages x :: dirty, handoverPages s < k) → n.round = m.round + 1 ∧ (∀ p ∈ y.pages, p.dirty = false) ∧
        (maxRounds s ≤ m.round → n.sitsOut = true)) := by
  have hslot := session_slot hx
  have hexec := exec_moveRoundEnd ⟨slot, dirty⟩ s
  rw [execMoveRoundEnd] at hexec
  simp only [hx, hmove] at hexec
  rw [if_neg (by simp [hheld, harmed])] at hexec
  by_cases hfew : ∀ k ∈ dirtyPages x :: dirty, k ≤ handoverPages s
  · rw [if_pos (by simpa using hfew)] at hexec
    refine ⟨_, _, _, hexec, session_putSession_at s hslot, rfl, rfl, ⟨fun _ => hfew, fun _ => rfl⟩, fun ⟨k, hk, hmany⟩ => ?_⟩
    exact absurd (hfew k hk) (Nat.not_le.mpr hmany)
  · rw [if_neg (by simpa using hfew)] at hexec
    have hctl : maxRounds (sendRound s x m true) = maxRounds s :=
      congrArg (fun v => max 2 (fld v 12 8)) (moveWork_sendRound s x m true).moveCtl
    rw [hctl] at hexec
    generalize sendRound s x m true = u at hexec
    obtain ⟨hround, hnarmed, hsits⟩ := nextRound_fields s x m
    have hput : (u.putSession { (cleanPages x) with move := some (nextRound s x m) }).session slot =
        some { (cleanPages x) with move := some (nextRound s x m) } := session_putSession_at u hslot
    obtain ⟨y, hy, hplan⟩ := (workStands_readmit _).session_some hput
    have hymove : y.move = some (nextRound s x m) := by
      have hkey := congrArg Session.move hplan
      exact hkey
    have hylog : y.log = x.log := by
      have hkey := congrArg Session.log hplan
      exact hkey
    have hypages : y.pages = (cleanPages x).pages := by
      have hkey := congrArg Session.pages hplan
      exact hkey
    have hround' : exec (.moveRoundEnd ⟨slot, dirty⟩) s =
        .next (readmit (u.putSession { (cleanPages x) with move := some (nextRound s x m) })) := hexec
    exact ⟨_, y, _, hround', hy, hymove, hylog, ⟨fun h => absurd (h.symm.trans (hnarmed.trans harmed)) (by decide), fun h => absurd h hfew⟩,
      fun _ => ⟨hround, hypages ▸ cleanPages_clean x, hsits⟩⟩

/-- Settles O30: a move to the part itself, its start, its rounds and its handover. -/
theorem moveHandsSessionsOver : Obligations.MoveHandsSessionsOver := by
  unfold Obligations.MoveHandsSessionsOver
  refine ⟨fun s o a how d x hstart hcompat hhome => sessionMove_home hstart hcompat hhome,
    fun s o h group how d x hstart hclean hcompat haway hup => sessionMove_ready hstart hclean hcompat haway hup,
    fun s slot dirty x m hx hmove hheld harmed _ => moveRoundEnd_ends hx hmove hheld harmed,
    fun s slot x m hx hmove hheld harmed => ⟨fun hcolumn => ?_, fun hfree hup => ?_⟩⟩
  · rw [exec_moveHandover, execMoveHandover, hx]
    simp only [hmove, hcolumn, Bool.or_true, if_true]
  · obtain ⟨t, y, hover, hy, hstate, hto, -, -, hgener, hdesc, -, -⟩ := handOver_leaves s slot x m
    refine ⟨t, y, ?_, hy, hstate, hto, hgener, hdesc⟩
    rw [exec_moveHandover, execMoveHandover, hx]
    simp only [hmove, hheld, harmed, hfree, hup, hover, Bool.not_true, Bool.or_self, Bool.false_eq_true, if_false]

end Sys2Proof.Machine

end

section
/-!
SUPPORT. Images that load, wait for their group and are unloaded (R190 to R194).
-/

namespace Sys2Proof.Machine

/-! ### The slots of the images -/

theorem image_of_img {s t : State} (h : t.img = s.img) (n : Nat) : t.image n = s.image n := by
  simp only [State.image, h]

theorem image_slot (s : State) (n : Nat) : (s.image n).slot = n := by
  rw [State.image]
  rcases h : lookupBy Image.slot n s.img.slots with _ | i
  · rfl
  · exact (lookup_mem h).2

theorem image_putImage_same (s : State) (i : Image) : (putImage s i).image i.slot = i :=
  congrArg (Option.getD · _) (upsert_get Image.slot i s.img.slots)

theorem image_putImage_other (s : State) {i : Image} {n : Nat} (h : n ≠ i.slot) : (putImage s i).image n = s.image n :=
  congrArg (Option.getD · _) (upsert_other Image.slot i s.img.slots n (Ne.symm h))

theorem image_onImage_other (s : State) {k n : Nat} (f : Image → Image) (h : n ≠ k) : (s.onImage k f).image n = s.image n :=
  image_putImage_other s (i := { f (s.image k) with slot := k }) h

theorem image_onImage_same (s : State) (k : Nat) (f : Image → Image) : (s.onImage k f).image k = { f (s.image k) with slot := k } :=
  image_putImage_same s { f (s.image k) with slot := k }

theorem mem_of_upsert {α : Type} {key : α → Nat} {x y : α} {l : List α} (h : y ∈ upsert key x l) : y = x ∨ y ∈ l := by
  induction l with
  | nil => exact .inl (List.mem_singleton.mp h)
  | cons z l ih =>
    rw [upsert] at h
    split at h
    · exact (List.mem_cons.mp h).imp_right (List.mem_cons_of_mem z)
    · rcases List.mem_cons.mp h with rfl | h
      · exact .inr (List.mem_cons_self ..)
      · exact (ih h).imp_right (List.mem_cons_of_mem z)

/-- The one image of an origin, once it is put. -/
theorem find_putImage {l : List Image} {i : Image} {o : Origin} (hi : i.origin = some o) (hl : ∀ j ∈ l, j.origin ≠ some o) :
    (upsert (·.slot) i l).find? (fun x => x.origin == some o) = some i := by
  have hin : i ∈ upsert (·.slot) i l := (lookup_mem (upsert_get Image.slot i l)).1
  rcases hf : (upsert (·.slot) i l).find? (fun x => x.origin == some o) with _ | j
  · exact absurd hi (by simpa using List.find?_eq_none.mp hf i hin)
  · have hj : j.origin = some o := by simpa using List.find?_some hf
    rcases mem_of_upsert (List.mem_of_find?_eq_some hf) with hsame | hmem
    · rw [hf, hsame]
    · exact absurd hj (hl j hmem)

/-! ### Ready and freed -/

/-- An image that becomes ready is counted, and its load completes (R192). -/
theorem becomeReady_ready (s : State) (slot : Nat) :
    ((becomeReady s slot).image slot).state = .ready ∧ ((becomeReady s slot).image slot).origin = none ∧
      ((becomeReady s slot).image slot).loads = ((s.image slot).loads + 1) % 2 ^ 32 ∧
      ((becomeReady s slot).image slot).id = (s.image slot).id ∧
      ((becomeReady s slot).image slot).weightFrames = (s.image slot).weightFrames ∧
      (∀ n, n ≠ slot → (becomeReady s slot).image n = s.image n) ∧ (becomeReady s slot).ses = s.ses ∧
      (becomeReady s slot).hrt = s.hrt ∧ (becomeReady s slot).tie = s.tie ∧
      ∀ o, (s.image slot).origin = some o → (becomeReady s slot).descriptor o = none := by
  have hslot := image_slot s slot
  unfold becomeReady
  extract_lets i j u
  have hj : j.slot = slot := hslot
  have hsame : u.image slot = { j with origin := none } := hj ▸ image_putImage_same s { j with origin := none }
  have hother : ∀ n, n ≠ slot → u.image n = s.image n := fun n hn =>
    image_putImage_other s (i := { j with origin := none }) (hj.symm ▸ hn)
  have hresult : ∀ t : State, t.quiet = u.quiet → (t.image slot).state = .ready ∧ (t.image slot).origin = none ∧
      (t.image slot).loads = ((s.image slot).loads + 1) % 2 ^ 32 ∧ (t.image slot).id = (s.image slot).id ∧
      (t.image slot).weightFrames = (s.image slot).weightFrames ∧
      (∀ n, n ≠ slot → t.image n = s.image n) ∧ t.ses = s.ses ∧ t.hrt = s.hrt ∧ t.tie = s.tie := fun t ht => by
    have himage := image_of_img (quiet_img ht)
    rw [himage slot, hsame]
    exact ⟨rfl, rfl, rfl, rfl, rfl, fun n hn => (himage n).trans (hother n hn), (quiet_ses ht).trans rfl, (quiet_hrt ht).trans rfl, (quiet_tie ht).trans rfl⟩
  split
  · rename_i o ho
    obtain ⟨h1, h2, h3, h4, h5, h6, h7, h8, h9⟩ := hresult _ (quiet_complete u o [] (imageHandle u j))
    refine ⟨h1, h2, h3, h4, h5, h6, h7, h8, h9, fun o' ho' => ?_⟩
    obtain rfl : o = o' := Option.some.inj (ho.symm.trans ho')
    exact descriptor_complete ..
  · rename_i hnone
    obtain ⟨h1, h2, h3, h4, h5, h6, h7, h8, h9⟩ := hresult u rfl
    exact ⟨h1, h2, h3, h4, h5, h6, h7, h8, h9, fun o' ho' => nomatch hnone.symm.trans ho'⟩

/-- A slot that is freed keeps its count of loads only. -/
theorem freeImage_frees (s : State) (slot : Nat) : (freeImage s slot).image slot = { slot := slot, loads := (s.image slot).loads } ∧
    ∀ n, n ≠ slot → (freeImage s slot).image n = s.image n := by
  have hpages : ∀ (s : State) (x : Session), (freeSessionPages s x).img = s.img := fun s x => (moveWork_freeSessionPages s x).img
  have hgranules : ∀ (s : State) tenant g, (freeGranules s tenant g).img = s.img := fun s tenant g => by
    unfold freeGranules
    split <;> rfl
  unfold freeImage
  extract_lets i guests u v w z
  have hu : u.img = s.img := by
    refine foldl_keeps State.img _ (fun s x => ?_) guests s
    exact hpages s x
  have hw : w.img = s.img := (hgranules ..).trans hu
  have hz : (freeRows z i).img = s.img := hw
  exact ⟨image_putImage_same _ { slot := slot, loads := i.loads }, fun n hn =>
    (image_putImage_other _ (i := { slot := slot, loads := i.loads }) hn).trans (image_of_img hz n)⟩

/-! ### Loading -/

/-- The image as it stands while it waits for its group (R191). -/
def waitingImage (s : State) (o : Origin) (img : List Byte) (i : Image) (k : Nat) : Image :=
  { i with slot := k, loads := (s.image k).loads, origin := some o,
           copy := backingCopy ((sectionData img 1).getD []) s.rdg.map.epoch,
           waitUntil := s.localNs + stageWait (asFetched s o), state := .waiting }

theorem writeTables_keeps (s : State) (i : Image) : (writeTables s i).ses = s.ses ∧ (writeTables s i).img = s.img := by
  unfold writeTables
  split
  · exact ⟨rfl, rfl⟩
  · exact ⟨foldl_keeps State.ses _ (fun s w => by split <;> rfl) _ s, foldl_keeps State.img _ (fun s w => by split <;> rfl) _ s⟩

/-- An image that is laid stands in the lowest empty slot, waiting. -/
theorem placeImage_waits {s : State} {k : Nat} {ks : List Nat} (hempty : emptySlots s = k :: ks) (o : Origin) (img : List Byte)
    (i : Image) : (placeImage s o img i).ses = s.ses ∧
    (placeImage s o img i).img = { s.img with slots := upsert (·.slot) (waitingImage s o img i k) s.img.slots } := by
  unfold placeImage
  extract_lets slot blob j u
  have hslot : slot = k := by
    show ((emptySlots s).head?).getD 0 = k
    rw [hempty]
    rfl
  have hj : j = waitingImage s o img i k := by
    subst hslot
    rfl
  obtain ⟨hses, himg⟩ := writeTables_keeps (layRows s j (chunks 2048 (ceilDiv blob.length 2048) blob) fun _ _ => true) j
  refine ⟨hses, ?_⟩
  have hput : (putImage (markRunning u o) j).img = { u.img with slots := upsert (·.slot) j u.img.slots } := rfl
  rw [hput, show u.img = s.img from himg, hj]

theorem stagesMissing_of_reports {s t : State} (h : t.img.reports = s.img.reports) (i : Image) : stagesMissing t i = stagesMissing s i := by
  simp only [stagesMissing, h]

/-- The frames for an image's weights are chosen before its other checks (R189). -/
theorem laidOut_frames {s : State} {i j : Image} (h : laidOut s i = some j) :
    j.weightFrames = framesFor s i.framesPerBank ∧ j.framesPerBank = i.framesPerBank ∧ j.stages = i.stages := by
  unfold laidOut at h
  extract_lets out i' at h
  refine foldl_option_inv (P := fun j : Image => j.weightFrames = framesFor s i.framesPerBank ∧
    j.framesPerBank = i.framesPerBank ∧ j.stages = i.stages) (fun _ => rfl) (fun a d b ha hb => ?_) _ i' ⟨rfl, rfl, rfl⟩ h
  rw [Option.bind_some] at hb
  extract_lets free need at hb
  split at hb
  · cases hb
  · cases hb
    exact ha

theorem loadChecks_frames {s : State} {img : List Byte} {i j : Image} (h : loadChecks s img i = .ok j) :
    j.weightFrames = framesFor s j.framesPerBank ∧ j.stages = i.stages := by
  unfold loadChecks at h
  split at h
  · cases h
  · split at h
    · cases h
    · split at h
      · cases h
      · rename_i hlaid
        split at h
        · cases h
          obtain ⟨hframes, hper, hstages⟩ := laidOut_frames hlaid
          exact ⟨by rw [hframes, hper], hstages⟩
        · cases h

/-- An image whose checks pass, and for which there is room at once, is laid; what follows decides whether it is ready. -/
theorem imageLoad_lays {s : State} {o : Origin} {img tenants : List Byte} {group : List Nat} {d : InFlight} {i : Image} {k : Nat}
    {ks : List Nat} (hstart : canStart s o opImageLoad = some d) (hload : loadUnload d.raw = false)
    (hlength : img.length = loadLength d.raw)
    (hstages : loadGroup d.raw = 0 → (imageRecord img (if loadTenants d.raw = 0 then none else some tenants)
      (if loadGroup d.raw = 0 then [s.rdg.part] else group)).stages = 1)
    (hchecks : loadChecks s img (imageRecord img (if loadTenants d.raw = 0 then none else some tenants)
      (if loadGroup d.raw = 0 then [s.rdg.part] else group)) = .ok i)
    (hroom : loadRoom i s = true) (hsections : sectionsMatch img = true) (hclear : awaitsClear i s = false)
    (hnone : ∀ j ∈ s.img.slots, j.origin ≠ some o) (hempty : emptySlots s = k :: ks) :
    ∃ u, u.ses = s.ses ∧ u.img = (placeImage s o img i).img ∧
      exec (.imageLoad o img tenants group) s = .next (if i.stage = 0 ∧ stagesMissing s i ≠ [] then u else becomeReady u k) := by
  obtain ⟨hses, himg⟩ := placeImage_waits hempty o img i
  have hslot : (((placeImage s o img i).img.slots.find? fun x => x.origin == some o).map (·.slot)).getD 0 = k := by
    rw [himg]
    exact congrArg (fun j => (Option.map Image.slot j).getD 0) (find_putImage (i := waitingImage s o img i k) rfl hnone)
  have hreports : (placeImage s o img i).img.reports = s.img.reports := by rw [himg]
  have hmissing := stagesMissing_of_reports hreports i
  have hexec := exec_imageLoad o img tenants group s
  rw [execImageLoad] at hexec
  have hroomy : makeRoom s (loadRoom i) = s := by rw [makeRoom, if_pos hroom]
  have hform : ¬(decide (img.length ≠ loadLength d.raw) || (decide (loadGroup d.raw = 0) &&
      decide ((imageRecord img (if loadTenants d.raw = 0 then none else some tenants)
      (if loadGroup d.raw = 0 then [s.rdg.part] else group)).stages ≠ 1))) = true := by
    simpa [hlength] using hstages
  simp only [hstart, hload, Bool.false_eq_true, if_false] at hexec
  rw [if_neg hform, hchecks] at hexec
  simp only [hroomy, hroom, hsections, hclear, Bool.not_true, Bool.false_eq_true, if_false, hslot, hmissing] at hexec
  by_cases hstage : i.stage = 0
  · rw [if_neg (not_not_intro hstage)] at hexec
    by_cases hall : stagesMissing s i = []
    · rw [if_pos (by rw [hall]; rfl)] at hexec
      exact ⟨_, hses, rfl, hexec.trans (by rw [if_neg fun h => h.2 hall])⟩
    · rw [if_neg (by simpa using hall)] at hexec
      exact ⟨_, hses, rfl, hexec.trans (by rw [if_pos ⟨hstage, hall⟩])⟩
  · rw [if_pos hstage] at hexec
    have hready : ¬(i.stage = 0 ∧ stagesMissing s i ≠ []) := fun h => hstage h.1
    split at hexec
    · exact ⟨_, (sendRequest_ses ..).trans hses, sendRequest_img .., hexec.trans (by rw [if_neg hready])⟩
    · exact ⟨_, hses, rfl, hexec.trans (by rw [if_neg hready])⟩

theorem imageLoad_loads {s : State} {o : Origin} {img tenants : List Byte} {group : List Nat} {d : InFlight} {i : Image} {k : Nat}
    {ks : List Nat} (hstart : canStart s o opImageLoad = some d) (hload : loadUnload d.raw = false)
    (hlength : img.length = loadLength d.raw) (hstages : loadGroup d.raw = 0 → i.stages = 1)
    (hchecks : loadChecks s img (imageRecord img (if loadTenants d.raw = 0 then none else some tenants)
      (if loadGroup d.raw = 0 then [s.rdg.part] else group)) = .ok i)
    (hroom : loadRoom i s = true) (hsections : sectionsMatch img = true) (hclear : awaitsClear i s = false)
    (hnone : ∀ j ∈ s.img.slots, j.origin ≠ some o) (hempty : emptySlots s = k :: ks) :
    ∃ t, exec (.imageLoad o img tenants group) s = .next t ∧ (t.image k).id = i.id ∧
      (t.image k).weightFrames = framesFor s i.framesPerBank ∧ t.ses = s.ses ∧
      (∀ n, n ≠ k → t.image n = s.image n) ∧
      ((i.stage ≠ 0 ∨ stagesMissing s i = []) → (t.image k).state = .ready ∧ (t.image k).origin = none ∧
        (t.image k).loads = ((s.image k).loads + 1) % 2 ^ 32 ∧ t.descriptor o = none) ∧
      (i.stage = 0 → stagesMissing s i ≠ [] → (t.image k).state = .waiting ∧ (t.image k).origin = some o ∧
        (t.image k).loads = (s.image k).loads) := by
  obtain ⟨hframes, hsame⟩ := loadChecks_frames hchecks
  obtain ⟨u, huses, huimg, hexec⟩ := imageLoad_lays hstart hload hlength (fun h => hsame ▸ hstages h) hchecks hroom hsections hclear
    hnone hempty
  obtain ⟨-, himg⟩ := placeImage_waits hempty o img i
  have hput : ∀ n, u.image n = (putImage s (waitingImage s o img i k)).image n := image_of_img (huimg.trans himg)
  have hk : u.image k = waitingImage s o img i k := (hput k).trans (image_putImage_same s (waitingImage s o img i k))
  have hothers : ∀ n, n ≠ k → u.image n = s.image n := fun n hn =>
    (hput n).trans (image_putImage_other s (i := waitingImage s o img i k) hn)
  by_cases hwait : i.stage = 0 ∧ stagesMissing s i ≠ []
  · rw [if_pos hwait] at hexec
    refine ⟨u, hexec, ?_, ?_, huses, hothers, fun h => ?_, fun _ _ => ?_⟩
    · rw [hk]; rfl
    · rw [hk]; exact hframes
    · exact absurd hwait fun hw => h.elim (fun h => h hw.1) (fun h => hw.2 h)
    · rw [hk]; exact ⟨rfl, rfl, rfl⟩
  · rw [if_neg hwait] at hexec
    obtain ⟨hstate, horigin, hloads, hid, hweights, hrest, hbses, -, -, hdesc⟩ := becomeReady_ready u k
    rw [hk] at hloads hid hweights hdesc
    exact ⟨_, hexec, hid, hweights.trans hframes, hbses.trans huses, fun n hn => (hrest n hn).trans (hothers n hn),
      fun _ => ⟨hstate, horigin, hloads, hdesc o rfl⟩, fun h h' => absurd ⟨h, h'⟩ hwait⟩

/-! ### Unloading -/

theorem imageUnload_unloads {s : State} {o : Origin} {d : InFlight} (hstart : canStart s o opImageLoad = some d)
    (hunload : loadUnload d.raw = true) {i : Image} (hi : imageOf s (dHandle d.raw) = some i) :
    (unloadBusy s i = true → exec (.imageUnload o) s = .next (refuse s o .sessionBusy)) ∧
      (unloadBusy s i = false → i.stage = 0 →
        ∃ t, exec (.imageUnload o) s = .next t ∧ t.image i.slot = { slot := i.slot, loads := (s.image i.slot).loads } ∧
          t.descriptor o = none ∧ ∀ n, n ≠ i.slot → t.image n = s.image n) ∧
      (∀ p, unloadBusy s i = false → i.stage ≠ 0 → i.group[0]? = some p → s.partUp p = true →
        ∃ t, exec (.imageUnload o) s = .next t ∧ (t.image i.slot).state = .unloading ∧
          (t.descriptor o).map (·.phase) = some .running ∧ t.ses = s.ses ∧ t.hrt = s.hrt ∧
          ∀ n, n ≠ i.slot → t.image n = s.image n) := by
  have hexec := exec_imageUnload o s
  rw [execImageUnload] at hexec
  simp only [hstart, hunload, hi, Bool.not_true, Bool.false_eq_true, if_false] at hexec
  refine ⟨fun hbusy => hexec.trans (if_pos hbusy), fun hfree hstage => ?_, fun p hfree hstage hgroup hup => ?_⟩
  · rw [if_neg (by simp [hfree]), if_pos hstage] at hexec
    obtain ⟨hslot, hothers⟩ := freeImage_frees s i.slot
    have himg := image_of_img (quiet_img (quiet_complete (freeImage s i.slot) o [] 0))
    exact ⟨_, hexec, (himg _).trans hslot, descriptor_complete .., fun n hn => (himg n).trans (hothers n hn)⟩
  · rw [if_neg (by simp [hfree]), if_neg hstage] at hexec
    simp only [hgroup, hup, Bool.not_true, Bool.false_eq_true, if_false] at hexec
    generalize hu : (sendRequest s p 0 (.unloadAsk i.id) d.tenant (dHandle d.raw) 0 false none (some o)).1 = u at hexec
    have hukeep : u.img = s.img ∧ u.ses = s.ses ∧ u.hrt = s.hrt ∧ u.desc = s.desc :=
      hu ▸ ⟨sendRequest_img .., sendRequest_ses .., sendRequest_hrt .., sendRequest_desc ..⟩
    obtain ⟨himg, hses, hhrt, hdesc⟩ := hukeep
    refine ⟨_, hexec, ?_, ?_, hses, hhrt, fun n hn => ?_⟩
    · exact congrArg Image.state (image_onImage_same u i.slot fun i => { i with state := .unloading })
    · have hd : (u.onImage i.slot fun i => { i with state := .unloading }).descriptor o = some d :=
        (descriptor_of_desc hdesc o).trans (canStart_some hstart).1
      rw [markRunning, descriptor_onDescriptor_same, hd]
      rfl
    · exact (image_onImage_other u (fun i => { i with state := .unloading }) hn).trans (image_of_img himg n)

/-- Settles O37: the image slots after each command. -/
theorem imagesLoadWaitAndUnload : Obligations.ImagesLoadWaitAndUnload := by
  unfold Obligations.ImagesLoadWaitAndUnload
  refine ⟨fun s o img tenants group d i k ks hstart hload hlength hstages hchecks hroom hsections hclear hnone hempty =>
      imageLoad_loads hstart hload hlength hstages hchecks hroom hsections hclear hnone hempty,
    fun s slot hstate hmissing _ => ?_, fun s slot o hstate hlate hmissing horigin => ?_,
    fun s o d hstart hunload => ⟨fun hnone => ?_, fun i => imageUnload_unloads hstart hunload⟩⟩
  · obtain ⟨hready, -, hloads, -, -, -, hses, hhrt, htie, hdesc⟩ := becomeReady_ready s slot
    refine ⟨_, ?_, hready, hloads, hses, hhrt, htie, hdesc⟩
    rw [exec_imageLoadComplete, execImageLoadComplete]
    exact if_pos (by simp [hstate, hmissing])
  · have hquiet := quiet_complete (freeImage s slot) o [.peerLost] 0
    refine ⟨refuse (freeImage s slot) o .peerLost, ?_, ?_, descriptor_complete ..⟩
    · rw [exec_stageWaitTimeout, execStageWaitTimeout]
      simp only [hstate, hlate, horigin]
      exact if_pos (by simpa using hmissing)
    · exact (image_of_img (quiet_img hquiet) slot).trans (freeImage_frees s slot).1
  · rw [exec_imageUnload, execImageUnload]
    simp only [hstart, hunload, hnone, Bool.not_true, Bool.false_eq_true, if_false]

end Sys2Proof.Machine

end

section
/-!
SUPPORT. Steering variants and the commit of a tuning step (R197, R222 to R225).
-/

namespace Sys2Proof.Machine

/-! ### Variants -/

theorem lookupBy_dropKey_same {α : Type} (key : α → Nat) (n : Nat) (l : List α) : lookupBy key n (dropKey key n l) = none :=
  List.find?_eq_none.mpr fun x hx => by
    have hkey := (List.mem_filter.mp hx).2
    simpa using hkey

theorem lookupBy_dropKey_other {α : Type} (key : α → Nat) {n k : Nat} (h : k ≠ n) (l : List α) :
    lookupBy key k (dropKey key n l) = lookupBy key k l := by
  rw [lookupBy, dropKey, List.find?_filter]
  refine congrArg (fun p => List.find? p l) (funext fun x => ?_)
  by_cases hx : key x = k
  · simp [hx, h]
  · simp [hx]

/-- What the stages of an image are told changes nothing but what goes out (R197). -/
theorem tellVariant_keeps (s : State) (i : Image) (n tenant : Nat) (records : List Byte) :
    (tellVariant s i n tenant records).ses = s.ses ∧ (tellVariant s i n tenant records).hrt = s.hrt ∧
      (tellVariant s i n tenant records).tie = s.tie ∧ (tellVariant s i n tenant records).img = s.img :=
  ⟨foldl_keeps State.ses _ (fun _ _ => sendRequest_ses ..) _ s, foldl_keeps State.hrt _ (fun _ _ => sendRequest_hrt ..) _ s,
    foldl_keeps State.tie _ (fun _ _ => sendRequest_tie ..) _ s, foldl_keeps State.img _ (fun _ _ => sendRequest_img ..) _ s⟩

/-- A command on the variants of one image, told to its stages and completed: the image has the new list, nothing else changes. -/
theorem completeVariants (s : State) (i : Image) (f : List Variant → List Variant) (n tenant : Nat) (records : List Byte) (o : Origin) :
    ∃ t, complete (tellVariant (s.onImage i.slot fun i => { i with variants := f i.variants }) i n tenant records) o [] 0 = t ∧
      (t.image i.slot).variants = f (s.image i.slot).variants ∧ t.descriptor o = none ∧ t.ses = s.ses ∧ t.hrt = s.hrt ∧ t.tie = s.tie := by
  generalize hu : (s.onImage i.slot fun i => { i with variants := f i.variants }) = u
  have huimage : u.image i.slot = { s.image i.slot with variants := f (s.image i.slot).variants, slot := i.slot } :=
    hu ▸ image_onImage_same s i.slot fun i => { i with variants := f i.variants }
  have hukeep : u.ses = s.ses ∧ u.hrt = s.hrt ∧ u.tie = s.tie := hu ▸ ⟨rfl, rfl, rfl⟩
  obtain ⟨hses, hhrt, htie, himg⟩ := tellVariant_keeps u i n tenant records
  have hquiet := quiet_complete (tellVariant u i n tenant records) o [] 0
  refine ⟨_, rfl, ?_, descriptor_complete .., (quiet_ses hquiet).trans (hses.trans hukeep.1),
    (quiet_hrt hquiet).trans (hhrt.trans hukeep.2.1), (quiet_tie hquiet).trans (htie.trans hukeep.2.2)⟩
  rw [image_of_img ((quiet_img hquiet).trans himg), huimage]

/-! ### Tuning -/

theorem sendRecordCopy_img (s : State) (slot : Nat) : (sendRecordCopy s slot).img = s.img := by
  have hbuddy : ∀ x page epoch wseq data, (sendBuddy s x page epoch wseq data).img = s.img := fun x page epoch wseq data => by
    unfold sendBuddy
    split
    · exact sendFrame_img ..
    · rfl
  unfold sendRecordCopy
  split
  · rfl
  · split
    · rfl
    · exact (State.onSession_img ..).trans (hbuddy ..)

theorem writeContents_img (s : State) (x : Session) (w : PageWrites) (pages : List Nat) : (writeContents s x w pages).img = s.img :=
  foldl_keeps State.img _ (fun s p => by
    split
    · split <;> rfl
    · rfl) x.pages s

theorem writePages_img (s : State) (slot : Nat) (w : PageWrites) : (writePages s slot w).img = s.img := by
  unfold writePages
  split
  · rfl
  · rw [State.onSession_img, writeContents_img, writeContents_img]

/-- A session whose pages are written changes in its pages only (R139). -/
theorem writePages_session {s : State} {slot : Nat} {x : Session} (hx : s.session slot = some x) (w : PageWrites) :
    ∃ pages, (writePages s slot w).session slot = some { x with pages := pages } := by
  have hslot := session_slot hx
  subst hslot
  unfold writePages
  rw [hx]
  exact ⟨_, session_onSession_same _ _ ((session_of_ses ((writeContents_ses ..).trans (writeContents_ses ..)) _).trans hx)⟩

theorem addPages_session {s : State} {slot : Nat} {x : Session} (hx : s.session slot = some x) (got : List (Nat × Nat)) :
    ∃ pages, (addPages s slot got).session slot = some { x with pages := pages } := by
  have hslot := session_slot hx
  subst hslot
  exact ⟨_, session_onSession_same s _ hx⟩

/-- The commit of a tuning step: the session has the tuning state and its new pair, the variant the records (R225). -/
theorem commitTune_commits {s : State} {slot : Nat} {y : Session} (hy : s.session slot = some y) (i : Image) (v : Variant) (u : Tuning)
    (pages : List Nat) : (commitTune s slot i v u pages).tie = s.tie ∧
    ((variantAt ((commitTune s slot i v u pages).image i.slot) v.number).map (·.records) = some u.records) ∧
    ∃ z, (commitTune s slot i v u pages).session slot = some z ∧ z.log = y.log ∧ z.layers = y.layers ∧ z.summaries = y.summaries ∧
      z.tuning = some u ∧ z.wseq = y.wseq + 1 := by
  unfold commitTune
  generalize hv : (s.onImage i.slot _ : State) = w
  extract_lets told noted
  have hwimage : (w.image i.slot).variants = upsert (·.number) { v with records := u.records } (s.image i.slot).variants :=
    hv ▸ congrArg Image.variants (image_onImage_same s i.slot fun i =>
      { i with variants := upsert (·.number) { v with records := u.records } i.variants })
  have hwkeep : w.ses = s.ses ∧ w.tie = s.tie := hv ▸ ⟨rfl, rfl⟩
  obtain ⟨hses, -, htie, himg⟩ : told.ses = w.ses ∧ told.hrt = w.hrt ∧ told.tie = w.tie ∧ told.img = w.img := tellVariant_keeps ..
  clear_value told
  have htold : told.session slot = some y := (session_of_ses (hses.trans hwkeep.1) slot).trans hy
  have hnoted := session_onSession_same told (fun x => { x with
    wseq := x.wseq + 1, epoch := told.rdg.map.epoch,
    schedule := x.schedule.map fun c => { c with steps := c.steps + 1 }, tuning := some u }) htold
  obtain ⟨written, hwritten⟩ := writePages_session hnoted { pages := pages }
  obtain ⟨a, ha⟩ := (copyKeeps_sendRecordCopy _ slot).session_some hwritten
  refine ⟨?_, ?_, _, ha, rfl, rfl, rfl, rfl, rfl⟩
  · rw [(copyKeeps_sendRecordCopy ..).tie, writePages_tie]
    exact (State.onSession_tie ..).trans (htie.trans hwkeep.2)
  · have himage : (sendRecordCopy (writePages noted slot { pages := pages }) slot).image i.slot = w.image i.slot :=
      image_of_img ((sendRecordCopy_img ..).trans ((writePages_img ..).trans ((State.onSession_img ..).trans himg))) i.slot
    rw [himage, variantAt, hwimage, upsert_get' Variant.number { v with records := u.records } _ v.number rfl]
    rfl

/-- Settles O38: the variants of the image after each command, and the session and the variant after a tuning step. -/
theorem variantsAndTuningKeepTheLog : Obligations.VariantsAndTuningKeepTheLog := by
  unfold Obligations.VariantsAndTuningKeepTheLog
  refine ⟨fun s o param fit d i hstart hremove himage hrefusal => ?_,
    fun s o d i v hstart hremove himage hv htenant huse hup => ?_,
    fun s s0 s1 s2 o param loss sums how d i x x0 y l v cs u fresh got hstart hi hrefusal hbegin hready hy hu hfresh hroom hup hplace
      htaken => ?_⟩
  · obtain ⟨t, ht, hvariants, hdesc, hses, hhrt, htie⟩ := completeVariants s i
      (upsert (·.number) { number := variantNumber d.raw, tenant := d.tenant, records := param }) (variantNumber d.raw) d.tenant param o
    refine ⟨t, { number := variantNumber d.raw, tenant := d.tenant, records := param }, ?_, ?_, rfl, rfl, hdesc, hses, hhrt, htie,
      fun n hn => ?_⟩
    · rw [exec_variantLoad, execVariantLoad]
      simp only [hstart, hremove, himage, hrefusal, Bool.false_eq_true, if_false, ht]
    · rw [variantAt, hvariants]
      exact upsert_get' Variant.number _ _ _ rfl
    · rw [variantAt, hvariants]
      exact upsert_other Variant.number _ _ n (Ne.symm hn)
  · obtain ⟨t, ht, hvariants, hdesc, hses, hhrt, htie⟩ := completeVariants s i
      (dropKey (·.number) (variantNumber d.raw)) (variantNumber d.raw) d.tenant [] o
    refine ⟨t, ?_, ?_, hdesc, hses, hhrt, htie, fun n hn => ?_⟩
    · rw [exec_variantRemove, execVariantRemove]
      simp only [hstart, hremove, himage, hv, htenant, huse, hup, ne_eq, not_true, Bool.not_true, Bool.false_eq_true, if_false, ht]
    · rw [variantAt, hvariants]
      exact lookupBy_dropKey_same ..
    · rw [variantAt, hvariants]
      exact lookupBy_dropKey_other _ hn _
  · have hslot := session_slot hy
    have hys : s2.session y.slot = some y := (session_of_ses (placePages_ses hplace) _).trans (hslot.symm ▸ hy)
    obtain ⟨placed, hplaced⟩ := addPages_session hys got
    generalize hall : tuningPages (tuneValues i v.records) u.eightBit = all at hfresh
    obtain ⟨htie, hrecords, z, hz, hlog, hlayers, hsummaries, htuning, hwseq⟩ := commitTune_commits hplaced i v u all
    have hcommit : exec (.tuneStep ⟨o, how⟩ param loss sums) s = afterClears s (.next (complete
        (commitTune (addPages s2 y.slot got) y.slot i v u all) o cs (word [put 31 0 loss.toNat, put 63 32 (tuneCounted l)]))) := by
      rw [exec_tuneStep, execTuneStep]
      have hroomy : makeRoom s1 (tuneRoom i y l fresh) = s1 := by rw [makeRoom, if_pos hroom]
      simp only [hstart, ← hi, hrefusal, hbegin, hready, hy, ← hu, hall, ← hfresh, hroomy, hroom, hup, hplace, Bool.not_true,
        Bool.false_eq_true, if_false]
    have hquiet := quiet_complete (commitTune (addPages s2 y.slot got) y.slot i v u all) o cs
      (word [put 31 0 loss.toNat, put 63 32 (tuneCounted l)])
    have htaken' : TakesNone s2 (complete (commitTune (addPages s2 y.slot got) y.slot i v u all) o cs
      (word [put 31 0 loss.toNat, put 63 32 (tuneCounted l)])) :=
      .of_tie ((quiet_tie hquiet).trans (htie.trans (State.onSession_tie ..)))
    rw [htaken'.afterClears htaken] at hcommit
    refine ⟨_, z, hcommit, (quiet_session hquiet _).trans hz, hlog, hlayers, hsummaries, htuning, hu ▸ rfl, hwseq, ?_,
      descriptor_complete ..⟩
    rw [image_of_img (quiet_img hquiet)]
    exact hrecords

end Sys2Proof.Machine

end

section
/-!
SUPPORT. Making room in the hearth, and moving what a bank holds, leave every ember as it is (R122, R169).
-/

namespace Sys2Proof.Machine

/-- The embers stand: their states, tables, counters and accumulators. -/
structure EmbersStand (s t : State) : Prop where
  embers : t.hrt.embers = s.hrt.embers

theorem EmbersStand.refl (s : State) : EmbersStand s s := ⟨rfl⟩

theorem EmbersStand.trans {s t u : State} (h : EmbersStand s t) (k : EmbersStand t u) : EmbersStand s u := ⟨k.embers.trans h.embers⟩

theorem EmbersStand.of_hrt {s t : State} (h : t.hrt = s.hrt) : EmbersStand s t := ⟨congrArg Hearth.embers h⟩

theorem EmbersStand.foldl {α : Type} {f : State → α → State} (h : ∀ s a, EmbersStand s (f s a)) (l : List α) (s : State) :
    EmbersStand s (l.foldl f s) :=
  List.foldlRecOn l f (motive := EmbersStand s) (.refl s) fun t ht a _ => ht.trans (h t a)

theorem ember_of_embers {s t : State} (h : t.hrt.embers = s.hrt.embers) (n : Nat) : t.ember n = s.ember n := by
  simp only [State.ember, h]

theorem ember_onEmber_same (s : State) (n : Nat) (f : Ember → Ember) : (s.onEmber n f).ember n = { f (s.ember n) with number := n } :=
  congrArg (Option.getD · _) (upsert_get' Ember.number { f (s.ember n) with number := n } _ n rfl)

theorem ember_onEmber_other (s : State) {n k : Nat} (f : Ember → Ember) (h : k ≠ n) : (s.onEmber n f).ember k = s.ember k :=
  congrArg (Option.getD · _) (upsert_other Ember.number { f (s.ember n) with number := n } _ k (Ne.symm h))

theorem embersStand_tellShares (s : State) (x : Session) (act : ShareAct) : EmbersStand s (tellShares s x act) :=
  EmbersStand.foldl (fun _ _ => .of_hrt (sendRequest_hrt ..)) _ s

theorem embersStand_setPage (s : State) (slot : Nat) (p : Page) : EmbersStand s (setPage s slot p) := .of_hrt (State.onSession_hrt ..)

theorem embersStand_startCopy (s : State) (x : Session) (p : Page) (t : PageTarget) : EmbersStand s (startCopy s x p t) := by
  unfold startCopy
  extract_lets u
  have hu : EmbersStand s u := by
    dsimp only [u]
    split
    · exact .of_hrt (writePool_hrt ..)
    · exact .refl s
  exact hu.trans (embersStand_setPage ..)

theorem embersStand_demoteNow (s : State) (x : Session) : EmbersStand s (demoteNow s x) := by
  unfold demoteNow
  split
  · exact .refl s
  · refine EmbersStand.foldl (fun s r => ?_) _ s
    obtain ⟨p, e, f⟩ := r
    dsimp only
    refine (embersStand_startCopy s x p (.pool e f)).trans ?_
    rcases hs : switchPage (startCopy s x p (.pool e f)) x p (.pool e f) with _ | t
    · exact .refl _
    · obtain ⟨q, -, -, -, -, hhrt, -⟩ := switchPage_switches hs
      exact .of_hrt hhrt

theorem embersStand_of_placeInFoothill {s t : State} {pages : List (Page × List Byte)} {placed : List Page}
    (h : placeInFoothill s pages = some (t, placed)) : EmbersStand s t := by
  unfold placeInFoothill at h
  split at h
  · cases h; exact .refl s
  · cases h

theorem embersStand_of_placeHome {s t : State} {pages : List (Page × List Byte)} {placed : List Page}
    (h : placeHome s pages = some (t, placed)) : EmbersStand s t := by
  unfold placeHome at h
  split at h
  · rename_i r hr
    cases h
    exact embersStand_of_placeInFoothill hr
  · refine EmbersStand.trans ?_ (embersStand_of_placeInFoothill h)
    refine EmbersStand.foldl (fun s x => ?_) _ s
    split
    · exact .refl s
    · exact embersStand_demoteNow s x

theorem embersStand_of_placePool {s t : State} {x : Session} {pages : List (Page × List Byte)} {planned : Option (List Nat)}
    {placed : List Page} (h : placePool s x pages planned = some (t, placed)) : EmbersStand s t := by
  unfold placePool at h
  split at h
  · cases h
  · split at h
    · cases h
    · rename_i u a hpool
      obtain ⟨⟨v, b⟩, hrecords, hlast⟩ := Option.map_eq_some_iff.mp h
      cases hlast
      refine EmbersStand.trans ?_ (embersStand_of_placeInFoothill hrecords)
      unfold placeInPool at hpool
      split at hpool
      · cases hpool
      · cases hpool
        exact EmbersStand.foldl (fun s r => .of_hrt (writePool_hrt ..)) _ s

theorem embersStand_of_placeParked {s t : State} {x : Session} {target : Nat} {pages : List (Page × List Byte)} {placed : List Page}
    (h : placeParked s x target pages = some (t, placed)) : EmbersStand s t := by
  unfold placeParked at h
  extract_lets g at h
  split at h
  · exact embersStand_of_placeHome h
  · exact embersStand_of_placePool h
  · split at h
    · exact embersStand_of_placePool h
    · exact embersStand_of_placeHome h
    · split at h
      · exact embersStand_of_placeInFoothill h
      · split at h
        · rename_i hr
          cases h
          exact embersStand_of_placePool hr
        · exact embersStand_of_placeHome h

theorem embersStand_commitPark (s : State) (slot : Nat) (placed : List Page) : EmbersStand s (commitPark s slot placed) := by
  unfold commitPark
  split
  · exact .refl s
  · refine EmbersStand.trans ?_ (.of_hrt (copyKeeps_sendSlotEntry ..).hrt)
    exact .of_hrt ((State.onSession_hrt ..).trans (freeFrames_keeps ..).2.1)

theorem embersStand_of_autoPark {s t : State} {slot : Nat} (h : autoPark s slot = some t) : EmbersStand s t := by
  obtain ⟨x, -, h⟩ := Option.bind_eq_some_iff.mp h
  obtain ⟨⟨u, g⟩, hpark, rfl⟩ := Option.map_eq_some_iff.mp h
  obtain ⟨y, -, hpark⟩ := Option.bind_eq_some_iff.mp hpark
  obtain ⟨⟨v, placed, g'⟩, hplace, hlast⟩ := Option.map_eq_some_iff.mp hpark
  obtain ⟨⟨w, l⟩, hparked, hcounted⟩ := Option.map_eq_some_iff.mp hplace
  cases hlast
  cases hcounted
  refine EmbersStand.trans ?_ (embersStand_tellShares ..)
  refine EmbersStand.trans ?_ (embersStand_commitPark ..)
  have hcount : EmbersStand w (countCoded w y (parkPages s y (bit y.tclass 1 && !false))) := ⟨rfl⟩
  refine (embersStand_of_placeParked hparked).trans (hcount.trans ?_)
  split
  · exact .of_hrt (copyKeeps_sendCoded ..).hrt
  · exact .refl _

theorem embersStand_autoParkUntil (enough : State → Bool) (l : List Nat) (s : State) : EmbersStand s (autoParkUntil enough s l) := by
  induction l generalizing s with
  | nil => exact .refl s
  | cons c l ih =>
    unfold autoParkUntil
    split
    · exact .refl s
    · split
      · rename_i t ht
        exact (embersStand_of_autoPark ht).trans (ih t)
      · exact ih s

theorem embersStand_freeDead (s : State) : EmbersStand s (freeDead s) :=
  EmbersStand.foldl (fun s x => by
    split
    · exact .refl s
    · refine EmbersStand.trans ?_ (embersStand_tellShares ..)
      unfold freeDeadOf
      extract_lets i dead
      split
      · exact .refl s
      · exact .of_hrt ((State.onSession_hrt ..).trans (freeFrames_keeps ..).2.1)) _ s

theorem embersStand_makeRoom (s : State) (enough : State → Bool) : EmbersStand s (makeRoom s enough) := by
  unfold makeRoom
  split
  · exact .refl s
  · extract_lets u
    have hu : EmbersStand s u := embersStand_freeDead s
    split
    · exact hu
    · exact hu.trans (embersStand_autoParkUntil ..)

/-! ### A bank that is vacated -/

theorem embersStand_writeFrame (s : State) (n : Nat) (bs : List Byte) : EmbersStand s (writeFrame s n bs) := ⟨rfl⟩

theorem embersStand_moveGroup (s : State) (slot k g : Nat) (pages : List Nat) : EmbersStand s (moveGroup s slot k g pages) := by
  unfold moveGroup
  split
  · exact .refl s
  · rename_i x _
    extract_lets i u
    have hu : EmbersStand s u := embersStand_makeRoom ..
    split
    · exact hu
    · rename_i t got hplace
      split
      · exact hu
      · have ht : EmbersStand u t := by
          unfold placeGroup at hplace
          split at hplace
          · cases hplace
          · cases hplace
            exact EmbersStand.foldl (f := fun s n => takeFrame s x.tenant n) (fun _ _ => ⟨rfl⟩) _ u
        refine hu.trans (ht.trans (EmbersStand.foldl (fun s p => ?_) _ t))
        split
        · rename_i f q f' _ _
          have hwrite : EmbersStand s (writeFrame s f' (frameContent s f)) := embersStand_writeFrame ..
          generalize writeFrame s f' (frameContent s f) = w at hwrite ⊢
          exact hwrite.trans (EmbersStand.trans (t := freeFrame w f) ⟨rfl⟩ (embersStand_setPage ..))
        · exact .refl s

theorem embersStand_spreadBank (s : State) (e slot : Nat) : EmbersStand s (spreadBank s e slot) := by
  unfold spreadBank
  extract_lets had i u
  have hu : EmbersStand s u := embersStand_makeRoom ..
  split
  · exact .refl s
  · split
    · exact hu.trans ⟨rfl⟩
    · exact hu.trans ⟨rfl⟩

/-- Moving the pages and the weight rows of a bank changes no ember (R169). -/
theorem embersStand_vacateBank (s : State) (e : Nat) : EmbersStand s (vacateBank s e) := by
  unfold vacateBank
  split
  · exact .refl s
  · refine EmbersStand.trans ?_ (EmbersStand.foldl (fun s n => embersStand_spreadBank s e n) _ _)
    refine EmbersStand.foldl (fun s x => ?_) _ s
    exact EmbersStand.foldl (fun s r => embersStand_moveGroup ..) _ s

end Sys2Proof.Machine

end

section
/-!
SUPPORT. The service of the banks (R153, R161 to R164, R169).
-/

namespace Sys2Proof.Machine

theorem workTableWrite_writes {s : State} {e n : Nat} {val : BitVec 128} (hready : s.pwr.ready = true) (he : e < 3072) (hn : n < 256) :
    ∃ t, exec (.workTableWrite e n val) s = .next t ∧ tableEntry (t.ember e) n = val ∧ t.hrt.mem = s.hrt.mem ∧
      (∀ m, m ≠ n → tableEntry (t.ember e) m = tableEntry (s.ember e) m) ∧ ∀ f, f ≠ e → t.ember f = s.ember f := by
  have hsame := ember_onEmber_same s e fun x => { x with table := upsert (·.1) (n, val) x.table }
  have hnext : exec (.workTableWrite e n val) s =
      .next (s.onEmber e fun x => { x with table := upsert (·.1) (n, val) x.table }) := by
    rw [exec_workTableWrite, execWorkTableWrite]
    exact if_neg (by simp [hready, he, hn])
  refine ⟨_, hnext, ?_, rfl, fun m hm => ?_, fun f hf => ember_onEmber_other s _ hf⟩
  · rw [hsame]
    exact congrArg (fun o => (Option.map Prod.snd o).getD 0) (upsert_get' Prod.fst (n, val) _ n rfl)
  · rw [hsame]
    exact congrArg (fun o => (Option.map Prod.snd o).getD 0) (upsert_other Prod.fst (n, val) _ m (Ne.symm hm))

/-! ### Refreshes -/

/-- A refresh outside a column-split run is issued at once (R163). -/
theorem execRefreshDue_issues {s : State} {summit : Nat} (h : s.pwr.heldInReset = true ∨ s.pwr.heldNow = true ∨ emberPause s ≠ 0 ∨
      ∀ r, runOf s summit = some r → r.split = false) :
    ∃ n, execRefreshDue summit s =
      .next (s.onHrt fun h => { h with owedShared := h.owedShared.filter fun o => o.1 != summit, maxOwed := n }) := by
  unfold execRefreshDue
  extract_lets issued
  split
  · exact ⟨s.hrt.maxOwed, rfl⟩
  · rename_i hreset
    split
    · rename_i r hr
      have hcond : ¬(r.split && !s.pwr.heldNow && decide (emberPause s = 0)) = true := by
        rcases h with h | h | h | h
        · exact absurd h hreset
        · simp [h]
        · simp [h]
        · simp [h r hr]
      rw [if_neg hcond]
      exact ⟨_, rfl⟩
    · exact ⟨_, rfl⟩

/-- A column-split run postpones up to four refreshes and then forces the fifth (R164). -/
theorem execRefreshDue_postpones {s : State} {summit : Nat} {r : BroadcastRun} (hrun : runOf s summit = some r)
    (hsplit : r.split = true) (hreset : s.pwr.heldInReset = false) (hheld : s.pwr.heldNow = false) (hpause : emberPause s = 0) :
    (owedOf s summit < 4 → ∃ n, execRefreshDue summit s = .next (s.onHrt fun h =>
      { h with owedShared := upsert (·.1) (summit, owedOf s summit + 1) h.owedShared, maxOwed := n })) ∧
    (4 ≤ owedOf s summit → ∃ n, execRefreshDue summit s = .next (s.onHrt fun h =>
      { h with owedShared := h.owedShared.filter fun o => o.1 != summit, forced := sat 16 (h.forced + runBanks s r), maxOwed := n })) := by
  have hexec : ∃ u n, u = s.onHrt (fun h => { h with maxOwed := n }) ∧ execRefreshDue summit s = if owedOf s summit + 1 < 5 then
      .next (u.onHrt fun h => { h with owedShared := upsert (·.1) (summit, owedOf s summit + 1) h.owedShared })
    else .next (u.onHrt fun h =>
      { h with owedShared := h.owedShared.filter fun o => o.1 != summit, forced := sat 16 (h.forced + runBanks u r) }) := by
    unfold execRefreshDue
    simp only [hreset, hrun, hsplit, hheld, hpause, Bool.false_eq_true, if_false, Bool.not_false, Bool.and_self, decide_true, if_true]
    exact ⟨_, _, rfl, rfl⟩
  obtain ⟨u, n, rfl, hexec⟩ := hexec
  refine ⟨fun hfew => ⟨n, ?_⟩, fun hmany => ⟨n, ?_⟩⟩
  · rw [hexec, if_pos (by omega)]
    rfl
  · rw [hexec, if_neg (by omega)]
    rfl

theorem refreshDue_refreshes (s : State) (summit : Nat) :
    ∃ t, exec (.refreshDue summit) s = .next t ∧ t.hrt.mem = s.hrt.mem ∧ { t with hrt := s.hrt } = s ∧
      ((s.pwr.heldInReset = true ∨ s.pwr.heldNow = true ∨ emberPause s ≠ 0 ∨
          ∀ r, runOf s summit = some r → r.split = false) →
        owedOf t summit = 0 ∧ t.hrt.forced = s.hrt.forced) ∧
      (∀ r, runOf s summit = some r → r.split = true → s.pwr.heldInReset = false → s.pwr.heldNow = false →
        emberPause s = 0 →
        (owedOf s summit < 4 → owedOf t summit = owedOf s summit + 1 ∧ t.hrt.forced = s.hrt.forced) ∧
        (4 ≤ owedOf s summit → owedOf t summit = 0 ∧
          t.hrt.forced = min 0xFFFF (s.hrt.forced + runBanks s r))) := by
  have hempty : ∀ l : List (Nat × Nat), ((lookupBy (·.1) summit (l.filter fun o => o.1 != summit)).map (·.2)).getD 0 = 0 := fun l => by
    exact congrArg (fun o => (Option.map Prod.snd o).getD 0) (lookupBy_dropKey_same Prod.fst summit l)
  by_cases h : s.pwr.heldInReset = true ∨ s.pwr.heldNow = true ∨ emberPause s ≠ 0 ∨ ∀ r, runOf s summit = some r → r.split = false
  · obtain ⟨n, hnext⟩ := execRefreshDue_issues h
    refine ⟨_, (exec_refreshDue summit s).trans hnext, rfl, rfl, fun _ => ⟨hempty _, rfl⟩, fun r hr hsplit hreset hheld hpause => ?_⟩
    rcases h with h | h | h | h
    · exact absurd (h.symm.trans hreset) (by decide)
    · exact absurd (h.symm.trans hheld) (by decide)
    · exact absurd hpause h
    · exact absurd (hsplit.symm.trans (h r hr)) (by decide)
  · have hrun : ∃ r, runOf s summit = some r ∧ r.split = true := by
      refine Classical.byContradiction fun hnone => ?_
      exact h (.inr (.inr (.inr fun r hr => Bool.eq_false_iff.mpr fun hsplit => hnone ⟨r, hr, hsplit⟩)))
    obtain ⟨r, hr, hsplit⟩ := hrun
    have hreset : s.pwr.heldInReset = false := Bool.eq_false_iff.mpr fun hh => h (.inl hh)
    have hheld : s.pwr.heldNow = false := Bool.eq_false_iff.mpr fun hh => h (.inr (.inl hh))
    have hpause : emberPause s = 0 := Decidable.byContradiction fun hh => h (.inr (.inr (.inl hh)))
    obtain ⟨hfew, hmany⟩ := execRefreshDue_postpones hr hsplit hreset hheld hpause
    by_cases howed : owedOf s summit < 4
    · obtain ⟨n, hnext⟩ := hfew howed
      refine ⟨_, (exec_refreshDue summit s).trans hnext, rfl, rfl, fun hh => absurd hh h, fun r' hr' _ _ _ _ =>
        ⟨fun _ => ⟨?_, rfl⟩, fun hno => absurd howed (Nat.not_lt.mpr hno)⟩⟩
      exact congrArg (fun o => (Option.map Prod.snd o).getD 0) (upsert_get' Prod.fst (summit, owedOf s summit + 1) _ summit rfl)
    · obtain ⟨n, hnext⟩ := hmany (Nat.not_lt.mp howed)
      refine ⟨_, (exec_refreshDue summit s).trans hnext, rfl, rfl, fun hh => absurd hh h, fun r' hr' _ _ _ _ =>
        ⟨fun hno => absurd hno howed, fun _ => ⟨hempty _, ?_⟩⟩⟩
      obtain rfl : r = r' := Option.some.inj (hr.symm.trans hr')
      exact Nat.min_comm _ _

/-! ### Scrub -/

theorem meetErrors_unarmed {s : State} (h : s.dgn.armed = false) (e : Nat) (rows : List Nat) (weights : Bool) (errs : List ReadError)
    (hrows : rows ≠ []) : meetErrors s e rows weights errs = (s, errs.filter fun r => r.ember == e && rows.contains r.row) := by
  unfold meetErrors
  cases rows with
  | nil => exact absurd rfl hrows
  | cons row rows =>
    have hnone : armedError s e row weights = [] := by simp [armedError, h]
    simp only [hnone]

theorem countCorrected_counts (s : State) (e n : Nat) : ((countCorrected s e (n + 1)).ember e).corrected =
    min 0xFFFF ((s.ember e).corrected + (n + 1)) ∧ (countCorrected s e (n + 1)).hrt.corrected =
      min 0xFFFFFFFF (s.hrt.corrected + (n + 1)) ∧ StoresNothing s (countCorrected s e (n + 1)) := by
  rw [countCorrected, if_neg (Nat.succ_ne_zero n)]
  have hsame := ember_onEmber_same s e fun x => { x with corrected := sat 16 (x.corrected + (n + 1)) }
  refine ⟨?_, Nat.min_comm _ _, rfl, rfl, rfl, rfl, rfl, rfl⟩
  exact (congrArg Ember.corrected hsame).trans (Nat.min_comm _ _)

theorem patrolScrub_counts {s : State} {e row col slack : Nat} (hready : s.pwr.ready = true) (hheld : s.pwr.heldNow = false)
    (hshare : bit s.hrt.shareCtl 16 = true) (he : e < 3072) (hrow : row < 16384) (hbusy : bankBusy s e = false)
    (hbarrier : atBarrier s (summitOf e) = true) (harmed : s.dgn.armed = false) :
    ∃ t, exec (.patrolScrub e row slack [{ ember := e, row := row, column := col, symbols := 1 }]) s = .next t ∧
      (t.ember e).corrected = min 0xFFFF ((s.ember e).corrected + 1) ∧
      t.hrt.corrected = min 0xFFFFFFFF (s.hrt.corrected + 1) ∧ StoresNothing s t := by
  obtain ⟨hcolumn, hcorrected, hnothing⟩ := countCorrected_counts s e 0
  refine ⟨countCorrected s e 1, ?_, hcolumn, hcorrected, hnothing⟩
  rw [exec_patrolScrub, execPatrolScrub]
  have hspend : spendClear s e 1 80 slack = (s, 1) := by rw [spendClear, hbusy]; rfl
  have hcond : ¬(!s.pwr.ready || s.pwr.heldNow || !bit s.hrt.shareCtl 16 || decide (3072 ≤ e) || decide (16384 ≤ row) ||
      !atBarrier s (summitOf e)) = true := by
    simp [hready, hheld, hshare, hbarrier, he, hrow]
  rw [if_neg hcond, hspend]
  have hread : (readRows s e [row] (weightFrame s e (row / 32)) [{ ember := e, row := row, column := col, symbols := 1 }]).1 =
      countCorrected s e 1 := by
    rw [readRows, meetErrors_unarmed harmed _ _ _ _ (List.cons_ne_nil row [])]
    simp [corrects]
  exact congrArg Host.Outcome.next hread

/-! ### Retiring -/

theorem retireBank_retires {s : State} {e : Nat} (hready : s.pwr.ready = true) (he : e < 3072) (hstate : (s.ember e).state = .inService) :
    ∃ t, exec (.retireBank e) s = .next t ∧ (t.ember e).state = .retiring ∧ bankServes t e = false := by
  have hmark := congrArg Ember.state (ember_onEmber_same s e fun x => { x with state := .retiring })
  generalize hu : (s.onEmber e fun x => { x with state := .retiring }) = u at hmark
  have hstands := embersStand_vacateBank u e
  have hretiring : ((leaveBank (vacateBank u e) e).ember e).state = .retiring :=
    (congrArg Ember.state (ember_of_embers hstands.embers e)).trans hmark
  refine ⟨leaveBank (vacateBank u e) e, ?_, hretiring, ?_⟩
  · rw [exec_retireBank, execRetireBank, if_neg (by simp [hready, he])]
    simp only [beginRetire, hstate, ne_eq, not_true, if_false, hu]
  · rw [bankServes, hretiring]
    rfl

/-- What the sessions keep while the pages of a list are lost: a page either is lost, or stood before and is none of them. -/
structure LosesPages (gone : List (Nat × Page)) (s t : State) : Prop where
  pages : ∀ n y, t.session n = some y → ∃ x, s.session n = some x ∧
    ∀ q ∈ y.pages, (∃ why, q.place = .lost why) ∨ q ∈ x.pages ∧ ∀ g ∈ gone, g.1 = n → g.2.index ≠ q.index

theorem LosesPages.refl (s : State) : LosesPages [] s s := ⟨fun _ y hy => ⟨y, hy, fun _ hq => .inr ⟨hq, fun _ hg => nomatch hg⟩⟩⟩

theorem session_onSession_some {s : State} {slot : Nat} {f : Session → Session} {y : Session} (h : (s.onSession slot f).session slot = some y) :
    ∃ x, s.session slot = some x ∧ y = { f x with slot := slot } := by
  rcases hx : s.session slot with _ | x
  · rw [State.onSession, hx] at h
    exact nomatch hx.symm.trans h
  · exact ⟨x, rfl, Option.some.inj (h.symm.trans (session_onSession_same s f hx))⟩

/-- One more page is lost. -/
theorem LosesPages.lose {gone : List (Nat × Page)} {s t : State} (h : LosesPages gone s t) (slot : Nat) (p : Page) (why : Status) :
    LosesPages (gone ++ [(slot, p)]) s (freeFrames (setPage t slot { p with place := .lost why }) [p]) := by
  refine ⟨fun n y hy => ?_⟩
  rw [session_of_ses (freeFrames_ses ..)] at hy
  rcases Decidable.em (n = slot) with rfl | hn
  · obtain ⟨z, hz, rfl⟩ := session_onSession_some hy
    obtain ⟨x, hx, hpages⟩ := h.pages n z hz
    refine ⟨x, hx, fun q hq => ?_⟩
    obtain ⟨r, hr, hrq⟩ := List.mem_map.mp hq
    by_cases hindex : r.index = p.index
    · rw [if_pos hindex] at hrq
      exact .inl ⟨why, hrq ▸ rfl⟩
    · rw [if_neg hindex] at hrq
      subst hrq
      refine (hpages r hr).imp_right fun hold => ⟨hold.1, fun g hg hgn => ?_⟩
      rcases List.mem_append.mp hg with hg | hg
      · exact hold.2 g hg hgn
      · rw [List.mem_singleton.mp hg]
        exact Ne.symm hindex
  · rw [setPage, session_onSession_other t _ hn] at hy
    obtain ⟨x, hx, hpages⟩ := h.pages n y hy
    refine ⟨x, hx, fun q hq => (hpages q hq).imp_right fun hold => ⟨hold.1, fun g hg hgn => ?_⟩⟩
    rcases List.mem_append.mp hg with hg | hg
    · exact hold.2 g hg hgn
    · rw [List.mem_singleton.mp hg] at hgn
      exact absurd hgn.symm hn

theorem LosesPages.loseAll {s : State} (slot : Nat) (why : Status) (l : List Page) {gone : List (Nat × Page)} {t : State}
    (h : LosesPages gone s t) : LosesPages (gone ++ l.map fun p => (slot, p)) s
      (l.foldl (fun s p => freeFrames (setPage s slot { p with place := .lost why }) [p]) t) := by
  induction l generalizing gone t with
  | nil => simpa using h
  | cons p l ih =>
    have hall := ih (h.lose slot p why)
    rwa [List.append_assoc] at hall

theorem losePages_loses (e : Nat) (l : List Session) {s t : State} {gone : List (Nat × Page)} (h : LosesPages gone s t) :
    LosesPages (gone ++ l.flatMap fun x => (bankPages x e).map fun p => (x.slot, p)) s
      (l.foldl (fun s x => (bankPages x e).foldl (fun s p =>
        freeFrames (setPage s x.slot { p with place := .lost .hardwareFault }) [p]) s) t) := by
  induction l generalizing gone t with
  | nil => simpa using h
  | cons x l ih =>
    have hall := ih (h.loseAll x.slot .hardwareFault (bankPages x e))
    rwa [List.append_assoc] at hall

/-- Once its pages are lost, a bank holds no page of a session (R169). -/
theorem losePages_empties (s : State) (e : Nat) {n : Nat} {y : Session} (hy : (losePages s e).session n = some y) : bankPages y e = [] := by
  obtain ⟨x, hx, hpages⟩ := (losePages_loses e s.ses.table (.refl s)).pages n y hy
  refine List.filter_eq_nil_iff.mpr fun q hq hbank => ?_
  rcases hpages q hq with ⟨why, hlost⟩ | ⟨hqx, hothers⟩
  · rw [hlost] at hbank
    exact nomatch hbank
  · obtain ⟨hin, hslot⟩ := lookup_mem hx
    have hgone : (n, q) ∈ s.ses.table.flatMap fun x => (bankPages x e).map fun p => (x.slot, p) :=
      List.mem_flatMap.mpr ⟨x, hin, List.mem_map.mpr ⟨q, List.mem_filter.mpr ⟨hqx, hbank⟩, congrArg (·, q) hslot⟩⟩
    exact hothers (n, q) (List.mem_append.mpr (.inr hgone)) rfl rfl

/-- Settles O42: each service by what it leaves of the bank. -/
theorem banksRefreshScrubAndRetire : Obligations.BanksRefreshScrubAndRetire := by
  unfold Obligations.BanksRefreshScrubAndRetire
  refine ⟨fun s e n val hready he hn => workTableWrite_writes hready he hn, refreshDue_refreshes,
    fun s e row col slack hready hheld hshare he hrow hbusy hbarrier harmed =>
      patrolScrub_counts hready hheld hshare he hrow hbusy hbarrier harmed,
    fun s e hready he hstate => retireBank_retires hready he hstate, fun s e hstate hheld => ?_⟩
  generalize hu : losePages (vacateBank s e) e = u
  generalize hv : (u.img.slots.filter fun i => i.state != .empty).foldl writeTables u = v
  have hvses : v.ses = u.ses := hv ▸ foldl_keeps State.ses _ (fun s i => (writeTables_keeps s i).1) _ u
  have hsame := ember_onEmber_same v e fun x => { x with state := .retired, emberPass := false, patternPass := false }
  refine ⟨logEvent (v.onEmber e fun x => { x with state := .retired, emberPass := false, patternPass := false }) 11 0 e, ?_, ?_, ?_,
    fun slot y hy => ?_⟩
  · rw [exec_bankRetireComplete, execBankRetireComplete, if_neg (by simp [hstate, hheld])]
    simp only [hu, hv]
  · exact congrArg Ember.state hsame
  · exact congrArg Ember.testPassed hsame
  · have hyu : u.session slot = some y := (session_of_ses hvses slot).symm.trans hy
    exact losePages_empties (vacateBank s e) e (hu ▸ hyu)

end Sys2Proof.Machine

end

section
/-!
SUPPORT. The commands that change one index (R274 to R280).
-/

namespace Sys2Proof.Machine

/-! ### The slots of the indexes -/

theorem index_of_indexes {s t : State} (h : t.srch.indexes = s.srch.indexes) (n : Nat) : t.index n = s.index n := by
  simp only [State.index, h]

theorem index_putIndex_at (s : State) {x : Index} {n : Nat} (h : x.slot = n) : (s.putIndex x).index n = some x :=
  upsert_get' Index.slot x _ n h

theorem index_putIndex_other (s : State) {x : Index} {n : Nat} (h : n ≠ x.slot) : (s.putIndex x).index n = s.index n :=
  upsert_other Index.slot x _ n (Ne.symm h)

theorem index_slot {s : State} {n : Nat} {x : Index} (h : s.index n = some x) : x.slot = n := (lookup_mem h).2

/-- The index that a command names stands in its slot. -/
theorem findIndex_ok {s : State} {d : InFlight} {x : Index} (h : findIndex s d = .ok x) : s.index x.slot = some x := by
  unfold findIndex at h
  extract_lets w at h
  split at h
  · cases h
  · split at h
    · cases h
    · rename_i y hy
      have hslot := index_slot hy
      split at h
      · cases h
      · split at h
        · cases h
        · split at h
          · cases h
            rw [hslot]
            exact hy
          · cases h

/-- The marks on running queries touch no index (R276). -/
theorem markQueries_keeps (s : State) (slot k : Nat) : (markQueries s slot k).srch.indexes = s.srch.indexes ∧
    (markQueries s slot k).srch.ctl = s.srch.ctl ∧ (markQueries s slot k).ses = s.ses ∧ (markQueries s slot k).hrt = s.hrt :=
  ⟨rfl, rfl, rfl, rfl⟩

/-! ### Inserting -/

/-- A record that fits goes behind the scree, after its key's live record is marked (R274, R275). -/
theorem insertRecord_appends {s s1 : State} {x : Index} {r : Posting} {up : Bool} (hx : s.index x.slot = some x)
    (h : insertRecord s x.slot r = some (s1, up)) : up = x.hasKey r.key ∧ s1.srch.ctl = s.srch.ctl ∧ s1.ses = s.ses ∧ s1.hrt = s.hrt ∧
    (∀ n, n ≠ x.slot → s1.index n = s.index n) ∧
    ∃ y, s1.index x.slot = some y ∧ y.scree = (if x.hasKey r.key then x.deleteKey r.key else x).scree ++ [r] := by
  unfold insertRecord at h
  rw [hx] at h
  dsimp only at h
  generalize hu : (ite (x.hasKey r.key = true) (markQueries s x.slot r.key) s : State) = u at h
  generalize hz : (ite (x.hasKey r.key = true) (x.deleteKey r.key) x : Index) = z at h ⊢
  have hslot : z.slot = x.slot := by
    rw [← hz]
    split <;> rfl
  have hmarked : u.srch.indexes = s.srch.indexes ∧ u.srch.ctl = s.srch.ctl ∧ u.ses = s.ses ∧ u.hrt = s.hrt := by
    rw [← hu]
    split
    · exact markQueries_keeps ..
    · exact ⟨rfl, rfl, rfl, rfl⟩
  obtain ⟨hindexes, hctl, hses, hhrt⟩ := hmarked
  generalize (ite (blocksFor z.width (z.scree ++ [r]).length ≤ z.screeBanks.length) _ _ : List Nat) = banks at h
  split at h
  · exact nomatch h
  · split at h
    · obtain ⟨rfl, hup⟩ := Prod.mk.inj (Option.some.inj h)
      exact ⟨hup.symm, hctl, hses, hhrt, fun n hn => (index_putIndex_other u (hslot.symm ▸ hn)).trans (index_of_indexes hindexes n),
        _, index_putIndex_at u hslot, rfl⟩
    · exact nomatch h

theorem deleteKey_length (x : Index) (k : Nat) : (x.deleteKey k).scree.length = x.scree.length := List.length_map ..

theorem indexInsert_appends {s s1 : State} {o : Origin} {param : List Byte} {d : InFlight} {x : Index} {r : Posting} {up : Bool}
    (hstart : canStart s o opInsert = some d) (hblocked : indexBlocked s d = false) (hfind : findIndex s d = .ok x)
    (hrecords : insertRecords d.raw x.width param = some [r]) (hdeadline : pastDeadline s d = false)
    (hmerge : bit s.srch.ctl 24 = false ∨ 100 * (x.scree.length + 1) < screeMax s * clamp 10 100 (fld s.srch.ctl 31 25))
    (hinsert : insertRecord s x.slot r = some (s1, up)) :
    ∃ t y, exec (.indexInsert o param) s = .next t ∧ t.descriptor o = none ∧ t.index x.slot = some y ∧
      up = x.hasKey r.key ∧ y.scree = (if x.hasKey r.key then x.deleteKey r.key else x).scree ++ [r] ∧
      t.ses = s.ses ∧ t.hrt = s.hrt ∧ ∀ n, n ≠ x.slot → t.index n = s.index n := by
  obtain ⟨hup, hctl, hses, hhrt, hothers, y, hy, hscree⟩ := insertRecord_appends (findIndex_ok hfind) hinsert
  have hlength : y.scree.length = x.scree.length + 1 := by
    rw [hscree, List.length_append, List.length_singleton]
    split
    · rw [deleteKey_length]
    · rfl
  have hauto : autoMerge s1 x.slot = s1 := by
    have hmax : screeMax s1 = screeMax s := congrArg (fun c => 4096 * max 1 (fld c 23 16)) hctl
    rw [autoMerge, hy]
    refine if_neg ?_
    rw [hlength, hmax, hctl]
    rcases hmerge with h | h
    · simp [h]
    · simp [Nat.not_le.mpr h]
  have hnext : ∃ result, exec (.indexInsert o param) s = .next (complete s1 o [] result) := by
    rw [exec_indexInsert, execIndexInsert]
    simp only [hstart, hblocked, hfind, hrecords, hdeadline, insertAll, hinsert, hauto, Bool.false_eq_true, if_false, if_true]
    exact ⟨_, rfl⟩
  obtain ⟨result, hnext⟩ := hnext
  have hquiet := quiet_complete s1 o [] result
  have hindex := index_of_indexes (congrArg Search.indexes (quiet_srch hquiet))
  exact ⟨_, y, hnext, descriptor_complete .., (hindex _).trans hy, hup, hscree, (quiet_ses hquiet).trans hses,
    (quiet_hrt hquiet).trans hhrt, fun n hn => (hindex n).trans (hothers n hn)⟩

/-! ### Deleting -/

/-- The mark of a record that is deleted by its key (R276). -/
def markKey (k : Nat) (r : Posting) : Posting := if holdsKey k r then { r with deleted := true } else r

theorem holdsKey_marked (k m : Nat) (r : Posting) :
    holdsKey m (markKey k r) = (holdsKey m r && !(m == k)) := by
  unfold markKey holdsKey
  by_cases hk : (r.key == k && !r.deleted) = true
  · rw [if_pos hk]
    obtain ⟨hkey, hlive⟩ := Bool.and_eq_true_iff.mp hk
    rw [beq_iff_eq] at hkey
    subst hkey
    rcases Decidable.em (r.key = m) with rfl | hm
    · simp
    · simp [hm]
  · rw [if_neg hk]
    rcases Decidable.em (m = k) with rfl | hm
    · simpa using hk
    · simp [hm]

/-- A key that is deleted is held no more, the others as before (R276). -/
theorem hasKey_deleteKey (x : Index) (k m : Nat) : (x.deleteKey k).hasKey m = (x.hasKey m && !(m == k)) := by
  have hany : ∀ l : List Posting, (l.map (markKey k)).any (holdsKey m) =
      (l.any (holdsKey m) && !(m == k)) := fun l => by
    induction l with
    | nil => rfl
    | cons r l ih =>
      rw [List.map_cons, List.any_cons, ih, List.any_cons, holdsKey_marked, Bool.and_or_distrib_right]
  have hcells : ∀ l : List IndexCell, ((l.map fun c => { c with records := c.records.map (markKey k) }).any
      fun c => c.records.any (holdsKey m)) =
      ((l.any fun c => c.records.any (holdsKey m)) && !(m == k)) := fun l => by
    induction l with
    | nil => rfl
    | cons c l ih =>
      rw [List.map_cons, List.any_cons, ih, List.any_cons, Bool.and_or_distrib_right, hany c.records]
  rw [Index.hasKey, Index.hasKey, Bool.and_or_distrib_right]
  exact congr (congrArg (· || ·) (hany x.scree)) (hcells x.cells)

/-- The deletion of several keys, as the command counts it (R276). -/
def deleteStep (acc : Index × Nat) (k : Nat) : Index × Nat :=
  if acc.1.hasKey k then (acc.1.deleteKey k, acc.2 + 1) else acc

theorem deleteStep_hasKey (acc : Index × Nat) (k m : Nat) : (deleteStep acc k).1.hasKey m = (acc.1.hasKey m && !(m == k)) ∧
    (deleteStep acc k).1.slot = acc.1.slot := by
  unfold deleteStep
  split
  · exact ⟨hasKey_deleteKey .., rfl⟩
  · rename_i hno
    refine ⟨?_, rfl⟩
    rcases Decidable.em (m = k) with rfl | hm
    · simpa using hno
    · simp [hm]

theorem deleteSteps_hasKey (keys : List Nat) (acc : Index × Nat) (m : Nat) :
    (keys.foldl deleteStep acc).1.hasKey m = (acc.1.hasKey m && !keys.contains m) ∧
      (keys.foldl deleteStep acc).1.slot = acc.1.slot := by
  induction keys generalizing acc with
  | nil => simp
  | cons k keys ih =>
    obtain ⟨hkey, hslot⟩ := deleteStep_hasKey acc k m
    obtain ⟨hkeys, hslots⟩ := ih (deleteStep acc k)
    refine ⟨?_, hslots.trans hslot⟩
    rw [List.foldl_cons, hkeys, hkey, List.contains_cons, Bool.not_or, Bool.and_assoc]

/-- Cells retired because they are empty hold the keys that they held: none (R276). -/
theorem hasKey_retireEmpty (x y : Index) (k : Nat) : (Index.retireEmpty x y).hasKey k = y.hasKey k := by
  unfold Index.hasKey Index.retireEmpty
  dsimp only
  rw [List.any_map]
  refine congrArg (y.scree.any (holdsKey k) || ·) (congrArg (y.cells.any ·) (funext fun c => ?_))
  dsimp only [Function.comp_apply]
  split <;> rfl

theorem indexDelete_deletes {s : State} {o : Origin} {param : List Byte} {d : InFlight} {x : Index} {keys : List Nat}
    (hstart : canStart s o opDelete = some d) (hdrop : deleteDrop d.raw = false) (hblocked : indexBlocked s d = false)
    (hfind : findIndex s d = .ok x) (hkeys : keys = ((List.range (recordCount d.raw)).map fun i => leAt param (8 * i) 8))
    (hquiet : ∀ q ∈ s.srch.scans, q.slot = x.slot → q.origin = none) :
    ∃ t y, exec (.indexDelete o param) s = .next t ∧ t.descriptor o = none ∧ t.index x.slot = some y ∧
      (∀ k ∈ keys, y.hasKey k = false) ∧ (∀ k, k ∉ keys → y.hasKey k = x.hasKey k) ∧ t.ses = s.ses ∧ t.hrt = s.hrt := by
  have hnone : (s.srch.scans.filter (·.slot == x.slot)).filterMap (·.origin) = [] := by
    refine List.filterMap_eq_nil_iff.mpr fun q hq => ?_
    obtain ⟨hmem, hslot⟩ := List.mem_filter.mp hq
    exact hquiet q hmem (by simpa using hslot)
  generalize hy : Index.retireEmpty x (keys.foldl deleteStep (x, 0)).1 = y
  have hyslot : y.slot = x.slot := hy ▸ (deleteSteps_hasKey keys (x, 0) 0).2
  have hykey : ∀ k, y.hasKey k = (x.hasKey k && !keys.contains k) := fun k => by
    rw [← hy, hasKey_retireEmpty]
    exact (deleteSteps_hasKey keys (x, 0) k).1
  generalize hu : keys.foldl (fun s k => markQueries s x.slot k) (s.putIndex y) = u
  have huindexes : u.srch.indexes = (s.putIndex y).srch.indexes :=
    hu ▸ foldl_keeps (fun s : State => s.srch.indexes) (fun s k => markQueries s x.slot k) (fun s k => rfl) keys (s.putIndex y)
  have huses : u.ses = s.ses := hu ▸ foldl_keeps State.ses (fun s k => markQueries s x.slot k) (fun s k => rfl) keys (s.putIndex y)
  have huhrt : u.hrt = s.hrt := hu ▸ foldl_keeps State.hrt (fun s k => markQueries s x.slot k) (fun s k => rfl) keys (s.putIndex y)
  have hnext : ∃ result, exec (.indexDelete o param) s = .next (complete u o [] result) := by
    rw [exec_indexDelete, execIndexDelete]
    have hfold : keys.foldl (fun (acc : Index × Nat) k =>
      if acc.1.hasKey k then (acc.1.deleteKey k, acc.2 + 1) else acc) (x, 0) = keys.foldl deleteStep (x, 0) := rfl
    simp only [hstart, hdrop, hblocked, hfind, Bool.or_self, Bool.false_eq_true, if_false, ← hkeys, hfold, hy, hu, hnone,
      List.isEmpty_nil, if_true]
    exact ⟨_, rfl⟩
  obtain ⟨result, hnext⟩ := hnext
  have hq := quiet_complete u o [] result
  refine ⟨_, y, hnext, descriptor_complete .., ?_, fun k hk => ?_, fun k hk => ?_, (quiet_ses hq).trans huses, (quiet_hrt hq).trans huhrt⟩
  · rw [index_of_indexes (congrArg Search.indexes (quiet_srch hq)), index_of_indexes huindexes]
    exact index_putIndex_at s hyslot
  · rw [hykey]
    simp [hk]
  · rw [hykey]
    simp [hk]

/-! ### Dropping, creating and merging -/

theorem freeIndex_frees (s : State) (x : Index) : (freeIndex s x).ses = s.ses ∧
    (freeIndex s x).index x.slot = some { slot := x.slot, gen := x.gen + 1, tenant := x.tenant } ∧
    ∀ n, n ≠ x.slot → (freeIndex s x).index n = s.index n := by
  have hgranules : (freeGranules s x.tenant (indexGranules x)).srch = s.srch := by
    unfold freeGranules
    split <;> rfl
  unfold freeIndex
  refine ⟨freeGranules_ses .., index_putIndex_at _ rfl, fun n hn => ?_⟩
  rw [index_putIndex_other _ (x := { slot := x.slot, gen := x.gen + 1, tenant := x.tenant }) hn]
  exact index_of_indexes (congrArg Search.indexes hgranules) n

/-- Settles O45: the index that each command leaves. -/
theorem indexCommandsChangeOneIndex : Obligations.IndexCommandsChangeOneIndex := by
  unfold Obligations.IndexCommandsChangeOneIndex
  refine ⟨fun s s1 o param d x r up hstart hblocked hfind hrecords hdeadline hmerge hinsert =>
      indexInsert_appends hstart hblocked hfind hrecords hdeadline hmerge hinsert,
    fun s o param d x keys hstart hdrop hblocked hfind hkeys hquiet => indexDelete_deletes hstart hdrop hblocked hfind hkeys hquiet,
    fun s o d x hstart hdrop hblocked hfind hrunning => ?_,
    fun s o param slot w n d cells hstart hhandle hwidth hn hcreate hmost hlength hparam hlive hstands htrng hfree hcells hroom => ?_,
    fun s o d x hstart hhandle hblocked hfind hcreate hfits => ?_, fun s slot x hx => ⟨fun hearlier => ?_, fun hnone => ?_⟩⟩
  · obtain ⟨hses, hindex, hothers⟩ := freeIndex_frees s x
    have hquiet := quiet_complete (freeIndex s x) o [] 0
    have hsame := index_of_indexes (congrArg Search.indexes (quiet_srch hquiet))
    refine ⟨_, ?_, descriptor_complete .., (hsame _).trans hindex, (quiet_ses hquiet).trans hses, fun n hn => (hsame n).trans (hothers n hn)⟩
    rw [exec_indexDrop, execIndexDrop]
    simp only [hstart, hdrop, hblocked, hfind, hrunning, Bool.not_true, Bool.or_self, Bool.false_eq_true, if_false]
  · have hnext : ∃ (u : State) (y : Index) (result : Word), exec (.indexCreate o param slot) s = .next (complete (u.putIndex y) o [] result) ∧ y.slot = slot ∧
        y.live = true ∧ y.tenant = d.tenant ∧ y.width = w ∧ y.cells = cells ∧ y.scree = [] ∧ u.ses = s.ses ∧ u.hrt = s.hrt := by
      rw [exec_indexCreate, execIndexCreate]
      have hform : ¬(!mergeCreate d.raw || decide (1048576 < createCentroids d.raw) ||
          decide (fld d.raw 351 320 ≠ createCentroids d.raw * (w / 8)) || decide (param.length ≠ createCentroids d.raw * (w / 8))) = true := by
        subst hn
        simp [hcreate, hmost, hlength, hparam]
      simp only [hstart, hhandle, ne_eq, not_true, if_false, hwidth]
      rw [if_neg hform]
      subst hn
      rw [← hcells]
      have hconds : ((if 256 ≤ liveIndexes s || standsBy s then [Status.doesNotFit] else []) ++
            (if hearthFree s < ceilDiv (192 * cells.length) 65536 then [.tierFull] else []) ++
            (if !s.fbx.trngOk then [.hardwareFault] else [])) = [] := by
        simp [Nat.not_le.mpr hlive, hstands, Nat.not_lt.mpr hroom, htrng]
      simp only [hconds, not_true, if_false, hfree, Bool.not_true, Bool.false_eq_true]
      exact ⟨_, _, _, rfl, rfl, rfl, rfl, rfl, rfl, rfl, rfl, rfl⟩
    obtain ⟨u, y, result, hnext, hslot, hlive', htenant, hwidth', hycells, hscree, hses, hhrt⟩ := hnext
    have hquiet := quiet_complete (u.putIndex y) o [] result
    exact ⟨_, y, hnext, descriptor_complete .., (index_of_indexes (congrArg Search.indexes (quiet_srch hquiet)) _).trans
      (index_putIndex_at u hslot), hlive', htenant, hwidth', hycells, hscree, (quiet_ses hquiet).trans hses, (quiet_hrt hquiet).trans hhrt⟩
  · have hnext : ∃ result, exec (.indexMerge o) s =
        .next (complete (s.putIndex { (mergeIndex x).index with old := x.old + (mergeIndex x).old }) o [] result) := by
      rw [exec_indexMerge, execIndexMerge]
      simp only [hstart, hhandle, hblocked, hfind, hcreate, switchMerge, hfits, decide_false, Bool.or_self, Bool.false_eq_true, if_false,
        if_true]
      exact ⟨_, rfl⟩
    obtain ⟨result, hnext⟩ := hnext
    have hquiet := quiet_complete (s.putIndex { (mergeIndex x).index with old := x.old + (mergeIndex x).old }) o [] result
    exact ⟨_, _, hnext, descriptor_complete .., (index_of_indexes (congrArg Search.indexes (quiet_srch hquiet)) _).trans
      (index_putIndex_at s rfl), rfl, rfl, rfl, (quiet_ses hquiet).trans rfl, (quiet_hrt hquiet).trans rfl⟩
  · obtain ⟨q, hq, hslot, hversion, horigin⟩ := hearlier
    rw [exec_mergeFreeOld, execMergeFreeOld, hx]
    refine if_pos (List.any_eq_true.mpr ⟨q, hq, ?_⟩)
    simp [hslot, hversion, Option.isSome_iff_ne_none, horigin]
  · have hslot := index_slot hx
    have hidle : ¬(s.srch.scans.any fun q => q.slot == slot && decide (q.version < x.version) && q.origin.isSome) = true := by
      simpa using hnone
    have hnext : exec (.mergeFreeOld slot) s = .next ((freeGranules s x.tenant (128 * x.old)).putIndex { x with old := 0 }) := by
      rw [exec_mergeFreeOld, execMergeFreeOld, hx]
      exact if_neg hidle
    refine ⟨_, hnext, index_putIndex_at _ hslot, ?_, freeGranules_ses .., ?_⟩
    · show (freeGranules s x.tenant (128 * x.old)).tie.uncleared = _
      unfold freeGranules
      by_cases hold : x.old = 0
      · rw [if_pos hold, if_pos (by rw [hold]), List.append_nil]
      · rw [if_neg hold, if_neg (by omega)]
        rfl
    · show (freeGranules s x.tenant (128 * x.old)).hrt = s.hrt
      unfold freeGranules
      split <;> rfl

end Sys2Proof.Machine

end

section
/-!
SUPPORT. Queries of an index and the turns of the scan (R270, R272, R273, R281).
-/

namespace Sys2Proof.Machine

/-! ### What a query changes of the indexes -/

/-- An index without where its cells are cached. -/
def Index.content (x : Index) : Index := { x with cells := x.cells.map fun c => { c with hot := false, used := 0, banks := [] } }

/-- What probing and sampling leave: all but the search, and there what the indexes hold, the merges and deletions that wait and
the count of partial answers. -/
structure SearchWork (s t : State) : Prop where
  others : { t with srch := s.srch } = s
  partials : t.srch.partials = s.srch.partials
  waits : t.srch.waits = s.srch.waits
  indexes : ∀ n, (t.index n).map Index.content = (s.index n).map Index.content

theorem SearchWork.refl (s : State) : SearchWork s s := ⟨rfl, rfl, rfl, fun _ => rfl⟩

theorem SearchWork.trans {s t u : State} (h : SearchWork s t) (k : SearchWork t u) : SearchWork s u := by
  refine ⟨?_, k.partials.trans h.partials, k.waits.trans h.waits, fun n => (k.indexes n).trans (h.indexes n)⟩
  exact (congrArg (fun v : State => { v with srch := s.srch }) k.others).trans h.others

theorem SearchWork.foldl {α : Type} {f : State → α → State} (h : ∀ s a, SearchWork s (f s a)) (l : List α) (s : State) :
    SearchWork s (l.foldl f s) :=
  List.foldlRecOn l f (motive := SearchWork s) (.refl s) fun t ht a _ => ht.trans (h t a)

theorem SearchWork.field {α : Type} (f : State → α) (hf : ∀ (s : State) x, f { s with srch := x } = f s) {s t : State}
    (h : SearchWork s t) : f t = f s := by
  rw [← hf t s.srch, h.others]

theorem searchWork_counts (s : State) (f : Search → Search) (hp : (f s.srch).partials = s.srch.partials)
    (hw : (f s.srch).waits = s.srch.waits) (hi : (f s.srch).indexes = s.srch.indexes) : SearchWork s (s.onSrch f) :=
  ⟨rfl, hp, hw, fun n => by rw [index_of_indexes hi]⟩

theorem searchWork_onCell (s : State) (slot node : Nat) {f : IndexCell → IndexCell}
    (hf : ∀ c, { f c with hot := false, used := 0, banks := [] } = { c with hot := false, used := 0, banks := [] }) :
    SearchWork s (onCell s slot node f) := by
  unfold onCell
  rcases hx : s.index slot with _ | x
  · exact .refl s
  · have hslot := index_slot hx
    refine ⟨rfl, rfl, rfl, fun n => ?_⟩
    rcases Decidable.em (n = slot) with rfl | hn
    · rw [index_putIndex_at s (x := { x with cells := x.cells.map fun c => if c.node = node then f c else c }) hslot, hx]
      refine congrArg some (congrArg (fun l => ({ x with cells := l } : Index)) ?_)
      rw [List.map_map]
      refine List.map_congr_left fun c _ => ?_
      dsimp only [Function.comp_apply]
      split
      · exact hf c
      · rfl
    · rw [index_putIndex_other s (x := { x with cells := x.cells.map fun c => if c.node = node then f c else c }) (hslot ▸ hn)]

theorem searchWork_evictCells (n : Nat) (s : State) (keep : List (Nat × Nat)) : SearchWork s (evictCells n s keep) := by
  induction n generalizing s with
  | zero => exact .refl s
  | succ n ih =>
    unfold evictCells
    split
    · exact .refl s
    · split
      · exact .refl s
      · refine SearchWork.trans ?_ (ih _)
        exact searchWork_onCell _ _ _ fun _ => rfl

theorem searchWork_probeCell (s : State) (slot node : Nat) : SearchWork s (probeCell s slot node) := by
  unfold probeCell
  split
  · exact .refl s
  · rename_i c _
    extract_lets u banks v
    have hu : SearchWork s u := searchWork_counts s _ rfl rfl rfl
    have hv : SearchWork u v := searchWork_onCell _ _ _ fun _ => rfl
    exact (hu.trans hv).trans (searchWork_evictCells ..)

theorem searchWork_probeCells (s : State) (slot : Nat) (nodes : List Nat) : SearchWork s (probeCells s slot nodes) :=
  SearchWork.foldl (fun s n => searchWork_probeCell s slot n) nodes s

theorem searchWork_startQuery (s : State) (d : InFlight) (x : Index) (param : List Byte) : SearchWork s (startQuery s d x param).1 :=
  searchWork_probeCells ..

theorem searchWork_widenQuery (s : State) (q : Query) : SearchWork s (widenQuery s q).1 := by
  unfold widenQuery
  split
  · exact .refl s
  · extract_lets more u
    show SearchWork s (ite _ _ _)
    split
    · exact searchWork_probeCells ..
    · exact .refl s

theorem searchWork_sampleQuery (s : State) (q : Query) : SearchWork s (sampleQuery s q) := by
  unfold sampleQuery
  extract_lets n u
  have hu : SearchWork s u := searchWork_counts s _ rfl rfl rfl
  split
  · exact hu
  · exact hu.trans (searchWork_counts u _ rfl rfl rfl)

theorem searchWork_endSample (s : State) (q : Query) : SearchWork s (endSample s q) := by
  unfold endSample
  split
  · exact searchWork_counts s _ rfl rfl rfl
  · exact .refl s

/-- Samples that run count their overlap only (R281). -/
theorem searchWork_runSamples (s : State) : SearchWork s (runSamples s) := by
  unfold runSamples
  refine SearchWork.trans (t := s.onSrch fun t => { t with scans := (s.srch.scans.partition (·.origin.isNone)).2 })
    (searchWork_counts s _ rfl rfl rfl) ?_
  exact SearchWork.foldl (fun s q => searchWork_endSample ..) _ _

/-! ### The query itself -/

/-- What scanning keeps of a query: its descriptor, its bound and its answer's place; and it keeps within its bound. -/
structure ScanKeeps (q r : Query) : Prop where
  origin : r.origin = q.origin
  bad : r.bad = q.bad
  k : r.k = q.k
  out : r.out = q.out
  hits : q.hits.length ≤ q.k → r.hits.length ≤ r.k

theorem ScanKeeps.refl (q : Query) : ScanKeeps q q := ⟨rfl, rfl, rfl, rfl, id⟩

theorem ScanKeeps.trans {q r z : Query} (h : ScanKeeps q r) (g : ScanKeeps r z) : ScanKeeps q z :=
  ⟨g.origin.trans h.origin, g.bad.trans h.bad, g.k.trans h.k, g.out.trans h.out, fun hq => g.hits (h.hits hq)⟩

theorem scanKeeps_scanBlock (q : Query) (b : Nat × Nat) : ScanKeeps q (scanBlock q b) := by
  unfold scanBlock
  split
  · exact ⟨rfl, rfl, rfl, rfl, fun _ => List.length_take_le ..⟩
  · exact .refl q

theorem scanKeeps_scanAll (q : Query) : ScanKeeps q (scanAll q) :=
  List.foldlRecOn q.left scanBlock (motive := ScanKeeps q) (.refl q) fun r hr b _ => hr.trans (scanKeeps_scanBlock r b)

theorem scanKeeps_widenQuery (s : State) (q : Query) : ScanKeeps q (widenQuery s q).2 := by
  unfold widenQuery
  split
  · exact ⟨rfl, rfl, rfl, rfl, id⟩
  · exact ⟨rfl, rfl, rfl, rfl, id⟩

theorem inTurn_bad (turn : List (Nat × Nat × Nat × Nat × Nat)) (q : Query) : (inTurn turn q).bad = q.bad := by
  refine List.foldlRecOn turn _ (motive := fun r : Query => r.bad = q.bad) rfl fun r hr g _ => ?_
  split
  · exact (scanKeeps_scanBlock ..).bad.trans hr
  · exact hr

/-- The query that a descriptor starts. -/
theorem startQuery_query (s : State) (d : InFlight) (x : Index) (param : List Byte) :
    (startQuery s d x param).2.origin = some d.origin ∧ (startQuery s d x param).2.bad = false ∧
      (startQuery s d x param).2.k = queryK d.raw ∧ (startQuery s d x param).2.out = queryOut d.raw ∧
      (startQuery s d x param).2.hits = [] := ⟨rfl, rfl, rfl, rfl, rfl⟩

/-- What the end of a query leaves: its descriptor is done, and nothing but the search's counts has changed. -/
structure QueryEnds (s t : State) (o : Origin) (q : Query) : Prop where
  descriptor : t.descriptor o = none
  ses : t.ses = s.ses
  hrt : t.hrt = s.hrt
  tie : t.tie = s.tie
  regions : t.rdg.regions = s.rdg.regions
  indexes : ∀ n, (t.index n).map Index.content = (s.index n).map Index.content
  written : ∀ p seq, o = .qp p seq → q.hits ≠ [] →
    Output.hostWrite (s.qp p).ctx.pasid q.out ((q.hits.map hitBytes).flatten) ∈ t.out
  partials : t.srch.partials = if q.hits.length < q.k then min 0xFFFF (s.srch.partials + 1) else s.srch.partials

theorem QueryEnds.after {s t u : State} {o : Origin} {q : Query} (h : QueryEnds s t o q) (w : SearchWork t u) : QueryEnds s u o q where
  descriptor := (SearchWork.field (fun s => s.descriptor o) (fun _ _ => rfl) w).trans h.descriptor
  ses := (SearchWork.field State.ses (fun _ _ => rfl) w).trans h.ses
  hrt := (SearchWork.field State.hrt (fun _ _ => rfl) w).trans h.hrt
  tie := (SearchWork.field State.tie (fun _ _ => rfl) w).trans h.tie
  regions := (SearchWork.field (fun s => s.rdg.regions) (fun _ _ => rfl) w).trans h.regions
  indexes := fun n => (w.indexes n).trans (h.indexes n)
  written := fun p seq ho hhits => (SearchWork.field State.out (fun _ _ => rfl) w) ▸ h.written p seq ho hhits
  partials := w.partials.trans h.partials

theorem QueryEnds.before {s t u : State} {o : Origin} {q : Query} (w : SearchWork s t) (h : QueryEnds t u o q) : QueryEnds s u o q where
  descriptor := h.descriptor
  ses := h.ses.trans (SearchWork.field State.ses (fun _ _ => rfl) w)
  hrt := h.hrt.trans (SearchWork.field State.hrt (fun _ _ => rfl) w)
  tie := h.tie.trans (SearchWork.field State.tie (fun _ _ => rfl) w)
  regions := h.regions.trans (SearchWork.field (fun s => s.rdg.regions) (fun _ _ => rfl) w)
  indexes := fun n => (h.indexes n).trans (w.indexes n)
  written := fun p seq ho hhits => (SearchWork.field (fun s => (s.qp p).ctx.pasid) (fun _ _ => rfl) w) ▸ h.written p seq ho hhits
  partials := h.partials.trans (by rw [w.partials])

theorem settled_idle {s : State} (h : s.srch.waits = []) : indexSettled s = s := by
  rw [indexSettled, h]
  rfl

theorem qp_countTenant (s : State) (tenant which n p : Nat) : (countTenant s tenant which n).qp p = s.qp p := by
  refine qp_of_qps ?_ p
  unfold countTenant
  rw [State.onHost_host]
  split <;> rfl

/-- The completion of a query whose hits are delivered. -/
theorem queryEnds_complete {s u : State} {o : Origin} {q : Query} (cs : List Status) (r : Word) (hwaits : s.srch.waits = [])
    (hses : u.ses = s.ses) (hhrt : u.hrt = s.hrt) (htie : u.tie = s.tie) (hregions : u.rdg.regions = s.rdg.regions)
    (hu : u.srch.indexes = s.srch.indexes) (huwaits : u.srch.waits = s.srch.waits)
    (hpartials : u.srch.partials = if q.hits.length < q.k then min 0xFFFF (s.srch.partials + 1) else s.srch.partials)
    (hwritten : ∀ p seq, o = .qp p seq → q.hits ≠ [] →
      Output.hostWrite (s.qp p).ctx.pasid q.out ((q.hits.map hitBytes).flatten) ∈ u.out) :
    QueryEnds s (indexSettled (complete u o cs r)) o q := by
  have hquiet := quiet_complete u o cs r
  have hsrch := quiet_srch hquiet
  rw [settled_idle ((congrArg Search.waits hsrch).trans (huwaits.trans hwaits))]
  exact ⟨descriptor_complete .., (quiet_ses hquiet).trans hses, (quiet_hrt hquiet).trans hhrt, (quiet_tie hquiet).trans htie,
    (quiet_regions hquiet).trans hregions, fun n => by rw [index_of_indexes ((congrArg Search.indexes hsrch).trans hu)],
    fun p seq ho hhits => (out_prefix_complete_all u o cs r).subset (hwritten p seq ho hhits),
    (congrArg Search.partials hsrch).trans hpartials⟩

/-- A query within its deadline ends with its hits delivered (Table 12.6). -/
theorem endQuery_ends {s : State} {o : Origin} {q : Query} {d : InFlight} (horigin : q.origin = some o) (hd : s.descriptor o = some d)
    (hbad : q.bad = false) (hdeadline : pastDeadline s d = false) (hwaits : s.srch.waits = []) : QueryEnds s (endQuery s q) o q := by
  have hsample := searchWork_sampleQuery s q
  unfold endQuery
  simp only [horigin, hd, hbad, hdeadline, Bool.false_eq_true, if_false]
  refine QueryEnds.before hsample ?_
  have hwaits' := hsample.waits.trans hwaits
  generalize sampleQuery s q = u at hwaits' ⊢
  generalize hv : (ite (q.hits.isEmpty = true) (countTenant u d.tenant 4 1) _ : State) = v
  have hquiet : v.quiet = u.quiet := by
    rw [← hv]
    split
    · exact quiet_countTenant ..
    · exact (quiet_deliver ..).trans (quiet_countTenant ..)
  have hwritten : ∀ p seq, o = .qp p seq → q.hits ≠ [] →
      Output.hostWrite (u.qp p).ctx.pasid q.out ((q.hits.map hitBytes).flatten) ∈ v.out := fun p seq ho hhits => by
    rw [← hv, if_neg (by simpa using hhits), ho, ← qp_countTenant u d.tenant 4 1 p]
    exact List.mem_append_right _ (List.mem_singleton_self _)
  have hses := quiet_ses hquiet
  have hhrt := quiet_hrt hquiet
  have htie := quiet_tie hquiet
  have hregions := quiet_regions hquiet
  have hsrch := quiet_srch hquiet
  split
  · rename_i hall
    exact queryEnds_complete [] _ hwaits' hses hhrt htie hregions
      (congrArg Search.indexes hsrch) (congrArg Search.waits hsrch)
      ((congrArg Search.partials hsrch).trans (if_neg (Nat.not_lt.mpr hall)).symm) hwritten
  · rename_i hfew
    have hindexes := congrArg Search.indexes hsrch
    have hsame := congrArg Search.waits hsrch
    refine queryEnds_complete (u := v.onSrch fun t => { t with partials := bump 16 t.partials }) [.okPartial] _ hwaits'
      hses hhrt htie hregions hindexes hsame ?_ hwritten
    rw [if_pos (Nat.not_le.mp hfew)]
    exact (congrArg (fun t : Search => bump 16 t.partials) hsrch).trans (Nat.min_comm _ _)

/-- What an index holds, of what its content says. -/
theorem content_fields {x y : Index} (h : x.content = y.content) : x.scree = y.scree ∧ x.live = y.live ∧ x.gen = y.gen ∧
    x.cells.map (·.records) = y.cells.map (·.records) := by
  have hscree := congrArg Index.scree h
  have hlive := congrArg Index.live h
  have hgen := congrArg Index.gen h
  have hcells := congrArg (fun x : Index => x.cells.map (·.records)) h
  simp only [Index.content, List.map_map] at hcells
  exact ⟨hscree, hlive, hgen, hcells⟩

theorem startQuery_whole {s : State} {d : InFlight} {x : Index} {param : List Byte} (h : x.poisoned = []) :
    ({ (startQuery s d x param).2 with
      bad := !([] : List Nat).isEmpty || (startQuery s d x param).2.left.any x.poisoned.contains } : Query) = (startQuery s d x param).2 := by
  have hnone : (startQuery s d x param).2.left.any x.poisoned.contains = false := by
    rw [h]
    simp
  rw [hnone]
  rfl

/-- A query that no check refuses is started; while decode runs it waits for its turns. -/
theorem searchQuery_begins {s : State} {o : Origin} {param : List Byte} {d : InFlight} {x : Index}
    (hstart : canStart s o opQuery = some d) (hfind : findIndex s d = .ok x) (hbad : queryBad d.raw x.width param = false)
    (hdeadline : pastDeadline s d = false) (hpoisoned : x.poisoned = []) :
    exec (.searchQuery o param []) s = if decoding (startQuery s d x param).1 then
        .next (settleQuery (markRunning (startQuery s d x param).1 o) (startQuery s d x param).2)
      else .next (runSamples (wholeQuery (startQuery s d x param).1 (startQuery s d x param).2)) := by
  rw [exec_searchQuery, execSearchQuery]
  simp only [hstart, hfind, hbad, hdeadline, Bool.false_eq_true, if_false, List.filter_nil, List.foldl_nil]
  rw [startQuery_whole hpoisoned]
  by_cases h : decoding (startQuery s d x param).1 = true
  · rw [if_pos h]
    exact if_pos h
  · rw [if_neg h]
    exact if_neg h

theorem searchQuery_answers {s : State} {o : Origin} {param : List Byte} {d : InFlight} {x : Index}
    (hstart : canStart s o opQuery = some d) (hfind : findIndex s d = .ok x) (hbad : queryBad d.raw x.width param = false)
    (hdeadline : pastDeadline s d = false) (hdecoding : decoding s = false) (hwaits : s.srch.waits = [])
    (hpoisoned : x.poisoned = []) :
    ∃ t, exec (.searchQuery o param []) s = .next t ∧ QueryEnds s t o (answerOf s d x param) ∧
      (answerOf s d x param).k = queryK d.raw ∧ (answerOf s d x param).out = queryOut d.raw ∧
      (answerOf s d x param).hits.length ≤ queryK d.raw := by
  obtain ⟨hqorigin, hqbad, hqk, hqout, hqhits⟩ := startQuery_query s d x param
  have hstarted := searchWork_startQuery s d x param
  have hexec := searchQuery_begins hstart hfind hbad hdeadline hpoisoned
  have hanswer : answerOf s d x param =
      scanAll (widenQuery (startQuery s d x param).1 (scanAll (startQuery s d x param).2)).2 := rfl
  have hscan := (scanKeeps_scanAll (startQuery s d x param).2).trans ((scanKeeps_widenQuery (startQuery s d x param).1
    (scanAll (startQuery s d x param).2)).trans (scanKeeps_scanAll _))
  have hwiden := searchWork_widenQuery (startQuery s d x param).1 (scanAll (startQuery s d x param).2)
  rw [← hanswer] at hscan
  have hidle : decoding (startQuery s d x param).1 = false :=
    (SearchWork.field decoding (fun _ _ => rfl) hstarted).trans hdecoding
  rw [if_neg (by rw [hidle]; decide)] at hexec
  have hwhole : wholeQuery (startQuery s d x param).1 (startQuery s d x param).2 =
      endQuery (widenQuery (startQuery s d x param).1 (scanAll (startQuery s d x param).2)).1 (answerOf s d x param) := rfl
  rw [hwhole] at hexec
  have hwork := hstarted.trans hwiden
  generalize (widenQuery (startQuery s d x param).1 (scanAll (startQuery s d x param).2)).1 = u at hexec hwork
  obtain ⟨hd, -, -⟩ := canStart_some hstart
  have horigin : d.origin = o := (descriptor_some hd).2
  have hud : u.descriptor o = some d := (SearchWork.field (fun s => s.descriptor o) (fun _ _ => rfl) hwork).trans hd
  have hudeadline : pastDeadline u d = false := (SearchWork.field (fun s => pastDeadline s d) (fun _ _ => rfl) hwork).trans hdeadline
  have hends := endQuery_ends ((hscan.origin.trans hqorigin).trans (congrArg some horigin)) hud (hscan.bad.trans hqbad) hudeadline
    (hwork.waits.trans hwaits)
  have hk := hscan.k.trans hqk
  refine ⟨_, hexec, (QueryEnds.before hwork hends).after (searchWork_runSamples _), hk, hscan.out.trans hqout, ?_⟩
  exact hk ▸ hscan.hits (by rw [hqhits]; exact Nat.zero_le _)

theorem searchQuery_stays {s : State} {o : Origin} {param : List Byte} {d : InFlight} {x : Index}
    (hstart : canStart s o opQuery = some d) (hfind : findIndex s d = .ok x) (hbad : queryBad d.raw x.width param = false)
    (hdeadline : pastDeadline s d = false) (hdecoding : decoding s = true) (hpoisoned : x.poisoned = [])
    (hleft : (startQuery s d x param).2.left ≠ []) :
    ∃ t, exec (.searchQuery o param []) s = .next t ∧ (t.descriptor o).map (·.phase) = some .running ∧
      (∃ z ∈ t.srch.scans, z.origin = some o ∧ z.left = (startQuery s d x param).2.left) ∧ t.ses = s.ses ∧ t.hrt = s.hrt ∧
      t.tie = s.tie := by
  obtain ⟨hqorigin, hqbad, -, -, -⟩ := startQuery_query s d x param
  have hstarted := searchWork_startQuery s d x param
  have hexec := searchQuery_begins hstart hfind hbad hdeadline hpoisoned
  obtain ⟨hd, -, -⟩ := canStart_some hstart
  generalize (startQuery s d x param).2 = q at hexec hleft hqorigin hqbad ⊢
  generalize (startQuery s d x param).1 = u at hexec hstarted
  have hbusy : decoding u = true := (SearchWork.field decoding (fun _ _ => rfl) hstarted).trans hdecoding
  have hsettle : settleQuery (markRunning u o) q = (markRunning u o).onSrch fun t => { t with scans := t.scans ++ [q] } := by
    simp [settleQuery, hqbad, hleft]
  rw [if_pos hbusy, hsettle] at hexec
  have hses := SearchWork.field State.ses (fun _ _ => rfl) hstarted
  have hhrt := SearchWork.field State.hrt (fun _ _ => rfl) hstarted
  have htie := SearchWork.field State.tie (fun _ _ => rfl) hstarted
  have hud : u.descriptor o = some d := (SearchWork.field (fun s => s.descriptor o) (fun _ _ => rfl) hstarted).trans hd
  refine ⟨_, hexec, ?_, ⟨q, List.mem_append_right _ (List.mem_singleton_self q), hqorigin.trans (congrArg some (descriptor_some hd).2),
    rfl⟩, hses, hhrt, htie⟩
  have hrunning : (markRunning u o).descriptor o = some { d with phase := .running, origin := o } := by
    rw [markRunning, descriptor_onDescriptor_same, hud]
    rfl
  exact congrArg (Option.map InFlight.phase) hrunning

/-! ### A turn of the scan -/

theorem scanTurn_takes {s : State} {summit micros : Nat} {q : Query} (hready : s.pwr.ready = true) (hheld : s.pwr.heldNow = false)
    (hmicros : micros ≤ 3)
    (hturn : decoding s = false ∨ (atBarrier s summit = true ∧ scanTime s summit + micros ≤ min 50 (fld s.hrt.shareCtl 13 8)))
    (hscans : s.srch.scans = [q]) (hbad : q.bad = false) (hleft : (inTurn (turnBlocks summit [q]) q).left ≠ []) :
    ∃ t, exec (.scanTurn summit ⟨micros, []⟩) s = .next t ∧ (summit, s.localNs, micros) ∈ t.hrt.scanUsed ∧
      t.srch.scans = [inTurn (turnBlocks summit [q]) q] ∧ t.hrt.mem = s.hrt.mem ∧
      { t with hrt := s.hrt, srch := s.srch } = s := by
  have hcond : ¬(!s.pwr.ready || s.pwr.heldNow || decide (3 < micros) ||
      (decoding s && (!atBarrier s summit || decide (min 50 (fld s.hrt.shareCtl 13 8) < scanTime s summit + micros)))) = true := by
    rcases hturn with h | ⟨hbarrier, hshare⟩
    · simp [hready, hheld, hmicros, h]
    · simp only [hready, hheld, hbarrier, Nat.not_lt.mpr hmicros, Nat.not_lt.mpr hshare, Bool.not_true, decide_false, Bool.or_self,
        Bool.and_false, Bool.false_eq_true, not_false_eq_true]
  have hqbad : (inTurn (turnBlocks summit [q]) q).bad = false := (inTurn_bad ..).trans hbad
  have hsettle : ∀ u : State, settleQuery u (inTurn (turnBlocks summit [q]) q) =
      u.onSrch fun t => { t with scans := t.scans ++ [inTurn (turnBlocks summit [q]) q] } := fun u => by
    simp [settleQuery, hqbad, hleft]
  have hexec := exec_scanTurn summit ⟨micros, []⟩ s
  rw [execScanTurn] at hexec
  dsimp only at hexec
  rw [if_neg hcond] at hexec
  simp only [List.filter_nil, List.foldl_nil, State.onHrt_srch, hscans, List.map_cons, List.map_nil, List.foldl_cons, hsettle] at hexec
  exact ⟨_, hexec, List.mem_append_right _ (List.mem_singleton_self _), rfl, rfl, rfl⟩

/-- Settles O44: a query by its answer, by its place in the scan, and by its refusal; a turn by the blocks that it takes. -/
theorem queriesReadOnly : Obligations.QueriesReadOnly := by
  unfold Obligations.QueriesReadOnly
  refine ⟨fun s o param d x a hstart hfind hbad hdeadline hdecoding _ hwaits hpoisoned ha => ?_,
    fun s o param d x hstart hfind hbad hdeadline hdecoding hpoisoned hleft =>
      searchQuery_stays hstart hfind hbad hdeadline hdecoding hpoisoned hleft,
    fun s o param bad d x hstart hfind hbad => ?_,
    fun s summit micros poisoned hready hheld hmicros => ⟨fun hdecoding hwait => ?_, fun q hturn hscans hbad hleft =>
      scanTurn_takes hready hheld hmicros hturn hscans hbad hleft⟩⟩
  · subst ha
    obtain ⟨t, hexec, hends, hk, hout, hhits⟩ := searchQuery_answers hstart hfind hbad hdeadline hdecoding hwaits hpoisoned
    refine ⟨t, hexec, hends.descriptor, hends.ses, hends.hrt, hends.tie, hends.regions, hhits, fun n y hy => ?_,
      fun q seq ho hne => hout ▸ hends.written q seq ho hne, hk ▸ hends.partials⟩
    have hn := hends.indexes n
    rw [hy, Option.map_some, Option.map_eq_some_iff] at hn
    obtain ⟨z, hz, hcontent⟩ := hn
    exact ⟨z, hz, content_fields hcontent⟩
  · refine ⟨refuse s o .formatUnsupported, ?_, descriptor_complete .., quiet_complete ..⟩
    rw [exec_searchQuery, execSearchQuery]
    simp only [hstart, hfind, hbad, if_true]
  · rw [exec_scanTurn, execScanTurn]
    refine if_pos ?_
    rcases hwait with hbarrier | hshare
    · simp [hdecoding, hbarrier]
    · simp only [hdecoding, hshare, decide_true, Bool.or_true, Bool.and_self]

end Sys2Proof.Machine

end

section
/-!
SUPPORT. The stove islands: their items, their crests and their roles (R226 to R233, R341).
-/

namespace Sys2Proof.Machine

/-- The first island of a number. -/
def Stoves.find (v : Stoves) (n : Nat) : Option Island := v.islands.find? fun i => i.number == n

/-- An island that is changed under its own number changes in its place. -/
theorem find_onIsland_same (v : Stoves) (n : Nat) {f : Island → Island} (hf : ∀ i, (f i).number = i.number) :
    (v.onIsland n f).find n = (v.find n).map f := by
  have hlist : ∀ l : List Island, ((l.map fun i => if i.number = n then f i else i).find? fun i => i.number == n) =
      (l.find? fun i => i.number == n).map f := fun l => by
    induction l with
    | nil => rfl
    | cons i l ih =>
      rw [List.map_cons, List.find?_cons, List.find?_cons]
      by_cases hi : i.number = n
      · simp [hi, hf]
      · have hne : (i.number == n) = false := by simpa using hi
        simp only [if_neg hi, hne, ih]
  exact hlist v.islands

theorem find_onIsland_other (v : Stoves) {n k : Nat} {f : Island → Island} (hf : ∀ i, (f i).number = i.number) (h : k ≠ n) :
    (v.onIsland n f).find k = v.find k := by
  have hlist : ∀ l : List Island, ((l.map fun i => if i.number = n then f i else i).find? fun i => i.number == k) =
      (l.find? fun i => i.number == k) := fun l => by
    induction l with
    | nil => rfl
    | cons i l ih =>
      rw [List.map_cons, List.find?_cons, List.find?_cons, ih]
      by_cases hi : i.number = n
      · have hne : (i.number == k) = false := by simpa [hi] using Ne.symm h
        simp only [if_pos hi, hf, hne]
      · simp only [if_neg hi]
  exact hlist v.islands

/-! ### Items -/

/-- Where no item waits for decode, no island is called to it. -/
theorem callDecode_idle {v : Stoves} (h : v.waiting = []) : v.callDecode = v := by
  unfold Stoves.callDecode
  rw [h]
  rfl

/-- An item that ends leaves its island idle, with the results of its tile (R226). -/
def endedItem (tile : StoveTile) (i : Island) : Island :=
  { i with running := none, results := if i.running.isSome then tileResults tile else i.results }

/-- The end of an item, and the next one where the part takes items. -/
theorem workItemEnd_takes {s : State} {island : Nat} {crestOk : Bool} {tile : StoveTile} {i : Island}
    (hi : s.stv.find island = some i) (hheld : s.pwr.heldNow = false) (hready : s.pwr.ready = true)
    (hrole : s.fwu.attemptAt = none ∨ i.role = .decode) (hleaving : i.leaving = none) (hwaiting : s.stv.waiting = []) :
    exec (.workItemEnd island ⟨crestOk, tile⟩) s = .next (takeNext (onIsland s island (endedItem tile)) island crestOk) := by
  have hfound : s.stv.islands.find? (fun i => i.number == island) = some i := hi
  have hcalled : (onIsland s island (endedItem tile)).stv.callDecode = (onIsland s island (endedItem tile)).stv := callDecode_idle hwaiting
  have hcond : ¬(s.pwr.heldNow || (s.fwu.attemptAt.isSome && i.role != .decode)) = true := by
    rcases hrole with h | h <;> simp [hheld, h]
  rw [exec_workItemEnd, execWorkItemEnd]
  simp only [hfound, hready, hleaving, Bool.not_true, Bool.false_eq_true, if_false]
  refine (if_neg hcond).trans (congrArg Host.Outcome.next (congrArg (fun u => takeNext u island crestOk) ?_))
  split
  · rfl
  · exact congrArg (fun v => { onIsland s island (endedItem tile) with stv := v }) hcalled

/-- The head of an island's queue starts there (R230). -/
theorem takeNext_head {s : State} {n : Nat} {crestOk : Bool} {i : Island} {it : Item} {rest : List Item} (hi : s.stv.find n = some i)
    (hstoves : i.stoves ≠ 0) (hidle : i.running = none) (hqueue : i.queue = it :: rest) :
    takeNext s n crestOk = startItem (onIsland s n fun i => { i with queue := rest }) n it crestOk := by
  have hfound : s.stv.islands.find? (fun i => i.number == n) = some i := hi
  unfold takeNext
  simp only [hfound, hstoves, hidle, hqueue, decide_false, Option.isSome_none, Bool.or_self, Bool.false_eq_true, if_false]

/-- The queue of the island after the end of its item, with the next item taken off. -/
theorem find_queueTaken {s : State} {n : Nat} {tile : StoveTile} {i : Island} (hi : s.stv.find n = some i) (rest : List Item) :
    (onIsland (onIsland s n (endedItem tile)) n fun i => { i with queue := rest }).stv.find n =
      some { (endedItem tile i) with queue := rest } := by
  have hended := find_onIsland_same s.stv n (f := endedItem tile) fun _ => rfl
  have hqueue := find_onIsland_same (s.stv.onIsland n (endedItem tile)) n (f := fun i => { i with queue := rest }) fun _ => rfl
  rw [hended, hi] at hqueue
  exact hqueue

/-- What an item that starts leaves beside the islands. -/
structure StartsItem (s t : State) : Prop where
  ses : t.ses = s.ses
  hrt : t.hrt = s.hrt

/-- An item starts on an island whose crest is its tenant's, or is cleared for it (R228). -/
theorem startItem_starts {s : State} {n : Nat} {it : Item} {crestOk : Bool} {i : Island} (hi : s.stv.find n = some i)
    (hstoves : i.stoves ≠ 0) (hcrest : i.tenant = none ∨ i.tenant = some it.tenant ∨ crestOk = true) :
    (startItem s n it crestOk).stv.find n = some { i with stoves := i.stoves, running := some it, tenant := some it.tenant } ∧
      (startItem s n it crestOk).fbx = s.fbx ∧ StartsItem s (startItem s n it crestOk) := by
  have hfound : s.stv.islands.find? (fun i => i.number == n) = some i := hi
  have hfails : (i.tenant.any (· != it.tenant) && !crestOk) = false := by
    rcases hcrest with h | h | h <;> simp [h]
  unfold startItem
  simp only [hfound, hfails, Bool.false_eq_true, if_false, hstoves]
  have hkeep : ∀ u : State, u.stv.find n = some i → u.fbx = s.fbx → StartsItem s u →
      (onIsland u n fun j => { j with stoves := i.stoves, running := some it, tenant := some it.tenant }).stv.find n =
        some { i with stoves := i.stoves, running := some it, tenant := some it.tenant } ∧
      (onIsland u n fun j => { j with stoves := i.stoves, running := some it, tenant := some it.tenant }).fbx = s.fbx ∧
      StartsItem s (onIsland u n fun j => { j with stoves := i.stoves, running := some it, tenant := some it.tenant }) :=
    fun u hu hfbx hkept => by
      have hset := find_onIsland_same u.stv n
        (f := fun j => { j with stoves := i.stoves, running := some it, tenant := some it.tenant }) fun _ => rfl
      rw [hu] at hset
      exact ⟨hset, hfbx, hkept.ses, hkept.hrt⟩
  split
  · exact hkeep _ hi rfl ⟨rfl, rfl⟩
  · exact hkeep s hi rfl ⟨rfl, rfl⟩

/-- A crest that fails its clear takes a stove out of service as an isolation event; the item starts on the others (R341). -/
theorem startItem_isolates {s : State} {n old : Nat} {it : Item} {i : Island} (hi : s.stv.find n = some i)
    (hstoves : 1 < i.stoves) (hold : i.tenant = some old) (hother : old ≠ it.tenant) :
    (startItem s n it false).stv.find n = some { i with stoves := i.stoves - 1, running := some it, tenant := some it.tenant } ∧
      (startItem s n it false).fbx.isoSeen = true ∧ (startItem s n it false).fbx.isoCause = 3 ∧
      (startItem s n it false).fbx.isoTenant = old ∧ StartsItem s (startItem s n it false) := by
  have hfound : s.stv.islands.find? (fun i => i.number == n) = some i := hi
  have hclears : i.tenant.any (· != it.tenant) = true := by simp [hold, hother]
  have hleft : i.stoves - 1 ≠ 0 := by omega
  unfold startItem
  simp only [hfound, hclears, Bool.not_false, Bool.and_self, if_true, hleft, if_false]
  have hset := find_onIsland_same s.stv n
    (f := fun j => { j with stoves := i.stoves - 1, running := some it, tenant := some it.tenant }) fun _ => rfl
  rw [hi] at hset
  exact ⟨hset, rfl, rfl, by rw [hold]; rfl, rfl, rfl⟩

/-! ### Roles -/

/-- An island without its queue. -/
def emptied (i : Island) : Island := { i with queue := [] }

/-- What placing items keeps of the stoves: every island but for its queue, and the counts. -/
structure PlaceKeeps (v w : Stoves) : Prop where
  islands : ∀ n, (w.find n).map emptied = (v.find n).map emptied
  moves : w.moves = v.moves

theorem PlaceKeeps.refl (v : Stoves) : PlaceKeeps v v := ⟨fun _ => rfl, rfl⟩

theorem PlaceKeeps.trans {v w x : Stoves} (h : PlaceKeeps v w) (k : PlaceKeeps w x) : PlaceKeeps v x :=
  ⟨fun n => (k.islands n).trans (h.islands n), k.moves.trans h.moves⟩

theorem placeKeeps_place (v : Stoves) (it : Item) : PlaceKeeps v (v.place it) := by
  unfold Stoves.place
  split
  · rename_i i _
    refine ⟨fun n => ?_, rfl⟩
    rcases Decidable.em (n = i.number) with rfl | hn
    · rw [find_onIsland_same v _ (f := fun i => { i with queue := insertBy Item.before it i.queue }) fun _ => rfl, Option.map_map]
      rfl
    · rw [find_onIsland_other v (f := fun i => { i with queue := insertBy Item.before it i.queue }) (fun _ => rfl) hn]
  · exact ⟨fun _ => rfl, rfl⟩

theorem placeKeeps_placeAll (l : List Item) (v : Stoves) : PlaceKeeps v (l.foldl Stoves.place v) :=
  List.foldlRecOn l Stoves.place (motive := PlaceKeeps v) (.refl v) fun w hw it _ => hw.trans (placeKeeps_place w it)

theorem placeKeeps_placeWaiting (v : Stoves) : PlaceKeeps v v.placeWaiting :=
  PlaceKeeps.trans (w := { v with waiting := [] }) ⟨fun _ => rfl, rfl⟩ (placeKeeps_placeAll ..)

/-- An island that changes its role has the new one and leaves none; the change is counted (R231). -/
theorem changeRole_changes {v : Stoves} {n : Nat} {i : Island} (hi : v.find n = some i) (r : Role) :
    ∃ j, (v.changeRole n r).find n = some j ∧ j.role = r ∧ j.leaving = none ∧
      (v.changeRole n r).moves = min 0xFFFF (v.moves + 1) := by
  have hfound : v.islands.find? (fun i => i.number == n) = some i := hi
  unfold Stoves.changeRole
  simp only [hfound]
  generalize hw : (v.onIsland n fun i => { i with role := r, leaving := none, queue := [] }) = w
  have hwn : w.find n = some { i with role := r, leaving := none, queue := [] } := by
    rw [← hw, find_onIsland_same v n (f := fun i => { i with role := r, leaving := none, queue := [] }) fun _ => rfl, hi]
    rfl
  have hwmoves : w.moves = v.moves := hw ▸ rfl
  have hplace : PlaceKeeps { w with moves := bump 16 w.moves }
      (i.queue.foldl Stoves.place { w with moves := bump 16 w.moves }).placeWaiting :=
    (placeKeeps_placeAll ..).trans (placeKeeps_placeWaiting _)
  have hn := hplace.islands n
  have hcounted : ({ w with moves := bump 16 w.moves } : Stoves).find n = some { i with role := r, leaving := none, queue := [] } := hwn
  rw [hcounted, Option.map_some, Option.map_eq_some_iff] at hn
  obtain ⟨j, hj, hsame⟩ := hn
  have hrole := congrArg Island.role hsame
  have hleaving := congrArg Island.leaving hsame
  refine ⟨j, hj, hrole, hleaving, hplace.moves.trans ?_⟩
  rw [hwmoves]
  exact Nat.min_comm _ _

theorem splitInterval_moves {s : State} {m : SplitSample} {a r : Role} {i : Island} (hfrozen : rolesFrozen s = false)
    (hready : s.pwr.ready = true) (hbounds : s.stv.boundsMove = some (a, r))
    (hfirst : s.stv.islands.find? (fun i => i.heading == a && i.leaving.isNone) = some i)
    (hi : s.stv.islands.find? (fun j => j.number == i.number) = some i) :
    ∃ t j, exec (.splitInterval m) s = .next t ∧ t.stv.islands.find? (fun j => j.number == i.number) = some j ∧
      { t with stv := s.stv } = s ∧
      (i.running = none → j.role = r ∧ j.leaving = none ∧ t.stv.moves = min 0xFFFF (s.stv.moves + 1)) ∧
      (i.running ≠ none → j.role = i.role ∧ j.leaving = some r ∧ j.running = i.running ∧ t.stv.moves = s.stv.moves) := by
  obtain ⟨v, hv, hvislands, hvmoves⟩ : ∃ v : Stoves, v = (if m.waitedOver5us then { s.stv with waitSeen := true } else s.stv) ∧
      v.islands = s.stv.islands ∧ v.moves = s.stv.moves := by
    refine ⟨_, rfl, ?_⟩
    split <;> exact ⟨rfl, rfl⟩
  have hvbounds : v.boundsMove = some (a, r) := by
    rw [hv]
    split
    · exact hbounds
    · exact hbounds
  have hvn : v.find i.number = some i := by rw [Stoves.find, hvislands, hi]
  have hmove : (v.moveIsland [] a r).1 = if i.running.isNone then v.changeRole i.number r
      else v.onIsland i.number fun i => { i with leaving := some r } := by
    have hpick : v.islands.find? (fun i => i.heading == a && i.leaving.isNone && !([] : List Nat).contains i.number) = some i := by
      rw [hvislands, ← hfirst]
      exact congrArg (fun p => List.find? p s.stv.islands) (funext fun i => Bool.and_true _)
    unfold Stoves.moveIsland
    rw [hpick]
    simp only []
    split <;> rfl
  have hnext : exec (.splitInterval m) s = .next { s with stv := (v.moveIsland [] a r).1 } := by
    have hbalance : v.balance m = (v.moveIsland [] a r).1 := by
      unfold Stoves.balance
      rw [hvbounds]
    rw [exec_splitInterval, execSplitInterval, ← hbalance, hv]
    split
    · exact if_neg (by simpa [hready, rolesFrozen] using hfrozen)
    · exact if_neg (by simpa [hready, rolesFrozen] using hfrozen)
  by_cases hrunning : i.running = none
  · obtain ⟨j, hj, hrole, hleaving, hmoves⟩ := changeRole_changes hvn r
    rw [hmove, if_pos (by rw [hrunning]; rfl)] at hnext
    exact ⟨_, j, hnext, hj, rfl, fun _ => ⟨hrole, hleaving, hvmoves ▸ hmoves⟩, fun h => absurd hrunning h⟩
  · have hset := find_onIsland_same v i.number (f := fun i => { i with leaving := some r }) fun _ => rfl
    rw [hvn] at hset
    rw [hmove, if_neg (by simpa using hrunning)] at hnext
    exact ⟨_, _, hnext, hset, rfl, fun h => absurd h hrunning, fun _ => ⟨rfl, rfl, rfl, hvmoves⟩⟩

/-- Settles O35: the island after its item, after a clear, in a hold and at a split interval. -/
theorem islandsWorkAndChangeRoles : Obligations.IslandsWorkAndChangeRoles := by
  unfold Obligations.IslandsWorkAndChangeRoles
  refine ⟨fun s island crestOk tile i it rest hi hheld hready hrole hleaving hwaiting hqueue hstoves hcrest => ?_,
    fun s island old tile i it rest hi hheld hready hrole hleaving hwaiting hqueue hstoves hold hother => ?_,
    fun s island crestOk tile i hi hheld hready => ?_, fun s m hfrozen => ?_,
    fun s m a r i hfrozen hready hbounds hfirst hi => splitInterval_moves hfrozen hready hbounds hfirst hi⟩
  · have hended := find_onIsland_same s.stv island (f := endedItem tile) fun _ => rfl
    have hfirst : (onIsland s island (endedItem tile)).stv.find island = some (endedItem tile i) :=
      hended.trans (congrArg (Option.map (endedItem tile)) hi)
    have hexec := (workItemEnd_takes (crestOk := crestOk) (tile := tile) hi hheld hready hrole hleaving hwaiting).trans
      (congrArg Host.Outcome.next (takeNext_head (crestOk := crestOk) hfirst hstoves rfl hqueue))
    obtain ⟨hj, hfbx, hkept⟩ := startItem_starts (it := it) (crestOk := crestOk) (find_queueTaken (tile := tile) hi rest) hstoves hcrest
    exact ⟨_, _, hexec, hj, rfl, rfl, rfl, rfl, rfl, rfl, hfbx, hkept.ses, hkept.hrt⟩
  · have hended := find_onIsland_same s.stv island (f := endedItem tile) fun _ => rfl
    have hfirst : (onIsland s island (endedItem tile)).stv.find island = some (endedItem tile i) :=
      hended.trans (congrArg (Option.map (endedItem tile)) hi)
    have hexec := (workItemEnd_takes (crestOk := false) (tile := tile) hi hheld hready hrole hleaving hwaiting).trans
      (congrArg Host.Outcome.next (takeNext_head (crestOk := false) hfirst (by show i.stoves ≠ 0; omega) rfl hqueue))
    obtain ⟨hj, hseen, hcause, htenant, hkept⟩ := startItem_isolates (it := it) (find_queueTaken (tile := tile) hi rest) hstoves hold hother
    exact ⟨_, _, hexec, hj, rfl, rfl, hseen, hcause, htenant, hkept.ses, hkept.hrt⟩
  · have hended := find_onIsland_same s.stv island (f := endedItem tile) fun _ => rfl
    refine ⟨onIsland s island (endedItem tile), ?_, hended.trans (congrArg (Option.map (endedItem tile)) hi), rfl⟩
    rw [exec_workItemEnd, execWorkItemEnd]
    simp only [hi, hready, Bool.not_true, Bool.false_eq_true, if_false]
    exact if_pos (Bool.or_eq_true_iff.mpr (.inl hheld))
  · rw [exec_splitInterval, execSplitInterval]
    cases m.waitedOver5us with
    | true =>
      exact ⟨_, if_pos (Bool.or_eq_true_iff.mpr (.inl hfrozen)), rfl, rfl⟩
    | false =>
      exact ⟨_, if_pos (Bool.or_eq_true_iff.mpr (.inl hfrozen)), rfl, rfl⟩

end Sys2Proof.Machine

end

section
/-!
SUPPORT. Embedding batches without an index (R240 to R242).
-/

namespace Sys2Proof.Machine

/-- The code of one document (R241). -/
def codeOf (i : Image) (pooling width : Nat) (t : TokenRows) : List Byte :=
  binarise width (projected i width (pooled pooling i.hidden (t.take (encoderLimit i))))

theorem codeOf_length (i : Image) (pooling width : Nat) (t : TokenRows) : (codeOf i pooling width t).length = width / 8 := by
  rw [codeOf, binarise, List.length_map, List.length_range]

theorem codesOf_ne_nil {i : Image} {pooling width : Nat} (hwidth : 0 < width / 8) {outputs : List TokenRows} (h : outputs ≠ []) :
    codesOf i pooling width outputs ≠ [] := by
  cases outputs with
  | nil => exact absurd rfl h
  | cons tokens outputs =>
    intro hnil
    have hlong := codeOf_length i pooling width tokens
    have hcode : codeOf i pooling width tokens = [] := (List.append_eq_nil_iff.mp hnil).1
    rw [hcode] at hlong
    exact absurd hlong (Nat.ne_of_lt hwidth)

theorem docTokens_of_tokenised {s t : State} (h : t.knd.tokenised = s.knd.tokenised) (v : Vocab) (o : Origin) (n : Nat) (d : Document) :
    docTokens t v o n d = docTokens s v o n d := by
  simp only [docTokens, segmentTokens, h]

/-- What embedding documents leaves: counts of the kindling units and the stoves have changed. -/
structure EmbedWork (s t : State) : Prop where
  others : { t with knd := s.knd, stv := s.stv } = s
  tokenised : t.knd.tokenised = s.knd.tokenised
  truncated : t.stv.truncated = s.stv.truncated

theorem EmbedWork.refl (s : State) : EmbedWork s s := ⟨rfl, rfl, rfl⟩

theorem EmbedWork.trans {s t u : State} (h : EmbedWork s t) (k : EmbedWork t u) : EmbedWork s u := by
  refine ⟨?_, k.tokenised.trans h.tokenised, k.truncated.trans h.truncated⟩
  exact (congrArg (fun v : State => { v with knd := s.knd, stv := s.stv }) k.others).trans h.others

theorem EmbedWork.field {α : Type} (f : State → α) (hf : ∀ (s : State) x y, f { s with knd := x, stv := y } = f s) {s t : State}
    (h : EmbedWork s t) : f t = f s := by
  rw [← hf t s.knd s.stv, h.others]

theorem sat_add (w a b : Nat) : sat w (sat w a + b) = sat w (a + b) := by
  unfold sat
  omega

/-- A run of a batch over documents that fit: each gives its code, and is counted. -/
structure EmbedsAll (i : Image) (pooling width : Nat) (outputs : List TokenRows) (r z : EmbedRun) : Prop where
  work : EmbedWork r.state z.state
  stop : z.stop = none
  seen : z.at'.seen = r.at'.seen + outputs.length
  cut : z.at'.cut = r.at'.cut
  codes : z.codes = r.codes ++ codesOf i pooling width outputs
  docs : outputs ≠ [] → z.state.stv.docs = sat 32 (r.state.stv.docs + outputs.length)

theorem embedOne_fits {i : Image} {d : InFlight} {width : Nat} {r : EmbedRun} (hstop : r.stop = none) {doc : Document}
    (hfits : (docTokens r.state i.vocab d.origin r.at'.seen doc).1.length ≤ encoderLimit i) (tokens : TokenRows) :
    EmbedsAll i (fld d.raw 371 370) width [tokens] r (embedOne i none d width r doc (some tokens)) := by
  rcases hdoc : docTokens r.state i.vocab d.origin r.at'.seen doc with ⟨ids, bad⟩
  rw [hdoc] at hfits
  have hlong : ¬encoderLimit i < ids.length := Nat.not_lt.mpr hfits
  unfold embedOne
  simp only [hstop, hdoc, hlong, decide_false, Option.isSome_none, Bool.false_eq_true, Bool.false_and, if_false]
  exact ⟨⟨rfl, rfl, rfl⟩, rfl, rfl, rfl, congrArg (r.codes ++ ·) (List.append_nil _).symm, fun _ => rfl⟩

/-- The documents of a batch, each with its outputs, give their codes in order (R241). -/
theorem embedAll_fits {i : Image} {d : InFlight} {width : Nat} (docs : List Document) (outputs : List TokenRows)
    (hlength : outputs.length = docs.length) {r : EmbedRun} (hstop : r.stop = none)
    (hfits : ∀ n e, docs[n]? = some e → (docTokens r.state i.vocab d.origin (r.at'.seen + n) e).1.length ≤ encoderLimit i) :
    EmbedsAll i (fld d.raw 371 370) width outputs r
      ((docs.zip (outputs.map some)).foldl (fun r (doc, o) => embedOne i none d width r doc o) r) := by
  induction docs generalizing outputs r with
  | nil =>
    obtain rfl := List.length_eq_zero_iff.mp hlength
    exact ⟨.refl _, hstop, rfl, rfl, (List.append_nil _).symm, fun h => absurd rfl h⟩
  | cons doc docs ih =>
    cases outputs with
    | nil => cases hlength
    | cons tokens outputs =>
      have hone := embedOne_fits (width := width) hstop (hfits 0 doc rfl) tokens
      have hrest := ih outputs (Nat.succ.inj hlength) hone.stop fun n e he => by
        rw [docTokens_of_tokenised hone.work.tokenised, hone.seen]
        have hn := hfits (n + 1) e he
        rwa [← Nat.add_assoc, Nat.add_right_comm] at hn
      refine ⟨hone.work.trans hrest.work, hrest.stop, ?_, hrest.cut.trans hone.cut, ?_, ?_⟩
      · rw [List.map_cons, List.zip_cons_cons, List.foldl_cons, hrest.seen, hone.seen]
        simp only [List.length_cons, List.length_nil]
        omega
      · rw [List.map_cons, List.zip_cons_cons, List.foldl_cons, hrest.codes, hone.codes, List.append_assoc]
        simp only [codesOf, List.flatMap_cons, List.flatMap_nil, List.append_nil]
      · intro _
        have hcount := hone.docs (List.cons_ne_nil _ _)
        cases outputs with
        | nil => cases docs with
          | nil => exact hcount
          | cons e docs => cases hlength
        | cons rows outputs =>
          rw [List.map_cons, List.zip_cons_cons, List.foldl_cons, hrest.docs (List.cons_ne_nil _ _), hcount, sat_add, Nat.add_assoc,
            Nat.add_comm [tokens].length]
          rfl

theorem codeWidth_bytes {n w : Nat} (h : codeWidth n = some w) : 0 < w / 8 := by
  unfold codeWidth at h
  split at h <;> cases h <;> decide

/-- What the checks of a batch without an index have established. -/
theorem embedParts_ok {s : State} {d : InFlight} {param : List Byte} {i : Image} {w : Nat} {docs : List Document}
    (h : embedParts s d param = .ok (i, none, w, docs)) : embedOut d.raw ≠ 0 ∧ 0 < w / 8 := by
  unfold embedParts at h
  split at h
  · cases h
  · split at h
    · rename_i hwidth _
      dsimp only at h
      split at h
      · cases h
      · rename_i hchecks
        simp only [Bool.or_eq_true, Bool.and_eq_true, decide_eq_true_eq, not_or, not_and] at hchecks
        obtain ⟨⟨⟨⟨⟨⟨-, hout⟩, -⟩, -⟩, -⟩, -⟩, -⟩ := hchecks
        unfold embedTarget at h
        by_cases hhandle : dHandle d.raw = 0
        · rw [if_pos hhandle] at h
          cases h
          exact ⟨hout hhandle, codeWidth_bytes hwidth⟩
        · rw [if_neg hhandle] at h
          split at h <;> cases h
    · cases h

theorem canStart_waiting {s : State} {o : Origin} {op : Nat} {d : InFlight} (h : canStart s o op = some d) : d.phase = .waiting := by
  unfold canStart at h
  split at h
  · cases h
  · split at h
    · rename_i hcan
      cases h
      simp only [Bool.and_eq_true, decide_eq_true_eq] at hcan
      obtain ⟨⟨⟨⟨⟨⟨hphase, -⟩, -⟩, -⟩, -⟩, -⟩, -⟩ := hcan
      exact hphase
    · cases h

theorem embedGoesOn_of_waiting {s : State} {o : Origin} {d : InFlight} (hd : s.descriptor o = some d) (hphase : d.phase = .waiting) :
    embedGoesOn s o = none := by
  rw [embedGoesOn, hd]
  exact if_neg (by simp [hphase])

/-- A run that has embedded every document delivers its codes and ends the batch. -/
theorem embedRun_ends {s : State} {d : InFlight} {i : Image} {w : Nat} {docs : List Document} {outputs : List (Option TokenRows)}
    {z : EmbedRun} (hz : (docs.zip outputs).foldl (fun r (doc, o) => embedOne i none d w r doc o) { state := s, at' := {} } = z)
    (hstop : z.stop = none) (hseen : z.at'.seen = docs.length) (hcut : z.at'.cut = 0) (hsome : z.codes.isEmpty = false)
    (hout : embedOut d.raw ≠ 0) (hwaits : z.state.srch.waits = []) :
    embedRun s d i none w docs outputs {} = complete (textDone (deliver z.state d.origin (embedOut d.raw) z.codes) d.origin) d.origin []
      (halves z.at'.done 0) := by
  unfold embedRun
  rw [List.drop_zero, hz]
  simp only [hstop, hseen, hcut, hout, hsome, Nat.le_refl, Nat.lt_irrefl, decide_true, decide_false, Bool.or_self,
    Bool.or_true, Bool.false_eq_true, if_true, if_false, Nat.mul_zero, Nat.add_zero]
  refine settled_idle ?_
  have hquiet := (quiet_complete (textDone (deliver z.state d.origin (embedOut d.raw) z.codes) d.origin) d.origin [] (halves z.at'.done 0))
  have hdeliver := quiet_deliver z.state d.origin (embedOut d.raw) z.codes
  have hsame := (congrArg Search.waits (quiet_srch hdeliver)).trans hwaits
  exact (congrArg Search.waits (quiet_srch hquiet)).trans hsame

/-- A batch that starts, all of whose documents give codes, delivers them and completes. -/
theorem embedRun_delivers {s : State} {q : Nat} {m : Seq} {d : InFlight} {i : Image} {w : Nat} {docs : List Document}
    {outputs : List TokenRows} (horigin : d.origin = .qp q m) (hwaits : s.srch.waits = []) (hout : embedOut d.raw ≠ 0)
    (hwidth : 0 < w / 8) (hdocs : docs ≠ []) (hlength : outputs.length = docs.length)
    (hfits : ∀ n e, docs[n]? = some e → (docTokens s i.vocab (.qp q m) n e).1.length ≤ encoderLimit i) :
    ∃ u r, embedRun s d i none w docs (outputs.map some) {} = complete u (.qp q m) [] r ∧
      { u with out := s.out, knd := s.knd, stv := s.stv } = s ∧ u.stv.truncated = s.stv.truncated ∧
      u.out = s.out ++ [.hostWrite (s.qp q).ctx.pasid (embedOut d.raw) (codesOf i (fld d.raw 371 370) w outputs)] ∧
      u.stv.docs = min 0xFFFFFFFF (s.stv.docs + docs.length) := by
  have hall := embedAll_fits (i := i) (d := d) (width := w) docs outputs hlength (r := { state := s, at' := {} }) rfl
    (by simpa only [horigin, Nat.zero_add] using hfits)
  generalize hz : (docs.zip (outputs.map some)).foldl (fun r (doc, o) => embedOne i none d w r doc o) { state := s, at' := {} } = z at hall
  have houtputs : outputs ≠ [] := fun h => hdocs (List.length_eq_zero_iff.mp (by rw [← hlength, h]; rfl))
  have hcodes : z.codes = codesOf i (fld d.raw 371 370) w outputs := hall.codes
  have hsome : z.codes.isEmpty = false := by
    rw [hcodes, List.isEmpty_eq_false_iff]
    exact codesOf_ne_nil hwidth houtputs
  have hwork : EmbedWork s z.state := hall.work
  have hends := embedRun_ends hz hall.stop (hall.seen.trans ((Nat.zero_add _).trans hlength)) hall.cut hsome hout
    ((hwork.field (fun s => s.srch.waits) fun _ _ _ => rfl).trans hwaits)
  rw [hcodes, horigin] at hends
  have hpasid : (z.state.qp q).ctx.pasid = (s.qp q).ctx.pasid := hwork.field (fun s => (s.qp q).ctx.pasid) fun _ _ _ => rfl
  have hwritten : z.state.out = s.out := hwork.field State.out fun _ _ _ => rfl
  refine ⟨_, _, hends, ?_, hwork.truncated, ?_, ?_⟩
  · exact (congrArg (fun u : State => { u with out := s.out }) hwork.others)
  · rw [← hwritten, ← hpasid]
    rfl
  · have hcount := hall.docs houtputs
    rw [hlength] at hcount
    exact hcount.trans (Nat.min_comm _ _)

/-- Settles O36: each document that fits gives its code and is counted, so the run ends with no condition. -/
theorem embedBatchDeliversItsCodes : Obligations.EmbedBatchDeliversItsCodes := by
  unfold Obligations.EmbedBatchDeliversItsCodes
  intro s q m param outputs d i w docs hstart hblocked hparts hdeadline hwaits hdocs hfits hlength
  obtain ⟨hd, -, -⟩ := canStart_some hstart
  obtain ⟨hout, hwidth⟩ := embedParts_ok hparts
  obtain ⟨u, r, hrun, hothers, htruncated, hwritten, hcount⟩ := embedRun_delivers (descriptor_some hd).2 hwaits hout hwidth hdocs hlength hfits
  have hnext : exec (.embedBatch (.qp q m) param (outputs.map some)) s = .next (complete u (.qp q m) [] r) := by
    rw [exec_embedBatch, execEmbedBatch]
    simp only [embedGoesOn_of_waiting hd (canStart_waiting hstart), hstart, hblocked, hparts, hdeadline, Bool.false_eq_true, if_false]
    rw [hrun]
  have hquiet := quiet_complete u (.qp q m) [] r
  obtain ⟨rest, hrest⟩ := out_prefix_complete_all u (.qp q m) [] r
  rw [hwritten, List.append_assoc] at hrest
  have hsrch := congrArg State.srch hothers
  have hses := congrArg State.ses hothers
  have hhrt := congrArg State.hrt hothers
  have htie := congrArg State.tie hothers
  exact ⟨_, rest, hnext, descriptor_complete .., hrest.symm, (quiet_srch hquiet).trans hsrch,
    (quiet_ses hquiet).trans hses, (quiet_hrt hquiet).trans hhrt,
    (quiet_tie hquiet).trans htie,
    (congrArg Stoves.truncated (quiet_stv hquiet)).trans htruncated, (congrArg Stoves.docs (quiet_stv hquiet)).trans hcount⟩

end Sys2Proof.Machine

end

section
/-!
SUPPORT. Direct memory commands (R170 to R172).
-/

namespace Sys2Proof.Machine

theorem dmcRun_notPermitted {s : State} {val : Word} {op : Nat} (htakes : dmcTakes s val op = true)
    (hbank : ∃ e ∈ dmcBanks s, bankDirect s e = false) (run : State → Nat → State × Option (Nat × Nat × Nat)) :
    dmcRun s val op run = dmcEnd s dmcNotPermitted 0 0 (selEmber s) := by
  obtain ⟨e, he, hdirect⟩ := hbank
  have hall : (dmcBanks s).all (bankDirect s) = false := by
    rw [List.all_eq_false]
    exact ⟨e, he, by simp [hdirect]⟩
  simp only [dmcRun, htakes, hall, Bool.not_true, Bool.not_false, Bool.false_eq_true, if_true, if_false]

theorem dmcRun_done {s t : State} {val : Word} {op e : Nat} {run : State → Nat → State × Option (Nat × Nat × Nat)}
    (h : OneBank s val op e) (hrun : run s e = (t, none)) : dmcRun s val op run = dmcEnd t dmcDone 0 0 (selEmber t) := by
  obtain ⟨htakes, hbanks, hdirect⟩ := h
  simp only [dmcRun, htakes, hbanks, hdirect, hrun, List.all_cons, List.all_nil, List.foldl_cons, List.foldl_nil, Bool.and_true,
    Bool.not_true, Bool.false_eq_true, if_false]

theorem dmcRun_fails {s t : State} {val : Word} {op e res row count : Nat} {run : State → Nat → State × Option (Nat × Nat × Nat)}
    (h : OneBank s val op e) (hrun : run s e = (t, some (res, row, count))) : dmcRun s val op run = dmcEnd t res row count e := by
  obtain ⟨htakes, hbanks, hdirect⟩ := h
  simp only [dmcRun, htakes, hbanks, hdirect, hrun, List.all_cons, List.all_nil, List.foldl_cons, List.foldl_nil, Bool.and_true,
    Bool.not_true, Bool.false_eq_true, if_false]

theorem ember_dmcEnd (s : State) (result row count bank e : Nat) : (dmcEnd s result row count bank).ember e = s.ember e := rfl

/-! ### Rows of a pattern -/

/-- A row filled with the pattern. -/
def fillRow (e : Nat) (p : Word) (m : List Host.Cell) (r : Nat) : List Host.Cell :=
  memWriteAll (memZero m (rowAddr e r) 2048) (rowAddr e r) (patternRow p)

theorem fillRow_wf (e : Nat) (p : Word) {m : List Host.Cell} (r : Nat) (h : Memory.wf m = true) : Memory.wf (fillRow e p m r) = true :=
  memWriteAll_wf _ _ _ (memZero_wf _ _ _ h)

theorem length_leBytes (n v : Nat) : (leBytes n v).length = n := by
  induction n generalizing v with
  | zero => rfl
  | succ n ih => exact congrArg (· + 1) (ih _)

theorem getD_flatten_replicate (l : List Byte) {n k : Nat} (h : k < n * l.length) :
    (List.replicate n l).flatten.getD k 0 = l.getD (k % l.length) 0 := by
  induction n generalizing k with
  | zero => omega
  | succ n ih =>
    rw [List.replicate_succ, List.flatten_cons]
    by_cases hk : k < l.length
    · rw [List.getD_eq_getElem?_getD, List.getElem?_append_left hk, Nat.mod_eq_of_lt hk, List.getD_eq_getElem?_getD]
    · rw [Nat.succ_mul] at h
      rw [List.getD_eq_getElem?_getD, List.getElem?_append_right (Nat.not_lt.mp hk), ← List.getD_eq_getElem?_getD, ih (by omega),
        ← Nat.mod_eq_sub_mod (Nat.not_lt.mp hk)]

theorem patternRow_length (p : Word) : (patternRow p).length = 2048 := by
  rw [patternRow, List.length_flatten, List.map_replicate, List.sum_replicate_nat, length_leBytes]

theorem patternRow_getD (p : Word) {k : Nat} (h : k < 2048) : (patternRow p).getD k 0 = (leBytes 8 p.toNat).getD (k % 8) 0 := by
  rw [patternRow, getD_flatten_replicate _ (by rw [length_leBytes]; exact h), length_leBytes]

theorem memRead_fillRow (e : Nat) (p : Word) {m : List Host.Cell} (r a : Nat) (h : Memory.wf m = true) :
    memRead (fillRow e p m r) a = if rowAddr e r ≤ a ∧ a < rowAddr e r + 2048 then (leBytes 8 p.toNat).getD ((a - rowAddr e r) % 8) 0
      else memRead m a := by
  rw [fillRow, memRead_memWriteAll _ _ _ _ (memZero_wf _ _ _ h), patternRow_length]
  by_cases hin : rowAddr e r ≤ a ∧ a < rowAddr e r + 2048
  · rw [if_pos hin, if_pos hin, patternRow_getD p (by omega)]
  · rw [if_neg hin, if_neg hin, memRead_memZero _ _ _ _ h, if_neg hin]

/-- A byte outside of the rows stands. -/
theorem memRead_fillRows_other (e : Nat) (p : Word) (l : List Nat) {m : List Host.Cell} {a : Nat} (h : Memory.wf m = true)
    (ha : ∀ r ∈ l, a < rowAddr e r ∨ rowAddr e r + 2048 ≤ a) : memRead (l.foldl (fillRow e p) m) a = memRead m a := by
  induction l generalizing m with
  | nil => rfl
  | cons r l ih =>
    rw [List.foldl_cons, ih (fillRow_wf e p r h) fun q hq => ha q (List.mem_cons_of_mem _ hq), memRead_fillRow e p r a h, if_neg]
    have hr := ha r (List.mem_cons_self ..)
    omega

/-- A byte of one of the rows holds the pattern. -/
theorem memRead_fillRows_at (e : Nat) (p : Word) (l : List Nat) {m : List Host.Cell} {r k : Nat} (h : Memory.wf m = true) (hr : r ∈ l)
    (hk : k < 2048) : memRead (l.foldl (fillRow e p) m) (rowAddr e r + k) = (leBytes 8 p.toNat).getD (k % 8) 0 := by
  induction l generalizing m with
  | nil => cases hr
  | cons q l ih =>
    rw [List.foldl_cons]
    by_cases hlater : r ∈ l
    · exact ih (fillRow_wf e p q h) hlater
    · obtain rfl : r = q := (List.mem_cons.mp hr).resolve_right hlater
      rw [memRead_fillRows_other e p l (fillRow_wf e p r h), memRead_fillRow e p r _ h, if_pos (by omega), Nat.add_sub_cancel_left]
      intro q hq
      have hne : q ≠ r := fun heq => hlater (heq ▸ hq)
      unfold rowAddr
      omega

/-! ### The commands -/

theorem patternWrite_fills {s : State} {val : Word} {e : Nat} (h : OneBank s val 1 e) (hwf : Memory.wf s.hrt.mem = true) :
    ∃ t, exec (.patternWrite val) s = .next t ∧ t.hrt.dmcResult = dmcDone ∧ t.hrt.embers = s.hrt.embers ∧
      (∀ r k, r ∈ dmcRows val → k < 2048 →
        memRead t.hrt.mem (rowAddr e r + k) = (leBytes 8 s.hrt.operand.toNat).getD (k % 8) 0) ∧
      ∀ a, (∀ r ∈ dmcRows val, a < rowAddr e r ∨ rowAddr e r + 2048 ≤ a) → memRead t.hrt.mem a = memRead s.hrt.mem a := by
  have hnext : exec (.patternWrite val) s = .next (dmcEnd (s.onHrt fun h =>
      { h with mem := (dmcRows val).foldl (fillRow e h.operand) h.mem }) dmcDone 0 0 (selEmber s)) :=
    congrArg Host.Outcome.next (dmcRun_done h rfl)
  exact ⟨_, hnext, rfl, rfl, fun r k hr hk => memRead_fillRows_at e _ _ hwf hr hk, fun a ha => memRead_fillRows_other e _ _ hwf ha⟩

theorem patternCheck_judges {s : State} {val : Word} {errs : List ReadError} {e : Nat} (h : OneBank s val 2 e) :
    ∃ t, exec (.patternCheck ⟨val, errs⟩) s = .next t ∧ t.hrt.mem = s.hrt.mem ∧
      ((∀ r ∈ dmcRows val, patternFails s errs e r = 0) → (t.ember e).patternPass = true ∧ t.hrt.dmcResult = dmcDone) ∧
      (∀ r, (dmcRows val).find? (fun r => patternFails s errs e r != 0) = some r →
        (t.ember e).patternPass = false ∧ t.hrt.dmcResult = dmcFailed ∧ t.hrt.dmcRow = r) := by
  cases hbad : (dmcRows val).filter fun r => patternFails s errs e r != 0 with
  | nil =>
    have hnext : exec (.patternCheck ⟨val, errs⟩) s =
        .next (dmcEnd (s.onEmber e fun x => { x with patternPass := true }) dmcDone 0 0 (selEmber s)) :=
      congrArg Host.Outcome.next (dmcRun_done h (by simp only [hbad]))
    refine ⟨_, hnext, rfl, fun _ => ⟨?_, rfl⟩, fun r hr => ?_⟩
    · rw [ember_dmcEnd, ember_onEmber_same]
    · have hmem := List.mem_filter.mpr ⟨List.mem_of_find?_eq_some hr, List.find?_some hr⟩
      rw [hbad] at hmem
      cases hmem
  | cons r rest =>
    have hnext : exec (.patternCheck ⟨val, errs⟩) s = .next (dmcEnd (s.onEmber e fun x => { x with patternPass := false }) dmcFailed r
        ((r :: rest).map (patternFails s errs e)).sum e) :=
      congrArg Host.Outcome.next (dmcRun_fails h (by simp only [hbad]))
    refine ⟨_, hnext, rfl, fun hnone => ?_, fun q hq => ⟨?_, rfl, ?_⟩⟩
    · have hmem : r ∈ (dmcRows val).filter fun r => patternFails s errs e r != 0 := hbad ▸ List.mem_cons_self ..
      obtain ⟨hrow, hfails⟩ := List.mem_filter.mp hmem
      rw [hnone r hrow] at hfails
      cases hfails
    · rw [ember_dmcEnd, ember_onEmber_same]
    · rw [← List.head?_filter, hbad] at hq
      exact Option.some.inj hq

theorem emberTest_judges {s : State} {val : Word} {failing : List Nat} {e : Nat} (h : OneBank s val 3 e) :
    ∃ t, exec (.emberTest val failing) s = .next t ∧ t.hrt.mem = s.hrt.mem ∧ (t.ember e).emberPass = !failing.contains e ∧
      t.hrt.dmcResult = if failing.contains e then dmcFailed else dmcDone := by
  cases hfails : failing.contains e with
  | true =>
    have hnext : exec (.emberTest val failing) s =
        .next (dmcEnd (s.onEmber e fun x => { x with emberPass := false }) dmcFailed 0 0 e) :=
      congrArg Host.Outcome.next (dmcRun_fails h (if_pos hfails))
    exact ⟨_, hnext, rfl, by rw [ember_dmcEnd, ember_onEmber_same]; rfl, rfl⟩
  | false =>
    have hnext : exec (.emberTest val failing) s =
        .next (dmcEnd (s.onEmber e fun x => { x with emberPass := true }) dmcDone 0 0 (selEmber s)) :=
      congrArg Host.Outcome.next (dmcRun_done h (if_neg (by rw [hfails]; decide)))
    exact ⟨_, hnext, rfl, by rw [ember_dmcEnd, ember_onEmber_same]; rfl, rfl⟩

theorem ucodeLoad_loads {s : State} {val : Word} {e : Nat} (h : OneBank s val 4 e) (hn : fld s.hrt.operand 3 0 < ucodeCount s) :
    ∃ t, exec (.ucodeLoad val) s = .next t ∧ t.hrt.mem = s.hrt.mem ∧ (t.ember e).ucode = fld s.hrt.operand 3 0 ∧
      t.hrt.dmcResult = dmcDone := by
  have hnext : exec (.ucodeLoad val) s =
      .next (dmcEnd (s.onEmber e fun x => { x with ucode := fld s.hrt.operand 3 0 }) dmcDone 0 0 (selEmber s)) :=
    congrArg Host.Outcome.next (dmcRun_done h (if_pos hn))
  exact ⟨_, hnext, rfl, by rw [ember_dmcEnd, ember_onEmber_same], rfl⟩

theorem rowRepair_repairs {s : State} {val : Word} {e : Nat} (h : OneBank s val 5 e) (hleft : 0 < spareLeft s e) :
    ∃ t, exec (.rowRepair val) s = .next t ∧ t.hrt.mem = s.hrt.mem ∧
      (t.ember e).repairs = (s.ember e).repairs ++ [fld s.hrt.operand 13 0] ∧
      t.fwu.repairs = s.fwu.repairs ++ [(e, fld s.hrt.operand 13 0)] ∧ t.hrt.dmcResult = dmcDone := by
  have hnext : exec (.rowRepair val) s =
      .next (dmcEnd (repairRow s e (fld s.hrt.operand 13 0)) dmcDone 0 0 (selEmber s)) :=
    congrArg Host.Outcome.next (dmcRun_done h (if_neg (Nat.ne_of_gt hleft)))
  have hember : ((repairRow s e (fld s.hrt.operand 13 0)).ember e).repairs = (s.ember e).repairs ++ [fld s.hrt.operand 13 0] :=
    congrArg Ember.repairs (ember_onEmber_same s e fun x =>
      { x with repairs := x.repairs ++ [fld s.hrt.operand 13 0],
               failedCols := x.failedCols.filter fun c => c.1 != fld s.hrt.operand 13 0 })
  exact ⟨_, hnext, rfl, hember, rfl, rfl⟩

theorem marginScan_passes {s : State} {val : Word} {fails : List (Nat × Nat)} {e : Nat} (h : OneBank s val 6 e)
    (hnone : ∀ f ∈ fails, f.1 = e → f.2 ∉ dmcRows val) :
    exec (.marginScan val fails) s = .next (dmcEnd s dmcDone 0 0 (selEmber s)) := by
  have hmine : (fails.filter fun f => f.1 == e && (dmcRows val).contains f.2) = [] := by
    rw [List.filter_eq_nil_iff]
    intro f hf
    simpa using hnone f hf
  refine congrArg Host.Outcome.next (dmcRun_done h ?_)
  dsimp only
  rw [hmine]
  have hfind : ((dmcRows val).find? fun r => ([] : List (Nat × Nat)).any fun f => f.2 == r) = none := List.find?_eq_none.mpr (by simp)
  rw [hfind]

theorem dmcReturn_returns {s : State} {val : Word} {e : Nat} (h : OneBank s val 7 e) (hretired : bankRetired s e = true)
    (hpassed : (s.ember e).testPassed = true) :
    ∃ t, exec (.dmcReturn val) s = .next t ∧ (t.ember e).state = .inService ∧ t.hrt.mem = s.hrt.mem ∧ t.hrt.dmcResult = dmcDone := by
  have hnext : exec (.dmcReturn val) s = .next (dmcEnd (s.onEmber e fun x => { x with state := .inService, failedCols := [], skipTimes := [] })
      dmcDone 0 0 (selEmber s)) :=
    congrArg Host.Outcome.next (dmcRun_done h (if_pos (by rw [hretired, hpassed]; rfl)))
  exact ⟨_, hnext, by rw [ember_dmcEnd, ember_onEmber_same], rfl, rfl⟩

/-! ### The direct mode of a die -/

theorem writeDieMode_sets (s : State) (val : Word) :
    { writeDieMode s val with hrt := s.hrt } = s ∧ (writeDieMode s val).hrt.mem = s.hrt.mem ∧
      (fld val 1 0 = 1 → dieInUse s (selDie s) = false →
        (writeDieMode s val).hrt.dieDirect.contains (selDie s) = true ∧ (writeDieMode s val).hrt.dieBusy = false) ∧
      (fld val 1 0 = 1 → dieInUse s (selDie s) = true →
        (writeDieMode s val).hrt.dieBusy = true ∧ (writeDieMode s val).hrt.dieDirect = s.hrt.dieDirect) ∧
      (fld val 1 0 ≠ 1 → (writeDieMode s val).hrt.dieDirect.contains (selDie s) = false) := by
  by_cases hmode : fld val 1 0 = 1
  · cases huse : dieInUse s (selDie s) with
    | true =>
      have hset : writeDieMode s val = s.onHrt fun h => { h with dieBusy := true } := by
        simp only [writeDieMode, hmode, huse, if_true]
      rw [hset]
      exact ⟨rfl, rfl, fun _ h => (nomatch h), fun _ _ => ⟨rfl, rfl⟩, fun h => absurd hmode h⟩
    | false =>
      have hset : writeDieMode s val =
          s.onHrt fun h => { h with dieBusy := false, dieDirect := dedup (h.dieDirect ++ [selDie s]) } := by
        simp only [writeDieMode, hmode, huse, if_true, Bool.false_eq_true, if_false]
      rw [hset]
      exact ⟨rfl, rfl, fun _ _ => ⟨by simp [mem_dedup], rfl⟩, fun _ h => (nomatch h), fun h => absurd hmode h⟩
  · have hset : writeDieMode s val = s.onHrt fun h => { h with dieDirect := h.dieDirect.filter (· != selDie s) } := by
      simp only [writeDieMode, hmode, if_false]
    rw [hset]
    exact ⟨rfl, rfl, fun h => absurd h hmode, fun h => absurd h hmode, fun _ => by simp⟩

/-- Settles O43: a command on one bank is its effect on that bank and its result. -/
theorem directCommandsWorkOnDirectBanks : Obligations.DirectCommandsWorkOnDirectBanks := by
  unfold Obligations.DirectCommandsWorkOnDirectBanks
  refine ⟨?_, ?_, ?_, fun _ _ _ => patternWrite_fills, fun _ _ _ _ => patternCheck_judges, fun _ _ _ _ => emberTest_judges,
    fun _ _ _ => ucodeLoad_loads, fun _ _ _ => rowRepair_repairs, ?_, fun _ _ _ _ => marginScan_passes, fun _ _ _ => dmcReturn_returns⟩
  · intro s val fails failing errs p hp htakes hbank
    simp only [List.mem_cons, List.not_mem_nil, or_false] at hp
    rcases hp with rfl | rfl | rfl | rfl | rfl | rfl | rfl <;>
      exact congrArg Host.Outcome.next (dmcRun_notPermitted htakes hbank _)
  · intro s val hready hop
    rw [exec_dmcBadOperation, execDmcBadOperation, if_pos (by simpa [hready] using hop)]
  · intro s val hready
    exact ⟨writeDieMode s val, (exec_directModeSet val s).trans (if_pos hready), writeDieMode_sets s val⟩
  · intro s val e h hleft
    rw [exec_rowRepair, execRowRepair, dmcRun_fails h (if_pos hleft)]

end Sys2Proof.Machine

end

section
/-!
SUPPORT. Broadcast commands that run on one ember (R147 to R157, R209, R269).
-/

namespace Sys2Proof.Machine

/-! ### What a read without errors leaves -/

theorem countCorrected_zero (s : State) (e : Nat) : countCorrected s e 0 = s := if_pos rfl

theorem readRows_clean {s : State} (h : s.dgn.armed = false) (e : Nat) (rows : List Nat) (weights : Bool) :
    readRows s e rows weights [] = (s, true) := by
  have hmeets : meetErrors s e rows weights [] = (s, []) := by
    cases rows with
    | nil => rfl
    | cons row rows => exact meetErrors_unarmed h e _ weights [] (List.cons_ne_nil row rows)
  simp only [readRows, hmeets, List.filter_nil, List.length_nil, countCorrected_zero, List.foldl_nil, List.isEmpty_nil]

/-! ### Accumulators -/

theorem accAt_setAcc_same (x : Ember) (i : Nat) (v : BitVec 32) : (x.setAcc i v).accAt i = v := by
  have hget := upsert_get' (fun p : Nat × BitVec 32 => p.1) (i, v) x.acc i rfl
  exact congrArg (fun p => (p.map (·.2)).getD 0) hget

theorem accAt_setAcc_other (x : Ember) {i k : Nat} (v : BitVec 32) (h : k ≠ i) : (x.setAcc i v).accAt k = x.accAt k := by
  have hget := upsert_other (fun p : Nat × BitVec 32 => p.1) (i, v) x.acc k (Ne.symm h)
  exact congrArg (fun p => (p.map (·.2)).getD 0) hget

/-- Values written into an accumulator file. -/
def Ember.setAccs (x : Ember) (l : List (Nat × BitVec 32)) : Ember := l.foldl (fun x (i, v) => x.setAcc i v) x

theorem accAt_setAccs_other (l : List (Nat × BitVec 32)) (x : Ember) {i : Nat} (h : ∀ p ∈ l, p.1 ≠ i) : (x.setAccs l).accAt i = x.accAt i := by
  induction l generalizing x with
  | nil => rfl
  | cons p l ih =>
    exact (ih (x.setAcc p.1 p.2) fun q hq => h q (List.mem_cons_of_mem _ hq)).trans
      (accAt_setAcc_other x p.2 (Ne.symm (h p (List.mem_cons_self ..))))

/-- An accumulator that is written, with one value only, holds that value. -/
theorem accAt_setAccs (l : List (Nat × BitVec 32)) (x : Ember) {i : Nat} {v : BitVec 32} (hsome : ∃ p ∈ l, p.1 = i)
    (hsame : ∀ p ∈ l, p.1 = i → p.2 = v) : (x.setAccs l).accAt i = v := by
  induction l generalizing x with
  | nil => obtain ⟨p, hp, -⟩ := hsome; cases hp
  | cons p l ih =>
    by_cases hlater : ∃ q ∈ l, q.1 = i
    · exact ih (x.setAcc p.1 p.2) hlater fun q hq => hsame q (List.mem_cons_of_mem _ hq)
    · obtain ⟨q, hq, hqi⟩ := hsome
      rcases List.mem_cons.mp hq with rfl | hq
      · refine (accAt_setAccs_other l (x.setAcc q.1 q.2) fun r hr hri => hlater ⟨r, hr, hri⟩).trans ?_
        rw [← hqi, accAt_setAcc_same, hsame q (List.mem_cons_self ..) hqi]
      · exact absurd ⟨q, hq, hqi⟩ hlater

/-- The values of a slice by row and place, with their accumulators. -/
def sliceValues (w : BitVec 128) (n m : Nat) (f : Nat → Nat → BitVec 32) : List (Nat × BitVec 32) :=
  ((List.range n).map fun j => (List.range m).map fun o => (accIndex w j o, f j o)).flatten

theorem mem_sliceValues {w : BitVec 128} {n m : Nat} {f : Nat → Nat → BitVec 32} {p : Nat × BitVec 32} :
    p ∈ sliceValues w n m f ↔ ∃ j o, j < n ∧ o < m ∧ p = (accIndex w j o, f j o) := by
  simp only [sliceValues, List.mem_flatten, List.mem_map, List.mem_range]
  constructor
  · rintro ⟨_, ⟨j, hj, rfl⟩, hp⟩
    obtain ⟨o, ho, rfl⟩ := List.mem_map.mp hp
    exact ⟨j, o, hj, List.mem_range.mp ho, rfl⟩
  · rintro ⟨j, o, hj, ho, rfl⟩
    exact ⟨_, ⟨j, hj, rfl⟩, List.mem_map.mpr ⟨o, List.mem_range.mpr ho, rfl⟩⟩

/-- No two outputs of a slice share an accumulator (Table 7.2). -/
theorem accIndex_inj {w : BitVec 128} {j o j' o' : Nat} (hj : outputsOf w * j < 2048) (ho : o < outputsOf w)
    (hj' : outputsOf w * j' < 2048) (ho' : o' < outputsOf w) (h : accIndex w j o = accIndex w j' o') : j = j' ∧ o = o' := by
  unfold accIndex at h
  have hout : outputsOf w = 128 ∨ outputsOf w = 64 := by
    unfold outputsOf
    split
    · exact .inl rfl
    · exact .inr rfl
  generalize outputsOf w = n at *
  rcases hout with rfl | rfl <;> omega

theorem accAt_sliceValues {w : BitVec 128} {n m : Nat} (f : Nat → Nat → BitVec 32) (x : Ember) (hn : outputsOf w * n ≤ 2048)
    (hm : m ≤ outputsOf w) {j o : Nat} (hj : j < n) (ho : o < m) : (x.setAccs (sliceValues w n m f)).accAt (accIndex w j o) = f j o := by
  have hfile : ∀ k, k < n → outputsOf w * k < 2048 := fun k hk =>
    Nat.lt_of_lt_of_le (Nat.mul_lt_mul_of_pos_left hk (Nat.lt_of_lt_of_le (Nat.zero_lt_of_lt ho) hm)) hn
  refine accAt_setAccs _ x ⟨_, mem_sliceValues.mpr ⟨j, o, hj, ho, rfl⟩, rfl⟩ fun p hp hpi => ?_
  obtain ⟨k, q, hk, hq, rfl⟩ := mem_sliceValues.mp hp
  obtain ⟨rfl, rfl⟩ := accIndex_inj (hfile k hk) (Nat.lt_of_lt_of_le hq hm) (hfile j hj) (Nat.lt_of_lt_of_le ho hm) hpi
  rfl

/-! ### One slice -/

/-- The state in which the slice of a command runs: the half filled, the ember entered by its tenant. -/
def enteredSlice (s : State) (summit : Nat) (c : BitVec 64) (acts : List Byte) (scales : List (BitVec 32)) (x : Ember)
    (w : BitVec 128) : State :=
  (fillHalf s summit (cHalf c) acts scales).onEmber x.number fun y => y.enter (eTenant w)

theorem ember_enteredSlice {s : State} {x : Ember} (h : s.ember x.number = x) (summit : Nat) (c : BitVec 64) (acts : List Byte)
    (scales : List (BitVec 32)) (w : BitVec 128) : (enteredSlice s summit c acts scales x w).ember x.number = x.enter (eTenant w) := by
  have hfilled : (fillHalf s summit (cHalf c) acts scales).ember x.number = x := h
  rw [enteredSlice, ember_onEmber_same, hfilled]
  unfold Ember.enter
  split <;> rfl

/-- What the end of a command leaves of its slice's work. -/
structure SliceEnds (s t : State) : Prop where
  others : { t with hrt := s.hrt } = s
  mem : t.hrt.mem = s.hrt.mem
  acc : ∀ n, (t.ember n).acc = (s.ember n).acc

theorem SliceEnds.trans {s t u : State} (h : SliceEnds s t) (k : SliceEnds t u) : SliceEnds s u :=
  ⟨(congrArg (fun v : State => { v with hrt := s.hrt }) k.others).trans h.others, k.mem.trans h.mem, fun n => (k.acc n).trans (h.acc n)⟩

theorem SliceEnds.onEmber (s : State) (e : Nat) {f : Ember → Ember} (hf : ∀ x, (f x).acc = x.acc) : SliceEnds s (s.onEmber e f) := by
  refine ⟨rfl, rfl, fun n => ?_⟩
  by_cases h : n = e
  · rw [h, ember_onEmber_same]
    exact hf _
  · rw [ember_onEmber_other s f h]

theorem sliceEnds_endRun (s : State) (l : List (Nat × BitVec 128)) : SliceEnds s (endRun s l) := by
  unfold endRun
  refine List.foldlRecOn l _ (⟨rfl, rfl, fun _ => rfl⟩ : SliceEnds s s) fun u hu p _ => hu.trans ?_
  exact SliceEnds.trans (t := u.onEmber p.1 fun x => { x with topk := [], scanned := 0, candidates := 0 })
    (SliceEnds.onEmber u p.1 fun _ => rfl) ⟨rfl, rfl, fun _ => rfl⟩

/-- How a command ends whose one slice has run. -/
def endSlice (s : State) (summit : Nat) (c : BitVec 64) (scaled : Bool) (used : List (Nat × Nat)) (e : Nat) (w : BitVec 128) : State :=
  let s := growBudget s e (bankCycles c w)
  let s := s.onHrt fun h => { h with emitted := emissionsOf [(e, w, leaving s summit scaled e used)] }
  settleRun (if cCont c then s else endRun s [(e, w)]) summit c (eSplit w == 1)

theorem sliceEnds_endSlice (s : State) (summit : Nat) (c : BitVec 64) (scaled : Bool) (used : List (Nat × Nat)) (e : Nat)
    (w : BitVec 128) : SliceEnds s (endSlice s summit c scaled used e w) := by
  unfold endSlice
  extract_lets u v
  have hu : SliceEnds s u := .onEmber s e fun _ => rfl
  have hv : SliceEnds u v := ⟨rfl, rfl, fun _ => rfl⟩
  clear_value u v
  have hrun : SliceEnds v (if cCont c then v else endRun v [(e, w)]) := by
    split
    · exact ⟨rfl, rfl, fun _ => rfl⟩
    · exact sliceEnds_endRun ..
  exact ((hu.trans hv).trans hrun).trans ⟨rfl, rfl, fun _ => rfl⟩

/-- A command that one ember runs is its slice on that ember and the end of the command. -/
theorem runCommand_oneSlice {s : State} {summit op : Nat} {c : BitVec 64} {x : Ember} {w : BitVec 128} (h : OneSlice s summit op c x w)
    (acts : List Byte) (scales : List (BitVec 32)) (reqs : List Origin) (scaled : Bool) (used : BitVec 128 → List (Nat × Nat))
    (body : State → Nat → BitVec 128 → State) :
    runCommand s summit op c acts scales reqs scaled used body =
      endSlice (body (enteredSlice s summit c acts scales x w) x.number w) summit c scaled (used w) x.number w := by
  obtain ⟨hissues, haddressed, hskip, -, -⟩ := h
  have hfilled : addressed (fillHalf s summit (cHalf c) acts scales) summit c = [(x, w)] := haddressed
  have hchecked : skipCause (fillHalf s summit (cHalf c) acts scales) op x w = none := hskip
  simp only [runCommand, hissues, hfilled, checkSlices, hchecked, List.foldl_cons, List.foldl_nil, List.nil_append, List.map_cons,
    List.map_nil, List.any_cons, List.any_nil, Bool.or_false, Bool.not_true, Bool.false_eq_true, if_false]
  rfl

theorem eOp_of_oneSlice {s : State} {summit op : Nat} {c : BitVec 64} {x : Ember} {w : BitVec 128} (h : OneSlice s summit op c x w) :
    eOp w = op := by
  obtain ⟨-, -, hskip, -, -⟩ := h
  unfold skipCause at hskip
  refine Decidable.byContradiction fun hop => ?_
  simp [hop] at hskip

/-- A slice that sets accumulators of its ember and no byte. -/
structure FillsAccs (s t : State) (e : Nat) (l : List (Nat × BitVec 32)) : Prop where
  others : { t with hrt := s.hrt } = s
  mem : t.hrt.mem = s.hrt.mem
  acc : ∃ y : Ember, (t.ember e).acc = (y.setAccs l).acc

theorem accAt_of_acc {x y : Ember} (h : x.acc = y.acc) (i : Nat) : x.accAt i = y.accAt i := by rw [Ember.accAt, h, Ember.accAt]

theorem storesNothing_of_others {s t : State} (h : { t with hrt := s.hrt } = s) (hmem : t.hrt.mem = s.hrt.mem) : StoresNothing s t := by
  have htie := congrArg State.tie h
  have hses := congrArg State.ses h
  have hdesc := congrArg State.desc h
  have himg := congrArg State.img h
  have hrdg := congrArg State.rdg h
  exact ⟨hmem, htie, hses, hdesc, himg, hrdg⟩

/-- A command whose slice fills a table of accumulators: each output's value stands in its own. -/
theorem fillsAccs_endSlice {s u : State} {x : Ember} {w : BitVec 128} {c : BitVec 64} {summit n m : Nat} {acts : List Byte}
    {scales : List (BitVec 32)} {f : Nat → Nat → BitVec 32}
    (hfills : FillsAccs (enteredSlice s summit c acts scales x w) u x.number (sliceValues w n m f)) (hn : outputsOf w * n ≤ 2048)
    (hm : m ≤ outputsOf w) (scaled : Bool) (used : List (Nat × Nat)) :
    StoresNothing s (endSlice u summit c scaled used x.number w) ∧ ∀ j o, j < n → o < m →
      ((endSlice u summit c scaled used x.number w).ember x.number).accAt (accIndex w j o) = f j o := by
  have hends := sliceEnds_endSlice u summit c scaled used x.number w
  obtain ⟨y, hy⟩ := hfills.acc
  refine ⟨storesNothing_of_others ?_ (hends.mem.trans hfills.mem), fun j o hj ho => ?_⟩
  · have hothers := (congrArg (fun v : State => { v with hrt := s.hrt }) hends.others).trans
      (congrArg (fun v : State => { v with hrt := s.hrt }) hfills.others)
    exact hothers
  · rw [accAt_of_acc ((hends.acc x.number).trans hy), accAt_sliceValues f y hn hm hj ho]

end Sys2Proof.Machine

end

section
/-!
SUPPORT. MATVEC, SCORE and BINDOT (R147 to R151, R209, R269).
-/

namespace Sys2Proof.Machine

theorem outputs_batch (c : BitVec 64) (w : BitVec 128) : outputsOf w * columnsOf c w ≤ 2048 := by
  have hbatch : cBatch c ≤ 32 := by
    unfold cBatch
    dsimp only
    split
    · exact Nat.le_refl _
    · rename_i h
      simp only [Bool.or_eq_true, decide_eq_true_eq, not_or, Nat.not_lt] at h
      exact h.2
  unfold outputsOf columnsOf
  split <;> omega

theorem eOuts_le (w : BitVec 128) : eOuts w ≤ outputsOf w := Nat.min_le_right ..

theorem outputsOf_of_op {w : BitVec 128} (h : eOp w ≠ 1) : outputsOf w = 64 := if_neg (by simp [h])

theorem columnsOf_of_op {c : BitVec 64} {w : BitVec 128} (h : eOp w ≠ 1) : columnsOf c w = cBatch c := if_neg (by simp [h])

/-- A slice that sets accumulators of its ember. -/
theorem fillsAccs_onEmber (s : State) (e : Nat) {f : Ember → Ember} (y : Ember) {l : List (Nat × BitVec 32)}
    (h : f (s.ember e) = y.setAccs l) : FillsAccs s (s.onEmber e f) e l := by
  refine ⟨rfl, rfl, y, ?_⟩
  rw [ember_onEmber_same, h]

theorem FillsAccs.countFormatErrors {s t : State} {e : Nat} {l : List (Nat × BitVec 32)} (h : FillsAccs s t e l) (f : Hearth → Nat) :
    FillsAccs s (t.onHrt fun r => { r with formatErrors := f r }) e l :=
  ⟨h.others, h.mem, h.acc⟩

/-! ### MATVEC -/

/-- Output o of column j of a MATVEC slice on an ember as its tenant has entered it. -/
def matvecValue (s : State) (summit : Nat) (c : BitVec 64) (y : Ember) (e : Nat) (w : BitVec 128) (j o : Nat) : BitVec 32 :=
  let start := if eClear w then 0 else y.accAt (accIndex w j o)
  if eFormat w < 4 then weightSum s summit c e w j o start else valueSum s summit c e w j o start

theorem matvecSlice_clean {s : State} (h : s.dgn.armed = false) (summit : Nat) (c : BitVec 64) (e : Nat) (w : BitVec 128) :
    FillsAccs s (matvecSlice summit c [] s e w) e (sliceValues w (columnsOf c w) (eOuts w) (matvecValue s summit c (s.ember e) e w)) := by
  simp only [matvecSlice, readRows_clean h, Bool.not_true, Bool.false_eq_true, if_false, decide_eq_true_eq]
  exact (fillsAccs_onEmber s e { s.ember e with candidates := 0, accColumn := none } rfl).countFormatErrors _

theorem matvec_fills {s : State} {summit : Nat} {c : BitVec 64} {x : Ember} {w : BitVec 128} (h : OneSlice s summit 1 c x w)
    (acts : List Byte) (scales : List (BitVec 32)) (reqs : List Origin) :
    ∃ t, exec (.matvec summit ⟨c, reqs⟩ acts scales []) s = .next t ∧ StoresNothing s t ∧
      ∀ j o, j < columnsOf c w → o < eOuts w → (t.ember x.number).accAt (accIndex w j o) =
        matvecValue (fillHalf s summit (cHalf c) acts scales) summit c (x.enter (eTenant w)) x.number w j o := by
  obtain ⟨-, -, -, hember, harmed⟩ := id h
  have hclean := matvecSlice_clean (s := enteredSlice s summit c acts scales x w) harmed summit c x.number w
  rw [ember_enteredSlice hember] at hclean
  obtain ⟨hnothing, hvalues⟩ := fillsAccs_endSlice hclean (outputs_batch c w) (eOuts_le w) true (matvecUsed c w)
  exact ⟨_, congrArg Host.Outcome.next (runCommand_oneSlice h acts scales reqs true (matvecUsed c) (matvecSlice summit c [])),
    hnothing, hvalues⟩

/-! ### SCORE -/

theorem scoreSlice_clean {s : State} (h : s.dgn.armed = false) (summit : Nat) (c : BitVec 64) (e : Nat) (w : BitVec 128) :
    FillsAccs s (scoreSlice summit c [] s e w) e (sliceValues w (scoreHeads w) (scoreVectors w) fun j k =>
      scoreSum s summit c e w j k (if eClear w then 0 else (s.ember e).accAt (accIndex w j k))) := by
  simp only [scoreSlice, readRows_clean h, Bool.not_true, Bool.false_eq_true, if_false]
  exact fillsAccs_onEmber s e { s.ember e with candidates := 0, accColumn := some (eSeq w) } rfl

theorem score_fills {s : State} {summit : Nat} {c : BitVec 64} {x : Ember} {w : BitVec 128} (h : OneSlice s summit 2 c x w)
    (acts : List Byte) (scales : List (BitVec 32)) (reqs : List Origin) :
    ∃ t, exec (.score summit ⟨c, reqs⟩ acts scales []) s = .next t ∧ StoresNothing s t ∧
      ∀ j k, j < scoreHeads w → k < scoreVectors w → (t.ember x.number).accAt (accIndex w j k) =
        scoreSum (fillHalf s summit (cHalf c) acts scales) summit c x.number w j k
          (if eClear w then 0 else (x.enter (eTenant w)).accAt (accIndex w j k)) := by
  obtain ⟨-, -, -, hember, harmed⟩ := id h
  have hclean := scoreSlice_clean (s := enteredSlice s summit c acts scales x w) harmed summit c x.number w
  rw [ember_enteredSlice hember] at hclean
  have hout : outputsOf w = 64 := outputsOf_of_op (by rw [eOp_of_oneSlice h]; decide)
  have hheads : scoreHeads w ≤ 16 := Nat.min_le_left ..
  have hvectors : scoreVectors w ≤ outputsOf w := Nat.le_trans (Nat.min_le_right ..) (eOuts_le w)
  obtain ⟨hnothing, hvalues⟩ := fillsAccs_endSlice hclean (by rw [hout]; omega) hvectors true (scoreUsed w)
  exact ⟨_, congrArg Host.Outcome.next (runCommand_oneSlice h acts scales reqs true scoreUsed (scoreSlice summit c [])),
    hnothing, hvalues⟩

/-! ### BINDOT -/

theorem bindotSlice_clean {s : State} (h : s.dgn.armed = false) (summit : Nat) (c : BitVec 64) (e : Nat) (w : BitVec 128) :
    FillsAccs s (bindotSlice summit c [] s e w) e (sliceValues w (cBatch c) (bindotRecords w).1 (bindotScore s summit c e w)) := by
  simp only [bindotSlice, readRows_clean h, Bool.not_true, Bool.false_eq_true, if_false]
  exact fillsAccs_onEmber s e
    { s.ember e with scanned := (s.ember e).scanned + (s.ember e).candidates, candidates := (bindotRecords w).1 } rfl

theorem bindot_fills {s : State} {summit : Nat} {c : BitVec 64} {x : Ember} {w : BitVec 128} (h : OneSlice s summit 3 c x w)
    (acts : List Byte) (reqs : List Origin) :
    ∃ t, exec (.bindot summit ⟨c, reqs⟩ acts []) s = .next t ∧ StoresNothing s t ∧
      ∀ j k, j < cBatch c → k < (bindotRecords w).1 → (t.ember x.number).accAt (accIndex w j k) =
        bindotScore (fillHalf s summit (cHalf c) acts []) summit c x.number w j k := by
  obtain ⟨-, -, -, -, harmed⟩ := id h
  have hclean := bindotSlice_clean (s := enteredSlice s summit c acts [] x w) harmed summit c x.number w
  have hop : eOp w ≠ 1 := by rw [eOp_of_oneSlice h]; decide
  have hrecords : (bindotRecords w).1 ≤ outputsOf w := Nat.le_trans (Nat.min_le_left ..) (eOuts_le w)
  obtain ⟨hnothing, hvalues⟩ := fillsAccs_endSlice hclean (columnsOf_of_op hop ▸ outputs_batch c w) hrecords false (bindotUsed c w)
  exact ⟨_, congrArg Host.Outcome.next (runCommand_oneSlice h acts [] reqs false (bindotUsed c) (bindotSlice summit c [])),
    hnothing, hvalues⟩

/-- Settles O39: no two outputs of a slice share an accumulator, so each keeps its own value. -/
theorem slicesFillTheirAccumulators : Obligations.SlicesFillTheirAccumulators := by
  unfold Obligations.SlicesFillTheirAccumulators
  exact ⟨fun _ _ _ acts scales reqs _ _ h => matvec_fills h acts scales reqs,
    fun _ _ _ acts scales reqs _ _ h => score_fills h acts scales reqs, fun _ _ _ acts reqs _ _ h => bindot_fills h acts reqs⟩

end Sys2Proof.Machine

end

section
/-!
SUPPORT. TOPK_LOCAL, IDLE and slices skipped on a frame tag (R148, R154, R269, R345).
-/

namespace Sys2Proof.Machine

/-- The pairs of one of an ember's lists. -/
def Ember.list (x : Ember) (n : Nat) : List TopEntry := (x.topk.filter (·.1 == n)).map (·.2)

theorem StoresNothing.trans {s t u : State} (h : StoresNothing s t) (k : StoresNothing t u) : StoresNothing s u := by
  obtain ⟨hmem, htie, hses, hdesc, himg, hrdg⟩ := h
  obtain ⟨kmem, ktie, kses, kdesc, kimg, krdg⟩ := k
  exact ⟨kmem.trans hmem, ktie.trans htie, kses.trans hses, kdesc.trans hdesc, kimg.trans himg, krdg.trans hrdg⟩

/-! ### TOPK_LOCAL -/

/-- The candidates that accumulators give, each under its column's token scale (R148). -/
def accCandidates (s : State) (summit : Nat) (w : BitVec 128) (x : Ember) : List TopEntry :=
  (sortBy (fun (a b : Nat × BitVec 32) => decide (a.1 < b.1)) x.acc).map fun e =>
    (mulF32 e.2 (columnScale s summit (scaleColumn w x e.1)), e.1)

/-- A list that stands for the one of number 0 is that list. -/
theorem list_replaced (l : List (Nat × TopEntry)) (cands best : List TopEntry) :
    (((l.filter fun p => !([((0 : Nat), cands)].any fun q => q.1 == p.1)) ++ best.map fun p => ((0 : Nat), p)).filter
      fun p => p.1 == 0).map (fun p => p.2) = best := by
  have hnone : (l.filter fun p => !([((0 : Nat), cands)].any fun q => q.1 == p.1)).filter (fun p => p.1 == 0) = [] := by
    rw [List.filter_eq_nil_iff]
    intro p hp hzero
    obtain ⟨-, hkept⟩ := List.mem_filter.mp hp
    rw [List.any_cons, List.any_nil, eq_of_beq hzero] at hkept
    cases hkept
  have hall : (best.map fun p => ((0 : Nat), p)).filter (fun p => p.1 == 0) = best.map fun p => (0, p) :=
    List.filter_eq_self.mpr fun p hp => by
      obtain ⟨q, -, rfl⟩ := List.mem_map.mp hp
      rfl
  rw [List.filter_append, hnone, hall, List.nil_append, List.map_map]
  exact List.map_id _

theorem topkSlice_list {s : State} {e : Nat} (h : (s.ember e).candidates = 0) (summit : Nat) (c : BitVec 64) (w : BitVec 128) :
    ((topkSlice summit c s e w).ember e).list 0 = topMerge (min 64 (fld (eParam w) 6 0)) (bit (eParam w) 7) ((s.ember e).list 0)
      (accCandidates s summit w (s.ember e)) := by
  have hlists : topCandidates s summit c w (s.ember e) = [(0, accCandidates s summit w (s.ember e))] := if_pos h
  rw [topkSlice, ember_onEmber_same]
  simp only [Ember.list, hlists, List.map_cons, List.map_nil, List.flatten_cons, List.flatten_nil, List.append_nil]
  exact list_replaced _ _ _

/-! ### The end of a run -/

theorem list_growBudget (s : State) (e cycles n : Nat) : ((growBudget s e cycles).ember e).list n = (s.ember e).list n := by
  rw [growBudget, ember_onEmber_same]
  rfl

theorem listed_of_list {x : Ember} {n : Nat} (h : x.list n ≠ []) : n ∈ x.topk.map (·.1) := by
  obtain ⟨q, hq⟩ := List.exists_mem_of_ne_nil _ h
  obtain ⟨p, hp, -⟩ := List.mem_map.mp hq
  obtain ⟨hmem, hn⟩ := List.mem_filter.mp hp
  exact List.mem_map.mpr ⟨p, hmem, eq_of_beq hn⟩

theorem endSlice_goesOn {c : BitVec 64} (h : cCont c = true) (s : State) (summit : Nat) (scaled : Bool) (used : List (Nat × Nat)) (e : Nat)
    (w : BitVec 128) : ((endSlice s summit c scaled used e w).ember e).list 0 = (s.ember e).list 0 := by
  unfold endSlice
  extract_lets u v
  rw [if_pos h]
  exact list_growBudget ..

theorem endSlice_sendsOut {c : BitVec 64} (h : cCont c = false) (s : State) (summit : Nat) (scaled : Bool) (used : List (Nat × Nat))
    (e : Nat) (w : BitVec 128) : ((endSlice s summit c scaled used e w).ember e).topk = [] ∧ ((s.ember e).list 0 ≠ [] →
      ∃ m ∈ (endSlice s summit c scaled used e w).hrt.emitted, m.ember = e ∧ m.base = 0 ∧ m.pairs = (s.ember e).list 0) := by
  unfold endSlice
  extract_lets u v
  rw [if_neg (by rw [h]; decide)]
  have hlist : (v.ember e).list 0 = (s.ember e).list 0 := list_growBudget ..
  clear_value v
  refine ⟨?_, fun hsome => ?_⟩
  · exact congrArg Ember.topk (ember_onEmber_same v e fun x => { x with topk := [], scanned := 0, candidates := 0 })
  · rw [← hlist] at hsome ⊢
    exact ⟨_, List.mem_append_right _ (List.mem_map.mpr ⟨0, mem_dedup.mpr (listed_of_list hsome), rfl⟩), rfl, rfl, rfl⟩

theorem topkLocal_keepsBest {s : State} {summit : Nat} {c : BitVec 64} {x : Ember} {w : BitVec 128} (h : OneSlice s summit 6 c x w)
    (hnone : (x.enter (eTenant w)).candidates = 0) (reqs : List Origin) {best : List TopEntry}
    (hbest : best = topMerge (min 64 (fld (eParam w) 6 0)) (bit (eParam w) 7) ((x.enter (eTenant w)).list 0)
      (accCandidates s summit w (x.enter (eTenant w)))) :
    ∃ t, exec (.topkLocal summit ⟨c, reqs⟩) s = .next t ∧ StoresNothing s t ∧
      (cCont c = true → (t.ember x.number).list 0 = best) ∧
      (cCont c = false → (t.ember x.number).topk = [] ∧
        (best ≠ [] → ∃ e ∈ t.hrt.emitted, e.ember = x.number ∧ e.base = 0 ∧ e.pairs = best)) := by
  obtain ⟨-, -, -, hember, -⟩ := id h
  have hentered := ember_enteredSlice hember summit c [] [] w
  have hlist := topkSlice_list (s := enteredSlice s summit c [] [] x w) (e := x.number) (by rw [hentered]; exact hnone) summit c w
  rw [hentered] at hlist
  have hbest' := hlist.trans hbest.symm
  have hends := sliceEnds_endSlice (topkSlice summit c (enteredSlice s summit c [] [] x w) x.number w) summit c false [] x.number w
  have hslice : StoresNothing s (topkSlice summit c (enteredSlice s summit c [] [] x w) x.number w) := ⟨rfl, rfl, rfl, rfl, rfl, rfl⟩
  refine ⟨_, congrArg Host.Outcome.next (runCommand_oneSlice h [] [] reqs false (fun _ => []) (topkSlice summit c)), StoresNothing.trans hslice (storesNothing_of_others hends.others hends.mem),
    fun hcont => ?_, fun hcont => ?_⟩
  · rw [endSlice_goesOn hcont, hbest']
  · rw [← hbest']
    exact endSlice_sendsOut hcont ..

/-! ### IDLE -/

theorem idle_storesNothing {s : State} {summit : Nat} {c : BitVec 64} (reqs : List Origin) (hissues : issues s summit 0 c = true)
    (hnone : addressed s summit c = []) :
    ∃ t, exec (.idle summit ⟨c, reqs⟩) s = .next t ∧ StoresNothing s t ∧ t.hrt.embers = s.hrt.embers ∧ t.hrt.emitted = [] := by
  have hfilled : addressed (fillHalf s summit (cHalf c) [] []) summit c = [] := hnone
  have hnext : exec (.idle summit ⟨c, reqs⟩) s =
      .next (settleRun ((fillHalf s summit (cHalf c) [] []).onHrt fun h => { h with emitted := [] }) summit c false) := by
    rw [exec_idle, execIdle]
    simp only [runCommand, hissues, hfilled, checkSlices, List.foldl_nil, List.map_nil, List.any_nil, Bool.not_true,
      Bool.false_eq_true, if_false]
    exact congrArg (fun u => Host.Outcome.next (settleRun u summit c false)) (ite_self _)
  exact ⟨_, hnext, ⟨rfl, rfl, rfl, rfl, rfl, rfl⟩, rfl, rfl⟩

/-! ### Slices that are skipped -/

theorem storesNothing_skipSlice (s : State) (e tenant : Nat) : StoresNothing s (skipSlice s e tenant .tag) :=
  ⟨rfl, rfl, rfl, rfl, rfl, rfl⟩

theorem skipSlice_isolates (s : State) (e tenant : Nat) :
    (skipSlice s e tenant .tag).hrt.mem = s.hrt.mem ∧ (skipSlice s e tenant .tag).hrt.embers = s.hrt.embers ∧
      (skipSlice s e tenant .tag).tie = s.tie ∧ (skipSlice s e tenant .tag).ses = s.ses ∧
      (skipSlice s e tenant .tag).fbx.isoSeen = true ∧ (skipSlice s e tenant .tag).fbx.isoCause = 1 ∧
      (skipSlice s e tenant .tag).fbx.isoTenant = tenant ∧
      (skipSlice s e tenant .tag).fbx.tagSkips = min 0xFFFF (s.fbx.tagSkips + 1) ∧
      (skipSlice s e tenant .tag).dgn.sliceSkips = min 0xFFFF (s.dgn.sliceSkips + 1) :=
  ⟨rfl, rfl, rfl, rfl, rfl, rfl, rfl, Nat.min_comm _ _, Nat.min_comm _ _⟩

/-- A command whose one slice is skipped on a frame tag. -/
theorem runCommand_skipped {s : State} {summit op : Nat} {c : BitVec 64} {x : Ember} {w : BitVec 128} (hissues : issues s summit op c = true)
    (haddressed : addressed s summit c = [(x, w)]) (hskip : skipCause s op x w = some .tag) (acts : List Byte)
    (scales : List (BitVec 32)) (reqs : List Origin) (scaled : Bool) (used : BitVec 128 → List (Nat × Nat))
    (body : State → Nat → BitVec 128 → State) :
    runCommand s summit op c acts scales reqs scaled used body =
      settleRun ((failRequests (skipSlice (fillHalf s summit (cHalf c) acts scales) x.number (eTenant w) .tag) reqs).onHrt fun h =>
        { h with emitted := [] }) summit c false := by
  have hfilled : addressed (fillHalf s summit (cHalf c) acts scales) summit c = [(x, w)] := haddressed
  have hchecked : skipCause (fillHalf s summit (cHalf c) acts scales) op x w = some .tag := hskip
  simp only [runCommand, hissues, hfilled, checkSlices, hchecked, List.foldl_cons, List.foldl_nil, List.map_nil, List.any_nil,
    Bool.not_true, Bool.false_eq_true, if_false]
  exact congrArg (fun u => settleRun u summit c false) (ite_self _)

/-- A running descriptor of no session, batch or query completes with its failure. -/
theorem failDescriptor_alone {s : State} {d : InFlight} (hrunning : d.phase = .running) (hslot : slotOf s d = none)
    (hembed : d.embed = none) (hquery : s.query d.origin = none) (st : Status) : failDescriptor s d st = complete s d.origin [st] 0 := by
  simp only [failDescriptor, hrunning, endInFlight, hembed, hquery, hslot]
  rfl

theorem failRequests_one {s : State} {o : Origin} {d : InFlight} (hd : s.descriptor o = some d) (hrunning : d.phase = .running)
    (hslot : slotOf s d = none) (hembed : d.embed = none) (hquery : s.query o = none) :
    failRequests s [o] = complete s o [.hardwareFault] 0 := by
  obtain rfl := (descriptor_some hd).2
  simp only [failRequests, List.foldl_cons, List.foldl_nil, hd]
  exact failDescriptor_alone hrunning hslot hembed hquery _

/-- Settles O41: the end of a run reads the list that the slice has merged, and a skipped slice leaves an isolation event only. -/
theorem topkIdleAndSkips : Obligations.TopkIdleAndSkips := by
  unfold Obligations.TopkIdleAndSkips
  refine ⟨fun s summit c reqs x w best h hnone hbest => topkLocal_keepsBest h hnone reqs hbest,
    fun s summit c reqs hissues hnone => idle_storesNothing reqs hissues hnone, ?_, ?_⟩
  · intro s summit c acts scales errs x w hissues haddressed hskip
    have hnext := runCommand_skipped hissues haddressed hskip acts scales [] true (matvecUsed c) (matvecSlice summit c errs)
    obtain ⟨hmem, hembers, htie, hses, hseen, hcause, htenant, htags, hskips⟩ :=
      skipSlice_isolates (fillHalf s summit (cHalf c) acts scales) x.number (eTenant w)
    rw [failRequests, List.foldl_nil] at hnext
    generalize skipSlice (fillHalf s summit (cHalf c) acts scales) x.number (eTenant w) .tag = u at *
    exact ⟨_, congrArg Host.Outcome.next hnext, hmem, hembers, htie, hses, hseen, hcause, htenant, htags, hskips⟩
  · intro s summit c acts scales errs x w o d hissues haddressed hskip hd hrunning hslot hembed hquery
    have hfails := failRequests_one (s := skipSlice (fillHalf s summit (cHalf c) acts scales) x.number (eTenant w) .tag) hd hrunning hslot
      hembed hquery
    have hnext := runCommand_skipped hissues haddressed hskip acts scales [o] true (matvecUsed c) (matvecSlice summit c errs)
    rw [hfails] at hnext
    have hskipped : StoresNothing s (skipSlice (fillHalf s summit (cHalf c) acts scales) x.number (eTenant w) .tag) :=
      StoresNothing.trans ⟨rfl, rfl, rfl, rfl, rfl, rfl⟩ (storesNothing_skipSlice (fillHalf s summit (cHalf c) acts scales) ..)
    generalize skipSlice (fillHalf s summit (cHalf c) acts scales) x.number (eTenant w) .tag = u at hnext hskipped
    obtain ⟨hmem, htie, hses, -, -, -⟩ := hskipped
    have hquiet := quiet_complete u o [.hardwareFault] 0
    have hmem' := (congrArg Hearth.mem (quiet_hrt hquiet)).trans hmem
    have htie' := (quiet_tie hquiet).trans htie
    have hses' := (quiet_ses hquiet).trans hses
    have hgone := descriptor_complete u o [.hardwareFault] 0
    generalize complete u o [.hardwareFault] 0 = z at hnext hmem' htie' hses' hgone
    exact ⟨_, congrArg Host.Outcome.next hnext, hgone, hmem', htie', hses'⟩

end Sys2Proof.Machine

end

section
/-!
SUPPORT. KVWRITE, SUMMARY, COPYROW and CLEAR (R155, R167, R205, R216, Table 7.6).
-/

namespace Sys2Proof.Machine

/-! ### What a store of an ember leaves -/

theorem regionsOnly_beforeEmberWrite (s : State) (frames : List Nat) : RegionsOnly s (beforeEmberWrite s frames) := by
  refine RegionsOnly.foldl (fun u n => ?_) frames s
  split
  · exact regionsOnly_keepSealed ..
  · exact .refl _

theorem regionsOnly_afterEmberWrite (s : State) (frames : List Nat) : RegionsOnly s (afterEmberWrite s frames) := by
  refine RegionsOnly.foldl (fun u n => ?_) frames s
  split
  · exact (regionsOnly_onRegion ..).trans (regionsOnly_digestPage ..)
  · exact .refl _

/-- An ember has stored: the memory is the given one, and beside the hearth only regions have changed. -/
structure Stores (s t : State) (m : List Host.Cell) : Prop where
  others : { t with hrt := s.hrt, rdg := s.rdg } = s
  mem : t.hrt.mem = m

theorem RegionsOnly.stores {s t : State} (h : RegionsOnly s t) : Stores s t s.hrt.mem := by
  obtain ⟨rs, rfl⟩ := h
  exact ⟨rfl, rfl⟩

theorem Stores.trans {s t u : State} {m n : List Host.Cell} (h : Stores s t m) (k : Stores t u n) : Stores s u n :=
  ⟨(congrArg (fun v : State => { v with hrt := s.hrt, rdg := s.rdg }) k.others).trans h.others, k.mem⟩

theorem stores_emberStore (s : State) (frames : List Nat) (f : List Host.Cell → List Host.Cell) :
    Stores s (emberStore s frames f) (f s.hrt.mem) := by
  unfold emberStore
  extract_lets l
  have hbefore := (regionsOnly_beforeEmberWrite s l).stores
  rw [← hbefore.mem]
  have hwrite : Stores (beforeEmberWrite s l) ((beforeEmberWrite s l).onHrt fun h => { h with mem := f h.mem })
      (f (beforeEmberWrite s l).hrt.mem) := ⟨rfl, rfl⟩
  exact (hbefore.trans hwrite).trans (regionsOnly_afterEmberWrite _ l).stores

theorem Stores.end {s t u : State} {m : List Host.Cell} (h : Stores s t m) (k : SliceEnds t u) : Stores s u m :=
  ⟨(congrArg (fun v : State => { v with hrt := s.hrt, rdg := s.rdg }) k.others).trans h.others, k.mem.trans h.mem⟩

theorem stores_enteredSlice (s : State) (summit : Nat) (c : BitVec 64) (acts : List Byte) (scales : List (BitVec 32)) (x : Ember)
    (w : BitVec 128) : Stores s (enteredSlice s summit c acts scales x w) s.hrt.mem := ⟨rfl, rfl⟩

/-- A command of one slice, from what the slice stores. -/
theorem stores_runCommand {s : State} {summit op : Nat} {c : BitVec 64} {x : Ember} {w : BitVec 128} (h : OneSlice s summit op c x w)
    {acts : List Byte} (reqs : List Origin) {body : State → Nat → BitVec 128 → State} {m : List Host.Cell}
    (hbody : Stores (enteredSlice s summit c acts [] x w) (body (enteredSlice s summit c acts [] x w) x.number w) m) :
    Stores s (runCommand s summit op c acts [] reqs false (fun _ => []) body) m := by
  rw [runCommand_oneSlice h]
  exact ((stores_enteredSlice ..).trans hbody).end (sliceEnds_endSlice ..)

theorem Stores.ses {s t : State} {m : List Host.Cell} (h : Stores s t m) : t.ses = s.ses := by
  have hsame := congrArg State.ses h.others
  exact hsame

theorem Stores.tie {s t : State} {m : List Host.Cell} (h : Stores s t m) : t.tie = s.tie := by
  have hsame := congrArg State.tie h.others
  exact hsame

theorem Stores.dgn {s t : State} {m : List Host.Cell} (h : Stores s t m) : t.dgn = s.dgn := by
  have hsame := congrArg State.dgn h.others
  exact hsame

/-! ### KVWRITE -/

/-- The bytes of the half that a KVWRITE writes. -/
def kvBytes (s : State) (summit : Nat) (c : BitVec 64) (w : BitVec 128) : List Byte :=
  (List.range (kvwriteBytes w)).map fun k => halfByte s summit (cHalf c) (256 * eSeq w + 32 * eWindow w + k)

theorem kvBytes_length (s : State) (summit : Nat) (c : BitVec 64) (w : BitVec 128) : (kvBytes s summit c w).length = kvwriteBytes w := by
  rw [kvBytes, List.length_map, List.length_range]

theorem getD_map_range (f : Nat → Byte) {n k : Nat} (h : k < n) : ((List.range n).map f).getD k 0 = f k := by
  rw [List.getD_eq_getElem?_getD, List.getElem?_map, List.getElem?_range h]
  rfl

theorem kvBytes_getD (s : State) (summit : Nat) (c : BitVec 64) (w : BitVec 128) {k : Nat} (h : k < kvwriteBytes w) :
    (kvBytes s summit c w).getD k 0 = halfByte s summit (cHalf c) (256 * eSeq w + 32 * eWindow w + k) := by
  rw [kvBytes, getD_map_range _ h]

theorem kvwriteSlice_stores {s : State} (h : s.dgn.armed = false) (summit : Nat) (c : BitVec 64) (e : Nat) (w : BitVec 128) :
    Stores s (kvwriteSlice summit c [] s e w)
      (memWriteAll s.hrt.mem (rowAddr e (eRow w) + 32 * eCol w) (kvBytes s summit c w)) := by
  simp only [kvwriteSlice, List.filter_nil, readRows_clean h, Bool.not_true, Bool.false_eq_true, if_false]
  exact stores_emberStore ..

/-- Bytes written at an address: those read back, all others stand. -/
theorem memRead_written {m : List Host.Cell} (h : Memory.wf m = true) (a : Nat) (bs : List Byte) :
    (∀ k, k < bs.length → memRead (memWriteAll m a bs) (a + k) = bs.getD k 0) ∧
      ∀ b, (b < a ∨ a + bs.length ≤ b) → memRead (memWriteAll m a bs) b = memRead m b := by
  refine ⟨fun k hk => ?_, fun b hb => ?_⟩
  · rw [memRead_memWriteAll _ _ _ _ h, if_pos (by omega), Nat.add_sub_cancel_left]
  · rw [memRead_memWriteAll _ _ _ _ h, if_neg (by omega)]

theorem kvwrite_writes {s : State} {summit n dest : Nat} {c : BitVec 64} {x : Ember} {w : BitVec 128} (h : OneSlice s summit 4 c x w)
    (acts : List Byte) (saturated : Nat) (reqs : List Origin) (hwf : Memory.wf s.hrt.mem = true) (hn : n = kvwriteBytes w)
    (hdest : dest = rowAddr x.number (eRow w) + 32 * eCol w) :
    ∃ t, exec (.kvwrite summit ⟨c, reqs⟩ acts saturated []) s = .next t ∧ t.ses = s.ses ∧ t.tie = s.tie ∧
      t.dgn.fp8Sat = min 0xFFFFFFFF (s.dgn.fp8Sat + saturated) ∧
      (∀ k, k < n → memRead t.hrt.mem (dest + k) =
        halfByte (fillHalf s summit (cHalf c) acts []) summit (cHalf c) (256 * eSeq w + 32 * eWindow w + k)) ∧
      ∀ a, (a < dest ∨ dest + n ≤ a) → memRead t.hrt.mem a = memRead s.hrt.mem a := by
  subst hn hdest
  obtain ⟨hissues, -, -, -, harmed⟩ := id h
  have hslice := kvwriteSlice_stores (s := enteredSlice s summit c acts [] x w) harmed summit c x.number w
  have hstores := stores_runCommand h reqs (body := kvwriteSlice summit c []) hslice
  have hnext : exec (.kvwrite summit ⟨c, reqs⟩ acts saturated []) s = .next
      ((runCommand s summit 4 c acts [] reqs false (fun _ => []) (kvwriteSlice summit c [])).onDgn fun d =>
        { d with fp8Sat := sat 32 (d.fp8Sat + saturated) }) := by
    rw [exec_kvwrite, execKvwrite]
    exact congrArg Host.Outcome.next (if_pos hissues)
  generalize runCommand s summit 4 c acts [] reqs false (fun _ => []) (kvwriteSlice summit c []) = t at hstores hnext
  obtain ⟨hwritten, hothers⟩ := memRead_written hwf (rowAddr x.number (eRow w) + 32 * eCol w)
    (kvBytes (enteredSlice s summit c acts [] x w) summit c w)
  rw [kvBytes_length] at hwritten hothers
  have hsat : sat 32 (t.dgn.fp8Sat + saturated) = min 0xFFFFFFFF (s.dgn.fp8Sat + saturated) := by
    rw [hstores.dgn]
    exact Nat.min_comm _ _
  refine ⟨_, hnext, hstores.ses, hstores.tie, hsat, fun k hk => ?_, fun a ha => ?_⟩
  · exact (congrArg (memRead · _) hstores.mem).trans ((hwritten k hk).trans (kvBytes_getD _ summit c w hk))
  · exact (congrArg (memRead · a) hstores.mem).trans (hothers a ha)

/-! ### SUMMARY -/

theorem summaryBytes_length (m : List Host.Cell) (key d : Nat) : (summaryBytes m key d).length = 2 * d := by
  simp only [summaryBytes, List.length_append, List.length_map, List.length_range]
  omega

theorem summarySlice_stores {s : State} (h : s.dgn.armed = false) (e : Nat) (w : BitVec 128) :
    Stores s (summarySlice [] s e w) (memWriteAll s.hrt.mem
      (rowAddr e (fld (eParam w) 22 9) + regionAt s e w * (2 * fld (eParam w) 8 0))
      (summaryBytes s.hrt.mem (rowAddr e (eRow w) + 32 * eCol w) (fld (eParam w) 8 0))) := by
  simp only [summarySlice, readRows_clean h, Bool.not_true, Bool.false_eq_true, if_false]
  exact stores_emberStore ..

theorem summary_writes {s : State} {summit d dest : Nat} {c : BitVec 64} {x : Ember} {w : BitVec 128} (h : OneSlice s summit 5 c x w)
    (reqs : List Origin) (hwf : Memory.wf s.hrt.mem = true) (hd : d = fld (eParam w) 8 0)
    (hdest : dest = rowAddr x.number (fld (eParam w) 22 9) + regionAt s x.number w * (2 * d)) :
    ∃ t, exec (.summary summit ⟨c, reqs⟩ []) s = .next t ∧ t.ses = s.ses ∧ t.tie = s.tie ∧
      memReadAll t.hrt.mem dest (2 * d) = summaryBytes s.hrt.mem (rowAddr x.number (eRow w) + 32 * eCol w) d ∧
      ∀ a, (a < dest ∨ dest + 2 * d ≤ a) → memRead t.hrt.mem a = memRead s.hrt.mem a := by
  subst hd hdest
  obtain ⟨-, -, -, -, harmed⟩ := id h
  have hslice := summarySlice_stores (s := enteredSlice s summit c [] [] x w) harmed x.number w
  have hregion : regionAt (enteredSlice s summit c [] [] x w) x.number w = regionAt s x.number w := rfl
  rw [hregion] at hslice
  have hstores := stores_runCommand h reqs (body := summarySlice []) hslice
  have hnext : exec (.summary summit ⟨c, reqs⟩ []) s = .next (runCommand s summit 5 c [] [] reqs false (fun _ => []) (summarySlice [])) := rfl
  generalize runCommand s summit 5 c [] [] reqs false (fun _ => []) (summarySlice []) = t at hstores hnext
  obtain ⟨-, hothers⟩ := memRead_written hwf (rowAddr x.number (fld (eParam w) 22 9) + regionAt s x.number w * (2 * fld (eParam w) 8 0))
    (summaryBytes s.hrt.mem (rowAddr x.number (eRow w) + 32 * eCol w) (fld (eParam w) 8 0))
  have hread := memReadAll_memWriteAll (rowAddr x.number (fld (eParam w) 22 9) + regionAt s x.number w * (2 * fld (eParam w) 8 0))
    (summaryBytes s.hrt.mem (rowAddr x.number (eRow w) + 32 * eCol w) (fld (eParam w) 8 0)) hwf
  rw [summaryBytes_length] at hothers hread
  exact ⟨t, hnext, hstores.ses, hstores.tie, (congrArg (memReadAll · _ _) hstores.mem).trans hread,
    fun a ha => (congrArg (memRead · a) hstores.mem).trans (hothers a ha)⟩

/-! ### COPYROW -/

/-- A row copied to another. -/
def copyRow (e : Nat) (m : List Host.Cell) (p : Nat × Nat) : List Host.Cell :=
  memWriteAll (memZero m (rowAddr e p.2) 2048) (rowAddr e p.2) (memReadAll m (rowAddr e p.1) 2048)

theorem copyRow_wf {m : List Host.Cell} (h : Memory.wf m = true) (e : Nat) (p : Nat × Nat) : Memory.wf (copyRow e m p) = true :=
  memWriteAll_wf _ _ _ (memZero_wf _ _ _ h)

theorem memRead_copyRow {m : List Host.Cell} (h : Memory.wf m = true) (e a d : Nat) :
    (∀ k, k < 2048 → memRead (copyRow e m (a, d)) (rowAddr e d + k) = memRead m (rowAddr e a + k)) ∧
      ∀ b, (b < rowAddr e d ∨ rowAddr e d + 2048 ≤ b) → memRead (copyRow e m (a, d)) b = memRead m b := by
  obtain ⟨hwritten, hothers⟩ := memRead_written (memZero_wf m (rowAddr e d) 2048 h) (rowAddr e d) (memReadAll m (rowAddr e a) 2048)
  rw [memReadAll_length] at hwritten hothers
  refine ⟨fun k hk => (hwritten k hk).trans ?_, fun b hb => (hothers b hb).trans ?_⟩
  · rw [memReadAll_eq_map, getD_map_range _ hk]
  · rw [memRead_memZero _ _ _ _ h, if_neg (by omega)]

theorem rowAddr_add (e r i : Nat) : rowAddr e (r + i) = rowAddr e r + 2048 * i := by
  unfold rowAddr
  omega

/-- Rows copied one by one, in row order. -/
def copyRows (e a d n : Nat) (m : List Host.Cell) : List Host.Cell := ((upFrom a n).zip (upFrom d n)).foldl (copyRow e) m

theorem copyRows_succ (e a d n : Nat) (m : List Host.Cell) :
    copyRows e a d (n + 1) m = copyRows e (a + 1) (d + 1) n (copyRow e m (a, d)) := by
  rw [copyRows, upFrom, upFrom, List.zip_cons_cons, List.foldl_cons, copyRows]

/-- A byte outside of the rows copied to stands. -/
theorem memRead_copyRows_other {m : List Host.Cell} (h : Memory.wf m = true) (e a d n : Nat) {b : Nat}
    (hb : b < rowAddr e d ∨ rowAddr e (d + n) ≤ b) : memRead (copyRows e a d n m) b = memRead m b := by
  induction n generalizing a d m with
  | zero => rfl
  | succ n ih =>
    obtain ⟨-, hothers⟩ := memRead_copyRow h e a d
    have hfirst : b < rowAddr e d ∨ rowAddr e d + 2048 ≤ b := by
      rw [rowAddr_add, Nat.mul_succ, ← Nat.add_assoc] at hb
      generalize rowAddr e d = z at hb ⊢
      omega
    have hlater : b < rowAddr e (d + 1) ∨ rowAddr e (d + 1 + n) ≤ b := by
      clear hfirst
      unfold rowAddr at hb ⊢
      omega
    have hrest := ih (copyRow_wf h e (a, d)) (a + 1) (d + 1) hlater
    have hone := hothers b hfirst
    exact (congrArg (memRead · b) (copyRows_succ e a d n m)).trans (hrest.trans hone)

/-- Rows copied forward, or to rows beyond them, keep their bytes. -/
theorem memRead_copyRows {m : List Host.Cell} (h : Memory.wf m = true) (e a d n : Nat) (hd : d ≤ a ∨ a + n ≤ d) {i k : Nat} (hi : i < n)
    (hk : k < 2048) : memRead (copyRows e a d n m) (rowAddr e (d + i) + k) = memRead m (rowAddr e (a + i) + k) := by
  induction n generalizing a d m i with
  | zero => cases hi
  | succ n ih =>
    obtain ⟨hcopied, hothers⟩ := memRead_copyRow h e a d
    rw [copyRows_succ]
    cases i with
    | zero =>
      rw [memRead_copyRows_other (copyRow_wf h e (a, d)) e (a + 1) (d + 1) n (by rw [rowAddr_add, rowAddr_add, rowAddr_add]; omega)]
      exact hcopied k hk
    | succ i =>
      rw [Nat.add_comm i, ← Nat.add_assoc, ← Nat.add_assoc, ih (copyRow_wf h e (a, d)) (a + 1) (d + 1) (by omega) (by omega)]
      refine hothers _ ?_
      unfold rowAddr
      omega

theorem copySlice_stores {s : State} (h : s.dgn.armed = false) (e : Nat) {w : BitVec 128} (hop : eOp w = 8) :
    Stores s (copySlice [] s e w) (copyRows e (eRow w) (fld (eParam w) 13 0) (eRows w) s.hrt.mem) := by
  have hdest : destRows w = upFrom (fld (eParam w) 13 0) (eRows w) := by simp [destRows, hop]
  simp only [copySlice, readRows_clean h, Bool.not_true, Bool.false_eq_true, if_false, sliceRows, hdest]
  exact stores_emberStore ..

theorem copyrow_copies {s : State} {summit d : Nat} {c : BitVec 64} {x : Ember} {w : BitVec 128} (h : OneSlice s summit 8 c x w)
    (reqs : List Origin) (hwf : Memory.wf s.hrt.mem = true) (hd : d = fld (eParam w) 13 0) :
    ∃ t, exec (.copyrow summit (⟨c, reqs⟩, [])) s = .next t ∧ t.ses = s.ses ∧ t.tie = s.tie ∧
      ((d ≤ eRow w ∨ eRow w + eRows w ≤ d) → ∀ i k, i < eRows w → k < 2048 →
        memRead t.hrt.mem (rowAddr x.number (d + i) + k) = memRead s.hrt.mem (rowAddr x.number (eRow w + i) + k)) ∧
      ∀ a, (a < rowAddr x.number d ∨ rowAddr x.number (d + eRows w) ≤ a) → memRead t.hrt.mem a = memRead s.hrt.mem a := by
  subst hd
  obtain ⟨-, -, -, -, harmed⟩ := id h
  have hslice := copySlice_stores (s := enteredSlice s summit c [] [] x w) harmed x.number (eOp_of_oneSlice h)
  have hstores := stores_runCommand h reqs (body := copySlice []) hslice
  have hnext : exec (.copyrow summit (⟨c, reqs⟩, [])) s =
      .next (runCommand s summit 8 c [] [] reqs false (fun _ => []) (copySlice [])) := rfl
  generalize runCommand s summit 8 c [] [] reqs false (fun _ => []) (copySlice []) = t at hstores hnext
  exact ⟨t, hnext, hstores.ses, hstores.tie,
    fun happart i k hi hk => (congrArg (memRead · _) hstores.mem).trans (memRead_copyRows hwf _ _ _ _ happart hi hk),
    fun a ha => (congrArg (memRead · a) hstores.mem).trans (memRead_copyRows_other hwf _ _ _ _ ha)⟩

/-! ### CLEAR -/

/-- Rows zeroed. -/
def clearRows (e r n : Nat) (m : List Host.Cell) : List Host.Cell := (upFrom r n).foldl (fun m r => memZero m (rowAddr e r) 2048) m

theorem memRead_clearRows {m : List Host.Cell} (h : Memory.wf m = true) (e r n a : Nat) : memRead (clearRows e r n m) a =
    if rowAddr e r ≤ a ∧ a < rowAddr e (r + n) then 0 else memRead m a := by
  induction n generalizing r m with
  | zero => exact (if_neg (by rw [Nat.add_zero]; omega)).symm
  | succ n ih =>
    have hstep : clearRows e r (n + 1) m = clearRows e (r + 1) n (memZero m (rowAddr e r) 2048) := by
      rw [clearRows, upFrom, List.foldl_cons, clearRows]
    have hzero := memRead_memZero m (rowAddr e r) 2048 a h
    have hrest := ih (memZero_wf m (rowAddr e r) 2048 h) (r + 1)
    rw [hstep, hrest, hzero, Nat.add_right_comm, Nat.add_assoc r, rowAddr_add e r 1, rowAddr_add e r (n + 1), Nat.mul_succ 2048 n, ← Nat.add_assoc (rowAddr e r)]
    clear hrest hzero hstep
    generalize rowAddr e r = z
    by_cases hfirst : z ≤ a ∧ a < z + 2048
    · rw [if_neg (by omega), if_pos hfirst, if_pos (by omega)]
      rfl
    · rw [if_neg hfirst]
      exact ite_congr (propext (by omega)) (fun _ => rfl) (fun _ => rfl)

theorem length_upFrom (r n : Nat) : (upFrom r n).length = n := by
  induction n generalizing r with
  | zero => rfl
  | succ n ih => exact congrArg (· + 1) (ih _)

/-- A slice of CLEAR that verifies nothing wrong zeroes its rows; what it verified leaves the list of frames to clear. -/
theorem clearSlice_clears {s : State} {summit : Nat} (hbarrier : atBarrier s summit = true) {e : Nat} (hbusy : bankBusy s e = false)
    (slack : Nat) (w : BitVec 128) : ∃ t, Stores s t (clearRows e (eRow w) (eRows w) s.hrt.mem) ∧
      (clearSlice summit slack [] s e w = t ∨ clearSlice summit slack [] s e w = verifyRows t e (sliceRows w)) := by
  have hspend : ∀ each, spendClear s e (eRows w) each slack = (s, eRows w) := fun each => if_pos (by rw [hbusy]; rfl)
  have hall : (sliceRows w).take (eRows w) = sliceRows w := List.take_of_length_le (Nat.le_of_eq (length_upFrom ..))
  refine ⟨zeroRows s e (sliceRows w), stores_emberStore .., ?_⟩
  cases hverify : bit (eParam w) 0 with
  | false =>
    left
    simp only [clearSlice, hbarrier, hspend, hall, hverify, Bool.not_true, Bool.not_false, Bool.false_eq_true, if_true, if_false]
  | true =>
    right
    have hkept : (sliceRows w).filter (fun r => !([] : List Nat).contains r) = sliceRows w := List.filter_eq_self.mpr fun _ _ => rfl
    have hgood : ((sliceRows w).filter fun r => ([] : List ReadError).any fun x => x.ember == e && x.row == r) = [] :=
      List.filter_eq_nil_iff.mpr fun _ _ h => nomatch h
    simp only [clearSlice, hbarrier, hspend, hall, hverify, Bool.not_true, Bool.false_eq_true, if_false, hgood, List.foldl_nil, hkept]

theorem bankBusy_entered {s : State} {x : Ember} (h : s.ember x.number = x) (summit : Nat) (c : BitVec 64) (w : BitVec 128) :
    bankBusy (enteredSlice s summit c [] [] x w) x.number = bankBusy s x.number := by
  have htable : (x.enter (eTenant w)).table = x.table := by
    unfold Ember.enter
    split <;> rfl
  simp only [bankBusy, ember_enteredSlice h, htable, h]
  rfl

theorem clear_clears {s : State} {summit : Nat} {c : BitVec 64} {x : Ember} {w : BitVec 128} (h : OneSlice s summit 7 c x w)
    (slack : Nat) (reqs : List Origin) (hwf : Memory.wf s.hrt.mem = true) (hbusy : bankBusy s x.number = false)
    (hbarrier : atBarrier s summit = true) :
    ∃ t, exec (.clear summit ⟨c, reqs⟩ slack []) s = .next t ∧ t.ses = s.ses ∧ t.fbx = s.fbx ∧
      (∀ a, rowAddr x.number (eRow w) ≤ a → a < rowAddr x.number (eRow w + eRows w) → memRead t.hrt.mem a = 0) ∧
      ∀ a, (a < rowAddr x.number (eRow w) ∨ rowAddr x.number (eRow w + eRows w) ≤ a) →
        memRead t.hrt.mem a = memRead s.hrt.mem a := by
  obtain ⟨-, -, -, hember, -⟩ := id h
  have hrun := runCommand_oneSlice h [] [] reqs false (fun _ => []) (clearSlice summit slack [])
  obtain ⟨u, hstores, hslice⟩ := clearSlice_clears (s := enteredSlice s summit c [] [] x w) (summit := summit) (e := x.number)
    hbarrier (by rw [bankBusy_entered hember, hbusy]) slack w
  have hkeeps : (clearSlice summit slack [] (enteredSlice s summit c [] [] x w) x.number w).ses = s.ses ∧
      (clearSlice summit slack [] (enteredSlice s summit c [] [] x w) x.number w).fbx = s.fbx ∧
      (clearSlice summit slack [] (enteredSlice s summit c [] [] x w) x.number w).hrt.mem =
        clearRows x.number (eRow w) (eRows w) s.hrt.mem := by
    have hses := hstores.ses
    have hfbx := congrArg State.fbx hstores.others
    have hmem := hstores.mem
    rcases hslice with hslice | hslice <;> rw [hslice] <;> exact ⟨hses, hfbx, hmem⟩
  obtain ⟨hses, hfbx, hmem⟩ := hkeeps
  have hends := sliceEnds_endSlice (clearSlice summit slack [] (enteredSlice s summit c [] [] x w) x.number w) summit c false [] x.number w
  have hses' := congrArg State.ses hends.others
  have hfbx' := congrArg State.fbx hends.others
  have hread := fun a => (congrArg (memRead · a) (hends.mem.trans hmem)).trans (memRead_clearRows hwf x.number (eRow w) (eRows w) a)
  refine ⟨_, congrArg Host.Outcome.next hrun, hses'.trans hses, hfbx'.trans hfbx, fun a hlow hhigh => ?_, fun a ha => ?_⟩
  · exact (hread a).trans (if_pos ⟨hlow, hhigh⟩)
  · exact (hread a).trans (if_neg (by omega))

/-- Settles O40: what a slice stores is written at its destination, and the end of the command changes no byte. -/
theorem slicesStoreOnlyTheirDestination : Obligations.SlicesStoreOnlyTheirDestination := by
  unfold Obligations.SlicesStoreOnlyTheirDestination
  exact ⟨fun _ _ _ _ _ acts saturated reqs _ _ h => kvwrite_writes h acts saturated reqs, fun _ _ _ _ _ reqs _ _ h => summary_writes h reqs,
    fun _ _ _ _ reqs _ _ h => copyrow_copies h reqs, fun _ _ slack _ reqs _ _ h => clear_clears h slack reqs⟩

end Sys2Proof.Machine

end

section
/-!
SUPPORT. Masks, drafts, acknowledgements of the twin and tokens of texts (R178, R237, R246, R257, R346).
-/

namespace Sys2Proof.Machine

/-! ### The start of a step changes the reads of sessions only -/

/-- Every session stands but for the key reads planned for its next step. -/
structure ReadsOnly (s t : State) : Prop where
  sessions : ∀ n, (t.session n).map (fun z => { z with reads := [] }) = (s.session n).map (fun z => { z with reads := [] })

theorem ReadsOnly.of_ses {s t : State} (h : t.ses.table = s.ses.table) : ReadsOnly s t := ⟨fun n => by rw [State.session, State.session, h]⟩

theorem ReadsOnly.trans {s t u : State} (h : ReadsOnly s t) (k : ReadsOnly t u) : ReadsOnly s u :=
  ⟨fun n => (k.sessions n).trans (h.sessions n)⟩

theorem readsOnly_beginReads (s : State) (slot n : Nat) : ReadsOnly s (beginReads s slot n) := by
  refine ⟨fun k => ?_⟩
  unfold beginReads
  rcases Decidable.em (k = slot) with rfl | hk
  · rcases hx : s.session k with _ | x
    · rw [State.onSession, hx, hx]
    · rw [session_onSession_same s _ hx, Option.map_some, Option.map_some]
      have hslot : k = x.slot := (session_slot hx).symm
      rw [hslot]
  · rw [session_onSession_other s _ hk]

theorem sendActivation_ses (s : State) (i : Image) (b : Batch) : (sendActivation s i b).ses = s.ses := by
  unfold sendActivation
  split
  · rfl
  · exact sendFrame_ses ..

theorem readsOnly_launchStep (s : State) (id : Nat) : ReadsOnly s (launchStep s id) := by
  unfold launchStep
  split
  · exact .of_ses rfl
  · rename_i b _
    split
    · extract_lets u
      have hreads : ReadsOnly s u := List.foldlRecOn b.columns _ (motive := ReadsOnly s) (.of_ses rfl) fun t ht c _ =>
        ht.trans (readsOnly_beginReads ..)
      refine hreads.trans (.of_ses ?_)
      have hsend := sendActivation_ses (u.onBatch id fun b => { b with drafting := false, leaving := [] }) (u.image b.image) b
      rw [hsend]
      rfl
    · exact .of_ses rfl

theorem queueItems_table (s : State) (n : Nat) (r : Role) (rank tenant : Nat) : (queueItems s n r rank tenant).ses.table = s.ses.table :=
  List.foldlRecOn (List.range n) _ (motive := fun t : State => t.ses.table = s.ses.table) rfl fun _ ht _ _ => ht

/-! ### Drafts -/

/-- A draft of an unmasked session that draws a token joins those planned. -/
theorem draftOne_draws {s : State} {batch : Nat} {d : Draft} {x : Session} {g : Gen} {p : Nat × List (Nat × Nat)}
    (hx : s.session d.slot = some x) (hg : x.gener = some g) (hmask : maskFor x g = none) (hbatch : g.batch = some batch)
    (hplanned : g.drafts.length < g.planned) (hrefilled : g.refilled = true)
    (hdraw : drawDraft x g (sessionImage s x).vocab (draftLogits d.parts) = some p) :
    draftOne s batch d = s.putSession { x with gener := some { g with drafts := g.drafts ++ [p] } } := by
  have hroom : ¬g.planned ≤ g.drafts.length := Nat.not_le.mpr hplanned
  simp only [draftOne, hx, hg, hbatch, hmask, hroom, hrefilled, hdraw, columnDead, Option.isSome_none, ne_eq, not_true_eq_false,
    decide_false, Bool.or_self, Bool.not_true, Bool.false_and, Bool.false_eq_true, if_false]

theorem draftPass_joins {s : State} {batch : Nat} {b : Batch} {d : Draft} {x : Session} {g : Gen} {p : Nat × List (Nat × Nat)}
    (hb : s.batch batch = some b) (hdrafting : b.drafting = true) (hheld : s.pwr.heldNow = false)
    (hx : s.session d.slot = some x) (hg : x.gener = some g) (hmask : maskFor x g = none) (hbatch : g.batch = some batch)
    (hplanned : g.drafts.length < g.planned) (hrefilled : g.refilled = true)
    (hdraw : drawDraft x g (sessionImage s x).vocab (draftLogits d.parts) = some p) :
    ∃ t y, exec (.draftPass batch [d]) s = .next t ∧ t.session d.slot = some y ∧
      { y with reads := x.reads } = { x with gener := some { g with drafts := g.drafts ++ [p] } } ∧ t.hrt = s.hrt ∧
      t.desc = s.desc ∧ ∀ n, n ≠ d.slot →
        (t.session n).map (fun z => { z with reads := [] }) = (s.session n).map (fun z => { z with reads := [] }) := by
  have hone := draftOne_draws hx hg hmask hbatch hplanned hrefilled hdraw
  have hslot : x.slot = d.slot := session_slot hx
  generalize hu : s.putSession { x with gener := some { g with drafts := g.drafts ++ [p] } } = u at hone
  have hux : u.session d.slot = some { x with gener := some { g with drafts := g.drafts ++ [p] } } := by
    rw [← hu, ← hslot]
    exact session_putSession_same s { x with gener := some { g with drafts := g.drafts ++ [p] } }
  have huother : ∀ n, n ≠ d.slot → u.session n = s.session n := fun n hn => by
    rw [← hu]
    exact session_putSession_other s (by rw [← hslot] at hn; exact hn)
  have hnext : exec (.draftPass batch [d]) s = .next (launchStep (queueItems u (heading u .decode) .decode 2 0) batch) := by
    rw [exec_draftPass, execDraftPass, hb]
    simp only [hheld, hdrafting, Option.any_some, Bool.not_true, Bool.or_self, Bool.false_eq_true, if_false, List.foldl_cons,
      List.foldl_nil, hone]
  have hitems := workStands_queueItems u (heading u .decode) .decode 2 0
  have htable := queueItems_table u (heading u .decode) .decode 2 0
  have hstands := hitems.trans (workStands_launchStep _ batch)
  have hreads := (ReadsOnly.of_ses htable).trans (readsOnly_launchStep _ batch)
  generalize launchStep (queueItems u (heading u .decode) .decode 2 0) batch = t at hnext hstands hreads
  have hy := hreads.sessions d.slot
  rw [hux, Option.map_some, Option.map_eq_some_iff] at hy
  obtain ⟨y, hy, hsame⟩ := hy
  have hkey := congrArg (fun z : Session => { z with reads := x.reads }) hsame
  refine ⟨t, y, hnext, hy, hkey, hstands.hrt.trans (by rw [← hu]; rfl), hstands.desc.trans (by rw [← hu]; rfl), fun n hn => ?_⟩
  rw [hreads.sessions n, huother n hn]

/-! ### The last acknowledgement of the twin -/

/-- A session whose last acknowledgement has come and whose waiting records have gone. -/
def settledSession (x : Session) : Session := { x with acks := 0, copied := true, heldRecords := [] }

theorem settledSession_slot {s : State} {slot : Nat} {x : Session} (h : s.session slot = some x) :
    { settledSession x with slot := slot } = settledSession x := by
  have hslot : x.slot = slot := session_slot h
  rw [← hslot]
  rfl

theorem settleAcks_session {s : State} {slot : Nat} {x : Session} (h : s.session slot = some x) (hnone : x.parkWaits = none) :
    (settleAcks s slot).session slot = some (settledSession x) := by
  unfold settleAcks
  extract_lets a b c d
  have hb : b.session slot = some { x with acks := 0, copied := true, slot := slot } := session_onSession_same s _ h
  have hc : c.session slot = some { settledSession x with slot := slot } :=
    (quiet_session (releaseRecords_quiet b slot) slot).trans (session_onSession_same b _ hb)
  rw [settledSession_slot h] at hc
  have hd : d = c := by
    show (match (c.session slot).bind (·.parkWaits) with | some (o, r) => _ | none => c) = c
    rw [hc, Option.bind_some, settledSession, hnone]
  rw [quiet_session (quiet_finishEnded d) slot, hd, hc]

/-- The PARK that has waited for the twin takes effect (R92, R346). -/
theorem settleAcks_parks {s : State} {slot : Nat} {x : Session} {o : Origin} {r : Nat} (h : s.session slot = some x)
    (hwaits : x.parkWaits = some (o, r)) : ∃ y, (settleAcks s slot).session slot = some y ∧ y.state = .parked ∧ y.pages = x.parkPlaced ∧
      y.parkWaits = none ∧ y.acks = 0 ∧ (settleAcks s slot).descriptor o = none := by
  unfold settleAcks
  extract_lets a b c d
  have hb : b.session slot = some { x with acks := 0, copied := true, slot := slot } := session_onSession_same s _ h
  have hc : c.session slot = some { settledSession x with slot := slot } :=
    (quiet_session (releaseRecords_quiet b slot) slot).trans (session_onSession_same b _ hb)
  rw [settledSession_slot h] at hc
  have hd : d = complete ((commitPark c slot x.parkPlaced).onSession slot fun x => { x with parkWaits := none }) o []
      (BitVec.ofNat 64 r) := by
    show (match (c.session slot).bind (·.parkWaits) with | some (o, r) => _ | none => c) = _
    rw [hc, Option.bind_some, settledSession, hwaits]
    rfl
  have hleft := session_onSession_same _ (fun x => { x with parkWaits := none }) (commitPark_session x.parkPlaced hc)
  have hgone := (addsNoDescriptor_finishEnded d).none (o := o) (by rw [hd]; exact descriptor_complete ..)
  rw [quiet_session (quiet_finishEnded d) slot, hd, quiet_session (quiet_complete ..) slot]
  exact ⟨_, hleft, rfl, rfl, rfl, rfl, hd ▸ hgone⟩

theorem execBuddyAcknowledge_last {s : State} {slot : Nat} {x : Session} (hx : s.session slot = some x) (hacks : x.acks = 1) :
    exec (.buddyAcknowledge slot) s = .next (settleAcks s slot) := by
  rw [exec_buddyAcknowledge, execBuddyAcknowledge, hx]
  simp only [hacks, Nat.one_ne_zero, if_false, if_true]

theorem buddyAcknowledge_settles {s : State} {slot : Nat} {x : Session} (hx : s.session slot = some x) (hacks : x.acks = 1) :
    (x.parkWaits = none → ∃ t y, exec (.buddyAcknowledge slot) s = .next t ∧ t.session slot = some y ∧
      y = { x with acks := 0, copied := true, heldRecords := [] } ∧ t.hrt = s.hrt ∧ ∀ n, n ≠ slot → t.session n = s.session n) ∧
    (∀ o r, x.parkWaits = some (o, r) → ∃ t y, exec (.buddyAcknowledge slot) s = .next t ∧ t.session slot = some y ∧
      y.state = .parked ∧ y.pages = x.parkPlaced ∧ y.parkWaits = none ∧ y.acks = 0 ∧ t.descriptor o = none ∧
      ∀ n, n ≠ slot → t.session n = s.session n) := by
  have hkeeps := settleKeeps_settleAcks s slot
  refine ⟨fun hnone => ?_, fun o r hwaits => ?_⟩
  · exact ⟨_, _, execBuddyAcknowledge_last hx hacks, settleAcks_session hx hnone, rfl, hkeeps.hrt, fun n hn => hkeeps.others n hn⟩
  · obtain ⟨y, hy, hstate, hpages, hdone, hzero, hgone⟩ := settleAcks_parks hx hwaits
    exact ⟨_, y, execBuddyAcknowledge_last hx hacks, hy, hstate, hpages, hdone, hzero, hgone, fun n hn => hkeeps.others n hn⟩

/-! ### TOKENISE -/

/-- The tokens of a text join those kept for its descriptor, under the vocabulary and the trust that its command names (R246). -/
theorem tokenise_joins {s : State} {o : Origin} {segment trust tr : Nat} {text : List Byte} {d : InFlight} {v : Vocab}
    (hd : s.descriptor o = some d)
    (hv : (dOpcode d.raw = opAppend ∧ tr = trust ∧ ∃ x : Session, slotOf s d = some x ∧ v = (sessionImage s x).vocab) ∨
      (dOpcode d.raw = opEmbed ∧ tr = 1 ∧ v = (s.image (iSlot (embedImage d.raw))).vocab))
    (hnew : ∀ e ∈ s.knd.tokenised, ¬(e.1 = o ∧ e.2.1 = segment)) :
    exec (.tokenise o segment trust text) s = .next ((unkindle s (.tokens o segment)).onKnd fun k =>
      { k with tokenised := k.tokenised ++ [(o, segment, (tokeniseText v tr text).1)],
               inReplaced := sat 32 (k.inReplaced + (tokeniseText v tr text).2) }) := by
  have hfree : (s.knd.tokenised.any fun t => t.1 == o && t.2.1 == segment) = false := by
    rw [List.any_eq_false]
    intro e he
    simpa using hnew e he
  rw [exec_tokenise, execTokenise, hd]
  rcases hv with ⟨hop, rfl, x, hx, rfl⟩ | ⟨hop, rfl, rfl⟩
  · have hnot : ¬opAppend = opEmbed := by decide
    simp only [hfree, hop, hx, hnot, beq_self_eq_true, Bool.true_or, Bool.not_true, Bool.or_self, Bool.false_eq_true, if_false]
  · simp only [hfree, hop, beq_self_eq_true, Bool.or_true, Bool.not_true, Bool.or_self, Bool.false_eq_true, if_false, if_true]
    rfl

/-- Settles O34: each command rewrites one session or the tokens of one descriptor; the start of a step that follows a draft changes
the reads of sessions only. -/
theorem masksDraftsAcksAndTokensKeepOtherState : Obligations.MasksDraftsAcksAndTokensKeepOtherState := by
  unfold Obligations.MasksDraftsAcksAndTokensKeepOtherState
  refine ⟨?_, fun _ _ _ _ _ _ _ hb hdrafting hheld hx hg hmask hbatch hplanned hrefilled hdraw =>
    draftPass_joins hb hdrafting hheld hx hg hmask hbatch hplanned hrefilled hdraw, ?_, ?_,
    fun _ _ _ hx hacks => buddyAcknowledge_settles hx hacks, ?_⟩
  · intro s slot column x g hx hg
    rw [exec_grammarMask, execGrammarMask, hx]
    simp only [hg]
    by_cases hready : (maskFor x g).isSome = true ∧ column ≤ g.drafts.length ∧ column = x.maskReady
    · rw [if_pos hready, if_pos (by simpa [and_assoc] using hready)]
    · rw [if_neg hready, if_neg (by simpa [and_assoc] using hready)]
  · intro s slot x g hx hg
    rw [exec_draftRefill, execDraftRefill, hx]
    simp only [hg]
    by_cases hfill : g.store = true ∧ g.refilled = false ∧ s.pwr.heldNow = false
    · rw [if_pos hfill, if_pos (by simpa [and_assoc] using hfill)]
    · rw [if_neg hfill, if_neg (by simpa [and_assoc] using hfill)]
  · intro s slot k x hx hacks
    rw [exec_buddyAcknowledge, execBuddyAcknowledge, hx]
    have hone : ¬k + 2 = 1 := by omega
    have hzero : ¬k + 2 = 0 := by omega
    simp only [hacks, hzero, hone, if_false]
    rfl
  · intro s o segment trust tr text d v hd hv hnew
    exact ⟨_, tokenise_joins hd hv hnew, rfl, rfl, rfl⟩

end Sys2Proof.Machine

end

section
/-!
SUPPORT. The close of a step (R49, R177, R178, R346).
-/

namespace Sys2Proof.Machine

/-! ### What the work of a close leaves of the logs and the counts -/

/-- A session's log, and its generation but for its place in a batch and the drafts planned there. -/
def Session.told (x : Session) : List (Nat × Nat) × Option Gen := (x.log, x.gener.map unplannedGen)

/-- No frame is taken, and every session keeps its log and what its generation has counted. -/
structure StepKeeps (s t : State) : Prop where
  takes : TakesNone s t
  told : ∀ n, (t.session n).map Session.told = (s.session n).map Session.told

theorem StepKeeps.refl (s : State) : StepKeeps s s := ⟨.of_tie rfl, fun _ => rfl⟩

theorem StepKeeps.trans {s t u : State} (h : StepKeeps s t) (k : StepKeeps t u) : StepKeeps s u :=
  ⟨h.takes.trans k.takes, fun n => (k.told n).trans (h.told n)⟩

theorem StepKeeps.foldl {α : Type} {f : State → α → State} (h : ∀ s a, StepKeeps s (f s a)) (l : List α) (s : State) :
    StepKeeps s (l.foldl f s) :=
  List.foldlRecOn l f (motive := StepKeeps s) (.refl s) fun t ht a _ => ht.trans (h t a)

theorem StepKeeps.of_ses {s t : State} (hses : t.ses = s.ses) (htie : t.tie = s.tie) : StepKeeps s t :=
  ⟨.of_tie htie, fun n => by rw [session_of_ses hses]⟩

theorem StepKeeps.of_quiet {s t : State} (h : t.quiet = s.quiet) : StepKeeps s t := .of_ses (quiet_ses h) (quiet_tie h)

theorem CoreKeeps.step {s t : State} (h : CoreKeeps s t) (htie : t.tie = s.tie) : StepKeeps s t := by
  refine ⟨.of_tie htie, fun n => ?_⟩
  have hn := congrArg (Option.map Session.told) (h.sessions n)
  rw [Option.map_map, Option.map_map] at hn
  exact hn

theorem CopyKeeps.step {s t : State} (h : CopyKeeps s t) : StepKeeps s t := h.core.step h.tie

theorem WorkStands.step {s t : State} (h : WorkStands s t) : StepKeeps s t := by
  refine ⟨.of_tie h.tie, fun n => ?_⟩
  have hn := congrArg (Option.map fun z : Session => (z.log, z.gener)) (h.sessions n)
  rw [Option.map_map, Option.map_map] at hn
  exact hn

/-- A change of one session beside its log and its generation's counts. -/
theorem stepKeeps_onSession (s : State) (slot : Nat) {f : Session → Session}
    (hf : ∀ x, s.session slot = some x → (f x).told = x.told) : StepKeeps s (s.onSession slot f) := by
  refine ⟨.of_tie (by simp), fun n => ?_⟩
  rcases Decidable.em (n = slot) with rfl | hn
  · rcases hx : s.session n with _ | x
    · rw [State.onSession, hx, hx]
    · rw [session_onSession_same s f hx]
      exact congrArg some (hf x hx)
  · rw [session_onSession_other s f hn]

theorem stepKeeps_putSession {s : State} {x y : Session} (h : s.session x.slot = some y) (hxy : x.told = y.told) :
    StepKeeps s (s.putSession x) := by
  refine ⟨.of_tie rfl, fun n => ?_⟩
  rcases Decidable.em (n = x.slot) with rfl | hn
  · rw [session_putSession_same, h]
    exact congrArg some hxy
  · rw [session_putSession_other s hn]

theorem TakesNone.of_putSession {s t : State} {x : Session} (h : TakesNone (s.putSession x) t) : TakesNone s t := ⟨h.frames⟩

theorem StepKeeps.session_some {s t : State} (h : StepKeeps s t) {n : Nat} {x : Session} {g : Gen} (hx : s.session n = some x)
    (hg : x.gener = some g) : ∃ y k, t.session n = some y ∧ y.gener = some k ∧ y.log = x.log ∧ unplannedGen k = unplannedGen g := by
  have hn := h.told n
  rw [hx, Option.map_some, Option.map_eq_some_iff] at hn
  obtain ⟨y, hy, htold⟩ := hn
  have hlog := congrArg Prod.fst htold
  have hgener := congrArg Prod.snd htold
  simp only [Session.told, hg, Option.map_some, Option.map_eq_some_iff] at hlog hgener
  obtain ⟨k, hk, hsame⟩ := hgener
  exact ⟨y, k, hy, hk, hlog, hsame⟩

/-! ### The commit of a run -/

theorem stepKeeps_copyArmed (s : State) (slot : Nat) : StepKeeps s (copyArmed s slot) := by
  unfold copyArmed
  split
  · exact .refl s
  · rename_i x hx
    split
    · rename_i m _
      split
      · obtain ⟨hses, htie, -, -⟩ := sendRound_keeps s x m true
        have hround : StepKeeps s (sendRound s x m true) := .of_ses hses htie
        have hslot : x.slot = slot := session_slot hx
        exact hround.trans (stepKeeps_putSession (y := x) (by rw [session_of_ses hses]; exact hslot.symm ▸ hx) rfl)
      · exact .refl s
    · exact .refl s

theorem stepKeeps_recordStep (s : State) (x : Session) (step n : Nat) (tokens : List Nat) (logits : List (List (BitVec 32))) :
    StepKeeps s (recordStep s x step n tokens logits) :=
  StepKeeps.foldl (fun _ _ => .of_quiet (quiet_recordFlight ..)) _ s

theorem stepKeeps_commitTokens (s : State) (slot n step dead : Nat) (x : Session) (tokens : List Nat) (logits : List (List (BitVec 32))) :
    StepKeeps s (commitTokens s slot n step dead x tokens logits) := by
  unfold commitTokens
  split
  · exact .refl s
  · have hkv := (coreKeeps_commitKv s slot n dead).step (commitKv_tie ..)
    have hcopies := (hkv.trans (copyKeeps_sendPageCopies _ slot).step).trans (copyKeeps_sendRecordCopy _ slot).step
    exact ((hcopies.trans (stepKeeps_copyArmed ..)).trans (.of_quiet (quiet_countTenant ..))).trans (stepKeeps_recordStep ..)

theorem stepKeeps_recordCompares (s : State) (x : Session) (o : Origin) (cmp : List (List Byte)) :
    StepKeeps s (recordCompares s x o cmp) := by
  unfold recordCompares
  split
  · exact StepKeeps.foldl (fun _ _ => .of_quiet (quiet_writeFlight ..)) _ s
  · exact .refl s

theorem stepKeeps_emitRecord (s : State) (x : Session) (o : Origin) (wait : Bool) (r : FlueRecord) :
    StepKeeps s (emitRecord s x o wait r) := by
  unfold emitRecord
  split
  · split
    · exact stepKeeps_onSession s x.slot fun _ _ => rfl
    · exact .of_quiet (quiet_sendRecord ..)
  · exact .of_quiet (quiet_sendRecord ..)

theorem stepKeeps_noteReplaced (s : State) (slot n step : Nat) : StepKeeps s (noteReplaced s slot n step) := by
  unfold noteReplaced
  split
  · exact .refl s
  · extract_lets u
    have hu : StepKeeps s u := .of_ses rfl rfl
    refine hu.trans ?_
    split
    · rename_i x hx
      split
      · exact .refl u
      · have hslot : x.slot = slot := session_slot hx
        have hput : StepKeeps u (u.putSession { x with streamFlag := true }) := stepKeeps_putSession (y := x) (hslot.symm ▸ hx) rfl
        exact hput.trans (.of_quiet (quiet_sessionEvent ..))
    · exact .refl u

/-- A run that fits in the ring and does not end the generation is committed (R177). -/
theorem commitRun_commits {s : State} {slot : Nat} {x : Session} {g : Gen} {v : Vocab} {r : StepRun} {logits : List (List (BitVec 32))}
    {told : Nat} (hends : r.ends = false) (hlate : lateAt s g = false)
    (hroom : roomFor s g.origin told (stepRecords (sessionHandle s x) (originSeq g.origin) g.step 0 r.tokens
      (detokenise v x.tail r.tokens false).1).length = true) :
    StepKeeps (s.putSession (sessionAfter x g r (detokenise v x.tail r.tokens false).2)) (commitRun s slot x g v r logits told) := by
  rcases hchars : detokenise v x.tail r.tokens false with ⟨chars, tail⟩
  rw [hchars] at hroom
  simp only [commitRun, hends, hlate, hchars, hroom, Bool.or_self, Bool.not_false, Bool.not_true, Bool.and_false, Bool.false_eq_true,
    if_true, if_false]
  refine StepKeeps.trans (t := noteReplaced _ _ _ _) ?_ (.of_ses rfl rfl)
  refine StepKeeps.trans ?_ (stepKeeps_noteReplaced ..)
  refine StepKeeps.trans ?_ (StepKeeps.foldl (fun _ _ => stepKeeps_emitRecord ..) _ _)
  exact (stepKeeps_commitTokens ..).trans (stepKeeps_recordCompares ..)

/-! ### The token boundary -/

theorem stepKeeps_onBatch (s : State) (id : Nat) (f : Batch → Batch) : StepKeeps s (s.onBatch id f) := (workStands_onBatch s id f).step

theorem stepKeeps_endSkips (s : State) (image : Nat) : StepKeeps s (endSkips s image) := by
  refine ⟨.of_tie rfl, fun n => ?_⟩
  unfold endSkips
  rw [session_mapTable s _ (fun x => by split <;> rfl) _ rfl, Option.map_map]
  refine Option.map_congr fun x _ => ?_
  simp only [Function.comp_apply]
  split <;> rfl

theorem stepKeeps_dropEnded (s : State) (id : Nat) : StepKeeps s (dropEnded s id) := by
  unfold dropEnded
  split
  · exact .refl s
  · rename_i b _
    refine StepKeeps.foldl (fun s c => ?_) _ s
    obtain ⟨k, m⟩ := c
    dsimp only
    split
    · exact .refl s
    · rename_i x hx
      have hslot : x.slot = k := session_slot hx
      have hput : StepKeeps s (s.putSession { x with move := x.move.map fun m => { m with skip := m.sitsOut } }) :=
        stepKeeps_putSession (y := x) (by rw [← hslot] at hx; exact hx) rfl
      generalize s.putSession { x with move := x.move.map fun m => { m with skip := m.sitsOut } } = u at hput ⊢
      refine hput.trans ?_
      generalize (match x.gener with | none => true | some g => _ : Bool) = out
      split
      · refine (stepKeeps_onBatch u id _).trans (stepKeeps_onSession _ k fun z _ => ?_)
        refine congrArg (Prod.mk z.log) ?_
        cases z.gener <;> rfl
      · exact stepKeeps_onBatch ..

theorem stepKeeps_closeEmpty (s : State) : StepKeeps s (closeEmpty s) := ⟨.of_tie rfl, fun _ => rfl⟩

theorem stepKeeps_tokenBoundary (s : State) (id : Nat) (before : List Nat) : StepKeeps s (tokenBoundary s id before) := by
  unfold tokenBoundary
  split
  · exact .refl s
  · rename_i b _
    extract_lets u v now left
    have hdrop : StepKeeps s (dropEnded (endSkips s b.image) id) := (stepKeeps_endSkips ..).trans (stepKeeps_dropEnded ..)
    have hplan : StepKeeps s u := (hdrop.trans (workStands_admitColumns ..).step).trans (workStands_planDrafts ..).step
    have hbegin : StepKeeps v (openBatches 128 (beginStep v id left) b.image) :=
      ((workStands_beginStep ..).step).trans (workStands_openBatches ..).step
    have hv : StepKeeps u v := stepKeeps_onBatch ..
    exact ((hplan.trans hv).trans hbegin).trans (stepKeeps_closeEmpty _)

/-! ### STEP_COMMIT -/

theorem commitSession_commits {s s0 s1 : State} {slot : Nat} {c : ColumnLogits} {x x0 y : Session} {g : Gen} {got : List (Nat × Nat)}
    (hx : s.session slot = some x) (hg : x.gener = some g) (hreplay : g.replay = none) (hweights : (sessionImage s x).weightsLost = false)
    (hrecover : recoverStep s x g c.how = .ok s0) (hx0 : s0.session slot = some x0)
    (hpages : allotPages s0 slot (missingPages (sessionImage s x) x0 (blocksForWrite (sessionImage s x) x0 (g.drafts.length + 1))) true =
      (s1, some got)) (hy : (addPages s1 slot got).session slot = some y) :
    commitSession s slot c = commitRun (addPages s1 slot got) slot y g (sessionImage s x).vocab
      (sampledRun y g (sessionImage s x).vocab c.logits) c.logits c.room := by
  have hnext : nextReplay g = none := by
    rw [nextReplay, hreplay]
    rfl
  simp only [commitSession, hx, hg, hweights, hnext, hrecover, hx0, Option.getD_some, hpages, hy, hreplay, Bool.false_eq_true, if_false]

/-- The close of a batch of one column is the commit of its session and the token boundary. -/
theorem stepCommit_closes {s t : State} {batch slot n : Nat} {cols : List ColumnLogits} {b : Batch} (hb : s.batch batch = some b)
    (hcolumns : b.columns = [(slot, n)]) (hready : s.pwr.ready = true) (hheld : s.pwr.heldNow = false) (hclose : atClose s b = true)
    (hclosable : closable s cols slot = true) (hmasks : maskWaiters s b = [])
    (ht : tokenBoundary (commitSession s slot (columnsTold cols slot)) batch [slot] = t) (hclear : afterClears s (.next t) = .next t) :
    exec (.stepCommit batch cols) s = .next t := by
  rw [exec_stepCommit, execStepCommit]
  simp only [hb, hcolumns, hready, hheld, hclose, hclosable, hmasks, List.isEmpty_cons, List.isEmpty_nil, List.all_cons, List.all_nil,
    List.map_cons, List.map_nil, List.foldl_cons, List.foldl_nil, Bool.and_true, Bool.not_true, Bool.or_self, Bool.false_eq_true,
    if_false, ht]
  exact hclear

theorem stepCommit_waits {s : State} {batch : Nat} {cols : List ColumnLogits} {b : Batch} (hb : s.batch batch = some b)
    (hwaits : s.pwr.heldNow = true ∨ atClose s b = false ∨ ∃ c ∈ b.columns, closable s cols c.1 = false) :
    exec (.stepCommit batch cols) s = .next s := by
  have hall : (s.pwr.heldNow || !s.pwr.ready || b.columns.isEmpty || !atClose s b ||
      !(b.columns.all fun c => closable s cols c.1)) = true := by
    rcases hwaits with h | h | ⟨c, hc, h⟩
    · simp [h]
    · simp [h]
    · have hsome : (b.columns.all fun c => closable s cols c.1) = false := List.all_eq_false.mpr ⟨c, hc, by rw [h]; decide⟩
      rw [hsome, Bool.not_false, Bool.or_true]
  rw [exec_stepCommit, execStepCommit]
  simp only [hb, hall, if_true]
  exact congrArg Host.Outcome.next (awaitClears_of_tie rfl)

/-- Every session stands but for the mark that the sampler waits for its mask; hearth, tiers and descriptors stand. -/
structure MaskMarks (s t : State) : Prop where
  hrt : t.hrt = s.hrt
  tie : t.tie = s.tie
  desc : t.desc = s.desc
  sessions : ∀ n, (t.session n).map (fun z => { z with maskWaited := false }) = (s.session n).map (fun z => { z with maskWaited := false })

theorem maskMarks_countMaskWait {s t : State} (h : MaskMarks s t) {x : Session} (hx : s.session x.slot = some x) :
    MaskMarks s (countMaskWait t x) := by
  unfold countMaskWait
  split
  · exact h
  · refine ⟨h.hrt, h.tie, h.desc, fun n => ?_⟩
    rcases Decidable.em (n = x.slot) with rfl | hn
    · have hput : ((t.onDgn fun d => { d with maskWaits := bump 16 d.maskWaits }).putSession { x with maskWaited := true }).session x.slot =
          some { x with maskWaited := true } := session_putSession_same _ { x with maskWaited := true }
      rw [hput, hx]
      rfl
    · have hput := session_putSession_other (t.onDgn fun d => { d with maskWaits := bump 16 d.maskWaits })
        (x := { x with maskWaited := true }) hn
      rw [hput]
      exact h.sessions n

theorem mem_maskWaiters {s : State} {b : Batch} {x : Session} (h : x ∈ maskWaiters s b) : s.session x.slot = some x := by
  obtain ⟨hmem, -⟩ := List.mem_filter.mp h
  obtain ⟨c, -, hc⟩ := List.mem_filterMap.mp hmem
  have hslot : x.slot = c.1 := session_slot hc
  rw [hslot, hc]

theorem maskMarks_waiters (s : State) (b : Batch) : MaskMarks s ((maskWaiters s b).foldl countMaskWait s) :=
  List.foldlRecOn (maskWaiters s b) countMaskWait (motive := MaskMarks s) ⟨rfl, rfl, rfl, fun _ => rfl⟩ fun _ ht _ hx =>
    maskMarks_countMaskWait ht (mem_maskWaiters hx)

/-- A close whose masks are not ready, or that waits for more, marks sessions at most. -/
theorem stepCommit_marks {s : State} {batch : Nat} {cols : List ColumnLogits} {b : Batch} (hb : s.batch batch = some b)
    (hmasks : maskWaiters s b ≠ []) : ∃ t, exec (.stepCommit batch cols) s = .next t ∧ MaskMarks s t := by
  have hsome : (maskWaiters s b).isEmpty = false := List.isEmpty_eq_false_iff.mpr hmasks
  by_cases hstops : (s.pwr.heldNow || !s.pwr.ready || b.columns.isEmpty || !atClose s b ||
      !(b.columns.all fun c => closable s cols c.1)) = true
  · refine ⟨s, ?_, rfl, rfl, rfl, fun _ => rfl⟩
    rw [exec_stepCommit, execStepCommit]
    simp only [hb, hstops, if_true]
    exact congrArg Host.Outcome.next (awaitClears_of_tie rfl)
  · refine ⟨_, ?_, maskMarks_waiters s b⟩
    rw [exec_stepCommit, execStepCommit]
    simp only [hb, hstops, hsome, Bool.not_false, Bool.false_eq_true, if_true, if_false]
    exact congrArg Host.Outcome.next (awaitClears_of_tie (maskMarks_waiters s b).tie)

/-- Settles O32: the commit puts the run behind the log, and what follows it keeps every log and count. -/
theorem stepCommitAppendsItsRun : Obligations.StepCommitAppendsItsRun := by
  unfold Obligations.StepCommitAppendsItsRun
  refine ⟨fun s batch cols b hb hwaits => stepCommit_waits hb hwaits, fun s batch cols b hb hmasks => ?_, ?_⟩
  · obtain ⟨t, hnext, hmarks⟩ := stepCommit_marks (cols := cols) hb hmasks
    exact ⟨t, hnext, hmarks.hrt, hmarks.tie, hmarks.desc, hmarks.sessions⟩
  · intro s s0 s1 batch slot n cols b x x0 y g got r hb hcolumns hready hheld hclose hclosable hmasks hx hg hreplay hweights hrecover
      hx0 hpages htaken hy hr hends hlate hroom
    subst hr
    have hcommit := commitSession_commits hx hg hreplay hweights hrecover hx0 hpages hy
    have hrun := commitRun_commits (slot := slot) (logits := (columnsTold cols slot).logits) hends hlate hroom
    rw [← hcommit] at hrun
    have hall := hrun.trans (stepKeeps_tokenBoundary _ batch [slot])
    have hslot : y.slot = slot := session_slot hy
    have hafter := session_putSession_at (addPages s1 slot got) (x := sessionAfter y g
      (sampledRun y g (sessionImage s x).vocab (columnsTold cols slot).logits) (detokenise (sessionImage s x).vocab y.tail
        (sampledRun y g (sessionImage s x).vocab (columnsTold cols slot).logits).tokens false).2) (n := slot) hslot
    obtain ⟨z, h, hz, hh, hlog, hgen⟩ := hall.session_some hafter rfl
    have hcommitted := congrArg Gen.committed hgen
    have hstep := congrArg Gen.step hgen
    have hadd : TakesNone s1 (addPages s1 slot got) := .of_tie (State.onSession_tie ..)
    have hclear := (hadd.trans hall.takes.of_putSession).afterClears htaken
    exact ⟨_, z, h, stepCommit_closes hb hcolumns hready hheld hclose hclosable hmasks rfl hclear, hz, hh, hlog, hcommitted, hstep⟩

end Sys2Proof.Machine

end

section
/-!
SUPPORT. Activation frames on stage 0 and on later stages (R176, R177, R220, R355).
-/

namespace Sys2Proof.Machine

/-! ### Queued items -/

/-- Items that are queued change the stoves and the count of arrivals. -/
theorem queueItems_queues (s : State) (n : Nat) (r : Role) (rank tenant : Nat) :
    (queueItems s n r rank tenant).ses = { s.ses with arrivals := s.ses.arrivals + n } ∧
      { queueItems s n r rank tenant with ses := s.ses, stv := s.stv } = s := by
  have hfold : ∀ (l : List Nat) (f : State → Nat → State),
      (∀ u k, (f u k).ses = { u.ses with arrivals := u.ses.arrivals + 1 } ∧ { f u k with ses := u.ses, stv := u.stv } = u) → ∀ u,
        (l.foldl f u).ses = { u.ses with arrivals := u.ses.arrivals + l.length } ∧ { l.foldl f u with ses := u.ses, stv := u.stv } = u := by
    intro l f hf
    induction l with
    | nil => exact fun u => ⟨rfl, rfl⟩
    | cons k l ih =>
      intro u
      obtain ⟨hses, hothers⟩ := ih (f u k)
      obtain ⟨hone, hone'⟩ := hf u k
      refine ⟨?_, ?_⟩
      · rw [List.foldl_cons, hses, hone, List.length_cons, Nat.add_right_comm, Nat.add_assoc]
      · exact (congrArg (fun v : State => { v with ses := u.ses, stv := u.stv }) hothers).trans hone'
  have hall := fun f hf => hfold (List.range n) f hf s
  rw [List.length_range] at hall
  unfold queueItems
  exact hall _ fun _ _ => ⟨rfl, rfl⟩

/-! ### Stage 0 -/

theorem batch_id {s : State} {id : Nat} {b : Batch} (h : s.batch id = some b) : b.id = id := (lookup_mem h).2

theorem batch_onBatch {s : State} {id : Nat} {b : Batch} (h : s.batch id = some b) (f : Batch → Batch) :
    (s.onBatch id f).batch id = some { f b with id := id } := by
  have hid : b.id = id := batch_id h
  have hmap := lookupBy_map Batch.id (fun b => if b.id = id then { f b with id := id } else b)
    (fun b => by split <;> simp_all) id s.ses.batches
  have hb : lookupBy Batch.id id s.ses.batches = some b := h
  rw [hb, Option.map_some, if_pos hid] at hmap
  exact hmap

theorem execActivationFrame_home {s : State} {f : ActFrame} {i : Image} (himage : imageById s f.image = some i)
    (hready : s.pwr.ready = true) (hheld : s.pwr.heldNow = false) (hstage : i.stage = 0) (htie : (stepBack s i f).tie = s.tie) :
    exec (.activationFrame f) s = .next (stepBack s i f) := by
  rw [exec_activationFrame, execActivationFrame]
  simp only [himage, hready, hheld, hstage, Bool.not_true, Bool.or_self, Bool.false_eq_true, if_false, if_true]
  exact congrArg Host.Outcome.next (awaitClears_of_tie htie)

theorem activationFrame_home {s : State} {f : ActFrame} {i : Image} {b : Batch} (himage : imageById s f.image = some i)
    (hready : s.pwr.ready = true) (hheld : s.pwr.heldNow = false) (hstage : i.stage = 0) (hb : s.batch f.batch = some b) :
    (b.image = i.slot → b.step = f.step → b.back = false → b.drafting = false →
      ∃ t, exec (.activationFrame f) s = .next t ∧ t.batch f.batch = some { b with back := true } ∧
        t.ses.table = s.ses.table ∧ t.ses.arrivals = s.ses.arrivals + 3 ∧ t.hrt = s.hrt ∧ t.img = s.img ∧ t.desc = s.desc) ∧
    ((b.image ≠ i.slot ∨ b.step ≠ f.step ∨ b.back = true ∨ b.drafting = true) → exec (.activationFrame f) s = .next s) := by
  refine ⟨fun hslot hstep hback hdrafting => ?_, fun hother => ?_⟩
  · have hback' : stepBack s i f = queueItems (s.onBatch f.batch fun b => { b with back := true }) 3 .decode 0 0 := by
      simp only [stepBack, hb, hslot, hstep, hback, hdrafting, decide_true, Bool.and_self, Bool.not_false, if_true]
    have hbatch := batch_onBatch hb fun b => { b with back := true }
    have hid : b.id = f.batch := batch_id hb
    obtain ⟨hses, hothers⟩ := queueItems_queues (s.onBatch f.batch fun b => { b with back := true }) 3 .decode 0 0
    rw [← hback'] at hses hothers
    have htie := congrArg State.tie hothers
    have hhrt := congrArg State.hrt hothers
    have himg := congrArg State.img hothers
    have hdesc := congrArg State.desc hothers
    have htable := congrArg Sessions.table hses
    have harrivals := congrArg Sessions.arrivals hses
    have hbatches := congrArg (fun t : Sessions => lookupBy Batch.id f.batch t.batches) hses
    refine ⟨_, execActivationFrame_home himage hready hheld hstage htie, ?_, htable, harrivals, hhrt, himg, hdesc⟩
    refine hbatches.trans (hbatch.trans ?_)
    rw [← hid]
  · have hsame : stepBack s i f = s := by
      simp only [stepBack, hb]
      exact if_neg (by simpa [Classical.or_iff_not_imp_left] using hother)
    have hexec := execActivationFrame_home himage hready hheld hstage (congrArg State.tie hsame)
    rwa [hsame] at hexec

/-! ### What a commit of a share leaves -/

/-- Descriptors, tiers and every other session stand. -/
structure ShareKeeps (slot : Nat) (s t : State) : Prop where
  desc : t.desc = s.desc
  tie : t.tie = s.tie
  others : ∀ n, n ≠ slot → t.session n = s.session n

theorem ShareKeeps.trans {slot : Nat} {s t u : State} (h : ShareKeeps slot s t) (k : ShareKeeps slot t u) : ShareKeeps slot s u :=
  ⟨k.desc.trans h.desc, k.tie.trans h.tie, fun n hn => (k.others n hn).trans (h.others n hn)⟩

theorem shareKeeps_onSession (s : State) (slot : Nat) (f : Session → Session) : ShareKeeps slot s (s.onSession slot f) :=
  ⟨by simp, by simp, fun _ hn => session_onSession_other s f hn⟩

theorem ShareKeeps.of_ses (slot : Nat) {s t : State} (hses : t.ses = s.ses) (hdesc : t.desc = s.desc) (htie : t.tie = s.tie) :
    ShareKeeps slot s t := ⟨hdesc, htie, fun n _ => session_of_ses hses n⟩

theorem writeContents_desc (s : State) (x : Session) (w : PageWrites) (pages : List Nat) : (writeContents s x w pages).desc = s.desc :=
  foldl_keeps State.desc _ (fun s p => by
    split
    · split <;> rfl
    · rfl) x.pages s

theorem shareKeeps_writePages (s : State) (slot : Nat) (w : PageWrites) : ShareKeeps slot s (writePages s slot w) := by
  unfold writePages
  split
  · exact .of_ses slot rfl rfl rfl
  · have hcontents : ∀ (u : State) (x : Session) (l : List Nat), ShareKeeps slot u (writeContents u x w l) := fun u x l =>
      .of_ses slot (writeContents_ses ..) (writeContents_desc ..) (writeContents_tie ..)
    exact ((hcontents ..).trans (hcontents ..)).trans (shareKeeps_onSession ..)

theorem shareKeeps_commitKv (s : State) (slot n dead : Nat) : ShareKeeps slot s (commitKv s slot n dead) := by
  unfold commitKv
  split
  · exact .of_ses slot rfl rfl rfl
  · exact (shareKeeps_onSession ..).trans (shareKeeps_writePages ..)

/-- A commit of KV keeps the log and gives the session a new pair (R140). -/
theorem commitKv_pair {s : State} {slot : Nat} {x : Session} (hx : s.session slot = some x) (n dead : Nat) :
    ∃ y, (commitKv s slot n dead).session slot = some y ∧ y.log = x.log ∧ y.wseq = x.wseq + 1 ∧ y.epoch = s.rdg.map.epoch := by
  unfold commitKv
  rw [hx]
  dsimp only
  generalize hu : s.onSession slot _ = u
  have hux : u.session slot = _ := hu ▸ session_onSession_same s _ hx
  obtain ⟨pages, hwritten⟩ := writePages_session hux _
  exact ⟨_, hwritten, rfl, rfl, rfl⟩

theorem sendPageCopies_keeps (s : State) (slot : Nat) : (sendPageCopies s slot).ses = s.ses ∧ (sendPageCopies s slot).desc = s.desc ∧
    (sendPageCopies s slot).tie = s.tie := by
  have hcopies := copyKeeps_sendPageCopies s slot
  refine ⟨?_, hcopies.desc, hcopies.tie⟩
  unfold sendPageCopies
  split
  · rfl
  · split
    · rfl
    · refine foldl_keeps State.ses _ (fun s p => ?_) _ s
      split
      · exact sendBuddy_ses ..
      · rfl

/-- Where no page is missing, room is there at once (R126). -/
theorem allotPages_nil {s : State} {slot : Nat} {x : Session} (hx : s.session slot = some x) (hfits : hearthFits s 0 false = true) :
    allotPages s slot [] true = (s, some []) := by
  have hplaces : ∀ u, placePages u (sessionImage s x) x [] = some (u, []) := fun _ => rfl
  simp only [allotPages, hx, hplaces, List.length_nil, Option.isSome_some, Bool.and_true, makeRoom, hfits, if_true, Bool.true_or]

/-! ### One record on a later stage -/

theorem withGuest_of {s : State} {r : ColumnRecord} {x : Session} (h : guestOf s r.handle = some x) (i : Image) :
    withGuest s i r = (s, x.slot) := by
  simp only [withGuest, h]

theorem beginShare_none (s : State) {r : ColumnRecord} (h : r.columns = 0) : beginShare s r = s := by
  unfold beginShare
  split
  · exact if_pos h
  · rfl

/-- Noting a batch changes the list of batches that pass only. -/
theorem notePassing_keeps (s : State) (i : Image) (f : ActFrame) : (notePassing s i f).ses.table = s.ses.table ∧
    { notePassing s i f with ses := s.ses } = s := by
  unfold notePassing
  split
  · exact ⟨rfl, rfl⟩
  · exact ⟨rfl, rfl⟩

theorem session_notePassing (s : State) (i : Image) (f : ActFrame) (n : Nat) : (notePassing s i f).session n = s.session n := by
  rw [State.session, (notePassing_keeps s i f).1, State.session]

/-- A frame of one record without columns on a later stage. -/
theorem execActivationFrame_commits {s : State} {f : ActFrame} {i : Image} {r : ColumnRecord} (himage : imageById s f.image = some i)
    (hready : s.pwr.ready = true) (hheld : s.pwr.heldNow = false) (hstage : i.stage ≠ 0) (hrecords : f.records = [r])
    (hcolumns : r.columns = 0) (htakes : TakesNone s (applyRecord s i r)) :
    exec (.activationFrame f) s = .next (notePassing (applyRecord s i r) i f) := by
  rw [exec_activationFrame, execActivationFrame]
  simp only [himage, hready, hheld, hstage, hrecords, hcolumns, beginShare_none _ hcolumns, List.foldl_cons, List.foldl_nil, List.map_cons,
    List.map_nil, List.sum_cons, List.sum_nil, Nat.add_zero, Bool.not_true, Bool.or_self, Bool.false_eq_true, if_false, if_true]
  have htie := congrArg State.tie (notePassing_keeps (applyRecord s i r) i f).2
  have hall : TakesNone s (notePassing (applyRecord s i r) i f) := htakes.trans (.of_tie htie)
  exact hall.afterClears (takenUncleared_self s)

/-- What a frame of one record without columns leaves, from what its record does. -/
theorem activationFrame_commits {s : State} {f : ActFrame} {i : Image} {r : ColumnRecord} {slot : Nat}
    (himage : imageById s f.image = some i) (hready : s.pwr.ready = true) (hheld : s.pwr.heldNow = false) (hstage : i.stage ≠ 0)
    (hrecords : f.records = [r]) (hcolumns : r.columns = 0) (h : ShareKeeps slot s (applyRecord s i r)) :
    ∃ t, exec (.activationFrame f) s = .next t ∧ ShareKeeps slot s t ∧ t.session slot = (applyRecord s i r).session slot := by
  have hothers := (notePassing_keeps (applyRecord s i r) i f).2
  have hdesc := congrArg State.desc hothers
  have htie := congrArg State.tie hothers
  exact ⟨_, execActivationFrame_commits himage hready hheld hstage hrecords hcolumns (.of_tie h.tie),
    h.trans ⟨hdesc, htie, fun n _ => session_notePassing ..⟩, session_notePassing ..⟩

/-! ### A longer, a shorter and no committed length -/

/-- Pages that are written stay where they are (R139). -/
theorem writePages_places {s : State} {slot : Nat} {x : Session} (hx : s.session slot = some x) (w : PageWrites) :
    ∃ pages, (writePages s slot w).session slot = some { x with pages := pages } ∧
      pages.map (fun p => (p.index, p.place)) = x.pages.map (fun p => (p.index, p.place)) := by
  have hslot := session_slot hx
  subst hslot
  unfold writePages
  rw [hx]
  refine ⟨_, session_onSession_same _ _ ((session_of_ses ((writeContents_ses ..).trans (writeContents_ses ..)) _).trans hx), ?_⟩
  rw [List.map_map]
  refine List.map_congr_left fun p _ => ?_
  simp only [Function.comp_apply]
  split <;> rfl

/-- A higher committed length commits under a new pair (R220). -/
theorem applyRecord_ahead {s : State} {i : Image} {r : ColumnRecord} {x : Session} (hguest : guestOf s r.handle = some x)
    (hx : s.session x.slot = some x) (hlength : x.log.length < r.length)
    (hpages : missingPages i x (blocksForWrite i x (r.length - max 1 x.log.length)) = []) (hfits : hearthFits s 0 false = true) :
    ShareKeeps x.slot s (applyRecord s i r) ∧ ∃ y, (applyRecord s i r).session x.slot = some y ∧
      y.log = x.log ++ List.replicate (r.length - x.log.length) (0, 3) ∧ y.wseq = x.wseq + 1 ∧ y.epoch = s.rdg.map.epoch := by
  have hzero : r.length ≠ 0 := by omega
  have hless : ¬r.length < x.log.length := by omega
  have hsame : r.length ≠ x.log.length := by omega
  have happly : applyRecord s i r = sendPageCopies (commitKv ((addPages s x.slot []).onSession x.slot fun x' =>
      { x' with log := x'.log ++ List.replicate (r.length - x.log.length) (0, 3) }) x.slot x.log.length) x.slot := by
    simp only [applyRecord, withGuest_of hguest, hx, hzero, hless, hsame, hpages, allotPages_nil hx hfits, if_false]
  have hadd : ShareKeeps x.slot s (addPages s x.slot []) := shareKeeps_onSession ..
  obtain ⟨pages, hadded⟩ := addPages_session hx []
  have hepoch : (addPages s x.slot []).rdg = s.rdg := State.onSession_rdg ..
  rw [happly]
  generalize addPages s x.slot [] = u at hadd hadded hepoch
  have hlog := shareKeeps_onSession u x.slot fun x' => { x' with log := x'.log ++ List.replicate (r.length - x.log.length) (0, 3) }
  have hlogged := session_onSession_same u (fun x' => { x' with log := x'.log ++ List.replicate (r.length - x.log.length) (0, 3) }) hadded
  have hrdg := State.onSession_rdg u x.slot fun x' => { x' with log := x'.log ++ List.replicate (r.length - x.log.length) (0, 3) }
  generalize u.onSession x.slot _ = v at hlog hlogged hrdg
  obtain ⟨y, hy, hylog, hywseq, hyepoch⟩ := commitKv_pair hlogged x.log.length 0
  obtain ⟨hses, hdesc, htie⟩ := sendPageCopies_keeps (commitKv v x.slot x.log.length) x.slot
  refine ⟨((hadd.trans hlog).trans (shareKeeps_commitKv ..)).trans (.of_ses _ hses hdesc htie), y, ?_, hylog, hywseq, ?_⟩
  · rw [session_of_ses hses, hy]
  · rw [hyepoch, hrdg, hepoch]

/-- A lower committed length rolls the share back (R355). -/
theorem applyRecord_behind {s : State} {i : Image} {r : ColumnRecord} {x : Session} (hguest : guestOf s r.handle = some x)
    (hx : s.session x.slot = some x) (hsome : 0 < r.length) (hlength : r.length < x.log.length) :
    ShareKeeps x.slot s (applyRecord s i r) ∧ ∃ y, (applyRecord s i r).session x.slot = some y ∧ y.log = x.log.take r.length ∧
      (∀ l ∈ y.layers, ∀ e ∈ l.slots, e.2.1 < r.length - 1) ∧
      y.pages.map (fun p => (p.index, p.place)) = x.pages.map (fun p => (p.index, p.place)) := by
  have happly : applyRecord s i r = rollbackKv s x.slot r.length := by
    simp only [applyRecord, withGuest_of hguest, hx, Nat.ne_of_gt hsome, hlength, if_false, if_true]
  rw [happly]
  simp only [rollbackKv, hx]
  generalize hu : s.putSession _ = u
  have hput : ShareKeeps x.slot s u := hu ▸ ⟨rfl, rfl, fun n hn => session_putSession_other s hn⟩
  have hux : u.session x.slot = _ := hu ▸ session_putSession_same s _
  obtain ⟨pages, hwritten, hplaces⟩ := writePages_places hux _
  refine ⟨hput.trans (shareKeeps_writePages ..), _, hwritten, rfl, fun l hl e he => ?_, hplaces⟩
  obtain ⟨l', -, rfl⟩ := List.mem_map.mp hl
  exact of_decide_eq_true (List.mem_filter.mp he).2

/-- Length 0 ends the share (R220). -/
theorem applyRecord_ends {s : State} {i : Image} {r : ColumnRecord} {x : Session} (hguest : guestOf s r.handle = some x)
    (hx : s.session x.slot = some x) (hlength : r.length = 0) :
    TakesNone s (applyRecord s i r) ∧ (applyRecord s i r).session x.slot = none := by
  have happly : applyRecord s i r =
      (freeSessionPages s x).onSess fun t => { t with table := dropKey (·.slot) x.slot t.table } := by
    simp only [applyRecord, withGuest_of hguest, hx, hlength, if_true]
  rw [happly]
  exact ⟨(moveWork_freeSessionPages s x).takes.trans (.of_tie rfl), lookupBy_dropKey_same Session.slot x.slot _⟩

/-! ### Columns on a later stage -/

/-- The state in which a frame with columns leaves for the next stage. -/
def passedOn (s : State) (i : Image) (f : ActFrame) (r : ColumnRecord) (x : Session) : State :=
  queueItems (notePassing (beginReads s x.slot r.columns) i f) (layerItems i) .decode 1 (hTenant r.handle)

theorem execActivationFrame_columns {s : State} {f : ActFrame} {i : Image} {r : ColumnRecord} {x : Session} {p : Nat}
    (himage : imageById s f.image = some i) (hready : s.pwr.ready = true) (hheld : s.pwr.heldNow = false) (hstage : i.stage ≠ 0)
    (hrecords : f.records = [r]) (hguest : guestOf s r.handle = some x) (hx : s.session x.slot = some x) (hcolumns : r.columns ≠ 0)
    (hsome : 0 < r.length) (hlength : r.length = x.log.length) (hbatch : f.batch < prefillBatch) (hnext : nextStage i = some p)
    (htie : (passedOn s i f r x).tie = s.tie) (hrdg : (passedOn s i f r x).rdg = s.rdg) :
    exec (.activationFrame f) s = .next (sendFrame (passedOn s i f r x) p 2 r.cls (.activation
      { f with epoch := s.rdg.map.epoch, residual := stageColumns i f })) := by
  have happly : applyRecord s i r = s := by
    have hlog : x.log.length ≠ 0 := by omega
    simp only [applyRecord, withGuest_of hguest, hx, hlength, hlog, Nat.lt_irrefl, if_false, if_true]
  have hbegin : beginShare s r = beginReads s x.slot r.columns := by
    simp only [beginShare, hguest, hcolumns, if_false]
  have hitems : shareItems (notePassing (beginReads s x.slot r.columns) i f) i f r.cls = passedOn s i f r x := by
    simp only [shareItems, passedOn, hrecords, List.head?_cons, Option.map_some, Option.getD_some, Nat.not_le.mpr hbatch, if_false]
  rw [exec_activationFrame, execActivationFrame]
  simp only [himage, hready, hheld, hstage, hrecords, hcolumns, happly, hbegin, hnext, List.foldl_cons, List.foldl_nil, List.map_cons,
    List.map_nil, List.sum_cons, List.sum_nil, Nat.add_zero, List.head?_cons, Option.map_some, Option.getD_some, Bool.not_true,
    Bool.or_self, Bool.false_eq_true, if_false, hitems, hrdg]
  exact congrArg Host.Outcome.next (awaitClears_of_tie ((sendFrame_tie ..).trans htie))

theorem beginReads_keeps {s : State} {slot : Nat} {x : Session} (hx : s.session slot = some x) (n : Nat) :
    (beginReads s slot n).session slot = some { x with reads := stepReads s (sessionImage s x) x n } ∧
      (beginReads s slot n).ses.arrivals = s.ses.arrivals ∧
      { beginReads s slot n with ses := s.ses, stv := s.stv } = s := by
  have hslot : x.slot = slot := session_slot hx
  subst hslot
  have hput : beginReads s x.slot n = s.putSession { x with reads := stepReads s (sessionImage s x) x n } := by
    simp only [beginReads, State.onSession, hx]
  rw [hput]
  exact ⟨session_putSession_same s { x with reads := stepReads s (sessionImage s x) x n }, rfl, rfl⟩

/-- A batch with columns is noted as it passes (Table 8.15). -/
theorem mem_passing {s : State} {i : Image} {f : ActFrame} {r : ColumnRecord} (hrecords : f.records = [r]) (hcolumns : r.columns ≠ 0)
    (hbatch : f.batch < prefillBatch) : (i.slot, f.batch, r.columns) ∈ (notePassing s i f).ses.passing := by
  simp only [notePassing, hrecords, Nat.not_le.mpr hbatch, List.map_cons, List.map_nil, List.sum_cons, List.sum_nil, Nat.add_zero,
    hcolumns, if_false]
  exact List.mem_append_right _ (List.mem_singleton_self _)

theorem notePassing_arrivals (s : State) (i : Image) (f : ActFrame) : (notePassing s i f).ses.arrivals = s.ses.arrivals := by
  unfold notePassing
  split <;> rfl

theorem passedOn_keeps (s : State) (i : Image) (f : ActFrame) (r : ColumnRecord) (x : Session) :
    (∀ n, (passedOn s i f r x).session n = (beginReads s x.slot r.columns).session n) ∧
      (passedOn s i f r x).ses.passing = (notePassing (beginReads s x.slot r.columns) i f).ses.passing ∧
      (passedOn s i f r x).ses.arrivals = (beginReads s x.slot r.columns).ses.arrivals + layerItems i ∧
      { passedOn s i f r x with ses := s.ses, stv := s.stv } = { beginReads s x.slot r.columns with ses := s.ses, stv := s.stv } := by
  have hpasses := congrArg (fun u : State => { u with ses := s.ses, stv := s.stv })
    (notePassing_keeps (beginReads s x.slot r.columns) i f).2
  have harrivals := notePassing_arrivals (beginReads s x.slot r.columns) i f
  have hsession := session_notePassing (beginReads s x.slot r.columns) i f
  unfold passedOn
  generalize notePassing (beginReads s x.slot r.columns) i f = u at *
  obtain ⟨hses, hitems⟩ := queueItems_queues u (layerItems i) .decode 1 (hTenant r.handle)
  have htable := congrArg Sessions.table hses
  have hpassing := congrArg Sessions.passing hses
  have hcount := congrArg Sessions.arrivals hses
  have hothers := congrArg (fun u : State => { u with ses := s.ses, stv := s.stv }) hitems
  refine ⟨fun n => ?_, hpassing, hcount.trans (congrArg (· + _) harrivals), hothers.trans hpasses⟩
  rw [← hsession n, State.session, htable, State.session]

theorem activationFrame_passesOn {s : State} {f : ActFrame} {i : Image} {r : ColumnRecord} {x : Session} {p : Nat}
    (himage : imageById s f.image = some i) (hready : s.pwr.ready = true) (hheld : s.pwr.heldNow = false) (hstage : i.stage ≠ 0)
    (hrecords : f.records = [r]) (hguest : guestOf s r.handle = some x) (hx : s.session x.slot = some x) (hcolumns : r.columns ≠ 0)
    (hsome : 0 < r.length) (hlength : r.length = x.log.length) (hbatch : f.batch < prefillBatch) (hnext : nextStage i = some p) :
    ∃ u, exec (.activationFrame f) s = .next (sendFrame u p 2 r.cls (.activation
        { f with epoch := s.rdg.map.epoch, residual := stageColumns i f })) ∧
      u.session x.slot = some { x with reads := stepReads s (sessionImage s x) x r.columns } ∧
      (i.slot, f.batch, r.columns) ∈ u.ses.passing ∧ u.ses.arrivals = s.ses.arrivals + layerItems i ∧
      u.desc = s.desc ∧ u.hrt = s.hrt ∧ u.tie = s.tie ∧ u.rdg = s.rdg ∧ u.blw = s.blw := by
  obtain ⟨hreads, harrivals, hbegun⟩ := beginReads_keeps hx r.columns
  have hpassing := mem_passing (s := beginReads s x.slot r.columns) (i := i) hrecords hcolumns hbatch
  obtain ⟨hsession, hpassing', harrivals', hothers⟩ := passedOn_keeps s i f r x
  rw [hbegun] at hothers
  have hdesc := congrArg State.desc hothers
  have hhrt := congrArg State.hrt hothers
  have htie := congrArg State.tie hothers
  have hrdg := congrArg State.rdg hothers
  have hblw := congrArg State.blw hothers
  refine ⟨_, execActivationFrame_columns himage hready hheld hstage hrecords hguest hx hcolumns hsome hlength hbatch hnext htie hrdg,
    (hsession _).trans hreads, hpassing' ▸ hpassing, ?_, hdesc, hhrt, htie, hrdg, hblw⟩
  rw [harrivals', harrivals]

/-- Settles O33: a record is one commit, rollback or end of its share, and a frame with columns goes on. -/
theorem activationFramesCarryCommits : Obligations.ActivationFramesCarryCommits := by
  unfold Obligations.ActivationFramesCarryCommits
  refine ⟨fun s f i b himage hready hheld hstage hb => activationFrame_home himage hready hheld hstage hb, ?_⟩
  intro s f i r x himage hready hheld hstage hrecords hguest hx
  refine ⟨?_, ?_, ?_, fun p hcolumns hsome hlength hbatch hnext =>
    activationFrame_passesOn himage hready hheld hstage hrecords hguest hx hcolumns hsome hlength hbatch hnext⟩
  · intro hcolumns hlength hpages hfits
    obtain ⟨hkeeps, y, hy, hlog, hwseq, hepoch⟩ := applyRecord_ahead hguest hx hlength hpages hfits
    obtain ⟨t, hnext, ht, hsame⟩ := activationFrame_commits himage hready hheld hstage hrecords hcolumns hkeeps
    exact ⟨t, y, hnext, hsame.trans hy, hlog, hwseq, hepoch, ht.desc, ht.others⟩
  · intro hcolumns hsome hlength
    obtain ⟨hkeeps, y, hy, hlog, hlayers, hplaces⟩ := applyRecord_behind (i := i) hguest hx hsome hlength
    obtain ⟨t, hnext, ht, hsame⟩ := activationFrame_commits himage hready hheld hstage hrecords hcolumns hkeeps
    exact ⟨t, y, hnext, hsame.trans hy, hlog, hlayers, hplaces, ht.desc, ht.tie, ht.others⟩
  · intro hcolumns hlength
    obtain ⟨htakes, hgone⟩ := applyRecord_ends (i := i) hguest hx hlength
    exact ⟨_, execActivationFrame_commits himage hready hheld hstage hrecords hcolumns htakes, (session_notePassing ..).trans hgone⟩

end Sys2Proof.Machine

end
